-- ==== Sys2Proof/Word.lean ====
section
/-! DEFINITION. The word types of the Aelaro N3 (spec/00_scope.md R1, spec/03_registers.md R61). -/

namespace Sys2Proof

/-- A 64-bit register, address or table word. -/
abbrev Word := BitVec 64
/-- One byte of memory. -/
abbrev Byte := BitVec 8
/-- A vector register, 512 bytes, byte 0 in bits 7:0 (R61). -/
abbrev VReg := BitVec 4096
/-- A predicate register, 1,024 bits (R61). -/
abbrev PReg := BitVec 1024

/-- A 256-bit command word: four 64-bit words, word 0 at the lowest address (R1, R240). -/
structure CmdWord where
  w0 : Word
  w1 : Word
  w2 : Word
  w3 : Word
  deriving DecidableEq, Repr

end Sys2Proof
end

