-- ==== Sys2Proof/Syntax.lean ====
section
/-! DEFINITION. The instructions of the Aelaro N3: one constructor for each row of spec/opcode_table.json.

The first 185 constructors are the thread instructions (spec/11_encodings.md R225-R239); their arguments are the fields
of the encoding, named as the table names them. The next 21 are the 256-bit command words (R240, R241), which carry the
whole word, because the engine that runs a command checks its reserved fields itself (R242, R351). The last 83 are the
steps of the machine's other agents (spec/95_what_each_step_holds.md); their arguments say who acts, at which cycle, and
what the outside world supplies; those that only the outside world or a timer of the power controller starts come after the
others, and constructors without arguments last. -/

namespace Sys2Proof

/-- What a sample of the power controller finds at a cell: its measured power in W, the slack of its path-delay monitors in ps,
and the ballast cycles of the sample period (R204, R207, R213). -/
structure CellSample where
  cell : Nat
  watts : Nat
  slack : Nat
  ballast : Nat
  deriving DecidableEq, Repr

/-- Who writes a privileged register: the host through BAR0 (R215) or a thread of a partition at level Y (R79). -/
inductive Writer where
  | host
  | part (p : Nat)
  deriving DecidableEq, Repr

/-- Where an uncorrectable error arises (R84). -/
inductive ErrSite where
  /-- a 64-bit word of physical memory -/
  | phys (word : Nat)
  /-- a 64-bit word of a cell's local memory -/
  | loc (cell word : Nat)
  /-- a 64-bit word of a die's commons -/
  | commons (die word : Nat)
  | sreg (sid r : Nat)
  | vreg (sid r : Nat)
  | preg (sid r : Nat)
  | acc (cell n : Nat)
  /-- a directory entry -/
  | dir (cell frame : Nat)
  deriving DecidableEq, Repr

/-- Instructions, command words and steps of the other agents. -/
inductive Instr where
  /-- ADD (R257): Writes the 64-bit wrapped sum of two scalar registers. -/
  | add (d a b : BitVec 6) (m n : Bool)
  /-- SUB (R257): Writes the 64-bit wrapped difference of two scalar registers. -/
  | sub (d a b : BitVec 6) (m n : Bool)
  /-- MUL (R257): Writes the low 64 bits of the product. -/
  | mul (d a b : BitVec 6) (m n : Bool)
  /-- MULH (R257): Writes the high half of the signed product. -/
  | mulh (d a b : BitVec 6) (m n : Bool)
  /-- MULHU (R257): Writes the high half of the unsigned product. -/
  | mulhu (d a b : BitVec 6) (m n : Bool)
  /-- DIV (R258): Signed division truncating towards zero, giving all ones for a zero divisor. -/
  | div (d a b : BitVec 6) (m n : Bool)
  /-- DIVU (R258): Unsigned division, giving all ones for a zero divisor. -/
  | divu (d a b : BitVec 6) (m n : Bool)
  /-- REM (R258): Signed remainder taking the sign of the dividend. -/
  | rem (d a b : BitVec 6) (m n : Bool)
  /-- REMU (R258): Unsigned remainder, giving the dividend for a zero divisor. -/
  | remu (d a b : BitVec 6) (m n : Bool)
  /-- AND (R257): Bitwise AND of two registers. -/
  | and (d a b : BitVec 6) (m n : Bool)
  /-- OR (R257): Bitwise OR of two registers. -/
  | or (d a b : BitVec 6) (m n : Bool)
  /-- XOR (R257): Bitwise XOR of two registers. -/
  | xor (d a b : BitVec 6) (m n : Bool)
  /-- ANDN (R257): Writes x AND NOT y. -/
  | andn (d a b : BitVec 6) (m n : Bool)
  /-- ORN (R257): Writes x OR NOT y. -/
  | orn (d a b : BitVec 6) (m n : Bool)
  /-- SHL (R259): Shifts left by an unreduced amount, giving 0 for 64 or more. -/
  | shl (d a b : BitVec 6) (m n : Bool)
  /-- SHR (R259): Logical right shift by an unreduced amount. -/
  | shr (d a b : BitVec 6) (m n : Bool)
  /-- SAR (R259): Arithmetic right shift by an unreduced amount. -/
  | sar (d a b : BitVec 6) (m n : Bool)
  /-- ROL (R259): Rotates left by the amount modulo 64. -/
  | rol (d a b : BitVec 6) (m n : Bool)
  /-- MIN (R257): Writes the signed minimum. -/
  | min (d a b : BitVec 6) (m n : Bool)
  /-- MAX (R257): Writes the signed maximum. -/
  | max (d a b : BitVec 6) (m n : Bool)
  /-- MINU (R257): Writes the unsigned minimum. -/
  | minu (d a b : BitVec 6) (m n : Bool)
  /-- MAXU (R257): Writes the unsigned maximum. -/
  | maxu (d a b : BitVec 6) (m n : Bool)
  /-- SLT (R257): Writes 1 if x is less than y as signed values. -/
  | slt (d a b : BitVec 6) (m n : Bool)
  /-- SLTU (R257): Writes 1 if x is less than y as unsigned values. -/
  | sltu (d a b : BitVec 6) (m n : Bool)
  /-- SEQ (R257): Writes 1 if the operands are equal. -/
  | seq (d a b : BitVec 6) (m n : Bool)
  /-- SNE (R257): Writes 1 if the operands differ. -/
  | sne (d a b : BitVec 6) (m n : Bool)
  /-- CLZ (R260): Counts leading zero bits. -/
  | clz (d a : BitVec 6) (m : Bool)
  /-- CTZ (R260): Counts trailing zero bits. -/
  | ctz (d a : BitVec 6) (m : Bool)
  /-- POPC (R260): Counts set bits. -/
  | popc (d a : BitVec 6) (m : Bool)
  /-- SEXT (R260): Sign-extends the low 8, 16 or 32 bits chosen by the width code. -/
  | sext (d a w : BitVec 6) (m : Bool)
  /-- ZEXT (R260): Zero-extends the low 8, 16 or 32 bits chosen by the width code. -/
  | zext (d a w : BitVec 6) (m : Bool)
  /-- BSWAP (R260): Reverses the eight bytes of a register. -/
  | bswap (d a : BitVec 6) (m : Bool)
  /-- ADDI (R261): Adds a sign-extended 13-bit immediate. -/
  | addi (d a : BitVec 6) (m : Bool) (i : BitVec 13)
  /-- ANDI (R261): ANDs with a sign-extended immediate. -/
  | andi (d a : BitVec 6) (m : Bool) (i : BitVec 13)
  /-- ORI (R261): ORs with a sign-extended immediate. -/
  | ori (d a : BitVec 6) (m : Bool) (i : BitVec 13)
  /-- XORI (R261): XORs with a sign-extended immediate. -/
  | xori (d a : BitVec 6) (m : Bool) (i : BitVec 13)
  /-- SLTI (R261): Signed compare with an immediate. -/
  | slti (d a : BitVec 6) (m : Bool) (i : BitVec 13)
  /-- SLTUI (R261): Unsigned compare with a sign-extended immediate. -/
  | sltui (d a : BitVec 6) (m : Bool) (i : BitVec 13)
  /-- SHLI (R262): Shifts left by a constant from 0 to 63. -/
  | shli (d a : BitVec 6) (m : Bool) (h : BitVec 6)
  /-- SHRI (R262): Logical right shift by a constant. -/
  | shri (d a : BitVec 6) (m : Bool) (h : BitVec 6)
  /-- SARI (R262): Arithmetic right shift by a constant. -/
  | sari (d a : BitVec 6) (m : Bool) (h : BitVec 6)
  /-- LUI (R263): Loads a signed count of 4 KiB units. -/
  | lui (d : BitVec 6) (i : BitVec 20)
  /-- PCREL (R263): Adds a signed count of 4 KiB units to the PC. -/
  | pcrel (d : BitVec 6) (i : BitVec 20)
  /-- LEA (R264): Computes a scaled base-plus-offset address without accessing memory. -/
  | lea (d b : BitVec 6) (z : BitVec 2) (y : Bool) (o : BitVec 11)
  /-- B_EQ (R266): Branches if the registers are equal. -/
  | bEq (a b : BitVec 6) (o : BitVec 11)
  /-- B_NE (R266): Branches if the registers differ. -/
  | bNe (a b : BitVec 6) (o : BitVec 11)
  /-- B_LT (R266): Branches if a is less than b as signed values. -/
  | bLt (a b : BitVec 6) (o : BitVec 11)
  /-- B_GE (R266): Branches if a is at least b as signed values. -/
  | bGe (a b : BitVec 6) (o : BitVec 11)
  /-- B_LTU (R266): Branches if a is less than b as unsigned values. -/
  | bLtu (a b : BitVec 6) (o : BitVec 11)
  /-- B_GEU (R266): Branches if a is at least b as unsigned values. -/
  | bGeu (a b : BitVec 6) (o : BitVec 11)
  /-- J (R267): Jumps PC-relative. -/
  | j (o : BitVec 26)
  /-- JAL (R267): Jumps PC-relative and writes the link to s1. -/
  | jal (o : BitVec 26)
  /-- JALR (R267): Jumps to a register target after checking alignment, and writes the link. -/
  | jalr (d a : BitVec 6)
  /-- RET (R269): Reads the target, checks alignment, marks CVMASK registers dead, and jumps. -/
  | ret (a : BitVec 6)
  /-- CALL (R269): Marks CVMASK registers dead, writes the link to s1, and jumps. -/
  | call (o : BitVec 20)
  /-- LOOP (R270): Decrements a count register and branches while the count is non-zero. -/
  | loop (a : BitVec 6) (o : BitVec 14)
  /-- LD (R276): Zero-extending load with a scaled offset. -/
  | ld (d b : BitVec 6) (z : BitVec 2) (y : Bool) (o : BitVec 11)
  /-- ST (R276): Store with a scaled offset. -/
  | st (d b : BitVec 6) (z : BitVec 2) (y : Bool) (o : BitVec 11)
  /-- LD_S (R279): Sign-extending load through the base register alone; with S = 0 the plain zero-extending one. -/
  | ldS (d b : BitVec 6) (z : BitVec 2) (y e : Bool)
  /-- LD_ACQ (R279): Acquire load at a scope, optionally sign-extending. -/
  | ldAcq (d b : BitVec 6) (z : BitVec 2) (y : Bool) (s : BitVec 3) (e : Bool)
  /-- ST_REL (R279): Release store at a scope. -/
  | stRel (d b : BitVec 6) (z : BitVec 2) (y : Bool) (s : BitVec 3)
  /-- LDS (R280): Synchronised load that takes a full word and empties it. -/
  | lds (d b : BitVec 6) (y : Bool)
  /-- STS (R280): Synchronised store that fills an empty word. -/
  | sts (d b : BitVec 6) (y : Bool)
  /-- LDW (R280): Waits for a full word and reads it, leaving it full. -/
  | ldw (d b : BitVec 6) (y : Bool)
  /-- FEFILL (R280): Writes a word and sets it full unconditionally. -/
  | fefill (d b : BitVec 6) (y : Bool)
  /-- FEEMPTY (R280): Sets a word's full bit to 0. -/
  | feempty (b : BitVec 6) (y : Bool)
  /-- FEQ (R280): Reads a word's full bit. -/
  | feq (d b : BitVec 6) (y : Bool)
  /-- AMO_ADD (R283): Atomic integer add that returns the old value. -/
  | amoAdd (d a : BitVec 6) (m z q r : Bool) (s : BitVec 3)
  /-- AMO_AND (R283): Atomic AND. -/
  | amoAnd (d a : BitVec 6) (m z q r : Bool) (s : BitVec 3)
  /-- AMO_OR (R283): Atomic OR. -/
  | amoOr (d a : BitVec 6) (m z q r : Bool) (s : BitVec 3)
  /-- AMO_XOR (R283): Atomic XOR. -/
  | amoXor (d a : BitVec 6) (m z q r : Bool) (s : BitVec 3)
  /-- AMO_MIN (R283): Atomic signed minimum. -/
  | amoMin (d a : BitVec 6) (m z q r : Bool) (s : BitVec 3)
  /-- AMO_MAX (R283): Atomic signed maximum. -/
  | amoMax (d a : BitVec 6) (m z q r : Bool) (s : BitVec 3)
  /-- AMO_MINU (R283): Atomic unsigned minimum. -/
  | amoMinu (d a : BitVec 6) (m z q r : Bool) (s : BitVec 3)
  /-- AMO_MAXU (R283): Atomic unsigned maximum. -/
  | amoMaxu (d a : BitVec 6) (m z q r : Bool) (s : BitVec 3)
  /-- AMO_SWAP (R283): Atomic swap. -/
  | amoSwap (d a : BitVec 6) (m z q r : Bool) (s : BitVec 3)
  /-- AMO_FADD (R283): Atomic F32 add rounded under rn, raising no flag. -/
  | amoFadd (d a : BitVec 6) (m q r : Bool) (s : BitVec 3)
  /-- CAS (R285): Compare-and-swap that returns the old value. -/
  | cas (d a b : BitVec 6) (z q r : Bool) (s : BitVec 3)
  /-- LINE_RD (R286): Reads a 128-B line and its version stamp at the home slice. -/
  | lineRd (d : BitVec 5) (a : BitVec 6) (q : Bool) (s : BitVec 3)
  /-- LINE_CST (R287): Writes up to four lines atomically if their stamps match. -/
  | lineCst (d a b : BitVec 6) (n : BitVec 2) (r : Bool) (s : BitVec 3)
  /-- BLK_RD (R288): Copies a block of 64-B units from the commons into own-cell local memory, optionally turn-atomic. -/
  | blkRd (d a b : BitVec 6) (t : Bool) (s : BitVec 3)
  /-- BLK_WR (R288): Copies a block of 64-B units from own-cell local memory into the commons, optionally turn-atomic. -/
  | blkWr (d a b : BitVec 6) (t : Bool) (s : BitVec 3)
  /-- FENCE (R292): Holds the next issue until the chosen kinds of earlier access are done at the scope. -/
  | fence (k : BitVec 2) (s : BitVec 3)
  /-- CINV (R293): Removes a line from the L1 and invalidates a clean remote replica. -/
  | cinv (a : BitVec 6)
  /-- CWB (R293): Forwards a remote-homed line's outstanding writes to its home. -/
  | cwb (a : BitVec 6)
  /-- PREF (R293): Prefetches a line into the L1. -/
  | pref (a : BitVec 6)
  /-- PREF_W (R293): Brings a line into its slice on the issuing die. -/
  | prefW (a : BitVec 6)
  /-- SEND (R300): Sends a scalar value to a register of a named thread slot. -/
  | send (a b : BitVec 6) (m n : Bool)
  /-- SEND_V (R300): Sends a vector register to a named thread slot. -/
  | sendV (a : BitVec 6) (b : BitVec 5) (m n : Bool)
  /-- SEND_P (R300): Sends a predicate to a named thread slot. -/
  | sendP (a : BitVec 6) (b : BitVec 3) (m n : Bool)
  /-- TAKE (R148): Gaffer removes the oldest record of the highest non-empty inbox level, or returns 0. -/
  | take (d : BitVec 6)
  /-- START (R149): Gaffer reads a record, checks it, and starts or resumes it in a servitor slot. -/
  | start (a b : BitVec 6) (m n : Bool)
  /-- REAP (R152): Collects a final status, frees the slot's registers and claims, and writes the reap word. -/
  | reap (d a : BitVec 6) (m : Bool)
  /-- KILL (R153): Asks to stop a servitor slot of a named generation. -/
  | kill (a b : BitVec 6) (m n : Bool)
  /-- RETIRE (R297): Ends the task with a failure code once its drains are done. -/
  | retire (a : BitVec 6) (m : Bool)
  /-- MIGRATE (R297): Asks to move the thread to a named slot of another core. -/
  | migrate (a : BitVec 6) (m : Bool)
  /-- LNCH (R299): Appends a launch entry to a device-produced launch queue and advances TAIL, as a release. -/
  | lnch (a b : BitVec 6) (m n : Bool)
  /-- ENQ_M (R303): Checks a quad command word and appends it to the core's matrix queue. -/
  | enqM (a : BitVec 6) (m : Bool)
  /-- ENQ_C (R303): Checks a quad command word and appends it to the core's copy queue. -/
  | enqC (a : BitVec 6) (m : Bool)
  /-- FORK (R304): Starts matrix, copy and vector programs on the core's sequencers. -/
  | fork (d a b : BitVec 6) (m n : Bool)
  /-- RDV (R307): Waits for the forked programs to end and writes the rdv word. -/
  | rdv (d : BitVec 6)
  /-- ACCRD (R308): Reads four rows of a claimed accumulator into a vector register. -/
  | accrd (d : BitVec 5) (c k : BitVec 3)
  /-- ACCWR (R308): Writes four rows of a claimed accumulator from a vector register. -/
  | accwr (d : BitVec 5) (c k : BitVec 3)
  /-- BAR_INIT (R302): Sets a barrier's member count and resets its open phase. -/
  | barInit (a b : BitVec 6) (m n : Bool)
  /-- BAR_ARR (R302): Sends one arrival for a phase to the barrier unit, as a release. -/
  | barArr (a : BitVec 6) (m : Bool)
  /-- BAR_WAIT (R302): Parks until the named phase has been released. -/
  | barWait (a : BitVec 6) (m : Bool)
  /-- BAR_WAIT_DROP (R302): As bar.wait, hiding the slot's gear request while parked. -/
  | barWaitDrop (a : BitVec 6) (m : Bool)
  /-- TDQ (R309): Reads a frame's directory entry. -/
  | tdq (d a : BitVec 6) (m : Bool)
  /-- TDSET (R310): Sets a frame's FMT and recomputes its class from its contents. -/
  | tdset (a b : BitVec 6) (m n : Bool)
  /-- TDZERO (R310): Zeroes a run of frames through the directory in one cycle. -/
  | tdzero (a b : BitVec 6) (m n : Bool)
  /-- PUB (R312): Creates, flips or removes a parison pair entry, as a release. -/
  | pub (a : BitVec 6) (s : BitVec 3) (m : Bool)
  /-- GEAR (R313): Writes the slot's gear request. -/
  | gear (i : BitVec 13)
  /-- OPHINT (R313): Sets the current phase, ends the previous phase's measurement and looks up its operating point. -/
  | ophint (i : BitVec 13)
  /-- VADD (R327): Element-wise add under the group's rounding mode. -/
  | vadd (r : BitVec 3) (d a b : BitVec 5) (p : BitVec 3) (f : BitVec 2)
  /-- VSUB (R327): Element-wise subtract. -/
  | vsub (r : BitVec 3) (d a b : BitVec 5) (p : BitVec 3) (f : BitVec 2)
  /-- VMUL (R327): Element-wise multiply. -/
  | vmul (r : BitVec 3) (d a b : BitVec 5) (p : BitVec 3) (f : BitVec 2)
  /-- VFMA (R327): Fused multiply-add into the destination. -/
  | vfma (r : BitVec 3) (d a b : BitVec 5) (p : BitVec 3) (f : BitVec 2)
  /-- VFMS (R327): Fused multiply-subtract of the destination. -/
  | vfms (r : BitVec 3) (d a b : BitVec 5) (p : BitVec 3) (f : BitVec 2)
  /-- VDIV (R327): Correctly rounded element-wise divide. -/
  | vdiv (r : BitVec 3) (d a b : BitVec 5) (p : BitVec 3) (f : BitVec 2)
  /-- VSQRT (R327): Correctly rounded square root. -/
  | vsqrt (r : BitVec 3) (d a : BitVec 5) (p : BitVec 3) (f : BitVec 2)
  /-- VRCP (R327): Correctly rounded reciprocal. -/
  | vrcp (r : BitVec 3) (d a : BitVec 5) (p : BitVec 3) (f : BitVec 2)
  /-- VRSQRT (R327): Correctly rounded reciprocal square root. -/
  | vrsqrt (r : BitVec 3) (d a : BitVec 5) (p : BitVec 3) (f : BitVec 2)
  /-- VSUM (R336): Sums the active lanes by the fixed tree. -/
  | vsum (r : BitVec 3) (d a : BitVec 5) (p : BitVec 3) (f : BitVec 2)
  /-- VDOT (R337): Accumulates a block dot product into an F32 value, one chunk at a time. -/
  | vdot (r : BitVec 3) (d a b : BitVec 5) (p : BitVec 3) (f : BitVec 2)
  /-- VCVT (R332): Converts elements from VFMT to the destination format. -/
  | vcvt (r : BitVec 3) (d a c : BitVec 5) (p : BitVec 3) (f : BitVec 2)
  /-- VCVT_SAT (R332): Saturating conversion. -/
  | vcvtSat (r : BitVec 3) (d a c : BitVec 5) (p : BitVec 3) (f : BitVec 2)
  /-- VWIDEN (R333): Widens elements into a register group. -/
  | vwiden (r : BitVec 3) (d a c : BitVec 5) (f : BitVec 2)
  /-- VNARROW (R333): Narrows a register group into one register. -/
  | vnarrow (r : BitVec 3) (d a c : BitVec 5) (f : BitVec 2)
  /-- VNARROW_SAT (R333): Saturating narrowing. -/
  | vnarrowSat (r : BitVec 3) (d a c : BitVec 5) (f : BitVec 2)
  /-- VQNT (R334): Quantises to a scaled pair, choosing block scales. -/
  | vqnt (r : BitVec 3) (d a c : BitVec 5) (f : BitVec 2)
  /-- VSCALE (R335): Multiplies each lane by its block's E8M0 scale. -/
  | vscale (r : BitVec 3) (d a b : BitVec 5) (p : BitVec 3) (f : BitVec 2)
  /-- VMIN (R327): Element-wise minimum. -/
  | vmin (d a b : BitVec 5) (p : BitVec 3) (f : BitVec 2)
  /-- VMAX (R327): Element-wise maximum. -/
  | vmax (d a b : BitVec 5) (p : BitVec 3) (f : BitVec 2)
  /-- VABS (R327): Element-wise absolute value. -/
  | vabs (d a : BitVec 5) (p : BitVec 3) (f : BitVec 2)
  /-- VNEG (R327): Element-wise negation. -/
  | vneg (d a : BitVec 5) (p : BitVec 3) (f : BitVec 2)
  /-- VMAXR (R336): Maximum over the active lanes by the fixed tree. -/
  | vmaxr (d a : BitVec 5) (p : BitVec 3) (f : BitVec 2)
  /-- VMINR (R336): Minimum over the active lanes by the fixed tree. -/
  | vminr (d a : BitVec 5) (p : BitVec 3) (f : BitVec 2)
  /-- VEXP2 (R328): Faithfully rounded base-2 exponential. -/
  | vexp2 (d a : BitVec 5) (p : BitVec 3) (f : BitVec 2)
  /-- VLOG2 (R328): Faithfully rounded base-2 logarithm. -/
  | vlog2 (d a : BitVec 5) (p : BitVec 3) (f : BitVec 2)
  /-- VEXP (R328): Exponential built from vexp2. -/
  | vexp (d a : BitVec 5) (p : BitVec 3) (f : BitVec 2)
  /-- VLOG (R328): Natural logarithm built from vlog2. -/
  | vlog (d a : BitVec 5) (p : BitVec 3) (f : BitVec 2)
  /-- VTANH (R328): Hyperbolic tangent built from vsigm. -/
  | vtanh (d a : BitVec 5) (p : BitVec 3) (f : BitVec 2)
  /-- VSIGM (R328): Logistic function built from vexp2. -/
  | vsigm (d a : BitVec 5) (p : BitVec 3) (f : BitVec 2)
  /-- VCMP (R329): Compares lanes and writes predicate bits. -/
  | vcmp (d : BitVec 3) (a b : BitVec 5) (p : BitVec 3) (f : BitVec 2) (c : BitVec 3)
  /-- VSEL (R330): Selects lanes from two registers by predicate. -/
  | vsel (d a b : BitVec 5) (p : BitVec 3) (f : BitVec 2)
  /-- VAND (R331): Lane-wise AND. -/
  | vand (d a b : BitVec 5) (p : BitVec 3) (f : BitVec 2)
  /-- VOR (R331): Lane-wise OR. -/
  | vor (d a b : BitVec 5) (p : BitVec 3) (f : BitVec 2)
  /-- VXOR (R331): Lane-wise XOR. -/
  | vxor (d a b : BitVec 5) (p : BitVec 3) (f : BitVec 2)
  /-- VNOT (R331): Lane-wise NOT. -/
  | vnot (d a : BitVec 5) (p : BitVec 3) (f : BitVec 2)
  /-- VSHL (R331): Lane-wise left shift. -/
  | vshl (d a b : BitVec 5) (p : BitVec 3) (f : BitVec 2)
  /-- VSHR (R331): Lane-wise logical right shift. -/
  | vshr (d a b : BitVec 5) (p : BitVec 3) (f : BitVec 2)
  /-- VSAR (R331): Lane-wise arithmetic right shift. -/
  | vsar (d a b : BitVec 5) (p : BitVec 3) (f : BitVec 2)
  /-- VPERM (R338): Permutes lanes by an index operand. -/
  | vperm (d a b : BitVec 5) (p : BitVec 3) (f : BitVec 2)
  /-- VBCAST (R339): Broadcasts a scalar into the active lanes. -/
  | vbcast (d a : BitVec 5) (p : BitVec 3) (f : BitVec 2)
  /-- VEXT (R339): Extracts one lane into a scalar register. -/
  | vext (d a b : BitVec 5) (f : BitVec 2)
  /-- VINS (R339): Inserts a scalar into one lane. -/
  | vins (d a b : BitVec 5) (f : BitVec 2)
  /-- VLOOP (R346): Sets a replay count and opens capture in the loop buffer. -/
  | vloop (a : BitVec 5)
  /-- PAND (R340): Predicate AND. -/
  | pand (d a b : BitVec 3)
  /-- POR (R340): Predicate OR. -/
  | por (d a b : BitVec 3)
  /-- PXOR (R340): Predicate XOR. -/
  | pxor (d a b : BitVec 3)
  /-- PNOT (R340): Predicate NOT. -/
  | pnot (d a : BitVec 3)
  /-- PCNT (R340): Counts the set bits of a predicate into a scalar register. -/
  | pcnt (d : BitVec 5) (a : BitVec 3)
  /-- PFIRST (R340): Writes the index of a predicate's lowest set bit. -/
  | pfirst (d : BitVec 5) (a : BitVec 3)
  /-- VLD (R341): Loads 512 B into a vector register. -/
  | vld (d a b : BitVec 5)
  /-- VST (R341): Stores 512 B from a vector register. -/
  | vst (d a b : BitVec 5)
  /-- VLDS (R341): Strided element load. -/
  | vlds (d a b : BitVec 5) (p : BitVec 3) (f : BitVec 2)
  /-- VGATH (R341): Gathers elements by an index group. -/
  | vgath (d a b : BitVec 5) (p : BitVec 3) (f : BitVec 2)
  /-- VSCAT (R341): Scatters elements by an index group. -/
  | vscat (d a b : BitVec 5) (p : BitVec 3) (f : BitVec 2)
  /-- CSRR (R314): Reads a CSR after its level check. -/
  | csrr (d : BitVec 6) (c : BitVec 14)
  /-- CSRW (R314): Writes a CSR and returns its old value. -/
  | csrw (d a : BitVec 6) (c : BitVec 12)
  /-- CSRS (R314): Sets bits of a CSR and returns its old value. -/
  | csrs (d a : BitVec 6) (c : BitVec 12)
  /-- CSRC (R314): Clears bits of a CSR and returns its old value. -/
  | csrc (d a : BitVec 6) (c : BitVec 12)
  /-- TRAP (R315): Takes a SOFTWARE trap with the immediate in TVAL. -/
  | trap (i : BitVec 12)
  /-- BRK (R315): Takes a BREAK trap with the immediate in TVAL. -/
  | brk (i : BitVec 12)
  /-- TLBSD (R317): Removes translations and L1 lines of an ASID range on the partition's dies, then completes. -/
  | tlbsd (a : BitVec 6)
  /-- WHEEL_LOAD (R318): Reads a table image into the inactive wheel set. -/
  | wheelLoad (a : BitVec 6)
  /-- PART_QUERY (R220): Reports the BUSY conditions of the named partitions without changing them. -/
  | partQuery (d a : BitVec 6)
  /-- PART_QUIESCE (R220): Quiesces the named partitions if none is busy. -/
  | partQuiesce (d a : BitVec 6)
  /-- PART_COMMIT (R220): Checks and commits the named partitions, scrubbing, rekeying and starting their gaffers. -/
  | partCommit (d a : BitVec 6)
  /-- MMA (R352): Matrix command issued from the queue head that multiplies the ring head tiles into an accumulator. -/
  | mma (w : CmdWord)
  /-- MMZ (R352): Matrix command that clears the accumulator and its flags, then multiplies. -/
  | mmz (w : CmdWord)
  /-- ACCLD (R353): Loads a tile from local memory into an accumulator as F32. -/
  | accld (w : CmdWord)
  /-- ACCST (R353): Converts an accumulator and stores it to local memory, filling a token. -/
  | accst (w : CmdWord)
  /-- ACCCLR (R353): Clears an accumulator and its flags. -/
  | accclr (w : CmdWord)
  /-- COPY (R356): Box copy with an optional transform, sent to the streamer that owns the source. -/
  | copy (w : CmdWord)
  /-- COPY_RING_APPEND (R360): Copy with the ring-append transform that reserves and fills whole slots of an operand ring. -/
  | copyRingAppend (w : CmdWord)
  /-- COPY_RED (R361): Reducing copy that adds each source element into its destination exactly once. -/
  | copyRed (w : CmdWord)
  /-- COPY_MC (R363): Multicasts elements to one offset in several cells of the cluster row. -/
  | copyMc (w : CmdWord)
  /-- FILL (R364): Writes one value into every element of a destination box. -/
  | fill (w : CmdWord)
  /-- GATH (R365): Gathers elements by an index list. -/
  | gath (w : CmdWord)
  /-- SCAT (R365): Scatters elements by an index list. -/
  | scat (w : CmdWord)
  /-- COLL (R366): Contributes an F32 array to a column-router reduction. -/
  | coll (w : CmdWord)
  /-- PUBC (R367): Flips a parison pair after every earlier copy command has completed. -/
  | pubc (w : CmdWord)
  /-- TCLASS (R367): Sets FMT on a run of frames and reclassifies them. -/
  | tclass (w : CmdWord)
  /-- SEQ_JMP (R370): Redirects a sequencer's fetch. -/
  | seqJmp (w : CmdWord)
  /-- SEQ_LOOP (R370): Repeats a body of command words with a stepping index register. -/
  | seqLoop (w : CmdWord)
  /-- SEQ_WAIT_OWN (R370): Waits until every earlier command of the program has completed. -/
  | seqWaitOwn (w : CmdWord)
  /-- SEQ_WAIT_SIG (R370): Waits until a signal counter reaches a value. -/
  | seqWaitSig (w : CmdWord)
  /-- SEQ_SIG (R370): Raises a signal counter after the program's earlier commands have completed. -/
  | seqSig (w : CmdWord)
  /-- SEQ_END (R370): Waits for the program's commands to complete, then ends the program with status 1. -/
  | seqEnd (w : CmdWord)
  /-- SEQUENCER_FETCH (R370): A forked command sequencer fetches the next command word, adjusts it by the loop indices, checks it and enqueues it. -/
  | sequencerFetch (cell core : Nat) (copyProg : Bool)
  /-- FORKED_VECTOR_ISSUE (R305): A forked vector program issues its next instruction into the core's vector queue at the forking slot's issue cycle. -/
  | forkedVectorIssue (cell core : Nat)
  /-- VECTOR_START (R324): At a core's vector window the oldest ready queue entry starts on the datapath and reads its sources. -/
  | vectorStart (cell t : Nat)
  /-- VECTOR_COMPLETE (R325): A vector instruction writes its result as an arrival and ORs its flags into FFLAGS. -/
  | vectorComplete (cell core n : Nat)
  /-- LOOP_BUFFER_REPLAY (R347): The loop buffer appends the next body instruction of the replay to the vector queue. -/
  | loopBufferReplay (sid : Nat)
  /-- MATRIX_UPDATE (R352): N + 2 cc after issue the matrix operation writes C, ORs its flags, unlocks, pops its ring slots and fills its token. -/
  | matrixUpdate (cell : Nat)
  /-- LOCAL_PAIRING (R90): A requester position meets a local bank and serves its oldest unit for it. -/
  | localPairing (cell pos t : Nat)
  /-- LOAD_RETURN (R66): A returned load or atomic result is written into its register as an arrival. -/
  | loadReturn (id : Nat)
  /-- TOKEN_FILL (R350): A command's or block's status word is written into its token register as an arrival and release. -/
  | tokenFill (id : Nat)
  /-- ACKNOWLEDGEMENT (R192): A store, atomic, block or message is acknowledged and UNACK falls. -/
  | acknowledgement (id : Nat)
  /-- COMMONS_QUEUE_ENTRY (R96): A commons request enters its position's queue 2 fc after the next fabric edge. -/
  | commonsQueueEntry (id : Nat)
  /-- COMMONS_PAIRING (R95): A core position or port lane meets a commons bank and serves one chosen unit. -/
  | commonsPairing (die pos t : Nat)
  /-- TURN_BOUNDARY (R98): At a turn boundary turn-atomic blocks commit and reserve staging entries, and pending swaps and bank flips take effect. -/
  | turnBoundary (die fcyc : Nat)
  /-- REMOTE_ACCESS_ARRIVAL (R92): A remote local access reaches the target's copy port and is admitted or refused by the windows. -/
  | remoteAccessArrival (id : Nat)
  /-- MESSAGE_ARRIVAL (R300): A send message is judged at its target and accepted, refused or NACKed. -/
  | messageArrival (id : Nat)
  /-- MESSAGE_RESPONSE (R300): The sender receives acceptance, refusal or NACK, and goes on, retries or traps UNDELIVERABLE. -/
  | messageResponse (id : Nat)
  /-- TRANSLATION_WALK (R108): The translation unit walks the tables and returns a leaf, a PAGE denial or a demand fault. -/
  | translationWalk (id : Nat)
  /-- FAULT_RECORD_WRITE (R109): A fault record is written at TAIL once the fault queue has room and is enabled. -/
  | faultRecordWrite (p : Nat)
  /-- SLICE_WRITE_SERIALISE (R101): A write is serialised at a slice, invalidating holders and replicas before acknowledgement. -/
  | sliceWriteSerialise (id : Nat)
  /-- SLICE_READ_MISS (R102): A read miss allocates, merges into or bypasses a miss register at the slice. -/
  | sliceReadMiss (id : Nat)
  /-- SLICE_ATOMIC (R103): An atomic, cas or line operation is performed at the home slice in arrival order. -/
  | sliceAtomic (id : Nat)
  /-- REMOTE_WRITE_FORWARD (R131): A die forwards a replica's write to its home slice. -/
  | remoteWriteForward (die home : Nat)
  /-- LAUNCH_READ (R142): The graph engine reads and checks a launch entry, its graph and node table, or rejects it. -/
  | launchRead (p : Nat)
  /-- RECORD_PLACE (R145): The graph engine writes a ready node's next record and delivers it to an inbox once the level has room. -/
  | recordPlace (p : Nat)
  /-- CONTINUATION_PLACE (R147): The graph engine places a suspended record by the throughput rule. -/
  | continuationPlace (p : Nat)
  /-- POOL_GRANT (R149): A start parked on the register pools is granted in order of first attempt. -/
  | poolGrant (cell : Nat)
  /-- TASK_END (R150): After its drains, a retiring, trapped or killed task ends, releases, performs its join and raises the node counter. -/
  | taskEnd (sid : Nat)
  /-- PUNTY_SPILL (R159): Once the slot drains, the punty writes the save area and marks the record suspended. -/
  | puntySpill (sid : Nat)
  /-- MIGRATION_SEND (R161): When its conditions hold, a thread's register context is sent to a target slot. -/
  | migrationSend (sid : Nat)
  /-- MIGRATION_ARRIVAL (R161): The register context starts the thread in the target slot under a new generation. -/
  | migrationArrival (id : Nat)
  /-- RING_RESERVE (R157): A ring-append copy reserves slots at the copy port once enough are free. -/
  | ringReserve (cell serial : Nat)
  /-- RING_LANDING (R157): A slot's data and scale strip both land and COUNT rises over the unbroken run. -/
  | ringLanding (cell serial n : Nat) (scale : Bool)
  /-- COPY_CHUNK (R359): A copy chunk is translated, checked, parked or written at its destination. -/
  | copyChunk (cell serial chunk : Nat)
  /-- REDUCE_PIECE_APPLY (R362): A reducing piece is applied at its owner unless its applied-sequence bit is set. -/
  | reducePieceApply (cell serial chunk piece : Nat)
  /-- COLL_ARRIVAL (R366): A contribution reaches its column tree, whose nodes add when both children are present. -/
  | collArrival (cell serial : Nat)
  /-- COLL_RESULT_WRITE (R366): The completed tree's result is written at DST by contributor 0's copy port. -/
  | collResultWrite (die col rid : Nat)
  /-- BARRIER_ARRIVAL (R202): An arrival reaches the barrier unit and is stamped. -/
  | barrierArrival (p bar : Nat)
  /-- BARRIER_RELEASE (R203): At the release tick waiting slots are released, DROP clears and the phase advances. -/
  | barrierRelease (p bar : Nat)
  /-- GEAR_EVALUATE (R197): At the end of a cell cycle WANT is evaluated and the gear state machine advances. -/
  | gearEvaluate (cell : Nat)
  /-- HOP_END (R198): 320 ns after the stop the new clock's first edge arrives, the pair is rewritten and the port FIFO drains. -/
  | hopEnd (cell : Nat)
  /-- CLOCK_STEP_END (R189): A cell or fabric frequency step ends at the new clock's first edge, rewriting the pair. -/
  | clockStepEnd (fabric : Bool) (n : Nat)
  /-- PUNTY_RESTORE (R159): The punty ends its restore of a suspended record's save area, so the slot issues or ends with final status 2. -/
  | puntyRestore (sid : Nat)
  /-- LINE_FILLED_FROM_MEMORY (R102): Memory returns a line to a slice's miss register, which fills the line with the counter's stamp and answers the merged reads. -/
  | lineFilledFromMemory (die line : Nat)
  /-- MEMORY_WRITE_ACKNOWLEDGED (R102): Memory acknowledges a write that the slice serialised, and its entry leaves the address filter, releasing waiting bypass reads. -/
  | memoryWriteAcknowledged (die line : Nat)
  /-- FQDONE_WRITE (R109): Writing a record index answers it, retrying or denying every access and chunk parked on it. -/
  | fqdoneWrite (by_ : Writer) (p : Nat) (v : Word)
  /-- HOST_CXL_ACCESS (R133): A host read or write of device memory enters at the host-link agent and is serialised at the home slice. -/
  | hostCxlAccess (write : Bool) (pa n : Nat) (v : Word)
  /-- LQTAIL_WRITE (R140): The launch queue doorbell is accepted unless it overfills the ring or DEV is 1. -/
  | lqtailWrite (by_ : Writer) (p q : Nat) (v : Word)
  /-- LQSIZE_WRITE (R140): A store to LQSIZE or LQBASE takes effect only while EN is 0, or when it only clears EN. -/
  | lqsizeWrite (by_ : Writer) (p q : Nat) (base : Bool) (v : Word)
  /-- AGE_PROMOTION (R31): An inbox record older than the age limit is promoted one level. -/
  | agePromotion (cell : Nat)
  /-- FORWARD_EXPIRY (R162): A forwarding entry's life of 4,096 fc ends and it becomes invalid. -/
  | forwardExpiry (cell core n fc : Nat)
  /-- PEER_CHUNK_RECEIVE (R217): An Ethernet engine admits or refuses an arriving chunk and applies it once. `red` is 0 for written
  bytes, 1 to 4 for a reducing chunk, 5 + n for the request of a copy that reads n bytes here. -/
  | peerChunkReceive (peer srcCell serial chunk : Nat) (addr : BitVec 128) (udp : BitVec 16) (rpart : Nat) (va : Word) (red : Nat) (bytes : List Byte)
  /-- PEER_ACK_RECEIVE (R218): A peer acknowledges a chunk as performed, or answers with a failure: `status` holds CODE and FLAGS as
  R350 lays them out, `bytes` what was read for the chunk. -/
  | peerAckReceive (cell serial chunk : Nat) (status : Word) (bytes : List Byte)
  /-- PEER_RETRANSMIT_TIMEOUT (R218): After 100 µs without acknowledgement a chunk is retransmitted, or its copy fails after 16 attempts. -/
  | peerRetransmitTimeout (cell serial chunk : Nat)
  /-- LHOLD_EXPIRY (R197): WANT has stayed 0 for LHOLD and the slope budget allows, so the hop down begins at the next tick. -/
  | lholdExpiry (cell : Nat) (budget : Bool)
  /-- POWER_SAMPLE (R206): Every 10 µs the controller samples power and current and adjusts removal depth, ballast and points. -/
  | powerSample (watts amps ballast : Nat) (deepen : Nat) (cells : List CellSample)
  /-- REMOVAL_TIMEOUT (R205): A live slot removed for 50 µs is migrated, spilled or restored. -/
  | removalTimeout (sid : Nat)
  /-- EXEMPTION_LAPSE (R205): A restored slot's 50 µs removal exemption ends. -/
  | exemptionLapse (sid : Nat)
  /-- FABRIC_OP_EVAL (R179): The die's fabric operating point is re-evaluated from its cells' contributions. -/
  | fabricOpEval (die : Nat)
  /-- DROOP (R210): A droop doubles the cell clock period, or is latched during a stop, and a third one demotes the entry. -/
  | droop (cell : Nat)
  /-- DROOP_RECOVERY (R210): The rail recovers, or 100 ns pass, and the clock returns to its period, rewriting the pair. -/
  | droopRecovery (cell : Nat)
  /-- BRET_WRITE (R167): Writing GO requests retirement of a commons bank to a spare. -/
  | bretWrite (by_ : Writer) (die : Nat) (v : Word)
  /-- OPTABLE_WRITE (R178): A store to an operating-point entry also writes the point fields when LOCK is 1. -/
  | optableWrite (by_ : Writer) (n : Nat) (v : Word)
  /-- KEY_DISCARD (R184): Writing DISCARD from the owner or the host discards a key slot's key. -/
  | keyDiscard (by_ : Writer) (n : Nat) (v : Word)
  /-- ASIDTB_WRITE (R106): A write of the ASID table base is accepted or ignored by partition. -/
  | asidtbWrite (by_ : Writer) (die : Nat) (v : Word)
  /-- CASID_WRITE (R106): A write of a cell's ASID is accepted only within its partition's range. -/
  | casidWrite (by_ : Writer) (cell : Nat) (v : Word)
  /-- PCTL_WRITE (R219): A write of STOP or AGE controls launch reading and inbox promotion. -/
  | pctlWrite (by_ : Writer) (p : Nat) (v : Word)
  /-- CEIL_WRITE (R213): Lowering a cell's ceiling below its running index causes a step at the next tick. -/
  | ceilWrite (by_ : Writer) (cell : Nat) (v : Word)
  /-- PRAIL_WRITE (R206): New rail offsets take effect at the next slope window. -/
  | prailWrite (by_ : Writer) (v : Word)
  /-- AGEMON_CLR (R213): Writing CLR resets WORST to 0xFFFF. -/
  | agemonClr (by_ : Writer) (cell : Nat) (v : Word)
  /-- REGISTER_WRITE (R3): A write to any other register, W1C bits included, follows its access type. -/
  | registerWrite (by_ : Writer) (off : Nat) (v : Word)
  /-- LINK_UP (R214): The Berryn link trains at 32, 16 or 8 lanes. -/
  | linkUp (width : Nat)
  /-- DIE_RESET (R187): A die reset restarts FCYC and CCYC and sets wheel set A active with ORIGIN 0. -/
  | dieReset (die : Nat)
  /-- POWER_UP_BOOT (R222): At power-up the boot ROM verifies the flash image, or waits for a host image, and firmware boots the package. -/
  | powerUpBoot (verified : Bool) (time : Word) (svn : BitVec 8) (digest : List Word) (map : List (Nat × Word))
  /-- HOST_IMAGE_SUPPLY (R222): The host supplies a firmware image through BAR0 and it is verified and run. -/
  | hostImageSupply (verified : Bool) (time : Word) (svn : BitVec 8) (digest : List Word) (map : List (Nat × Word))
  /-- UNCORRECTABLE_ERROR (R84): An uncorrectable error arises in stored data, a register, an accumulator or a directory entry, setting ERR in the entry's case. -/
  | uncorrectableError (site : ErrSite)
  /-- ATTESTATION_REPORT (R223): The package produces an attestation report over the image digest, BOOTST, the partition table and a host nonce, signed under its identity key. -/
  | attestationReport (nonce : List Byte)
  /-- YIELD (R297): Asks the punty to spill the thread, resuming at PC + 4. -/
  | yield 
  /-- VEND (R347): Closes capture, checks every replay address, and starts the replay. -/
  | vend 
  /-- ERET (R315): Returns to TEPC and clears HACT. -/
  | eret 
  /-- WFI (R316): Parks until an arrival at the slot, or a gaffer wake event. -/
  | wfi 
  /-- WHEEL_ARM (R164): Checks the inactive wheel set and sets ARMED or BAD. -/
  | wheelArm 
  /-- WHEEL_SWAP (R165): Requests a swap of the wheel sets at the next turn boundary. -/
  | wheelSwap 
  /-- DEFERRED_TRAP (R83): A SCALE-PAIR or accumulator machine check discards the slot's matrix commands and is taken before the slot's next issue. -/
  | deferredTrap 
  /-- PARK_RESUME (R4): A parked slot's reason clears and the instruction issues again from its start. -/
  | parkResume 
  /-- REFUSED_RETRY (R281): A refused synchronising request is tried again, trapping SYNC-TIMEOUT at PARKLIM refusals. -/
  | refusedRetry 
  /-- KILL_EFFECT (R153): At the target's next issue cycle the kill stops the slot and discards its matrix commands. -/
  | killEffect 
  /-- LINK_DOWN (R216): The Berryn link goes down, so system-address accesses fail and LOST is set. -/
  | linkDown 
  /-- STANDBY (R224): The package loses power and enters standby, unpowered. -/
  | standby 
  /-- FLIT_REPLAY (R214): A Berryn link flit that fails its check is replayed by the link layer, and HLINK.REPLAYS rises. -/
  | flitReplay 
  deriving DecidableEq, Repr

end Sys2Proof
end

