-- ==== Sys2Proof/WellFormed.lean ====
section
/-! DEFINITION. Which field values of an instruction the encodings of spec/11_encodings.md allow (R227-R244), and what a
value that they do not allow is called: the DETAIL that the ILLEGAL trap of R243 carries. -/

namespace Sys2Proof

/-- Why a word is no instruction; the number is the DETAIL of the ILLEGAL trap (R81, R243). -/
inductive DecodeError where
  /-- reserved encoding: a reserved value, a non-zero zero field, a sync bit on an unread register (DETAIL 0) -/
  | encoding
  /-- a misaligned register group (R244, DETAIL 1) -/
  | group
  /-- a reserved format source (R238, R321, DETAIL 2) -/
  | format
  deriving DecidableEq, Repr

/-- The DETAIL of R243. -/
def DecodeError.detail : DecodeError → Nat
  | .encoding => 0
  | .group => 1
  | .format => 2

namespace WellFormed

/-- Scope codes 110 and 111 are reserved (R116). -/
def scopeOk (s : BitVec 3) : Bool := s.toNat ≤ 5

/-- A scope stands only beside an ordering bit (R233, R234). -/
def orderOk (acq rel : Bool) (s : BitVec 3) : Bool := scopeOk s && (acq || rel || s == 0#3)

/-- Rounding groups 0x20-0x25 (R238). -/
def roundOk (r : BitVec 3) : Bool := r.toNat ≤ 5

/-- `encoding` unless `b`. -/
def must (b : Bool) : Option DecodeError := if b then none else some .encoding

/-- Element format source of a vector instruction that is no conversion: fs = 11 is reserved (R238, R321). -/
def elemFs (f : BitVec 2) : Option DecodeError := if f == 3#2 then some .format else none

/-- A rounding vector instruction: its major, then its format source. -/
def roundElem (r : BitVec 3) (f : BitVec 2) : Option DecodeError :=
  if roundOk r then elemFs f else some .encoding

/-- A conversion: fs = 00 is reserved; fs = 01 and 10 need vb zero; fs = 11 must not name F32 or BF16 (R238). -/
def conv (r : BitVec 3) (c : BitVec 5) (f : BitVec 2) : Option DecodeError :=
  if !roundOk r then some .encoding
  else if f == 0#2 then some .format
  else if f == 3#2 then must (c.toNat ≥ 2)
  else must (c == 0#5)

end WellFormed

open WellFormed in
/-- What forbids an instruction's field values, if anything does. Command words and the steps of the other agents have
no field checks at decode: an engine checks a command's fields when it takes it (R242, R351). The one csrc that R243 refuses is
the word of all ones. -/
def Instr.legality : Instr → Option DecodeError
  | .sext _ _ w _ => must (w.toNat ≤ 2)
  | .zext _ _ w _ => must (w.toNat ≤ 2)
  | .ldS _ _ z _ e => must (!e || z != 3#2)
  | .ldAcq _ _ z _ s e => must (scopeOk s && (!e || z != 3#2))
  | .stRel _ _ _ _ s => must (scopeOk s)
  | .amoAdd _ _ _ _ q r s => must (orderOk q r s)
  | .amoAnd _ _ _ _ q r s => must (orderOk q r s)
  | .amoOr _ _ _ _ q r s => must (orderOk q r s)
  | .amoXor _ _ _ _ q r s => must (orderOk q r s)
  | .amoMin _ _ _ _ q r s => must (orderOk q r s)
  | .amoMax _ _ _ _ q r s => must (orderOk q r s)
  | .amoMinu _ _ _ _ q r s => must (orderOk q r s)
  | .amoMaxu _ _ _ _ q r s => must (orderOk q r s)
  | .amoSwap _ _ _ _ q r s => must (orderOk q r s)
  | .amoFadd _ _ _ q r s => must (orderOk q r s)
  | .cas _ _ _ _ q r s => must (orderOk q r s)
  | .lineRd _ _ q s => must (orderOk q false s)
  | .lineCst _ _ b _ r s =>
      if orderOk false r s && b.toNat < 32 then (if b.toNat % 2 == 0 then none else some .group) else some .encoding
  | .blkRd _ _ _ _ s => must (scopeOk s)
  | .blkWr _ _ _ _ s => must (scopeOk s)
  | .fence k s => must (k != 0#2 && scopeOk s)
  | .enqM a _ => if a.toNat % 4 == 0 then none else some .group
  | .enqC a _ => if a.toNat % 4 == 0 then none else some .group
  | .pub _ s _ => must (scopeOk s)
  | .gear i => must (i.toNat ≤ 1)
  | .ophint i => must (i.toNat ≤ 255)
  | .vadd r _ _ _ _ f => roundElem r f
  | .vsub r _ _ _ _ f => roundElem r f
  | .vmul r _ _ _ _ f => roundElem r f
  | .vfma r _ _ _ _ f => roundElem r f
  | .vfms r _ _ _ _ f => roundElem r f
  | .vdiv r _ _ _ _ f => roundElem r f
  | .vsqrt r _ _ _ f => roundElem r f
  | .vrcp r _ _ _ f => roundElem r f
  | .vrsqrt r _ _ _ f => roundElem r f
  | .vsum r _ _ _ f => roundElem r f
  | .vdot r _ _ _ _ f => roundElem r f
  | .vcvt r _ _ c _ f => conv r c f
  | .vcvtSat r _ _ c _ f => conv r c f
  | .vwiden r _ _ c f => conv r c f
  | .vnarrow r _ _ c f => conv r c f
  | .vnarrowSat r _ _ c f => conv r c f
  | .vqnt r _ _ c f => conv r c f
  | .vscale r _ _ _ _ f => roundElem r f
  | .vmin _ _ _ _ f => elemFs f
  | .vmax _ _ _ _ f => elemFs f
  | .vabs _ _ _ f => elemFs f
  | .vneg _ _ _ f => elemFs f
  | .vmaxr _ _ _ f => elemFs f
  | .vminr _ _ _ f => elemFs f
  | .vexp2 _ _ _ f => elemFs f
  | .vlog2 _ _ _ f => elemFs f
  | .vexp _ _ _ f => elemFs f
  | .vlog _ _ _ f => elemFs f
  | .vtanh _ _ _ f => elemFs f
  | .vsigm _ _ _ f => elemFs f
  | .vcmp _ _ _ _ f c => if c == 7#3 then some .encoding else elemFs f
  | .vsel _ _ _ _ f => elemFs f
  | .vand _ _ _ _ f => elemFs f
  | .vor _ _ _ _ f => elemFs f
  | .vxor _ _ _ _ f => elemFs f
  | .vnot _ _ _ f => elemFs f
  | .vshl _ _ _ _ f => elemFs f
  | .vshr _ _ _ _ f => elemFs f
  | .vsar _ _ _ _ f => elemFs f
  | .vperm _ _ _ _ f => elemFs f
  | .vbcast _ _ _ f => elemFs f
  | .vext _ _ _ f => elemFs f
  | .vins _ _ _ f => elemFs f
  | .vlds _ _ _ _ f => elemFs f
  | .vgath _ _ _ _ f => elemFs f
  | .vscat _ _ _ _ f => elemFs f
  | .add _ _ _ _ _ => none
  | .sub _ _ _ _ _ => none
  | .mul _ _ _ _ _ => none
  | .mulh _ _ _ _ _ => none
  | .mulhu _ _ _ _ _ => none
  | .div _ _ _ _ _ => none
  | .divu _ _ _ _ _ => none
  | .rem _ _ _ _ _ => none
  | .remu _ _ _ _ _ => none
  | .and _ _ _ _ _ => none
  | .or _ _ _ _ _ => none
  | .xor _ _ _ _ _ => none
  | .andn _ _ _ _ _ => none
  | .orn _ _ _ _ _ => none
  | .shl _ _ _ _ _ => none
  | .shr _ _ _ _ _ => none
  | .sar _ _ _ _ _ => none
  | .rol _ _ _ _ _ => none
  | .min _ _ _ _ _ => none
  | .max _ _ _ _ _ => none
  | .minu _ _ _ _ _ => none
  | .maxu _ _ _ _ _ => none
  | .slt _ _ _ _ _ => none
  | .sltu _ _ _ _ _ => none
  | .seq _ _ _ _ _ => none
  | .sne _ _ _ _ _ => none
  | .clz _ _ _ => none
  | .ctz _ _ _ => none
  | .popc _ _ _ => none
  | .bswap _ _ _ => none
  | .addi _ _ _ _ => none
  | .andi _ _ _ _ => none
  | .ori _ _ _ _ => none
  | .xori _ _ _ _ => none
  | .slti _ _ _ _ => none
  | .sltui _ _ _ _ => none
  | .shli _ _ _ _ => none
  | .shri _ _ _ _ => none
  | .sari _ _ _ _ => none
  | .lui _ _ => none
  | .pcrel _ _ => none
  | .lea _ _ _ _ _ => none
  | .bEq _ _ _ => none
  | .bNe _ _ _ => none
  | .bLt _ _ _ => none
  | .bGe _ _ _ => none
  | .bLtu _ _ _ => none
  | .bGeu _ _ _ => none
  | .j _ => none
  | .jal _ => none
  | .jalr _ _ => none
  | .ret _ => none
  | .call _ => none
  | .loop _ _ => none
  | .ld _ _ _ _ _ => none
  | .st _ _ _ _ _ => none
  | .lds _ _ _ => none
  | .sts _ _ _ => none
  | .ldw _ _ _ => none
  | .fefill _ _ _ => none
  | .feempty _ _ => none
  | .feq _ _ _ => none
  | .cinv _ => none
  | .cwb _ => none
  | .pref _ => none
  | .prefW _ => none
  | .send _ _ _ _ => none
  | .sendV _ _ _ _ => none
  | .sendP _ _ _ _ => none
  | .take _ => none
  | .start _ _ _ _ => none
  | .reap _ _ _ => none
  | .kill _ _ _ _ => none
  | .yield => none
  | .retire _ _ => none
  | .migrate _ _ => none
  | .lnch _ _ _ _ => none
  | .fork _ _ _ _ _ => none
  | .rdv _ => none
  | .accrd _ _ _ => none
  | .accwr _ _ _ => none
  | .barInit _ _ _ _ => none
  | .barArr _ _ => none
  | .barWait _ _ => none
  | .barWaitDrop _ _ => none
  | .tdq _ _ _ => none
  | .tdset _ _ _ _ => none
  | .tdzero _ _ _ _ => none
  | .vloop _ => none
  | .vend => none
  | .pand _ _ _ => none
  | .por _ _ _ => none
  | .pxor _ _ _ => none
  | .pnot _ _ => none
  | .pcnt _ _ => none
  | .pfirst _ _ => none
  | .vld _ _ _ => none
  | .vst _ _ _ => none
  | .csrr _ _ => none
  | .csrw _ _ _ => none
  | .csrs _ _ _ => none
  | .csrc d a c => must (!(d == 63#6 && a == 63#6 && c == 0xFFF#12))
  | .trap _ => none
  | .brk _ => none
  | .eret => none
  | .wfi => none
  | .tlbsd _ => none
  | .wheelLoad _ => none
  | .wheelArm => none
  | .wheelSwap => none
  | .partQuery _ _ => none
  | .partQuiesce _ _ => none
  | .partCommit _ _ => none
  | .mma _ => none
  | .mmz _ => none
  | .accld _ => none
  | .accst _ => none
  | .accclr _ => none
  | .copy _ => none
  | .copyRingAppend _ => none
  | .copyRed _ => none
  | .copyMc _ => none
  | .fill _ => none
  | .gath _ => none
  | .scat _ => none
  | .coll _ => none
  | .pubc _ => none
  | .tclass _ => none
  | .seqJmp _ => none
  | .seqLoop _ => none
  | .seqWaitOwn _ => none
  | .seqWaitSig _ => none
  | .seqSig _ => none
  | .seqEnd _ => none
  | .sequencerFetch _ _ _ => none
  | .forkedVectorIssue _ _ => none
  | .vectorStart _ _ => none
  | .vectorComplete _ _ _ => none
  | .loopBufferReplay _ => none
  | .matrixUpdate _ => none
  | .deferredTrap => none
  | .parkResume => none
  | .refusedRetry => none
  | .localPairing _ _ _ => none
  | .loadReturn _ => none
  | .tokenFill _ => none
  | .acknowledgement _ => none
  | .commonsQueueEntry _ => none
  | .commonsPairing _ _ _ => none
  | .turnBoundary _ _ => none
  | .remoteAccessArrival _ => none
  | .messageArrival _ => none
  | .messageResponse _ => none
  | .translationWalk _ => none
  | .faultRecordWrite _ => none
  | .fqdoneWrite _ _ _ => none
  | .sliceWriteSerialise _ => none
  | .sliceReadMiss _ => none
  | .sliceAtomic _ => none
  | .remoteWriteForward _ _ => none
  | .hostCxlAccess _ _ _ _ => none
  | .lqtailWrite _ _ _ _ => none
  | .lqsizeWrite _ _ _ _ _ => none
  | .launchRead _ => none
  | .recordPlace _ => none
  | .continuationPlace _ => none
  | .agePromotion _ => none
  | .poolGrant _ => none
  | .taskEnd _ => none
  | .killEffect => none
  | .puntySpill _ => none
  | .migrationSend _ => none
  | .migrationArrival _ => none
  | .forwardExpiry _ _ _ _ => none
  | .ringReserve _ _ => none
  | .ringLanding _ _ _ _ => none
  | .copyChunk _ _ _ => none
  | .reducePieceApply _ _ _ _ => none
  | .collArrival _ _ => none
  | .collResultWrite _ _ _ => none
  | .peerChunkReceive _ _ _ _ _ _ _ _ _ _ => none
  | .peerAckReceive _ _ _ _ _ => none
  | .peerRetransmitTimeout _ _ _ => none
  | .barrierArrival _ _ => none
  | .barrierRelease _ _ => none
  | .gearEvaluate _ => none
  | .lholdExpiry _ _ => none
  | .hopEnd _ => none
  | .clockStepEnd _ _ => none
  | .powerSample _ _ _ _ _ => none
  | .removalTimeout _ => none
  | .exemptionLapse _ => none
  | .fabricOpEval _ => none
  | .droop _ => none
  | .droopRecovery _ => none
  | .bretWrite _ _ _ => none
  | .optableWrite _ _ _ => none
  | .keyDiscard _ _ _ => none
  | .asidtbWrite _ _ _ => none
  | .casidWrite _ _ _ => none
  | .pctlWrite _ _ _ => none
  | .ceilWrite _ _ _ => none
  | .prailWrite _ _ => none
  | .agemonClr _ _ _ => none
  | .registerWrite _ _ _ => none
  | .linkDown => none
  | .linkUp _ => none
  | .dieReset _ => none
  | .powerUpBoot _ _ _ _ _ => none
  | .hostImageSupply _ _ _ _ _ => none
  | .puntyRestore _ => none
  | .lineFilledFromMemory _ _ => none
  | .memoryWriteAcknowledged _ _ => none
  | .uncorrectableError _ => none
  | .attestationReport _ => none
  | .standby => none
  | .flitReplay => none

/-- An instruction whose field values the encodings allow. -/
def Instr.wf (i : Instr) : Bool := i.legality == none

end Sys2Proof
end

