-- ==== Sys2Proof/Decode.lean ====
section
/-! DEFINITION. The decoder and the encoder of thread instructions and of command words (spec/11_encodings.md R225-R244).

`decode` is total on 32-bit words: a word that is no instruction is rejected by name, and the machine takes the ILLEGAL
trap of R243 with the DETAIL of that name. The layouts and the opcode map are R226-R239; a command word's opcode is R241. -/

namespace Sys2Proof

namespace Decode

/-- Bits lo + n - 1 : lo of an instruction word. -/
def fld (w : BitVec 32) (lo n : Nat) : BitVec n := w.extractLsb' lo n

/-- One bit of an instruction word. -/
def flag (w : BitVec 32) (i : Nat) : Bool := w.getLsbD i

/-- Words of major 0x01 (R228). -/
def decode01 (w : BitVec 32) : Option Instr :=
  if fld w 0 6 == 0x0#6 then some (.add (fld w 20 6) (fld w 14 6) (fld w 8 6) (flag w 7) (flag w 6)) else
  if fld w 0 6 == 0x1#6 then some (.sub (fld w 20 6) (fld w 14 6) (fld w 8 6) (flag w 7) (flag w 6)) else
  if fld w 0 6 == 0x2#6 then some (.mul (fld w 20 6) (fld w 14 6) (fld w 8 6) (flag w 7) (flag w 6)) else
  if fld w 0 6 == 0x3#6 then some (.mulh (fld w 20 6) (fld w 14 6) (fld w 8 6) (flag w 7) (flag w 6)) else
  if fld w 0 6 == 0x4#6 then some (.mulhu (fld w 20 6) (fld w 14 6) (fld w 8 6) (flag w 7) (flag w 6)) else
  if fld w 0 6 == 0x5#6 then some (.div (fld w 20 6) (fld w 14 6) (fld w 8 6) (flag w 7) (flag w 6)) else
  if fld w 0 6 == 0x6#6 then some (.divu (fld w 20 6) (fld w 14 6) (fld w 8 6) (flag w 7) (flag w 6)) else
  if fld w 0 6 == 0x7#6 then some (.rem (fld w 20 6) (fld w 14 6) (fld w 8 6) (flag w 7) (flag w 6)) else
  if fld w 0 6 == 0x8#6 then some (.remu (fld w 20 6) (fld w 14 6) (fld w 8 6) (flag w 7) (flag w 6)) else
  if fld w 0 6 == 0x9#6 then some (.and (fld w 20 6) (fld w 14 6) (fld w 8 6) (flag w 7) (flag w 6)) else
  if fld w 0 6 == 0xA#6 then some (.or (fld w 20 6) (fld w 14 6) (fld w 8 6) (flag w 7) (flag w 6)) else
  if fld w 0 6 == 0xB#6 then some (.xor (fld w 20 6) (fld w 14 6) (fld w 8 6) (flag w 7) (flag w 6)) else
  if fld w 0 6 == 0xC#6 then some (.andn (fld w 20 6) (fld w 14 6) (fld w 8 6) (flag w 7) (flag w 6)) else
  if fld w 0 6 == 0xD#6 then some (.orn (fld w 20 6) (fld w 14 6) (fld w 8 6) (flag w 7) (flag w 6)) else
  if fld w 0 6 == 0xE#6 then some (.shl (fld w 20 6) (fld w 14 6) (fld w 8 6) (flag w 7) (flag w 6)) else
  if fld w 0 6 == 0xF#6 then some (.shr (fld w 20 6) (fld w 14 6) (fld w 8 6) (flag w 7) (flag w 6)) else
  if fld w 0 6 == 0x10#6 then some (.sar (fld w 20 6) (fld w 14 6) (fld w 8 6) (flag w 7) (flag w 6)) else
  if fld w 0 6 == 0x11#6 then some (.rol (fld w 20 6) (fld w 14 6) (fld w 8 6) (flag w 7) (flag w 6)) else
  if fld w 0 6 == 0x12#6 then some (.min (fld w 20 6) (fld w 14 6) (fld w 8 6) (flag w 7) (flag w 6)) else
  if fld w 0 6 == 0x13#6 then some (.max (fld w 20 6) (fld w 14 6) (fld w 8 6) (flag w 7) (flag w 6)) else
  if fld w 0 6 == 0x14#6 then some (.minu (fld w 20 6) (fld w 14 6) (fld w 8 6) (flag w 7) (flag w 6)) else
  if fld w 0 6 == 0x15#6 then some (.maxu (fld w 20 6) (fld w 14 6) (fld w 8 6) (flag w 7) (flag w 6)) else
  if fld w 0 6 == 0x16#6 then some (.slt (fld w 20 6) (fld w 14 6) (fld w 8 6) (flag w 7) (flag w 6)) else
  if fld w 0 6 == 0x17#6 then some (.sltu (fld w 20 6) (fld w 14 6) (fld w 8 6) (flag w 7) (flag w 6)) else
  if fld w 0 6 == 0x18#6 then some (.seq (fld w 20 6) (fld w 14 6) (fld w 8 6) (flag w 7) (flag w 6)) else
  if fld w 0 6 == 0x19#6 then some (.sne (fld w 20 6) (fld w 14 6) (fld w 8 6) (flag w 7) (flag w 6)) else
  if fld w 0 7 == 0x1A#7 && fld w 8 6 == 0x0#6 then some (.clz (fld w 20 6) (fld w 14 6) (flag w 7)) else
  if fld w 0 7 == 0x1B#7 && fld w 8 6 == 0x0#6 then some (.ctz (fld w 20 6) (fld w 14 6) (flag w 7)) else
  if fld w 0 7 == 0x1C#7 && fld w 8 6 == 0x0#6 then some (.popc (fld w 20 6) (fld w 14 6) (flag w 7)) else
  if fld w 0 7 == 0x1D#7 then some (.sext (fld w 20 6) (fld w 14 6) (fld w 8 6) (flag w 7)) else
  if fld w 0 7 == 0x1E#7 then some (.zext (fld w 20 6) (fld w 14 6) (fld w 8 6) (flag w 7)) else
  if fld w 0 7 == 0x1F#7 && fld w 8 6 == 0x0#6 then some (.bswap (fld w 20 6) (fld w 14 6) (flag w 7)) else
  none

/-- Words of major 0x02 (R228). -/
def decode02 (w : BitVec 32) : Option Instr :=
  some (.addi (fld w 20 6) (fld w 14 6) (flag w 13) (fld w 0 13))

/-- Words of major 0x03 (R228). -/
def decode03 (w : BitVec 32) : Option Instr :=
  some (.andi (fld w 20 6) (fld w 14 6) (flag w 13) (fld w 0 13))

/-- Words of major 0x04 (R228). -/
def decode04 (w : BitVec 32) : Option Instr :=
  some (.ori (fld w 20 6) (fld w 14 6) (flag w 13) (fld w 0 13))

/-- Words of major 0x05 (R228). -/
def decode05 (w : BitVec 32) : Option Instr :=
  some (.xori (fld w 20 6) (fld w 14 6) (flag w 13) (fld w 0 13))

/-- Words of major 0x06 (R228). -/
def decode06 (w : BitVec 32) : Option Instr :=
  some (.slti (fld w 20 6) (fld w 14 6) (flag w 13) (fld w 0 13))

/-- Words of major 0x07 (R228). -/
def decode07 (w : BitVec 32) : Option Instr :=
  some (.sltui (fld w 20 6) (fld w 14 6) (flag w 13) (fld w 0 13))

/-- Words of major 0x08 (R228). -/
def decode08 (w : BitVec 32) : Option Instr :=
  if fld w 6 7 == 0x0#7 then some (.shli (fld w 20 6) (fld w 14 6) (flag w 13) (fld w 0 6)) else
  if fld w 6 7 == 0x20#7 then some (.shri (fld w 20 6) (fld w 14 6) (flag w 13) (fld w 0 6)) else
  if fld w 6 7 == 0x40#7 then some (.sari (fld w 20 6) (fld w 14 6) (flag w 13) (fld w 0 6)) else
  none

/-- Words of major 0x09 (R228). -/
def decode09 (w : BitVec 32) : Option Instr :=
  some (.lui (fld w 20 6) (fld w 0 20))

/-- Words of major 0x0A (R228). -/
def decode0A (w : BitVec 32) : Option Instr :=
  some (.pcrel (fld w 20 6) (fld w 0 20))

/-- Words of major 0x0B (R228). -/
def decode0B (w : BitVec 32) : Option Instr :=
  some (.lea (fld w 20 6) (fld w 14 6) (fld w 12 2) (flag w 11) (fld w 0 11))

/-- Words of major 0x0C (R228). -/
def decode0C (w : BitVec 32) : Option Instr :=
  if fld w 11 3 == 0x0#3 then some (.bEq (fld w 20 6) (fld w 14 6) (fld w 0 11)) else
  if fld w 11 3 == 0x1#3 then some (.bNe (fld w 20 6) (fld w 14 6) (fld w 0 11)) else
  if fld w 11 3 == 0x2#3 then some (.bLt (fld w 20 6) (fld w 14 6) (fld w 0 11)) else
  if fld w 11 3 == 0x3#3 then some (.bGe (fld w 20 6) (fld w 14 6) (fld w 0 11)) else
  if fld w 11 3 == 0x4#3 then some (.bLtu (fld w 20 6) (fld w 14 6) (fld w 0 11)) else
  if fld w 11 3 == 0x5#3 then some (.bGeu (fld w 20 6) (fld w 14 6) (fld w 0 11)) else
  none

/-- Words of major 0x0D (R228). -/
def decode0D (w : BitVec 32) : Option Instr :=
  some (.j (fld w 0 26))

/-- Words of major 0x0E (R228). -/
def decode0E (w : BitVec 32) : Option Instr :=
  some (.jal (fld w 0 26))

/-- Words of major 0x0F (R228). -/
def decode0F (w : BitVec 32) : Option Instr :=
  if fld w 0 14 == 0x0#14 then some (.jalr (fld w 20 6) (fld w 14 6)) else
  if fld w 0 14 == 0x1#14 && fld w 20 6 == 0x0#6 then some (.ret (fld w 14 6)) else
  if fld w 0 6 == 0x2#6 then some (.call (fld w 6 20)) else
  if fld w 0 6 == 0x3#6 then some (.loop (fld w 20 6) (fld w 6 14)) else
  none

/-- Words of major 0x10 (R228). -/
def decode10 (w : BitVec 32) : Option Instr :=
  some (.ld (fld w 20 6) (fld w 14 6) (fld w 12 2) (flag w 11) (fld w 0 11))

/-- Words of major 0x11 (R228). -/
def decode11 (w : BitVec 32) : Option Instr :=
  some (.st (fld w 20 6) (fld w 14 6) (fld w 12 2) (flag w 11) (fld w 0 11))

/-- Words of major 0x12 (R228). -/
def decode12 (w : BitVec 32) : Option Instr :=
  if fld w 0 3 == 0x0#3 && fld w 4 7 == 0x0#7 then some (.ldS (fld w 20 6) (fld w 14 6) (fld w 12 2) (flag w 11) (flag w 3)) else
  if fld w 0 3 == 0x0#3 && fld w 7 4 == 0x1#4 then some (.ldAcq (fld w 20 6) (fld w 14 6) (fld w 12 2) (flag w 11) (fld w 4 3) (flag w 3)) else
  if fld w 0 4 == 0x0#4 && fld w 7 4 == 0x2#4 then some (.stRel (fld w 20 6) (fld w 14 6) (fld w 12 2) (flag w 11) (fld w 4 3)) else
  if fld w 0 11 == 0x180#11 && fld w 12 2 == 0x3#2 then some (.lds (fld w 20 6) (fld w 14 6) (flag w 11)) else
  if fld w 0 11 == 0x200#11 && fld w 12 2 == 0x3#2 then some (.sts (fld w 20 6) (fld w 14 6) (flag w 11)) else
  if fld w 0 11 == 0x280#11 && fld w 12 2 == 0x3#2 then some (.ldw (fld w 20 6) (fld w 14 6) (flag w 11)) else
  if fld w 0 11 == 0x300#11 && fld w 12 2 == 0x3#2 then some (.fefill (fld w 20 6) (fld w 14 6) (flag w 11)) else
  if fld w 0 11 == 0x380#11 && fld w 12 2 == 0x3#2 && fld w 20 6 == 0x0#6 then some (.feempty (fld w 14 6) (flag w 11)) else
  if fld w 0 11 == 0x400#11 && fld w 12 2 == 0x3#2 then some (.feq (fld w 20 6) (fld w 14 6) (flag w 11)) else
  none

/-- Words of major 0x13 (R228). -/
def decode13 (w : BitVec 32) : Option Instr :=
  if fld w 0 3 == 0x0#3 && fld w 9 4 == 0x0#4 then some (.amoAdd (fld w 20 6) (fld w 14 6) (flag w 13) (flag w 8) (flag w 7) (flag w 6) (fld w 3 3)) else
  if fld w 0 3 == 0x0#3 && fld w 9 4 == 0x1#4 then some (.amoAnd (fld w 20 6) (fld w 14 6) (flag w 13) (flag w 8) (flag w 7) (flag w 6) (fld w 3 3)) else
  if fld w 0 3 == 0x0#3 && fld w 9 4 == 0x2#4 then some (.amoOr (fld w 20 6) (fld w 14 6) (flag w 13) (flag w 8) (flag w 7) (flag w 6) (fld w 3 3)) else
  if fld w 0 3 == 0x0#3 && fld w 9 4 == 0x3#4 then some (.amoXor (fld w 20 6) (fld w 14 6) (flag w 13) (flag w 8) (flag w 7) (flag w 6) (fld w 3 3)) else
  if fld w 0 3 == 0x0#3 && fld w 9 4 == 0x4#4 then some (.amoMin (fld w 20 6) (fld w 14 6) (flag w 13) (flag w 8) (flag w 7) (flag w 6) (fld w 3 3)) else
  if fld w 0 3 == 0x0#3 && fld w 9 4 == 0x5#4 then some (.amoMax (fld w 20 6) (fld w 14 6) (flag w 13) (flag w 8) (flag w 7) (flag w 6) (fld w 3 3)) else
  if fld w 0 3 == 0x0#3 && fld w 9 4 == 0x6#4 then some (.amoMinu (fld w 20 6) (fld w 14 6) (flag w 13) (flag w 8) (flag w 7) (flag w 6) (fld w 3 3)) else
  if fld w 0 3 == 0x0#3 && fld w 9 4 == 0x7#4 then some (.amoMaxu (fld w 20 6) (fld w 14 6) (flag w 13) (flag w 8) (flag w 7) (flag w 6) (fld w 3 3)) else
  if fld w 0 3 == 0x0#3 && fld w 9 4 == 0x8#4 then some (.amoSwap (fld w 20 6) (fld w 14 6) (flag w 13) (flag w 8) (flag w 7) (flag w 6) (fld w 3 3)) else
  if fld w 0 3 == 0x0#3 && fld w 8 5 == 0x12#5 then some (.amoFadd (fld w 20 6) (fld w 14 6) (flag w 13) (flag w 7) (flag w 6) (fld w 3 3)) else
  none

/-- Words of major 0x14 (R228). -/
def decode14 (w : BitVec 32) : Option Instr :=
  if fld w 6 2 == 0x0#2 then some (.cas (fld w 20 6) (fld w 14 6) (fld w 8 6) (flag w 5) (flag w 4) (flag w 3) (fld w 0 3)) else
  if fld w 4 10 == 0x4#10 && fld w 25 1 == 0x0#1 then some (.lineRd (fld w 20 5) (fld w 14 6) (flag w 3) (fld w 0 3)) else
  if fld w 6 2 == 0x2#2 then some (.lineCst (fld w 20 6) (fld w 14 6) (fld w 8 6) (fld w 4 2) (flag w 3) (fld w 0 3)) else
  none

/-- Words of major 0x15 (R228). -/
def decode15 (w : BitVec 32) : Option Instr :=
  if fld w 0 3 == 0x0#3 && fld w 7 1 == 0x0#1 then some (.blkRd (fld w 20 6) (fld w 14 6) (fld w 8 6) (flag w 6) (fld w 3 3)) else
  if fld w 0 3 == 0x0#3 && fld w 7 1 == 0x1#1 then some (.blkWr (fld w 20 6) (fld w 14 6) (fld w 8 6) (flag w 6) (fld w 3 3)) else
  none

/-- Words of major 0x16 (R228). -/
def decode16 (w : BitVec 32) : Option Instr :=
  if fld w 5 21 == 0x0#21 then some (.fence (fld w 3 2) (fld w 0 3)) else
  if fld w 0 14 == 0x20#14 && fld w 20 6 == 0x0#6 then some (.cinv (fld w 14 6)) else
  if fld w 0 14 == 0x40#14 && fld w 20 6 == 0x0#6 then some (.cwb (fld w 14 6)) else
  if fld w 0 14 == 0x60#14 && fld w 20 6 == 0x0#6 then some (.pref (fld w 14 6)) else
  if fld w 0 14 == 0x68#14 && fld w 20 6 == 0x0#6 then some (.prefW (fld w 14 6)) else
  none

/-- Words of major 0x17 (R228). -/
def decode17 (w : BitVec 32) : Option Instr :=
  if fld w 0 6 == 0x0#6 && fld w 20 6 == 0x0#6 then some (.send (fld w 14 6) (fld w 8 6) (flag w 7) (flag w 6)) else
  if fld w 0 6 == 0x1#6 && fld w 13 1 == 0x0#1 && fld w 20 6 == 0x0#6 then some (.sendV (fld w 14 6) (fld w 8 5) (flag w 7) (flag w 6)) else
  if fld w 0 6 == 0x2#6 && fld w 11 3 == 0x0#3 && fld w 20 6 == 0x0#6 then some (.sendP (fld w 14 6) (fld w 8 3) (flag w 7) (flag w 6)) else
  none

/-- Words of major 0x18 (R228). -/
def decode18 (w : BitVec 32) : Option Instr :=
  if fld w 0 20 == 0x0#20 then some (.take (fld w 20 6)) else
  if fld w 0 6 == 0x1#6 && fld w 20 6 == 0x0#6 then some (.start (fld w 14 6) (fld w 8 6) (flag w 7) (flag w 6)) else
  if fld w 0 7 == 0x2#7 && fld w 8 6 == 0x0#6 then some (.reap (fld w 20 6) (fld w 14 6) (flag w 7)) else
  if fld w 0 6 == 0x3#6 && fld w 20 6 == 0x0#6 then some (.kill (fld w 14 6) (fld w 8 6) (flag w 7) (flag w 6)) else
  if fld w 0 26 == 0x4#26 then some (.yield) else
  if fld w 0 7 == 0x5#7 && fld w 8 6 == 0x0#6 && fld w 20 6 == 0x0#6 then some (.retire (fld w 14 6) (flag w 7)) else
  if fld w 0 7 == 0x6#7 && fld w 8 6 == 0x0#6 && fld w 20 6 == 0x0#6 then some (.migrate (fld w 14 6) (flag w 7)) else
  if fld w 0 6 == 0x7#6 && fld w 20 6 == 0x0#6 then some (.lnch (fld w 14 6) (fld w 8 6) (flag w 7) (flag w 6)) else
  none

/-- Words of major 0x19 (R228). -/
def decode19 (w : BitVec 32) : Option Instr :=
  if fld w 0 7 == 0x0#7 && fld w 8 6 == 0x0#6 && fld w 20 6 == 0x0#6 then some (.enqM (fld w 14 6) (flag w 7)) else
  if fld w 0 7 == 0x1#7 && fld w 8 6 == 0x0#6 && fld w 20 6 == 0x0#6 then some (.enqC (fld w 14 6) (flag w 7)) else
  if fld w 0 6 == 0x2#6 then some (.fork (fld w 20 6) (fld w 14 6) (fld w 8 6) (flag w 7) (flag w 6)) else
  if fld w 0 20 == 0x3#20 then some (.rdv (fld w 20 6)) else
  none

/-- Words of major 0x1A (R228). -/
def decode1A (w : BitVec 32) : Option Instr :=
  if fld w 0 14 == 0x0#14 && fld w 25 1 == 0x0#1 then some (.accrd (fld w 20 5) (fld w 17 3) (fld w 14 3)) else
  if fld w 0 14 == 0x1#14 && fld w 25 1 == 0x0#1 then some (.accwr (fld w 20 5) (fld w 17 3) (fld w 14 3)) else
  none

/-- Words of major 0x1B (R228). -/
def decode1B (w : BitVec 32) : Option Instr :=
  if fld w 0 6 == 0x0#6 && fld w 20 6 == 0x0#6 then some (.barInit (fld w 14 6) (fld w 8 6) (flag w 7) (flag w 6)) else
  if fld w 0 7 == 0x1#7 && fld w 8 6 == 0x0#6 && fld w 20 6 == 0x0#6 then some (.barArr (fld w 14 6) (flag w 7)) else
  if fld w 0 7 == 0x2#7 && fld w 8 6 == 0x0#6 && fld w 20 6 == 0x0#6 then some (.barWait (fld w 14 6) (flag w 7)) else
  if fld w 0 7 == 0x3#7 && fld w 8 6 == 0x0#6 && fld w 20 6 == 0x0#6 then some (.barWaitDrop (fld w 14 6) (flag w 7)) else
  none

/-- Words of major 0x1C (R228). -/
def decode1C (w : BitVec 32) : Option Instr :=
  if fld w 0 7 == 0x0#7 && fld w 8 6 == 0x0#6 then some (.tdq (fld w 20 6) (fld w 14 6) (flag w 7)) else
  if fld w 0 6 == 0x1#6 && fld w 20 6 == 0x0#6 then some (.tdset (fld w 14 6) (fld w 8 6) (flag w 7) (flag w 6)) else
  if fld w 0 6 == 0x2#6 && fld w 20 6 == 0x0#6 then some (.tdzero (fld w 14 6) (fld w 8 6) (flag w 7) (flag w 6)) else
  if fld w 0 7 == 0x3#7 && fld w 11 3 == 0x0#3 && fld w 20 6 == 0x0#6 then some (.pub (fld w 14 6) (fld w 8 3) (flag w 7)) else
  none

/-- Words of major 0x1D (R228). -/
def decode1D (w : BitVec 32) : Option Instr :=
  if fld w 13 13 == 0x0#13 then some (.gear (fld w 0 13)) else
  if fld w 13 13 == 0x80#13 then some (.ophint (fld w 0 13)) else
  none

/-- Words of the rounding vector groups, majors 0x20-0x25 (R238, R239). -/
def decodeRound (w : BitVec 32) : Option Instr :=
  if fld w 0 6 == 0x0#6 then some (.vadd (fld w 26 3) (fld w 21 5) (fld w 16 5) (fld w 11 5) (fld w 8 3) (fld w 6 2)) else
  if fld w 0 6 == 0x1#6 then some (.vsub (fld w 26 3) (fld w 21 5) (fld w 16 5) (fld w 11 5) (fld w 8 3) (fld w 6 2)) else
  if fld w 0 6 == 0x2#6 then some (.vmul (fld w 26 3) (fld w 21 5) (fld w 16 5) (fld w 11 5) (fld w 8 3) (fld w 6 2)) else
  if fld w 0 6 == 0x3#6 then some (.vfma (fld w 26 3) (fld w 21 5) (fld w 16 5) (fld w 11 5) (fld w 8 3) (fld w 6 2)) else
  if fld w 0 6 == 0x4#6 then some (.vfms (fld w 26 3) (fld w 21 5) (fld w 16 5) (fld w 11 5) (fld w 8 3) (fld w 6 2)) else
  if fld w 0 6 == 0x5#6 then some (.vdiv (fld w 26 3) (fld w 21 5) (fld w 16 5) (fld w 11 5) (fld w 8 3) (fld w 6 2)) else
  if fld w 0 6 == 0x6#6 && fld w 11 5 == 0x0#5 then some (.vsqrt (fld w 26 3) (fld w 21 5) (fld w 16 5) (fld w 8 3) (fld w 6 2)) else
  if fld w 0 6 == 0x7#6 && fld w 11 5 == 0x0#5 then some (.vrcp (fld w 26 3) (fld w 21 5) (fld w 16 5) (fld w 8 3) (fld w 6 2)) else
  if fld w 0 6 == 0x8#6 && fld w 11 5 == 0x0#5 then some (.vrsqrt (fld w 26 3) (fld w 21 5) (fld w 16 5) (fld w 8 3) (fld w 6 2)) else
  if fld w 0 6 == 0x9#6 && fld w 11 5 == 0x0#5 then some (.vsum (fld w 26 3) (fld w 21 5) (fld w 16 5) (fld w 8 3) (fld w 6 2)) else
  if fld w 0 6 == 0xA#6 then some (.vdot (fld w 26 3) (fld w 21 5) (fld w 16 5) (fld w 11 5) (fld w 8 3) (fld w 6 2)) else
  if fld w 0 6 == 0x10#6 then some (.vcvt (fld w 26 3) (fld w 21 5) (fld w 16 5) (fld w 11 5) (fld w 8 3) (fld w 6 2)) else
  if fld w 0 6 == 0x11#6 then some (.vcvtSat (fld w 26 3) (fld w 21 5) (fld w 16 5) (fld w 11 5) (fld w 8 3) (fld w 6 2)) else
  if fld w 0 6 == 0x12#6 && fld w 8 3 == 0x0#3 then some (.vwiden (fld w 26 3) (fld w 21 5) (fld w 16 5) (fld w 11 5) (fld w 6 2)) else
  if fld w 0 6 == 0x13#6 && fld w 8 3 == 0x0#3 then some (.vnarrow (fld w 26 3) (fld w 21 5) (fld w 16 5) (fld w 11 5) (fld w 6 2)) else
  if fld w 0 6 == 0x14#6 && fld w 8 3 == 0x0#3 then some (.vnarrowSat (fld w 26 3) (fld w 21 5) (fld w 16 5) (fld w 11 5) (fld w 6 2)) else
  if fld w 0 6 == 0x15#6 && fld w 8 3 == 0x0#3 then some (.vqnt (fld w 26 3) (fld w 21 5) (fld w 16 5) (fld w 11 5) (fld w 6 2)) else
  if fld w 0 6 == 0x16#6 then some (.vscale (fld w 26 3) (fld w 21 5) (fld w 16 5) (fld w 11 5) (fld w 8 3) (fld w 6 2)) else
  none

/-- Words of major 0x26 (R228). -/
def decode26 (w : BitVec 32) : Option Instr :=
  if fld w 0 6 == 0x0#6 then some (.vmin (fld w 21 5) (fld w 16 5) (fld w 11 5) (fld w 8 3) (fld w 6 2)) else
  if fld w 0 6 == 0x1#6 then some (.vmax (fld w 21 5) (fld w 16 5) (fld w 11 5) (fld w 8 3) (fld w 6 2)) else
  if fld w 0 6 == 0x2#6 && fld w 11 5 == 0x0#5 then some (.vabs (fld w 21 5) (fld w 16 5) (fld w 8 3) (fld w 6 2)) else
  if fld w 0 6 == 0x3#6 && fld w 11 5 == 0x0#5 then some (.vneg (fld w 21 5) (fld w 16 5) (fld w 8 3) (fld w 6 2)) else
  if fld w 0 6 == 0x4#6 && fld w 11 5 == 0x0#5 then some (.vmaxr (fld w 21 5) (fld w 16 5) (fld w 8 3) (fld w 6 2)) else
  if fld w 0 6 == 0x5#6 && fld w 11 5 == 0x0#5 then some (.vminr (fld w 21 5) (fld w 16 5) (fld w 8 3) (fld w 6 2)) else
  if fld w 0 6 == 0x8#6 && fld w 11 5 == 0x0#5 then some (.vexp2 (fld w 21 5) (fld w 16 5) (fld w 8 3) (fld w 6 2)) else
  if fld w 0 6 == 0x9#6 && fld w 11 5 == 0x0#5 then some (.vlog2 (fld w 21 5) (fld w 16 5) (fld w 8 3) (fld w 6 2)) else
  if fld w 0 6 == 0xA#6 && fld w 11 5 == 0x0#5 then some (.vexp (fld w 21 5) (fld w 16 5) (fld w 8 3) (fld w 6 2)) else
  if fld w 0 6 == 0xB#6 && fld w 11 5 == 0x0#5 then some (.vlog (fld w 21 5) (fld w 16 5) (fld w 8 3) (fld w 6 2)) else
  if fld w 0 6 == 0xC#6 && fld w 11 5 == 0x0#5 then some (.vtanh (fld w 21 5) (fld w 16 5) (fld w 8 3) (fld w 6 2)) else
  if fld w 0 6 == 0xD#6 && fld w 11 5 == 0x0#5 then some (.vsigm (fld w 21 5) (fld w 16 5) (fld w 8 3) (fld w 6 2)) else
  if fld w 3 3 == 0x2#3 && fld w 24 2 == 0x0#2 then some (.vcmp (fld w 21 3) (fld w 16 5) (fld w 11 5) (fld w 8 3) (fld w 6 2) (fld w 0 3)) else
  if fld w 0 6 == 0x18#6 then some (.vsel (fld w 21 5) (fld w 16 5) (fld w 11 5) (fld w 8 3) (fld w 6 2)) else
  if fld w 0 6 == 0x20#6 then some (.vand (fld w 21 5) (fld w 16 5) (fld w 11 5) (fld w 8 3) (fld w 6 2)) else
  if fld w 0 6 == 0x21#6 then some (.vor (fld w 21 5) (fld w 16 5) (fld w 11 5) (fld w 8 3) (fld w 6 2)) else
  if fld w 0 6 == 0x22#6 then some (.vxor (fld w 21 5) (fld w 16 5) (fld w 11 5) (fld w 8 3) (fld w 6 2)) else
  if fld w 0 6 == 0x23#6 && fld w 11 5 == 0x0#5 then some (.vnot (fld w 21 5) (fld w 16 5) (fld w 8 3) (fld w 6 2)) else
  if fld w 0 6 == 0x24#6 then some (.vshl (fld w 21 5) (fld w 16 5) (fld w 11 5) (fld w 8 3) (fld w 6 2)) else
  if fld w 0 6 == 0x25#6 then some (.vshr (fld w 21 5) (fld w 16 5) (fld w 11 5) (fld w 8 3) (fld w 6 2)) else
  if fld w 0 6 == 0x26#6 then some (.vsar (fld w 21 5) (fld w 16 5) (fld w 11 5) (fld w 8 3) (fld w 6 2)) else
  none

/-- Words of major 0x27 (R228). -/
def decode27 (w : BitVec 32) : Option Instr :=
  if fld w 0 6 == 0x0#6 then some (.vperm (fld w 21 5) (fld w 16 5) (fld w 11 5) (fld w 8 3) (fld w 6 2)) else
  if fld w 0 6 == 0x1#6 && fld w 11 5 == 0x0#5 then some (.vbcast (fld w 21 5) (fld w 16 5) (fld w 8 3) (fld w 6 2)) else
  if fld w 0 6 == 0x2#6 && fld w 8 3 == 0x0#3 then some (.vext (fld w 21 5) (fld w 16 5) (fld w 11 5) (fld w 6 2)) else
  if fld w 0 6 == 0x3#6 && fld w 8 3 == 0x0#3 then some (.vins (fld w 21 5) (fld w 16 5) (fld w 11 5) (fld w 6 2)) else
  if fld w 0 16 == 0x8#16 && fld w 21 5 == 0x0#5 then some (.vloop (fld w 16 5)) else
  if fld w 0 26 == 0x9#26 then some (.vend) else
  if fld w 0 11 == 0x10#11 && fld w 14 2 == 0x0#2 && fld w 19 2 == 0x0#2 && fld w 24 2 == 0x0#2 then some (.pand (fld w 21 3) (fld w 16 3) (fld w 11 3)) else
  if fld w 0 11 == 0x11#11 && fld w 14 2 == 0x0#2 && fld w 19 2 == 0x0#2 && fld w 24 2 == 0x0#2 then some (.por (fld w 21 3) (fld w 16 3) (fld w 11 3)) else
  if fld w 0 11 == 0x12#11 && fld w 14 2 == 0x0#2 && fld w 19 2 == 0x0#2 && fld w 24 2 == 0x0#2 then some (.pxor (fld w 21 3) (fld w 16 3) (fld w 11 3)) else
  if fld w 0 16 == 0x13#16 && fld w 19 2 == 0x0#2 && fld w 24 2 == 0x0#2 then some (.pnot (fld w 21 3) (fld w 16 3)) else
  if fld w 0 16 == 0x14#16 && fld w 19 2 == 0x0#2 then some (.pcnt (fld w 21 5) (fld w 16 3)) else
  if fld w 0 16 == 0x15#16 && fld w 19 2 == 0x0#2 then some (.pfirst (fld w 21 5) (fld w 16 3)) else
  none

/-- Words of major 0x28 (R228). -/
def decode28 (w : BitVec 32) : Option Instr :=
  if fld w 0 11 == 0x0#11 then some (.vld (fld w 21 5) (fld w 16 5) (fld w 11 5)) else
  if fld w 0 11 == 0x1#11 then some (.vst (fld w 21 5) (fld w 16 5) (fld w 11 5)) else
  if fld w 0 6 == 0x2#6 then some (.vlds (fld w 21 5) (fld w 16 5) (fld w 11 5) (fld w 8 3) (fld w 6 2)) else
  if fld w 0 6 == 0x3#6 then some (.vgath (fld w 21 5) (fld w 16 5) (fld w 11 5) (fld w 8 3) (fld w 6 2)) else
  if fld w 0 6 == 0x4#6 then some (.vscat (fld w 21 5) (fld w 16 5) (fld w 11 5) (fld w 8 3) (fld w 6 2)) else
  none

/-- Words of major 0x3E (R228). -/
def decode3E (w : BitVec 32) : Option Instr :=
  if fld w 14 6 == 0x0#6 then some (.csrr (fld w 20 6) (fld w 0 14)) else
  none

/-- Words of major 0x3F (R228). -/
def decode3F (w : BitVec 32) : Option Instr :=
  if fld w 12 2 == 0x1#2 then some (.csrw (fld w 20 6) (fld w 14 6) (fld w 0 12)) else
  if fld w 12 2 == 0x2#2 then some (.csrs (fld w 20 6) (fld w 14 6) (fld w 0 12)) else
  if fld w 12 2 == 0x3#2 then some (.csrc (fld w 20 6) (fld w 14 6) (fld w 0 12)) else
  if fld w 0 14 == 0x1#14 then some (.trap (fld w 14 12)) else
  if fld w 0 14 == 0x2#14 then some (.brk (fld w 14 12)) else
  if fld w 0 26 == 0x3#26 then some (.eret) else
  if fld w 0 26 == 0x4#26 then some (.wfi) else
  if fld w 0 14 == 0x5#14 && fld w 20 6 == 0x0#6 then some (.tlbsd (fld w 14 6)) else
  if fld w 0 14 == 0x6#14 && fld w 20 6 == 0x0#6 then some (.wheelLoad (fld w 14 6)) else
  if fld w 0 26 == 0x7#26 then some (.wheelArm) else
  if fld w 0 26 == 0x8#26 then some (.wheelSwap) else
  if fld w 0 14 == 0x9#14 then some (.partQuery (fld w 20 6) (fld w 14 6)) else
  if fld w 0 14 == 0xA#14 then some (.partQuiesce (fld w 20 6) (fld w 14 6)) else
  if fld w 0 14 == 0xB#14 then some (.partCommit (fld w 20 6) (fld w 14 6)) else
  none

/-- The instruction whose layout a word has, by its major opcode (R228); field values are checked afterwards. -/
def decodeRaw (w : BitVec 32) : Option Instr :=
  if fld w 26 6 == 0x01#6 then decode01 w else
  if fld w 26 6 == 0x02#6 then decode02 w else
  if fld w 26 6 == 0x03#6 then decode03 w else
  if fld w 26 6 == 0x04#6 then decode04 w else
  if fld w 26 6 == 0x05#6 then decode05 w else
  if fld w 26 6 == 0x06#6 then decode06 w else
  if fld w 26 6 == 0x07#6 then decode07 w else
  if fld w 26 6 == 0x08#6 then decode08 w else
  if fld w 26 6 == 0x09#6 then decode09 w else
  if fld w 26 6 == 0x0A#6 then decode0A w else
  if fld w 26 6 == 0x0B#6 then decode0B w else
  if fld w 26 6 == 0x0C#6 then decode0C w else
  if fld w 26 6 == 0x0D#6 then decode0D w else
  if fld w 26 6 == 0x0E#6 then decode0E w else
  if fld w 26 6 == 0x0F#6 then decode0F w else
  if fld w 26 6 == 0x10#6 then decode10 w else
  if fld w 26 6 == 0x11#6 then decode11 w else
  if fld w 26 6 == 0x12#6 then decode12 w else
  if fld w 26 6 == 0x13#6 then decode13 w else
  if fld w 26 6 == 0x14#6 then decode14 w else
  if fld w 26 6 == 0x15#6 then decode15 w else
  if fld w 26 6 == 0x16#6 then decode16 w else
  if fld w 26 6 == 0x17#6 then decode17 w else
  if fld w 26 6 == 0x18#6 then decode18 w else
  if fld w 26 6 == 0x19#6 then decode19 w else
  if fld w 26 6 == 0x1A#6 then decode1A w else
  if fld w 26 6 == 0x1B#6 then decode1B w else
  if fld w 26 6 == 0x1C#6 then decode1C w else
  if fld w 26 6 == 0x1D#6 then decode1D w else
  if fld w 29 3 == 4#3 && (fld w 26 3).toNat ≤ 5 then decodeRound w else
  if fld w 26 6 == 0x26#6 then decode26 w else
  if fld w 26 6 == 0x27#6 then decode27 w else
  if fld w 26 6 == 0x28#6 then decode28 w else
  if fld w 26 6 == 0x3E#6 then decode3E w else
  if fld w 26 6 == 0x3F#6 then decode3F w else
  none

end Decode

/-- The decoder: the word's layout, then the field checks of R227-R244. -/
def decode (w : BitVec 32) : Except DecodeError Instr :=
  match Decode.decodeRaw w with
  | none => .error .encoding
  | some i =>
    match i.legality with
    | none => .ok i
    | some e => .error e

/-- The word of a thread instruction (R226-R239); none for command words and for the steps of other agents, which have
no 32-bit word. -/
def encode : Instr → Option (BitVec 32)
  | .add d a b m n => some (0x1#6 ++ d ++ a ++ b ++ BitVec.ofBool m ++ BitVec.ofBool n ++ 0x0#6)
  | .sub d a b m n => some (0x1#6 ++ d ++ a ++ b ++ BitVec.ofBool m ++ BitVec.ofBool n ++ 0x1#6)
  | .mul d a b m n => some (0x1#6 ++ d ++ a ++ b ++ BitVec.ofBool m ++ BitVec.ofBool n ++ 0x2#6)
  | .mulh d a b m n => some (0x1#6 ++ d ++ a ++ b ++ BitVec.ofBool m ++ BitVec.ofBool n ++ 0x3#6)
  | .mulhu d a b m n => some (0x1#6 ++ d ++ a ++ b ++ BitVec.ofBool m ++ BitVec.ofBool n ++ 0x4#6)
  | .div d a b m n => some (0x1#6 ++ d ++ a ++ b ++ BitVec.ofBool m ++ BitVec.ofBool n ++ 0x5#6)
  | .divu d a b m n => some (0x1#6 ++ d ++ a ++ b ++ BitVec.ofBool m ++ BitVec.ofBool n ++ 0x6#6)
  | .rem d a b m n => some (0x1#6 ++ d ++ a ++ b ++ BitVec.ofBool m ++ BitVec.ofBool n ++ 0x7#6)
  | .remu d a b m n => some (0x1#6 ++ d ++ a ++ b ++ BitVec.ofBool m ++ BitVec.ofBool n ++ 0x8#6)
  | .and d a b m n => some (0x1#6 ++ d ++ a ++ b ++ BitVec.ofBool m ++ BitVec.ofBool n ++ 0x9#6)
  | .or d a b m n => some (0x1#6 ++ d ++ a ++ b ++ BitVec.ofBool m ++ BitVec.ofBool n ++ 0xA#6)
  | .xor d a b m n => some (0x1#6 ++ d ++ a ++ b ++ BitVec.ofBool m ++ BitVec.ofBool n ++ 0xB#6)
  | .andn d a b m n => some (0x1#6 ++ d ++ a ++ b ++ BitVec.ofBool m ++ BitVec.ofBool n ++ 0xC#6)
  | .orn d a b m n => some (0x1#6 ++ d ++ a ++ b ++ BitVec.ofBool m ++ BitVec.ofBool n ++ 0xD#6)
  | .shl d a b m n => some (0x1#6 ++ d ++ a ++ b ++ BitVec.ofBool m ++ BitVec.ofBool n ++ 0xE#6)
  | .shr d a b m n => some (0x1#6 ++ d ++ a ++ b ++ BitVec.ofBool m ++ BitVec.ofBool n ++ 0xF#6)
  | .sar d a b m n => some (0x1#6 ++ d ++ a ++ b ++ BitVec.ofBool m ++ BitVec.ofBool n ++ 0x10#6)
  | .rol d a b m n => some (0x1#6 ++ d ++ a ++ b ++ BitVec.ofBool m ++ BitVec.ofBool n ++ 0x11#6)
  | .min d a b m n => some (0x1#6 ++ d ++ a ++ b ++ BitVec.ofBool m ++ BitVec.ofBool n ++ 0x12#6)
  | .max d a b m n => some (0x1#6 ++ d ++ a ++ b ++ BitVec.ofBool m ++ BitVec.ofBool n ++ 0x13#6)
  | .minu d a b m n => some (0x1#6 ++ d ++ a ++ b ++ BitVec.ofBool m ++ BitVec.ofBool n ++ 0x14#6)
  | .maxu d a b m n => some (0x1#6 ++ d ++ a ++ b ++ BitVec.ofBool m ++ BitVec.ofBool n ++ 0x15#6)
  | .slt d a b m n => some (0x1#6 ++ d ++ a ++ b ++ BitVec.ofBool m ++ BitVec.ofBool n ++ 0x16#6)
  | .sltu d a b m n => some (0x1#6 ++ d ++ a ++ b ++ BitVec.ofBool m ++ BitVec.ofBool n ++ 0x17#6)
  | .seq d a b m n => some (0x1#6 ++ d ++ a ++ b ++ BitVec.ofBool m ++ BitVec.ofBool n ++ 0x18#6)
  | .sne d a b m n => some (0x1#6 ++ d ++ a ++ b ++ BitVec.ofBool m ++ BitVec.ofBool n ++ 0x19#6)
  | .clz d a m => some (0x1#6 ++ d ++ a ++ 0x0#6 ++ BitVec.ofBool m ++ 0x1A#7)
  | .ctz d a m => some (0x1#6 ++ d ++ a ++ 0x0#6 ++ BitVec.ofBool m ++ 0x1B#7)
  | .popc d a m => some (0x1#6 ++ d ++ a ++ 0x0#6 ++ BitVec.ofBool m ++ 0x1C#7)
  | .sext d a w m => some (0x1#6 ++ d ++ a ++ w ++ BitVec.ofBool m ++ 0x1D#7)
  | .zext d a w m => some (0x1#6 ++ d ++ a ++ w ++ BitVec.ofBool m ++ 0x1E#7)
  | .bswap d a m => some (0x1#6 ++ d ++ a ++ 0x0#6 ++ BitVec.ofBool m ++ 0x1F#7)
  | .addi d a m i => some (0x2#6 ++ d ++ a ++ BitVec.ofBool m ++ i)
  | .andi d a m i => some (0x3#6 ++ d ++ a ++ BitVec.ofBool m ++ i)
  | .ori d a m i => some (0x4#6 ++ d ++ a ++ BitVec.ofBool m ++ i)
  | .xori d a m i => some (0x5#6 ++ d ++ a ++ BitVec.ofBool m ++ i)
  | .slti d a m i => some (0x6#6 ++ d ++ a ++ BitVec.ofBool m ++ i)
  | .sltui d a m i => some (0x7#6 ++ d ++ a ++ BitVec.ofBool m ++ i)
  | .shli d a m h => some (0x8#6 ++ d ++ a ++ BitVec.ofBool m ++ 0x0#7 ++ h)
  | .shri d a m h => some (0x8#6 ++ d ++ a ++ BitVec.ofBool m ++ 0x20#7 ++ h)
  | .sari d a m h => some (0x8#6 ++ d ++ a ++ BitVec.ofBool m ++ 0x40#7 ++ h)
  | .lui d i => some (0x9#6 ++ d ++ i)
  | .pcrel d i => some (0xA#6 ++ d ++ i)
  | .lea d b z y o => some (0xB#6 ++ d ++ b ++ z ++ BitVec.ofBool y ++ o)
  | .bEq a b o => some (0xC#6 ++ a ++ b ++ 0x0#3 ++ o)
  | .bNe a b o => some (0xC#6 ++ a ++ b ++ 0x1#3 ++ o)
  | .bLt a b o => some (0xC#6 ++ a ++ b ++ 0x2#3 ++ o)
  | .bGe a b o => some (0xC#6 ++ a ++ b ++ 0x3#3 ++ o)
  | .bLtu a b o => some (0xC#6 ++ a ++ b ++ 0x4#3 ++ o)
  | .bGeu a b o => some (0xC#6 ++ a ++ b ++ 0x5#3 ++ o)
  | .j o => some (0xD#6 ++ o)
  | .jal o => some (0xE#6 ++ o)
  | .jalr d a => some (0xF#6 ++ d ++ a ++ 0x0#14)
  | .ret a => some (0xF#6 ++ 0x0#6 ++ a ++ 0x1#14)
  | .call o => some (0xF#6 ++ o ++ 0x2#6)
  | .loop a o => some (0xF#6 ++ a ++ o ++ 0x3#6)
  | .ld d b z y o => some (0x10#6 ++ d ++ b ++ z ++ BitVec.ofBool y ++ o)
  | .st d b z y o => some (0x11#6 ++ d ++ b ++ z ++ BitVec.ofBool y ++ o)
  | .ldS d b z y e => some (0x12#6 ++ d ++ b ++ z ++ BitVec.ofBool y ++ 0x0#7 ++ BitVec.ofBool e ++ 0x0#3)
  | .ldAcq d b z y s e => some (0x12#6 ++ d ++ b ++ z ++ BitVec.ofBool y ++ 0x1#4 ++ s ++ BitVec.ofBool e ++ 0x0#3)
  | .stRel d b z y s => some (0x12#6 ++ d ++ b ++ z ++ BitVec.ofBool y ++ 0x2#4 ++ s ++ 0x0#4)
  | .lds d b y => some (0x12#6 ++ d ++ b ++ 0x3#2 ++ BitVec.ofBool y ++ 0x180#11)
  | .sts d b y => some (0x12#6 ++ d ++ b ++ 0x3#2 ++ BitVec.ofBool y ++ 0x200#11)
  | .ldw d b y => some (0x12#6 ++ d ++ b ++ 0x3#2 ++ BitVec.ofBool y ++ 0x280#11)
  | .fefill d b y => some (0x12#6 ++ d ++ b ++ 0x3#2 ++ BitVec.ofBool y ++ 0x300#11)
  | .feempty b y => some (0x12#6 ++ 0x0#6 ++ b ++ 0x3#2 ++ BitVec.ofBool y ++ 0x380#11)
  | .feq d b y => some (0x12#6 ++ d ++ b ++ 0x3#2 ++ BitVec.ofBool y ++ 0x400#11)
  | .amoAdd d a m z q r s => some (0x13#6 ++ d ++ a ++ BitVec.ofBool m ++ 0x0#4 ++ BitVec.ofBool z ++ BitVec.ofBool q ++ BitVec.ofBool r ++ s ++ 0x0#3)
  | .amoAnd d a m z q r s => some (0x13#6 ++ d ++ a ++ BitVec.ofBool m ++ 0x1#4 ++ BitVec.ofBool z ++ BitVec.ofBool q ++ BitVec.ofBool r ++ s ++ 0x0#3)
  | .amoOr d a m z q r s => some (0x13#6 ++ d ++ a ++ BitVec.ofBool m ++ 0x2#4 ++ BitVec.ofBool z ++ BitVec.ofBool q ++ BitVec.ofBool r ++ s ++ 0x0#3)
  | .amoXor d a m z q r s => some (0x13#6 ++ d ++ a ++ BitVec.ofBool m ++ 0x3#4 ++ BitVec.ofBool z ++ BitVec.ofBool q ++ BitVec.ofBool r ++ s ++ 0x0#3)
  | .amoMin d a m z q r s => some (0x13#6 ++ d ++ a ++ BitVec.ofBool m ++ 0x4#4 ++ BitVec.ofBool z ++ BitVec.ofBool q ++ BitVec.ofBool r ++ s ++ 0x0#3)
  | .amoMax d a m z q r s => some (0x13#6 ++ d ++ a ++ BitVec.ofBool m ++ 0x5#4 ++ BitVec.ofBool z ++ BitVec.ofBool q ++ BitVec.ofBool r ++ s ++ 0x0#3)
  | .amoMinu d a m z q r s => some (0x13#6 ++ d ++ a ++ BitVec.ofBool m ++ 0x6#4 ++ BitVec.ofBool z ++ BitVec.ofBool q ++ BitVec.ofBool r ++ s ++ 0x0#3)
  | .amoMaxu d a m z q r s => some (0x13#6 ++ d ++ a ++ BitVec.ofBool m ++ 0x7#4 ++ BitVec.ofBool z ++ BitVec.ofBool q ++ BitVec.ofBool r ++ s ++ 0x0#3)
  | .amoSwap d a m z q r s => some (0x13#6 ++ d ++ a ++ BitVec.ofBool m ++ 0x8#4 ++ BitVec.ofBool z ++ BitVec.ofBool q ++ BitVec.ofBool r ++ s ++ 0x0#3)
  | .amoFadd d a m q r s => some (0x13#6 ++ d ++ a ++ BitVec.ofBool m ++ 0x12#5 ++ BitVec.ofBool q ++ BitVec.ofBool r ++ s ++ 0x0#3)
  | .cas d a b z q r s => some (0x14#6 ++ d ++ a ++ b ++ 0x0#2 ++ BitVec.ofBool z ++ BitVec.ofBool q ++ BitVec.ofBool r ++ s)
  | .lineRd d a q s => some (0x14#6 ++ 0x0#1 ++ d ++ a ++ 0x4#10 ++ BitVec.ofBool q ++ s)
  | .lineCst d a b n r s => some (0x14#6 ++ d ++ a ++ b ++ 0x2#2 ++ n ++ BitVec.ofBool r ++ s)
  | .blkRd d a b t s => some (0x15#6 ++ d ++ a ++ b ++ 0x0#1 ++ BitVec.ofBool t ++ s ++ 0x0#3)
  | .blkWr d a b t s => some (0x15#6 ++ d ++ a ++ b ++ 0x1#1 ++ BitVec.ofBool t ++ s ++ 0x0#3)
  | .fence k s => some (0x16#6 ++ 0x0#21 ++ k ++ s)
  | .cinv a => some (0x16#6 ++ 0x0#6 ++ a ++ 0x20#14)
  | .cwb a => some (0x16#6 ++ 0x0#6 ++ a ++ 0x40#14)
  | .pref a => some (0x16#6 ++ 0x0#6 ++ a ++ 0x60#14)
  | .prefW a => some (0x16#6 ++ 0x0#6 ++ a ++ 0x68#14)
  | .send a b m n => some (0x17#6 ++ 0x0#6 ++ a ++ b ++ BitVec.ofBool m ++ BitVec.ofBool n ++ 0x0#6)
  | .sendV a b m n => some (0x17#6 ++ 0x0#6 ++ a ++ 0x0#1 ++ b ++ BitVec.ofBool m ++ BitVec.ofBool n ++ 0x1#6)
  | .sendP a b m n => some (0x17#6 ++ 0x0#6 ++ a ++ 0x0#3 ++ b ++ BitVec.ofBool m ++ BitVec.ofBool n ++ 0x2#6)
  | .take d => some (0x18#6 ++ d ++ 0x0#20)
  | .start a b m n => some (0x18#6 ++ 0x0#6 ++ a ++ b ++ BitVec.ofBool m ++ BitVec.ofBool n ++ 0x1#6)
  | .reap d a m => some (0x18#6 ++ d ++ a ++ 0x0#6 ++ BitVec.ofBool m ++ 0x2#7)
  | .kill a b m n => some (0x18#6 ++ 0x0#6 ++ a ++ b ++ BitVec.ofBool m ++ BitVec.ofBool n ++ 0x3#6)
  | .yield => some (0x18#6 ++ 0x4#26)
  | .retire a m => some (0x18#6 ++ 0x0#6 ++ a ++ 0x0#6 ++ BitVec.ofBool m ++ 0x5#7)
  | .migrate a m => some (0x18#6 ++ 0x0#6 ++ a ++ 0x0#6 ++ BitVec.ofBool m ++ 0x6#7)
  | .lnch a b m n => some (0x18#6 ++ 0x0#6 ++ a ++ b ++ BitVec.ofBool m ++ BitVec.ofBool n ++ 0x7#6)
  | .enqM a m => some (0x19#6 ++ 0x0#6 ++ a ++ 0x0#6 ++ BitVec.ofBool m ++ 0x0#7)
  | .enqC a m => some (0x19#6 ++ 0x0#6 ++ a ++ 0x0#6 ++ BitVec.ofBool m ++ 0x1#7)
  | .fork d a b m n => some (0x19#6 ++ d ++ a ++ b ++ BitVec.ofBool m ++ BitVec.ofBool n ++ 0x2#6)
  | .rdv d => some (0x19#6 ++ d ++ 0x3#20)
  | .accrd d c k => some (0x1A#6 ++ 0x0#1 ++ d ++ c ++ k ++ 0x0#14)
  | .accwr d c k => some (0x1A#6 ++ 0x0#1 ++ d ++ c ++ k ++ 0x1#14)
  | .barInit a b m n => some (0x1B#6 ++ 0x0#6 ++ a ++ b ++ BitVec.ofBool m ++ BitVec.ofBool n ++ 0x0#6)
  | .barArr a m => some (0x1B#6 ++ 0x0#6 ++ a ++ 0x0#6 ++ BitVec.ofBool m ++ 0x1#7)
  | .barWait a m => some (0x1B#6 ++ 0x0#6 ++ a ++ 0x0#6 ++ BitVec.ofBool m ++ 0x2#7)
  | .barWaitDrop a m => some (0x1B#6 ++ 0x0#6 ++ a ++ 0x0#6 ++ BitVec.ofBool m ++ 0x3#7)
  | .tdq d a m => some (0x1C#6 ++ d ++ a ++ 0x0#6 ++ BitVec.ofBool m ++ 0x0#7)
  | .tdset a b m n => some (0x1C#6 ++ 0x0#6 ++ a ++ b ++ BitVec.ofBool m ++ BitVec.ofBool n ++ 0x1#6)
  | .tdzero a b m n => some (0x1C#6 ++ 0x0#6 ++ a ++ b ++ BitVec.ofBool m ++ BitVec.ofBool n ++ 0x2#6)
  | .pub a s m => some (0x1C#6 ++ 0x0#6 ++ a ++ 0x0#3 ++ s ++ BitVec.ofBool m ++ 0x3#7)
  | .gear i => some (0x1D#6 ++ 0x0#13 ++ i)
  | .ophint i => some (0x1D#6 ++ 0x80#13 ++ i)
  | .vadd r d a b p f => some (0x4#3 ++ r ++ d ++ a ++ b ++ p ++ f ++ 0x0#6)
  | .vsub r d a b p f => some (0x4#3 ++ r ++ d ++ a ++ b ++ p ++ f ++ 0x1#6)
  | .vmul r d a b p f => some (0x4#3 ++ r ++ d ++ a ++ b ++ p ++ f ++ 0x2#6)
  | .vfma r d a b p f => some (0x4#3 ++ r ++ d ++ a ++ b ++ p ++ f ++ 0x3#6)
  | .vfms r d a b p f => some (0x4#3 ++ r ++ d ++ a ++ b ++ p ++ f ++ 0x4#6)
  | .vdiv r d a b p f => some (0x4#3 ++ r ++ d ++ a ++ b ++ p ++ f ++ 0x5#6)
  | .vsqrt r d a p f => some (0x4#3 ++ r ++ d ++ a ++ 0x0#5 ++ p ++ f ++ 0x6#6)
  | .vrcp r d a p f => some (0x4#3 ++ r ++ d ++ a ++ 0x0#5 ++ p ++ f ++ 0x7#6)
  | .vrsqrt r d a p f => some (0x4#3 ++ r ++ d ++ a ++ 0x0#5 ++ p ++ f ++ 0x8#6)
  | .vsum r d a p f => some (0x4#3 ++ r ++ d ++ a ++ 0x0#5 ++ p ++ f ++ 0x9#6)
  | .vdot r d a b p f => some (0x4#3 ++ r ++ d ++ a ++ b ++ p ++ f ++ 0xA#6)
  | .vcvt r d a c p f => some (0x4#3 ++ r ++ d ++ a ++ c ++ p ++ f ++ 0x10#6)
  | .vcvtSat r d a c p f => some (0x4#3 ++ r ++ d ++ a ++ c ++ p ++ f ++ 0x11#6)
  | .vwiden r d a c f => some (0x4#3 ++ r ++ d ++ a ++ c ++ 0x0#3 ++ f ++ 0x12#6)
  | .vnarrow r d a c f => some (0x4#3 ++ r ++ d ++ a ++ c ++ 0x0#3 ++ f ++ 0x13#6)
  | .vnarrowSat r d a c f => some (0x4#3 ++ r ++ d ++ a ++ c ++ 0x0#3 ++ f ++ 0x14#6)
  | .vqnt r d a c f => some (0x4#3 ++ r ++ d ++ a ++ c ++ 0x0#3 ++ f ++ 0x15#6)
  | .vscale r d a b p f => some (0x4#3 ++ r ++ d ++ a ++ b ++ p ++ f ++ 0x16#6)
  | .vmin d a b p f => some (0x26#6 ++ d ++ a ++ b ++ p ++ f ++ 0x0#6)
  | .vmax d a b p f => some (0x26#6 ++ d ++ a ++ b ++ p ++ f ++ 0x1#6)
  | .vabs d a p f => some (0x26#6 ++ d ++ a ++ 0x0#5 ++ p ++ f ++ 0x2#6)
  | .vneg d a p f => some (0x26#6 ++ d ++ a ++ 0x0#5 ++ p ++ f ++ 0x3#6)
  | .vmaxr d a p f => some (0x26#6 ++ d ++ a ++ 0x0#5 ++ p ++ f ++ 0x4#6)
  | .vminr d a p f => some (0x26#6 ++ d ++ a ++ 0x0#5 ++ p ++ f ++ 0x5#6)
  | .vexp2 d a p f => some (0x26#6 ++ d ++ a ++ 0x0#5 ++ p ++ f ++ 0x8#6)
  | .vlog2 d a p f => some (0x26#6 ++ d ++ a ++ 0x0#5 ++ p ++ f ++ 0x9#6)
  | .vexp d a p f => some (0x26#6 ++ d ++ a ++ 0x0#5 ++ p ++ f ++ 0xA#6)
  | .vlog d a p f => some (0x26#6 ++ d ++ a ++ 0x0#5 ++ p ++ f ++ 0xB#6)
  | .vtanh d a p f => some (0x26#6 ++ d ++ a ++ 0x0#5 ++ p ++ f ++ 0xC#6)
  | .vsigm d a p f => some (0x26#6 ++ d ++ a ++ 0x0#5 ++ p ++ f ++ 0xD#6)
  | .vcmp d a b p f c => some (0x26#6 ++ 0x0#2 ++ d ++ a ++ b ++ p ++ f ++ 0x2#3 ++ c)
  | .vsel d a b p f => some (0x26#6 ++ d ++ a ++ b ++ p ++ f ++ 0x18#6)
  | .vand d a b p f => some (0x26#6 ++ d ++ a ++ b ++ p ++ f ++ 0x20#6)
  | .vor d a b p f => some (0x26#6 ++ d ++ a ++ b ++ p ++ f ++ 0x21#6)
  | .vxor d a b p f => some (0x26#6 ++ d ++ a ++ b ++ p ++ f ++ 0x22#6)
  | .vnot d a p f => some (0x26#6 ++ d ++ a ++ 0x0#5 ++ p ++ f ++ 0x23#6)
  | .vshl d a b p f => some (0x26#6 ++ d ++ a ++ b ++ p ++ f ++ 0x24#6)
  | .vshr d a b p f => some (0x26#6 ++ d ++ a ++ b ++ p ++ f ++ 0x25#6)
  | .vsar d a b p f => some (0x26#6 ++ d ++ a ++ b ++ p ++ f ++ 0x26#6)
  | .vperm d a b p f => some (0x27#6 ++ d ++ a ++ b ++ p ++ f ++ 0x0#6)
  | .vbcast d a p f => some (0x27#6 ++ d ++ a ++ 0x0#5 ++ p ++ f ++ 0x1#6)
  | .vext d a b f => some (0x27#6 ++ d ++ a ++ b ++ 0x0#3 ++ f ++ 0x2#6)
  | .vins d a b f => some (0x27#6 ++ d ++ a ++ b ++ 0x0#3 ++ f ++ 0x3#6)
  | .vloop a => some (0x27#6 ++ 0x0#5 ++ a ++ 0x8#16)
  | .vend => some (0x27#6 ++ 0x9#26)
  | .pand d a b => some (0x27#6 ++ 0x0#2 ++ d ++ 0x0#2 ++ a ++ 0x0#2 ++ b ++ 0x10#11)
  | .por d a b => some (0x27#6 ++ 0x0#2 ++ d ++ 0x0#2 ++ a ++ 0x0#2 ++ b ++ 0x11#11)
  | .pxor d a b => some (0x27#6 ++ 0x0#2 ++ d ++ 0x0#2 ++ a ++ 0x0#2 ++ b ++ 0x12#11)
  | .pnot d a => some (0x27#6 ++ 0x0#2 ++ d ++ 0x0#2 ++ a ++ 0x13#16)
  | .pcnt d a => some (0x27#6 ++ d ++ 0x0#2 ++ a ++ 0x14#16)
  | .pfirst d a => some (0x27#6 ++ d ++ 0x0#2 ++ a ++ 0x15#16)
  | .vld d a b => some (0x28#6 ++ d ++ a ++ b ++ 0x0#11)
  | .vst d a b => some (0x28#6 ++ d ++ a ++ b ++ 0x1#11)
  | .vlds d a b p f => some (0x28#6 ++ d ++ a ++ b ++ p ++ f ++ 0x2#6)
  | .vgath d a b p f => some (0x28#6 ++ d ++ a ++ b ++ p ++ f ++ 0x3#6)
  | .vscat d a b p f => some (0x28#6 ++ d ++ a ++ b ++ p ++ f ++ 0x4#6)
  | .csrr d c => some (0x3E#6 ++ d ++ 0x0#6 ++ c)
  | .csrw d a c => some (0x3F#6 ++ d ++ a ++ 0x1#2 ++ c)
  | .csrs d a c => some (0x3F#6 ++ d ++ a ++ 0x2#2 ++ c)
  | .csrc d a c => some (0x3F#6 ++ d ++ a ++ 0x3#2 ++ c)
  | .trap i => some (0x3F#6 ++ i ++ 0x1#14)
  | .brk i => some (0x3F#6 ++ i ++ 0x2#14)
  | .eret => some (0x3F#6 ++ 0x3#26)
  | .wfi => some (0x3F#6 ++ 0x4#26)
  | .tlbsd a => some (0x3F#6 ++ 0x0#6 ++ a ++ 0x5#14)
  | .wheelLoad a => some (0x3F#6 ++ 0x0#6 ++ a ++ 0x6#14)
  | .wheelArm => some (0x3F#6 ++ 0x7#26)
  | .wheelSwap => some (0x3F#6 ++ 0x8#26)
  | .partQuery d a => some (0x3F#6 ++ d ++ a ++ 0x9#14)
  | .partQuiesce d a => some (0x3F#6 ++ d ++ a ++ 0xA#14)
  | .partCommit d a => some (0x3F#6 ++ d ++ a ++ 0xB#14)
  | .mma _ => none
  | .mmz _ => none
  | .accld _ => none
  | .accst _ => none
  | .accclr _ => none
  | .copy _ => none
  | .copyRingAppend _ => none
  | .copyRed _ => none
  | .copyMc _ => none
  | .fill _ => none
  | .gath _ => none
  | .scat _ => none
  | .coll _ => none
  | .pubc _ => none
  | .tclass _ => none
  | .seqJmp _ => none
  | .seqLoop _ => none
  | .seqWaitOwn _ => none
  | .seqWaitSig _ => none
  | .seqSig _ => none
  | .seqEnd _ => none
  | .sequencerFetch _ _ _ => none
  | .forkedVectorIssue _ _ => none
  | .vectorStart _ _ => none
  | .vectorComplete _ _ _ => none
  | .loopBufferReplay _ => none
  | .matrixUpdate _ => none
  | .deferredTrap => none
  | .parkResume => none
  | .refusedRetry => none
  | .localPairing _ _ _ => none
  | .loadReturn _ => none
  | .tokenFill _ => none
  | .acknowledgement _ => none
  | .commonsQueueEntry _ => none
  | .commonsPairing _ _ _ => none
  | .turnBoundary _ _ => none
  | .remoteAccessArrival _ => none
  | .messageArrival _ => none
  | .messageResponse _ => none
  | .translationWalk _ => none
  | .faultRecordWrite _ => none
  | .fqdoneWrite _ _ _ => none
  | .sliceWriteSerialise _ => none
  | .sliceReadMiss _ => none
  | .sliceAtomic _ => none
  | .remoteWriteForward _ _ => none
  | .hostCxlAccess _ _ _ _ => none
  | .lqtailWrite _ _ _ _ => none
  | .lqsizeWrite _ _ _ _ _ => none
  | .launchRead _ => none
  | .recordPlace _ => none
  | .continuationPlace _ => none
  | .agePromotion _ => none
  | .poolGrant _ => none
  | .taskEnd _ => none
  | .killEffect => none
  | .puntySpill _ => none
  | .migrationSend _ => none
  | .migrationArrival _ => none
  | .forwardExpiry _ _ _ _ => none
  | .ringReserve _ _ => none
  | .ringLanding _ _ _ _ => none
  | .copyChunk _ _ _ => none
  | .reducePieceApply _ _ _ _ => none
  | .collArrival _ _ => none
  | .collResultWrite _ _ _ => none
  | .peerChunkReceive _ _ _ _ _ _ _ _ _ _ => none
  | .peerAckReceive _ _ _ _ _ => none
  | .peerRetransmitTimeout _ _ _ => none
  | .barrierArrival _ _ => none
  | .barrierRelease _ _ => none
  | .gearEvaluate _ => none
  | .lholdExpiry _ _ => none
  | .hopEnd _ => none
  | .clockStepEnd _ _ => none
  | .powerSample _ _ _ _ _ => none
  | .removalTimeout _ => none
  | .exemptionLapse _ => none
  | .fabricOpEval _ => none
  | .droop _ => none
  | .droopRecovery _ => none
  | .bretWrite _ _ _ => none
  | .optableWrite _ _ _ => none
  | .keyDiscard _ _ _ => none
  | .asidtbWrite _ _ _ => none
  | .casidWrite _ _ _ => none
  | .pctlWrite _ _ _ => none
  | .ceilWrite _ _ _ => none
  | .prailWrite _ _ => none
  | .agemonClr _ _ _ => none
  | .registerWrite _ _ _ => none
  | .linkDown => none
  | .linkUp _ => none
  | .dieReset _ => none
  | .powerUpBoot _ _ _ _ _ => none
  | .hostImageSupply _ _ _ _ _ => none
  | .puntyRestore _ => none
  | .lineFilledFromMemory _ _ => none
  | .memoryWriteAcknowledged _ _ => none
  | .uncorrectableError _ => none
  | .attestationReport _ => none
  | .standby => none
  | .flitReplay => none

/-- The command that a 256-bit word holds, by its opcode (R241). A `copy` whose transform is ring append (R358, R360) and
the two modes of `seq.wait` (R370) are rows of their own in the opcode table. -/
def decodeCommand (c : CmdWord) : Option Instr :=
  match (c.w0.extractLsb' 0 8).toNat with
  | 0x01 => some (.mma c)
  | 0x02 => some (.mmz c)
  | 0x08 => some (.accld c)
  | 0x09 => some (.accst c)
  | 0x0A => some (.accclr c)
  | 0x10 => if c.w0.extractLsb' 11 3 == 4#3 then some (.copyRingAppend c) else some (.copy c)
  | 0x11 => some (.copyRed c)
  | 0x12 => some (.copyMc c)
  | 0x13 => some (.fill c)
  | 0x14 => some (.gath c)
  | 0x15 => some (.scat c)
  | 0x16 => some (.coll c)
  | 0x18 => some (.pubc c)
  | 0x19 => some (.tclass c)
  | 0x20 => some (.seqJmp c)
  | 0x21 => some (.seqLoop c)
  | 0x22 => if c.w1.getLsbD 2 then some (.seqWaitSig c) else some (.seqWaitOwn c)
  | 0x23 => some (.seqSig c)
  | 0x24 => some (.seqEnd c)
  | _ => none

/-- The command word of a command instruction. -/
def encodeCommand : Instr → Option CmdWord
  | .mma c => some c
  | .mmz c => some c
  | .accld c => some c
  | .accst c => some c
  | .accclr c => some c
  | .copy c => some c
  | .copyRingAppend c => some c
  | .copyRed c => some c
  | .copyMc c => some c
  | .fill c => some c
  | .gath c => some c
  | .scat c => some c
  | .coll c => some c
  | .pubc c => some c
  | .tclass c => some c
  | .seqJmp c => some c
  | .seqLoop c => some c
  | .seqWaitOwn c => some c
  | .seqWaitSig c => some c
  | .seqSig c => some c
  | .seqEnd c => some c
  | _ => none

/-- The instruction read from the little-endian bits `w`, numbered as spec/opcode_table.json numbers them: one 32-bit
word is a thread instruction, 256 bits are a command word, word 0 lowest (R1, R225). -/
def decodeTableWord (nbits w : Nat) : Option Instr :=
  if nbits ≤ 32 then
    match decode (BitVec.ofNat 32 w) with
    | .ok i => some i
    | .error _ => none
  else
    let c : BitVec 256 := BitVec.ofNat 256 w
    decodeCommand ⟨c.extractLsb' 0 64, c.extractLsb' 64 64, c.extractLsb' 128 64, c.extractLsb' 192 64⟩

end Sys2Proof
end

