-- ==== Sys2Proof/Config.lean ====
section
/-! DEFINITION. What the N3 fixes where the architecture leaves the choice to the implementation
(spec/24_implementation_choices.md R384-R387), and the free values of the model: opaque constants, about which nothing
can be proved (notes/assumptions/6.md). -/

namespace Sys2Proof.Config

/-- DESIGN CHOICE (notes/assumptions/5.md): the cell runtime's entry point of R19, which the spec does not give. -/
def runtimeEntry : Word := 0x100000000#64

/-- PARKLIM at `start` (R70, R387). -/
def parkLimit : Word := 4096#64
/-- Commons request queue entries of a core position or port lane (R96, R385). -/
def commonsQueue : Nat := 32
/-- Bytes that a cell's inbound port FIFO holds while its clock is stopped (R199). -/
def portFifo : Nat := 16384
/-- Turn-atomic staging entries of a bank (R98, R385). -/
def stagingPerBank : Nat := 32
/-- Blocks in flight of a core (R289, R385). -/
def blocksPerCore : Nat := 4
/-- Launch queues of a graph engine (R140, R385). -/
def launchQueues : Nat := 8
/-- Nodes of one launch (R141, R385). -/
def nodesPerLaunch : Nat := 4096
/-- Launches that one graph engine runs at once (R142, R385). -/
def launchesAtOnce : Nat := 4
/-- Entries of a core's matrix command queue (R154; architectural). -/
def matrixQueue : Nat := 16
/-- Entries of a core's copy command queue (R154, R385). -/
def copyQueue : Nat := 16
/-- Entries of a core's vector queue (R15; architectural). -/
def vectorQueue : Nat := 8
/-- Copies in flight of a cell (R156, R385). -/
def copiesPerCell : Nat := 64
/-- Chunks of a store replay queue (R158, R385). -/
def replayChunks : Nat := 32
/-- Pair entries of a cell (R311, R385). -/
def pairEntries : Nat := 8
/-- Entries of the operating-point table (R178, R385). -/
def opEntries : Nat := 4096
/-- Forwarding entries of a core (R162, R388). -/
def forwardEntries : Nat := 32
/-- Lines of an L2 slice: 1 MiB of 128-byte lines (R100). -/
def sliceLines : Nat := 8192
/-- Miss registers of an L2 slice (R102). -/
def missRegisters : Nat := 64
/-- Records of one level of a cell inbox (R148). -/
def inboxLevel : Nat := 16
/-- Size of the privileged aperture in bytes (R86, R385). -/
def privilegedSize : Nat := 0x100000000
/-- Lehr hold time in ns (R197, R384). -/
def lhold : Nat := 2000
/-- Time of a hop in ns (R198, R388). -/
def hopTime : Nat := 320
/-- Clock stop of a cell step within a gear, in ns (R191, R384). -/
def cellStepTime : Nat := 40
/-- Longest droop stretch in ns (R190, R210, R384). -/
def droopTime : Nat := 100
/-- Time from the last stamp of a phase to its release tick, in ns (R202, R388). -/
def releaseDelay : Nat := 40
/-- Longest removal of a live slot in ns, and length of an exemption (R30, R205, R388). -/
def removalBound : Nat := 50000
/-- Life of a forwarding entry in fabric cycles (R162, R388). -/
def forwardLife : Nat := 4096
/-- Attempts after which a peer chunk counts as unreachable (R218, R384). -/
def peerAttempts : Nat := 16

/-- Free value: the bytes that a read returns where the spec gives them no meaning (R112, R380). -/
opaque freeByte : Nat → Byte
/-- Free value: 64 bits where the spec gives no value (key material, signatures, R223; lost contents, R168). -/
opaque freeWord : Nat → Word
/-- Free value: the time in ns that one step lets pass beyond 1 ns; times are left out (notes/assumptions/1.md). -/
opaque elapsed : Nat → Nat
/-- Free value: whether the slope budget allows a hop down; the estimate is implementation-chosen (R207). -/
opaque slopeAnswer : Nat → Bool
/-- Free value: the lattice flits that a die counts in a step, by the counter of free values and the die (R194). -/
opaque flitsOf : Nat → Nat → Nat
/-- Free value: the minimum security version fused in the package (R222). -/
opaque fusedMinimum : BitVec 8

end Sys2Proof.Config
end

