-- ==== Sys2Proof/Machine/Map.lean ====
section
/-! DEFINITION. Finite maps from natural numbers, held as lists with rising keys, and byte memories in canonical form. -/

namespace Sys2Proof.Machine

/-- A finite map: rising keys; a key not listed has the default of whoever reads it. -/
abbrev FMap (V : Type) := List (Nat × V)

namespace FMap

variable {V : Type}

/-- The value listed at a key. -/
def find? : FMap V → Nat → Option V
  | [], _ => none
  | (k, v) :: m, a => if a = k then some v else find? m a

/-- The value at a key, or the default. -/
def get (d : V) (m : FMap V) (a : Nat) : V := (m.find? a).getD d

/-- Lists a value at a key, in place of what was listed there. -/
def put : FMap V → Nat → V → FMap V
  | [], a, v => [(a, v)]
  | (k, w) :: m, a, v =>
    if a < k then (a, v) :: (k, w) :: m
    else if a = k then (a, v) :: m
    else (k, w) :: put m a v

/-- Lists nothing at a key. -/
def del : FMap V → Nat → FMap V
  | [], _ => []
  | (k, w) :: m, a => if a = k then m else (k, w) :: del m a

/-- Rising keys, all of them at or above a bound. -/
def risingFrom : Nat → FMap V → Bool
  | _, [] => true
  | n, (k, _) :: m => decide (n ≤ k) && risingFrom (k + 1) m

/-- Strictly rising keys. -/
def wf (m : FMap V) : Bool := risingFrom 0 m

end FMap

/-- A byte memory: strictly rising addresses, and no entry equal to 0, which is what an unlisted address reads as
(notes/assumptions/4.md). -/
abbrev Memory := List Host.Cell

namespace Memory

/-- The byte at an address. -/
def read (m : Memory) (a : Nat) : Byte := FMap.get 0#8 m a

/-- Writes one byte; writing 0 takes the entry out, so that equal memories are equal lists. -/
def write (m : Memory) (a : Nat) (b : Byte) : Memory := if b = 0#8 then FMap.del m a else FMap.put m a b

/-- Some entry holds 0. -/
def hasZero : Memory → Bool
  | [] => false
  | (_, b) :: m => b == 0#8 || hasZero m

/-- The canonical form. -/
def wf (m : Memory) : Bool := FMap.wf m && !hasZero m

/-- The n bytes at an address as a little-endian number (R1). -/
def readN (m : Memory) (a : Nat) : Nat → Nat
  | 0 => 0
  | n + 1 => (read m a).toNat + 256 * readN m (a + 1) n

/-- Writes the n low bytes of a number, little-endian (R1). -/
def writeN (m : Memory) (a : Nat) : Nat → Nat → Memory
  | 0, _ => m
  | n + 1, v => writeN (write m a (BitVec.ofNat 8 v)) (a + 1) n (v / 256)

/-- Takes out every entry with lo ≤ address < hi: those bytes read as 0. -/
def clear (m : Memory) (lo hi : Nat) : Memory := m.filter (fun c => !(decide (lo ≤ c.1) && decide (c.1 < hi)))

end Memory

end Sys2Proof.Machine
end

