-- ==== Sys2Proof/Machine/State.lean ====
section
/-! DEFINITION. The machine's state: everything the spec gives the Aelaro N3 (INVENTORY.md lists each piece with its rule
and its reset value), as plain data; and the state after reset.

Numbers of places: cell number 240 d + 16 c + e (R11); core number 4 cell + k; slot number 16 core + s. -/

namespace Sys2Proof.Machine

/-! ## Slots -/

/-- Final statuses of a task (R150). -/
inductive Final where
  | ok | failed | trapped | killed | suspended
  deriving DecidableEq, Repr

/-- Why a slot is parked (R4 and the rules named). -/
inductive Park where
  /-- `start` waits for registers (R149) -/
  | pool
  /-- full matrix or copy queue (R154) -/
  | mqueue | cqueue
  /-- accumulator lock or earlier commands (R75) -/
  | lock
  /-- ring in use (R77) -/
  | ring
  /-- full commons queue, or four blocks in flight (R96, R289) -/
  | commons
  /-- full launch queue (R143) -/
  | launch
  /-- sequencer of another slot (R304) -/
  | fork
  /-- full vector queue (R15) -/
  | vqueue
  /-- refused synchronising request (R281) -/
  | refused
  /-- demand fault (R33, R108) -/
  | fault
  /-- UNACK reads 0xFFFF (R71) -/
  | unack
  /-- `bar.wait` of a barrier word (R302) -/
  | barrier (word : Word)
  /-- `wfi` (R316) -/
  | wfi
  deriving DecidableEq, Repr

/-- What a slot is doing (R150, R159, R161). -/
inductive Status where
  /-- holds no task -/
  | empty
  /-- started; issues at its turns -/
  | live
  /-- stopped issuing; waits for its end under R150 with this status and INFO -/
  | ending (f : Final) (info : BitVec 32)
  /-- the punty spills it (R159); whether the power controller asked -/
  | spilling (byPower : Bool)
  /-- it migrates (R161) to a slot; whether the power controller asked -/
  | moving (target : Nat) (byPower : Bool)
  /-- `start` of a suspended record: the punty restores it (R149) -/
  | restoring
  /-- holds a final status until it is reaped (R152) -/
  | ended (f : Final) (info : BitVec 32)
  deriving DecidableEq, Repr

/-- A captured or queued vector instruction: the instruction, its PC, its scalar operands, and the slot's VFMT and RMODE, all
as read at issue or capture (R324, R346) (DEDUCED, notes/assumptions/59.md). -/
structure VItem where
  instr : Instr
  pc : Word
  x : Word
  y : Word
  vfmt : Word
  rmode : Word
  deriving DecidableEq, Repr

/-- The loop buffer of a slot (R346, R347). -/
structure Loop where
  count : Nat
  body : List VItem
  deriving DecidableEq, Repr

/-- A replay in progress (R347): the body, its count, the serial number of its `vend`, and the iteration and body position to be
appended next. -/
structure Replay where
  body : List VItem
  count : Nat
  order : Nat
  k : Nat
  j : Nat
  deriving DecidableEq, Repr

/-- The record of a slot's last `fork` (R306, R370): statuses (0 not forked, 15 running), failing words and cause, and the four
signal counters of its command programs. -/
structure ForkRec where
  mst : Nat
  cst : Nat
  vst : Nat
  mfail : Nat
  cfail : Nat
  vfail : Nat
  cause : Nat
  sigs : List Nat
  deriving DecidableEq, Repr

/-- A deferred trap that waits for the slot's next issue (R83). -/
structure Deferred where
  cause : Nat
  detail : Nat
  tval : Word
  deriving DecidableEq, Repr

/-- What a `tlbsd` shoots down: a range of addresses of some ASIDs, on the dies of a partition (R111, R317). -/
structure Shoot where
  part : Nat
  asidLo : Nat
  asidHi : Nat
  lo : Nat
  hi : Nat
  deriving DecidableEq, Repr

/-- One thread slot (R61-R71). -/
structure Slot where
  status : Status
  gen : BitVec 8
  pc : Word
  ns : Nat
  nv : Nat
  sreg : FMap Word
  vreg : FMap VReg
  preg : FMap PReg
  sfull : BitVec 64
  spend : BitVec 64
  sdead : BitVec 64
  serr : BitVec 64
  vfull : BitVec 32
  vpend : BitVec 32
  vdead : BitVec 32
  verr : BitVec 32
  pfull : BitVec 8
  ppend : BitVec 8
  perr : BitVec 8
  phase : BitVec 8
  tid : Word
  tix : Word
  tiy : Word
  tiz : Word
  targ : Word
  tfmt : Word
  tsca : Word
  tscb : Word
  tkey : Word
  vfmt : Word
  rmode : Word
  fflags : Word
  greq : Word
  cvmask : Word
  colr : Word
  parklim : Word
  unack : Word
  aown : Word
  tvec : Word
  tcause : Word
  tepc : Word
  tval : Word
  save : Word
  park : Option Park
  tries : Nat
  await : Option Nat
  killReq : Option (BitVec 8)
  deferred : Option Deferred
  cap : Option Loop
  replay : Option Replay
  fork : Option ForkRec
  opIdx : Option Nat
  removedAt : Option Word
  exemptUntil : Option Word
  /-- the shoot-down of a begun `tlbsd` of the slot, and the accesses for which it waits (R111, R317) -/
  shoot : Option (Shoot × List Nat)
  deriving DecidableEq, Repr

/-- An empty slot: nothing started in it (registers 0 and full: notes/assumptions/5.md). -/
def Slot.init : Slot :=
  { status := .empty, gen := 0#8, pc := 0#64, ns := 0, nv := 0, sreg := [], vreg := [], preg := []
    sfull := BitVec.allOnes 64, spend := 0#64, sdead := 0#64, serr := 0#64
    vfull := BitVec.allOnes 32, vpend := 0#32, vdead := 0#32, verr := 0#32
    pfull := BitVec.allOnes 8, ppend := 0#8, perr := 0#8, phase := 0#8
    tid := 0#64, tix := 0#64, tiy := 0#64, tiz := 0#64, targ := 0#64, tfmt := 0#64, tsca := 0#64, tscb := 0#64
    tkey := 0#64, vfmt := 0#64, rmode := 0#64, fflags := 0#64, greq := 0#64, cvmask := 0#64, colr := 0#64
    parklim := 0#64, unack := 0#64, aown := 0#64, tvec := 0#64, tcause := 0#64, tepc := 0#64, tval := 0#64
    save := 0#64, park := none, tries := 0, await := none, killReq := none, deferred := none, cap := none
    replay := none, fork := none, opIdx := none, removedAt := none, exemptUntil := none, shoot := none }

/-! ## Cores -/

/-- A command in a matrix or copy queue: its word with COLOUR replaced (R242), its slot, generation, the TFMT.FC recorded
at enqueue (R353), and whether a sequencer placed it. -/
structure Cmd where
  word : CmdWord
  sid : Nat
  gen : BitVec 8
  fc : Nat
  forked : Bool
  deriving DecidableEq, Repr

/-- An entry of a core's vector queue (R15, R324): its serial number, its place in its slot's program (R114), slot, item, F of its
destination before, whether the loop buffer or a forked program placed it, and a register in error that it reads, which traps where
nothing else does (R82). -/
structure VEntry where
  vid : Nat
  order : Nat
  sid : Nat
  gen : BitVec 8
  item : VItem
  oldF : Bool
  forked : Bool
  replayed : Bool
  poison : Option Nat
  deriving DecidableEq, Repr

/-- A started vector instruction (R324, R325): its results, written when it completes; for a memory access the identity of
its units in flight and how many are still owed. -/
structure VRun where
  vid : Nat
  sid : Nat
  gen : BitVec 8
  pc : Word
  oldF : Bool
  forked : Bool
  replayed : Bool
  vw : List (Nat × VReg)
  pw : List (Nat × PReg)
  sw : List (Nat × Word)
  flags : BitVec 5
  err : Bool
  memory : Bool
  store : Bool
  owed : Nat
  deriving DecidableEq, Repr

/-- A forwarding entry (R162): old slot and generation, target slot's number and generation; `expires` is the FCYC at which
its life ends, 0 where V is 0. -/
structure Fwd where
  oslot : Nat
  ogen : BitVec 8
  target : Nat
  tgen : BitVec 8
  expires : Nat
  deriving DecidableEq, Repr

/-- A block in flight (R288-R291, R98): addresses as unit numbers, the units not yet served at the commons and not yet
finished at the local side, those that it has written there, the turn boundary at which a turn-atomic block reserved, staged or
snapshot words, the lowest failing unit; `entered` is the serial number of its entry into the block engine. -/
structure Blk where
  bid : Nat
  sid : Nat
  gen : BitVec 8
  wr : Bool
  atomic : Bool
  scope : Nat
  entered : Option Nat
  cunit : Nat
  lunit : Nat
  count : Nat
  dreg : Nat
  reservedAt : Option Nat
  todo : List Nat
  landing : Nat
  landed : List Nat
  snap : List (Nat × Nat)
  code : Nat
  unit : Nat
  deriving DecidableEq, Repr

/-- One active loop of a sequencer (R370). -/
structure SeqLoop where
  idx : Nat
  first : Nat
  body : Nat
  count : Nat
  i : Nat
  s1 : Word
  s2 : Word
  deriving DecidableEq, Repr

/-- A running forked command program (R304, R370): its slot, base address, next word, active loops innermost first, the
COLR taken at `fork`, the commands it has placed that have not completed, a fetched sequencer command that waits to be carried
out, and the status with which it ends once they have completed. -/
structure Seq where
  sid : Nat
  gen : BitVec 8
  base : Word
  next : Nat
  loops : List SeqLoop
  colr : Word
  owed : Nat
  word : Option CmdWord
  ending : Option Nat
  deriving DecidableEq, Repr

/-- A running forked vector program (R304, R305); `await` is a memory instruction whose verdict it waits for (R344); `ending` is the
status and the cause with which it ends once its instructions are complete (R125, R306). -/
structure SeqV where
  sid : Nat
  gen : BitVec 8
  base : Word
  next : Nat
  await : Option Nat
  ending : Option (Nat × Nat) := none
  deriving DecidableEq, Repr

/-- One line of an L1 data cache (R99, R274). -/
structure L1Line where
  asid : Nat
  va : Nat
  pa : Nat
  key : Nat
  wr : Bool
  data : BitVec 1024
  deriving DecidableEq, Repr

/-- One set of an L1: eight ways and the seven bits of the tree pseudo-LRU (R99, R386). -/
structure L1Set where
  ways : List (Option L1Line)
  plru : BitVec 7
  deriving DecidableEq, Repr

/-- An empty set. -/
def L1Set.init : L1Set := { ways := List.replicate 8 none, plru := 0#7 }

/-- The registers and queues that the slots of one core share. -/
structure Core where
  mq : List Cmd
  cq : List Cmd
  vq : List VEntry
  vrun : List VRun
  fwd : List Fwd
  blocks : List Blk
  seqM : Option Seq
  seqC : Option Seq
  seqV : Option SeqV
  /-- index registers i0-i3 of the matrix and of the copy sequencer (R304) -/
  indexM : List Nat
  indexC : List Nat
  l1 : FMap L1Set
  deriving DecidableEq, Repr

/-- A core with nothing queued. -/
def Core.init : Core :=
  { mq := [], cq := [], vq := [], vrun := [], fwd := [], blocks := [], seqM := none, seqC := none, seqV := none
    indexM := [0, 0, 0, 0], indexC := [0, 0, 0, 0], l1 := [] }

/-! ## Turns -/

/-- A step that only the outside world, or a timer of the power controller or of an inbox, starts (R31, R179, R197, R205, R217,
R218), while it is due or waits: the event of the opcode table with these arguments; or the end of an accumulator transfer whose
units have been served (R353). -/
inductive Later where
  | age (cell : Nat)
  | removal (sid : Nat)
  | lapse (sid : Nat)
  | lhold (cell : Nat) (budget : Bool)
  | fabric (die : Nat)
  | peerChunk (peer srcCell serial chunk : Nat) (addr : BitVec 128) (udp : BitVec 16) (rpart : Nat) (va : Word) (red : Nat)
      (bytes : List Byte)
  | peerAck (cell serial chunk : Nat) (status : Word) (bytes : List Byte)
  | tile (job : Nat)
  deriving DecidableEq, Repr

/-- A turn of an agent: a slot issues, a cell's matrix unit takes a command, a core's copy queue hands its head over, a
core's sequencer carries out a control word, or a step of the opcode table's other agents falls. -/
inductive Turn where
  | issue (sid : Nat)
  | matrix (cell : Nat)
  | copy (core : Nat)
  | control (core : Nat) (copyProg : Bool)
  | event (i : Instr)
  | later (l : Later)
  deriving DecidableEq, Repr

/-! ## Cells -/

/-- Classes of the tile directory (R169). -/
inductive FrameClass where
  | zero | constant | identity | general
  deriving DecidableEq, Repr

/-- A directory entry (R169). -/
structure DirEntry where
  cls : FrameClass
  fin : Bool
  fmt : Nat
  value : BitVec 32
  err : Bool
  deriving DecidableEq, Repr

/-- The entry at reset (R169). -/
def DirEntry.init : DirEntry := { cls := .zero, fin := true, fmt := 0, value := 0#32, err := false }

/-- A pair entry (R311). -/
structure PairEntry where
  first : Nat
  n : Nat
  flip : Bool
  deriving DecidableEq, Repr

/-- An accumulator: C[i][j] in bits 32 (32 i + j) upwards, sticky flags, lock, error marks of its eight blocks of four rows (R54,
R74, R84). -/
structure Acc where
  data : BitVec 32768
  flags : BitVec 5
  lock : Bool
  err : BitVec 8
  deriving DecidableEq, Repr

/-- An accumulator at reset. -/
def Acc.init : Acc := { data := 0#32768, flags := 0#5, lock := false, err := 0#8 }

/-- The hidden side of an operand ring (R157): slots reserved past the last counted one, and of those the slots whose data
and whose scale strip have landed, with the sequence number each carries. -/
structure RingHidden where
  reserved : Nat
  dataLanded : FMap (BitVec 8)
  scaleLanded : FMap (BitVec 8)
  dseq : FMap (BitVec 8)
  sseq : FMap (BitVec 8)
  deriving DecidableEq, Repr

/-- A ring with nothing reserved. -/
def RingHidden.init : RingHidden := { reserved := 0, dataLanded := [], scaleLanded := [], dseq := [], sseq := [] }

/-- A run of bytes of an operand that the matrix unit is to read: of B or of A, its number (32: the scale strip), offset and size
(R90, R352). -/
structure MUnit where
  b : Bool
  ix : Nat
  off : Nat
  n : Nat
  deriving DecidableEq, Repr

/-- A matrix operation between its issue and its update (R176, R352): whether C starts at zero; the operands it pops; its row of
R174 and its operands' directory entries, as they were at its issue (R175); the units it has yet to read and those that it has
read; whether one was in error; and, once it has read them all, the new contents and flags of its accumulator and the flags
raised. -/
structure MRun where
  cmd : Cmd
  core : Nat
  accNo : Nat
  zero : Bool
  popA : Option Nat
  popB : Option Nat
  row : Nat
  ents : List DirEntry
  todo : List MUnit
  gotA : FMap Nat
  gotB : FMap Nat
  bad : Bool
  data : BitVec 32768
  flags : BitVec 5
  raised : BitVec 5
  deriving DecidableEq, Repr

/-- The box of a copy (R356): extents of dimensions 0 to 3, source and destination strides of dimensions 1 to 3, the attribute
word, and the offsets of an index list (R365). -/
structure Geom where
  ext : List Nat
  ss : List Int
  ds : List Int
  attr : Word
  list : List Nat
  deriving DecidableEq, Repr

/-- The slots that a ring append has reserved (R157): ring, first slot, its sequence number, how many. -/
structure RingRun where
  q : Nat
  first : Nat
  seq : Nat
  k : Nat
  deriving DecidableEq, Repr

/-- Where a copy stands: its checks are still to be made; it waits for ring slots; it moves data; it waits for a column tree or
for earlier commands; it has completed and its token is on its way. -/
inductive CopyPhase where
  | plan | reserve | running | waiting | completed
  deriving DecidableEq, Repr

/-- A copy in flight (R156, R359, R377): its core, command and phase; its box; the next 4 KiB chunk to be issued and how many
there are; chunks parked in the store replay queue (R158); chunks that a peer has yet to acknowledge, with the attempts made
(R218); the pieces of a reducing copy that are owed and the applied-sequence record (R362); ring slots and what of them has
landed (R157); bytes still to be written of the frames that it writes whole (R171), by 2048 × cell + frame; cells that refused
it (R363); its contribution (R378); dies that count it (R193); flags and failure so far. -/
structure CopyRun where
  serial : Nat
  core : Nat
  cmd : Cmd
  phase : CopyPhase
  geom : Geom
  next : Nat
  chunks : Nat
  parked : List Nat
  acks : List Nat
  attempts : FMap Nat
  owed : List (Nat × Nat)
  applied : List (Nat × Nat)
  ring : Option RingRun
  landings : List (Nat × Bool)
  owe : FMap Nat
  dead : List Nat
  contrib : List (BitVec 32)
  dies : List Nat
  flags : BitVec 5
  fail : Option (Nat × Nat)
  deriving DecidableEq, Repr

/-- An inbox record: its address and the GTS of its entry into its level (R148). -/
structure InboxEntry where
  record : Word
  entered : Word
  deriving DecidableEq, Repr

/-- A `start` that waits for registers (R149): the gaffer's slot, and whether it waits for the cell's vector pool. -/
structure StartWait where
  gaffer : Nat
  vec : Bool
  deriving DecidableEq, Repr

/-- The gear state machine of a cell (R197): in Pending fall since a GTS; a hop with the GTS of its clock stop. -/
inductive GearState where
  | glory
  | pendingFall (since : Word)
  | hopDown (stop : Word)
  | lehr
  | hopUp (stop : Word)
  deriving DecidableEq, Repr

/-- Droop and step bookkeeping (R189, R190, R210-R212): begin and end by GTS of the stretches for which the pair has yet to be
rewritten; the GTS of recent droops with the operating-point entry in use, or the GTS of a die's last fabric evaluation (R179); GTS
at which a clock step ends and the frequency after it. -/
structure Droop where
  stretch : List (Word × Word)
  recent : List (Word × Option Nat)
  step : Option (Word × Nat)
  deriving DecidableEq, Repr

/-- How far the running gear's index may rise (R209): not before the next sample, by one, or as far as a thread asks. -/
inductive Lift where
  | hold | one | free
  deriving DecidableEq, Repr

/-- Something that has landed in a cell's inbound port FIFO while the cell's clock is stopped (R199): the turn that it brings, the
bytes that it takes up, and whether it is an acknowledgement or a NACK. -/
structure Landed where
  turn : Turn
  bytes : Nat
  ack : Bool
  deriving DecidableEq, Repr

/-- One cell. -/
structure Cell where
  mem : Memory
  fe : FMap Bool
  dir : FMap DirEntry
  pairs : List PairEntry
  q : FMap Word
  qs : FMap Word
  rings : FMap RingHidden
  win : FMap Word
  gear : Word
  gearState : GearState
  oppt : Word
  tdctl : Word
  mwt : Word
  mstep : Nat
  acc : FMap Acc
  mrun : Option MRun
  inbox : List (List InboxEntry)
  copies : List CopyRun
  bars : FMap Nat
  startWait : List StartWait
  droop : Droop
  /-- the running gear's index stands one lower until an exemption lapses (R205) -/
  stepDown : Bool
  /-- the rise that the power controller allows the running gear's index (R209) -/
  lift : Lift
  /-- the slot whose pre-emption the punty carries out (R159) -/
  puntyAt : Option Nat
  /-- words of local memory that a join has filled and no later fill (R125, R151) -/
  joined : List Nat
  /-- what has landed in the inbound port FIFO while the clock is stopped, in order of arrival (R199) -/
  fifo : List Landed
  deriving DecidableEq, Repr

/-- A cell at reset (R71-R78, R169, R197). -/
def Cell.init : Cell :=
  { mem := [], fe := [], dir := [], pairs := [], q := [], qs := [], rings := [], win := []
    gear := 5#64, gearState := .glory, oppt := 0x48#64, tdctl := 3#64, mwt := 0xE4E4E4E4#64, mstep := 0, acc := [], mrun := none
    inbox := [[], [], [], []], copies := [], bars := [], startWait := []
    droop := { stretch := [], recent := [], step := none }, stepDown := false, lift := .one, puntyAt := none, joined := [], fifo := [] }

/-! ## Accesses in flight -/

/-- Integer and floating operations of `amo` (R233). -/
inductive AmoOp where
  | add | and | or | xor | min | max | minu | maxu | swap | fadd
  deriving DecidableEq, Repr

/-- What an access does at its owner (R276-R289). -/
inductive MemOp where
  | load (n : Nat) (sx : Bool)
  | store (n v : Nat)
  | lds | ldw | feempty | feq
  | sts (v : Nat)
  | fefill (v : Nat)
  | amo (op : AmoOp) (n v : Nat)
  | cas (n e w : Nat)
  | lineRd
  | lineCst (n : Nat) (data stamps : VReg)
  deriving DecidableEq, Repr

/-- Who made an access. -/
inductive Src where
  /-- a scalar instruction: slot, generation, PC, destination register if any (64 + n: vector register n), the destination's
  F before issue, the registers whose F a sync-read took as `Slot.takenS` notes them, and whether it counts in UNACK -/
  | slot (sid : Nat) (gen : BitVec 8) (pc : Word) (dst : Option Nat) (oldF : Bool) (cons : List Nat) (counts : Bool)
  /-- unit or element i of a started vector access: bits lo .. lo + 8 n - 1 of its register -/
  | vec (core vid i lo : Nat)
  /-- local side of unit i of a block -/
  | blk (core bid i : Nat)
  deriving DecidableEq, Repr

/-- The answer to an access. -/
inductive Reply where
  | value (v : Nat)
  | done
  /-- refused by the full/empty state (R281) -/
  | refused
  /-- refused by the windows with the DETAIL of R92 -/
  | window (detail : Nat)
  /-- translation denied, with the first address of the denied page (R108, R272) -/
  | page (detail : Nat) (tval : Word)
  /-- the space does not allow the access (R271) -/
  | access
  /-- uncorrectable error, hole, or the link is down (R84, R97, R216) -/
  | machine
  /-- not aligned on a page that demands it (R272) -/
  | misalign
  /-- the instruction read a register in error (R84) -/
  | register (r : Nat)
  deriving DecidableEq, Repr

/-- Where an access stands. -/
inductive Stage where
  /-- queue of a local-wheel position of a cell (R90) -/
  | wheel (cell pos : Nat)
  /-- on the lattice to a remote cell (R92) -/
  | lattice (cell : Nat)
  /-- in the copy port's queue of a cell, served at positions 14 and 15 (R90) -/
  | port (cell : Nat)
  /-- before a commons queue (R96) -/
  | crossing (die pos : Nat)
  /-- in a commons queue (R96) -/
  | commons (die pos : Nat)
  /-- at the die's translation unit (R100) -/
  | walk (die : Nat)
  /-- refused by the full/empty state; its slot is parked and will try it again (R281) -/
  | held
  /-- parked on a demand fault (R108) -/
  | faulted
  /-- at a slice of a die (R101) -/
  | slice (die : Nat)
  /-- on its way to a privileged register, whose offset is `pa` (R278) -/
  | priv
  /-- merged into a slice's miss register (R102) -/
  | missed (die : Nat)
  /-- answered; the answer is on its way back -/
  | reply (r : Reply)
  deriving DecidableEq, Repr

/-- One access in flight. `pa`, `key` and `attr` are set by the translation, `attr` with 4 added where the leaf has WR; `pa2` and
`key2` are those of the second page of an unaligned access that spans two. `entered` is the serial number of its arrival where it
stands; `poison` is a register in error that its instruction read, which traps where nothing else does (R82, R84); `order` is its
place in its slot's program where that is another one than its own serial number: that of its vector instruction (R114). -/
structure Access where
  id : Nat
  cell : Nat
  core : Nat
  src : Src
  op : MemOp
  va : Word
  acq : Bool
  rel : Bool
  scope : Nat
  pa : Nat
  key : Nat
  pa2 : Nat
  key2 : Nat
  attr : Nat
  stage : Stage
  entered : Nat
  poison : Option Nat
  order : Option Nat := none
  deriving DecidableEq, Repr

/-! ## Jobs of the copy ports -/

/-- A run of bytes within one 64-byte unit of a local memory or of the commons (R89, R94): whether it lies in the commons; the cell
whose local memory it is, or whose partition's commons; its offset there, its size, and the number under which a job notes what it
reads of it. -/
structure Spot where
  commons : Bool
  cell : Nat
  off : Nat
  n : Nat
  key : Nat
  deriving DecidableEq, Repr

/-- What is done at a unit of a job where it is served: it is read, written, or added to element by element (R90, R361). -/
inductive UnitAct where
  | read
  | write (v : Nat)
  | reduce (v : Nat)
  deriving DecidableEq, Repr

/-- A unit of a job of a copy port (R90, R96): where, what, and the serial number of its entry into the queue where it is served, once
it stands there. -/
structure PortUnit where
  id : Nat
  job : Nat
  spot : Spot
  act : UnitAct
  entered : Option Nat
  deriving DecidableEq, Repr

/-- Work of a cell's copy port whose units are being served (R90, R359): the turn that goes on with it; the matrix command that it is of,
with its core, or the copy whose frames it writes; the format under which whole frames are recomputed; whether it writes by now; what
it has read, and the least code of what failed; bytes still to be written of the frames that a tile covers whole (R171); flags. -/
structure PortJob where
  id : Nat
  cell : Nat
  turn : Turn
  cmd : Option (Nat × Cmd) := none
  serial : Option Nat := none
  fmt : Option Nat := none
  writing : Bool := false
  got : FMap Nat := []
  fail : Option Nat := none
  owe : FMap Nat := []
  flags : BitVec 5 := 0#5
  deriving DecidableEq, Repr

/-- A token status on its way (R350): where it goes, the generation it is for, the status word, whether it fills a register, a
barrier arrival sent with it (R369), whether it is a block's, the copy of its cell that it ends (R377), and the scope of the release
that it is, as a thread code (R116, R125). -/
structure Token where
  id : Nat
  core : Nat
  slot : Nat
  reg : Nat
  gen : BitVec 8
  status : Word
  tok : Bool
  bar : Option (Nat × Nat)
  blk : Bool
  copy : Option Nat
  scope : Nat
  deriving DecidableEq, Repr

/-- The judgement of a message (R300). -/
inductive Verdict where
  | accepted | refused | nacked
  /-- it would be accepted, but its instruction read a register in error (R84) -/
  | broken
  deriving DecidableEq, Repr

/-- A message of `send`, `send.v` or `send.p` (R300): kind 0 scalar, 1 vector, 2 predicate; the registers whose F a sync-read
took, as `Slot.takenS` and `Slot.takenV` note them (96 + n: predicate); a register in error that it read; the answer once judged. -/
structure Message where
  id : Nat
  sid : Nat
  gen : BitVec 8
  pc : Word
  kind : Nat
  target : Word
  tcell : Nat
  value : VReg
  cons : List Nat
  poison : Option Nat
  answer : Option Verdict
  deriving DecidableEq, Repr

/-- A register-context message (R161): the slot that leaves, its accumulators, where it comes from and goes, whether the
power controller asked. -/
structure Context where
  id : Nat
  slot : Slot
  accs : List (Nat × Acc)
  osid : Nat
  target : Nat
  byPower : Bool
  deriving DecidableEq, Repr

/-! ## Dies and package -/

/-- A translation kept by a TLB (R108-R111): ASID (none when global), first address and size, leaf. -/
structure TlbEntry where
  die : Nat
  asid : Option Nat
  va : Nat
  size : Nat
  pte : Word
  deriving DecidableEq, Repr

/-- A line in the slice of its home (R101, R103): its die and number, the key under which it was filled or last written, its
stamp. -/
structure Line where
  die : Nat
  line : Nat
  key : Nat
  stamp : Word
  deriving DecidableEq, Repr

/-- A miss register (R102): die, line, key of the access that took it, whether it is closed to merging. -/
structure Miss where
  die : Nat
  line : Nat
  key : Nat
  closed : Bool
  deriving DecidableEq, Repr

/-- A replica of a remote-homed line on a die (R131). -/
structure Replica where
  die : Nat
  line : Nat
  key : Nat
  data : BitVec 1024
  deriving DecidableEq, Repr

/-- A write that a die has acknowledged at its replica and not yet forwarded to the home (R131); the slot that made it, if one did. -/
structure Forward where
  die : Nat
  home : Nat
  pa : Nat
  n : Nat
  v : Nat
  key : Nat
  sid : Option Nat
  deriving DecidableEq, Repr

/-- A fault record (R109): partition, ASID, address, kind, source; the index once written; the answer once given; the accesses of
engines, punties and copy chunks that are parked on it, and after an answer those that have not been made again: the turn that makes
each again, and which of the turn's accesses it is. -/
structure FaultRec where
  part : Nat
  asid : Nat
  va : Word
  kind : Nat
  source : Nat
  at_ : Word
  index : Option Nat
  answer : Option Nat
  waits : List (Turn × Nat)
  deriving DecidableEq, Repr

/-- A node of a running launch (R144, R145): its table entry; its dependence counter; when it became ready, as a serial number;
its next record, and whether that is written and not yet placed; its retirement counter, and how many of its tasks failed. -/
structure Node where
  pc : Word
  arg : Word
  x : Nat
  y : Nat
  z : Nat
  flags : BitVec 32
  fmt : BitVec 32
  key : BitVec 32
  sca : Word
  scb : Word
  recs : Word
  saves : Word
  deps : Nat
  succ : List Nat
  stop : Bool
  ready : Option Nat
  placed : Nat
  written : Bool
  retired : Nat
  failed : Nat
  complete : Bool
  deriving DecidableEq, Repr

/-- Where a launch stands (R142): its entry has been read, and its graph, whose header lies at an address, is still to be
read; it runs; it has ended, and its completion word is to be written. -/
inductive LaunchPhase where
  | opening (header : Word)
  | running
  | closing (word : Word)
  deriving DecidableEq, Repr

/-- A launch that its engine has taken from its queue (R142); `done` is its completion word's address. -/
structure Launch where
  /-- serial number, which tells its accesses from those of other launches -/
  id : Nat := 0
  part : Nat
  done : Word
  phase : LaunchPhase
  nodes : List Node
  cut : Bool
  deriving DecidableEq, Repr

/-- A record of deterministic placement that waits for room in its cell's inbox (R21). -/
structure Held where
  part : Nat
  cell : Nat
  record : Word
  prio : Nat
  deriving DecidableEq, Repr

/-- A barrier of a partition (R301, R302, R202): members, open phase, arrivals counted for it, greatest stamp and its source number
(R195), release tick once its last arrival is stamped, arrivals that came after that, with their greatest stamp and its source. -/
structure Barrier where
  m : Nat
  phase : Nat
  count : Nat
  stamp : Nat
  source : Nat
  release : Option Nat
  next : Nat
  nextStamp : Nat
  nextSource : Nat
  deriving DecidableEq, Repr

/-- An arrival on its way to a barrier unit (R202): partition, barrier, and of a `bar.arr` the slot and a serial number that
says which accesses are older (R125); its source number (R195). -/
structure Arrival where
  part : Nat
  bar : Nat
  src : Option (Nat × Nat)
  source : Nat
  deriving DecidableEq, Repr

/-- A barrier at reset. -/
def Barrier.init : Barrier := { m := 0, phase := 0, count := 0, stamp := 0, source := 0, release := none, next := 0, nextStamp := 0, nextSource := 0 }

/-- A column reduction in progress (R366): contributions present, by contributor index. -/
structure Coll where
  part : Nat
  die : Nat
  col : Nat
  rid : Nat
  n : Nat
  count : Nat
  dst : Word
  parts : List (Nat × (Nat × Nat) × List (BitVec 32))
  /-- elements of the result that have been written -/
  written : Nat := 0
  deriving DecidableEq, Repr

/-- What the Ethernet engines answer to an arriving chunk (R217, R218): the chunk by sending package, issuing cell, copy and index;
0 or a failure's code (R350); the flags of a reducing chunk; the bytes that a request read. -/
structure PeerAnswer where
  peer : Nat
  srcCell : Nat
  serial : Nat
  chunk : Nat
  code : Nat
  flags : BitVec 5
  bytes : List Byte
  deriving DecidableEq, Repr

/-- A chunk that has gone out to a peer and is not acknowledged (R217, R218): issuing cell, copy and index; the sender's entry of the
peer table and its RPART, which the chunk carries; the flags of a reducing one; the runs of bytes at the peer's side; and the bytes
that they are to take, none where the chunk asks for them. -/
structure SentChunk where
  cell : Nat
  serial : Nat
  chunk : Nat
  entry : Nat
  rpart : Nat
  red : Nat
  runs : List (Word × Nat)
  bytes : List Byte
  deriving DecidableEq, Repr

/-- The whole machine. -/
structure State where
  /-- the slot that issues, or slot 0 of the core whose engine acts (the model's own, notes/assumptions/2.md) -/
  cur : Nat
  /-- slots that issue in turn when the agenda says nothing (the model's own) -/
  rota : List Nat
  /-- turns chosen from outside: which agent moves next (the model's own) -/
  agenda : List Turn
  /-- steps that are due, in the order in which they became due (the model's own) -/
  work : List Turn
  /-- whether the next unchosen turn is a due step (the model's own) -/
  workTurn : Bool
  /-- next serial number of an access, token, message, copy, block (the model's own) -/
  nextId : Nat
  /-- counter of free values (the model's own, notes/assumptions/6.md) -/
  freeCtr : Nat
  powered : Bool
  gts : Word
  slots : FMap Slot
  cores : FMap Core
  cells : FMap Cell
  /-- privileged registers by offset in the aperture; an unlisted one has its reset value -/
  regs : FMap Word
  phys : Memory
  /-- key material under which each 128-byte line was last written -/
  lineKey : FMap Nat
  /-- key material of each key slot -/
  keyMat : FMap Nat
  commons : FMap Memory
  flight : List Access
  tokens : List Token
  messages : List Message
  contexts : List Context
  tlb : List TlbEntry
  lines : List Line
  stamps : FMap Word
  misses : List Miss
  filter : List (Nat × Nat)
  replicas : List Replica
  forwards : List Forward
  faults : List FaultRec
  launches : List Launch
  conts : List (Nat × Nat × Word)
  /-- records that wait for inbox room, in the order of their delivery (R21) -/
  held : List Held
  /-- the launch queue whose turn is next, by partition (R142) -/
  lqNext : FMap Nat
  barriers : FMap Barrier
  arrivals : List Arrival
  colls : List Coll
  /-- applied-sequence record of the Ethernet engines (R218): package, issuing cell, copy, chunk, and the flags that it raised -/
  peerSeen : List ((Nat × Nat × Nat × Nat) × BitVec 5)
  samples : List Nat
  /-- an overdraw window has passed and the mean has not come down to the cap since (R208) -/
  capWins : Bool
  /-- operating-point entries in order of use, the least recently used first (R179) -/
  opLru : List Nat
  /-- the glory index at which an entry's EBEST was measured (R180) -/
  opBest : FMap Nat
  /-- banks that become holes at their die's next turn boundary (R168): die, group, logical bank -/
  holes : List (Nat × Nat × Nat)
  fabric : FMap Droop
  /-- words of the interleave descriptor of each partition at its last commit, while nothing has taken its ranges (R380) -/
  ilvSeen : FMap (List Word)
  errs : List ErrSite
  report : List Byte
  /-- what the last host read gave it, if it gave a value (R133, R215) -/
  hostValue : Option Word
  /-- fabric cycle at which a swap that was asked for arrives, by die (R165) -/
  swapAt : FMap Nat
  /-- time marks of the operating-point measurement: GTS and source number of the last phase end of an entry (R180, R195) -/
  opMark : FMap (Word × Nat)
  /-- the last answer of the Ethernet engines to a peer (R217, R218) -/
  peerOut : Option PeerAnswer
  /-- chunks that have gone out to peers (R217, R218) -/
  peerSent : List SentChunk
  /-- work of the copy ports whose units are being served, and those units (R90, R96) -/
  jobs : List PortJob
  units : List PortUnit
  /-- the turn that runs as the replay of one that was parked, if it does (R158; the model's own) -/
  replayed : Option Turn
  /-- pairings of a die's commons that have served a unit and of which no time has been counted (R194) -/
  served : FMap Nat
  deriving DecidableEq, Repr

/-- The machine right after reset: nothing committed, no slot started, every register at the value the spec gives for reset
or the one notes/assumptions/5.md names, memory with nothing listed. -/
def State.reset : State :=
  { cur := 0, rota := [], agenda := [], work := [], workTurn := false, nextId := 0, freeCtr := 0, powered := true
    gts := 0#64, slots := [], cores := [], cells := [], regs := [], phys := [], lineKey := [], keyMat := []
    commons := [], flight := [], tokens := [], messages := [], contexts := [], tlb := [], lines := [], stamps := []
    misses := [], filter := [], replicas := [], forwards := [], faults := [], launches := [], conts := [], held := [], lqNext := []
    barriers := [], arrivals := [], colls := [], peerSeen := [], samples := [], capWins := false, opLru := [], opBest := [], holes := [], fabric := [], ilvSeen := [], errs := []
    report := [], hostValue := none, swapAt := [], opMark := [], peerOut := none, peerSent := [], jobs := [], units := []
    replayed := none, served := [] }

/-! ## Outcomes -/

/-- Why the machine stops. -/
inductive Fault where
  /-- Raised by `step` in standby (R224): an unpowered package takes no step. Safe: nothing is claimed of it. -/
  | unpowered
  deriving DecidableEq, Repr

/-- Why the model gives no meaning. -/
inductive Refusal where
  /-- Raised by an arm of `exec` that has no meaning yet. Safe: nothing can be proved about its effect. -/
  | notModelled (mnemonic : String)
  deriving DecidableEq, Repr

end Sys2Proof.Machine
end

