-- ==== Sys2Proof/Machine/Flags.lean ====
section
/-! DEFINITION. Element formats, exact values, rounding, conversion and the floating-point flags (spec/02_numbers.md
R34-R55). Values are exact reals m * 2^e until a rounding function is applied. -/

namespace Sys2Proof.Machine

/-! ## Flags (R50) -/

/-- Sticky flags in the layout of FFLAGS bits 4:0. -/
abbrev FlagBits := BitVec 5

namespace FlagBits
def none_ : FlagBits := 0#5
/-- inexact -/
def nx : FlagBits := 1#5
/-- underflow -/
def uf : FlagBits := 2#5
/-- overflow -/
def of_ : FlagBits := 4#5
/-- divide-by-zero -/
def dz : FlagBits := 8#5
/-- invalid -/
def nv : FlagBits := 16#5
end FlagBits

/-- `f` if `b`, else no flag. -/
def flagIf (b : Bool) (f : FlagBits) : FlagBits := if b then f else 0#5

/-! ## Formats (R34, R38, R40) -/

/-- What codes a float format keeps for NaN and infinity (R38). -/
inductive NanKind where
  /-- exponent all ones (F32, BF16, F16, E5M2) -/
  | ieee
  /-- only the all-ones code (E4M3) -/
  | e4m3
  /-- every code is a number (FP6, FP4) -/
  | noneAtAll
  deriving DecidableEq, Repr

/-- A floating-point format: exponent bits, mantissa bits, bias. -/
structure FloatFmt where
  eb : Nat
  mb : Nat
  bias : Nat
  kind : NanKind
  deriving DecidableEq, Repr

def fF32 : FloatFmt := ⟨8, 23, 127, .ieee⟩
def fBF16 : FloatFmt := ⟨8, 7, 127, .ieee⟩
def fF16 : FloatFmt := ⟨5, 10, 15, .ieee⟩
def fE5M2 : FloatFmt := ⟨5, 2, 15, .ieee⟩
def fE4M3 : FloatFmt := ⟨4, 3, 7, .e4m3⟩
def fE3M2 : FloatFmt := ⟨3, 2, 3, .noneAtAll⟩
def fE2M3 : FloatFmt := ⟨2, 3, 1, .noneAtAll⟩
def fE2M1 : FloatFmt := ⟨2, 1, 1, .noneAtAll⟩

/-- Kinds of element formats (R34). -/
inductive Elem where
  | float (f : FloatFmt)
  | int (signed : Bool) (w : Nat)
  | sx (n : Nat)
  | e8m0
  deriving DecidableEq, Repr

/-- The format of a five-bit code; none where the code is reserved (R34, R35). -/
def elemOf (code : Nat) : Option Elem :=
  match code with
  | 0x00 => some (.float fF32)
  | 0x01 => some (.float fBF16)
  | 0x02 => some (.float fF16)
  | 0x04 => some (.float fE4M3)
  | 0x05 => some (.float fE5M2)
  | 0x06 => some (.float fE3M2)
  | 0x07 => some (.float fE2M3)
  | 0x08 => some (.float fE2M1)
  | 0x09 => some (.int true 8)
  | 0x0A => some (.int false 8)
  | 0x0B => some (.int true 16)
  | 0x0C => some (.int true 32)
  | 0x0D => some (.int false 32)
  | 0x12 => some (.sx 2)
  | 0x13 => some (.sx 3)
  | 0x14 => some (.sx 4)
  | 0x15 => some (.sx 5)
  | 0x16 => some (.sx 6)
  | 0x17 => some (.sx 7)
  | 0x18 => some (.sx 8)
  | 0x1F => some .e8m0
  | _ => none

/-- Storage width of a format (R34). -/
def Elem.width : Elem → Nat
  | .float f => f.eb + f.mb + 1
  | .int _ w => w
  | .sx n => if n = 2 then 2 else if n ≤ 4 then 4 else if n ≤ 6 then 6 else 8
  | .e8m0 => 8

/-- Whether R34 allows the scaled bit on a code. -/
def scaleAllowed (code : Nat) : Bool := (4 ≤ code && code ≤ 8) || (0x12 ≤ code && code ≤ 0x18)

/-- A format descriptor as used: its kind and whether it is scaled; none where it is malformed (R35). For SXn the scaled
bit is read as 1. -/
def descriptor (code : Nat) (scaled : Bool) : Option (Elem × Bool) :=
  match elemOf code with
  | none => none
  | some (.sx n) => some (.sx n, true)
  | some e => if scaled && !scaleAllowed code then none else some (e, scaled)

/-- Matrix operand formats (R34): which codes A and B may have. -/
def matrixFormat (code : Nat) : Bool :=
  code = 1 || code = 2 || code = 4 || code = 5 || code = 8 || (0x12 ≤ code && code ≤ 0x18)

/-! ## Exact values -/

/-- An exact value: a NaN, signalling or quiet; an infinity; or (-1)^neg * m * 2^e, which keeps the sign of a zero. -/
inductive Fp where
  | nan (sig : Bool)
  | inf (neg : Bool)
  | num (neg : Bool) (m : Nat) (e : Int)
  deriving DecidableEq, Repr

namespace Fp

def isNan : Fp → Bool
  | .nan _ => true
  | _ => false

/-- A signalling NaN raises NV in any arithmetic (R49). -/
def isSig : Fp → Bool
  | .nan s => s
  | _ => false

def isInf : Fp → Bool
  | .inf _ => true
  | _ => false

def isZero : Fp → Bool
  | .num _ m _ => m = 0
  | _ => false

def finite : Fp → Bool
  | .num _ _ _ => true
  | _ => false

def neg? : Fp → Bool
  | .nan _ => false
  | .inf n => n
  | .num n _ _ => n

/-- Sign inverted. -/
def negate : Fp → Fp
  | .nan s => .nan s
  | .inf n => .inf (!n)
  | .num n m e => .num (!n) m e

def abs : Fp → Fp
  | .nan s => .nan s
  | .inf _ => .inf false
  | .num _ m e => .num false m e

def one : Fp := .num false 1 0
def zero : Fp := .num false 0 0

/-- The value times 2^k. -/
def scale (k : Int) : Fp → Fp
  | .num n m e => .num n m (e + k)
  | x => x

end Fp

/-- The value of a float format's bits (R38, R39). -/
def decodeFloat (f : FloatFmt) (b : Nat) : Fp :=
  let neg := (b >>> (f.eb + f.mb)) % 2 = 1
  let ex := (b >>> f.mb) % 2 ^ f.eb
  let fr := b % 2 ^ f.mb
  let top := 2 ^ f.eb - 1
  let special : Option Fp :=
    match f.kind with
    | .ieee => if ex = top then (if fr = 0 then some (.inf neg) else some (.nan (fr < 2 ^ (f.mb - 1)))) else none
    | .e4m3 => if ex = top && fr = 2 ^ f.mb - 1 then some (.nan false) else none
    | .noneAtAll => none
  match special with
  | some x => x
  | none =>
    if ex = 0 then .num neg fr (1 - (f.bias : Int) - f.mb)
    else .num neg (2 ^ f.mb + fr) ((ex : Int) - f.bias - f.mb)

/-- The canonical NaN's bits (R38, R39); a format without NaN writes zero bits (R51). -/
def canonicalNan (f : FloatFmt) : Nat :=
  match f.kind with
  | .ieee => (2 ^ f.eb - 1) * 2 ^ f.mb + 2 ^ (f.mb - 1)
  | .e4m3 => 0x7F
  | .noneAtAll => 0

/-- The exponent of the largest finite value's leading bit, and its significand (R38). -/
def maxFinite (f : FloatFmt) : Int × Nat :=
  match f.kind with
  | .ieee => ((2 ^ f.eb - 2 : Nat) - (f.bias : Int), 2 ^ (f.mb + 1) - 1)
  | .e4m3 => ((2 ^ f.eb - 1 : Nat) - (f.bias : Int), 2 ^ (f.mb + 1) - 2)
  | .noneAtAll => ((2 ^ f.eb - 1 : Nat) - (f.bias : Int), 2 ^ (f.mb + 1) - 1)

/-- Bits of the largest finite magnitude, without its sign. -/
def maxFiniteBits (f : FloatFmt) : Nat :=
  match f.kind with
  | .ieee => 2 ^ (f.eb + f.mb) - 1 - 2 ^ f.mb
  | .e4m3 => 0x7E
  | .noneAtAll => 2 ^ (f.eb + f.mb) - 1

def signBit (f : FloatFmt) (neg : Bool) : Nat := if neg then 2 ^ (f.eb + f.mb) else 0

/-- Bits of an infinity in a format that has one. -/
def infBits (f : FloatFmt) (neg : Bool) : Nat := signBit f neg + (2 ^ f.eb - 1) * 2 ^ f.mb

/-! ## Rounding (R47, R48) -/

/-- Rounding modes (R47). -/
inductive Rnd where
  | rn | rz | rd | ru | rna
  deriving DecidableEq, Repr

/-- The mode of a three-bit code; none where the code is reserved (R47). -/
def rndOf (c : Nat) : Option Rnd :=
  match c with
  | 0 => some .rn
  | 1 => some .rz
  | 2 => some .rd
  | 3 => some .ru
  | 4 => some .rna
  | _ => none

/-- Whether a magnitude with lowest kept bit `odd` and lost part compared to a half rounds away from zero. `half` is the
comparison of the lost part with half a unit: 0 exact zero, 1 below, 2 equal, 3 above. -/
def roundsUp (mode : Rnd) (neg odd : Bool) (half : Nat) : Bool :=
  match mode with
  | .rn => half = 3 || (half = 2 && odd)
  | .rna => half = 3 || half = 2
  | .rz => false
  | .rd => neg && half ≠ 0
  | .ru => !neg && half ≠ 0

/-- Rounds (m + epsilon) * 2^e to a multiple of 2^q: the multiple and whether it is inexact. `sticky` says that the exact
value lies strictly between m and m + 1 units of 2^e. -/
def roundAt (mode : Rnd) (neg : Bool) (m : Nat) (e : Int) (sticky : Bool) (q : Int) : Nat × Bool :=
  if q ≤ e then
    let r := m <<< (e - q).toNat
    if sticky then (if roundsUp mode neg (r % 2 = 1) 1 then r + 1 else r, true) else (r, false)
  else
    let d := (q - e).toNat
    let r := m >>> d
    let lost := m % 2 ^ d
    let h := 2 ^ (d - 1)
    let half := if lost = 0 && !sticky then 0
                else if lost < h then 1
                else if lost = h && !sticky then 2
                else 3
    (if roundsUp mode neg (r % 2 = 1) half then r + 1 else r, half ≠ 0)

/-- The result of an overflow (R51): the default column or the .sat column. -/
def overflowBits (f : FloatFmt) (mode : Rnd) (sat neg : Bool) : Nat :=
  if sat then signBit f neg + maxFiniteBits f
  else
    match f.kind with
    | .noneAtAll => signBit f neg + maxFiniteBits f
    | .e4m3 => canonicalNan f
    | .ieee =>
      match mode with
      | .rn => infBits f neg
      | .rna => infBits f neg
      | .rz => signBit f neg + maxFiniteBits f
      | .rd => if neg then infBits f neg else maxFiniteBits f
      | .ru => if neg then signBit f neg + maxFiniteBits f else infBits f neg

/-- Whether a value rounded to a format's precision with an unbounded exponent range is non-zero and below the smallest
normal magnitude (tininess after rounding, R48). -/
def tinyRounded (f : FloatFmt) (mode : Rnd) (neg : Bool) (m : Nat) (e : Int) (sticky : Bool) : Bool :=
  let q := e + bitLen m - (f.mb + 1)
  let emin : Int := 1 - (f.bias : Int)
  let r := (roundAt mode neg m e sticky q).1
  q < emin && r ≠ 0 && r < 2 ^ (emin - q).toNat

/-- Rounds (-1)^neg * (m + epsilon) * 2^e into a float format by R48, an overflow following R51. -/
def roundFloat (f : FloatFmt) (mode : Rnd) (sat neg : Bool) (m : Nat) (e : Int) (sticky : Bool) : Nat × FlagBits :=
  if m = 0 && !sticky then (signBit f neg, 0#5)
  else
    let qmin : Int := 1 - (f.bias : Int) - f.mb
    let q := max (e + bitLen m - (f.mb + 1)) qmin
    let ri := roundAt mode neg m e sticky q
    let mx := maxFinite f
    let qmax := mx.1 - f.mb
    if qmax ≤ q && mx.2 < ri.1 <<< (q - qmax).toNat then
      (overflowBits f mode sat neg, FlagBits.of_ ||| FlagBits.nx)
    else
      (signBit f neg + ((q - qmin).toNat * 2 ^ f.mb + ri.1),
        flagIf ri.2 FlagBits.nx ||| flagIf (ri.2 && tinyRounded f mode neg m e sticky) FlagBits.uf)

/-- A value that an operation hands to the rounding: exact but for a sticky part, with the flags the operation raised. -/
structure Ex where
  v : Fp
  sticky : Bool
  flags : FlagBits
  deriving DecidableEq, Repr

/-- An exact result without flags. -/
def Ex.exact (v : Fp) : Ex := ⟨v, false, 0#5⟩

/-- An invalid operation: a NaN with NV (R49). -/
def Ex.invalid : Ex := ⟨.nan false, false, FlagBits.nv⟩

/-- Writes a result into a float format: NaN canonical (R39), infinity, or rounded by R48 and R51. -/
def Ex.round (f : FloatFmt) (mode : Rnd) (sat : Bool) (x : Ex) : Nat × FlagBits :=
  match x.v with
  | .nan _ => (canonicalNan f, x.flags)
  | .inf n =>
    match f.kind with
    | .ieee => (infBits f n, x.flags)
    | _ => (overflowBits f mode sat n, x.flags)
  | .num n m e =>
    let r := roundFloat f mode sat n m e x.sticky
    (r.1, x.flags ||| r.2)

/-- RoundF32 of R4 on an exact value. -/
def roundF32 (mode : Rnd) (v : Fp) : Nat × FlagBits := (Ex.exact v).round fF32 mode false

/-! ## Arithmetic on exact values (R48, R49, R327) -/

/-- The signed multiple of 2^e0 that a value is, for e0 at or below its exponent. -/
def aligned (neg : Bool) (m : Nat) (e e0 : Int) : Int :=
  let k : Int := (m <<< (e - e0).toNat : Nat)
  if neg then -k else k

/-- A signed multiple of 2^e as a value; an exact zero is +0, or -0 under rd (R48). -/
def ofScaledInt (mode : Rnd) (k e : Int) : Fp :=
  if k = 0 then .num (mode = .rd) 0 0 else .num (k < 0) k.natAbs e

/-- NV where a signalling NaN is among the operands (R49). -/
def sigFlag (a b : Fp) : FlagBits := flagIf (a.isSig || b.isSig) FlagBits.nv

/-- a + b. -/
def fpAdd (mode : Rnd) (a b : Fp) : Ex :=
  match a, b with
  | .nan _, _ => ⟨.nan false, false, sigFlag a b⟩
  | _, .nan _ => ⟨.nan false, false, sigFlag a b⟩
  | .inf x, .inf y => if x = y then .exact (.inf x) else .invalid
  | .inf x, .num _ _ _ => .exact (.inf x)
  | .num _ _ _, .inf y => .exact (.inf y)
  | .num n m e, .num n' m' e' =>
    if m = 0 && m' = 0 && n = n' then .exact (.num n 0 0)
    else
      let e0 := min e e'
      .exact (ofScaledInt mode (aligned n m e e0 + aligned n' m' e' e0) e0)

/-- a * b. -/
def fpMul (a b : Fp) : Ex :=
  match a, b with
  | .nan _, _ => ⟨.nan false, false, sigFlag a b⟩
  | _, .nan _ => ⟨.nan false, false, sigFlag a b⟩
  | .inf x, .inf y => .exact (.inf (x != y))
  | .inf x, .num n m _ => if m = 0 then .invalid else .exact (.inf (x != n))
  | .num n m _, .inf y => if m = 0 then .invalid else .exact (.inf (n != y))
  | .num n m e, .num n' m' e' => .exact (.num (n != n') (m * m') (e + e'))

/-- a * b + c with one rounding; 0 * inf raises NV whatever c holds (R327). -/
def fpFma (mode : Rnd) (a b c : Fp) : Ex :=
  let p := fpMul a b
  let r := fpAdd mode p.v c
  ⟨r.v, r.sticky, p.flags ||| r.flags ||| flagIf c.isSig FlagBits.nv⟩

/-- a / b, to 80 quotient bits with a sticky part. -/
def fpDiv (a b : Fp) : Ex :=
  match a, b with
  | .nan _, _ => ⟨.nan false, false, sigFlag a b⟩
  | _, .nan _ => ⟨.nan false, false, sigFlag a b⟩
  | .inf _, .inf _ => .invalid
  | .inf x, .num n _ _ => .exact (.inf (x != n))
  | .num n _ _, .inf y => .exact (.num (n != y) 0 0)
  | .num n m e, .num n' m' e' =>
    if m' = 0 then (if m = 0 then .invalid else ⟨.inf (n != n'), false, FlagBits.dz⟩)
    else
      let k := 80 + bitLen m'
      let big := m <<< k
      ⟨.num (n != n') (big / m') (e - e' - k), big % m' ≠ 0, 0#5⟩

/-- Integer square root of n: the bits of the root below 2^(k), from the highest down. -/
def isqrtFrom : Nat → Nat → Nat → Nat
  | 0, _, r => r
  | k + 1, n, r => isqrtFrom k n (if (r + 2 ^ k) * (r + 2 ^ k) ≤ n then r + 2 ^ k else r)

/-- Integer square root. -/
def isqrt (n : Nat) : Nat := isqrtFrom (bitLen n / 2 + 1) n 0

/-- The square root: -0 for -0, NV below -0 (R49, R52). -/
def fpSqrt (a : Fp) : Ex :=
  match a with
  | .nan s => ⟨.nan false, false, flagIf s FlagBits.nv⟩
  | .inf n => if n then .invalid else .exact (.inf false)
  | .num n m e =>
    if m = 0 then .exact (.num n 0 0)
    else if n then .invalid
    else
      let odd := e % 2 ≠ 0
      let m1 := if odd then 2 * m else m
      let e1 := if odd then e - 1 else e
      let big := m1 <<< 128
      let r := isqrt big
      ⟨.num false r (e1 / 2 - 64), r * r ≠ big, 0#5⟩

/-- The reciprocal square root: infinity with DZ at a zero, keeping its sign (R52); NV below -0. -/
def fpRsqrt (a : Fp) : Ex :=
  match a with
  | .nan s => ⟨.nan false, false, flagIf s FlagBits.nv⟩
  | .inf n => if n then .invalid else .exact (.num false 0 0)
  | .num n m e =>
    if m = 0 then ⟨.inf n, false, FlagBits.dz⟩
    else if n then .invalid
    else
      let odd := e % 2 ≠ 0
      let m1 := if odd then 2 * m else m
      let e1 := if odd then e - 1 else e
      let k := 64 + bitLen m1
      let q := 2 ^ (2 * k) / m1
      let r := isqrt q
      ⟨.num false r (-(e1 / 2) - k), r * r * m1 ≠ 2 ^ (2 * k), 0#5⟩

/-- Numeric order of two finite or infinite values: -1, 0 or 1; zeros of either sign are equal (R52). -/
def fpCompare (a b : Fp) : Int :=
  match a, b with
  | .inf x, .inf y => if x = y then 0 else if x then -1 else 1
  | .inf x, _ => if x then -1 else 1
  | _, .inf y => if y then 1 else -1
  | .num n m e, .num n' m' e' =>
    let e0 := min e e'
    (aligned n m e e0 - aligned n' m' e' e0).sign
  | _, _ => 0

/-- Conditions of `vcmp` on floating operands: the truth and the flags (R52). The codes are eq, ne, lt, le, gt, ge, un. -/
def fpCondition (c : Nat) (a b : Fp) : Bool × FlagBits :=
  let un := a.isNan || b.isNan
  let o := fpCompare a b
  let ordered := flagIf un FlagBits.nv
  let quiet := sigFlag a b
  match c with
  | 0 => (!un && o = 0, quiet)
  | 1 => (un || o ≠ 0, quiet)
  | 2 => (!un && o < 0, ordered)
  | 3 => (!un && o ≤ 0, ordered)
  | 4 => (!un && o > 0, ordered)
  | 5 => (!un && o ≥ 0, ordered)
  | _ => (un, quiet)

/-- Whether `vmin` (or `vmax`) takes the second operand: the numeric one beside a NaN, -0 below +0 (R52). -/
def fpPickSecond (isMax : Bool) (a b : Fp) : Bool :=
  if a.isNan then true
  else if b.isNan then false
  else
    let o := fpCompare a b
    if o = 0 then (if isMax then a.neg? && !b.neg? else !a.neg? && b.neg?)
    else if isMax then o < 0 else o > 0

/-! ## Conversions (R46, R51) -/

/-- Rounds a finite value to an integer under a mode: the integer and whether it is inexact. -/
def roundInt (mode : Rnd) (n : Bool) (m : Nat) (e : Int) : Int × Bool :=
  let r := roundAt mode n m e false 0
  (if n then -(r.1 : Int) else r.1, r.2)

def intLo (signed : Bool) (w : Nat) : Int := if signed then -(2 ^ (w - 1) : Nat) else 0
def intHi (signed : Bool) (w : Nat) : Int := if signed then (2 ^ (w - 1) : Nat) - 1 else (2 ^ w : Nat) - 1

/-- An integer clamped to a format's range. -/
def clampInt (signed : Bool) (w : Nat) (k : Int) : Int := max (intLo signed w) (min k (intHi signed w))

/-- The w-bit code of an integer. -/
def intBits (w : Nat) (k : Int) : Nat := (k % (2 ^ w : Nat)).toNat

/-- Converts a value to an integer format: rounded, then saturated; out of range raises NV (R51). The range is tested after
the rounding (DEDUCED, notes/assumptions/12.md). A NaN raises NV, one that a scale of 0xFF makes as well (DEDUCED,
notes/assumptions/83.md). -/
def toIntFormat (signed : Bool) (w : Nat) (mode : Rnd) (v : Fp) : Nat × FlagBits :=
  match v with
  | .nan _ => (0, FlagBits.nv)
  | .inf n => (intBits w (if n then intLo signed w else intHi signed w), FlagBits.nv)
  | .num n m e =>
    let r := roundInt mode n m e
    let c := clampInt signed w r.1
    if c = r.1 then (intBits w c, flagIf r.2 FlagBits.nx) else (intBits w c, FlagBits.nv)

/-- Converts a value to a float format by the rows of R51; a NaN that a scale of 0xFF makes is a NaN source here too (DEDUCED,
notes/assumptions/83.md), and the one value of an SXn element that F32 does not hold, −2^128, overflows (R43; DESIGN CHOICE,
notes/assumptions/105.md). -/
def toFloatFormat (f : FloatFmt) (mode : Rnd) (sat : Bool) (v : Fp) : Nat × FlagBits :=
  match v with
  | .nan s =>
    match f.kind with
    | .noneAtAll => (0, FlagBits.nv)
    | _ => (canonicalNan f, flagIf s FlagBits.nv)
  | .inf n =>
    match f.kind with
    | .ieee => (if sat then signBit f n + maxFiniteBits f else infBits f n, 0#5)
    | .e4m3 => if sat then (signBit f n + maxFiniteBits f, 0#5) else (canonicalNan f, FlagBits.nv)
    | .noneAtAll => (signBit f n + maxFiniteBits f, 0#5)
  | .num n m e => roundFloat f mode sat n m e false

/-- The value of a scale byte: none where it is NaN (R41). -/
def scaleExp (s : Nat) : Option Int := if s = 0xFF then none else some ((s : Int) - 127)

/-- The value of an element's bits under a format, at a block scale (R38, R40, R42, R43). Integer formats give the
integer. -/
def elemValue (el : Elem) (b : Nat) (scale : Nat) (scaled : Bool) : Fp :=
  match el with
  | .float f =>
    if scaled then
      match scaleExp scale with
      | none => .nan false
      | some k => (decodeFloat f b).scale k
    else decodeFloat f b
  | .int s w =>
    let k : Int := if s then signedN w b else (b % 2 ^ w : Nat)
    .num (k < 0) k.natAbs 0
  | .sx n =>
    match scaleExp scale with
    | none => .nan false
    | some k =>
      let m := signedN n b
      .num (m < 0) m.natAbs (k - (n - 2 : Nat))
  | .e8m0 =>
    match scaleExp b with
    | none => .nan false
    | some k => .num false 1 k

/-- Converts an exact value to an unscaled destination element (R51). -/
def convertTo (el : Elem) (mode : Rnd) (sat : Bool) (v : Fp) : Nat × FlagBits :=
  match el with
  | .float f => toFloatFormat f mode sat v
  | .int s w => toIntFormat s w mode v
  | _ => (0, 0#5)

/-- Converts an element between unscaled formats: between integer formats it saturates without a flag (R51). An element of a block
integer format is no integer source: its value is its integer times its scale, and it raises NV and NX as a floating source does
(DEDUCED, notes/assumptions/84.md). -/
def convertElem (src dst : Elem) (mode : Rnd) (sat : Bool) (v : Fp) : Nat × FlagBits :=
  match src, dst with
  | .int _ _, .int s w =>
    match v with
    | .num n m _ => (intBits w (clampInt s w (if n then -(m : Int) else m)), 0#5)
    | _ => (0, 0#5)
  | _, _ => convertTo dst mode sat v

/-- Emax of R46. -/
def scaleEmax (el : Elem) : Int :=
  match el with
  | .float f => (maxFinite f).1
  | _ => 0

/-- The larger of two finite magnitudes. -/
def maxMag (a b : Fp) : Fp := if fpCompare a.abs b.abs < 0 then b.abs else a.abs

/-- The block scale of R46. -/
def blockScale (el : Elem) (vs : List Fp) : Nat :=
  if vs.any (fun v => !v.finite) then 0xFF
  else
    match vs.foldl maxMag Fp.zero with
    | .num _ m e =>
      if m = 0 then 0x7F
      else
        let x := e + bitLen m - 1 - scaleEmax el
        (max 0 (min (x + 127) 254)).toNat
    | _ => 0xFF

/-- Encodes one element of a scaled block (R46): the code and its flags. -/
def encodeScaled (el : Elem) (mode : Rnd) (scale : Nat) (v : Fp) : Nat × FlagBits :=
  if scale = 0xFF then
    (match el with
     | .float f => canonicalNan f
     | _ => 0, flagIf v.isSig FlagBits.nv)
  else
    let k : Int := 127 - (scale : Int)
    match el with
    | .float f => toFloatFormat f mode true (v.scale k)
    | .sx n =>
      match v with
      | .num neg m e =>
        let r := roundInt mode neg m (e + k + (n - 2 : Nat))
        let c := clampInt true n r.1
        (intBits (Elem.sx n).width c,
          flagIf r.2 FlagBits.nx ||| flagIf (c ≠ r.1) (FlagBits.of_ ||| FlagBits.nx))
      | _ => (0, 0#5)
    | _ => (0, 0#5)

/-! ## Chunked accumulation (R53, R54) -/

/-- The state of one chunk's sum: NaN seen, invalid, infinities, exact finite sum k * 2^e. -/
structure Chunk where
  nan : Bool
  inv : Bool
  pinf : Bool
  ninf : Bool
  k : Int
  e : Int
  deriving DecidableEq, Repr

def Chunk.start : Chunk := ⟨false, false, false, false, 0, 0⟩

/-- Adds an exact finite value to the sum. -/
def Chunk.addNum (c : Chunk) (n : Bool) (m : Nat) (e : Int) : Chunk :=
  if m = 0 then c
  else
    let e0 := min c.e e
    { c with k := c.k * (2 ^ (c.e - e0).toNat : Nat) + aligned n m e e0, e := e0 }

/-- One product of the chunk (R53). -/
def Chunk.product (c : Chunk) (a b : Fp) : Chunk :=
  match a, b with
  | .nan _, _ => { c with nan := true }
  | _, .nan _ => { c with nan := true }
  | .num n m e, .num n' m' e' => c.addNum (n != n') (m * m') (e + e')
  | _, _ =>
    if a.isZero || b.isZero then { c with nan := true, inv := true }
    else if a.neg? = b.neg? then { c with pinf := true }
    else { c with ninf := true }

/-- The chunk of two rows of values. -/
def chunkOf : List Fp → List Fp → Chunk → Chunk
  | a :: as, b :: bs, c => chunkOf as bs (c.product a b)
  | _, _, c => c

/-- The exact finite sum as a value; an exact zero is +0 (R53). -/
def Chunk.sum (c : Chunk) : Fp := if c.k = 0 then Fp.zero else .num (c.k < 0) c.k.natAbs c.e

/-- The accumulator update of R53 under a mode: the new F32 bits and the raised flags. `cbits` is C as F32 bits. A block's exact zero is
+0 and is added by R48, so that C = +0 stays +0 under rd (DEDUCED, notes/assumptions/85.md). -/
def Chunk.update (c : Chunk) (mode : Rnd) (cbits : Nat) : Nat × FlagBits :=
  let v := decodeFloat fF32 cbits
  let pinf := c.pinf || (v.isInf && !v.neg?)
  let ninf := c.ninf || (v.isInf && v.neg?)
  let inv := c.inv || (pinf && ninf)
  if v.isNan || c.nan || (pinf && ninf) then (canonicalNan fF32, flagIf inv FlagBits.nv)
  else if pinf then (infBits fF32 false, 0#5)
  else if ninf then (infBits fF32 true, 0#5)
  else
    (fpAdd mode v c.sum).round fF32 mode false

/-- An F32 value as an accumulator holds it: -0 as +0, any NaN as the canonical one (R54). -/
def accCanon (b : Nat) : Nat :=
  if b % 2 ^ 32 = 0x80000000 then 0
  else if (decodeFloat fF32 b).isNan then canonicalNan fF32
  else b % 2 ^ 32

/-! ## The fixed tree (R55) -/

/-- One level of the tree: neighbours combine, an absent one passes the other up. -/
def treeLevel {α : Type} (op : α → α → α × FlagBits) : List (Option α) → List (Option α) × FlagBits
  | [] => ([], 0#5)
  | [x] => ([x], 0#5)
  | x :: y :: rest =>
    let r := treeLevel op rest
    match x, y with
    | some l, some h => let z := op l h; (some z.1 :: r.1, z.2 ||| r.2)
    | some l, none => (some l :: r.1, r.2)
    | none, h => (h :: r.1, r.2)

/-- The tree over leaves by index, `n` levels deep: an odd last leaf passes up, as absent leaves beyond it would let it. -/
def treeFold {α : Type} (op : α → α → α × FlagBits) : Nat → List (Option α) → Option α × FlagBits
  | 0, xs => (xs.head?.getD none, 0#5)
  | n + 1, xs =>
    let r := treeLevel op xs
    let s := treeFold op n r.1
    (s.1, r.2 ||| s.2)

/-- The F32 tree sum node (R55, R57): RoundF32(l + h, mode). -/
def sumNode (mode : Rnd) (l h : Fp) : Fp × FlagBits :=
  let r := (fpAdd mode l h).round fF32 mode false
  (decodeFloat fF32 r.1, r.2)

/-- FAdd of R283 and the update of a reducing copy (R58): F32 bits of RoundF32(old + v, rn); a NaN gives the canonical one. -/
def fadd32 (old v : Nat) : Nat × FlagBits :=
  (fpAdd .rn (decodeFloat fF32 old) (decodeFloat fF32 v)).round fF32 .rn false

end Sys2Proof.Machine
end

