-- ==== Sys2Proof/Machine/Priv.lean ====
section
/-! DEFINITION. Places and numbers (spec/01_machine.md R7-R12), the privileged registers by offset with their reset values
(spec/03_registers.md R79, spec/07_tables.md, 08_counters.md, 09_power.md, 10_edges.md), partitions (R181) and the three
counters (R186-R190). -/

namespace Sys2Proof.Machine

/-! ## Places -/

def dieOf (cell : Nat) : Nat := cell / 240
def clusterOf (cell : Nat) : Nat := cell / 16 % 15
def enabledIx (cell : Nat) : Nat := cell % 16
/-- Cell number of die, cluster and enabled index (R11). -/
def cellNo (d c e : Nat) : Nat := 240 * d + 16 * c + e
def coreOf (sid : Nat) : Nat := sid / 16
def cellOfSlot (sid : Nat) : Nat := sid / 64
def slotIx (sid : Nat) : Nat := sid % 16
def isGaffer (sid : Nat) : Bool := sid % 16 = 0
/-- Core position j = 4 e + k (R11). -/
def corePos (core : Nat) : Nat := 4 * enabledIx (core / 4) + core % 4
/-- Wheel position of a core on its die: 64 c + j (R11). -/
def wheelPos (core : Nat) : Nat := 64 * clusterOf (core / 4) + corePos core
/-- Global core position (R11). -/
def globalPos (core : Nat) : Nat := 1024 * dieOf (core / 4) + wheelPos core

/-! ## Privileged registers (R79) -/

/-- Offset of die d's tables in the aperture. -/
def dieBase (d : Nat) : Nat := 0x10000000 * d
/-- Offset of the package's tables. -/
def pkgBase : Nat := 0x40000000
/-- Index 16 c + e of a cell in its die's register blocks. -/
def cellIx (cell : Nat) : Nat := cell % 240

/-- Reset values within a die's tables; the cell blocks of the cluster that does not exist, c = 15, name no register and read 0
(DEDUCED, notes/assumptions/19.md). -/
def dieReset (o : Nat) : Nat :=
  if o < 0x200 then ((List.range 16).map (fun c => ((c + o / 8) % 16) <<< (4 * c))).foldl (· + ·) 0
  else if o < 0x400 then (o - 0x200) / 8
  else if o = 0x400 then 15 + 63 * 256
  else if 0x3000 ≤ o && o < 0x5000 then (o - 0x3000) / 8 % 64
  else if o = 0x6010 then 20
  else if 0x7000 ≤ o && o < 0x7000 + 0x20 * 240 && o % 0x20 = 0x10 then 40
  else if 0x30000 ≤ o && o < 0x30000 + 0x40 * 240 then
    (if o % 0x40 = 8 then 0x68 else if o % 0x40 = 0x10 then 0xFFFFFFFF else 0)
  else 0

/-- Reset values within the package's tables. -/
def pkgReset (o : Nat) : Nat :=
  if o = 0x130000 then 6000
  else if 0x170000 ≤ o && o < 0x170080 then 100 * 256
  else if 0x200000 ≤ o && o < 0x210000 && o % 16 = 0 then 2 ^ 34 + 8 * 2 ^ 35 + 4 * 2 ^ 39 + 4 * 2 ^ 43
  else 0

/-- Reset value of the word at an offset of the aperture. -/
def regReset (off : Nat) : Word :=
  if off < pkgBase then wrap64 (dieReset (off % 0x10000000))
  else if off < pkgBase + 0x10000000 then wrap64 (pkgReset (off - pkgBase))
  else 0#64

/-- A stored privileged register. -/
def State.reg (s : State) (off : Nat) : Word := FMap.get (regReset off) s.regs off
def State.setReg (s : State) (off : Nat) (v : Word) : State := { s with regs := FMap.put s.regs off v }

/-! ## Cells -/

def State.slot (s : State) (sid : Nat) : Slot := FMap.get Slot.init s.slots sid
def State.setSlot (s : State) (sid : Nat) (x : Slot) : State := { s with slots := FMap.put s.slots sid x }
def State.modSlot (s : State) (sid : Nat) (f : Slot → Slot) : State := s.setSlot sid (f (s.slot sid))
def State.core (s : State) (n : Nat) : Core := FMap.get Core.init s.cores n
def State.setCore (s : State) (n : Nat) (x : Core) : State := { s with cores := FMap.put s.cores n x }
def State.modCore (s : State) (n : Nat) (f : Core → Core) : State := s.setCore n (f (s.core n))
def State.cell (s : State) (n : Nat) : Cell := FMap.get Cell.init s.cells n
def State.setCell (s : State) (n : Nat) (x : Cell) : State := { s with cells := FMap.put s.cells n x }
def State.modCell (s : State) (n : Nat) (f : Cell → Cell) : State := s.setCell n (f (s.cell n))

/-! ## Partitions (R181) -/

def partBase (p : Nat) : Nat := pkgBase + 0x100000 + 0x100 * p
def State.partWord (s : State) (p w : Nat) : Word := s.reg (partBase p + 8 * w)
def State.partValid (s : State) (p : Nat) : Bool := (s.partWord p 0).getLsbD 0
/-- Level Y granted (R72). -/
def State.partSys (s : State) (p : Nat) : Bool := (s.partWord p 0).getLsbD 1
def State.committed (s : State) (p : Nat) : Bool := (s.partWord p 0).getLsbD 2
def State.quiesced (s : State) (p : Nat) : Bool := (s.partWord p 0).getLsbD 3
def State.asidLo (s : State) (p : Nat) : Nat := bits (s.partWord p 0) 20 8
def State.asidHi (s : State) (p : Nat) : Nat := bits (s.partWord p 0) 33 21
def State.keyLo (s : State) (p : Nat) : Nat := bits (s.partWord p 0) 41 34
def State.keyHi (s : State) (p : Nat) : Nat := bits (s.partWord p 0) 49 42
def State.colLo (s : State) (p : Nat) : Nat := bits (s.partWord p 0) 55 50
def State.colHi (s : State) (p : Nat) : Nat := bits (s.partWord p 0) 61 56
def State.phases (s : State) (p : Nat) : Nat := bits (s.partWord p 1) 15 0
def State.dlink (s : State) (p : Nat) : Nat := bits (s.partWord p 1) 19 16
def State.ilv (s : State) (p : Nat) : Nat := bits (s.partWord p 1) 23 20
/-- Groups of die d as a 16-bit mask. -/
def State.groupMask (s : State) (p d : Nat) : Nat := bits (s.partWord p 2) (16 * d + 15) (16 * d)
/-- Whether a partition's entry names a cell. -/
def State.holds (s : State) (p cell : Nat) : Bool :=
  let ix := cellIx cell
  (s.partWord p (4 + 4 * dieOf cell + ix / 64)).getLsbD (ix % 64)
/-- The partitions, rising. -/
def allParts : List Nat := List.range 16
/-- The committed partition that holds a cell. -/
def State.partOf (s : State) (cell : Nat) : Option Nat := allParts.find? (fun p => s.committed p && s.holds p cell)
/-- Cells that a partition's entry names, in the order of R12. -/
def State.partCells (s : State) (p : Nat) : List Nat := (List.range 960).filter (s.holds p)
/-- Whether a partition holds a cell on a die. -/
def State.holdsDie (s : State) (p d : Nat) : Bool :=
  (List.range 4).any (fun k => s.partWord p (4 + 4 * d + k) != 0#64)
/-- The lowest-numbered die on which a partition holds cells (R9). -/
def State.lowDie (s : State) (p : Nat) : Nat := ((List.range 4).find? (s.holdsDie p)).getD 0
/-- Bank groups of a partition on a die, rising (R94). -/
def State.groupsOn (s : State) (p d : Nat) : List Nat :=
  (List.range 16).filter (fun g => (s.groupMask p d >>> g) % 2 = 1)
/-- Logical number of a cell in a partition (R12). -/
def State.lcellOf (s : State) (p cell : Nat) : Nat := ((List.range cell).filter (s.holds p)).length
/-- The cell of a logical number (R12). -/
def State.cellAt (s : State) (p n : Nat) : Option Nat := (s.partCells p)[n]?
/-- Number of set bits of a 64-bit word. -/
def popcount (n : Nat) : Nat := ((List.range 64).filter (fun i => (n >>> i) % 2 = 1)).length
/-- N: the number of cells of a partition (R12). -/
def State.cellCount (s : State) (p : Nat) : Nat :=
  ((List.range 16).map (fun k => popcount (s.partWord p (4 + k)).toNat)).foldl (· + ·) 0
/-- Whether a slot is at level Y: a gaffer of a partition with SYS (R72). -/
def State.levelY (s : State) (sid : Nat) : Bool :=
  isGaffer sid && (match s.partOf (cellOfSlot sid) with | some p => s.partSys p | none => false)

/-! ## Counters (R186-R190) -/

/-- Offset of a die's FCYC pair. -/
def fabricPair (d : Nat) : Nat := dieBase d + 0x6000
/-- Offset of a cell's CCYC pair. -/
def cellPair (cell : Nat) : Nat := dieBase (dieOf cell) + 0x7000 + 0x20 * cellIx cell

/-- The next GTS that is a multiple of 10, at or after one (R188). -/
def tickAt (t : Nat) : Nat := (t + 9) / 10 * 10

/-- The time between two times that falls into droop stretches, at double period (R210). -/
def slowTime (stretch : List (Word × Word)) (g t : Nat) : Nat :=
  (stretch.map (fun q => min t q.2.toNat - max g q.1.toNat)).foldl (· + ·) 0

/-- A count at a time by a pair; in a droop stretch a clock runs at half its rate (R190, R210). -/
def countAt (s : State) (pair : Nat) (stretch : List (Word × Word)) (t : Nat) : Nat :=
  let g0 := (s.reg pair).toNat
  let c0 := (s.reg (pair + 8)).toNat
  let f := bits (s.reg (pair + 0x10)) 7 0
  c0 + (t - g0 - slowTime stretch g0 t / 2) * f / 10

/-- When a cell's clock stopped, if it is stopped (R187, R198). -/
def clockStop (c : Cell) : Option Nat :=
  match c.gearState with
  | .hopDown stop => some stop.toNat
  | .hopUp stop => some stop.toNat
  | _ => c.droop.step.map (fun x => x.1.toNat - Config.cellStepTime)

/-- CCYC of a cell (R187). -/
def State.ccyc (s : State) (cell : Nat) : Nat :=
  let c := s.cell cell
  let t := match clockStop c with | some u => min s.gts.toNat u | none => s.gts.toNat
  countAt s (cellPair cell) c.droop.stretch t

/-- Time of a fabric step in ns (R191). -/
def fabricStepTime : Nat := 80

/-- The fabric-clock bookkeeping of a die. -/
def State.fabricOf (s : State) (d : Nat) : Droop :=
  FMap.get { stretch := [], recent := [], step := none } s.fabric d

/-- FCYC of a die (R187). -/
def State.fcyc (s : State) (d : Nat) : Nat :=
  let t := match (s.fabricOf d).step with
    | some x => min s.gts.toNat (x.1.toNat - fabricStepTime)
    | none => s.gts.toNat
  countAt s (fabricPair d) [] t

/-- Rewrites a pair at a time, at the end of a step, a hop or a stretch (R189). -/
def rewritePair (s : State) (pair at_ count freq : Nat) : State :=
  let seq := bits (s.reg (pair + 0x10)) 63 32
  ((s.setReg pair (wrap64 at_)).setReg (pair + 8) (wrap64 count)).setReg (pair + 0x10)
    (wrap64 (freq % 256 + 2 ^ 32 * ((seq + 1) % 2 ^ 32)))

/-- Offset of a cell's history of pairs (R376). -/
def historyOff (cell : Nat) : Nat := dieBase (dieOf cell) + 0x40000 + 0x100 * cellIx cell

/-- Writes a cell's pair into entry SEQ mod 8 of its history (R376). -/
def keepHistory (s : State) (cell : Nat) : State :=
  let p := cellPair cell
  let h := historyOff cell + 0x20 * (bits (s.reg (p + 0x10)) 63 32 % 8)
  ((s.setReg h (s.reg p)).setReg (h + 8) (s.reg (p + 8))).setReg (h + 0x10) (s.reg (p + 0x10))

/-- Rewrites a cell's pair and its history. -/
def rewriteCellPair (s : State) (cell at_ count freq : Nat) : State :=
  keepHistory (rewritePair s (cellPair cell) at_ count freq) cell

/-- The first tick by which a stretch of a cell has ended and time has passed, if there is one (R190). -/
def stretchTick (s : State) (c : Cell) : Option Nat :=
  ((c.droop.stretch.map (fun q => tickAt q.2.toNat)).filter (fun t => decide (t ≤ s.gts.toNat))).min?

/-- At the first tick after a droop stretch has ended the pair is rewritten with the same frequency (R190). A clock that is stopped
then has its pair rewritten when it starts (R189). -/
def settleStretch (s : State) (cell : Nat) : State :=
  match clockStop (s.cell cell), stretchTick s (s.cell cell) with
  | none, some t =>
    let n := countAt s (cellPair cell) (s.cell cell).droop.stretch t
    let s := s.modCell cell (fun c => { c with droop := { c.droop with
      stretch := c.droop.stretch.filter (fun q => decide (t < q.2.toNat)) } })
    rewriteCellPair s cell t n (bits (s.reg (cellPair cell + 0x10)) 7 0)
  | _, _ => s

/-- The same for every cell with a stretch that is not settled. -/
def settleStretches (s : State) : State :=
  (s.cells.filter (fun q => !q.2.droop.stretch.isEmpty)).foldl (fun s q => settleStretch s q.1) s

/-! ## Wheel tables (R95, R163) -/

/-- Offset of the active wheel set of a die. -/
def activeSet (s : State) (d : Nat) : Nat := dieBase d + 0x1000 * bits (s.reg (dieBase d + 0x2000)) 0 0
def inactiveSet (s : State) (d : Nat) : Nat := dieBase d + 0x1000 * (1 - bits (s.reg (dieBase d + 0x2000)) 0 0)
def wheelLo (s : State) (set : Nat) : Nat := bits (s.reg (set + 0x400)) 5 0 + 1
def wheelLi (s : State) (set : Nat) : Nat := bits (s.reg (set + 0x400)) 13 8 + 1
/-- Wo[i][c]. -/
def wheelWo (s : State) (set i c : Nat) : Nat := bits (s.reg (set + 8 * i)) (4 * c + 3) (4 * c)
/-- Wi[k]. -/
def wheelWi (s : State) (set k : Nat) : Nat := bits (s.reg (set + 0x200 + 8 * k)) 5 0
/-- ORIGIN (R95). -/
def wheelOrigin (s : State) (d : Nat) : Nat := (s.reg (dieBase d + 0x2008)).toNat

/-- The group and bank that a wheel position 64 c + j of a die meets at a fabric cycle (R95). -/
def pairedBank (s : State) (d pos fc : Nat) : Nat × Nat :=
  let set := activeSet s d
  let t := fc - wheelOrigin s d
  let lo := wheelLo s set
  (wheelWo s set (t % lo) (pos / 64), (pos % 64 + wheelWi s set (t / lo % wheelLi s set)) % 64)

/-- The first cycle at or after FCYC at which a position meets a bank, within one turn; FCYC itself if it never does. -/
def nextMeeting (s : State) (d pos group bank : Nat) : Nat :=
  let set := activeSet s d
  let now := s.fcyc d
  let org := wheelOrigin s d
  let lo := wheelLo s set
  let li := wheelLi s set
  let is := (List.range lo).filter (fun i => wheelWo s set i (pos / 64) = group)
  let ks := (List.range li).filter (fun k => (pos % 64 + wheelWi s set k) % 64 = bank)
  let ts := (is.map (fun i => ks.map (fun k => lo * k + i))).flatten
  let turn := lo * li
  let ahead := ts.map (fun t => (t + turn - (now - org) % turn) % turn)
  match ahead with
  | [] => now
  | a :: as => now + as.foldl min a

/-- Whether a cycle is a turn boundary of the active set (R95). -/
def isBoundary (s : State) (d fc : Nat) : Bool :=
  let set := activeSet s d
  wheelOrigin s d ≤ fc && (fc - wheelOrigin s d) % (wheelLo s set * wheelLi s set) = 0

/-- Offset of the remap entry of a group's logical bank (R166). -/
def remapOff (d group bank : Nat) : Nat := dieBase d + 0x3000 + 0x200 * group + 8 * bank
def remapState (s : State) (d group bank : Nat) : Nat := bits (s.reg (remapOff d group bank)) 8 7
def isHole (s : State) (d group bank : Nat) : Bool := remapState s d group bank = 2

/-! ## Performance counters (R194) -/

def cellPerf (cell : Nat) : Nat := dieBase (dieOf cell) + 0x10000 + 0x100 * cellIx cell
def diePerf (d : Nat) : Nat := dieBase d + 0x20000

/-- Adds k to one counter if it counts an event; COUNT wraps at 48 bits and sets OVF
(DESIGN CHOICE, notes/assumptions/36.md). -/
def bump (s : State) (base ev k n : Nat) : State :=
  let sel := s.reg (base + 8 * n)
  if bits sel 7 0 = ev && k ≠ 0 then
    let c := bits (s.reg (base + 0x40 + 8 * n)) 47 0 + k
    let s := s.setReg (base + 0x40 + 8 * n) (wrap64 (c % 2 ^ 48))
    if 2 ^ 48 ≤ c then s.setReg (base + 8 * n) (setBit sel 8 true) else s
  else s

/-- Adds k to every counter of a block that counts an event. -/
def count (s : State) (base ev k : Nat) : State := (List.range 8).foldl (fun s n => bump s base ev k n) s

/-! ## Free values and serial numbers -/

/-- A fresh serial number. -/
def State.fresh (s : State) : Nat × State := (s.nextId, { s with nextId := s.nextId + 1 })
/-- A free 64-bit value (notes/assumptions/6.md). -/
def State.freeW (s : State) : Word × State := (Config.freeWord s.freeCtr, { s with freeCtr := s.freeCtr + 1 })

/-- Steps that become due (notes/assumptions/2.md). -/
def State.push (s : State) (ts : List Turn) : State := { s with work := s.work ++ ts }
/-- A step of a timer is due, once. -/
def State.dueOnce (s : State) (l : Later) : State := if s.work.contains (.later l) then s else s.push [.later l]
/-- One more step due. -/
def State.pushE (s : State) (i : Instr) : State := { s with work := s.work ++ [.event i] }

end Sys2Proof.Machine
end

