-- ==== Sys2Proof/Machine/Local.lean ====
section
/-! DEFINITION. A cell's local memory: full/empty bits, tile directory, pair entries (spec/04_memories.md R89,
spec/07_tables.md R169-R172, spec/15_ref_threads_system.md R311). The bytes of a classed frame are always the class's elements, so
that a read of the bytes is the read that R172 states. -/

namespace Sys2Proof.Machine

/-- Bytes of a cell's local memory. -/
def localSize : Nat := 0x200000

namespace Loc

/-- Where an offset reaches, under the pair entries (R311). -/
def mapOff (c : Cell) (o : Nat) : Nat :=
  let f := o / 1024
  match c.pairs.find? (fun e => e.flip && decide (e.first ≤ f) && decide (f < e.first + 2 * e.n)) with
  | none => o
  | some e => if f < e.first + e.n then o + 1024 * e.n else o - 1024 * e.n

/-- The frame that a frame number reaches (R311). -/
def mapFrame (c : Cell) (f : Nat) : Nat := mapOff c (1024 * f) / 1024

def entry (c : Cell) (mf : Nat) : DirEntry := FMap.get DirEntry.init c.dir mf
def setEntry (c : Cell) (mf : Nat) (e : DirEntry) : Cell := { c with dir := FMap.put c.dir mf e }

/-- The value of an element of a frame under a format: SXn at scale 0x7F (R170). -/
def elem (el : Elem) (b : Nat) : Fp := elemValue el b 0x7F true

/-- The value of an element, an unscaled float format not scaled. -/
def elemOfFrame (el : Elem) (b : Nat) : Fp :=
  match el with
  | .sx n => elem (.sx n) b
  | e => elemValue e b 0 false

/-- Numerically equal values; a NaN equals nothing (DEDUCED, notes/assumptions/26.md). -/
def sameValue (x y : Fp) : Bool := !x.isNan && !y.isNan && fpCompare x y = 0

/-- The identity's diagonal (R170): column r of row r, plus 16 for 16-bit elements of an odd frame. -/
def onDiagonal (w mf i : Nat) : Bool :=
  let col := i % 32
  let row := i / 32
  if w = 8 then col = row else col = row + 16 * (mf % 2)

/-- Class, FIN and VALUE of a frame's bits under a format, and the bits that a classed frame holds (R170, R172). The bits of a narrow
integer fill VALUE with zeros above them (DEDUCED, notes/assumptions/92.md). The bits beyond the last whole element stay as they were
when the frame was classified (DESIGN CHOICE, notes/assumptions/93.md). -/
def classify (el : Elem) (mf : Nat) (bitsOf : Nat) : FrameClass × Bool × Nat × Nat :=
  let w := el.width
  let n := 8192 / w
  let xs := lanes w bitsOf n
  let vs := xs.map (elemOfFrame el)
  let fin := vs.all Fp.finite
  let tail := (bitsOf >>> (w * n)) <<< (w * n)
  let first := match el with | .sx k => intBits w (signedN k (xs.headD 0)) | _ => xs.headD 0
  let oneBits := match el with | .float f => ((Ex.exact Fp.one).round f .rn false).1 | .int _ _ => 1 | .sx k => 2 ^ (k - 2) | .e8m0 => 127
  if vs.all Fp.isZero then (.zero, true, 0, tail)
  else if (w = 8 || w = 16) && (xs.zipIdx.all (fun q =>
      if onDiagonal w mf q.2 then sameValue (elemOfFrame el q.1) Fp.one else (elemOfFrame el q.1).isZero)) then
    (.identity, true, 0,
      packLanes w (xs.zipIdx.map (fun q => if onDiagonal w mf q.2 then oneBits else 0)) + tail)
  else if fin && vs.all (fun v => sameValue v (vs.headD Fp.zero)) then
    let v := match el with
      | .int _ _ => first
      | _ => (roundF32 .rn (vs.headD Fp.zero)).1
    (.constant, true, v, packLanes w (xs.map (fun _ => first)) + tail)
  else (.general, fin, 0, bitsOf)

/-- Recomputes a frame's entry under its FMT and makes its bytes the class's elements (R170-R172). A reserved FMT gives
general (DEDUCED, notes/assumptions/17.md). -/
def reclass (c : Cell) (mf : Nat) : Cell :=
  let e := entry c mf
  match elemOf e.fmt with
  | none => setEntry c mf { e with cls := .general, fin := true, value := 0#32, err := false }
  | some el =>
    let r := classify el mf (Memory.readN c.mem (1024 * mf) 1024)
    let e' : DirEntry := { cls := r.1, fin := r.2.1, fmt := e.fmt, value := BitVec.ofNat 32 r.2.2.1, err := false }
    let c := setEntry c mf e'
    match r.1 with
    | .general => c
    | _ => { c with mem := Memory.writeN c.mem (1024 * mf) 1024 r.2.2.2 }

/-- Sets FMT and recomputes (R171). -/
def setFmt (c : Cell) (mf code : Nat) : Cell :=
  reclass (setEntry c mf { entry c mf with fmt := code }) mf

/-- Zeroes a frame through the directory (R89, R171, R172); pair entries are not consulted. -/
def zeroFrame (c : Cell) (mf : Nat) : Cell :=
  let e := entry c mf
  let c := setEntry c mf { cls := .zero, fin := true, fmt := e.fmt, value := 0#32, err := false }
  { c with
    mem := Memory.clear c.mem (1024 * mf) (1024 * mf + 1024)
    fe := c.fe.filter (fun p => !(decide (128 * mf ≤ p.1) && decide (p.1 < 128 * mf + 128))) }

/-- Bytes at a physical offset, written raw. -/
def raw (c : Cell) (mo : Nat) : List Byte → Cell
  | [] => c
  | b :: bs => raw { c with mem := Memory.write c.mem mo b } (mo + 1) bs

/-- A partial write inside one frame, at an offset already mapped (R171, first row). A demotion leaves VALUE (DESIGN CHOICE,
notes/assumptions/90.md); a write that keeps the class changes no bit of the frame (notes/assumptions/93.md). -/
def partialAt (c : Cell) (mo : Nat) (bs : List Byte) : Cell :=
  let mf := mo / 1024
  let lo := mo % 1024
  let e := entry c mf
  let new := raw c mo bs
  match elemOf e.fmt with
  | none => setEntry new mf { e with cls := .general }
  | some el =>
    let w := el.width
    let first := lo * 8 / w
    let last := min (((lo + bs.length) * 8 - 1) / w) (8192 / w - 1)
    let b0 := first * w / 8
    let b1 := min 1024 (((last + 1) * w + 7) / 8)
    let old := Memory.readN c.mem (1024 * mf + b0) (b1 - b0)
    let cur := Memory.readN new.mem (1024 * mf + b0) (b1 - b0)
    let idx := (List.range (last + 1 - first)).map (fun i => (first + i) * w - 8 * b0)
    let pick (x sh : Nat) : Fp := elemOfFrame el ((x >>> sh) % 2 ^ w)
    let fin := idx.all (fun sh => (pick cur sh).finite)
    if e.cls ≠ .general && idx.all (fun sh => sameValue (pick cur sh) (pick old sh)) then c
    else setEntry new mf { e with cls := .general, fin := e.fin && fin }

/-- A frame that is being written whole reads general from its first unit on (R171). -/
def demote (c : Cell) (mf : Nat) : Cell := setEntry c mf { entry c mf with cls := .general }

/-- Reads n bytes that lie in one frame (R172). -/
def readN (c : Cell) (o n : Nat) : Nat := Memory.readN c.mem (mapOff c o) n

/-- Writes bytes that lie in one frame, as a partial write. -/
def write (c : Cell) (o : Nat) (bs : List Byte) : Cell := partialAt c (mapOff c o) bs

/-- Writes bytes that may span frames, 64 bytes at a time from an aligned offset: the fuel is the number of units. -/
def writeUnits (c : Cell) (o : Nat) : Nat → List Byte → Cell
  | 0, _ => c
  | n + 1, bs => writeUnits (write c o (bs.take 64)) (o + 64) n (bs.drop 64)

/-- Writes a whole frame and recomputes it under a format, or under its FMT (R171). -/
def writeFrame (c : Cell) (f : Nat) (fmt : Option Nat) (v : Nat) : Cell :=
  let mf := mapFrame c f
  let c := { c with mem := Memory.writeN c.mem (1024 * mf) 1024 v }
  match fmt with
  | some code => setFmt c mf code
  | none => reclass c mf

/-- Number of the 64-bit word that an offset reaches. -/
def wordAt (c : Cell) (o : Nat) : Nat := mapOff c o / 8

/-- F of the word at an offset; a frame of zero class reads 1 (R172). -/
def full (c : Cell) (o : Nat) : Bool :=
  let mo := mapOff c o
  match (entry c (mo / 1024)).cls with
  | .zero => true
  | _ => FMap.get true c.fe (mo / 8)

/-- Sets F in the bit store (R172, R280). -/
def setFull (c : Cell) (o : Nat) (b : Bool) : Cell :=
  let w := wordAt c o
  { c with fe := if b then FMap.del c.fe w else FMap.put c.fe w false }

/-- The directory word of `tdq` (R169). -/
def entryWord (e : DirEntry) : Word :=
  let cls : Nat := match e.cls with | .zero => 0 | .constant => 1 | .identity => 2 | .general => 3
  wrap64 (cls + 4 * e.fin.toNat + 8 * (e.fmt % 32) + 256 * e.value.toNat + 2 ^ 40 * e.err.toNat)

end Loc

/-- Whether the entry of the frame at an offset is in error: whoever consults it meets MACHINE-CHECK (R172). -/
def entryErr (s : State) (cell o : Nat) : Bool := (Loc.entry (s.cell cell) (Loc.mapOff (s.cell cell) o / 1024)).err

/-- Whether n bytes of a cell's local memory meet an uncorrectable error: a marked word of a general frame, or a marked
entry (R84, R172). -/
def localErr (s : State) (cell o n : Nat) : Bool :=
  let c := s.cell cell
  let mo := Loc.mapOff c o
  let e := Loc.entry c (mo / 1024)
  e.err || (e.cls = .general &&
    s.errs.any (fun x => match x with | .loc k w => k = cell && decide (mo / 8 ≤ w) && decide (w ≤ (mo + n - 1) / 8) | _ => false))

/-- A write of whole 64-bit words replaces their check bits (R84). -/
def clearLocalErr (s : State) (cell o n : Nat) : State :=
  let mo := Loc.mapOff (s.cell cell) o
  { s with errs := s.errs.filter (fun x => match x with
      | .loc k w => !(k = cell && decide ((mo + 7) / 8 ≤ w) && decide (w < (mo + n) / 8))
      | _ => true) }

/-- Words of a cell's local memory that hold failing check bits from now on (R84, R348). -/
def markLocal (s : State) (cell o n : Nat) : State :=
  let mo := Loc.mapOff (s.cell cell) o
  { s with errs := s.errs ++ ((List.range (n / 8)).map (fun i => ErrSite.loc cell (mo / 8 + i))).filter (fun e => !s.errs.contains e) }

/-- The rows of a classed frame are not read, and after a demotion they hold the class's elements: failing check bits in them go
(R172). -/
def forgetRows (s : State) (cell o : Nat) : State :=
  let mf := Loc.mapOff (s.cell cell) o / 1024
  if (Loc.entry (s.cell cell) mf).cls = .general then s
  else { s with errs := s.errs.filter (fun x => match x with
      | .loc k w => !(k = cell && w / 128 = mf)
      | _ => true) }

/-- Writes n bytes of a number at an offset of a cell's local memory, inside one frame. -/
def localWrite (s : State) (cell o n v : Nat) : State :=
  clearLocalErr ((forgetRows s cell o).modCell cell (fun c => Loc.write c o (toBytes n v))) cell o n

/-- Reads n bytes inside one frame. -/
def localRead (s : State) (cell o n : Nat) : Nat := Loc.readN (s.cell cell) o n

/-- Reads units of 64 bytes across frames, packed. -/
def localReadUnits (s : State) (cell o : Nat) : Nat → Nat
  | 0 => 0
  | n + 1 => localRead s cell o 64 + 2 ^ 512 * localReadUnits s cell (o + 64) n

/-! ## The commons (R94-R98, R166) -/

/-- Address of a byte in a die's commons store. -/
def commonsAddr (group phys row byte : Nat) : Nat := ((group * 68 + phys) * 2048 + row) * 64 + byte

/-- Group, logical bank and row of a commons offset of a partition on a die (R94). -/
def commonsPlace (s : State) (p d o : Nat) : Nat × Nat × Nat :=
  let gs := s.groupsOn p d
  let u := o / 64
  (getAt 0 gs (u / 64 % gs.length), u % 64, u / (64 * gs.length))

def State.commonsOf (s : State) (d : Nat) : Memory := FMap.get [] s.commons d

/-- Reads n bytes of a unit. -/
def commonsRead (s : State) (d : Nat) (pl : Nat × Nat × Nat) (byte n : Nat) : Nat :=
  Memory.readN (s.commonsOf d) (commonsAddr pl.1 (bits (s.reg (remapOff d pl.1 pl.2.1)) 6 0) pl.2.2 byte) n

/-- The spare to which a bank is being copied: the lowest spare of the group that no entry names (R167). -/
def freeSpare (s : State) (d group : Nat) : Option Nat :=
  [64, 65, 66, 67].find? (fun x => (List.range 64).all (fun b => bits (s.reg (remapOff d group b)) 6 0 ≠ x))

/-- Writes n bytes of a unit; while the bank is being copied, in both banks (R167). -/
def commonsWrite (s : State) (d : Nat) (pl : Nat × Nat × Nat) (byte n v : Nat) : State :=
  let wr (m : Memory) (phys : Nat) : Memory := Memory.writeN m (commonsAddr pl.1 phys pl.2.2 byte) n v
  let m := wr (s.commonsOf d) (bits (s.reg (remapOff d pl.1 pl.2.1)) 6 0)
  let m := if remapState s d pl.1 pl.2.1 = 1 then
      (match freeSpare s d pl.1 with | some x => wr m x | none => m)
    else m
  let whole (phys w : Nat) : Bool :=
    let a := commonsAddr pl.1 phys pl.2.2 byte
    decide ((a + 7) / 8 ≤ w) && decide (w < (a + n) / 8)
  let twin (w : Nat) : Bool :=
    remapState s d pl.1 pl.2.1 = 1 && (match freeSpare s d pl.1 with | some x => whole x w | none => false)
  { s with
    commons := FMap.put s.commons d m
    errs := s.errs.filter (fun x => match x with
      | .commons k w => !(k = d && (whole (bits (s.reg (remapOff d pl.1 pl.2.1)) 6 0) w || twin w))
      | _ => true) }

/-- Whether n bytes of a unit meet an uncorrectable error (R84). -/
def commonsErr (s : State) (d : Nat) (pl : Nat × Nat × Nat) (byte n : Nat) : Bool :=
  let a := commonsAddr pl.1 (bits (s.reg (remapOff d pl.1 pl.2.1)) 6 0) pl.2.2 byte
  s.errs.any (fun x => match x with | .commons k w => k = d && decide (a / 8 ≤ w) && decide (w ≤ (a + n - 1) / 8) | _ => false)

end Sys2Proof.Machine
end

