-- ==== Sys2Proof/Machine/Phys.lean ====
section
/-! DEFINITION. Physical memory, keys, page tables, TLBs, home dies and the L1 caches (spec/04_memories.md R88, R99-R112,
spec/07_tables.md R183-R184, spec/10_edges.md R390). -/

namespace Sys2Proof.Machine

/-! ## Physical addresses (R88, R183) -/

def isHbm (pa : Nat) : Bool := pa < 0x012000000000
def isTier2 (pa : Nat) : Bool := 0x100000000000 ≤ pa && pa < 0x160000000000
/-- Host memory and other CXL devices (DESIGN CHOICE, notes/assumptions/35.md). -/
def isSystem (pa : Nat) : Bool := 0x8000000000000 ≤ pa && pa < 0x10000000000000
def isBacked (pa : Nat) : Bool := isHbm pa || isTier2 pa || isSystem pa

/-- Whether the link is up (R216). -/
def State.linkUp (s : State) : Bool := (s.reg (pkgBase + 0x140000)).getLsbD 6

/-- Word w of interleave descriptor n. -/
def State.ilvWord (s : State) (n w : Nat) : Word := s.reg (pkgBase + 0x110000 + 0x20 * n + 8 * w)

def gib : Nat := 2 ^ 30
def hbmBase (s : State) (n : Nat) : Nat := bits (s.ilvWord n 1) 31 0 * gib
def hbmSize (s : State) (n : Nat) : Nat := bits (s.ilvWord n 1) 63 32 * gib
def tierBase (s : State) (n : Nat) : Nat := 0x100000000000 + bits (s.ilvWord n 3) 31 0 * gib
def tierSize (s : State) (n : Nat) : Nat := bits (s.ilvWord n 3) 63 32 * gib
def inHbmRange (s : State) (n pa : Nat) : Bool := hbmBase s n ≤ pa && pa < hbmBase s n + hbmSize s n
def inTierRange (s : State) (n pa : Nat) : Bool := tierBase s n ≤ pa && pa < tierBase s n + tierSize s n

/-- The lowest committed partition whose descriptor's range holds an address (R390). -/
def partOfPa (s : State) (pa : Nat) : Option Nat :=
  allParts.find? (fun p => s.committed p && (inHbmRange s (s.ilv p) pa || inTierRange s (s.ilv p) pa))

/-- The n-th set bit of a mask. -/
def nthBit (mask n : Nat) : Nat := getAt 0 ((List.range 48).filter (fun i => (mask >>> i) % 2 = 1)) n

/-- Home die of a physical address (R100, R183); die 0 for host memory and outside every range. -/
def homeDie (s : State) (pa : Nat) : Nat :=
  match partOfPa s pa with
  | none => 0
  | some p =>
    let n := s.ilv p
    if inHbmRange s n pa then
      let mask := bits (s.ilvWord n 0) 11 0
      let g := 2 ^ (12 + bits (s.ilvWord n 0) 15 12)
      nthBit mask ((pa - hbmBase s n) / g % max 1 (popcount mask)) / 3
    else
      let mask := bits (s.ilvWord n 2) 47 0
      let g := 2 ^ (12 + bits (s.ilvWord n 2) 51 48)
      nthBit mask ((pa - tierBase s n) / g % max 1 (popcount mask)) / 12

/-- Line number of a physical address. -/
def lineOf (pa : Nat) : Nat := pa / 128
/-- Slice number within the package of a line: home die and Bits(PA, 14, 9) (R100). -/
def sliceNo (die line : Nat) : Nat := 64 * die + line / 4 % 64

/-! ## Keys (R112, R184, R390) -/

/-- The number under which the package key stands beside the key slots 0-255. -/
def packageKey : Nat := 256
/-- Serial number of a slot's key material. -/
def State.material (s : State) (key : Nat) : Nat := FMap.get 0 s.keyMat key
def keyReg (n : Nat) : Nat := pkgBase + 0x120000 + 8 * n
def State.keyPresent (s : State) (n : Nat) : Bool := (s.reg (keyReg n)).getLsbD 0

/-- The key of an access that names no page (R390). -/
def keyByPa (s : State) (pa : Nat) : Nat :=
  match partOfPa s pa with
  | some p => s.keyLo p
  | none => packageKey

/-- Whether a line decrypts under a key: written under the same material, or not encrypted memory. A line that nothing has written
has no meaning under any key that has been loaded (R112, R380). -/
def decrypts (s : State) (line key : Nat) : Bool := isSystem (128 * line) || decide (FMap.get 0 s.lineKey line = s.material key)

/-- n free bytes as a number (R112, notes/assumptions/7.md). -/
def freeBytes (ctr : Nat) : Nat → Nat
  | 0 => 0
  | n + 1 => (Config.freeByte ctr).toNat + 256 * freeBytes (ctr + 1) n

/-- Reads n bytes inside one line under a key; a line that does not decrypt gives free bytes. -/
def physReadLine (s : State) (pa n key : Nat) : Nat × State :=
  if decrypts s (lineOf pa) key then (Memory.readN s.phys pa n, s)
  else (freeBytes s.freeCtr n, { s with freeCtr := s.freeCtr + n })

/-- Writes n bytes inside one line under a key: a line held under other material is rewritten under this one, its other bytes
with no meaning (R112). -/
def physWriteLine (s : State) (pa n v key : Nat) : State :=
  let line := lineOf pa
  let s := if decrypts s line key then s
    else { s with
      phys := Memory.writeN s.phys (128 * line) 128 (freeBytes s.freeCtr 128)
      freeCtr := s.freeCtr + 128 }
  { s with
    phys := Memory.writeN s.phys pa n v
    lineKey := if isSystem pa then s.lineKey else FMap.put s.lineKey line (s.material key)
    errs := s.errs.filter (fun x => match x with
      | .phys w => !(decide ((pa + 7) / 8 ≤ w) && decide (w < (pa + n) / 8))
      | _ => true) }

/-- Bytes of an access that lie in the line of its first byte. -/
def headBytes (pa n : Nat) : Nat := min n (128 - pa % 128)

/-- Reads n bytes across lines; the fuel bounds the lines. -/
def physReadFuel : Nat → State → Nat → Nat → Nat → Nat × State
  | 0, s, _, _, _ => (0, s)
  | k + 1, s, pa, n, key =>
    if n = 0 then (0, s)
    else
      let h := headBytes pa n
      let r := physReadLine s pa h key
      let t := physReadFuel k r.2 (pa + h) (n - h) key
      (r.1 + 2 ^ (8 * h) * t.1, t.2)

/-- Reads n bytes of physical memory under a key. -/
def physRead (s : State) (pa n key : Nat) : Nat × State := physReadFuel (n / 128 + 2) s pa n key

/-- Writes n bytes across lines. -/
def physWriteFuel : Nat → State → Nat → Nat → Nat → Nat → State
  | 0, s, _, _, _, _ => s
  | k + 1, s, pa, n, v, key =>
    if n = 0 then s
    else
      let h := headBytes pa n
      physWriteFuel k (physWriteLine s pa h (v % 2 ^ (8 * h)) key) (pa + h) (n - h) (v / 2 ^ (8 * h)) key

/-- Writes n bytes of physical memory under a key. -/
def physWrite (s : State) (pa n v key : Nat) : State := physWriteFuel (n / 128 + 2) s pa n v key

/-- A write that names no page, such as a fault record's (R390). -/
def physWriteRaw (s : State) (pa n v : Nat) : State := physWrite s pa n v (keyByPa s pa)
/-- A read that names no page. -/
def physReadRaw (s : State) (pa n : Nat) : Nat × State := physRead s pa n (keyByPa s pa)

/-- Whether n bytes meet an uncorrectable error, or the link is down (R84, R216). -/
def physErr (s : State) (pa n : Nat) : Bool :=
  (isSystem pa && !s.linkUp) ||
    s.errs.any (fun x => match x with | .phys w => decide (pa / 8 ≤ w) && decide (w ≤ (pa + n - 1) / 8) | _ => false)

/-- The first of n bytes that meets an uncorrectable error, or the link that is down. -/
def errAt (s : State) (pa n : Nat) : Nat :=
  if isSystem pa && !s.linkUp then pa
  else s.errs.foldl (fun m x => match x with
    | .phys w => if decide (pa / 8 ≤ w) && decide (w ≤ (pa + n - 1) / 8) then min m (max pa (8 * w)) else m
    | _ => m) (pa + n)

/-! ## Translation (R105-R111) -/

/-- Kinds of access (R108, R109). -/
inductive Kind where
  | read | write | fetch
  deriving DecidableEq, Repr

/-- DETAIL of a PAGE trap. -/
def Kind.detail : Kind → Nat
  | .read => 0
  | .write => 1
  | .fetch => 2

/-- How a translation ends (R108). -/
inductive Xlate where
  | ok (pa key attr : Nat)
  | denied
  | demand
  deriving DecidableEq, Repr

def canonical (va : Word) : Bool := bits va 63 57 = (if va.getLsbD 56 then 127 else 0)

/-- Offset of ASIDTB of a die, and of CASID of a cell (R106). -/
def asidtbOff (d : Nat) : Nat := dieBase d + 0xB000
def casidOff (cell : Nat) : Nat := dieBase (dieOf cell) + 0xB100 + 8 * cellIx cell
def State.casid (s : State) (cell : Nat) : Nat := bits (s.reg (casidOff cell)) 12 0

/-- What a leaf entry gives, but for the rights: the page's size, its first virtual address and its entry with the address of
that page; with CONT, those of the group, whose first address is counted back from the entry's own, modulo 2^52 (R107, R110). -/
structure Leaf where
  va : Nat
  size : Nat
  pa : Nat
  pte : Word
  deriving DecidableEq, Repr

/-- Where a walk ends. -/
inductive WalkEnd where
  | leaf (l : Leaf)
  | denied
  | demand
  deriving DecidableEq, Repr

/-- Lowest bit and number of bits of the VA field of a level (R105). -/
def levelLo (lv : Nat) : Nat := 16 + 13 * lv
def levelBits (lv : Nat) : Nat := if lv = 3 then 2 else 13

/-- Checks of a leaf that do not depend on the access (R108). -/
def leafSound (lv : Nat) (pte : Word) : Bool :=
  bits pte 15 9 = 0 && bits pte 63 60 = 0 && bits pte 8 7 ≠ 3 &&
    (lv = 0 || (lv = 1 && bits pte 28 16 = 0)) && isBacked (bits pte 51 16 * 65536)

/-- Whether an entry of a table cannot be read: it lies in host memory and the link is down (R216); the walk then denies (DESIGN
CHOICE, notes/assumptions/96.md). -/
def tableAway (s : State) (pa : Nat) : Bool := isSystem pa && !s.linkUp

/-- One level of the walk, from level lv down; the fuel is the level plus one. -/
def walkFrom : Nat → State → Nat → Nat → WalkEnd × State
  | 0, s, _, _ => (.denied, s)
  | lv + 1, s, table, va =>
    let ix := nbits va (levelLo lv + levelBits lv - 1) (levelLo lv)
    let r := physReadRaw s (table + 8 * ix) 8
    let pte := wrap64 r.1
    if tableAway s (table + 8 * ix) then (.denied, s)
    else if !pte.getLsbD 0 then (if pte.getLsbD 1 then .demand else .denied, r.2)
    else if pte.getLsbD 1 then
      if !leafSound lv pte then (.denied, r.2)
      else
        let size := 2 ^ levelLo lv
        let n := if pte.getLsbD 6 then (if lv = 0 then 32 else 64) else 1
        let group := size * n
        let first := va / group * group
        let back := (va / size * size - first)
        (.leaf ⟨first, group, (bits pte 51 16 * 65536 + 2 ^ 52 - back) % 2 ^ 52, pte⟩, r.2)
    else if lv = 0 || bits pte 15 9 ≠ 0 || bits pte 63 60 ≠ 0 || bits pte 8 7 = 3 then (.denied, r.2)
    else walkFrom lv r.2 (bits pte 51 16 * 65536) va

/-- The walk for an ASID on a die (R105, R106). -/
def walk (s : State) (d asid va : Nat) : WalkEnd × State :=
  let tb := s.reg (asidtbOff d)
  if !tb.getLsbD 0 then (.denied, s)
  else
    let r := physReadRaw s (bits tb 51 16 * 65536 + 8 * asid) 8
    let root := wrap64 r.1
    if tableAway s (bits tb 51 16 * 65536 + 8 * asid) then (.denied, s)
    else if !root.getLsbD 0 then (.denied, r.2)
    else walkFrom 4 r.2 (bits root 51 16 * 65536) va

/-- The TLB entry of a die that translates an address (R110). -/
def tlbFind (s : State) (d asid va : Nat) : Option TlbEntry :=
  s.tlb.find? (fun e => e.die = d && (e.asid = none || e.asid = some asid) && decide (e.va ≤ va) && decide (va < e.va + e.size))

/-- Checks of a leaf that depend on the access: the key slot and the rights (R108). -/
def leafAllows (s : State) (p : Nat) (pte : Word) (rd wr ex : Bool) : Bool :=
  let k := bits pte 59 52
  s.keyLo p ≤ k && k ≤ s.keyHi p && s.keyPresent k &&
    (!rd || pte.getLsbD 2) && (!wr || pte.getLsbD 3) && (!ex || pte.getLsbD 4)

/-- Entries of a die's last-level TLB (R110). -/
def tlbEntries : Nat := 8192

/-- The TLB entries with room for one more of a die: with all of the die's in use its oldest goes (notes/assumptions/8.md). -/
def tlbRoom (s : State) (d : Nat) : List TlbEntry :=
  if (s.tlb.filter (fun e => e.die = d)).length < tlbEntries then s.tlb
  else match s.tlb.find? (fun e => e.die = d) with
    | some e => s.tlb.erase e
    | none => s.tlb

/-- Translates an address of a partition for an ASID on a die: by the TLB, else by a walk that fills it (R100-R110); with EN of the
die's ASIDTB 0 nothing is translated (R106). -/
def translate (s : State) (p d asid va : Nat) (rd wr ex : Bool) : Xlate × State :=
  let fin (pa : Nat) (pte : Word) (s : State) : Xlate × State :=
    if leafAllows s p pte rd wr ex then (.ok pa (bits pte 59 52) (bits pte 8 7), s) else (.denied, s)
  if !(s.reg (asidtbOff d)).getLsbD 0 then (.denied, s)
  else
  match tlbFind s d asid va with
  | some e => fin ((bits e.pte 51 16 * 65536 + (va - e.va)) % 2 ^ 52) e.pte s
  | none =>
    match walk (count s (diePerf d) 7 1) d asid va with
    | (.demand, s) => (.demand, s)
    | (.denied, s) => (.denied, s)
    | (.leaf l, s) =>
      let pte := setBits l.pte 51 16 (l.pa / 65536)
      let e : TlbEntry := { die := d, asid := if l.pte.getLsbD 5 then none else some asid, va := l.va, size := l.size, pte := pte }
      fin ((l.pa + (va - l.va)) % 2 ^ 52) pte { s with tlb := tlbRoom s d ++ [e] }

/-! ## L1 data caches (R99, R274) -/

namespace L1

def setIx (va : Nat) : Nat := va / 128 % 64

def setOf (c : Core) (va : Nat) : L1Set := FMap.get L1Set.init c.l1 (setIx va)

/-- The way that holds a line for an ASID. -/
def way (st : L1Set) (asid line : Nat) : Option Nat :=
  (List.range 8).find? (fun i => match getAt none st.ways i with | some l => l.asid = asid && l.va = line | none => false)

/-- The line that holds an address. -/
def find (c : Core) (asid va : Nat) : Option L1Line :=
  let st := setOf c va
  match way st asid (va / 128) with
  | some i => getAt none st.ways i
  | none => none

/-- Points the tree away from a way (R386). -/
def touch (p : BitVec 7) (w : Nat) : BitVec 7 :=
  let p := setBit p 0 (decide (w < 4))
  let p := setBit p (1 + w / 4) (decide (w % 4 < 2))
  setBit p (3 + w / 2) (w % 2 = 0)

/-- The way that the tree points at. -/
def victim (p : BitVec 7) : Nat :=
  let a := (p.getLsbD 0).toNat
  let b := (p.getLsbD (1 + a)).toNat
  let n := 2 * a + b
  2 * n + (p.getLsbD (3 + n)).toNat

/-- Marks a hit. -/
def hit (c : Core) (asid va : Nat) : Core :=
  let st := setOf c va
  match way st asid (va / 128) with
  | some i => { c with l1 := FMap.put c.l1 (setIx va) { st with plru := touch st.plru i } }
  | none => c

/-- Takes out every line that a test names. -/
def drop (c : Core) (p : L1Line → Bool) : Core :=
  { c with l1 := c.l1.map (fun q =>
      (q.1, { q.2 with ways := q.2.ways.map (fun o => match o with | some l => if p l then none else some l | none => none) })) }

/-- The way that a fill takes: an empty one, else the one that the tree points at, or, where a pending load holds that, the first in
the tree's order that none holds; with all held there is no way (R386; DESIGN CHOICE, notes/assumptions/8.md). -/
def choose (st : L1Set) (held : L1Line → Bool) : Option Nat :=
  let free (i : Nat) : Bool := match getAt none st.ways i with | some l => !held l | none => true
  match (List.range 8).find? (fun i => (getAt none st.ways i).isNone) with
  | some i => some i
  | none => ((List.range 8).map (fun i => victim st.plru ^^^ i)).find? free

/-- Fills a line; a second virtual copy of the physical line goes first (R101). -/
def fill (c : Core) (l : L1Line) (held : L1Line → Bool) : Core :=
  let c := drop c (fun x => x.pa = l.pa)
  let va := 128 * l.va
  let st := setOf c va
  match choose st held with
  | none => c
  | some w =>
  { c with l1 := FMap.put c.l1 (setIx va) { ways := setAt st.ways w (some l), plru := touch st.plru w } }

/-- A store's update of a line that is present (R99). -/
def update (c : Core) (asid va n v : Nat) : Core :=
  let st := setOf c va
  match way st asid (va / 128) with
  | none => c
  | some i =>
    match getAt none st.ways i with
    | none => c
    | some l =>
      let o := va % 128
      let h := min n (128 - o)
      let d := l.data.toNat
      let d' := d % 2 ^ (8 * o) + 2 ^ (8 * o) * (v % 2 ^ (8 * h)) + 2 ^ (8 * (o + h)) * (d / 2 ^ (8 * (o + h)))
      { c with l1 := FMap.put c.l1 (setIx va) { st with ways := setAt st.ways i (some { l with data := BitVec.ofNat 1024 d' }) } }

end L1

/-- Takes a physical line out of the L1 of every core of a die but one (R101). -/
def dropL1 (s : State) (d line : Nat) (but : Option Nat) : State :=
  { s with cores := s.cores.map (fun q =>
      if dieOf (q.1 / 4) = d && but ≠ some q.1 then (q.1, L1.drop q.2 (fun l => l.pa = line)) else q) }

/-- Self-invalidation of an acquire at package or system scope on a die (R131): clean replicas, and L1 copies of lines
homed elsewhere. -/
def selfInvalidate (s : State) (d : Nat) : State :=
  let dirty (line : Nat) : Bool := s.forwards.any (fun f => f.die = d && lineOf f.pa = line)
  let s := { s with replicas := s.replicas.filter (fun r => r.die ≠ d || dirty r.line) }
  { s with cores := s.cores.map (fun q =>
      if dieOf (q.1 / 4) = d then (q.1, L1.drop q.2 (fun l => homeDie s (128 * l.pa) ≠ d && !dirty l.pa)) else q) }

/-- What an acquire at package or system scope does once its value is read (R131). -/
def acquired (s : State) (a : Access) : State :=
  if a.acq && decide (4 ≤ a.scope) then selfInvalidate s (dieOf a.cell) else s

/-! ## Slices (R101-R103) -/

def State.stampCtr (s : State) (slice : Nat) : Word := FMap.get 0#64 s.stamps slice

/-- The stamp of a line in its slice, if it is there. -/
def lineStamp (s : State) (die line : Nat) : Option Word :=
  (s.lines.find? (fun x => x.die = die && x.line = line)).map (·.stamp)

/-- A write serialised at a slice: the counter rises and the line, if present, takes it; open miss registers close; the address
filter holds the write until memory has acknowledged it (R102, R103). -/
def serialise (s : State) (die line key : Nat) : State :=
  let k := sliceNo die line
  let c := s.stampCtr k + 1#64
  ({ s with
    stamps := FMap.put s.stamps k c
    lines := s.lines.map (fun x => if x.die = die && x.line = line then { x with key := key, stamp := c } else x)
    misses := s.misses.map (fun m => if m.die = die && m.line = line then { m with closed := true } else m)
    filter := s.filter ++ [(die, line)] } : State).pushE (.memoryWriteAcknowledged die line)

/-- Miss registers in use at the slice of a line (R102). -/
def missesAt (s : State) (d line : Nat) : Nat :=
  (s.misses.filter (fun m => m.die = d && sliceNo d m.line = sliceNo d line)).length

/-- Allocates a miss register. -/
def allocMiss (s : State) (d line key : Nat) (closed : Bool) : State :=
  let m : Miss := { die := d, line := line, key := key, closed := closed }
  ({ s with misses := s.misses ++ [m] } : State).pushE (.lineFilledFromMemory d line)

/-- The replica of a line on a die. -/
def replicaOf (s : State) (die line key : Nat) : Option Replica :=
  s.replicas.find? (fun r => r.die = die && r.line = line && r.key = key)

/-- Whether a line can be read at a die's slice: at home when it is there, elsewhere when a replica is (R100, R131). -/
def present (s : State) (d line key : Nat) : Bool :=
  if homeDie s (128 * line) = d then (lineStamp s d line).isSome else (replicaOf s d line key).isSome

/-- Whether a slice has a miss register free for a line (R102). -/
def missFree (s : State) (d line : Nat) : Bool := decide (missesAt s d line < Config.missRegisters)

/-- A write miss takes a miss register, which no read may join; without a free one it goes to memory as a partial-line write (R102)
(DEDUCED, notes/assumptions/58.md). -/
def writeMiss (s : State) (d line key : Nat) : State :=
  if !present s d line key && missFree s d line then allocMiss s d line key true else s

/-- Whether an open miss register of a line may take one more read. -/
def mergeable (s : State) (d line : Nat) : Bool := s.misses.any (fun m => m.die = d && m.line = line && !m.closed)

/-- A read miss of an engine or of a prefetch: it merges into the line's miss register or takes one; with none free the line is not
kept (R102). -/
def readMiss (s : State) (d line key : Nat) : State :=
  if present s d line key || mergeable s d line || !missFree s d line then s else allocMiss s d line key false

/-- Counts an access to a cached line at a die's slice as a hit or as a miss (R194). -/
def countL2 (s : State) (d line key : Nat) : State := count s (diePerf d) (if present s d line key then 4 else 5) 1

/-- Counts an access of a page of an ATTR at a die's slice: of a line that is not cached as a bypass (R194). -/
def countSlice (s : State) (d line key attr : Nat) : State :=
  if attr = 0 then countL2 s d line key else count s (diePerf d) 6 1

/-- Takes the replica of a line on a die out, whatever it holds. -/
def removeReplica (s : State) (die line : Nat) : State :=
  { s with replicas := s.replicas.filter (fun r => !(r.die = die && r.line = line)) }

/-- Bytes o .. o + n - 1 of a 128-byte line. -/
def lineBytes (data : BitVec 1024) (o n : Nat) : Nat := (data.toNat >>> (8 * o)) % 2 ^ (8 * n)

/-- A line with n bytes at o replaced. -/
def lineWith (data : BitVec 1024) (o n v : Nat) : BitVec 1024 :=
  let d := data.toNat
  BitVec.ofNat 1024 (d % 2 ^ (8 * o) + 2 ^ (8 * o) * (v % 2 ^ (8 * n)) + 2 ^ (8 * (o + n)) * (d / 2 ^ (8 * (o + n))))

/-- A write performed at its line's home slice by an agent of a die, a slot if one writes (R101): every L1 holder on the home die but
the writer's own core goes. Writes inside one line. -/
def homeWrite (s : State) (pa n v key : Nat) (writer : Option Nat) : State :=
  let h := homeDie s pa
  let s := serialise s h (lineOf pa) key
  let s := physWriteLine s pa n v key
  dropL1 s h (lineOf pa) (writer.map coreOf)

/-- A write of cached memory at its line's home slice: a write miss allocates (R102, R194). -/
def cachedWrite (s : State) (pa n v key : Nat) (writer : Option Nat) : State :=
  homeWrite (writeMiss (countL2 s (homeDie s pa) (lineOf pa) key) (homeDie s pa) (lineOf pa) key) pa n v key writer

/-- A forward reaches its home and is serialised there (R131). -/
def performForward (s : State) (f : Forward) : State := cachedWrite s f.pa f.n f.v f.key none

/-- The forwards of a die to a home up to and with the last one to a line are performed, in their order (R131). -/
def flushLine (s : State) (d line : Nat) : State :=
  let h := homeDie s (128 * line)
  let mine := s.forwards.filter (fun f => f.die = d && f.home = h)
  let n := mine.length - ((mine.reverse.takeWhile (fun f => lineOf f.pa ≠ line)).length)
  let now := mine.take n
  let s := { s with forwards := s.forwards.filter (fun f => !(f.die = d && f.home = h)) ++ mine.drop n }
  now.foldl performForward s

/-- Every write that a die has yet to forward is performed at its home: what a release at package or system scope by an engine
of the die waits for (R131). -/
def flushDie (s : State) (d : Nat) : State :=
  (s.forwards.filter (fun f => f.die = d)).foldl performForward { s with forwards := s.forwards.filter (fun f => f.die ≠ d) }

/-- Invalidates the replica of a line on a die; a write in it that is yet to be forwarded goes to its home first (R131). -/
def dropReplica (s : State) (die line : Nat) : State := removeReplica (flushLine s die line) die line

/-- Lines and replicas that the slice of a line holds on a die (R100). -/
def sliceLoad (s : State) (d line : Nat) : Nat :=
  (s.lines.filter (fun x => x.die = d && sliceNo d x.line = sliceNo d line)).length +
    (s.replicas.filter (fun r => r.die = d && sliceNo d r.line = sliceNo d line)).length

/-- A slice with room for one more line: of a full one a line goes, the one that came first, or else a replica, whose writes are
forwarded first (R100; DESIGN CHOICE, notes/assumptions/8.md). -/
def makeRoom (s : State) (d line : Nat) : State :=
  if sliceLoad s d line < Config.sliceLines then s
  else
    match s.lines.find? (fun x => x.die = d && sliceNo d x.line = sliceNo d line) with
    | some x => dropL1 { s with lines := s.lines.erase x } d x.line none
    | none =>
      match s.replicas.find? (fun r => r.die = d && sliceNo d r.line = sliceNo d line) with
      | some r => dropL1 (dropReplica s d r.line) d r.line none
      | none => s

/-- A line becomes resident at its home with the counter's stamp (R103). -/
def install (s : State) (die line key : Nat) : State :=
  match lineStamp s die line with
  | some _ => s
  | none =>
    let t := makeRoom s die line
    { t with lines := t.lines ++ [{ die := die, line := line, key := key, stamp := t.stampCtr (sliceNo die line) }] }

/-- A replica comes to stand in its die's slice. -/
def addReplica (s : State) (r : Replica) : State :=
  let t := makeRoom s r.die r.line
  { t with replicas := t.replicas ++ [r] }

/-- The line that a write at a die's replica changes: the replica's, or what is read at its home. -/
def replicaData (s : State) (d line key : Nat) : BitVec 1024 × State :=
  match replicaOf s d line key with
  | some r => (r.data, s)
  | none => let x := physReadLine (flushLine s d line) (128 * line) 128 key; (BitVec.ofNat 1024 x.1, x.2)

/-- The replica of a line is replaced, or goes. -/
def putReplica (s : State) (keep : Bool) (r : Replica) : State :=
  let t := removeReplica s r.die r.line
  if keep then addReplica t r else t

/-- A write at a die's replica is to be forwarded to its home; the other copies on the die go (R101, R131). -/
def noteForward (s : State) (f : Forward) : State :=
  (dropL1 { s with forwards := s.forwards ++ [f] } f.die (lineOf f.pa) (f.sid.map coreOf)).pushE (.remoteWriteForward f.die f.home)

/-- A write by an agent of die d: at home, or serialised at the replica on d with a forward outstanding (R102, R103, R131); a write
miss there that finds no miss register leaves no replica. Uncached pages go home, after what the die has yet to forward of the
line. -/
def sliceWrite (s : State) (d pa n v key attr : Nat) (writer : Option Nat) : State :=
  let h := homeDie s pa
  let line := lineOf pa
  if attr ≠ 0 then homeWrite (dropReplica (countSlice s d line key attr) d line) pa n v key writer
  else if h = d then cachedWrite s pa n v key writer
  else
    let s := countL2 s d line key
    let keep := present s d line key || missFree s d line
    let r := replicaData (serialise (writeMiss s d line key) d line key) d line key
    noteForward (putReplica r.2 keep { die := d, line := line, key := key, data := lineWith r.1 (pa % 128) n v })
      { die := d, home := h, pa := pa, n := n, v := v, key := key, sid := writer }

/-- What an engine of a die reads of n bytes inside a line at the line's home, to write it there (R132, R135): the die's replica goes
first. -/
def homeRead (s : State) (d pa n key attr : Nat) : Nat × State :=
  let h := homeDie s pa
  let s := dropReplica (countSlice s h (lineOf pa) key attr) d (lineOf pa)
  physReadLine (if attr = 0 then readMiss s h (lineOf pa) key else s) pa n key

/-- A write that may span two lines. -/
def sliceWriteAny (s : State) (d pa n v key attr : Nat) (writer : Option Nat) : State :=
  let h := headBytes pa n
  let s := sliceWrite s d pa h (v % 2 ^ (8 * h)) key attr writer
  if h = n then s else sliceWrite s d (pa + h) (n - h) (v / 2 ^ (8 * h)) key attr writer

/-- The value that an agent of die d reads of n bytes inside a line: its replica's, else memory's; an uncached page reads
memory. `fresh` reads at home (R131, R132). A read at home falls behind what the die has yet to forward of the line (R120). -/
def sliceRead (s : State) (d pa n key attr : Nat) (fresh : Bool) : Nat × State :=
  let line := lineOf pa
  match (if fresh || attr ≠ 0 then none else replicaOf s d line key) with
  | some r => (lineBytes r.data (pa % 128) n, s)
  | none => physReadLine (flushLine s d line) pa n key

/-- A read that may span two lines. -/
def sliceReadAny (s : State) (d pa n key attr : Nat) (fresh : Bool) : Nat × State :=
  let h := headBytes pa n
  let r := sliceRead s d pa h key attr fresh
  if h = n then r
  else
    let t := sliceRead r.2 d (pa + h) (n - h) key attr fresh
    (r.1 + 2 ^ (8 * h) * t.1, t.2)

/-- A read of an engine inside one line: a line that it misses is filled by a miss register where one is free (R102, R103). -/
def engineLine (s : State) (d pa n key attr : Nat) : Nat × State :=
  let line := lineOf pa
  let s := countSlice s d line key attr
  sliceRead (if attr = 0 then readMiss s d line key else s) d pa n key attr false

/-- Reads and writes of an engine at the slices, n bytes from a physical address in a page of an ATTR, any length. -/
def engineRead (s : State) (d pa n key attr : Nat) : Nat × State :=
  let go : Nat → State → Nat → Nat → Nat × State := fun k s pa n =>
    (List.range k).foldl (fun (acc : Nat × State) i =>
      let lo := if i = 0 then pa else (pa / 128 + i) * 128
      let hi := min (pa + n) ((pa / 128 + i + 1) * 128)
      if lo < hi then
        let r := engineLine acc.2 d lo (hi - lo) key attr
        (acc.1 + 2 ^ (8 * (lo - pa)) * r.1, r.2)
      else acc) (0, s)
  go (n / 128 + 2) s pa n

def engineWrite (s : State) (d pa n v key attr : Nat) : State :=
  (List.range (n / 128 + 2)).foldl (fun s i =>
    let lo := if i = 0 then pa else (pa / 128 + i) * 128
    let hi := min (pa + n) ((pa / 128 + i + 1) * 128)
    if lo < hi then sliceWrite s d lo (hi - lo) (v / 2 ^ (8 * (lo - pa)) % 2 ^ (8 * (hi - lo))) key attr none else s) s

end Sys2Proof.Machine
end

