-- ==== Sys2Proof/Machine/Operands.lean ====
section
/-! DEFINITION. Register operands of a thread instruction: counts, full/empty bits, sync-reads, ordinary writes, arrivals
(spec/03_registers.md R61-R69). -/

namespace Sys2Proof.Machine

/-- Cause codes (R81). -/
def cIllegal : Nat := 1
def cPriv : Nat := 2
def cRegBound : Nat := 3
def cRegOverlap : Nat := 4
def cBreak : Nat := 5
def cSoftware : Nat := 6
def cMisalign : Nat := 7
def cPage : Nat := 8
def cAccess : Nat := 9
def cWindow : Nat := 10
def cUndeliverable : Nat := 11
def cSyncTimeout : Nat := 12
def cScalePair : Nat := 13
def cMachineCheck : Nat := 14

/-- Why an instruction does not complete at an issue cycle. -/
inductive Halt where
  /-- it takes a trap (R80) -/
  | trap (cause detail : Nat) (tval : Word)
  /-- a full/empty or pending bit holds the slot: it forgoes its cycle and issues the instruction again at its next one (R64, R65) -/
  | stall
  /-- something else holds the slot in the same way (R274, R324) -/
  | hold
  /-- the slot parks (R4) -/
  | park (p : Park)
  deriving DecidableEq, Repr

/-- What the issue of an instruction comes to. -/
abbrev Res := Except Halt State

/-- The word of an instruction, for TVAL (R81). -/
def instrWord (i : Instr) : Word :=
  match encode i with
  | some w => w.setWidth 64
  | none => 0#64

/-- An ILLEGAL trap of an instruction (R81, R243). -/
def illegal (i : Instr) (detail : Nat) : Halt := .trap cIllegal detail (instrWord i)

/-- Continues if a condition holds, else halts (DEDUCED, notes/assumptions/28.md). -/
def guardH (b : Bool) (h : Halt) : Except Halt Unit := if b then .ok () else .error h

/-! ## Scalar registers -/

namespace Slot

/-- The value of a scalar register; s0 and a dead one read zero (R61, R69). -/
def sval (x : Slot) (r : Nat) : Word := if r = 0 || x.sdead.getLsbD r then 0#64 else FMap.get 0#64 x.sreg r

/-- F of a scalar register; s0 is always full (R67). -/
def sF (x : Slot) (r : Nat) : Bool := r = 0 || x.sfull.getLsbD r
def sP (x : Slot) (r : Nat) : Bool := r ≠ 0 && x.spend.getLsbD r

/-- Takes F for a sync-read; s0 stays full (R65, R67); a dead register becomes live and empty (R255). -/
def take (x : Slot) (r : Nat) (sync : Bool) : Slot :=
  if sync && r ≠ 0 then { x with sfull := setBit x.sfull r false, sdead := setBit x.sdead r false } else x

/-- Makes a scalar register dead: it reads zero, is full and holds no value (R69). -/
def killS (x : Slot) (r : Nat) : Slot :=
  { x with
    sreg := FMap.del x.sreg r
    sfull := setBit x.sfull r true
    sdead := setBit x.sdead r true
    serr := setBit x.serr r false }

/-- Makes a vector register dead (R69). -/
def killV (x : Slot) (r : Nat) : Slot :=
  { x with
    vreg := FMap.del x.vreg r
    vfull := setBit x.vfull r true
    vdead := setBit x.vdead r true
    verr := setBit x.verr r false }

/-- Writes a scalar register and sets F; s0 discards (R64). -/
def putS (x : Slot) (r : Nat) (v : Word) : Slot :=
  if r = 0 then x
  else { x with
    sreg := FMap.put x.sreg r v
    sfull := setBit x.sfull r true
    sdead := setBit x.sdead r false
    serr := setBit x.serr r false }

/-- An arrival: the value with F := 1 and P := 0 (R64, R245). -/
def fillS (x : Slot) (r : Nat) (v : Word) : Slot :=
  if r = 0 then x else { putS x r v with spend := setBit x.spend r false }

/-- Issue of an instruction whose result returns later: F := 0 and P := 1 (R64). -/
def oweS (x : Slot) (r : Nat) : Slot :=
  if r = 0 then x else { x with sfull := setBit x.sfull r false, spend := setBit x.spend r true }

/-- Takes an owed fill back: P := 0 and F as it was before the issue. -/
def unoweS (x : Slot) (r : Nat) (f : Bool) : Slot :=
  if r = 0 then x else { x with sfull := setBit x.sfull r f, spend := setBit x.spend r false }

/-! ## Vector and predicate registers -/

def vval (x : Slot) (r : Nat) : VReg := if x.vdead.getLsbD r then 0#4096 else FMap.get 0#4096 x.vreg r
def vF (x : Slot) (r : Nat) : Bool := x.vfull.getLsbD r
def vP (x : Slot) (r : Nat) : Bool := x.vpend.getLsbD r

def putV (x : Slot) (r : Nat) (v : VReg) : Slot :=
  { x with
    vreg := FMap.put x.vreg r v
    vfull := setBit x.vfull r true
    vdead := setBit x.vdead r false
    verr := setBit x.verr r false }
def fillV (x : Slot) (r : Nat) (v : VReg) : Slot := { putV x r v with vpend := setBit x.vpend r false }
def oweV (x : Slot) (r : Nat) : Slot :=
  { x with vfull := setBit x.vfull r false, vpend := setBit x.vpend r true }
def unoweV (x : Slot) (r : Nat) (f : Bool) : Slot :=
  { x with vfull := setBit x.vfull r f, vpend := setBit x.vpend r false }

/-- The value of a predicate; p0 reads all ones (R61). -/
def pval (x : Slot) (r : Nat) : PReg := if r = 0 then BitVec.allOnes 1024 else FMap.get 0#1024 x.preg r
def pF (x : Slot) (r : Nat) : Bool := r = 0 || x.pfull.getLsbD r
def pP (x : Slot) (r : Nat) : Bool := r ≠ 0 && x.ppend.getLsbD r
def fillP (x : Slot) (r : Nat) (v : PReg) : Slot :=
  if r = 0 then x
  else { x with
    preg := FMap.put x.preg r v
    perr := setBit x.perr r false
    pfull := setBit x.pfull r true
    ppend := setBit x.ppend r false }
def oweP (x : Slot) (r : Nat) : Slot :=
  if r = 0 then x else { x with pfull := setBit x.pfull r false, ppend := setBit x.ppend r true }

/-- Whether any register has P = 1 (R68, R150). -/
def anyOwed (x : Slot) : Bool := x.spend ≠ 0#64 || x.vpend ≠ 0#32 || x.ppend ≠ 0#8

def unoweP (x : Slot) (r : Nat) (f : Bool) : Slot :=
  if r = 0 then x else { x with pfull := setBit x.pfull r f, ppend := setBit x.ppend r false }

/-- Takes F of a vector register or predicate for a sync-read (R65). -/
def takeV (x : Slot) (r : Nat) (sync : Bool) : Slot :=
  if sync then { x with vfull := setBit x.vfull r false, vdead := setBit x.vdead r false } else x
def takeP (x : Slot) (r : Nat) (sync : Bool) : Slot := if sync && r ≠ 0 then { x with pfull := setBit x.pfull r false } else x

/-- A register that a sync-read takes, as it is noted: scalar n, vector 64 + n, predicate 96 + n; 128 more where it was dead. -/
def takenS (x : Slot) (r : Nat) : Nat := r + 128 * (x.sdead.getLsbD r).toNat
def takenV (x : Slot) (r : Nat) : Nat := 64 + r + 128 * (x.vdead.getLsbD r).toNat

/-- Gives one register that a sync-read took its F back; one that was dead is dead again (R4, R69). -/
def restoreOne (x : Slot) (q : Nat) : Slot :=
  let r := q % 128
  let dead := decide (128 ≤ q)
  if r < 64 then { x with sfull := setBit x.sfull r true, sdead := if dead then setBit x.sdead r true else x.sdead }
  else if r < 96 then
    { x with vfull := setBit x.vfull (r - 64) true, vdead := if dead then setBit x.vdead (r - 64) true else x.vdead }
  else { x with pfull := setBit x.pfull (r - 96) true }

/-- The registers as before the sync-reads that took them. -/
def restoreTaken (x : Slot) (cons : List Nat) : Slot := cons.foldl restoreOne x

/-- Takes F of the same registers again. -/
def takenAgain (x : Slot) (cons : List Nat) : Slot :=
  cons.foldl (fun x q =>
    let r := q % 128
    if r < 64 then x.take r true else if r < 96 then takeV x (r - 64) true else takeP x (r - 96) true) x

/-- A destination of an access: scalar below 64, vector from 64 on. -/
def oweD (x : Slot) (d : Nat) : Slot := if d < 64 then oweS x d else oweV x (d - 64)
def unoweD (x : Slot) (d : Nat) (f : Bool) : Slot := if d < 64 then unoweS x d f else unoweV x (d - 64) f
def fullD (x : Slot) (d : Nat) : Bool := if d < 64 then sF x d else vF x (d - 64)

/-- The next instruction in sequence. -/
def next (x : Slot) : Slot := { x with pc := x.pc + 4#64 }

/-- Whether the slot is live: started and without a final status (R196). -/
def isLive (x : Slot) : Bool :=
  match x.status with
  | .empty => false
  | .ended _ _ => false
  | _ => true

/-- Whether the slot holds a final status (R150). -/
def hasFinal (x : Slot) : Bool :=
  match x.status with
  | .ended _ _ => true
  | _ => false

/-- Whether the slot holds a task that runs: not empty, not ended. -/
def running (x : Slot) : Bool := x.status = .live

end Slot

/-! ## Operand reads -/

/-- REG-BOUND for the first scalar register at or above the slot's count (R63). -/
def boundS (x : Slot) : List Nat → Except Halt Unit
  | [] => .ok ()
  | r :: rs => if r < x.ns then boundS x rs else .error (.trap cRegBound 0 (wrap64 r))

/-- REG-BOUND for the first vector register at or above the slot's count (R63). -/
def boundV (x : Slot) : List Nat → Except Halt Unit
  | [] => .ok ()
  | r :: rs => if r < x.nv then boundV x rs else .error (.trap cRegBound 0 (wrap64 r))

/-- A plain read waits for F (R65). -/
def peekS (x : Slot) (r : Nat) : Except Halt Word := if !x.sF r then .error .stall else .ok (x.sval r)

/-- Whether a scalar register is in error (R84). -/
def badS (x : Slot) (r : Nat) : Bool := r ≠ 0 && x.serr.getLsbD r

/-- MACHINE-CHECK of the first register in error among those that an instruction reads; it comes after every other cause
(R82, R84). -/
def soundS (x : Slot) (rs : List Nat) : Except Halt Unit :=
  match rs.find? (badS x) with
  | some r => .error (.trap cMachineCheck 1 (wrap64 r))
  | none => .ok ()

/-- The read of an instruction that meets no later cause: a register in error traps at once. -/
def readS (x : Slot) (r : Nat) : Except Halt Word :=
  if !x.sF r then .error .stall
  else if r ≠ 0 && x.serr.getLsbD r then .error (.trap cMachineCheck 1 (wrap64 r))
  else .ok (x.sval r)

/-- Reads one operand, with its sync-read bit (R65). -/
def read1 (x : Slot) (a : Nat) (m : Bool) : Except Halt (Word × Slot) := do
  let u ← readS x a
  return (u, x.take a m)

/-- Reads two operands: both are read before a sync-read takes F (R65). -/
def read2 (x : Slot) (a : Nat) (m : Bool) (b : Nat) (n : Bool) : Except Halt (Word × Word × Slot) := do
  let u ← readS x a
  let v ← readS x b
  return (u, v, (x.take a m).take b n)

/-- The same reads where other causes are judged before a register in error. -/
def peek1 (x : Slot) (a : Nat) (m : Bool) : Except Halt (Word × Slot) := do
  let u ← peekS x a
  return (u, x.take a m)
def peek2 (x : Slot) (a : Nat) (m : Bool) (b : Nat) (n : Bool) : Except Halt (Word × Word × Slot) := do
  let u ← peekS x a
  let v ← peekS x b
  return (u, v, (x.take a m).take b n)

/-- An ordinary write: stalls while P = 1 (R64). -/
def writeS (x : Slot) (d : Nat) (v : Word) : Except Halt Slot :=
  if x.sP d then .error .stall else .ok (x.putS d v)

/-- Reads a predicate at issue (R300). -/
def peekP (x : Slot) (r : Nat) : Except Halt PReg := if !x.pF r then .error .stall else .ok (x.pval r)

/-- Waits until a destination owes nothing (R64). -/
def freeD (x : Slot) (d : Nat) : Except Halt Unit :=
  guardH (!(if d < 64 then x.sP d else x.vP (d - 64))) .stall

/-- Reads a vector register at issue (R308). -/
def peekV (x : Slot) (r : Nat) : Except Halt VReg := if !x.vF r then .error .stall else .ok (x.vval r)

/-- MACHINE-CHECK of a register in error (R84). -/
def soundV (x : Slot) (r : Nat) : Except Halt Unit := guardH (!x.verr.getLsbD r) (.trap cMachineCheck 1 (wrap64 r))

end Sys2Proof.Machine
end

