-- ==== Sys2Proof/Machine/Ops.lean ====
section
/-! DEFINITION. Shared operations of the thread instructions: issuing, trapping and returning (spec/03_registers.md R80-R83),
parking, performance events (spec/08_counters.md R194), addresses (spec/04_memories.md R85-R87), accesses in flight. -/

namespace Sys2Proof.Machine

/-! ## Traps (R80) -/

def hact (x : Slot) : Bool := x.tcause.getLsbD 16

/-- Trap entry of a slot: what R80 writes. The slot stops where the trap is unhandled. -/
def trapSlot (x : Slot) (cause detail : Nat) (tval : Word) (deferred : Bool) : Slot :=
  let unhandled := hact x || x.tvec = 0#64
  let y := { x with
    tcause := wrap64 (cause + 256 * detail + 2 ^ 16 + 2 ^ 17 * deferred.toNat)
    tepc := x.pc
    tval := tval
    cap := none
    park := none
    tries := 0
    shoot := none
    await := none }
  if unhandled then { y with status := .ending .trapped (BitVec.ofNat 32 cause) }
  else { y with pc := y.tvec &&& ~~~3#64 }

/-- Takes a trap in a slot (R80); an unhandled one ends the slot under R150. -/
def takeTrap (s : State) (sid cause detail : Nat) (tval : Word) (deferred : Bool) : State :=
  let y := trapSlot (s.slot sid) cause detail tval deferred
  let t := s.setSlot sid y
  if y.status = .live then t else t.pushE (.taskEnd sid)

/-- Return from a trap (R315). -/
def eretSlot (x : Slot) : Slot := { x with pc := x.tepc, tcause := setBit x.tcause 16 false }

/-! ## Issue -/

/-- Parks the issuing slot (R4); `bar.wait` and the like have set what else they set. -/
def parkSlot (s : State) (sid : Nat) (p : Park) : State := s.modSlot sid (fun x => { x with park := some p })

/-- Whether an earlier vector instruction of a slot has not completed: a trap of the slot waits for it (R82, R342). A replay and
a forked program are no part of the slot's stream, and a vector store is complete at its verdict (R344, R348). -/
def vecOpen (s : State) (sid : Nat) : Bool :=
  let k := s.core (coreOf sid)
  k.vq.any (fun e => e.sid = sid && !e.forked && !e.replayed) ||
    k.vrun.any (fun r => r.sid = sid && !r.forked && !r.replayed && !r.memory)

/-- The issuing slot traps once its earlier instructions are complete; until then it forgoes its cycles (R82), which no counter
counts (R243). -/
def trapNow (s : State) (sid cause detail : Nat) (tval : Word) : State :=
  if vecOpen s sid then s else takeTrap s sid cause detail tval false

/-- What follows from the issue of an instruction by the current slot: it completes, traps, forgoes its cycle, or parks
(DESIGN CHOICE, notes/assumptions/10.md). -/
def finish (s : State) (r : Res) : Host.Outcome State Fault Refusal :=
  match r with
  | .ok t => .next (count t (cellPerf (cellOfSlot s.cur)) 2 1)
  | .error (.trap c d v) => .next (trapNow s s.cur c d v)
  | .error .stall => .next (count s (cellPerf (cellOfSlot s.cur)) 8 1)
  | .error .hold => .next s
  | .error (.park p) => .next (parkSlot s s.cur p)

/-- The slot's new contents, at the next instruction. -/
def done (s : State) (x : Slot) : State := s.setSlot s.cur x.next

/-- Scalar operation on two registers (R257). -/
def alu2 (f : Word → Word → Word) (d a b : BitVec 6) (m n : Bool) (s : State) : Res := do
  let x := s.slot s.cur
  boundS x [d.toNat, a.toNat, b.toNat]
  let r ← read2 x a.toNat m b.toNat n
  let y ← writeS r.2.2 d.toNat (f r.1 r.2.1)
  return done s y

/-- Scalar operation on one register (R260, R261). -/
def alu1 (f : Word → Word) (d a : BitVec 6) (m : Bool) (s : State) : Res := do
  let x := s.slot s.cur
  boundS x [d.toNat, a.toNat]
  let r ← read1 x a.toNat m
  let y ← writeS r.2 d.toNat (f r.1)
  return done s y

/-- A value without operands (R263). -/
def alu0 (v : Slot → Word) (d : BitVec 6) (s : State) : Res := do
  let x := s.slot s.cur
  boundS x [d.toNat]
  let y ← writeS x d.toNat (v x)
  return done s y

/-! ## Unacknowledged accesses (R71, R192) -/

/-- An instruction that would raise UNACK parks at 0xFFFF (R71). -/
def unackRoom (x : Slot) : Except Halt Unit := guardH (x.unack ≠ 0xFFFF#64) (.park .unack)
def raiseUnack (x : Slot) : Slot := { x with unack := x.unack + 1#64 }
def lowerUnack (x : Slot) : Slot := { x with unack := x.unack - 1#64 }

/-- Lowers UNACK of a slot of a generation; a park for room ends (R71). -/
def acknowledge (s : State) (sid : Nat) (gen : BitVec 8) : State :=
  s.modSlot sid (fun x =>
    if x.gen = gen && x.isLive then
      { lowerUnack x with park := if x.park = some .unack then none else x.park }
    else x)

/-! ## Addresses (R85-R87) -/

/-- Where an address lies. -/
inductive Space where
  | own (o : Nat)
  | remote (cell o : Nat)
  | commons (o : Nat)
  | lower
  | priv (off : Nat)
  | outside
  deriving DecidableEq, Repr

/-- The partition of a cell; partition 0 where none holds it. -/
def State.partN (s : State) (cell : Nat) : Nat := (s.partOf cell).getD 0

/-- Number of commons groups of a cell's partition on its die (R86). -/
def groupCount (s : State) (cell : Nat) : Nat := (s.groupsOn (s.partN cell) (dieOf cell)).length

/-- The space of a canonical address, for an agent of a cell; `outside` is ACCESS with DETAIL 0 (R86). -/
def spaceOf (s : State) (cell : Nat) (va : Word) : Space :=
  if !va.getLsbD 56 then .lower
  else
    let o := bits va 47 0
    match bits va 63 48 with
    | 0xFF00 => if o < localSize then .own o else .outside
    | 0xFF01 =>
      match s.cellAt (s.partN cell) (o / localSize) with
      | some c => .remote c (o % localSize)
      | none => .outside
    | 0xFF02 => if o < 0x800000 * groupCount s cell then .commons o else .outside
    | 0xFF03 => if o < Config.privilegedSize then .priv o else .outside
    | _ => .outside

/-- Whether an address lies in the privileged aperture: past its size it lies in no aperture (R86). -/
def inPriv (va : Word) : Bool := bits va 63 48 = 0xFF03 && decide (bits va 47 0 < Config.privilegedSize)

/-- Size code of R226 for the DETAIL of MISALIGN. -/
def sizeCode (n : Nat) : Nat := match n with | 1 => 0 | 2 => 1 | 4 => 2 | 8 => 3 | 64 => 4 | 32 => 6 | 1024 => 7 | _ => 5

def alignedTo (va : Word) (n : Nat) : Bool := va.toNat % n = 0

/-- PAGE of a non-canonical address (R85). -/
def canonicalOr (va : Word) (k : Kind) : Except Halt Unit := guardH (canonical va) (.trap cPage k.detail va)

/-! ## Windows (R78, R92) -/

/-- Rights that a remote access needs: read, write, sync, atomic. -/
structure Rights where
  rd : Bool
  wr : Bool
  sync : Bool
  atom : Bool
  deriving DecidableEq, Repr

/-- The first right, in the order read, write, sync, atomic, that is needed and not had: its DETAIL. -/
def firstLack (need have_ : Rights) : Option Nat :=
  if need.rd && !have_.rd then some 1
  else if need.wr && !have_.wr then some 2
  else if need.sync && !have_.sync then some 3
  else if need.atom && !have_.atom then some 4
  else none

def windowRights (w : Word) : Rights := ⟨w.getLsbD 30, w.getLsbD 31, w.getLsbD 32, w.getLsbD 33⟩

/-- Enabled windows that hold n bytes at an offset, lowest number first. -/
def holdingWindows (c : Cell) (o n : Nat) : List Word :=
  ((List.range 8).map (fun i => FMap.get 0#64 c.win i)).filter (fun w =>
    w.getLsbD 34 && decide (bits w 14 0 ≤ o / 64) && decide ((o + n - 1) / 64 ≤ bits w 29 15))

/-- The judgement of the windows: none admits it, else the DETAIL of R92. -/
def windowRefusal (c : Cell) (o n : Nat) (need : Rights) : Option Nat :=
  let ws := holdingWindows c o n
  if ws.isEmpty then some 0
  else if ws.any (fun w => firstLack need (windowRights w) = none) then none
  else
    let all : Rights :=
      ⟨ws.any (·.getLsbD 30), ws.any (·.getLsbD 31), ws.any (·.getLsbD 32), ws.any (·.getLsbD 33)⟩
    match firstLack need all with
    | some d => some d
    | none => firstLack need (windowRights (ws.headD 0#64))

namespace MemOp

/-- Bytes of an access. -/
def size : MemOp → Nat
  | .load n _ => n
  | .store n _ => n
  | .amo _ n _ => n
  | .cas n _ _ => n
  | .lineRd => 128
  | .lineCst n _ _ => 128 * n
  | _ => 8

/-- Whether an access writes data (R282: `lds` and `feempty` write F). -/
def writes : MemOp → Bool
  | .load _ _ => false
  | .ldw => false
  | .feq => false
  | .lineRd => false
  | _ => true

/-- Rights at a remote cell's windows (R273). -/
def rights : MemOp → Rights
  | .load _ _ => ⟨true, false, false, false⟩
  | .store _ _ => ⟨false, true, false, false⟩
  | .lds => ⟨true, false, true, false⟩
  | .ldw => ⟨true, false, true, false⟩
  | .feq => ⟨true, false, true, false⟩
  | .sts _ => ⟨false, true, true, false⟩
  | .fefill _ => ⟨false, true, true, false⟩
  | .feempty => ⟨false, false, true, false⟩
  | .amo _ _ _ => ⟨true, true, false, true⟩
  | .cas _ _ _ => ⟨true, true, false, true⟩
  | .lineRd => ⟨true, false, false, false⟩
  | .lineCst _ _ _ => ⟨false, true, false, false⟩

/-- Page rights (R273) and the DETAIL of a denial. -/
def kind : MemOp → Kind
  | .load _ _ => .read
  | .lineRd => .read
  | .ldw => .read
  | .feq => .read
  | _ => .write

def needsRd : MemOp → Bool
  | .store _ _ => false
  | .lineCst _ _ _ => false
  | _ => true

def needsWr : MemOp → Bool
  | .load _ _ => false
  | .lineRd => false
  | _ => true

end MemOp

/-! ## Accesses in flight -/

def State.findAccess (s : State) (id : Nat) : Option Access := s.flight.find? (fun a => a.id = id)
def State.setAccess (s : State) (a : Access) : State :=
  { s with flight := s.flight.map (fun b => if b.id = a.id then a else b) }
def State.dropAccess (s : State) (id : Nat) : State := { s with flight := s.flight.filter (fun a => a.id ≠ id) }

/-- Puts an access into flight; its number, and that of its arrival where it stands first, is the state's next serial number. -/
def State.launch (s : State) (a : Access) : State :=
  { s with flight := s.flight ++ [{ a with id := s.nextId, entered := s.nextId }], nextId := s.nextId + 1 }

/-- An access comes to stand somewhere, behind everything that stands there already. -/
def State.arrive (s : State) (a : Access) : State :=
  { s.setAccess { a with entered := s.nextId } with nextId := s.nextId + 1 }

/-- The access that arrived first where it stands. -/
def firstIn : List Access → Option Access
  | [] => none
  | a :: as => some (as.foldl (fun x y => if y.entered < x.entered then y else x) a)

/-- The slot on whose behalf an access is made. -/
def Access.slotOf (s : State) (a : Access) : Option Nat :=
  match a.src with
  | .slot sid _ _ _ _ _ _ => some sid
  | .vec core vid _ _ => ((s.core core).vrun.find? (fun r => r.vid = vid)).map (·.sid)
  | .blk core bid _ => ((s.core core).blocks.find? (fun b => b.bid = bid)).map (·.sid)

/-- Whether an access has been performed: it is answered. -/
def Access.answered (a : Access) : Bool :=
  match a.stage with
  | .reply _ => true
  | _ => false

/-! ## Locations (R117, R120): the aligned 64-bit word, under whatever name an access reaches it -/

/-- Bytes of a run that lie in the page of its first byte. -/
def pageBytes (va : Word) (n : Nat) : Nat := min n (65536 - va.toNat % 65536)

/-- The first address of the next page. -/
def nextPage (va : Word) : Word := wrap64 ((va.toNat / 65536 + 1) * 65536)

/-- The pieces of an access, one for each page: virtual address, physical address, bytes, key
(DESIGN CHOICE, notes/assumptions/22.md). -/
def pieces (a : Access) : List (Word × Nat × Nat × Nat) :=
  let n := a.op.size
  let h := pageBytes a.va n
  if h = n then [(a.va, a.pa, n, a.key)] else [(a.va, a.pa, h, a.key), (nextPage a.va, a.pa2, n - h, a.key2)]

/-- Whether two runs of bytes touch a common word. -/
def wordsMeet (o n u m : Nat) : Bool := decide (o / 8 ≤ (u + m - 1) / 8) && decide (u / 8 ≤ (o + n - 1) / 8)

/-- Whether two runs of virtual bytes may touch a common word: names of one physical page agree in their low 16 bits (R105). -/
def pagesMeet (a : Word) (n : Nat) (b : Word) (m : Nat) : Bool :=
  let o := a.toNat % 65536
  let u := b.toNat % 65536
  wordsMeet o n u m || wordsMeet (o + 65536) n u m || wordsMeet o n (u + 65536) m

/-- Whether two runs of bytes, named by a cell, may touch a common word. -/
def runsMeet (s : State) (cell : Nat) (a : Word) (n : Nat) (b : Word) (m : Nat) : Bool :=
  match spaceOf s cell a, spaceOf s cell b with
  | .own o, .own u => wordsMeet o n u m
  | .own o, .remote c u => c = cell && wordsMeet o n u m
  | .remote c o, .own u => c = cell && wordsMeet o n u m
  | .remote c o, .remote k u => c = k && wordsMeet o n u m
  | .commons o, .commons u => wordsMeet o n u m
  | .priv o, .priv u => wordsMeet o n u m
  | .lower, .lower => pagesMeet a n b m
  | _, _ => false

/-- Whether an access of the lower half has its translation. -/
def Access.translated (a : Access) : Bool :=
  match a.stage with
  | .slice _ => true
  | .missed _ => true
  | _ => false

/-- Whether two accesses of a cell may touch a common word; two translated ones are judged by their physical words. -/
def sameLocation (s : State) (a b : Access) : Bool :=
  if a.translated && b.translated then
    (pieces a).any (fun p => (pieces b).any (fun q => wordsMeet p.2.1 p.2.2.1 q.2.1 q.2.2.1))
  else runsMeet s a.cell a.va a.op.size b.va b.op.size

/-- Whether an access is issued and not answered. One that was refused, or that a demand fault parked, is not issued (R4). -/
def Access.pending (a : Access) : Bool :=
  match a.stage with
  | .reply _ => false
  | .held => false
  | .faulted => false
  | _ => true

/-- Whether an access goes, or may yet turn out to go, to a device in program order (R278). -/
def Access.mayOrder (s : State) (a : Access) : Bool :=
  match a.stage with
  | .priv => true
  | .walk _ => true
  | .slice _ => a.attr % 4 = 2
  | .missed _ => false
  | _ => match spaceOf s a.cell a.va with | .priv _ => true | _ => false

/-- Whether an access goes to a device in program order: ATTR 10, or the privileged aperture (R278). -/
def Access.inOrder (a : Access) : Bool :=
  match a.stage with
  | .priv => true
  | .slice _ => a.attr % 4 = 2
  | _ => false

/-- Whether a write of a die still waits to be forwarded to a home (R131). -/
def forwardsOpen (s : State) (d : Nat) : Bool := s.forwards.any (fun f => f.die = d)

/-- The place of an access in its slot's program (R114). -/
def Access.place (a : Access) : Nat := a.order.getD a.id

/-- Whether an access precedes another of its slot: in the program, or as a lower unit of the same vector access (R114, R343). -/
def Access.before (b a : Access) : Bool := decide (b.place < a.place) || (b.place = a.place && decide (b.id < a.id))

/-- Whether a vector memory access of a slot, older than a place in its program, has yet to start (R114, R347). -/
def vecQueued (s : State) (sid id : Nat) : Bool :=
  (s.core (coreOf sid)).vq.any (fun e => e.sid = sid && decide (e.order < id) &&
      (match e.item.instr with
       | .vld _ _ _ => true
       | .vst _ _ _ => true
       | .vlds _ _ _ _ _ => true
       | .vgath _ _ _ _ _ => true
       | .vscat _ _ _ _ _ => true
       | _ => false)) ||
    (match (s.slot sid).replay with | some r => decide (r.order < id) | none => false)

/-- Whether a unit of a vector store waits until every unit has its verdict: a store that traps writes nothing (R342, R344). -/
def unjudged (s : State) (a : Access) : Bool :=
  match a.src, a.op with
  | .vec core vid _ _, .store _ _ =>
    s.flight.any (fun b =>
      (match b.src with | .vec k v _ _ => k = core && v = vid | _ => false) &&
      (match b.stage with
       | .walk _ => true
       | .lattice _ => true
       | .reply .done => false
       | .reply _ => true
       | _ => false))
  | _, _ => false

/-- Whether an access waits for an older one of its slot (R121, R123, R131, R278): a release waits for all of them, and at
package or system scope for the die's forwards; any access waits for one to the same location, and one to a device for the
slot's other ones to a device. Older means earlier in the slot's program. -/
def mustWait (s : State) (a : Access) : Bool :=
  match a.slotOf s with
  | none => false
  | some sid =>
    let older := s.flight.filter (fun b => b.before a && b.slotOf s = some sid && b.pending)
    older.any (fun b => (match b.src with | .blk _ _ _ => false | _ => a.rel) || sameLocation s a b || (a.inOrder && b.mayOrder s)) ||
      unjudged s a || (a.rel && (vecQueued s sid a.place || (decide (4 ≤ a.scope) && forwardsOpen s (dieOf a.cell))))

/-- Answers an access. -/
def answer (s : State) (a : Access) (r : Reply) (ev : Instr) : State :=
  (s.setAccess { a with stage := .reply r }).pushE ev

/-- The event that carries an answer home: a load's value, else an acknowledgement (R66, R192). -/
def homeEvent (a : Access) : Instr :=
  match a.op with
  | .store _ _ => .acknowledgement a.id
  | .sts _ => .acknowledgement a.id
  | .fefill _ => .acknowledgement a.id
  | .feempty => .acknowledgement a.id
  | _ => .loadReturn a.id

/-- Answers an access and sends the answer home. -/
def reply (s : State) (a : Access) (r : Reply) : State := answer s a r (homeEvent a)

/-! ## Barriers and engines: small queries -/

/-- Key of a partition's barrier in the state's map. -/
def barKey (p b : Nat) : Nat := 64 * p + b
def State.barrier (s : State) (p b : Nat) : Barrier := FMap.get Barrier.init s.barriers (barKey p b)
def State.setBarrier (s : State) (p b : Nat) (x : Barrier) : State := { s with barriers := FMap.put s.barriers (barKey p b) x }

/-- The lowest colour granted to the partition of a cell (R70). -/
def lowColour (s : State) (cell : Nat) : Word := wrap64 (s.colLo (s.partN cell))

/-- An accumulator of a cell. -/
def Cell.accOf (c : Cell) (n : Nat) : Acc := FMap.get Acc.init c.acc n
def Cell.setAcc (c : Cell) (n : Nat) (a : Acc) : Cell := { c with acc := FMap.put c.acc n a }

/-- Opcode of a command word (R240). -/
def opc (w : CmdWord) : Nat := bits w.w0 7 0

/-- Reads a lower-half address of a cell at once, as the punty and the runtime's engines do: physical address and key, or
the end of the translation. -/
def xlateCell (s : State) (cell : Nat) (va : Word) (rd wr : Bool) : Xlate × State :=
  if canonical va && !va.getLsbD 56 then
    translate s (s.partN cell) (dieOf cell) (s.casid cell) va.toNat rd wr false
  else (.denied, s)

/-! ## Fault records (R108, R109) -/

/-- The die of a source number (R195). -/
def sourceDie (source : Nat) : Nat := source / 1024 % 4

/-- A demand fault joins the record of its page and ASID that is not yet answered, or makes one that waits to be written
(R109). -/
def demandFault (s : State) (p asid kind source : Nat) (va : Word) : State :=
  let page := va.toNat / 65536
  let s := count s (diePerf (sourceDie source)) 8 1
  if s.faults.any (fun f => f.part = p && f.asid = asid && f.va.toNat / 65536 = page && f.answer.isNone) then s
  else
    let f : FaultRec := { part := p, asid := asid, va := va, kind := kind, source := source, at_ := s.gts, index := none, answer := none, waits := [] }
    { s with faults := s.faults ++ [f] }.pushE (.faultRecordWrite p)

end Sys2Proof.Machine
end

