-- ==== Sys2Proof/Machine/Matrix.lean ====
section
/-! DEFINITION. Command words at the engines, tokens, and the matrix unit: checks, readiness, `mma`, `mmz`, `accld`, `accst`,
`accclr`, the accumulator update (spec/17_ref_commands.md R350-R354, spec/06_queues.md R154-R157, spec/07_tables.md
R173-R176). -/

namespace Sys2Proof.Machine

/-! ## Command words and tokens (R240, R350) -/

namespace Cmd

def scope (w : CmdWord) : Nat := bits w.w0 23 22
def tcore (w : CmdWord) : Nat := bits w.w0 25 24
def tslot (w : CmdWord) : Nat := bits w.w0 29 26
def treg (w : CmdWord) : Nat := bits w.w0 35 30
def noTok (w : CmdWord) : Bool := w.w0.getLsbD 36
def tgen (w : CmdWord) : BitVec 8 := w.w0.extractLsb' 40 8
def colour (w : CmdWord) : Nat := bits w.w0 21 16

/-- The queue an opcode belongs to (R241): 0 matrix, 1 copy, 2 sequencer; none where it is reserved. -/
def queueOf (w : CmdWord) : Option Nat :=
  match opc w with
  | 0x01 => some 0
  | 0x02 => some 0
  | 0x08 => some 0
  | 0x09 => some 0
  | 0x0A => some 0
  | 0x10 => some 1
  | 0x11 => some 1
  | 0x12 => some 1
  | 0x13 => some 1
  | 0x14 => some 1
  | 0x15 => some 1
  | 0x16 => some 1
  | 0x18 => some 1
  | 0x19 => some 1
  | 0x20 => some 2
  | 0x21 => some 2
  | 0x22 => some 2
  | 0x23 => some 2
  | 0x24 => some 2
  | _ => none

/-- Word 0's own checks: the zero fields, and no token field beside NOTOK (R242). -/
def word0Ok (w : CmdWord) : Bool :=
  bits w.w0 39 37 = 0 && bits w.w0 63 48 = 0 &&
    (!noTok w || (bits w.w0 35 24 = 0 && bits w.w0 47 40 = 0))

/-- Word 0 with COLOUR replaced (R242). -/
def withColour (w : CmdWord) (colr : Word) : CmdWord := { w with w0 := setBits w.w0 21 16 (bits colr 5 0) }

/-- The accumulator that a matrix command names (R351). -/
def acc (w : CmdWord) : Nat :=
  match opc w with
  | 0x08 => bits w.w1 28 26
  | 0x09 => bits w.w1 28 26
  | _ => bits w.w1 10 8

/-- The rings that a matrix command names. -/
def rings (w : CmdWord) : List Nat :=
  if opc w = 1 || opc w = 2 then [bits w.w1 3 0, bits w.w1 7 4] else []

end Cmd

/-- A status word (R350). -/
def statusWord (code : Nat) (flags : FlagBits) (info : Nat) : Word :=
  wrap64 (code + 256 * flags.toNat + 65536 * (info % 2 ^ 32))

/-- Sends a token status on its way to a register of a slot of a core (R350), with a barrier arrival if one goes with it. -/
def sendToken (s : State) (core slot reg : Nat) (gen : BitVec 8) (status : Word) (blk : Bool) (scope : Nat) : State :=
  let t : Token := { id := s.nextId, core := core, slot := slot, reg := reg, gen := gen, status := status, tok := true,
                     bar := none, blk := blk, copy := none, scope := scope }
  ({ s with tokens := s.tokens ++ [t], nextId := s.nextId + 1 }).pushE (.tokenFill s.nextId)

/-- A command's token, if it carries one. The token slot lies in the issuing cell (R240). -/
def cmdToken (s : State) (core : Nat) (w : CmdWord) (status : Word) : State :=
  if Cmd.noTok w then s
  else sendToken s (4 * (core / 4) + Cmd.tcore w) (Cmd.tslot w) (Cmd.treg w) (Cmd.tgen w) status false (2 + Cmd.scope w)

/-- A forked command has completed: its sequencer is owed one command less (R370). -/
def seqDone (s : State) (core : Nat) (c : Cmd) : State :=
  if !c.forked then s
  else
    let dec (q : Option Seq) : Option Seq := q.map (fun x => if x.sid = c.sid && x.gen = c.gen then { x with owed := x.owed - 1 } else x)
    if Cmd.queueOf c.word = some 0 then s.modCore core (fun k => { k with seqM := dec k.seqM })
    else s.modCore core (fun k => { k with seqC := dec k.seqC })

/-- A command completes: its sequencer learns of it and its token is sent. -/
def completeCmd (s : State) (core : Nat) (c : Cmd) (status : Word) : State :=
  cmdToken (seqDone s core c) core c.word status

/-! ## Rings (R76) -/

namespace Ring

def word (c : Cell) (q : Nat) : Word := FMap.get 0#64 c.q q
def base (x : Word) : Nat := bits x 10 0
def nslots (x : Word) : Nat := bits x 21 11 + 1
def sfr (x : Word) : Nat := bits x 23 22
def head (x : Word) : Nat := bits x 34 24
def cnt (x : Word) : Nat := bits x 46 35
def hseq (x : Word) : Nat := bits x 54 47

def malformed (x : Word) : Bool := sfr x = 3 || 2048 < base x + nslots x * 2 ^ sfr x

/-- First frame of a slot. -/
def frame (x : Word) (slot : Nat) : Nat := base x + slot * 2 ^ sfr x

/-- Offset of the scale strip of a slot (R76). -/
def strip (c : Cell) (q slot : Nat) : Nat := bits (FMap.get 0#64 c.qs q) 20 5 * 32 + 32 * slot

/-- Pops the head slot (R76); the landing bookkeeping of that slot goes with it. -/
def pop (c : Cell) (q : Nat) : Cell :=
  let x := word c q
  let h := head x
  let x' := setBits (setBits (setBits x 34 24 ((h + 1) % nslots x)) 54 47 ((hseq x + 1) % 256)) 46 35 (cnt x - 1)
  let r := FMap.get RingHidden.init c.rings q
  { c with
    q := FMap.put c.q q x'
    rings := FMap.put c.rings q { r with dseq := FMap.del r.dseq h, sseq := FMap.del r.sseq h } }

/-- Whether the data and scale sequence numbers of the head slot differ (R157). -/
def mismatch (c : Cell) (q : Nat) : Bool :=
  let r := FMap.get RingHidden.init c.rings q
  let h := head (word c q)
  match FMap.find? r.dseq h, FMap.find? r.sseq h with
  | some a, some b => a ≠ b
  | _, _ => false

end Ring

/-! ## Checks and readiness (R155, R351) -/

/-- An operand's format code and scaled bit. -/
def fmtA (w : CmdWord) : Nat × Bool := (bits w.w1 20 16, w.w1.getLsbD 21)
def fmtB (w : CmdWord) : Nat × Bool := (bits w.w1 26 22, w.w1.getLsbD 27)

/-- Frames that a format's tile needs (R351). -/
def tileFrames (code : Nat) : Nat := if code = 1 || code = 2 then 2 else 1

def operandOk (f : Nat × Bool) : Bool := matrixFormat f.1 && (descriptor f.1 f.2).isSome

/-- Destination formats of `accst`: FL, NF, I8, I16, I32 (R351). -/
def accstFmt (code : Nat) : Bool := code ≤ 2 || (4 ≤ code && code ≤ 9) || code = 0x0B || code = 0x0C

/-- Bytes of a tile of 1,024 elements. -/
def tileBytes (code : Nat) : Nat :=
  match elemOf code with
  | some e => 128 * e.width
  | none => 4096

def flagsByte (w : CmdWord) : Nat := bits w.w0 15 8

/-- INFO of the first failing field of a matrix command (R350, R351), words in order and bits from 0 upwards. -/
def matrixFail (s : State) (core : Nat) (c : Cmd) : Option Nat :=
  let w := c.word
  let cl := s.cell (core / 4)
  let rest := w.w2 ≠ 0#64 || w.w3 ≠ 0#64
  let tail : Option Nat := if w.w2 ≠ 0#64 then some 2 else if w.w3 ≠ 0#64 then some 3 else none
  match opc w with
  | 0x08 =>
    if flagsByte w ≠ 0 then some 0
    else if bits w.w1 5 0 ≠ 0 || localSize < bits w.w1 20 0 + tileBytes (bits w.w1 25 21) || 2 < bits w.w1 25 21
        || bits w.w1 63 29 ≠ 0 then some 1
    else tail
  | 0x09 =>
    let code := bits w.w1 25 21
    let use := w.w0.getLsbD 9
    if bits w.w0 15 13 ≠ 0 || (rndOf (bits w.w0 12 10)).isNone then some 0
    else if bits w.w1 5 0 ≠ 0 || (use && code ≠ 0) || !accstFmt (if use then c.fc else code)
        || localSize < bits w.w1 20 0 + tileBytes (if use then c.fc else code) || bits w.w1 63 29 ≠ 0 then some 1
    else tail
  | 0x0A =>
    if flagsByte w ≠ 0 || Cmd.scope w ≠ 0 then some 0
    else if bits w.w1 7 0 ≠ 0 || bits w.w1 63 11 ≠ 0 then some 1
    else tail
  | _ =>
    let qa := bits w.w1 3 0
    let qb := bits w.w1 7 4
    let xa := Ring.word cl qa
    let xb := Ring.word cl qb
    if bits w.w0 15 11 ≠ 0 then some 0
    else if qa = qb || bits w.w1 15 11 ≠ 0 || !operandOk (fmtA w) || !operandOk (fmtB w) || bits w.w1 63 28 ≠ 0 then some 1
    else if rest then tail
    else if Ring.malformed xa || Ring.malformed xb || 2 ^ Ring.sfr xa < tileFrames (fmtA w).1
        || 2 ^ Ring.sfr xb < tileFrames (fmtB w).1 then some 4
    else none

/-- Whether a head is ready: its rings cover their head slots, its accumulator is unlocked (R155). -/
def matrixReady (s : State) (core : Nat) (c : Cmd) : Bool :=
  let cl := s.cell (core / 4)
  (Cmd.rings c.word).all (fun q => 1 ≤ Ring.cnt (Ring.word cl q)) &&
    !(cl.accOf (8 * (core % 4) + Cmd.acc c.word)).lock

/-- The matrix unit's choice (R155): the core served and its step; a head that fails its checks leaves at once (R351). -/
def matrixPick (s : State) (cell : Nat) : Option (Nat × Cmd) :=
  let cl := s.cell cell
  if cl.mrun.isSome || (clockStop cl).isSome then none
  else
    ((List.range 16).filterMap (fun n =>
      let i := (cl.mstep + n) % 16
      let core := 4 * cell + bits cl.mwt (2 * i + 1) (2 * i)
      match (s.core core).mq with
      | [] => none
      | c :: _ => if (matrixFail s core c).isSome || matrixReady s core c then some (core, c) else none)).head?

/-- The rotation after a core was served: STEP passes the entry that named it (R155). -/
def advanceStep (s : State) (cell core : Nat) : State :=
  s.modCell cell (fun cl =>
    match (List.range 16).find? (fun n => bits cl.mwt (2 * ((cl.mstep + n) % 16) + 1) (2 * ((cl.mstep + n) % 16)) = core % 4) with
    | some n => { cl with mstep := (cl.mstep + n + 1) % 16 }
    | none => cl)

/-! ## Deferred traps and discards (R83, R153, R354) -/

/-- Discards the queued and forked matrix commands of a slot; their tokens receive DISCARDED, and what stood behind them may
issue. -/
def discardMatrix (s : State) (sid : Nat) : State :=
  let core := coreOf sid
  let mine := (s.core core).mq.filter (fun c => c.sid = sid)
  let s := s.modCore core (fun k => { k with mq := k.mq.filter (fun c => c.sid ≠ sid) })
  let s := (mine.foldl (fun s c => completeCmd s core c (statusWord 9 0#5 0)) s).push [.matrix (core / 4)]
  match (s.core core).seqM with
  | some q =>
    if q.sid = sid then
      (s.modCore core (fun k => { k with seqM := none })).modSlot sid (fun x =>
        { x with fork := x.fork.map (fun f => { f with mst := 4 }) })
    else s
  | none => s

/-- A matrix operation raises a deferred trap: its token and the slot's other matrix commands are discarded and the trap waits
for the slot's next issue (R83). -/
def raiseDeferred (s : State) (core : Nat) (c : Cmd) (cause detail : Nat) (tval : Word) : State :=
  let s := discardMatrix (completeCmd s core c (statusWord 9 0#5 0)) c.sid
  let x := s.slot c.sid
  if x.gen = c.gen && x.isLive then
    (s.setSlot c.sid { x with replay := none, deferred := some { cause := cause, detail := detail, tval := tval } }).pushE (.taskEnd c.sid)
  else s

/-! ## Operands (R173, R174, R352) -/

/-- SXn and unscaled operands: the scale byte in use; an unscaled operand is read at 0x7F (R352). -/
def rowScale (s : State) (cell q : Nat) (f : Nat × Bool) (r : Nat) : Nat :=
  let cl := s.cell cell
  let implied := 0x12 ≤ f.1 && f.1 ≤ 0x18
  if f.2 || implied then lane 8 (localRead s cell (Ring.strip cl q (Ring.head (Ring.word cl q))) 32) r else 0x7F

/-- Number under which an operand's scale strip stands beside the 64-byte units of its tile. -/
def stripIx : Nat := 32

/-- Whether an operand of a format has a scale per row: scaled, or of a format whose scale is implied (R352). -/
def stripMatters (f : Nat × Bool) : Bool := f.2 || (decide (0x12 ≤ f.1) && decide (f.1 ≤ 0x18))

/-- The units that an operand's tile is read in, and its scale strip where that matters (R90, R352). -/
def operandUnits (s : State) (cell q : Nat) (f : Nat × Bool) (b : Bool) : List MUnit :=
  let cl := s.cell cell
  let x := Ring.word cl q
  let o := 1024 * Ring.frame x (Ring.head x)
  (List.range ((tileBytes f.1 + 63) / 64)).map (fun i => { b := b, ix := i, off := o + 64 * i, n := 64 }) ++
    (if stripMatters f then [{ b := b, ix := stripIx, off := Ring.strip cl q (Ring.head x), n := 32 }] else [])

/-- An operand from the units that were read of it, as 32 vectors of 32 exact values: element c of vector r stands at `place r c` of
the tile, and byte r of the strip scales vector r (R352). -/
def operandVectors (f : Nat × Bool) (place : Nat → Nat → Nat) (units : FMap Nat) : List (List Fp) :=
  match descriptor f.1 f.2 with
  | none => []
  | some (el, scaled) =>
    let data := packLanes 512 ((List.range (2 * el.width)).map (FMap.get 0 units))
    let strip := FMap.get 0 units stripIx
    let scale (r : Nat) : Nat := if f.2 || (decide (0x12 ≤ f.1) && decide (f.1 ≤ 0x18)) then lane 8 strip r else 0x7F
    (List.range 32).map (fun r => (List.range 32).map (fun c =>
      elemValue el (lane el.width data (place r c)) (scale r) scaled))

/-- The rows of A: A[i][k] is element 32 i + k. -/
def rowsA (w : CmdWord) (units : FMap Nat) : List (List Fp) := operandVectors (fmtA w) (fun i k => 32 * i + k) units

/-- The columns of B: B[k][j] is element 32 k + j, or 32 j + k with T. -/
def columnsB (w : CmdWord) (units : FMap Nat) : List (List Fp) :=
  operandVectors (fmtB w) (fun j k => if w.w0.getLsbD 10 then 32 * j + k else 32 * k + j) units

/-- The directory entries of an operand's frames. -/
def operandEntries (s : State) (cell q : Nat) (f : Nat × Bool) : List DirEntry :=
  let cl := s.cell cell
  let x := Ring.word cl q
  (List.range (tileFrames f.1)).map (fun i => Loc.entry cl (Loc.mapFrame cl (Ring.frame x (Ring.head x) + i)))

/-- Directory class of an operand's frames, used only under an equal FMT (R173), and whether it is finite. -/
def operandClass (s : State) (cell q : Nat) (f : Nat × Bool) : FrameClass × Bool :=
  let cl := s.cell cell
  let x := Ring.word cl q
  let fr := Ring.frame x (Ring.head x)
  let mfs := (List.range (tileFrames f.1)).map (fun i => Loc.mapFrame cl (fr + i))
  let es := mfs.map (Loc.entry cl)
  let e0 := es.headD DirEntry.init
  let scales := (List.range 32).map (rowScale s cell q f)
  let fin := es.all (·.fin) && scales.all (· ≠ 0xFF)
  let cls :=
    if es.any (fun e => e.err || e.fmt ≠ f.1) then .general
    else if es.all (fun e => e.cls = .zero) then .zero
    else if es.all (fun e => e.cls = .constant && e.value = e0.value) then .constant
    else if es.all (fun e => e.cls = .identity) && (es.length = 1 || (mfs.headD 0) % 2 = 0) then .identity
    else .general
  (cls, fin)

/-- The row of R174 that decides an operation. -/
def simplifyRow (s : State) (cell : Nat) (w : CmdWord) : Nat :=
  let qa := bits w.w1 3 0
  let qb := bits w.w1 7 4
  let a := operandClass s cell qa (fmtA w)
  let b := operandClass s cell qb (fmtB w)
  let sa := (List.range 32).map (rowScale s cell qa (fmtA w))
  let sb := (List.range 32).map (rowScale s cell qb (fmtB w))
  let noNan (l : List Nat) : Bool := l.all (· ≠ 0xFF)
  let unit (l : List Nat) : Bool := l.all (· = 0x7F)
  if !(s.cell cell).tdctl.getLsbD 0 then 7
  else if a.1 = .zero && b.2 && noNan sa then 1
  else if b.1 = .zero && a.2 && noNan sb then 2
  else if a.1 = .identity && b.2 && unit sa then 3
  else if b.1 = .identity && a.2 && unit sb then 4
  else if a.1 = .constant && b.2 && noNan sa then 5
  else if b.1 = .constant && a.2 && noNan sb then 6
  else 7

/-! ## Operations (R352, R353) -/

/-- Element (i, j) of an accumulator, as F32 bits. -/
def accElem (d : BitVec 32768) (i : Nat) : Nat := lane 32 d.toNat i

/-- Accumulator contents from 1,024 F32 values, stored as R54 says. -/
def accOf (xs : List Nat) : BitVec 32768 := BitVec.ofNat 32768 (packLanes 32 (xs.map accCanon))

/-- The new contents of an accumulator and the flags that an operation raises (R53, R352). -/
def product (as_ : List (List Fp)) (bs : List (List Fp)) (c : BitVec 32768) : BitVec 32768 × FlagBits :=
  let rs := (List.range 1024).map (fun x =>
    (chunkOf (getAt [] as_ (x / 32)) (getAt [] bs (x % 32)) Chunk.start).update .rn (accElem c x))
  (accOf (rs.map (·.1)), rs.foldl (fun fl r => fl ||| r.2) 0#5)

/-- Takes the head command of a core's matrix queue out. -/
def popMatrix (s : State) (core : Nat) : State := s.modCore core (fun k => { k with mq := k.mq.drop 1 })

/-- Takes the head of the current core's queue if it is the given word, and passes it to `f`; else the turn passes. -/
def withHead (s : State) (w : CmdWord) (f : Nat → Cmd → State → State) : Host.Outcome State Fault Refusal :=
  let core := coreOf s.cur
  match (s.core core).mq with
  | [] => .next s
  | c :: _ =>
    if c.word ≠ w || (clockStop (s.cell (core / 4))).isSome then .next s
    else
      match matrixFail s core c with
      | some info => .next ((completeCmd (popMatrix s core) core c (statusWord 3 0#5 info)).push [.matrix (core / 4)])
      | none =>
        if (s.cell (core / 4)).mrun.isSome || !matrixReady s core c then .next s
        else .next (f core c (advanceStep (popMatrix s core) (core / 4) core))

/-- The cell cycle at which a requester position next meets the bank of an offset, no earlier than 3 cc on (R90, R91). -/
def pairTime (s : State) (cell pos o : Nat) : Nat :=
  let t0 := s.ccyc cell + 3
  let bank := nbits (Loc.mapOff (s.cell cell) o) 9 6
  t0 + (bank + 32 - pos % 16 - t0 % 16) % 16

/-- The pairing at which the matrix unit reads a unit: positions 6 to 9 read A, 10 to 13 read B (R90). -/
def operandPairing (s : State) (cell : Nat) (u : MUnit) : Turn :=
  let pos := (if u.b then 10 else 6) + u.ix % 4
  .event (.localPairing cell pos (pairTime s cell pos u.off))

/-- Issue of `mma` and `mmz` (R352): the operands are read at their pairings (R136, R175)
(DEDUCED, notes/assumptions/24.md). -/
def startProduct (zero : Bool) (core : Nat) (c : Cmd) (s : State) : State :=
  let cell := core / 4
  let w := c.word
  let n := 8 * (core % 4) + Cmd.acc w
  let a := (s.cell cell).accOf n
  let qa := bits w.w1 3 0
  let qb := bits w.w1 7 4
  if Ring.mismatch (s.cell cell) qa then
    raiseDeferred s core c cScalePair 0 (wrap64 (qa + 16 * Ring.hseq (Ring.word (s.cell cell) qa)))
  else if Ring.mismatch (s.cell cell) qb then
    raiseDeferred s core c cScalePair 1 (wrap64 (qb + 16 * Ring.hseq (Ring.word (s.cell cell) qb)))
  else if !zero && a.err ≠ 0#8 then raiseDeferred s core c cMachineCheck 2 (wrap64 (Cmd.acc w))
  else
    let us := operandUnits s cell qa (fmtA w) false ++ operandUnits s cell qb (fmtB w) true
    let run : MRun := {
      cmd := c, core := core, accNo := n, zero := zero
      popA := if w.w0.getLsbD 8 then none else some qa
      popB := if w.w0.getLsbD 9 then none else some qb
      row := simplifyRow s cell w, ents := operandEntries s cell qa (fmtA w) ++ operandEntries s cell qb (fmtB w)
      todo := us, gotA := [], gotB := [], bad := false, data := a.data, flags := a.flags, raised := 0#5 }
    (s.modCell cell (fun cl => { cl.setAcc n { a with lock := true } with mrun := some run })).push (us.map (operandPairing s cell))

/-- A unit of an operand has been read. -/
def MRun.read (r : MRun) (u : MUnit) (v : Nat) (bad : Bool) : MRun :=
  let r := { r with todo := r.todo.filter (fun x => !(x.b = u.b && x.ix = u.ix)), bad := r.bad || bad }
  if u.b then { r with gotB := FMap.put r.gotB u.ix v } else { r with gotA := FMap.put r.gotA u.ix v }

/-- The operation's results, once its operands are there (R53, R352). -/
def MRun.results (r : MRun) (a : Acc) : MRun :=
  let z := product (rowsA r.cmd.word r.gotA) (columnsB r.cmd.word r.gotB) (if r.zero then 0#32768 else a.data)
  { r with data := z.1, flags := (if r.zero then 0#5 else a.flags) ||| z.2, raised := z.2 }

/-- A position of the matrix unit meets a bank: it reads the first unit of its operand there; with the last one the operation has its
results, and its update is due. -/
def readOperand (s : State) (cell pos bank : Nat) : State :=
  match (s.cell cell).mrun with
  | none => s
  | some r =>
    let cl := s.cell cell
    let mine := r.todo.filter (fun u => u.b = decide (10 ≤ pos))
    match mine.find? (fun u => nbits (Loc.mapOff cl u.off) 9 6 = bank) with
    | some u =>
      let r := r.read u (localRead s cell u.off u.n) (localErr s cell u.off u.n)
      if r.todo.isEmpty then
        let r := if r.bad then r else r.results (cl.accOf r.accNo)
        (s.modCell cell (fun cl => { cl with mrun := some r })).pushE (.matrixUpdate cell)
      else s.modCell cell (fun cl => { cl with mrun := some r })
    | none =>
      match mine with
      | u :: _ => s.push [operandPairing s cell u]
      | [] => s

/-- MMA (R352). -/
def execMma (w : CmdWord) (s : State) : Host.Outcome State Fault Refusal := withHead s w (startProduct false)

/-- MMZ (R352). -/
def execMmz (w : CmdWord) (s : State) : Host.Outcome State Fault Refusal := withHead s w (startProduct true)

/-- The counter event of an operation: in full where an operand's entry has changed since its issue (R175, R194). -/
def matrixEvent (s : State) (cell : Nat) (r : MRun) : Nat :=
  let w := r.cmd.word
  if r.row = 7 ∨ r.ents ≠ operandEntries s cell (bits w.w1 3 0) (fmtA w) ++ operandEntries s cell (bits w.w1 7 4) (fmtB w) then 4
  else if r.row ≤ 2 then 6 else 5

/-- The accumulator update: C, flags, lock, pops and token in one cell cycle (R176, R352); an operand in error raises a deferred
MACHINE-CHECK instead, and the operation writes and pops nothing (R83, R84). -/
def finishProduct (cell : Nat) (s : State) : State :=
  match (s.cell cell).mrun with
  | none => s
  | some r =>
    if !r.todo.isEmpty then s
    else if r.bad then
      let s := s.modCell cell (fun cl => { cl.setAcc r.accNo { cl.accOf r.accNo with lock := false } with mrun := none })
      (raiseDeferred s r.core r.cmd cMachineCheck 2 (wrap64 (Cmd.acc r.cmd.word))).push [.matrix cell]
    else
      let s := count s (cellPerf cell) (matrixEvent s cell r) 1
      let s := s.modCell cell (fun cl =>
        let cl := { cl.setAcc r.accNo { data := r.data, flags := r.flags, lock := false, err := 0#8 } with mrun := none }
        let cl := match r.popA with | some q => Ring.pop cl q | none => cl
        match r.popB with | some q => Ring.pop cl q | none => cl)
      (completeCmd s r.core r.cmd (statusWord 0 r.raised 0)).push [.matrix cell]

/-- MATRIX_UPDATE (R352). -/
def execMatrixUpdate (cell : Nat) (s : State) : Host.Outcome State Fault Refusal :=
  .next (if (clockStop (s.cell cell)).isSome then s.pushE (.matrixUpdate cell) else finishProduct cell s)

/-- Clears an accumulator and its flags (R353). -/
def clearAcc (core : Nat) (c : Cmd) (s : State) : State :=
  let cell := core / 4
  let n := 8 * (core % 4) + Cmd.acc c.word
  let s := s.modCell cell (fun cl => cl.setAcc n Acc.init)
  (completeCmd s core c (statusWord 0 0#5 0)).push [.matrix cell]

/-- ACCCLR (R353). -/
def execAccclr (w : CmdWord) (s : State) : Host.Outcome State Fault Refusal := withHead s w clearAcc

end Sys2Proof.Machine
end

