-- ==== Sys2Proof/Machine/Special.lean ====
section
/-! DEFINITION. The special functions of the vector unit (spec/02_numbers.md R59, R60): base-2 exponential and logarithm in
fixed point wide enough that the rounding of R59 sees the exact function, and the functions built on them. -/

namespace Sys2Proof.Machine.Special

/-- Fraction bits of the fixed-point arithmetic (DEDUCED, notes/assumptions/11.md). -/
def prec : Nat := 256
/-- ln 2 in units of 2^-256. -/
def ln2 : Nat := 80260960185991308862233904206310070533990667611589946606122867505419956976171
/-- log2 e in units of 2^-256, exceeding 2^256. -/
def log2e : Nat := 167052672916848388242985626561247531987276682633131050150846402744536260568207

/-- Terms of the exponential series: `term` is y^n / n!, in units of 2^-256. -/
def expSeries : Nat → Nat → Nat → Nat → Nat
  | 0, _, _, _ => 0
  | k + 1, n, y, term => term + expSeries k (n + 1) y (((term * y) >>> prec) / (n + 1))

/-- 2^f for a fraction f in units of 2^-256: the significand in [1, 2) in the same units. -/
def exp2Frac (f : Nat) : Nat := expSeries 64 0 ((f * ln2) >>> prec) (2 ^ prec)

/-- 2^t for t in units of 2^-256: exact for an integer t, else with a sticky part. Far out of range it stands for any value
beyond every format. -/
def exp2Fixed (t : Int) : Fp × Bool :=
  let k := t / (2 ^ prec : Nat)
  let f := (t % (2 ^ prec : Nat)).toNat
  if k > 4096 then (.num false 1 4096, true)
  else if k < -4096 then (.num false 1 (-4096), true)
  else if f = 0 then (.num false 1 k, false)
  else (.num false (exp2Frac f) (k - prec), true)

/-- A finite value in units of 2^-256, rounded down; values beyond 2^13 in magnitude are cut off there. -/
def toFixed (n : Bool) (m : Nat) (e : Int) : Int :=
  let big : Bool := decide (e + bitLen m > 13)
  let v : Nat := if big then 2 ^ (prec + 13) else if e + prec ≥ 0 then m <<< (e + prec).toNat else m >>> (-(e + prec)).toNat
  if n then -(v : Int) else v

/-- The exact exponential 2^x of a finite value. -/
def exp2Exact (n : Bool) (m : Nat) (e : Int) : Fp × Bool := exp2Fixed (toFixed n m e)

/-- The exact exponential e^x of a finite value, to the precision in use. -/
def expExact (n : Bool) (m : Nat) (e : Int) : Fp × Bool :=
  exp2Fixed ((toFixed n m e * (log2e : Int)) / (2 ^ prec : Nat))

/-- Binary digits of log2 v for v in [1, 2) in units of 2^-320, highest first, accumulated onto `acc`. -/
def logDigits : Nat → Nat → Nat → Nat
  | 0, _, acc => acc
  | k + 1, v, acc =>
    let q := (v * v) >>> 320
    if q < 2 ^ 321 then logDigits k q (2 * acc) else logDigits k (q / 2) (2 * acc + 1)

/-- log2 of a positive value: exact for a power of two, else 128 fraction bits with a sticky part. -/
def log2Exact (m : Nat) (e : Int) : Fp × Bool :=
  let b := bitLen m - 1
  let k := e + b
  if m = 2 ^ b then (.num (k < 0) k.natAbs 0, false)
  else
    let v := if b ≤ 320 then m <<< (320 - b) else m >>> (b - 320)
    let t : Int := k * (2 ^ 128 : Nat) + (logDigits 128 v 0 : Nat)
    if t < 0 then (.num true ((-t).toNat - 1) (-128), true) else (.num false t.toNat (-128), true)

/-- RoundF32 under rn of a value with a sticky part. -/
def r32 (x : Fp × Bool) : Nat × FlagBits := (Ex.mk x.1 x.2 0#5).round fF32 .rn false

/-- The value of F32 bits. -/
def f32 (b : Nat) : Fp := decodeFloat fF32 b

/-- F32 bits of `vexp2` (R59, R60); a NaN operand gives the canonical NaN. -/
def exp2Bits (x : Fp) : Nat :=
  match x with
  | .nan _ => canonicalNan fF32
  | .inf n => if n then 0 else infBits fF32 false
  | .num n m e => (r32 (exp2Exact n m e)).1

/-- F32 bits of `vlog2` (R59, R60). -/
def log2Bits (x : Fp) : Nat :=
  match x with
  | .nan _ => canonicalNan fF32
  | .inf n => if n then canonicalNan fF32 else infBits fF32 false
  | .num n m e =>
    if m = 0 then infBits fF32 true
    else if n then canonicalNan fF32
    else (r32 (log2Exact m e)).1

/-- RoundF32(a * b) under rn. -/
def mul32 (a b : Fp) : Nat := ((fpMul a b).round fF32 .rn false).1

/-- The F32 value nearest log2 e (R59). -/
def cLog2e : Fp := f32 0x3FB8AA3B
/-- The F32 value nearest ln 2 (R59). -/
def cLn2 : Fp := f32 0x3F317218

/-- `vexp` (R59). -/
def expBits (x : Fp) : Nat := exp2Bits (f32 (mul32 x cLog2e))

/-- `vlog` (R59). -/
def logBits (x : Fp) : Nat := mul32 (f32 (log2Bits x)) cLn2

/-- `vsigm` (R59). -/
def sigmBits (x : Fp) : Nat :=
  let d := ((fpAdd .rn Fp.one (f32 (exp2Bits (f32 (mul32 x.negate cLog2e))))).round fF32 .rn false).1
  ((fpDiv Fp.one (f32 d)).round fF32 .rn false).1

/-- `vtanh` (R59). -/
def tanhBits (x : Fp) : Nat :=
  match x with
  | .nan _ => canonicalNan fF32
  | _ =>
    let g := (f32 (sigmBits (x.abs.scale 1))).scale 1
    let r := ((fpAdd .rn g (.num true 1 0)).round fF32 .rn false).1
    (if x.neg? then 2 ^ 31 else 0) + r

/-- The logistic function of a negative finite value by E / (1 + E), E = e^x, to the precision in use. -/
def sigmExact (m : Nat) (e : Int) : Fp × Bool :=
  let x := expExact true m e
  match x.1 with
  | .num _ r k =>
    if k < -4000 then x
    else
      let s := 2 * prec + k.natAbs
      (.num false ((r <<< s) / (2 ^ k.natAbs + r)) (-(s : Int)), true)
  | y => (y, true)

/-- The special functions (R328). -/
inductive Fn where
  | exp2 | log2 | exp | log | tanh | sigm
  deriving DecidableEq, Repr

/-- F32 bits of a special function. -/
def Fn.bits : Fn → Fp → Nat
  | .exp2, x => exp2Bits x
  | .log2, x => log2Bits x
  | .exp, x => expBits x
  | .log, x => logBits x
  | .tanh, x => tanhBits x
  | .sigm, x => sigmBits x

/-- The exact value where the function has one that is a number of finite length: its exact points (R59, R60). -/
def Fn.exactPoint : Fn → Fp → Option Fp
  | .exp2, .num n m e => let r := exp2Exact n m e; if r.2 then none else some r.1
  | .log2, .num _ m e => let r := log2Exact m e; if r.2 then none else some r.1
  | .exp, x => if x.isZero then some Fp.one else none
  | .log, .num n m e => if !n && fpCompare (.num n m e) Fp.one = 0 then some Fp.zero else none
  | .tanh, x => if x.isZero then some x else none
  | .sigm, x => if x.isZero then some (.num false 1 (-1)) else none
  | _, _ => none

/-- Whether the exact function is tiny in a format (R60). The logarithms never are: beside 1 they exceed every smallest
normal. -/
def Fn.tiny (fn : Fn) (f : FloatFmt) (x : Fp) : Bool :=
  let test (y : Fp × Bool) : Bool :=
    match y.1 with
    | .num _ m e => tinyRounded f .rn false m e y.2
    | _ => false
  match fn, x with
  | .exp2, .num n m e => test (exp2Exact n m e)
  | .exp, .num n m e => test (expExact n m e)
  | .sigm, .num n m e => n && test (sigmExact m e)
  | .tanh, .num _ m e => fpCompare (.num false m e) (.num false 1 (1 - (f.bias : Int))) < 0
  | _, _ => false

/-- A special function on an element of an FL format: the result's bits and its flags, judged on the final result against
the exact function (R60, R328). -/
def apply (fn : Fn) (f : FloatFmt) (x : Fp) : Nat × FlagBits :=
  let r := (Ex.exact (f32 (fn.bits x))).round f .rn false
  let res := decodeFloat f r.1
  match x with
  | .nan s => (canonicalNan f, flagIf s FlagBits.nv)
  | .inf n =>
    match fn with
    | .log2 => (r.1, flagIf n FlagBits.nv)
    | .log => (r.1, flagIf n FlagBits.nv)
    | _ => (r.1, 0#5)
  | .num n m _ =>
    let isLog := fn = .log2 || fn = .log
    if isLog && m = 0 then (infBits f true, FlagBits.dz)
    else if isLog && n then (canonicalNan f, FlagBits.nv)
    else
      let nx : Bool :=
        match fn.exactPoint x with
        | some v => !(res.finite && fpCompare res v = 0)
        | none => true
      (r.1, flagIf nx FlagBits.nx ||| flagIf res.isInf FlagBits.of_ ||| flagIf (nx && fn.tiny f x) FlagBits.uf)

end Sys2Proof.Machine.Special
end

