-- ==== Sys2Proof/Machine/VectorArith.lean ====
section
/-! DEFINITION. What the vector instructions compute once their sources are read (spec/16_ref_vector.md R320-R340): pure
functions from register contents to register contents and flags. -/

namespace Sys2Proof.Machine

/-- What a started vector instruction reads: its element format and whether that is scaled, its rounding mode, its scalar
operands, and its slot's vector and predicate registers as numbers (R324). -/
structure VIn where
  el : Elem
  scaled : Bool
  mode : Rnd
  x : Word
  y : Word
  rv : Nat → Nat
  rp : Nat → Nat

/-- What a vector instruction writes when it completes: vector, predicate and scalar registers, and flags (R324). -/
structure VRes where
  vw : List (Nat × VReg)
  pw : List (Nat × PReg)
  sw : List (Nat × Word)
  flags : FlagBits
  deriving DecidableEq, Repr

namespace Vec

/-- Lanes of a register for an element width (R320). -/
def laneCount (w : Nat) : Nat := if w = 6 then 672 else 4096 / w

/-- Width as the conversions count it: a 6-bit format counts as 8 bits (R332). -/
def convWidth (w : Nat) : Nat := if w = 6 then 8 else w

/-- Lanes of a register that take part in a conversion (R332). -/
def convLanes (w : Nat) : Nat := 4096 / convWidth w

/-- The predicate bit of a lane (R320) (DEDUCED, notes/assumptions/79.md). -/
def active (w p i : Nat) : Bool := (p >>> (if w = 2 then i / 2 else i)) % 2 = 1

/-- The lanes of a destination: `f` of index and old bits where active, the old bits elsewhere (R323). -/
def mapLanes (f : Nat → Nat → Nat × FlagBits) (act : Nat → Bool) : Nat → List Nat → List Nat × FlagBits
  | _, [] => ([], 0#5)
  | i, o :: os =>
    let r := mapLanes f act (i + 1) os
    if act i then
      let z := f i o
      (z.1 :: r.1, z.2 ||| r.2)
    else (o :: r.1, r.2)

/-- A register from its lanes; bytes beyond them are zero (R37, R323). -/
def reg (w : Nat) (xs : List Nat) : VReg := BitVec.ofNat 4096 (packLanes w xs)

/-- One vector register written. -/
def one (d : Nat) (v : VReg) (fl : FlagBits) : VRes := ⟨[(d, v)], [], [], fl⟩

/-- Applies a function to the active lanes of a destination register. -/
def elementwise (c : VIn) (d p : Nat) (f : Nat → Nat → Nat × FlagBits) : VRes :=
  let w := c.el.width
  let r := mapLanes f (active w (c.rp p)) 0 (lanes w (c.rv d) (laneCount w))
  one d (reg w r.1) r.2

/-- The value of lane i of an unscaled register. -/
def val (c : VIn) (b : Nat) : Fp := elemValue c.el b 0 false

/-- Integer of a lane's bits. -/
def ival (signed : Bool) (w b : Nat) : Int := if signed then signedN w b else (b % 2 ^ w : Nat)

/-- Element arithmetic: floating by `ff` with one rounding, integer by `fi` modulo 2^w (R327). -/
def arith (c : VIn) (d a b p : Nat) (ff : Fp → Fp → Fp → Ex) (fi : Int → Int → Int → Int) : VRes :=
  let w := c.el.width
  elementwise c d p (fun i o =>
    let x := lane w (c.rv a) i
    let y := lane w (c.rv b) i
    match c.el with
    | .float f => (ff (val c x) (val c y) (val c o)).round f c.mode false
    | .int s v => (intBits v (fi (ival s v x) (ival s v y) (ival s v o)), 0#5)
    | _ => (o, 0#5))

def resAdd (c : VIn) (d a b p : Nat) : VRes := arith c d a b p (fun x y _ => fpAdd c.mode x y) (fun x y _ => x + y)
def resSub (c : VIn) (d a b p : Nat) : VRes := arith c d a b p (fun x y _ => fpAdd c.mode x y.negate) (fun x y _ => x - y)
def resMul (c : VIn) (d a b p : Nat) : VRes := arith c d a b p (fun x y _ => fpMul x y) (fun x y _ => x * y)
def resFma (c : VIn) (d a b p : Nat) : VRes := arith c d a b p (fun x y z => fpFma c.mode x y z) (fun x y z => x * y + z)
def resFms (c : VIn) (d a b p : Nat) : VRes :=
  arith c d a b p (fun x y z => fpFma c.mode x y z.negate) (fun x y z => x * y - z)
def resDiv (c : VIn) (d a b p : Nat) : VRes := arith c d a b p (fun x y _ => fpDiv x y) (fun x _ _ => x)
def resSqrt (c : VIn) (d a p : Nat) : VRes := arith c d a a p (fun x _ _ => fpSqrt x) (fun x _ _ => x)
def resRcp (c : VIn) (d a p : Nat) : VRes := arith c d a a p (fun x _ _ => fpDiv Fp.one x) (fun x _ _ => x)
def resRsqrt (c : VIn) (d a p : Nat) : VRes := arith c d a a p (fun x _ _ => fpRsqrt x) (fun x _ _ => x)

/-- `vmin` and `vmax` (R52, R327): an operand's bits unchanged, or the canonical NaN. -/
def resMinMax (isMax : Bool) (c : VIn) (d a b p : Nat) : VRes :=
  let w := c.el.width
  elementwise c d p (fun i o =>
    let x := lane w (c.rv a) i
    let y := lane w (c.rv b) i
    match c.el with
    | .float f =>
      let u := val c x
      let v := val c y
      if u.isNan && v.isNan then (canonicalNan f, sigFlag u v)
      else (if fpPickSecond isMax u v then y else x, sigFlag u v)
    | .int s n =>
      let u := ival s n x
      let v := ival s n y
      (if (if isMax then u < v else v < u) then y else x, 0#5)
    | _ => (o, 0#5))

/-- `vabs` and `vneg` (R327). -/
def resSign (neg : Bool) (c : VIn) (d a p : Nat) : VRes :=
  let w := c.el.width
  elementwise c d p (fun i o =>
    let x := lane w (c.rv a) i
    match c.el with
    | .float f =>
      let u := val c x
      if u.isNan then (canonicalNan f, flagIf u.isSig FlagBits.nv)
      else (signBit f (neg && !u.neg?) + x % 2 ^ (f.eb + f.mb), 0#5)
    | .int s n =>
      let u := ival s n x
      (intBits n (if neg then -u else if u < 0 then -u else u), 0#5)
    | _ => (o, 0#5))

/-- The special functions (R328). -/
def resSpecial (fn : Special.Fn) (c : VIn) (d a p : Nat) : VRes :=
  let w := c.el.width
  elementwise c d p (fun i o =>
    match c.el with
    | .float f => Special.apply fn f (val c (lane w (c.rv a) i))
    | _ => (o, 0#5))

/-- Truth and flags of one comparison (R52, R329). -/
def compareLane (c : VIn) (cc x y : Nat) : Bool × FlagBits :=
  match c.el with
  | .int s n =>
    let u := ival s n x
    let v := ival s n y
    (match cc with
     | 0 => u = v
     | 1 => u ≠ v
     | 2 => u < v
     | 3 => u ≤ v
     | 4 => u > v
     | 5 => u ≥ v
     | _ => false, 0#5)
  | _ => fpCondition cc (val c x) (val c y)

/-- `vcmp` (R329): one bit per lane, 0 for an inactive lane and above the lanes. -/
def resCmp (c : VIn) (d a b p cc : Nat) : VRes :=
  let w := c.el.width
  let r := mapLanes (fun i _ =>
    let z := compareLane c cc (lane w (c.rv a) i) (lane w (c.rv b) i)
    (z.1.toNat, z.2)) (active w (c.rp p)) 0 (List.replicate (laneCount w) 0)
  ⟨[], [(d, BitVec.ofNat 1024 (packLanes 1 r.1))], [], r.2⟩

/-- `vsel` (R330). -/
def resSel (c : VIn) (d a b p : Nat) : VRes :=
  let w := c.el.width
  let n := laneCount w
  one d (reg w ((List.range n).map (fun i => lane w (if active w (c.rp p) i then c.rv a else c.rv b) i))) 0#5

/-- Lane-wise bits (R331). -/
def resBits (g : Nat → Nat → Nat → Nat) (c : VIn) (d a b p : Nat) : VRes :=
  let w := c.el.width
  elementwise c d p (fun i _ => (g w (lane w (c.rv a) i) (lane w (c.rv b) i) % 2 ^ w, 0#5))

def opAnd (_ x y : Nat) : Nat := x &&& y
def opOr (_ x y : Nat) : Nat := x ||| y
def opXor (_ x y : Nat) : Nat := x ^^^ y
def opNot (w x _ : Nat) : Nat := 2 ^ w - 1 - x
def opShl (w x n : Nat) : Nat := if n < w then x <<< n else 0
def opShr (w x n : Nat) : Nat := if n < w then x >>> n else 0
def opSar (w x n : Nat) : Nat := intBits w (signedN w x / (2 ^ min n w : Nat))

/-! ## Conversions (R332-R335) -/

/-- The destination format of a conversion: fs 01 F32, 10 BF16, 11 the code in vb (R238). -/
def convDst (fs vb : Nat) : Nat := if fs = 1 then 0 else if fs = 2 then 1 else vb

/-- The value of source element i, scale included, of a register (R42, R332). -/
def srcVal (c : VIn) (a i : Nat) : Fp :=
  elemValue c.el (lane c.el.width (c.rv a) i) (lane 8 (c.rv (a + 1)) (i / 32)) c.scaled

/-- Converts one element, integer to integer without a flag (R51). -/
def convOne (c : VIn) (dst : Elem) (sat : Bool) (v : Fp) : Nat × FlagBits := convertElem c.el dst c.mode sat v

/-- `vcvt`, `vcvt.sat` (R332). -/
def resCvt (sat : Bool) (c : VIn) (dcode d a p : Nat) : VRes :=
  match elemOf dcode with
  | none => ⟨[], [], [], 0#5⟩
  | some dst =>
    let w := dst.width
    let n := min (convLanes c.el.width) (convLanes w)
    let r := mapLanes (fun i _ => convOne c dst sat (srcVal c a i)) (active w (c.rp p)) 0 (lanes w (c.rv d) n)
    one d (reg w r.1) r.2

/-- Every r-th element of a list, from element k on. -/
def everyNth (r k : Nat) (xs : List Nat) : List Nat :=
  (List.range (xs.length / r)).map (fun j => getAt 0 xs (r * j + k))

/-- `vwiden` (R333): element i goes to register i mod r at lane i / r. -/
def resWiden (c : VIn) (dcode d a : Nat) : VRes :=
  match elemOf dcode with
  | none => ⟨[], [], [], 0#5⟩
  | some dst =>
    let r := convWidth dst.width / convWidth c.el.width
    let n := convLanes c.el.width
    let z := mapLanes (fun i _ => convOne c dst false (srcVal c a i)) (fun _ => true) 0 (List.replicate n 0)
    ⟨(List.range r).map (fun k => (d + k, reg dst.width (everyNth r k z.1))), [], [], z.2⟩

/-- Element i of a source group of r registers (R333). -/
def groupVal (c : VIn) (a r i : Nat) : Fp := elemValue c.el (lane c.el.width (c.rv (a + i % r)) (i / r)) 0 false

/-- `vnarrow`, `vnarrow.sat` (R333). -/
def resNarrow (sat : Bool) (c : VIn) (dcode d a : Nat) : VRes :=
  match elemOf dcode with
  | none => ⟨[], [], [], 0#5⟩
  | some dst =>
    let r := convWidth c.el.width / convWidth dst.width
    let n := convLanes dst.width
    let z := mapLanes (fun i _ => convOne c dst sat (groupVal c a r i)) (fun _ => true) 0 (List.replicate n 0)
    one d (reg dst.width z.1) z.2

/-- Encodes a block of values: its scale, its codes and flags (R46). -/
def quantBlock (dst : Elem) (mode : Rnd) (vs : List Fp) : Nat × List Nat × FlagBits :=
  let s := blockScale dst vs
  let z := vs.map (encodeScaled dst mode s)
  (s, z.map (·.1), z.foldl (fun acc y => acc ||| y.2) 0#5)

/-- `vqnt` (R334). -/
def resQnt (c : VIn) (dcode d a : Nat) : VRes :=
  match elemOf dcode with
  | none => ⟨[], [], [], 0#5⟩
  | some dst =>
    let r := convWidth c.el.width / convWidth dst.width
    let n := convLanes dst.width
    let bs := (List.range (n / 32)).map (fun k =>
      quantBlock dst c.mode ((List.range 32).map (fun j => groupVal c a r (32 * k + j))))
    let strip := bs.map (·.1) ++ (if dst.width = 6 then List.replicate 5 0x7F else [])
    ⟨[(d, reg dst.width (bs.map (·.2.1)).flatten), (d + 1, reg 8 strip)], [], [],
      bs.foldl (fun acc y => acc ||| y.2.2) 0#5⟩

/-- `vscale` (R335). -/
def resScale (c : VIn) (d a b p : Nat) : VRes :=
  let w := c.el.width
  elementwise c d p (fun i o =>
    match c.el with
    | .float f =>
      match scaleExp (lane 8 (c.rv b) (i / 32)) with
      | none => (canonicalNan f, 0#5)
      | some k =>
        let v := val c (lane w (c.rv a) i)
        (Ex.mk (v.scale k) false (flagIf v.isSig FlagBits.nv)).round f c.mode false
    | _ => (o, 0#5))

/-! ## Reductions and the block dot product (R336, R337) -/

/-- The active lanes of a register as tree leaves. -/
def leaves (c : VIn) (a p : Nat) : List (Option Nat) :=
  let w := c.el.width
  (List.range (laneCount w)).map (fun i => if active w (c.rp p) i then some (lane w (c.rv a) i) else none)

/-- Whether a signalling NaN is among the leaves (R55). -/
def anySig (c : VIn) (xs : List (Option Nat)) : Bool :=
  xs.any (fun o => match o with | some b => (val c b).isSig | none => false)

/-- The integers of the present leaves. -/
def presentInts (s : Bool) (n : Nat) (xs : List (Option Nat)) : List Int := xs.filterMap (fun o => o.map (ival s n))

/-- F32 bits of an exact value that F32 holds; a NaN is canonical. -/
def exactF32 (v : Fp) : Nat := ((Ex.exact v).round fF32 .rn false).1

/-- `vsum` (R55, R336). -/
def resSum (c : VIn) (d a p : Nat) : VRes :=
  let xs := leaves c a p
  match c.el with
  | .int s n => one d (BitVec.ofNat 4096 (intBits 64 ((presentInts s n xs).foldl (· + ·) 0))) 0#5
  | _ =>
    let t := treeFold (sumNode c.mode) 10 (xs.map (fun o => o.map (val c)))
    one d (BitVec.ofNat 4096 (match t.1 with | some v => exactF32 v | none => 0))
      (t.2 ||| flagIf (anySig c xs) FlagBits.nv)

/-- One node of `vmaxr` or `vminr` (R52). -/
def extremeNode (isMax : Bool) (l h : Fp) : Fp × FlagBits := (if fpPickSecond isMax l h then h else l, 0#5)

/-- `vmaxr`, `vminr` (R55, R336). -/
def resExtreme (isMax : Bool) (c : VIn) (d a p : Nat) : VRes :=
  let xs := leaves c a p
  match c.el with
  | .int s n =>
    let start := if isMax then intLo s n else intHi s n
    one d (BitVec.ofNat 4096 (intBits 64 ((presentInts s n xs).foldl (fun u v => if isMax then max u v else min u v) start)))
      0#5
  | _ =>
    let t := treeFold (extremeNode isMax) 10 (xs.map (fun o => o.map (val c)))
    one d (BitVec.ofNat 4096 (match t.1 with | some v => exactF32 v | none => infBits fF32 isMax))
      (flagIf (anySig c xs) FlagBits.nv)

/-- One block of `vdot` (R337): C's bits and the flags. -/
def dotBlock (c : VIn) (a b p k : Nat) (cb : Nat) : Nat × FlagBits :=
  let w := c.el.width
  let idx := ((List.range 32).map (32 * k + ·)).filter (active w (c.rp p))
  let as_ := idx.map (srcVal c a)
  let bs := idx.map (srcVal c b)
  let allFinite := as_.all Fp.finite && bs.all Fp.finite
  let allZero := (as_.zip bs).all (fun q => q.1.isZero || q.2.isZero)
  if idx.isEmpty || (allFinite && allZero) then (cb, 0#5)
  else
    let sig := as_.any Fp.isSig || bs.any Fp.isSig || (decodeFloat fF32 cb).isSig
    let r := (chunkOf as_ bs Chunk.start).update c.mode cb
    (r.1, r.2 ||| flagIf sig FlagBits.nv)

/-- Blocks k, k + 1, … in ascending order. -/
def dotBlocks (c : VIn) (a b p : Nat) : Nat → Nat → Nat → FlagBits → Nat × FlagBits
  | 0, _, cb, fl => (cb, fl)
  | n + 1, k, cb, fl =>
    let r := dotBlock c a b p k cb
    dotBlocks c a b p n (k + 1) r.1 (fl ||| r.2)

/-- `vdot` (R56, R337) (DEDUCED, notes/assumptions/25.md). -/
def resDot (c : VIn) (d a b p : Nat) : VRes :=
  let r := dotBlocks c a b p (laneCount c.el.width / 32) 0 (c.rv d % 2 ^ 32) 0#5
  one d (BitVec.ofNat 4096 r.1) r.2

/-! ## Moves and predicates (R338-R340) -/

/-- `vperm` (R338). -/
def resPerm (c : VIn) (d a b p : Nat) : VRes :=
  let w := c.el.width
  elementwise c d p (fun i _ =>
    let x := lane 16 (c.rv (b + i / 256)) (i % 256)
    (if x < laneCount w then lane w (c.rv a) x else 0, 0#5))

/-- `vbcast` (R339). -/
def resBcast (c : VIn) (d p : Nat) : VRes :=
  elementwise c d p (fun _ _ => (c.x.toNat % 2 ^ c.el.width, 0#5))

/-- `vext` (R339). -/
def resExt (c : VIn) (d a : Nat) : VRes :=
  let w := c.el.width
  ⟨[], [], [(d, BitVec.ofNat 64 (if c.x.toNat < laneCount w then lane w (c.rv a) c.x.toNat else 0))], 0#5⟩

/-- `vins` (R339); x is the value, y the index. -/
def resIns (c : VIn) (d : Nat) : VRes :=
  let w := c.el.width
  let old := lanes w (c.rv d) (laneCount w)
  one d (reg w (if c.y.toNat < laneCount w then setAt old c.y.toNat (c.x.toNat % 2 ^ w) else old)) 0#5

/-- A predicate written. -/
def onePred (d n : Nat) : VRes := ⟨[], [(d, BitVec.ofNat 1024 n)], [], 0#5⟩

def resPand (c : VIn) (d a b : Nat) : VRes := onePred d (c.rp a &&& c.rp b)
def resPor (c : VIn) (d a b : Nat) : VRes := onePred d (c.rp a ||| c.rp b)
def resPxor (c : VIn) (d a b : Nat) : VRes := onePred d (c.rp a ^^^ c.rp b)
def resPnot (c : VIn) (d a : Nat) : VRes := onePred d (2 ^ 1024 - 1 - c.rp a)

/-- Indices of the set bits of a predicate, rising. -/
def predBits (n : Nat) : List Nat := (List.range 1024).filter (fun i => (n >>> i) % 2 = 1)

def resPcnt (c : VIn) (d a : Nat) : VRes := ⟨[], [], [(d, BitVec.ofNat 64 (predBits (c.rp a)).length)], 0#5⟩
def resPfirst (c : VIn) (d a : Nat) : VRes := ⟨[], [], [(d, BitVec.ofNat 64 ((predBits (c.rp a)).headD 1024))], 0#5⟩

end Vec

/-- The result of a vector instruction; a memory instruction's is made elsewhere (R343). -/
def vecResult (i : Instr) (c : VIn) : VRes :=
  match i with
  | .vadd _ d a b p _ => Vec.resAdd c d.toNat a.toNat b.toNat p.toNat
  | .vsub _ d a b p _ => Vec.resSub c d.toNat a.toNat b.toNat p.toNat
  | .vmul _ d a b p _ => Vec.resMul c d.toNat a.toNat b.toNat p.toNat
  | .vfma _ d a b p _ => Vec.resFma c d.toNat a.toNat b.toNat p.toNat
  | .vfms _ d a b p _ => Vec.resFms c d.toNat a.toNat b.toNat p.toNat
  | .vdiv _ d a b p _ => Vec.resDiv c d.toNat a.toNat b.toNat p.toNat
  | .vsqrt _ d a p _ => Vec.resSqrt c d.toNat a.toNat p.toNat
  | .vrcp _ d a p _ => Vec.resRcp c d.toNat a.toNat p.toNat
  | .vrsqrt _ d a p _ => Vec.resRsqrt c d.toNat a.toNat p.toNat
  | .vsum _ d a p _ => Vec.resSum c d.toNat a.toNat p.toNat
  | .vdot _ d a b p _ => Vec.resDot c d.toNat a.toNat b.toNat p.toNat
  | .vcvt _ d a b p f => Vec.resCvt false c (Vec.convDst f.toNat b.toNat) d.toNat a.toNat p.toNat
  | .vcvtSat _ d a b p f => Vec.resCvt true c (Vec.convDst f.toNat b.toNat) d.toNat a.toNat p.toNat
  | .vwiden _ d a b f => Vec.resWiden c (Vec.convDst f.toNat b.toNat) d.toNat a.toNat
  | .vnarrow _ d a b f => Vec.resNarrow false c (Vec.convDst f.toNat b.toNat) d.toNat a.toNat
  | .vnarrowSat _ d a b f => Vec.resNarrow true c (Vec.convDst f.toNat b.toNat) d.toNat a.toNat
  | .vqnt _ d a b f => Vec.resQnt c (Vec.convDst f.toNat b.toNat) d.toNat a.toNat
  | .vscale _ d a b p _ => Vec.resScale c d.toNat a.toNat b.toNat p.toNat
  | .vmin d a b p _ => Vec.resMinMax false c d.toNat a.toNat b.toNat p.toNat
  | .vmax d a b p _ => Vec.resMinMax true c d.toNat a.toNat b.toNat p.toNat
  | .vabs d a p _ => Vec.resSign false c d.toNat a.toNat p.toNat
  | .vneg d a p _ => Vec.resSign true c d.toNat a.toNat p.toNat
  | .vmaxr d a p _ => Vec.resExtreme true c d.toNat a.toNat p.toNat
  | .vminr d a p _ => Vec.resExtreme false c d.toNat a.toNat p.toNat
  | .vexp2 d a p _ => Vec.resSpecial .exp2 c d.toNat a.toNat p.toNat
  | .vlog2 d a p _ => Vec.resSpecial .log2 c d.toNat a.toNat p.toNat
  | .vexp d a p _ => Vec.resSpecial .exp c d.toNat a.toNat p.toNat
  | .vlog d a p _ => Vec.resSpecial .log c d.toNat a.toNat p.toNat
  | .vtanh d a p _ => Vec.resSpecial .tanh c d.toNat a.toNat p.toNat
  | .vsigm d a p _ => Vec.resSpecial .sigm c d.toNat a.toNat p.toNat
  | .vcmp d a b p _ cc => Vec.resCmp c d.toNat a.toNat b.toNat p.toNat cc.toNat
  | .vsel d a b p _ => Vec.resSel c d.toNat a.toNat b.toNat p.toNat
  | .vand d a b p _ => Vec.resBits Vec.opAnd c d.toNat a.toNat b.toNat p.toNat
  | .vor d a b p _ => Vec.resBits Vec.opOr c d.toNat a.toNat b.toNat p.toNat
  | .vxor d a b p _ => Vec.resBits Vec.opXor c d.toNat a.toNat b.toNat p.toNat
  | .vnot d a p _ => Vec.resBits Vec.opNot c d.toNat a.toNat a.toNat p.toNat
  | .vshl d a b p _ => Vec.resBits Vec.opShl c d.toNat a.toNat b.toNat p.toNat
  | .vshr d a b p _ => Vec.resBits Vec.opShr c d.toNat a.toNat b.toNat p.toNat
  | .vsar d a b p _ => Vec.resBits Vec.opSar c d.toNat a.toNat b.toNat p.toNat
  | .vperm d a b p _ => Vec.resPerm c d.toNat a.toNat b.toNat p.toNat
  | .vbcast d _ p _ => Vec.resBcast c d.toNat p.toNat
  | .vext d a _ _ => Vec.resExt c d.toNat a.toNat
  | .vins d _ _ _ => Vec.resIns c d.toNat
  | .pand d a b => Vec.resPand c d.toNat a.toNat b.toNat
  | .por d a b => Vec.resPor c d.toNat a.toNat b.toNat
  | .pxor d a b => Vec.resPxor c d.toNat a.toNat b.toNat
  | .pnot d a => Vec.resPnot c d.toNat a.toNat
  | .pcnt d a => Vec.resPcnt c d.toNat a.toNat
  | .pfirst d a => Vec.resPfirst c d.toNat a.toNat
  | _ => ⟨[], [], [], 0#5⟩

end Sys2Proof.Machine
end

