-- ==== Sys2Proof/Machine/VectorForms.lean ====
section
/-! DEFINITION. Formats, register groups and issue checks of the vector instructions (spec/16_ref_vector.md R320-R323, R326,
R332-R341, spec/11_encodings.md R238, R244). -/

namespace Sys2Proof.Machine

/-- What a vector instruction names: vector source and destination groups (first register, number), predicate sources and
destination, scalar sources and destination. -/
structure VForm where
  vs : List (Nat × Nat)
  vd : List (Nat × Nat)
  ps : List Nat
  pd : Option Nat
  ss : List Nat
  sd : Option Nat
  deriving DecidableEq, Repr

/-- Classes of formats (R321). -/
inductive FmtClass where
  | fl | nf | inn | sc | e8m0
  deriving DecidableEq, Repr

/-- The class of a format descriptor. -/
def classOf (el : Elem) (scaled : Bool) : FmtClass :=
  match el with
  | .float f => if f = fF32 || f = fBF16 || f = fF16 then .fl else if scaled then .sc else .nf
  | .int _ _ => .inn
  | .sx _ => .sc
  | .e8m0 => .e8m0

/-- The element format of an instruction under its slot's VFMT (R320). -/
def vecDescriptor (vfmt : Word) (fs : Nat) : Option (Elem × Bool) :=
  match fs with
  | 0 => descriptor (bits vfmt 4 0) (vfmt.getLsbD 5)
  | 1 => descriptor 0 false
  | 2 => descriptor 1 false
  | _ => none

/-- The rounding mode of a rounding field: 5 takes RMODE (R47, R238). -/
def vecMode (rmode : Word) (r : BitVec 3) : Option Rnd := if r = 5#3 then rndOf (bits rmode 2 0) else rndOf r.toNat

/-- A vector instruction's own choices: format field, rounding field (0 where it rounds under rn or not at all), accepted
classes, accepted widths, conversion destination with its ratio as numerator and denominator bounds. -/
structure VKind where
  fs : Nat
  rnd : BitVec 3
  classes : List FmtClass
  widths : List Nat

def clArith : List FmtClass := [.fl, .nf, .inn]
def clFloat : List FmtClass := [.fl]
def clSource : List FmtClass := [.fl, .nf, .inn, .sc]
def clAny : List FmtClass := [.fl, .nf, .inn, .sc, .e8m0]
def allWidths : List Nat := [2, 4, 6, 8, 16, 32]
def moveWidths : List Nat := [8, 16, 32]

/-- Format choices per instruction (R321); none for an instruction that acts on no element. -/
def vKind (i : Instr) : Option VKind :=
  match i with
  | .vadd r _ _ _ _ f => some ⟨f.toNat, r, clArith, allWidths⟩
  | .vsub r _ _ _ _ f => some ⟨f.toNat, r, clArith, allWidths⟩
  | .vmul r _ _ _ _ f => some ⟨f.toNat, r, clArith, allWidths⟩
  | .vfma r _ _ _ _ f => some ⟨f.toNat, r, clArith, allWidths⟩
  | .vfms r _ _ _ _ f => some ⟨f.toNat, r, clArith, allWidths⟩
  | .vdiv r _ _ _ _ f => some ⟨f.toNat, r, clFloat, allWidths⟩
  | .vsqrt r _ _ _ f => some ⟨f.toNat, r, clFloat, allWidths⟩
  | .vrcp r _ _ _ f => some ⟨f.toNat, r, clFloat, allWidths⟩
  | .vrsqrt r _ _ _ f => some ⟨f.toNat, r, clFloat, allWidths⟩
  | .vsum r _ _ _ f => some ⟨f.toNat, r, clArith, allWidths⟩
  | .vdot r _ _ _ _ f => some ⟨f.toNat, r, clSource, allWidths⟩
  | .vcvt r _ _ _ _ _ => some ⟨0, r, clSource, allWidths⟩
  | .vcvtSat r _ _ _ _ _ => some ⟨0, r, clSource, allWidths⟩
  | .vwiden r _ _ _ _ => some ⟨0, r, clSource, allWidths⟩
  | .vnarrow r _ _ _ _ => some ⟨0, r, clArith, allWidths⟩
  | .vnarrowSat r _ _ _ _ => some ⟨0, r, clArith, allWidths⟩
  | .vqnt r _ _ _ _ => some ⟨0, r, clFloat, allWidths⟩
  | .vscale r _ _ _ _ f => some ⟨f.toNat, r, clFloat, allWidths⟩
  | .vmin _ _ _ _ f => some ⟨f.toNat, 0#3, clArith, allWidths⟩
  | .vmax _ _ _ _ f => some ⟨f.toNat, 0#3, clArith, allWidths⟩
  | .vabs _ _ _ f => some ⟨f.toNat, 0#3, clArith, allWidths⟩
  | .vneg _ _ _ f => some ⟨f.toNat, 0#3, clArith, allWidths⟩
  | .vmaxr _ _ _ f => some ⟨f.toNat, 0#3, clArith, allWidths⟩
  | .vminr _ _ _ f => some ⟨f.toNat, 0#3, clArith, allWidths⟩
  | .vexp2 _ _ _ f => some ⟨f.toNat, 0#3, clFloat, allWidths⟩
  | .vlog2 _ _ _ f => some ⟨f.toNat, 0#3, clFloat, allWidths⟩
  | .vexp _ _ _ f => some ⟨f.toNat, 0#3, clFloat, allWidths⟩
  | .vlog _ _ _ f => some ⟨f.toNat, 0#3, clFloat, allWidths⟩
  | .vtanh _ _ _ f => some ⟨f.toNat, 0#3, clFloat, allWidths⟩
  | .vsigm _ _ _ f => some ⟨f.toNat, 0#3, clFloat, allWidths⟩
  | .vcmp _ _ _ _ f _ => some ⟨f.toNat, 0#3, clArith, allWidths⟩
  | .vsel _ _ _ _ f => some ⟨f.toNat, 0#3, clAny, allWidths⟩
  | .vand _ _ _ _ f => some ⟨f.toNat, 0#3, clAny, allWidths⟩
  | .vor _ _ _ _ f => some ⟨f.toNat, 0#3, clAny, allWidths⟩
  | .vxor _ _ _ _ f => some ⟨f.toNat, 0#3, clAny, allWidths⟩
  | .vnot _ _ _ f => some ⟨f.toNat, 0#3, clAny, allWidths⟩
  | .vshl _ _ _ _ f => some ⟨f.toNat, 0#3, [.inn], allWidths⟩
  | .vshr _ _ _ _ f => some ⟨f.toNat, 0#3, [.inn], allWidths⟩
  | .vsar _ _ _ _ f => some ⟨f.toNat, 0#3, [.inn], allWidths⟩
  | .vperm _ _ _ _ f => some ⟨f.toNat, 0#3, clAny, moveWidths⟩
  | .vbcast _ _ _ f => some ⟨f.toNat, 0#3, clAny, allWidths⟩
  | .vext _ _ _ f => some ⟨f.toNat, 0#3, clAny, allWidths⟩
  | .vins _ _ _ f => some ⟨f.toNat, 0#3, clAny, allWidths⟩
  | .vlds _ _ _ _ f => some ⟨f.toNat, 0#3, clAny, moveWidths⟩
  | .vgath _ _ _ _ f => some ⟨f.toNat, 0#3, clAny, moveWidths⟩
  | .vscat _ _ _ _ f => some ⟨f.toNat, 0#3, clAny, moveWidths⟩
  | _ => none

/-- Destination code of a conversion (R238), and whether it quantises. -/
def vConv (i : Instr) : Option (Nat × Bool) :=
  match i with
  | .vcvt _ _ _ c _ f => some (Vec.convDst f.toNat c.toNat, false)
  | .vcvtSat _ _ _ c _ f => some (Vec.convDst f.toNat c.toNat, false)
  | .vwiden _ _ _ c f => some (Vec.convDst f.toNat c.toNat, false)
  | .vnarrow _ _ _ c f => some (Vec.convDst f.toNat c.toNat, false)
  | .vnarrowSat _ _ _ c f => some (Vec.convDst f.toNat c.toNat, false)
  | .vqnt _ _ _ c _ => some (c.toNat, true)
  | _ => none

/-- Whether the widths of a conversion have a ratio that its instruction allows (R332). -/
def ratioOk (i : Instr) (src dst : Nat) : Bool :=
  let s := Vec.convWidth src
  let d := Vec.convWidth dst
  match i with
  | .vcvt _ _ _ _ _ _ => d = s
  | .vcvtSat _ _ _ _ _ _ => d = s
  | .vwiden _ _ _ _ _ => d = 2 * s || d = 4 * s
  | .vnarrow _ _ _ _ _ => s = 2 * d || s = 4 * d
  | .vnarrowSat _ _ _ _ _ => s = 2 * d || s = 4 * d
  | _ => s = d || s = 2 * d || s = 4 * d

/-- Whether a conversion's destination is one that R332 or R334 allows. -/
def convOk (i : Instr) (src : Elem) (fs : Nat) : Bool :=
  match vConv i with
  | none => true
  | some (code, quant) =>
    match elemOf code with
    | none => false
    | some dst =>
      (if quant then fs = 3 && scaleAllowed code else (match dst with | .sx _ => false | .e8m0 => false | _ => true)) &&
        ratioOk i src.width dst.width

/-- The fs field of a conversion. -/
def convFs (i : Instr) : Nat :=
  match i with
  | .vqnt _ _ _ _ f => f.toNat
  | _ => 0

/-- The element format and rounding mode of an instruction in a slot; none where a format or mode traps ILLEGAL with DETAIL 2
(R35, R47, R238, R321). An instruction that acts on no element has F32 and rn. -/
def vecFormat (i : Instr) (vfmt rmode : Word) : Option (Elem × Bool × Rnd) :=
  match vKind i with
  | none => some (.float fF32, false, .rn)
  | some k =>
    match vecDescriptor vfmt k.fs, vecMode rmode k.rnd with
    | some (el, sc), some m =>
      if k.classes.contains (classOf el sc) && k.widths.contains el.width && convOk i el (convFs i) then some (el, sc, m)
      else none
    | _, _ => none

/-- Registers of a group of a conversion. -/
def groupOf (wide narrow : Nat) : Nat := Vec.convWidth wide / Vec.convWidth narrow

/-- Width of a conversion's destination. -/
def dstWidth (i : Instr) : Nat :=
  match vConv i with
  | some (code, _) => (match elemOf code with | some e => e.width | none => 8)
  | none => 8

/-- A scaled operand is a pair (R322). -/
def pairOf (scaled : Bool) : Nat := if scaled then 2 else 1

/-- What an instruction names, under its element format. -/
def vForm (i : Instr) (el : Elem) (scaled : Bool) : VForm :=
  let bin (d a b : BitVec 5) (p : BitVec 3) : VForm := ⟨[(a.toNat, 1), (b.toNat, 1)], [(d.toNat, 1)], [p.toNat], none, [], none⟩
  let un (d a : BitVec 5) (p : BitVec 3) : VForm := ⟨[(a.toNat, 1)], [(d.toNat, 1)], [p.toNat], none, [], none⟩
  let tern (d a b : BitVec 5) (p : BitVec 3) : VForm :=
    ⟨[(a.toNat, 1), (b.toNat, 1), (d.toNat, 1)], [(d.toNat, 1)], [p.toNat], none, [], none⟩
  let prd (d : BitVec 3) (ps : List Nat) : VForm := ⟨[], [], ps, some d.toNat, [], none⟩
  let w := el.width
  match i with
  | .vadd _ d a b p _ => bin d a b p
  | .vsub _ d a b p _ => bin d a b p
  | .vmul _ d a b p _ => bin d a b p
  | .vfma _ d a b p _ => tern d a b p
  | .vfms _ d a b p _ => tern d a b p
  | .vdiv _ d a b p _ => bin d a b p
  | .vsqrt _ d a p _ => un d a p
  | .vrcp _ d a p _ => un d a p
  | .vrsqrt _ d a p _ => un d a p
  | .vsum _ d a p _ => un d a p
  | .vdot _ d a b p _ =>
    ⟨[(a.toNat, pairOf scaled), (b.toNat, pairOf scaled), (d.toNat, 1)], [(d.toNat, 1)], [p.toNat], none, [], none⟩
  | .vcvt _ d a _ p _ => ⟨[(a.toNat, pairOf scaled)], [(d.toNat, 1)], [p.toNat], none, [], none⟩
  | .vcvtSat _ d a _ p _ => ⟨[(a.toNat, pairOf scaled)], [(d.toNat, 1)], [p.toNat], none, [], none⟩
  | .vwiden _ d a _ _ => ⟨[(a.toNat, pairOf scaled)], [(d.toNat, groupOf (dstWidth i) w)], [], none, [], none⟩
  | .vnarrow _ d a _ _ => ⟨[(a.toNat, groupOf w (dstWidth i))], [(d.toNat, 1)], [], none, [], none⟩
  | .vnarrowSat _ d a _ _ => ⟨[(a.toNat, groupOf w (dstWidth i))], [(d.toNat, 1)], [], none, [], none⟩
  | .vqnt _ d a _ _ => ⟨[(a.toNat, groupOf w (dstWidth i))], [(d.toNat, 2)], [], none, [], none⟩
  | .vscale _ d a b p _ => bin d a b p
  | .vmin d a b p _ => bin d a b p
  | .vmax d a b p _ => bin d a b p
  | .vabs d a p _ => un d a p
  | .vneg d a p _ => un d a p
  | .vmaxr d a p _ => un d a p
  | .vminr d a p _ => un d a p
  | .vexp2 d a p _ => un d a p
  | .vlog2 d a p _ => un d a p
  | .vexp d a p _ => un d a p
  | .vlog d a p _ => un d a p
  | .vtanh d a p _ => un d a p
  | .vsigm d a p _ => un d a p
  | .vcmp d a b p _ _ => ⟨[(a.toNat, 1), (b.toNat, 1)], [], [p.toNat], some d.toNat, [], none⟩
  | .vsel d a b p _ => bin d a b p
  | .vand d a b p _ => bin d a b p
  | .vor d a b p _ => bin d a b p
  | .vxor d a b p _ => bin d a b p
  | .vnot d a p _ => un d a p
  | .vshl d a b p _ => bin d a b p
  | .vshr d a b p _ => bin d a b p
  | .vsar d a b p _ => bin d a b p
  | .vperm d a b p _ => ⟨[(a.toNat, 1), (b.toNat, if w = 8 then 2 else 1)], [(d.toNat, 1)], [p.toNat], none, [], none⟩
  | .vbcast d a p _ => ⟨[], [(d.toNat, 1)], [p.toNat], none, [a.toNat], none⟩
  | .vext d a b _ => ⟨[(a.toNat, 1)], [], [], none, [b.toNat], some d.toNat⟩
  | .vins d a b _ => ⟨[(d.toNat, 1)], [(d.toNat, 1)], [], none, [a.toNat, b.toNat], none⟩
  | .pand d a b => prd d [a.toNat, b.toNat]
  | .por d a b => prd d [a.toNat, b.toNat]
  | .pxor d a b => prd d [a.toNat, b.toNat]
  | .pnot d a => prd d [a.toNat]
  | .pcnt d a => ⟨[], [], [a.toNat], none, [], some d.toNat⟩
  | .pfirst d a => ⟨[], [], [a.toNat], none, [], some d.toNat⟩
  | .vld d a b => ⟨[], [(d.toNat, 1)], [], none, [a.toNat, b.toNat], none⟩
  | .vst d a b => ⟨[(d.toNat, 1)], [], [], none, [a.toNat, b.toNat], none⟩
  | .vlds d a b p _ => ⟨[], [(d.toNat, 1)], [p.toNat], none, [a.toNat, b.toNat], none⟩
  | .vgath d a b p _ => ⟨[(b.toNat, 32 / w)], [(d.toNat, 1)], [p.toNat], none, [a.toNat], none⟩
  | .vscat d a b p _ => ⟨[(d.toNat, 1), (b.toNat, 32 / w)], [], [p.toNat], none, [a.toNat], none⟩
  | _ => ⟨[], [], [], none, [], none⟩

/-- The registers of groups. -/
def groupRegs (gs : List (Nat × Nat)) : List Nat := (gs.map (fun g => (List.range g.2).map (g.1 + ·))).flatten

/-- Whether an instruction writes every bit of its destination, whatever its predicate (R329, R330, R336, R337). -/
def writesWhole (i : Instr) : Bool :=
  match i with
  | .vsum _ _ _ _ _ => true
  | .vmaxr _ _ _ _ => true
  | .vminr _ _ _ _ => true
  | .vdot _ _ _ _ _ _ => true
  | .vcmp _ _ _ _ _ _ => true
  | .vsel _ _ _ _ _ => true
  | _ => false

/-- The vector registers that an instruction reads: its destination too where it keeps its bits in inactive lanes (R323). -/
def readRegs (i : Instr) (f : VForm) : List Nat :=
  groupRegs (f.vs ++ (if f.ps.any (· ≠ 0) && !writesWhole i then f.vd else []))

/-- A group starts at a multiple of its size (R63). -/
def groupsAligned (gs : List (Nat × Nat)) : Bool := gs.all (fun g => g.2 ≠ 0 && g.1 % g.2 = 0)

/-- Two groups share a register. -/
def groupsMeet (g h : Nat × Nat) : Bool := decide (g.1 < h.1 + h.2) && decide (h.1 < g.1 + g.2)

/-- The destination group that overlaps a source group partly, if one does (R63, R322). -/
def partOverlap (f : VForm) : Option Nat :=
  (f.vd.find? (fun d => f.vs.any (fun g => groupsMeet g d && g ≠ d))).map (·.1)

/-- Issue checks of R326 up to REG-OVERLAP: the format and mode, or the trap (DEDUCED, notes/assumptions/29.md). -/
def vecCheck (i : Instr) (x : Slot) : Except Halt (Elem × Bool × Rnd × VForm) :=
  match vecFormat i x.vfmt x.rmode with
  | none => .error (illegal i 2)
  | some (el, sc, m) =>
    let f := vForm i el sc
    if !groupsAligned f.vs || !groupsAligned f.vd then .error (illegal i 1)
    else do
      boundV x (groupRegs f.vd)
      boundV x (groupRegs f.vs)
      boundS x (f.sd.toList ++ f.ss)
      match partOverlap f with
      | some d => .error (.trap cRegOverlap 0 (wrap64 d))
      | none => .ok (el, sc, m, f)

/-- Vector registers that a queued instruction has yet to read (R324). -/
def VEntry.reads (e : VEntry) : List Nat :=
  match vecFormat e.item.instr e.item.vfmt e.item.rmode with
  | some (el, sc, _) => groupRegs (vForm e.item.instr el sc).vs
  | none => []

/-- Predicates that a queued instruction has yet to read. -/
def VEntry.readsP (e : VEntry) : List Nat :=
  match vecFormat e.item.instr e.item.vfmt e.item.rmode with
  | some (el, sc, _) => (vForm e.item.instr el sc).ps
  | none => []

/-- Whether a queued vector instruction of a slot has yet to read one of some vector registers (R324). -/
def vecReader (s : State) (sid : Nat) (rs : List Nat) : Bool :=
  (s.core (coreOf sid)).vq.any (fun e => e.sid = sid && rs.any (fun r => e.reads.contains r))

/-- Whether a queued vector instruction of a slot has yet to read a predicate. -/
def predReader (s : State) (sid p : Nat) : Bool :=
  (s.core (coreOf sid)).vq.any (fun e => e.sid = sid && e.readsP.contains p)

/-- An instruction that would write vector registers waits for the queued readers of them (R324). -/
def vecWriters (s : State) (sid : Nat) (rs : List Nat) : Except Halt Unit := guardH (!vecReader s sid rs) .hold

/-- Address of a queued `vld` or `vst`: its base with the replay's step folded in (R341). -/
def VEntry.access (e : VEntry) : Option (Word × Bool) :=
  match e.item.instr with
  | .vld _ _ _ => some (e.item.x, false)
  | .vst _ _ _ => some (e.item.x, true)
  | _ => none

end Sys2Proof.Machine
end

