-- ==== Sys2Proof/Machine/Access.lean ====
section
/-! DEFINITION. Accesses: the checks at issue, where an access goes first, what it does at a local memory, what its answer does to
its slot, vector instruction or block (spec/14_ref_memory.md R271-R293, spec/04_memories.md R85-R111, spec/16_ref_vector.md
R343-R345). -/

namespace Sys2Proof.Machine

/-! ## Checks at issue (R271-R275) -/

namespace MemOp

/-- Alignment of an operation (R272). -/
def align : MemOp → Nat
  | .lineCst _ _ _ => 128
  | op => op.size

/-- Whether an operation counts in UNACK (R71). -/
def counts : MemOp → Bool
  | .load _ _ => false
  | .lds => false
  | .ldw => false
  | .feq => false
  | .lineRd => false
  | _ => true

/-- Where an operation may go (R271); rights and ATTR of the lower half are checked with the translation. -/
def allowedIn (op : MemOp) (sp : Space) : Bool :=
  match sp with
  | .outside => false
  | .own _ => (match op with | .lineRd => false | .lineCst _ _ _ => false | _ => true)
  | .remote _ _ => (match op with | .lineRd => false | .lineCst _ _ _ => false | _ => true)
  | .commons _ => (match op with | .load _ _ => true | .store _ _ => true | _ => false)
  | .lower =>
    (match op with
     | .lds => false | .ldw => false | .sts _ => false | .fefill _ => false | .feempty => false | .feq => false
     | _ => true)
  | .priv _ => (match op with | .load n _ => n = 8 | .store n _ => n = 8 | _ => false)

/-- Whether an operation is a plain store. -/
def isStore : MemOp → Bool
  | .store _ _ => true
  | _ => false

/-- Whether an operation is a plain load. -/
def isLoad : MemOp → Bool
  | .load _ _ => true
  | _ => false

end MemOp

/-- What a memory instruction asks at its address: destination (scalar below 64, vector from 64), operation, ordering, scope,
whether it may be unaligned in the lower half. -/
structure Want where
  dst : Option Nat
  op : MemOp
  acq : Bool
  rel : Bool
  scope : Nat
  plain : Bool
  deriving DecidableEq, Repr

/-- PRIV of an access to the privileged aperture below level Y (R86). -/
def privOr (s : State) (i : Instr) (ea : Word) : Except Halt Unit :=
  guardH (!(canonical ea && inPriv ea) || s.levelY s.cur) (.trap cPriv 0 (instrWord i))

/-- Whether a commons offset's bank is a hole for the partition of a cell (R97). -/
def holeAt (s : State) (cell o : Nat) : Bool :=
  let pl := commonsPlace s (s.partN cell) (dieOf cell) o
  isHole s (dieOf cell) pl.1 pl.2.1

/-- The checks that an access meets before it leaves the core, in the order of R275 after PRIV, and the space it goes to. -/
def addrCheck (s : State) (ea : Word) (w : Want) : Except Halt Space := do
  let cell := cellOfSlot s.cur
  let upper := canonical ea && ea.getLsbD 56
  guardH (alignedTo ea w.op.align || (w.plain && !upper)) (.trap cMisalign (sizeCode w.op.align) ea)
  canonicalOr ea w.op.kind
  let sp := spaceOf s cell ea
  guardH (w.op.allowedIn sp) (.trap cAccess 0 ea)
  match sp with
  | .commons o =>
    guardH (!(w.op.isStore && holeAt s cell o)) (.trap cMachineCheck 0 ea)
    return sp
  | _ => return sp

/-- Requests at a core position's commons queue or on their way to it: the spec speaks of a full queue, and one that is on its
way counts here (R96; DESIGN CHOICE, notes/assumptions/89.md). -/
def commonsPending (s : State) (d pos : Nat) : Nat :=
  (s.flight.filter (fun a => a.stage = .crossing d pos || a.stage = .commons d pos)).length

/-- A scalar commons request to a full queue parks (R96). -/
def commonsRoom (s : State) (sp : Space) : Except Halt Unit :=
  match sp with
  | .commons _ =>
    guardH (decide (commonsPending s (dieOf (cellOfSlot s.cur)) (wheelPos (coreOf s.cur)) < Config.commonsQueue)) (.park .commons)
  | _ => .ok ()

/-- Whether an earlier vector access of a slot that has not started touches a location of some bytes: a queued `vld` or `vst`, or
one of a replay that is still to be queued (R345, R348). -/
def vecPending (s : State) (sid : Nat) (ea : Word) (n : Nat) : Bool :=
  let cell := cellOfSlot sid
  let hits (i : Instr) (a : Word) : Bool :=
    match i with
    | .vld _ _ _ => runsMeet s cell ea n a 512
    | .vst _ _ _ => runsMeet s cell ea n a 512
    | _ => false
  (s.core (coreOf sid)).vq.any (fun e => e.sid = sid && !e.forked && hits e.item.instr e.item.x) ||
    (match (s.slot sid).replay with
     | some r => (List.range (r.count - r.k)).any (fun n => r.body.any (fun it => hits it.instr (it.x + wrap64 (r.k + n) * it.y)))
     | none => false)

/-- Whether an access that a slot is about to make touches a location of one of its accesses that is not yet performed. -/
def pendingOverlap (s : State) (sid : Nat) (a : Access) : Bool :=
  s.flight.any (fun b => b.slotOf s = some sid && b.pending && sameLocation s a b)

/-! ## Where an access goes first -/

/-- Offset in a cell's local memory of an own-cell or remote aperture address. -/
def localOff (va : Word) : Nat := bits va 20 0

/-- Pairings of positions 14 and 15 with the bank of an offset, the sooner one first (R90). -/
def portPairings (s : State) (cell o : Nat) : List Turn :=
  let t := pairTime s cell 14 o
  let u := pairTime s cell 15 o
  let a := Turn.event (.localPairing cell 14 t)
  let b := Turn.event (.localPairing cell 15 u)
  if t ≤ u then [a, b] else [b, a]

/-- Queues an access at a position of its own cell's wheel; 14 is the copy port, whose two positions serve it (R90). -/
def startOwn (s : State) (a : Access) (pos : Nat) : State :=
  if pos < 14 then (s.launch { a with stage := .wheel a.cell pos }).pushE (.localPairing a.cell pos (pairTime s a.cell pos (localOff a.va)))
  else (s.launch { a with stage := .port a.cell }).push (portPairings s a.cell (localOff a.va))

/-- The L1 line that an access within one line may use (R99): not for an acquire at package or system scope (R131), nor past an
older access to the same location (R120). -/
def l1Line (s : State) (sid : Nat) (a : Access) : Option L1Line :=
  if a.va.toNat % 128 + a.op.size ≤ 128 && !(a.acq && decide (4 ≤ a.scope)) then
    match L1.find (s.core a.core) (s.casid a.cell) a.va.toNat with
    | some l =>
      let b := { a with stage := .slice (dieOf a.cell), pa := 128 * l.pa + a.va.toNat % 128, key := l.key }
      if (isSystem (128 * l.pa) && !s.linkUp) || pendingOverlap s sid b then none else some l
    | none => none
  else none

/-- Sends a lower-half access out: a load that hits the L1 is answered, a store that hits a writable line goes to its slice,
everything else to the translation unit (R99, R100). The core's own line takes a store where the slice serialises it, so that no
slot of the core reads it before the accesses that it is ordered after (R123, R124; DEDUCED, notes/assumptions/95.md). -/
def startLower (s : State) (sid : Nat) (a : Access) : State :=
  let va := a.va.toNat
  let out : State := (s.launch { a with stage := .walk (dieOf a.cell) }).pushE (.translationWalk s.nextId)
  match a.op, (if a.poison.isSome then none else l1Line s sid a) with
  | .load n _, some l =>
    ((s.modCore a.core (fun c => L1.hit c (s.casid a.cell) va)).launch
      { a with stage := .reply (.value (lineBytes l.data (va % 128) n)) }).pushE (.loadReturn s.nextId)
  | .store _ _, some l =>
    if l.wr then
      ((s.modCore a.core (fun c => L1.hit c (s.casid a.cell) va)).launch
        { a with stage := .slice (dieOf a.cell), pa := 128 * l.pa + va % 128, key := l.key, attr := 4 }).pushE
        (.sliceWriteSerialise s.nextId)
    else out
  | _, _ => out

/-- Sends an access to its space (DEDUCED, notes/assumptions/30.md). -/
def startAccess (s : State) (sid : Nat) (a : Access) (sp : Space) (pos : Nat) : State :=
  let id := s.nextId
  let d := dieOf a.cell
  match sp with
  | .own _ => startOwn s a pos
  | .remote c _ => (s.launch { a with stage := .lattice c }).pushE (.remoteAccessArrival id)
  | .commons _ => (s.launch { a with stage := .crossing d (wheelPos a.core) }).pushE (.commonsQueueEntry id)
  | .lower => startLower s sid a
  | .priv off =>
    (s.launch { a with stage := .priv, pa := off }).pushE (if a.op.isStore then .sliceWriteSerialise id else .sliceReadMiss id)
  | .outside => s

/-- Whether a store's verdict falls at its issue (R274). -/
def verdictAtIssue (s : State) (sid : Nat) (a : Access) (sp : Space) : Bool :=
  a.op.isStore &&
    (match sp with
     | .own _ => true
     | .commons _ => true
     | .priv _ => true
     | .lower => a.poison.isNone && (match l1Line s sid a with | some l => l.wr | none => false)
     | _ => false)

/-- An access of a slot, with nothing translated. -/
def newAccess (sid : Nat) (src : Src) (op : MemOp) (ea : Word) (acq rel : Bool) (scope : Nat) : Access :=
  { id := 0, cell := cellOfSlot sid, core := coreOf sid, src := src, op := op, va := ea, acq := acq, rel := rel, scope := scope
    pa := 0, key := 0, pa2 := 0, key2 := 0, attr := 0, stage := .held, entered := 0, poison := none }

/-- Waits until the current slot's earlier accesses to n bytes at an address are performed (R120, R121). -/
def bytesQuiet (s : State) (ea : Word) (n : Nat) : Except Halt Unit :=
  let run := newAccess s.cur (.blk 0 0 0) (.load n false) ea false false 0
  guardH (!pendingOverlap s s.cur run && !vecPending s s.cur ea n) .hold

/-- The scalar register whose F a sync-read takes, if it takes one (DEDUCED, notes/assumptions/27.md). -/
def takenOf (x : Slot) (base : Nat) (m : Bool) : List Nat := if m && base ≠ 0 then [x.takenS base] else []

/-- The slot as an access leaves it: the base's F taken, the destination owed, UNACK raised, the next instruction; it waits
for the verdict unless that has fallen (R64, R71, R274). -/
def issuedSlot (x : Slot) (base : Nat) (m : Bool) (w : Want) (await : Option Nat) : Slot :=
  let y := x.take base m
  let y := match w.dst with | some d => y.oweD d | none => y
  let y := if w.op.counts then raiseUnack y else y
  { y with pc := y.pc + 4#64, await := await, tries := 0 }

/-- Whether nothing but MACHINE-CHECK can befall an operation once its address is judged at issue: a plain access to own-cell
local memory, to the commons or to a privileged register (R274, R275). -/
def judgedAtIssue (op : MemOp) (sp : Space) : Bool :=
  match sp with
  | .own _ => op.isLoad || op.isStore
  | .commons _ => true
  | .priv _ => true
  | _ => false

/-- Issue of a memory instruction of the current slot: `regs` and `vregs` are its scalar and vector registers in order, `ea` makes
the address from the base, `want` reads the other operands, `bad` is a register in error among those read (R271-R276). A register
in error traps after every other cause (R82): at once where no other is left, else where the access is judged. -/
def issueMem (i : Instr) (regs vregs : List Nat) (base : Nat) (m : Bool) (ea : Word → Word)
    (want : Slot → Except Halt Want) (bad : Slot → Option Nat) (s : State) : Res := do
  let sid := s.cur
  let x := s.slot sid
  (if base < x.ns && x.sF base then privOr s i (ea (x.sval base)) else .ok ())
  boundS x regs
  boundV x vregs
  let b ← peekS x base
  let w ← want x
  (match w.dst with | some d => do freeD x d; (if d < 64 then .ok () else vecWriters s sid [d - 64]) | none => .ok ())
  let sp ← addrCheck s (ea b) w
  (match bad x with
   | some r => guardH (!judgedAtIssue w.op sp) (.trap cMachineCheck 1 (wrap64 r))
   | none => .ok ())
  (if w.op.counts then unackRoom x else .ok ())
  commonsRoom s sp
  guardH (!vecPending s sid (ea b) w.op.size) .hold
  let src := Src.slot sid x.gen x.pc w.dst (match w.dst with | some d => x.fullD d | none => true) (takenOf x base m) w.op.counts
  let a := { newAccess sid src w.op (ea b) w.acq w.rel w.scope with poison := bad x }
  let await := if verdictAtIssue s sid a sp then none else some s.nextId
  return startAccess (s.setSlot sid (issuedSlot x base m w await)) sid a sp (coreOf sid % 4)

/-! ## At a local memory (R280, R283-R285) -/

/-- Result of an atomic on an n-byte word (R283). -/
def amoNew (op : AmoOp) (n old v : Nat) : Nat :=
  let w := 8 * n
  match op with
  | .add => (old + v) % 2 ^ w
  | .and => old &&& v
  | .or => old ||| v
  | .xor => old ^^^ v
  | .min => if signedN w old ≤ signedN w v then old else v
  | .max => if signedN w old ≥ signedN w v then old else v
  | .minu => if old ≤ v then old else v
  | .maxu => if old ≥ v then old else v
  | .swap => v
  | .fadd => (fadd32 old v).1

/-- Sets F of the word at an offset. -/
def setWordFull (s : State) (cell o : Nat) (b : Bool) : State := s.modCell cell (fun c => Loc.setFull c o b)

/-- A word of a cell's local memory is filled or emptied by a thread: what a join filled there is no matter any longer (R125). -/
def forgetJoin (s : State) (cell o : Nat) : State :=
  s.modCell cell (fun c => { c with joined := c.joined.filter (· ≠ Loc.wordAt c o) })

/-- One access at a cell's local memory, in one step: its answer and the memory after it. Every one consults the frame's entry
(R172; what a plain store that finds it in error does: DEDUCED, notes/assumptions/94.md). -/
def performLocal (s : State) (cell o : Nat) (op : MemOp) : Reply × State :=
  let bad (n : Nat) : Bool := localErr s cell o n
  let full : Bool := Loc.full (s.cell cell) o
  if entryErr s cell o then (.machine, s)
  else match op with
  | .load n _ => if bad n then (.machine, s) else (.value (localRead s cell o n), s)
  | .store n v => (.done, localWrite s cell o n v)
  | .lds =>
    if !full then (.refused, s)
    else if bad 8 then (.machine, s)
    else (.value (localRead s cell o 8), forgetJoin (setWordFull s cell o false) cell o)
  | .ldw => if !full then (.refused, s) else if bad 8 then (.machine, s) else (.value (localRead s cell o 8), s)
  | .sts v => if full then (.refused, s) else (.done, forgetJoin (setWordFull (localWrite s cell o 8 v) cell o true) cell o)
  | .fefill v => (.done, forgetJoin (setWordFull (localWrite s cell o 8 v) cell o true) cell o)
  | .feempty => (.done, forgetJoin (setWordFull s cell o false) cell o)
  | .feq => (.value full.toNat, s)
  | .amo op n v =>
    if bad n then (.machine, s)
    else
      let old := localRead s cell o n
      (.value old, localWrite s cell o n (amoNew op n old v))
  | .cas n e w =>
    if bad n then (.machine, s)
    else
      let old := localRead s cell o n
      (.value old, if old = e then localWrite s cell o n w else s)
  | .lineRd => (.access, s)
  | .lineCst _ _ _ => (.access, s)

/-! ## Forwarding (R162) -/

/-- Whether a full/empty operation would be refused where it stands (R280). -/
def refusedBy (s : State) (cell o : Nat) (op : MemOp) : Bool :=
  match op with
  | .lds => !Loc.full (s.cell cell) o
  | .ldw => !Loc.full (s.cell cell) o
  | .sts _ => Loc.full (s.cell cell) o
  | _ => false

/-- The slot that a reply or message for a slot of a generation reaches: itself, or where forwarding entries send it. Every hop
takes an entry of its own, so that the number of entries bounds the hops (R162). -/
def resolveFuel : Nat → State → Nat → BitVec 8 → Option Nat
  | 0, _, _, _ => none
  | n + 1, s, sid, gen =>
    match (s.core (coreOf sid)).fwd.find? (fun f =>
        decide (s.fcyc (dieOf (cellOfSlot sid)) < f.expires) && f.oslot = slotIx sid && f.ogen = gen) with
    | some f => resolveFuel n s f.target f.tgen
    | none => if (s.slot sid).gen = gen && (s.slot sid).isLive then some sid else none

def resolveSlot (s : State) (sid : Nat) (gen : BitVec 8) : Option Nat :=
  resolveFuel (s.cores.foldl (fun n q => n + q.2.fwd.length) 1) s sid gen

/-- An arrival ends a `wfi`, and the slot goes on at the next instruction (R316). -/
def wakeSlot (x : Slot) : Slot :=
  if x.park = some .wfi then { x with park := none, pc := x.pc + 4#64 } else x

/-- Whether a slot is being filled by the punty or by a register context: what is sent to it waits. -/
def inTransit (s : State) (sid : Nat) : Bool := (s.slot sid).status = .restoring

/-! ## Answers of scalar accesses (R274, R281) -/

/-- The slot as before the issue of an access: destination, taken registers, UNACK and PC (R82). -/
def undoIssue (x : Slot) (pc : Word) (dst : Option Nat) (oldF : Bool) (cons : List Nat) (counts : Bool) : Slot :=
  let x := match dst with | some d => x.unoweD d oldF | none => x
  let x := x.restoreTaken cons
  let x := if counts then lowerUnack x else x
  { x with pc := pc, await := none, tries := 0 }

/-- Whether a slot still runs its task: live, or stopped for a spill or a migration that has not ended. -/
def Slot.goesOn (x : Slot) : Bool :=
  match x.status with
  | .live => true
  | .spilling _ => true
  | .moving _ _ => true
  | _ => false

/-- The value that a load writes (R276, R279). -/
def loadValue (op : MemOp) (v : Nat) : Word :=
  match op with
  | .load n true => BitVec.ofInt 64 (signedN (8 * n) v)
  | _ => wrap64 v

/-- An access has been answered well: its value arrives, UNACK falls, the slot goes on (R66, R192). -/
def completeAccess (s : State) (a : Access) (sid : Nat) (dst : Option Nat) (counts : Bool) (v : Nat) : State :=
  s.modSlot sid (fun x =>
    let x := match dst with
      | some d => if d < 64 then x.fillS d (loadValue a.op v) else x.fillV (d - 64) (BitVec.ofNat 4096 v)
      | none => x
    let x := if counts then { lowerUnack x with park := if x.park = some .unack then none else x.park } else x
    wakeSlot { x with await := if x.await = some a.id then none else x.await, tries := 0 })

/-- A trap at an access that the slot is waiting for, or the withdrawal of the access where the slot has stopped. -/
def trapAccess (s : State) (sid : Nat) (x : Slot) (cause detail : Nat) (tval : Word) : State :=
  if x.goesOn then takeTrap (s.setSlot sid x) sid cause detail tval false else s.setSlot sid x

/-- The trap that a bad answer makes: cause, DETAIL, TVAL. -/
def replyTrap (a : Access) (r : Reply) : Option (Nat × Nat × Word) :=
  match r with
  | .value _ => none
  | .done => none
  | .refused => none
  | .window d => some (cWindow, d, a.va)
  | .page d t => some (cPage, d, t)
  | .access => some (cAccess, 0, a.va)
  | .machine => some (cMachineCheck, 0, a.va)
  | .misalign => some (cMisalign, sizeCode a.op.align, a.va)
  | .register r => some (cMachineCheck, 1, wrap64 r)

/-- A refusal by the full/empty state: the slot is as before the issue and parks, or traps SYNC-TIMEOUT at its limit
(R4, R281). -/
def refuseAccess (s : State) (a : Access) (sid : Nat) (pc : Word) (dst : Option Nat) (oldF : Bool) (cons : List Nat)
    (counts : Bool) : State :=
  let x := s.slot sid
  let y := undoIssue x pc dst oldF cons counts
  let lim := bits x.parklim 31 0
  if !x.goesOn then (s.dropAccess a.id).setSlot sid y
  else if lim ≠ 0 && x.tries + 1 = lim then trapAccess (s.dropAccess a.id) sid y cSyncTimeout 0 a.va
  else (s.setAccess { a with stage := .held }).setSlot sid { y with tries := x.tries + 1, park := some .refused }

/-- The answer of a slot's access comes back. A store whose verdict had fallen cannot trap any more (R277). -/
def settleSlot (s : State) (a : Access) (r : Reply) (sid0 : Nat) (gen : BitVec 8) (pc : Word) (dst : Option Nat) (oldF : Bool)
    (cons : List Nat) (counts : Bool) : State :=
  match resolveSlot s sid0 gen with
  | none => s.dropAccess a.id
  | some sid =>
    match r with
    | .value v => completeAccess (s.dropAccess a.id) a sid dst counts v
    | .done => completeAccess (s.dropAccess a.id) a sid none counts 0
    | .refused => refuseAccess s a sid pc dst oldF cons counts
    | r =>
      if (s.slot sid).await = some a.id then
        match replyTrap a r with
        | some t => trapAccess (s.dropAccess a.id) sid (undoIssue (s.slot sid) pc dst oldF cons counts) t.1 t.2.1 t.2.2
        | none => s.dropAccess a.id
      else completeAccess (s.dropAccess a.id) a sid none counts 0

/-! ## Answers of vector units (R343, R344, R348) -/

def State.vrunOf (s : State) (core vid : Nat) : Option VRun := (s.core core).vrun.find? (fun r => r.vid = vid)

def modRun (s : State) (core vid : Nat) (f : VRun → VRun) : State :=
  s.modCore core (fun c => { c with vrun := c.vrun.map (fun r => if r.vid = vid then f r else r) })

/-- Takes a started vector access and its units out. -/
def dropRun (s : State) (core vid : Nat) : State :=
  let s := s.modCore core (fun c => { c with vrun := c.vrun.filter (fun r => r.vid ≠ vid) })
  { s with flight := s.flight.filter (fun a => match a.src with | .vec k v _ _ => !(k = core && v = vid) | _ => true) }

/-- The slot as before the issue of a vector access. -/
def undoRun (x : Slot) (r : VRun) : Slot :=
  undoIssue x r.pc (r.vw.head?.map (fun q => 64 + q.1)) r.oldF [] r.store

/-- A vector memory instruction of a forked program that writes nothing: its destination is as before, UNACK falls (R305). -/
def undoForked (s : State) (core : Nat) (r : VRun) : State :=
  (dropRun s core r.vid).modSlot r.sid (fun x =>
    let x := match r.vw.head? with | some q => x.unoweV q.1 r.oldF | none => x
    if r.store then lowerUnack x else x)

/-- Whether instructions of a forked vector program of a core, or their accesses, are not complete: its end is a release (R125). -/
def programPending (s : State) (core : Nat) : Bool :=
  (s.core core).vq.any (·.forked) || (s.core core).vrun.any (·.forked)

/-- The forked vector program of a core has ended: its status, the index of its last word, a cause (R306). -/
def closeVector (s : State) (core st cause : Nat) : State :=
  match (s.core core).seqV with
  | none => s
  | some q =>
    (s.modCore core (fun c => { c with seqV := none })).modSlot q.sid (fun x =>
      if x.gen = q.gen then
        { x with fork := x.fork.map (fun f =>
            { f with vst := st, vfail := if st = 1 then f.vfail else q.next - 1, cause := if st = 5 then cause else f.cause }) }
      else x)

/-- Ends the forked vector program of a core, once the instructions before the one that ends it are complete: its end is their
release (R125, R306). -/
def endVector (s : State) (core st cause : Nat) : State :=
  if programPending s core then
    (s.modCore core (fun c => { c with seqV := c.seqV.map (fun q => { q with await := none, ending := some (st, cause) }) })).pushE
      (.forkedVectorIssue (core / 4) (core % 4))
  else closeVector s core st cause

/-- The forked vector program of a core is to issue its last word again. -/
def rewindVector (s : State) (core : Nat) : State :=
  s.modCore core (fun c => { c with seqV := c.seqV.map (fun q => { q with next := q.next - 1, await := none }) })

/-- Whether the forked vector program of a core waits for the verdict of a vector memory instruction. -/
def progAwaits (s : State) (core vid : Nat) : Bool :=
  match (s.core core).seqV with
  | some q => q.await = some vid
  | none => false

/-- The verdict of a vector memory instruction has been reached: whoever waits for it goes on (R344). -/
def vecVerdict (s : State) (core vid : Nat) : State :=
  match s.vrunOf core vid with
  | none => s
  | some r =>
    if r.forked then
      if progAwaits s core vid then
        (s.modCore core (fun c => { c with seqV := c.seqV.map (fun q => { q with await := none }) })).pushE
          (.forkedVectorIssue (core / 4) (core % 4))
      else s
    else s.modSlot r.sid (fun x => { x with await := if x.await = some vid then none else x.await })

/-- Whether a vector store still waits for its verdict: a unit has yet to be translated, or travels to a remote cell
(R344). -/
def vecVerdictOpen (s : State) (core vid : Nat) : Bool :=
  s.flight.any (fun b =>
    (match b.src with | .vec k v _ _ => k = core && v = vid | _ => false) &&
    (match b.stage, spaceOf s b.cell b.va with
     | .walk _, _ => true
     | .reply r, sp => (replyTrap b r).isSome || (match sp with | .remote _ _ => true | _ => false)
     | _, .remote _ _ => true
     | _, _ => false))

/-- A unit has been served: `f` notes its data; with the last one the access completes. -/
def vecUnitDone (s : State) (core vid : Nat) (f : VRun → VRun) : State :=
  let s := modRun s core vid (fun r => { f r with owed := r.owed - 1 })
  match s.vrunOf core vid with
  | some r => if r.owed = 0 then s.pushE (.vectorComplete (core / 4) (core % 4) vid) else s
  | none => s

/-- Puts a unit's data into the register that a vector load will write. -/
def putUnit (lo n v : Nat) (r : VRun) : VRun :=
  { r with vw := r.vw.map (fun q =>
      let m := (2 ^ (8 * n) - 1) <<< lo
      (q.1, (q.2 &&& ~~~(BitVec.ofNat 4096 m)) ||| BitVec.ofNat 4096 ((v % 2 ^ (8 * n)) <<< lo))) }

/-- A unit that a replay stores from a register in error is written with failing check bits (R348). -/
def poisonUnit (s : State) (a : Access) (run : VRun) : State :=
  if run.err && run.store then markLocal s a.cell (localOff a.va) a.op.size else s

/-- The answer of a unit of a vector access comes back. -/
def settleVec (s : State) (a : Access) (r : Reply) (core vid lo : Nat) : State :=
  let s := s.dropAccess a.id
  match s.vrunOf core vid with
  | none => s
  | some run =>
    match r with
    | .value v => vecUnitDone s core vid (putUnit lo a.op.size v)
    | .done => vecUnitDone (poisonUnit s a run) core vid id
    | .refused => s
    | r =>
      if run.replayed then vecUnitDone s core vid (fun q => { q with err := true })
      else if run.forked then
        if progAwaits s core vid then
          match replyTrap a r with
          | some t => endVector (undoForked s core run) core 5 t.1
          | none => s
        else vecUnitDone s core vid id
      else if (s.slot run.sid).await = some vid then
        match replyTrap a r with
        | some t => trapAccess (dropRun s core vid) run.sid (undoRun (s.slot run.sid) run) t.1 t.2.1 t.2.2
        | none => s
      else vecUnitDone s core vid id

/-! ## Blocks (R288-R290) -/

def modBlk (s : State) (core bid : Nat) (f : Blk → Blk) : State :=
  s.modCore core (fun c => { c with blocks := c.blocks.map (fun b => if b.bid = bid then f b else b) })

def State.blkOf (s : State) (core bid : Nat) : Option Blk := (s.core core).blocks.find? (fun b => b.bid = bid)

/-- Notes a failing unit: HOLE before ECC, with the lowest index (R290). -/
def failUnit (code i : Nat) (b : Blk) : Blk :=
  if b.code = 0 then { b with code := code, unit := i }
  else { b with code := min b.code code, unit := min b.unit i }

/-- Frames of local memory whose sixteen units a block covers. -/
def wholeFrames (b : Blk) : List Nat :=
  ((List.range (b.count / 16 + 1)).map (fun i => (b.lunit + 15) / 16 + i)).filter
    (fun f => decide (b.lunit ≤ 16 * f) && decide (16 * f + 16 ≤ b.lunit + b.count))

/-- A block has ended: its token is sent, which is its release (R290). -/
def finishBlk (s : State) (core : Nat) (b : Blk) : State :=
  let s := s.modCore core (fun c => { c with blocks := c.blocks.filter (fun x => x.bid ≠ b.bid) })
  sendToken s core (slotIx b.sid) b.dreg b.gen (statusWord b.code 0#5 b.unit) b.wr b.scope

/-- Recomputes the frame of a unit under its FMT once the block has written all of its sixteen units (R289). -/
def frameDone (s : State) (core : Nat) (b : Blk) (i : Nat) : State :=
  let f := (b.lunit + i) / 16
  if (wholeFrames b).contains f && (b.landed.filter (fun j => decide ((b.lunit + j) / 16 = f))).length = 16 then
    s.modCell (core / 4) (fun c => Loc.reclass c (Loc.mapFrame c f))
  else s

/-- Ends a block whose units have all been served and landed; a turn-atomic write ends at its commit. -/
def blkCheck (s : State) (core bid : Nat) : State :=
  match s.blkOf core bid with
  | some b => if b.todo.isEmpty && b.landing = 0 && !(b.wr && b.atomic) then finishBlk s core b else s
  | none => s

/-- The local side of a block's unit. A write updates the directory as a copy's does (R289): in a frame that the block writes whole the
entry reads general from the first unit on, and its error is no matter (R171, R172). -/
def performUnit (s : State) (a : Access) (core bid i : Nat) : Reply × State :=
  match a.op, s.blkOf core bid with
  | .store n v, some b =>
    let f := (b.lunit + i) / 16
    if (wholeFrames b).contains f then
      (.done, localWrite (s.modCell a.cell (fun c => Loc.demote c (Loc.mapFrame c f))) a.cell (localOff a.va) n v)
    else performLocal s a.cell (localOff a.va) a.op
  | _, _ => performLocal s a.cell (localOff a.va) a.op

/-- The local side of a block's unit has been served: what was read is kept for the unit's meeting with the commons; of one in error
nothing is written there (R290). -/
def blkLocal (s : State) (a : Access) (core bid i : Nat) : State :=
  let r := performUnit s a core bid i
  let s := r.2.dropAccess a.id
  let s := modBlk s core bid (fun b =>
    let b := { b with landing := b.landing - 1 }
    match r.1 with
    | .value v => { b with snap := FMap.put b.snap i v }
    | .done => { b with landed := b.landed ++ [i] }
    | _ => failUnit 5 i b)
  let s := match s.blkOf core bid with | some b => if b.wr then s else frameDone s core b i | none => s
  blkCheck s core bid

/-- The answer of an access comes back to whoever made it. -/
def settle (s : State) (a : Access) (r : Reply) : State :=
  match a.src with
  | .slot sid gen pc dst oldF cons counts => settleSlot s a r sid gen pc dst oldF cons counts
  | .vec core vid _ lo => settleVec s a r core vid lo
  | .blk _ _ _ => s.dropAccess a.id

/-- A step of a cell's clock does nothing while that clock is stopped, and stays due (R187)
(DESIGN CHOICE, notes/assumptions/9.md). -/
def whenRunning (s : State) (cell : Nat) (ev : Instr) (t : State) : State :=
  if (clockStop (s.cell cell)).isSome then s.pushE ev else t

/-- A step of the fabric clock does nothing while that clock is stopped, and stays due (R187, R191). -/
def whenFabric (s : State) (d : Nat) (ev : Instr) (t : State) : State := if (s.fabricOf d).step.isSome then s.pushE ev else t

/-- Whether an access is a read of the commons by a cell's position: at its pairing it reserves its place in the cell's FIFO (R199). -/
def readsCommons (s : State) (a : Access) : Bool :=
  a.op.isLoad && (match spaceOf s a.cell a.va with | .commons _ => true | _ => false)

/-- Whether an access is a word of the commons on its way to the cell that has read it (R96, R199, R373). -/
def wordReturns (s : State) (a : Access) : Bool :=
  match a.src, a.stage with
  | .blk _ _ _, .lattice _ => true
  | _, .reply _ => readsCommons s a
  | _, _ => false

/-- The turn in which an access that is on its way arrives. -/
def arrivalTurn (a : Access) : Turn := .event (match a.stage with | .lattice _ => .remoteAccessArrival a.id | _ => homeEvent a)

/-- Bytes of a cell's inbound port FIFO that what has landed takes up, or that reads of the commons have reserved: 64 each (R199)
(DESIGN CHOICE, notes/assumptions/100.md). -/
def fifoBytes (s : State) (cell : Nat) : Nat :=
  let landed := (s.cell cell).fifo
  (landed.map (·.bytes)).foldl (· + ·) 0 +
    64 * (s.flight.filter (fun a => a.cell = cell && wordReturns s a && !landed.any (fun l => decide (l.turn = arrivalTurn a)))).length

/-- An arrival at a cell. While the cell's clock is stopped it lands in the inbound port FIFO if that has room, where an acknowledgement
takes none and what is `reserved` has it; without room no credit is granted, and it waits at its source (R199). -/
def whenPort (s : State) (cell : Nat) (l : Landed) (reserved : Bool) (t : State) : State :=
  if (clockStop (s.cell cell)).isNone then t
  else if l.ack || reserved || decide (fifoBytes s cell + l.bytes ≤ Config.portFifo) then
    s.modCell cell (fun c => { c with fifo := c.fifo ++ [l] })
  else s.push [l.turn]

/-- What has landed in a cell's inbound port FIFO is due at once: acknowledgements first, then the rest in order of arrival (R199). -/
def drainFifo (s : State) (cell : Nat) : State :=
  let l := (s.cell cell).fifo
  let ts := ((l.filter (·.ack)) ++ l.filter (fun x => !x.ack)).map (·.turn)
  { s.modCell cell (fun c => { c with fifo := [] }) with work := ts ++ s.work }

/-- Whether a lower unit or element of the same vector access has yet to be judged: they are judged in ascending order, and the
lowest that fails traps (R342). -/
def lowerUnjudged (s : State) (a : Access) : Bool :=
  match a.src with
  | .vec core vid i _ => s.flight.any (fun b => match b.src with
      | .vec k v j _ => k = core && v = vid && decide (j < i) && (match b.stage with
        | .walk _ => true
        | .lattice _ => true
        | .reply r => (replyTrap b r).isSome
        | _ => false)
      | _ => false)
  | _ => false

/-- Whether an answer waits: the slot that it goes to is still being filled from a register context (R161), or it is a trap
that waits for the slot's earlier vector instructions (R82, R342), or for the judgement of lower units. -/
def answerWaits (s : State) (a : Access) : Bool :=
  let bad := match a.stage with | .reply r => (replyTrap a r).isSome | _ => false
  match a.src with
  | .slot sid gen _ _ _ _ _ =>
    (match resolveSlot s sid gen with
     | some t => inTransit s t || (bad && decide ((s.slot t).await = some a.id) && vecOpen s t)
     | none => false)
  | .vec core vid _ _ =>
    (match s.vrunOf core vid with
     | some r => bad && !r.replayed && (lowerUnjudged s a || (!r.forked && vecOpen s r.sid))
     | none => false)
  | .blk _ _ _ => false

/-- The cell that an answer comes home to: the one that its slot has been moved to (R162). -/
def homeCell (s : State) (a : Access) : Nat :=
  match a.src with
  | .slot sid gen _ _ _ _ _ => (match resolveSlot s sid gen with | some t => cellOfSlot t | none => a.cell)
  | _ => a.cell

/-- Whether an answer comes from the access's own local memory, and so over no router (R90). -/
def answersNear (s : State) (a : Access) : Bool :=
  decide (homeCell s a = a.cell) && (match spaceOf s a.cell a.va with | .own _ => true | _ => false)

/-- What an answer is in the inbound port FIFO: a value takes 64 bytes for each unit that it touches, anything else none (R199). -/
def landedAnswer (a : Access) (r : Reply) (ev : Instr) : Landed :=
  match r with
  | .value _ => { turn := .event ev, bytes := 64 * ((a.op.size + 63) / 64), ack := false }
  | _ => { turn := .event ev, bytes := 0, ack := true }

/-- The step at which the answer of access `id` comes home as an event; without an answer to bring, the turn passes. -/
def bringHome (s : State) (id : Nat) (ev : Instr) : State :=
  match s.findAccess id with
  | some a =>
    (match a.stage with
     | .reply r =>
       let cell := homeCell s a
       let home : State :=
         whenPort s cell (landedAnswer a r ev) (readsCommons s a) (if answerWaits s a then s.pushE ev else settle s a r)
       if homeEvent a ≠ ev then s else if answersNear s a then home else whenFabric s (dieOf cell) ev home
     | _ => s)
  | none => s

end Sys2Proof.Machine
end

