-- ==== Sys2Proof/Machine/Port.lean ====
section
/-! DEFINITION. The copy port's queue: the units of copies, ring appends, column results, directory commands and accumulator
transfers, from their entry to where they are served (spec/04_memories.md R90, R96, spec/17_ref_commands.md R353, R358-R362,
spec/07_tables.md R171-R172). -/

namespace Sys2Proof.Machine

/-! ## Fields (R355-R358) -/

namespace Cp

def esz (w : CmdWord) : Nat := bits w.w0 10 8
def xf (w : CmdWord) : Nat := bits w.w0 13 11
def sat (w : CmdWord) : Bool := w.w0.getLsbD 14
def box (w : CmdWord) : Bool := w.w0.getLsbD 15
/-- Element size in bytes. -/
def size (w : CmdWord) : Nat := 2 ^ esz w
def isFill (w : CmdWord) : Bool := opc w = 0x13
def isMc (w : CmdWord) : Bool := opc w = 0x12
def isGath (w : CmdWord) : Bool := opc w = 0x14
def isScat (w : CmdWord) : Bool := opc w = 0x15
def isList (w : CmdWord) : Bool := isGath w || isScat w
def isRed (w : CmdWord) : Bool := opc w = 0x11
def isRing (w : CmdWord) : Bool := opc w = 0x10 && xf w = 4

/-- Source and destination codes of ARG. -/
def srcCode (attr : Word) : Nat := bits attr 36 32
def dstCode (attr : Word) : Nat := bits attr 41 37
def peerOn (attr : Word) : Bool := attr.getLsbD 57
def peerSrc (attr : Word) : Bool := attr.getLsbD 58
def peerEntry (attr : Word) : Nat := bits attr 56 49

/-- An unscaled format of class FL, NF or IN (R321). -/
def plainFormat (code : Nat) : Option Elem :=
  match elemOf code with
  | some el => if [FmtClass.fl, .nf, .inn].contains (classOf el false) then some el else none
  | none => none

/-- F32 or BF16. -/
def redFormat (code : Nat) : Option Elem := if code = 0 || code = 1 then elemOf code else none

/-- Element formats that the transform reads and writes, where it has any (R358). -/
def formats (w : CmdWord) (attr : Word) : Option (Elem × Elem) :=
  let f := if xf w = 3 then redFormat else plainFormat
  match f (srcCode attr), f (dstCode attr) with
  | some a, some b => some (a, b)
  | _, _ => none

def converts (w : CmdWord) : Bool := xf w = 1 || xf w = 3

/-- Bits of a source element and of a destination element. -/
def srcBits (w : CmdWord) (attr : Word) : Nat :=
  if converts w then (match formats w attr with | some p => p.1.width | none => 8) else 8 * size w
def dstBits (w : CmdWord) (attr : Word) : Nat :=
  if converts w then (match formats w attr with | some p => p.2.width | none => 8) else 8 * size w

/-- Word 0 of a copy-queue command (R355, R358, R361, R363, R364, R366, R367). -/
def word0Ok (w : CmdWord) : Bool :=
  match opc w with
  | 0x18 => bits w.w0 15 8 = 0
  | 0x19 => bits w.w0 15 8 = 0
  | 0x16 => bits w.w0 15 8 = 2
  | 0x14 => esz w ≤ 3 && bits w.w0 15 11 = 0
  | 0x15 => esz w ≤ 3 && bits w.w0 15 11 = 0
  | 0x13 => esz w ≤ 3 && xf w = 0
  | 0x12 => esz w ≤ 3 && xf w ≤ 1 && !(xf w = 1 && esz w ≠ 0)
  | 0x11 => esz w ≤ 3 && xf w = 3
  | _ => esz w ≤ 3 && xf w ≤ 5 && xf w ≠ 3 && !(xf w = 1 && esz w ≠ 0) && !(xf w = 2 && !box w)

end Cp

/-! ## Boxes (R356, R365) -/

namespace Geom

def none' : Geom := { ext := [], ss := [], ds := [], attr := 0#64, list := [] }
def e (g : Geom) (i : Nat) : Nat := getAt 1 g.ext i
def s (g : Geom) (i : Nat) : Int := getAt 0 g.ss (i - 1)
def d (g : Geom) (i : Nat) : Int := getAt 0 g.ds (i - 1)

/-- Number of elements. -/
def count (g : Geom) (w : CmdWord) : Nat :=
  if Cp.isList w then g.list.length else g.e 0 * (g.e 1 * (g.e 2 * g.e 3))

/-- The inline form: one row of E0 elements. -/
def inline (w3 : Word) : Geom := { ext := [bits w3 31 0, 1, 1, 1], ss := [0, 0, 0], ds := [0, 0, 0], attr := w3, list := [] }

/-- The control block as a number (R356). -/
def ofBlock (v : Nat) : Geom :=
  let n (o : Nat) : Nat := v / 2 ^ (8 * o) % 2 ^ 32
  let i (o : Nat) : Int := signedN 32 (n o)
  { ext := [n 0, n 4, n 8, n 12], ss := [i 0x10, i 0x14, i 0x18], ds := [i 0x1C, i 0x20, i 0x24]
    attr := wrap64 (v / 2 ^ (8 * 0x28) % 2 ^ 64), list := [] }

/-- Zero fields of a control block: bits 31:0 of its attribute word and its last 16 bytes. -/
def blockOk (v : Nat) : Bool := v / 2 ^ (8 * 0x28) % 2 ^ 32 = 0 && v / 2 ^ (8 * 0x30) % 2 ^ 128 = 0

/-- Strides with their extents, and the bytes of a run, of the source. -/
def srcSteps (g : Geom) : List (Int × Nat) := [(g.s 1, g.e 1), (g.s 2, g.e 2), (g.s 3, g.e 3)]
def srcRun (g : Geom) (w : CmdWord) : Nat := g.e 0 * Cp.srcBits w g.attr / 8

/-- The same of the destination; a transpose takes dimension 0 by DS1 and dimension 1 contiguously (R358). -/
def dstSteps (g : Geom) (w : CmdWord) : List (Int × Nat) :=
  if Cp.xf w = 2 then [(g.d 1, g.e 0), ((Cp.size w : Int), g.e 1), (g.d 2, g.e 2), (g.d 3, g.e 3)]
  else [(g.d 1, g.e 1), (g.d 2, g.e 2), (g.d 3, g.e 3)]
def dstRun (g : Geom) (w : CmdWord) : Nat := if Cp.xf w = 2 then Cp.size w else g.e 0 * Cp.dstBits w g.attr / 8

/-- Every displacement of a run. -/
def offsets : List (Int × Nat) → List Int
  | [] => [0]
  | (st, n) :: rest => ((List.range n).map (fun (i : Nat) => (offsets rest).map (fun o => o + (i : Int) * st))).flatten

/-- The least and greatest displacement of a run, for non-zero extents. -/
def extremes (steps : List (Int × Nat)) : Int × Int :=
  steps.foldl (fun (acc : Int × Int) q =>
    let v := q.1 * ((q.2 : Int) - 1)
    (acc.1 + min v 0, acc.2 + max v 0)) (0, 0)

end Geom

/-! ## Runs in a cell -/

def State.copyOf (s : State) (cell serial : Nat) : Option CopyRun := (s.cell cell).copies.find? (fun r => r.serial = serial)

def setCopy (s : State) (cell : Nat) (r : CopyRun) : State :=
  s.modCell cell (fun c => { c with copies := c.copies.map (fun q => if q.serial = r.serial then r else q) })

/-- The format under which a whole frame is recomputed: the destination format of a copy that converts, also of a reducing one
(R171). -/
def copyFmt (run : CopyRun) : Option Nat :=
  let a := run.geom.attr
  if Cp.xf run.cmd.word = 1 || (Cp.xf run.cmd.word = 3 && decide (Cp.srcCode a ≠ Cp.dstCode a)) then some (Cp.dstCode a) else none

/-- One element of a reducing copy: d := d + s, rounded once under rn to the destination's format (R58, R361). -/
def reduceElem (w : CmdWord) (g : Geom) (d v : Nat) : Nat × FlagBits :=
  match Cp.formats w g.attr with
  | some (a, .float f) => (fpAdd .rn (elemValue (.float f) d 0 false) (elemValue a v 0 false)).round f .rn false
  | _ => (d, 0#5)

/-- Writes k bytes within one unit of a cell's local memory. In a frame that the copy writes whole the entry reads general until
the last of them is written, and is then recomputed, under the destination format if the copy converts (R171). -/
def putLocal (s : State) (owe : FMap Nat) (fmt : Option Nat) (cell o k v : Nat) : State × FMap Nat :=
  let key := 2048 * cell + o / 1024
  match FMap.find? owe key with
  | none => (localWrite s cell o k v, owe)
  | some left =>
    let mf := Loc.mapFrame (s.cell cell) (o / 1024)
    let s := localWrite (s.modCell cell (fun c => Loc.demote c mf)) cell o k v
    if left ≤ k then
      (s.modCell cell (fun c => match fmt with | some code => Loc.setFmt c mf code | none => Loc.reclass c mf), FMap.del owe key)
    else (s, FMap.put owe key (left - k))

/-- Frames of local memory that n bytes from an address touch: key, first byte within the frame, bytes. -/
def framesOf (s : State) (cell : Nat) (va : Word) (n : Nat) : List (Nat × Nat × Nat) :=
  let at_ (c o : Nat) : List (Nat × Nat × Nat) :=
    (List.range (n / 1024 + 2)).filterMap (fun i =>
      let lo := if i = 0 then o else (o / 1024 + i) * 1024
      let hi := min (o + n) ((o / 1024 + i + 1) * 1024)
      if lo < hi then some (2048 * c + lo / 1024, lo % 1024, hi - lo) else none)
  match spaceOf s cell va with
  | .own o => at_ cell o
  | .remote c o => at_ c o
  | _ => []

/-- Address in the own-cell aperture of a cell. -/
def ownVa (o : Nat) : Word := 0xFF00000000000000#64 + wrap64 o

/-- Of some runs of bytes, as frames with the first byte and the number of bytes in each, the frames that they cover whole, with the bytes
that they bring there (R171). -/
def coveredFrames (l : List (Nat × Nat × Nat)) : FMap Nat :=
  let touched := l.foldl (fun (m : FMap (Nat × Nat)) f =>
    let old := FMap.get (0, 0) m f.1
    FMap.put m f.1 (old.1 ||| ((2 ^ f.2.2 - 1) <<< f.2.1), old.2 + f.2.2)) []
  (touched.filter (fun q => q.2.1 = 2 ^ 1024 - 1)).map (fun (q : Nat × Nat × Nat) => (q.1, q.2.2))

/-! ## Units (R90, R96) -/

/-- Bytes up to the next multiple of 64. -/
def unitBytes (a n : Nat) : Nat := min n (64 - a % 64)

/-- The number under which a job notes what it reads of k bytes at an address. -/
def spotKey (va : Word) (k : Nat) : Nat := 128 * va.toNat + k

/-- The spots of n bytes from an address of a cell's: those of local memories and of the commons; the fuel bounds them. -/
def spotsFuel (s : State) (cell : Nat) : Nat → Word → Nat → List Spot
  | 0, _, _ => []
  | f + 1, va, n =>
    if n = 0 then []
    else
      let k := unitBytes va.toNat n
      let rest (k : Nat) : List Spot := spotsFuel s cell f (va + wrap64 k) (n - k)
      match spaceOf s cell va with
      | .own o => ⟨false, cell, o, k, spotKey va k⟩ :: rest k
      | .remote c o => ⟨false, c, o, k, spotKey va k⟩ :: rest k
      | .commons o => ⟨true, cell, o, k, spotKey va k⟩ :: rest k
      | .lower => rest (pageBytes va n)
      | _ => rest k

/-- The spots of n bytes from an address. -/
def spotsOf (s : State) (cell : Nat) (va : Word) (n : Nat) : List Spot := spotsFuel s cell (n + 1) va n

/-- The port lane that carries a cell's copies to its die's commons: one of the channel streamers' (R9; DESIGN CHOICE,
notes/assumptions/112.md). -/
def portLane (cell : Nat) : Nat := 960 + cell % 24

/-- The job of a cell's copy port that a turn goes on with. -/
def State.jobOf (s : State) (cell : Nat) (t : Turn) : Option PortJob := s.jobs.find? (fun j => j.cell = cell && decide (j.turn = t))

/-- Whether units of a job are still to be served. -/
def jobOpen (s : State) (id : Nat) : Bool := s.units.any (fun u => u.job = id)

/-- The jobs of some cells end, with their units. -/
def dropJobsOf (s : State) (p : Nat → Bool) : State :=
  let gone := (s.jobs.filter (fun j => p j.cell)).map (·.id)
  { s with jobs := s.jobs.filter (fun j => !p j.cell), units := s.units.filter (fun u => !gone.contains u.job) }

/-- Whether an accumulator transfer of a cell is under way of which something holds (R353). -/
def tileOf (s : State) (cell : Nat) (f : Cmd → Bool) : Bool :=
  s.jobs.any (fun j => j.cell = cell && (match j.cmd with | some q => f q.2 | none => false))

/-- A job has ended. -/
def dropJob (s : State) (id : Nat) : State := { s with jobs := s.jobs.filter (fun j => j.id ≠ id) }

/-- A unit of a job sets out: at its own cell's port it stands in the queue at once; to another cell it goes over the lattice, to the
commons over the fabric (R92, R96). -/
def postUnit (cell job : Nat) (s : State) (q : Spot × UnitAct) : State :=
  let near : Bool := !q.1.commons && decide (q.1.cell = cell)
  let u : PortUnit := { id := s.nextId, job := job, spot := q.1, act := q.2, entered := if near then some s.nextId else none }
  ({ s with units := s.units ++ [u], nextId := s.nextId + 1 } : State).push
    (if near then portPairings s cell q.1.off
     else [.event (if q.1.commons then .commonsQueueEntry s.nextId else .remoteAccessArrival s.nextId)])

/-- A job of a cell's copy port begins with some units. -/
def openJob (s : State) (j : PortJob) (us : List (Spot × UnitAct)) : State :=
  us.foldl (postUnit j.cell s.nextId) { s with jobs := s.jobs ++ [{ j with id := s.nextId }], nextId := s.nextId + 1 }

/-- Changes a job. -/
def modJob (s : State) (id : Nat) (f : PortJob → PortJob) : State := { s with jobs := s.jobs.map (fun j => if j.id = id then f j else j) }

/-- The lower of a code and what has failed before. -/
def worse (code : Nat) (o : Option Nat) : Option Nat := match o with | some c => some (min c code) | none => some code

/-- Writes k bytes of a job into a local memory: into a frame that its copy, or its tile, covers whole as such (R171). -/
def putUnitBytes (s : State) (j : PortJob) (cell o k v : Nat) : State :=
  match j.serial.bind (s.copyOf j.cell) with
  | some r =>
    let t := putLocal s r.owe j.fmt cell o k v
    setCopy t.1 j.cell { r with owe := t.2 }
  | none =>
    let t := putLocal s j.owe j.fmt cell o k v
    modJob t.1 j.id (fun j => { j with owe := t.2 })

/-- Adds elements to those of a unit of a local memory, in ascending order, each in one step (R135, R362). -/
def reduceUnit (s : State) (j : PortJob) (cell o n v : Nat) : State :=
  match j.serial.bind (s.copyOf j.cell) with
  | none => s
  | some r =>
    let w := r.cmd.word
    let sb := Cp.srcBits w r.geom.attr
    let db := Cp.dstBits w r.geom.attr / 8
    let z := (List.range (n / db)).foldl (fun (acc : State × FlagBits) i =>
      let x := reduceElem w r.geom (localRead acc.1 cell (o + i * db) db) (lane sb v i)
      (putUnitBytes acc.1 j cell (o + i * db) db x.1, acc.2 ||| x.2)) (s, 0#5)
    match z.1.copyOf j.cell r.serial with
    | some r => setCopy z.1 j.cell { r with flags := r.flags ||| z.2 }
    | none => z.1

/-- What is done at a unit of a job: its value and error go to the job, or its bytes into the memory. -/
def actUnit (s : State) (j : PortJob) (u : PortUnit) : State :=
  let q := u.spot
  let d := dieOf q.cell
  let pl := commonsPlace s (s.partN q.cell) d q.off
  match u.act with
  | .read =>
    let bad : Option Nat :=
      if q.commons then (if isHole s d pl.1 pl.2.1 then some 4 else if commonsErr s d pl (q.off % 64) q.n then some 5 else none)
      else if localErr s q.cell q.off q.n then some 5 else none
    let v := if q.commons then commonsRead s d pl (q.off % 64) q.n else localRead s q.cell q.off q.n
    modJob s j.id (fun j => { j with got := FMap.put j.got q.key v, fail := match bad with | some c => worse c j.fail | none => j.fail })
  | .write v =>
    if !q.commons then putUnitBytes s j q.cell q.off q.n v
    else if isHole s d pl.1 pl.2.1 then modJob s j.id (fun j => { j with fail := worse 4 j.fail })
    else commonsWrite s d pl (q.off % 64) q.n v
  | .reduce v => reduceUnit s j q.cell q.off q.n v

/-- A unit of a job is served; with the last one the job's turn is due (R90, R96). -/
def servePort (s : State) (u : PortUnit) : State :=
  let s := { s with units := s.units.filter (fun v => v.id ≠ u.id) }
  match s.jobs.find? (fun j => j.id = u.job) with
  | none => s
  | some j =>
    let s := actUnit s j u
    if jobOpen s j.id then s else s.push [j.turn]

/-- Of some units the one that entered first. -/
def firstEntered : List PortUnit → Option PortUnit
  | [] => none
  | u :: us => some (us.foldl (fun x y => if y.entered.getD 0 < x.entered.getD 0 then y else x) u)

/-- Whether an older unit of the same job is still on its way to the same place: units arrive in the order in which they set out. -/
def unitBehind (s : State) (u : PortUnit) : Bool :=
  s.units.any (fun v => v.job = u.job && decide (v.id < u.id) && v.entered.isNone && v.spot.commons = u.spot.commons &&
    v.spot.cell = u.spot.cell)

/-- A unit comes to stand in the queue where it is served. -/
def enterUnit (s : State) (u : PortUnit) : State :=
  { s with units := s.units.map (fun v => if v.id = u.id then { v with entered := some s.nextId } else v), nextId := s.nextId + 1 }

/-- Units that stand in the queue of a port lane of a die's commons (R96). -/
def laneUnits (s : State) (d pos : Nat) : List PortUnit :=
  s.units.filter (fun u => u.spot.commons && u.entered.isSome && dieOf u.spot.cell = d && portLane u.spot.cell = pos)

/-- Group and bank of a unit in the commons. -/
def unitBank (s : State) (u : PortUnit) : Nat × Nat :=
  let pl := commonsPlace s (s.partN u.spot.cell) (dieOf u.spot.cell) u.spot.off
  (pl.1, pl.2.1)

/-- Units of jobs that stand in the copy port's queue of a cell, for a bank (R90). -/
def portUnitsAt (s : State) (cell bank : Nat) : List PortUnit :=
  s.units.filter (fun u => !u.spot.commons && u.entered.isSome && u.spot.cell = cell &&
    nbits (Loc.mapOff (s.cell cell) u.spot.off) 9 6 = bank)

/-! ## The course of a job -/

/-- What is found about a run: nothing against it, a failure code, a demand fault, an older chunk of its page in the way. -/
inductive Judged where
  | fine
  | bad (code : Nat)
  | parked
  | held
  deriving DecidableEq, Repr

/-- The work of a turn of a cell's copy port: it is judged, then what it reads of local memories and of the commons is read, unit by
unit; then it is judged again, `move` makes what is to be written there, and once that is written `finish` ends it. A finding that
stops it goes to `stop`. `j` says what the job is of. -/
def portWork (s : State) (j : PortJob) (reads : List Spot) (judged : State → Judged × State) (stop : Judged → State → State)
    (move : FMap Nat → State → List (Spot × UnitAct) × State) (finish : State → State) : State :=
  let write (got : FMap Nat) (s : State) : State :=
    let m := move got s
    if m.1.isEmpty then finish m.2 else openJob m.2 { j with writing := true } m.1
  match s.jobOf j.cell j.turn with
  | some k =>
    if jobOpen s k.id then s
    else if k.writing then (match k.fail with | some c => stop (.bad c) (dropJob s k.id) | none => finish (dropJob s k.id))
    else
      match k.fail with
      | some c => stop (.bad c) (dropJob s k.id)
      | none =>
        match judged (dropJob s k.id) with
        | (.fine, s) => write k.got s
        | (v, s) => stop v s
  | none =>
    match judged s with
    | (.fine, s) => if reads.isEmpty then write [] s else openJob s j (reads.eraseDups.map (fun q => (q, .read)))
    | (v, s) => stop v s

/-! ## Accumulator transfers (R353) -/

/-- A matrix command's tile, n bytes at an offset of its cell, as spots. -/
def tileSpots (cell o n : Nat) : List Spot := (List.range (n / 64)).map (fun u => ⟨false, cell, o + 64 * u, 64, u⟩)

/-- Begins to load a tile into an accumulator, which is locked until the last unit has been read (R353). -/
def loadTile (core : Nat) (c : Cmd) (s : State) : State :=
  let cell := core / 4
  let n := 8 * (core % 4) + Cmd.acc c.word
  match elemOf (bits c.word.w1 25 21) with
  | none => s
  | some el =>
    let s := s.modCell cell (fun cl => cl.setAcc n { cl.accOf n with lock := true })
    openJob s { id := 0, cell := cell, turn := .later (.tile s.nextId), cmd := some (core, c) }
      ((tileSpots cell (bits c.word.w1 20 0) (128 * el.width)).map (fun q => (q, .read)))

/-- The tile has been read: the accumulator takes its elements, unless a unit was in error (R84, R353). -/
def tileLoaded (s : State) (core : Nat) (c : Cmd) (j : PortJob) : State :=
  let cell := core / 4
  let n := 8 * (core % 4) + Cmd.acc c.word
  match elemOf (bits c.word.w1 25 21) with
  | none => s
  | some el =>
    let data := packLanes 512 ((List.range (2 * el.width)).map (FMap.get 0 j.got))
    let xs := (lanes el.width data 1024).map (fun b => (roundF32 .rn (elemValue el b 0 false)).1)
    let take (a : Acc) : Acc := if j.fail.isSome then { a with lock := false } else { a with data := accOf xs, err := 0#8, lock := false }
    let s := s.modCell cell (fun cl => cl.setAcc n (take (cl.accOf n)))
    (completeCmd s core c (statusWord (j.fail.getD 0) 0#5 0)).push [.matrix cell]

/-- ACCLD (R353). -/
def execAccld (w : CmdWord) (s : State) : Host.Outcome State Fault Refusal := withHead s w loadTile

/-- Whether a run of bytes meets an entry in error at a frame that it does not write whole (R172; DEDUCED,
notes/assumptions/91.md: the tile is then not written at all). -/
def runMeetsErr (s : State) (cell o n : Nat) : Bool :=
  (List.range (n / 64)).any (fun u =>
    let f := (o + 64 * u) / 1024
    entryErr s cell (o + 64 * u) && !(decide (o ≤ 1024 * f) && decide (1024 * f + 1024 ≤ o + n)))

/-- Reads and converts an accumulator at its issue, and begins to write it as a copy does (R136, R171, R353). -/
def storeTile (core : Nat) (c : Cmd) (s : State) : State :=
  let cell := core / 4
  let w := c.word
  let n := 8 * (core % 4) + Cmd.acc w
  let o := bits w.w1 20 0
  let a := (s.cell cell).accOf n
  let code := if w.w0.getLsbD 9 then c.fc else bits w.w1 25 21
  match elemOf code, rndOf (bits w.w0 12 10) with
  | some el, some mode =>
    if a.err ≠ 0#8 then raiseDeferred s core c cMachineCheck 2 (wrap64 (Cmd.acc w))
    else if runMeetsErr s cell o (128 * el.width) then
      (completeCmd s core c (statusWord 5 0#5 0)).push [.matrix cell]
    else
      let rs := (List.range 1024).map (fun i =>
        convertTo el mode (w.w0.getLsbD 8) (decodeFloat fF32 (accElem a.data i)))
      let data := packLanes el.width (rs.map (·.1))
      openJob s { id := 0, cell := cell, turn := .later (.tile s.nextId), cmd := some (core, c), fmt := some code, writing := true
                  owe := coveredFrames (framesOf s cell (ownVa o) (128 * el.width)), flags := rs.foldl (fun f r => f ||| r.2) 0#5 }
        ((tileSpots cell o (128 * el.width)).map (fun q => (q, .write (lane 512 data q.key))))
  | _, _ => s

/-- ACCST (R353). -/
def execAccst (w : CmdWord) (s : State) : Host.Outcome State Fault Refusal := withHead s w storeTile

/-- The last unit of an accumulator transfer has been served (R353). -/
def endTile (s : State) (id : Nat) : State :=
  match s.jobs.find? (fun j => j.id = id) with
  | none => s
  | some j =>
    match j.cmd with
    | none => s
    | some (core, c) =>
      if jobOpen s id then s
      else if j.writing then (completeCmd (dropJob s id) core c (statusWord 0 j.flags 0)).push [.matrix j.cell]
      else tileLoaded (dropJob s id) core c j

end Sys2Proof.Machine
end

