-- ==== Sys2Proof/Machine/Scalar.lean ====
section
/-! DEFINITION. Integer and address instructions (spec/13_ref_scalar.md R254-R264). -/

namespace Sys2Proof.Machine

/-! ## What they compute -/

/-- 1 or 0 as a word. -/
def boolW (b : Bool) : Word := if b then 1#64 else 0#64

/-- Quotient truncated towards zero; all ones for a zero divisor (R258). -/
def divS (x y : Word) : Word := if y = 0#64 then BitVec.allOnes 64 else BitVec.ofInt 64 (x.toInt.tdiv y.toInt)
def divU (x y : Word) : Word := if y = 0#64 then BitVec.allOnes 64 else wrap64 (x.toNat / y.toNat)
/-- Remainder with the sign of the dividend; the dividend for a zero divisor (R258). -/
def remS (x y : Word) : Word := if y = 0#64 then x else BitVec.ofInt 64 (x.toInt.tmod y.toInt)
def remU (x y : Word) : Word := if y = 0#64 then x else wrap64 (x.toNat % y.toNat)
def mulHi (x y : Word) : Word := BitVec.ofInt 64 (x.toInt * y.toInt / (2 ^ 64 : Nat))
def mulHiU (x y : Word) : Word := wrap64 (x.toNat * y.toNat / 2 ^ 64)

/-- Shifts by an amount that is not reduced (R259). -/
def shlW (x : Word) (n : Nat) : Word := if n < 64 then wrap64 (x.toNat * 2 ^ n) else 0#64
def shrW (x : Word) (n : Nat) : Word := if n < 64 then wrap64 (x.toNat / 2 ^ n) else 0#64
def sarW (x : Word) (n : Nat) : Word := BitVec.ofInt 64 (x.toInt / (2 ^ min n 64 : Nat))
def rolW (x : Word) (n : Nat) : Word :=
  let k := n % 64
  wrap64 (x.toNat * 2 ^ k) ||| wrap64 (x.toNat / 2 ^ (64 - k))

def minS (x y : Word) : Word := if x.toInt ≤ y.toInt then x else y
def maxS (x y : Word) : Word := if x.toInt ≥ y.toInt then x else y
def minU (x y : Word) : Word := if x.toNat ≤ y.toNat then x else y
def maxU (x y : Word) : Word := if x.toNat ≥ y.toNat then x else y

def clzW (x : Word) : Word := wrap64 (64 - bitLen x.toNat)
def ctzW (x : Word) : Word := wrap64 (((List.range 64).find? (fun i => x.getLsbD i)).getD 64)
def popcW (x : Word) : Word := wrap64 (popcount x.toNat)
/-- Width of a width code (R260). -/
def widthOf (w : BitVec 6) : Nat := 8 * 2 ^ w.toNat
def sextW (n : Nat) (x : Word) : Word := BitVec.ofInt 64 (signedN n x.toNat)
def zextW (n : Nat) (x : Word) : Word := wrap64 (x.toNat % 2 ^ n)
def bswapW (x : Word) : Word := wrap64 (ofBytes (toBytes 8 x.toNat).reverse)

/-- A field as a sign-extended word (R245). -/
def sx {w : Nat} (i : BitVec w) : Word := i.signExtend 64

/-! ## Register-register (R257-R260) -/

def execAdd (d a b : BitVec 6) (m n : Bool) (s : State) : Host.Outcome State Fault Refusal :=
  finish s (alu2 (fun x y => x + y) d a b m n s)
def execSub (d a b : BitVec 6) (m n : Bool) (s : State) : Host.Outcome State Fault Refusal :=
  finish s (alu2 (fun x y => x - y) d a b m n s)
def execMul (d a b : BitVec 6) (m n : Bool) (s : State) : Host.Outcome State Fault Refusal :=
  finish s (alu2 (fun x y => x * y) d a b m n s)
def execMulh (d a b : BitVec 6) (m n : Bool) (s : State) : Host.Outcome State Fault Refusal :=
  finish s (alu2 mulHi d a b m n s)
def execMulhu (d a b : BitVec 6) (m n : Bool) (s : State) : Host.Outcome State Fault Refusal :=
  finish s (alu2 mulHiU d a b m n s)
def execDiv (d a b : BitVec 6) (m n : Bool) (s : State) : Host.Outcome State Fault Refusal :=
  finish s (alu2 divS d a b m n s)
def execDivu (d a b : BitVec 6) (m n : Bool) (s : State) : Host.Outcome State Fault Refusal :=
  finish s (alu2 divU d a b m n s)
def execRem (d a b : BitVec 6) (m n : Bool) (s : State) : Host.Outcome State Fault Refusal :=
  finish s (alu2 remS d a b m n s)
def execRemu (d a b : BitVec 6) (m n : Bool) (s : State) : Host.Outcome State Fault Refusal :=
  finish s (alu2 remU d a b m n s)
def execAnd (d a b : BitVec 6) (m n : Bool) (s : State) : Host.Outcome State Fault Refusal :=
  finish s (alu2 (fun x y => x &&& y) d a b m n s)
def execOr (d a b : BitVec 6) (m n : Bool) (s : State) : Host.Outcome State Fault Refusal :=
  finish s (alu2 (fun x y => x ||| y) d a b m n s)
def execXor (d a b : BitVec 6) (m n : Bool) (s : State) : Host.Outcome State Fault Refusal :=
  finish s (alu2 (fun x y => x ^^^ y) d a b m n s)
def execAndn (d a b : BitVec 6) (m n : Bool) (s : State) : Host.Outcome State Fault Refusal :=
  finish s (alu2 (fun x y => x &&& ~~~y) d a b m n s)
def execOrn (d a b : BitVec 6) (m n : Bool) (s : State) : Host.Outcome State Fault Refusal :=
  finish s (alu2 (fun x y => x ||| ~~~y) d a b m n s)
def execShl (d a b : BitVec 6) (m n : Bool) (s : State) : Host.Outcome State Fault Refusal :=
  finish s (alu2 (fun x y => shlW x y.toNat) d a b m n s)
def execShr (d a b : BitVec 6) (m n : Bool) (s : State) : Host.Outcome State Fault Refusal :=
  finish s (alu2 (fun x y => shrW x y.toNat) d a b m n s)
def execSar (d a b : BitVec 6) (m n : Bool) (s : State) : Host.Outcome State Fault Refusal :=
  finish s (alu2 (fun x y => sarW x y.toNat) d a b m n s)
def execRol (d a b : BitVec 6) (m n : Bool) (s : State) : Host.Outcome State Fault Refusal :=
  finish s (alu2 (fun x y => rolW x y.toNat) d a b m n s)
def execMin (d a b : BitVec 6) (m n : Bool) (s : State) : Host.Outcome State Fault Refusal :=
  finish s (alu2 minS d a b m n s)
def execMax (d a b : BitVec 6) (m n : Bool) (s : State) : Host.Outcome State Fault Refusal :=
  finish s (alu2 maxS d a b m n s)
def execMinu (d a b : BitVec 6) (m n : Bool) (s : State) : Host.Outcome State Fault Refusal :=
  finish s (alu2 minU d a b m n s)
def execMaxu (d a b : BitVec 6) (m n : Bool) (s : State) : Host.Outcome State Fault Refusal :=
  finish s (alu2 maxU d a b m n s)
def execSlt (d a b : BitVec 6) (m n : Bool) (s : State) : Host.Outcome State Fault Refusal :=
  finish s (alu2 (fun x y => boolW (decide (x.toInt < y.toInt))) d a b m n s)
def execSltu (d a b : BitVec 6) (m n : Bool) (s : State) : Host.Outcome State Fault Refusal :=
  finish s (alu2 (fun x y => boolW (decide (x.toNat < y.toNat))) d a b m n s)
def execSeq (d a b : BitVec 6) (m n : Bool) (s : State) : Host.Outcome State Fault Refusal :=
  finish s (alu2 (fun x y => boolW (x == y)) d a b m n s)
def execSne (d a b : BitVec 6) (m n : Bool) (s : State) : Host.Outcome State Fault Refusal :=
  finish s (alu2 (fun x y => boolW (x != y)) d a b m n s)
def execClz (d a : BitVec 6) (m : Bool) (s : State) : Host.Outcome State Fault Refusal := finish s (alu1 clzW d a m s)
def execCtz (d a : BitVec 6) (m : Bool) (s : State) : Host.Outcome State Fault Refusal := finish s (alu1 ctzW d a m s)
def execPopc (d a : BitVec 6) (m : Bool) (s : State) : Host.Outcome State Fault Refusal := finish s (alu1 popcW d a m s)
def execSext (d a w : BitVec 6) (m : Bool) (s : State) : Host.Outcome State Fault Refusal :=
  finish s (alu1 (sextW (widthOf w)) d a m s)
def execZext (d a w : BitVec 6) (m : Bool) (s : State) : Host.Outcome State Fault Refusal :=
  finish s (alu1 (zextW (widthOf w)) d a m s)
def execBswap (d a : BitVec 6) (m : Bool) (s : State) : Host.Outcome State Fault Refusal := finish s (alu1 bswapW d a m s)

/-! ## Immediates and addresses (R261-R264) -/

def execAddi (d a : BitVec 6) (m : Bool) (i : BitVec 13) (s : State) : Host.Outcome State Fault Refusal :=
  finish s (alu1 (fun x => x + sx i) d a m s)
def execAndi (d a : BitVec 6) (m : Bool) (i : BitVec 13) (s : State) : Host.Outcome State Fault Refusal :=
  finish s (alu1 (fun x => x &&& sx i) d a m s)
def execOri (d a : BitVec 6) (m : Bool) (i : BitVec 13) (s : State) : Host.Outcome State Fault Refusal :=
  finish s (alu1 (fun x => x ||| sx i) d a m s)
def execXori (d a : BitVec 6) (m : Bool) (i : BitVec 13) (s : State) : Host.Outcome State Fault Refusal :=
  finish s (alu1 (fun x => x ^^^ sx i) d a m s)
def execSlti (d a : BitVec 6) (m : Bool) (i : BitVec 13) (s : State) : Host.Outcome State Fault Refusal :=
  finish s (alu1 (fun x => boolW (decide (x.toInt < (sx i).toInt))) d a m s)
def execSltui (d a : BitVec 6) (m : Bool) (i : BitVec 13) (s : State) : Host.Outcome State Fault Refusal :=
  finish s (alu1 (fun x => boolW (decide (x.toNat < (sx i).toNat))) d a m s)
def execShli (d a : BitVec 6) (m : Bool) (h : BitVec 6) (s : State) : Host.Outcome State Fault Refusal :=
  finish s (alu1 (fun x => shlW x h.toNat) d a m s)
def execShri (d a : BitVec 6) (m : Bool) (h : BitVec 6) (s : State) : Host.Outcome State Fault Refusal :=
  finish s (alu1 (fun x => shrW x h.toNat) d a m s)
def execSari (d a : BitVec 6) (m : Bool) (h : BitVec 6) (s : State) : Host.Outcome State Fault Refusal :=
  finish s (alu1 (fun x => sarW x h.toNat) d a m s)
def execLui (d : BitVec 6) (i : BitVec 20) (s : State) : Host.Outcome State Fault Refusal :=
  finish s (alu0 (fun _ => sx i * 4096#64) d s)
def execPcrel (d : BitVec 6) (i : BitVec 20) (s : State) : Host.Outcome State Fault Refusal :=
  finish s (alu0 (fun x => x.pc + sx i * 4096#64) d s)

/-- The effective address of format M (R264, R271). -/
def eaOf (base : Word) (z : BitVec 2) (o : BitVec 11) : Word := base + sx o * wrap64 (2 ^ z.toNat)

def execLea (d b : BitVec 6) (z : BitVec 2) (y : Bool) (o : BitVec 11) (s : State) : Host.Outcome State Fault Refusal :=
  finish s (alu1 (fun x => eaOf x z o) d b y s)

end Sys2Proof.Machine
end

