-- ==== Sys2Proof/Machine/Mem.lean ====
section
/-! DEFINITION. The memory instructions: loads, stores, full/empty operations, atomics, versioned lines, blocks, fences and cache
maintenance (spec/14_ref_memory.md R271-R293). -/

namespace Sys2Proof.Machine

/-- Bytes of a size code (R226). -/
def bytesOf (z : BitVec 2) : Nat := 2 ^ z.toNat

/-- The n low bytes of a data register, read at issue (R276). -/
def dataOf (x : Slot) (d n : Nat) : Except Halt Nat := do
  let v ← peekS x d
  return v.toNat % 2 ^ (8 * n)

/-- The first scalar register in error among those that an instruction reads (R84). -/
def badOf (rs : List (BitVec 6)) (x : Slot) : Option Nat := (rs.map BitVec.toNat).find? (badS x)

/-! ## Loads and stores (R276, R279) -/

/-- A load. -/
def loadRes (i : Instr) (d b : BitVec 6) (y : Bool) (ea : Word → Word) (n : Nat) (sext acq : Bool) (scope : Nat) (plain : Bool)
    (s : State) : Res :=
  issueMem i [d.toNat, b.toNat] [] b.toNat y ea
    (fun _ => .ok { dst := some d.toNat, op := .load n sext, acq := acq, rel := false, scope := scope, plain := plain }) (badOf [b]) s

/-- A store. -/
def storeRes (i : Instr) (d b : BitVec 6) (y : Bool) (ea : Word → Word) (n : Nat) (rel : Bool) (scope : Nat) (plain : Bool)
    (s : State) : Res :=
  issueMem i [d.toNat, b.toNat] [] b.toNat y ea
    (fun x => do
      let v ← dataOf x d.toNat n
      return { dst := none, op := .store n v, acq := false, rel := rel, scope := scope, plain := plain }) (badOf [d, b]) s

/-- LD (R276). -/
def execLd (d b : BitVec 6) (z : BitVec 2) (y : Bool) (o : BitVec 11) (s : State) : Host.Outcome State Fault Refusal :=
  finish s (loadRes (.ld d b z y o) d b y (fun v => eaOf v z o) (bytesOf z) false false 0 true s)

/-- ST (R276). -/
def execSt (d b : BitVec 6) (z : BitVec 2) (y : Bool) (o : BitVec 11) (s : State) : Host.Outcome State Fault Refusal :=
  finish s (storeRes (.st d b z y o) d b y (fun v => eaOf v z o) (bytesOf z) false 0 true s)

/-- LD_S (R279): aligned (R272); with S = 0 it is the plain load, which may be unaligned. -/
def execLdS (d b : BitVec 6) (z : BitVec 2) (y e : Bool) (s : State) : Host.Outcome State Fault Refusal :=
  finish s (loadRes (.ldS d b z y e) d b y id (bytesOf z) e false 0 (!e) s)

/-- LD_ACQ (R279). -/
def execLdAcq (d b : BitVec 6) (z : BitVec 2) (y : Bool) (sc : BitVec 3) (e : Bool) (s : State) :
    Host.Outcome State Fault Refusal :=
  finish s (loadRes (.ldAcq d b z y sc e) d b y id (bytesOf z) e true sc.toNat false s)

/-- ST_REL (R279). -/
def execStRel (d b : BitVec 6) (z : BitVec 2) (y : Bool) (sc : BitVec 3) (s : State) : Host.Outcome State Fault Refusal :=
  finish s (storeRes (.stRel d b z y sc) d b y id (bytesOf z) true sc.toNat false s)

/-! ## Full/empty operations (R280-R282) -/

/-- The scope of the path of a full/empty operation (R282): cell for the own cell, die or package otherwise. -/
def pathScope (s : State) (ea : Word) : Nat :=
  match spaceOf s (cellOfSlot s.cur) ea with
  | .remote c _ => if dieOf c = dieOf (cellOfSlot s.cur) then 3 else 4
  | _ => 2

/-- A full/empty operation: `regs` are its registers, `reads` those that it reads. -/
def feRes (i : Instr) (regs : List Nat) (reads : List (BitVec 6)) (b : BitVec 6) (y : Bool) (dst : Option Nat)
    (op : Slot → Except Halt MemOp) (acq rel : Bool) (s : State) : Res :=
  issueMem i regs [] b.toNat y id
    (fun x => do
      let o ← op x
      return { dst := dst, op := o, acq := acq, rel := rel, scope := pathScope s (x.sval b.toNat), plain := false }) (badOf reads) s

/-- LDS (R280). -/
def execLds (d b : BitVec 6) (y : Bool) (s : State) : Host.Outcome State Fault Refusal :=
  finish s (feRes (.lds d b y) [d.toNat, b.toNat] [b] b y (some d.toNat) (fun _ => .ok .lds) true false s)

/-- STS (R280): a release (R282). -/
def execSts (d b : BitVec 6) (y : Bool) (s : State) : Host.Outcome State Fault Refusal :=
  finish s (feRes (.sts d b y) [d.toNat, b.toNat] [d, b] b y none (fun x => do return .sts (← dataOf x d.toNat 8)) false true s)

/-- LDW (R280). -/
def execLdw (d b : BitVec 6) (y : Bool) (s : State) : Host.Outcome State Fault Refusal :=
  finish s (feRes (.ldw d b y) [d.toNat, b.toNat] [b] b y (some d.toNat) (fun _ => .ok .ldw) true false s)

/-- FEFILL (R280): a release (R282). -/
def execFefill (d b : BitVec 6) (y : Bool) (s : State) : Host.Outcome State Fault Refusal :=
  finish s (feRes (.fefill d b y) [d.toNat, b.toNat] [d, b] b y none (fun x => do return .fefill (← dataOf x d.toNat 8)) false true s)

/-- FEEMPTY (R280): no synchronisation (R282). -/
def execFeempty (b : BitVec 6) (y : Bool) (s : State) : Host.Outcome State Fault Refusal :=
  finish s (feRes (.feempty b y) [b.toNat] [b] b y none (fun _ => .ok .feempty) false false s)

/-- FEQ (R280): no synchronisation (R282). -/
def execFeq (d b : BitVec 6) (y : Bool) (s : State) : Host.Outcome State Fault Refusal :=
  finish s (feRes (.feq d b y) [d.toNat, b.toNat] [b] b y (some d.toNat) (fun _ => .ok .feq) false false s)

/-! ## Atomics (R283-R285) -/

/-- Bytes of an atomic (R233). -/
def atomBytes (z : Bool) : Nat := if z then 8 else 4

/-- An `amo`. -/
def amoRes (i : Instr) (o : AmoOp) (d a : BitVec 6) (m : Bool) (n : Nat) (acq rel : Bool) (scope : Nat) (s : State) : Res :=
  issueMem i [d.toNat, a.toNat] [] a.toNat m id
    (fun x => do
      let v ← dataOf x d.toNat n
      return { dst := some d.toNat, op := .amo o n v, acq := acq, rel := rel, scope := scope, plain := false }) (badOf [d, a]) s

/-- AMO_ADD (R283). -/
def execAmoAdd (d a : BitVec 6) (m z q r : Bool) (sc : BitVec 3) (s : State) : Host.Outcome State Fault Refusal :=
  finish s (amoRes (.amoAdd d a m z q r sc) .add d a m (atomBytes z) q r sc.toNat s)
/-- AMO_AND (R283). -/
def execAmoAnd (d a : BitVec 6) (m z q r : Bool) (sc : BitVec 3) (s : State) : Host.Outcome State Fault Refusal :=
  finish s (amoRes (.amoAnd d a m z q r sc) .and d a m (atomBytes z) q r sc.toNat s)
/-- AMO_OR (R283). -/
def execAmoOr (d a : BitVec 6) (m z q r : Bool) (sc : BitVec 3) (s : State) : Host.Outcome State Fault Refusal :=
  finish s (amoRes (.amoOr d a m z q r sc) .or d a m (atomBytes z) q r sc.toNat s)
/-- AMO_XOR (R283). -/
def execAmoXor (d a : BitVec 6) (m z q r : Bool) (sc : BitVec 3) (s : State) : Host.Outcome State Fault Refusal :=
  finish s (amoRes (.amoXor d a m z q r sc) .xor d a m (atomBytes z) q r sc.toNat s)
/-- AMO_MIN (R283). -/
def execAmoMin (d a : BitVec 6) (m z q r : Bool) (sc : BitVec 3) (s : State) : Host.Outcome State Fault Refusal :=
  finish s (amoRes (.amoMin d a m z q r sc) .min d a m (atomBytes z) q r sc.toNat s)
/-- AMO_MAX (R283). -/
def execAmoMax (d a : BitVec 6) (m z q r : Bool) (sc : BitVec 3) (s : State) : Host.Outcome State Fault Refusal :=
  finish s (amoRes (.amoMax d a m z q r sc) .max d a m (atomBytes z) q r sc.toNat s)
/-- AMO_MINU (R283). -/
def execAmoMinu (d a : BitVec 6) (m z q r : Bool) (sc : BitVec 3) (s : State) : Host.Outcome State Fault Refusal :=
  finish s (amoRes (.amoMinu d a m z q r sc) .minu d a m (atomBytes z) q r sc.toNat s)
/-- AMO_MAXU (R283). -/
def execAmoMaxu (d a : BitVec 6) (m z q r : Bool) (sc : BitVec 3) (s : State) : Host.Outcome State Fault Refusal :=
  finish s (amoRes (.amoMaxu d a m z q r sc) .maxu d a m (atomBytes z) q r sc.toNat s)
/-- AMO_SWAP (R283). -/
def execAmoSwap (d a : BitVec 6) (m z q r : Bool) (sc : BitVec 3) (s : State) : Host.Outcome State Fault Refusal :=
  finish s (amoRes (.amoSwap d a m z q r sc) .swap d a m (atomBytes z) q r sc.toNat s)
/-- AMO_FADD (R283): 4 bytes, no flag. -/
def execAmoFadd (d a : BitVec 6) (m q r : Bool) (sc : BitVec 3) (s : State) : Host.Outcome State Fault Refusal :=
  finish s (amoRes (.amoFadd d a m q r sc) .fadd d a m 4 q r sc.toNat s)

/-- CAS (R285). -/
def execCas (d a b : BitVec 6) (z q r : Bool) (sc : BitVec 3) (s : State) : Host.Outcome State Fault Refusal :=
  finish s (issueMem (.cas d a b z q r sc) [d.toNat, a.toNat, b.toNat] [] a.toNat false id
    (fun x => do
      let e ← dataOf x d.toNat (atomBytes z)
      let w ← dataOf x b.toNat (atomBytes z)
      return { dst := some d.toNat, op := .cas (atomBytes z) e w, acq := q, rel := r, scope := sc.toNat, plain := false })
    (badOf [d, a, b]) s)

/-! ## Versioned lines (R286, R287) -/

/-- LINE_RD (R286). -/
def execLineRd (d : BitVec 5) (a : BitVec 6) (q : Bool) (sc : BitVec 3) (s : State) : Host.Outcome State Fault Refusal :=
  finish s (issueMem (.lineRd d a q sc) [a.toNat] [d.toNat] a.toNat false id
    (fun _ => .ok { dst := some (64 + d.toNat), op := .lineRd, acq := q, rel := false, scope := sc.toNat, plain := false })
    (badOf [a]) s)

/-- LINE_CST (R287): vb is a pair (R244). -/
def execLineCst (d a b : BitVec 6) (n : BitVec 2) (r : Bool) (sc : BitVec 3) (s : State) : Host.Outcome State Fault Refusal :=
  let i := Instr.lineCst d a b n r sc
  finish s (do
    guardH (b.toNat % 2 = 0) (illegal i 1)
    issueMem i [d.toNat, a.toNat] [b.toNat, b.toNat + 1] a.toNat false id
      (fun x => do
        let v ← peekV x b.toNat
        let st ← peekV x (b.toNat + 1)
        return { dst := some d.toNat, op := .lineCst (n.toNat + 1) v st, acq := false, rel := r, scope := sc.toNat, plain := false })
      (fun x => match badOf [a] x with
        | some r => some r
        | none => [b.toNat, b.toNat + 1].find? (fun r => x.verr.getLsbD r)) s)

/-! ## Blocks (R288-R291) -/

/-- Checks of a block's addresses in the order of R275 after PRIV. -/
def blkChecks (s : State) (wr : Bool) (a b : Word) (c : Nat) : Except Halt Unit := do
  guardH (alignedTo a 64) (.trap cMisalign 4 a)
  guardH (alignedTo b 64) (.trap cMisalign 4 b)
  canonicalOr a (if wr then .write else .read)
  canonicalOr b (if wr then .read else .write)
  let units := 0x20000 * groupCount s (cellOfSlot s.cur)
  guardH (bits a 63 48 = 0xFF02 && decide (bits a 47 6 + c ≤ units)) (.trap cAccess 0 a)
  guardH (bits b 63 48 = 0xFF00 && decide (bits b 47 6 + c ≤ localSize / 64)) (.trap cAccess 0 b)

/-- The local-side access of unit i of a block: reads for `blk.wr`, written for `blk.rd`. -/
def blkAccess (core : Nat) (b : Blk) (i : Nat) (op : MemOp) : Access :=
  newAccess b.sid (.blk core b.bid i) op (0xFF00000000000000#64 + wrap64 (64 * (b.lunit + i))) false false 0

/-- A commons pairing of a position that has something to be served, at its next meeting with a bank. -/
def pushPairing (s : State) (d pos group bank : Nat) : State := s.pushE (.commonsPairing d pos (nextMeeting s d pos group bank))

/-- The first turn boundary of a die at or after a fabric cycle. -/
def boundaryFrom (s : State) (d fc : Nat) : Nat :=
  let set := activeSet s d
  let turn := wheelLo s set * wheelLi s set
  let t := fc - wheelOrigin s d
  wheelOrigin s d + (t + turn - 1) / turn * turn

/-- The turn boundary of a die at or after now. -/
def nextBoundary (s : State) (d : Nat) : Nat := boundaryFrom s d (s.fcyc d)

/-- A block is on its way to its core's block engine (R289). -/
def placeBlk (s : State) (core : Nat) (b : Blk) : State :=
  (s.modCore core (fun k => { k with blocks := k.blocks ++ [b] })).pushE (.commonsQueueEntry b.bid)

/-- A block enters its core's block engine (R289). -/
def enterBlk (s : State) (core : Nat) (b : Blk) : State :=
  let cell := core / 4
  let d := dieOf cell
  let s := { modBlk s core b.bid (fun b => { b with entered := some s.nextId }) with nextId := s.nextId + 1 }
  let s := if b.wr then (List.range b.count).foldl (fun s i => startOwn s (blkAccess core b i (.load 64 false)) 14) s else s
  let s := if b.atomic then s.pushE (.turnBoundary d (nextBoundary s d)) else s
  let pl := commonsPlace s (s.partN cell) d (64 * b.cunit)
  pushPairing s d (wheelPos core) pl.1 pl.2.1

/-- A block instruction. -/
def blkRes (i : Instr) (wr : Bool) (d a b : BitVec 6) (t : Bool) (sc : BitVec 3) (s : State) : Res := do
  let sid := s.cur
  let x := s.slot sid
  let core := coreOf sid
  let known (r : BitVec 6) : Bool := decide (r.toNat < x.ns) && x.sF r.toNat
  (if known a then privOr s i (x.sval a.toNat) else .ok ())
  (if known b then privOr s i (x.sval b.toNat) else .ok ())
  boundS x [d.toNat, a.toNat, b.toNat]
  freeD x d.toNat
  let c ← peekS x d.toNat
  let va ← peekS x a.toNat
  let vb ← peekS x b.toNat
  blkChecks s wr va vb c.toNat
  soundS x [d.toNat, a.toNat, b.toNat]
  if d = 0#6 then return done s x
  else do
    (if wr then unackRoom x else .ok ())
    guardH (c = 0#64 || decide ((s.core core).blocks.length < Config.blocksPerCore)) (.park .commons)
    let y := x.oweS d.toNat
    let s := done s (if wr then raiseUnack y else y)
    if c = 0#64 then return sendToken s core (slotIx sid) d.toNat x.gen (statusWord 1 0#5 0) wr sc.toNat
    else if t && decide (64 * groupCount s (core / 4) < c.toNat) then
      return sendToken s core (slotIx sid) d.toNat x.gen (statusWord 3 0#5 0) wr sc.toNat
    else
      let blk : Blk := {
        bid := s.nextId, sid := sid, gen := x.gen, wr := wr, atomic := t, scope := sc.toNat, entered := none, cunit := bits va 47 6
        lunit := bits vb 47 6, count := c.toNat, dreg := d.toNat, reservedAt := none
        todo := List.range c.toNat, landing := if wr then c.toNat else 0, landed := [], snap := [], code := 0, unit := 0 }
      return placeBlk { s with nextId := s.nextId + 1 } core blk

/-- BLK_RD (R288). -/
def execBlkRd (d a b : BitVec 6) (t : Bool) (sc : BitVec 3) (s : State) : Host.Outcome State Fault Refusal :=
  finish s (blkRes (.blkRd d a b t sc) false d a b t sc s)

/-- BLK_WR (R288). -/
def execBlkWr (d a b : BitVec 6) (t : Bool) (sc : BitVec 3) (s : State) : Host.Outcome State Fault Refusal :=
  finish s (blkRes (.blkWr d a b t sc) true d a b t sc s)

/-! ## Fences and cache maintenance (R292, R293) -/

/-- Whether a slot has reads that have not returned their values (R292). -/
def readsOpen (s : State) (sid : Nat) : Bool :=
  s.flight.any (fun a => a.slotOf s = some sid && a.op.needsRd && (match a.src with | .blk _ _ _ => false | _ => true)) ||
    vecQueued s sid s.nextId

/-- Whether a slot has writes, messages among them, that are not acknowledged, by which it learns that they have been performed
(R127, R192, R292) (DEDUCED, notes/assumptions/101.md). -/
def writesOpen (s : State) (sid : Nat) : Bool :=
  s.flight.any (fun a => a.slotOf s = some sid && a.op.writes && (match a.src with | .blk _ _ _ => false | _ => true)) ||
    vecQueued s sid s.nextId || s.messages.any (fun m => m.sid = sid)

/-- Whether a scalar access of a slot is not yet performed (R122). -/
def scalarPending (s : State) (sid : Nat) : Bool :=
  s.flight.any (fun a => a.slotOf s = some sid && (match a.src with | .slot _ _ _ _ _ _ _ => a.pending | _ => false))

/-- Vector accesses of a slot that are not yet performed. -/
def vectorOpen (s : State) (sid : Nat) : Bool :=
  s.flight.any (fun a => a.slotOf s = some sid && (match a.src with | .vec _ _ _ _ => !a.answered | _ => false)) ||
    vecQueued s sid s.nextId

/-- FENCE (R122, R292): a release orders the slot's earlier reads too, and slot scope its scalar against its vector accesses, both
ways. -/
def execFence (k : BitVec 2) (sc : BitVec 3) (s : State) : Host.Outcome State Fault Refusal :=
  finish s (do
    let sid := s.cur
    let acq := k.getLsbD 0
    let rel := k.getLsbD 1
    let d := dieOf (cellOfSlot sid)
    if sc = 0#3 then do
      guardH (!vectorOpen s sid && !scalarPending s sid) .hold
      return done s (s.slot sid)
    else do
      guardH (!readsOpen s sid) .hold
      guardH (!(rel && (writesOpen s sid || (decide (4 ≤ sc.toNat) && forwardsOpen s d)))) .hold
      let s := if acq && decide (4 ≤ sc.toNat) then selfInvalidate s d else s
      return done s (s.slot sid))

/-- The physical address, key and ATTR that a maintenance operation acts on, if it acts at all (R293). -/
def maintTarget (s : State) (ea : Word) (rd : Bool) : Option (Nat × Nat × Nat) × State :=
  match xlateCell s (cellOfSlot s.cur) ea rd false with
  | (.ok pa key attr, s) => (some (pa, key, attr), s)
  | (_, s) => (none, s)

/-- A maintenance operation on the line at a register's address. -/
def maint (a : BitVec 6) (rd : Bool) (f : Nat → Nat → Nat → Word → State → State) (s : State) : Res := do
  let x := s.slot s.cur
  boundS x [a.toNat]
  let ea ← readS x a.toNat
  let r := maintTarget s ea rd
  let s := match r.1 with
    | some t => f t.1 t.2.1 t.2.2 ea r.2
    | none => r.2
  return done s (s.slot s.cur)

/-- CINV (R293). -/
def execCinv (a : BitVec 6) (s : State) : Host.Outcome State Fault Refusal :=
  finish s (maint a false (fun pa _ _ _ s =>
    let core := coreOf s.cur
    let d := dieOf (core / 4)
    let line := lineOf pa
    let s := s.modCore core (fun c => L1.drop c (fun l => l.pa = line))
    if homeDie s pa ≠ d && !s.forwards.any (fun f => f.die = d && lineOf f.pa = line) then dropReplica s d line else s) s)

/-- CWB (R293): the slot's own earlier stores to the line are written first. -/
def execCwb (a : BitVec 6) (s : State) : Host.Outcome State Fault Refusal :=
  finish s (do
    let x := s.slot s.cur
    boundS x [a.toNat]
    let ea ← readS x a.toNat
    (if canonical ea && !ea.getLsbD 56 then bytesQuiet s (ea &&& ~~~127#64) 128 else .ok ())
    maint a false (fun pa _ _ _ s => flushLine s (dieOf (cellOfSlot s.cur)) (lineOf pa)) s)

/-- Brings a line to the slice of a die: at home, or as a replica (R131, R293). -/
def bringLine (s : State) (d pa key : Nat) : State :=
  let line := lineOf pa
  if homeDie s pa = d then install s d line key
  else
    match replicaOf s d line key with
    | some _ => s
    | none =>
      let r := physReadLine (dropReplica s d line) (128 * line) 128 key
      addReplica r.2 { die := d, line := line, key := key, data := BitVec.ofNat 1024 r.1 }

/-- A prefetch of a line into the slice of a die: a read miss (R102, R293), which brings a replica at once and a line of the die when
memory has filled it. -/
def prefetchLine (s : State) (d pa key : Nat) : State :=
  let line := lineOf pa
  let t := readMiss s d line key
  if homeDie s pa = d || !(present s d line key || mergeable t d line) then t else bringLine t d pa key

/-- Whether a load of a core holds a line of its L1: its answer is on its way back (R386). -/
def lineHeld (s : State) (core : Nat) (l : L1Line) : Bool :=
  s.flight.any (fun a => a.core = core && a.op.isLoad && s.casid a.cell = l.asid && a.va.toNat / 128 = l.va &&
    (match a.stage with | .reply (.value _) => true | _ => false))

/-- Fills a line into a core's L1 (R99). -/
def fillL1 (s : State) (core asid : Nat) (va : Word) (pa key : Nat) (wr : Bool) : State :=
  let d := dieOf (core / 4)
  let r := sliceRead s d (pa / 128 * 128) 128 key 0 false
  r.2.modCore core (fun c => L1.fill c
    { asid := asid, va := va.toNat / 128, pa := lineOf pa, key := key, wr := wr, data := BitVec.ofNat 1024 r.1 } (lineHeld s core))

/-- PREF (R293) (DEDUCED, notes/assumptions/31.md). -/
def execPref (a : BitVec 6) (s : State) : Host.Outcome State Fault Refusal :=
  finish s (maint a true (fun pa key attr ea s =>
    if attr ≠ 0 || physErr s (pa / 128 * 128) 128 then s
    else
      let core := coreOf s.cur
      let wr := match xlateCell s (core / 4) ea true true with | (.ok _ _ _, _) => true | _ => false
      fillL1 (prefetchLine s (dieOf (core / 4)) pa key) core (s.casid (core / 4)) ea pa key wr) s)

/-- PREF_W (R293). -/
def execPrefW (a : BitVec 6) (s : State) : Host.Outcome State Fault Refusal :=
  finish s (maint a false (fun pa key attr _ s =>
    if attr ≠ 0 || physErr s (pa / 128 * 128) 128 then s else prefetchLine s (dieOf (cellOfSlot s.cur)) pa key) s)

end Sys2Proof.Machine
end

