-- ==== Sys2Proof/Machine/Registers.lean ====
section
/-! DEFINITION. The privileged registers of dies and package as they are read and written (spec/03_registers.md R3, R79,
spec/04_memories.md R106, R109, spec/06_queues.md R140, spec/07_tables.md R163-R184, spec/08_counters.md R189-R194,
spec/09_power.md R206, R213, spec/10_edges.md R215-R222, spec/21_prog_gear_barrier.md R376, spec/23_prog_partition_merge.md
R379-R381). -/

namespace Sys2Proof.Machine

/-! ## Partitions and routes (R8, R182, R221) -/

/-- Dies that a route between two dies crosses, its ends left out: first x, then y (R8). -/
def routeVia (a b : Nat) : List Nat := if a % 2 ≠ b % 2 && a / 2 ≠ b / 2 then [2 * (a / 2) + b % 2] else []

/-- Links of a route between two dies, as DLINK numbers them (R181). -/
def routeLinks (a b : Nat) : List Nat :=
  (if a % 2 ≠ b % 2 then [a / 2] else []) ++ (if a / 2 ≠ b / 2 then [2 + b % 2] else [])

/-- Dies on which a partition holds cells. -/
def State.partDies (s : State) (p : Nat) : List Nat := (List.range 4).filter (s.holdsDie p)

/-- Dies that a partition's traffic crosses between two dies it holds cells on. -/
def crossedDies (ds : List Nat) : List Nat := (ds.map (fun a => (ds.map (fun b => routeVia a b)).flatten)).flatten

/-- Whether a partition counts as holding cells on a die for the phase sets (R182) (DEDUCED, notes/assumptions/37.md). -/
def State.countsOn (s : State) (p d : Nat) : Bool := s.holdsDie p d || (crossedDies (s.partDies p)).contains d

/-- LBND of the router in row c and column e of a die (R221; DEDUCED, notes/assumptions/18.md: the directions, the columns
that carry transit, the partitions that row 15 serves). -/
def lbnd (s : State) (d c e : Nat) : Nat :=
  let comm := allParts.filter s.committed
  let at_ (c e : Nat) : Option Nat := if c < 15 && e < 16 then s.partOf (cellNo d c e) else none
  if c < 15 then
    match at_ c e with
    | none => 0
    | some p =>
      let same (c' e' : Nat) : Bool := at_ c' e' = some p
      let west := e ≠ 0 && same c (e - 1)
      let east := same c (e + 1)
      let north := c ≠ 0 && same (c - 1) e
      let south := c = 14 || same (c + 1) e
      p + 16 + 256 * west.toNat + 512 * east.toNat + 1024 * north.toNat + 2048 * south.toNat + 65536 * s.phases p
  else
    let transit := if e = 9 || e = 10 then comm.filter (fun p => (crossedDies (s.partDies p)).contains d) else []
    let held := comm.filter (fun p => s.holdsDie p d)
    let served := held ++ transit
    if served.isEmpty then 0
    else
      32 * (!transit.isEmpty).toNat + 256 * (e ≠ 0 : Bool).toNat + 512 * (decide (e < 15)).toNat +
        1024 * (at_ 14 e).isSome.toNat + 65536 * (served.foldl (fun m p => m ||| s.phases p) 0)

/-- COLBUSY of a die (R193). -/
def colBusy (s : State) (d : Nat) : Word :=
  s.cells.foldl (fun w q =>
    q.2.copies.foldl (fun w (r : CopyRun) => if r.dies.contains d then setBit w (Cmd.colour r.cmd.word) true else w) w) 0#64

/-! ## Reading -/

/-- The wheel control word of a die: SWREQ is set from the cycle in which the swap arrives (R165). -/
def wheelCtl (s : State) (d : Nat) : Word :=
  let w := s.reg (dieBase d + 0x2000)
  match FMap.find? s.swapAt d with
  | some t => if s.fcyc d < t then setBit w 2 false else w
  | none => w

/-- A word of a die's tables. -/
def dieRead (s : State) (d o : Nat) : Word :=
  if o = 0x2000 then wheelCtl s d
  else if o = 0x6018 then wrap64 (s.fcyc d)
  else if 0x7000 ≤ o && o < 0x7000 + 0x20 * 240 && o % 0x20 = 0x18 then wrap64 (s.ccyc (240 * d + (o - 0x7000) / 0x20))
  else if o = 0x9000 then colBusy s d
  else if 0xA000 ≤ o && o < 0xA800 then wrap64 (lbnd s d ((o - 0xA000) / 8 / 16) ((o - 0xA000) / 8 % 16))
  else s.reg (dieBase d + o)

/-- Where GTS is read: it sits among the package's registers, at an offset that the spec does not give (R79, R186; DESIGN CHOICE,
notes/assumptions/88.md). -/
def gtsOff : Nat := pkgBase

/-- Reads a privileged register; an offset that names none reads 0 (R3; DEDUCED, notes/assumptions/19.md). -/
def privRead (s : State) (off : Nat) : Word :=
  if off < pkgBase then dieRead s (off / 0x10000000) (off % 0x10000000)
  else if off = gtsOff then s.gts
  else s.reg off

/-! ## Writing -/

/-- The write of a register of which some bits are RW and some W1C (R3). -/
def maskedWrite (old v : Word) (rw w1c : Nat) : Word :=
  let m := wrap64 rw
  (old &&& ~~~m &&& ~~~(v &&& wrap64 w1c)) ||| (v &&& m)

def State.writeReg (s : State) (off : Nat) (v : Word) (rw w1c : Nat) : State := s.setReg off (maskedWrite (s.reg off) v rw w1c)

/-- The bits hi:lo. -/
def fieldMask (hi lo : Nat) : Nat := (2 ^ (hi + 1 - lo) - 1) <<< lo

/-- Whether a writer holds cells on a die, or is the host. -/
def writerOnDie (by_ : Writer) (s : State) (d : Nat) : Bool :=
  match by_ with
  | .host => true
  | .part p => s.holdsDie p d

/-- ASIDTB (R106). -/
def writeAsidtb (s : State) (by_ : Writer) (d : Nat) (v : Word) : State :=
  if writerOnDie by_ s d then s.writeReg (asidtbOff d) v (1 + fieldMask 51 16) 0 else s

/-- CASID (R106). -/
def writeCasid (s : State) (by_ : Writer) (cell : Nat) (v : Word) : State :=
  let a := bits v 12 0
  let inRange (p : Nat) : Bool := decide (s.asidLo p ≤ a) && decide (a ≤ s.asidHi p)
  let ok : Bool :=
    match by_, s.partOf cell with
    | .host, some p => inRange p
    | .part q, some p => q = p && inRange p
    | _, none => false
  if ok then s.writeReg (casidOff cell) v (fieldMask 12 0) 0 else s

/-- Offsets of BRET and BRSTAT of a die. -/
def bretOff (d : Nat) : Nat := dieBase d + 0x5000
def brstatOff (d : Nat) : Nat := dieBase d + 0x5008

/-- Sets STATE of a remap entry. -/
def setRemapState (s : State) (d g b st : Nat) : State :=
  s.setReg (remapOff d g b) (setBits (s.reg (remapOff d g b)) 8 7 st)

/-- The wheel position that meets a bank at a fabric cycle, if one does. -/
def meetingPos (s : State) (d group bank fc : Nat) : Option Nat :=
  (List.range 1024).find? (fun pos => pairedBank s d pos fc = (group, bank))

/-- The next pairing of a bank (R167). -/
def pushBankPairing (s : State) (d group bank : Nat) : State :=
  let fc := s.fcyc d + 1
  match meetingPos s d group bank fc with
  | some pos => s.pushE (.commonsPairing d pos fc)
  | none => s.pushE (.turnBoundary d (nextBoundary s d))

/-- A retirement request (R167, R168). A bank whose hole has yet to open is in the normal state: the request finds no spare for it
either. -/
def requestRetire (s : State) (d g b : Nat) : State :=
  let st := s.reg (brstatOff d)
  if st.getLsbD 0 || remapState s d g b ≠ 0 then
    s.setReg (brstatOff d) (setBit st 2 true)
  else
    match (if s.holes.contains (d, g, b) then none else freeSpare s d g) with
    | some _ =>
      let s := setRemapState s d g b 1
      pushBankPairing (s.setReg (brstatOff d) (setBits (setBit st 0 true) 14 3 0)) d g b
    | none =>
      { s.setReg (brstatOff d) (setBit st 1 true) with holes := s.holes.filter (· ≠ (d, g, b)) ++ [(d, g, b)] }.pushE
        (.turnBoundary d (nextBoundary s d))

/-- BRET (R166). -/
def writeBret (s : State) (d : Nat) (v : Word) : State :=
  let s := s.writeReg (bretOff d) v (fieldMask 9 0) 0
  if v.getLsbD 10 then requestRetire s d (bits v 3 0) (bits v 9 4) else s

/-- Offsets of a cell's power block (R213). -/
def powerOff (cell : Nat) : Nat := dieBase (dieOf cell) + 0x30000 + 0x40 * cellIx cell

/-- CEIL (R213): the cell is evaluated against its new ceilings. -/
def writeCeil (s : State) (cell : Nat) (v : Word) : State :=
  (s.writeReg (powerOff cell + 8) v 0xFF 0).pushE (.gearEvaluate cell)

/-- AGEMON (R213): CLR sets WORST to 0xFFFF. -/
def writeAgemon (s : State) (cell : Nat) (v : Word) : State :=
  if v.getLsbD 32 then s.setReg (powerOff cell + 0x10) (setBits (s.reg (powerOff cell + 0x10)) 31 16 0xFFFF) else s

/-- A select or count register of a counter block (R194). -/
def writePerf (s : State) (off : Nat) (v : Word) : State :=
  if off % 0x100 < 0x40 then s.writeReg off v 0xFF 0x100
  else if off % 0x100 < 0x80 then s.writeReg off v (fieldMask 47 0) 0
  else s

/-- A register of a wheel set (R163): nothing is written to the active set, nor to the inactive one while it is armed. -/
def writeWheel (s : State) (d o : Nat) (v : Word) : State :=
  let ctl := s.reg (dieBase d + 0x2000)
  let i := o % 0x1000
  if decide (o / 0x1000 = bits ctl 0 0) || ctl.getLsbD 1 then s
  else if i < 0x200 then s.writeReg (dieBase d + o) v (fieldMask 63 0) 0
  else if i < 0x400 then s.writeReg (dieBase d + o) v 0x3F 0
  else if i = 0x400 then s.writeReg (dieBase d + o) v 0x3F3F 0
  else s

/-- A word of a die's tables. -/
def dieWrite (s : State) (by_ : Writer) (d o : Nat) (v : Word) : State :=
  let ix (base size : Nat) : Nat := 240 * d + (o - base) / size
  if o < 0x2000 then writeWheel s d o v
  else if o = 0x2000 then s.writeReg (dieBase d + o) v 0 8
  else if o = 0x5000 then writeBret s d v
  else if o = 0x5008 then s.writeReg (dieBase d + o) v 0 6
  else if o = 0xB000 then writeAsidtb s by_ d v
  else if 0xB100 ≤ o && o < 0xB100 + 8 * 240 then writeCasid s by_ (ix 0xB100 8) v
  else if 0x10000 ≤ o && o < 0x10000 + 0x100 * 240 then writePerf s (dieBase d + o) v
  else if 0x20000 ≤ o && o < 0x20080 then writePerf s (dieBase d + o) v
  else if 0x30000 ≤ o && o < 0x30000 + 0x40 * 240 then
    if o % 0x40 = 8 then writeCeil s (ix 0x30000 0x40) v
    else if o % 0x40 = 0x10 then writeAgemon s (ix 0x30000 0x40) v
    else if o % 0x40 = 0x18 then s.writeReg (dieBase d + o) v 0 0x100
    else s
  else s

/-! ### Keys (R112, R184) -/

/-- Whether a line of memory was last written under a key's present material. -/
def heldUnder (s : State) (n line : Nat) : Bool := FMap.find? s.lineKey line = some (s.material n)

/-- Discards the key of a slot: lines filled, read or written under it are written back and leave L1 and L2 first (R112)
(DESIGN CHOICE, notes/assumptions/13.md). A slot that holds no material has none to lose. -/
def discardKey (s : State) (n : Nat) : State :=
  let now := s.forwards.filter (fun f => f.key = n)
  let s := { s with forwards := s.forwards.filter (fun f => f.key ≠ n) }
  let s := now.foldl performForward s
  let s := { s with lines := s.lines.filter (fun l => l.key ≠ n && !heldUnder s n l.line) }
  { s.setReg (keyReg n) (s.reg (keyReg n) &&& ~~~3#64) with
    keyMat := if (s.reg (keyReg n)).getLsbD 0 || (FMap.find? s.keyMat n).isSome then FMap.put s.keyMat n (s.nextId + 1) else s.keyMat
    nextId := s.nextId + 1
    replicas := s.replicas.filter (fun r => r.key ≠ n)
    cores := s.cores.map (fun q => (q.1, L1.drop q.2 (fun l => l.key = n))) }

/-- A write to a key table entry (R184, R379). -/
def writeKey (s : State) (by_ : Writer) (n : Nat) (v : Word) : State :=
  let ok : Bool := match by_ with | .host => true | .part p => p = bits (s.reg (keyReg n)) 5 2
  if v.getLsbD 1 && ok then discardKey s n else s

/-! ### Fault queues (R109) -/

def fqOff (p : Nat) : Nat := pkgBase + 0x180000 + 0x40 * p
def fqBase (s : State) (p : Nat) : Nat := bits (s.reg (fqOff p)) 51 5 * 32
def fqSize (s : State) (p : Nat) : Nat := 2 ^ bits (s.reg (fqOff p + 8)) 3 0
def fqEnabled (s : State) (p : Nat) : Bool := (s.reg (fqOff p + 8)).getLsbD 4
def fqHead (s : State) (p : Nat) : Nat := bits (s.reg (fqOff p + 0x10)) 15 0
def fqTail (s : State) (p : Nat) : Nat := bits (s.reg (fqOff p + 0x18)) 15 0

/-- Whether an address lies in the page of a fault. -/
def samePage (a b : Word) : Bool := a.toNat / 65536 = b.toNat / 65536

/-- The slot of a parked access is answered: with 1 its instruction issues again, with 2 it traps PAGE (R109). The faulting
address of a parked access stands in `pa`, its ASID in `key`. -/
def answerAccess (s : State) (f : FaultRec) (deny : Bool) (a : Access) : State :=
  let mine : Bool := a.stage = .faulted && a.key = f.asid && a.pa / 65536 = f.va.toNat / 65536 && s.partN a.cell = f.part
  match mine, a.slotOf s with
  | true, some sid =>
    let s := s.dropAccess a.id
    let s := s.modSlot sid (fun x => { x with park := if x.park = some .fault then none else x.park })
    if deny && (s.slot sid).goesOn then takeTrap s sid cPage a.op.kind.detail (wrap64 a.pa) false else s
  | _, _ => s

/-- Slots that are parked on the fetch of their next instruction in the page of a fault. -/
def fetchParked (s : State) (f : FaultRec) : List Nat :=
  (s.slots.filter (fun q => q.2.park = some .fault && samePage q.2.pc f.va && s.casid (cellOfSlot q.1) = f.asid &&
    s.partN (cellOfSlot q.1) = f.part && !s.flight.any (fun a => a.stage = .faulted && a.slotOf s = some q.1))).map (·.1)

/-- Answers a fault record: 1 retries, 2 denies (R109). -/
def answerFault (s : State) (f : FaultRec) (deny : Bool) : State :=
  let fetches := fetchParked s f
  let s := s.flight.foldl (fun s a => answerAccess s f deny a) s
  let s := fetches.foldl (fun s sid =>
    let s := s.modSlot sid (fun x => { x with park := none })
    if deny && (s.slot sid).goesOn then takeTrap s sid cPage 2 (s.slot sid).pc false else s) s
  let rest := s.faults.filter (fun g => g ≠ f)
  let s := { s with faults := if f.waits.isEmpty then rest else rest ++ [{ f with answer := some (if deny then 2 else 1) }] }
  s.push (f.waits.map (·.1)).eraseDups

/-- FQDONE (R109). A completion word in host memory cannot be read while the link is down: nothing happens (R216; DESIGN CHOICE,
notes/assumptions/102.md). -/
def writeFqdone (s : State) (p : Nat) (v : Word) : State :=
  let n := bits v 15 0
  match s.faults.find? (fun f => f.part = p && f.index = some n && f.answer.isNone) with
  | none => s
  | some f =>
    let pa := fqBase s p + 32 * (n % fqSize s p) + 0x18
    let r := physReadRaw s pa 8
    if isSystem pa && !s.linkUp then s
    else if r.1 = 1 then answerFault r.2 f false
    else if r.1 = 2 then answerFault r.2 f true
    else r.2

/-- A register of a fault queue. -/
def writeFq (s : State) (p i : Nat) (v : Word) : State :=
  match i with
  | 0 => s.writeReg (fqOff p) v (fieldMask 51 5) 0
  | 1 => (s.writeReg (fqOff p + 8) v 0x1F 0).pushE (.faultRecordWrite p)
  | 2 => (s.writeReg (fqOff p + 0x10) v 0xFFFF 0).pushE (.faultRecordWrite p)
  | 4 => writeFqdone s p v
  | _ => s

/-! ### Launch queues (R140) -/

def lqOff (p q : Nat) : Nat := pkgBase + 0x190000 + 0x400 * p + 0x40 * q
def lqBase (s : State) (p q : Nat) : Nat := (s.reg (lqOff p q)).toNat
def lqLen (s : State) (p q : Nat) : Nat := 2 ^ bits (s.reg (lqOff p q + 8)) 3 0
def lqEnabled (s : State) (p q : Nat) : Bool := (s.reg (lqOff p q + 8)).getLsbD 4
def lqDev (s : State) (p q : Nat) : Bool := (s.reg (lqOff p q + 8)).getLsbD 5
def lqHead (s : State) (p q : Nat) : Nat := bits (s.reg (lqOff p q + 0x10)) 15 0
def lqTail (s : State) (p q : Nat) : Nat := bits (s.reg (lqOff p q + 0x18)) 15 0
/-- Entries between HEAD and an index. -/
def lqCount (s : State) (p q t : Nat) : Nat := (t + 65536 - lqHead s p q) % 65536

/-- LQTAIL: the doorbell. -/
def writeLqtail (s : State) (p q : Nat) (v : Word) : State :=
  if lqDev s p q || decide (lqLen s p q < lqCount s p q (bits v 15 0)) then s
  else (s.writeReg (lqOff p q + 0x18) v 0xFFFF 0).pushE (.launchRead p)

/-- LQBASE: only while EN is 0. Bits 63:52, which R140 says are zero, are kept as they are stored (DESIGN CHOICE,
notes/assumptions/109.md). -/
def writeLqbase (s : State) (p q : Nat) (v : Word) : State :=
  if lqEnabled s p q then s else s.writeReg (lqOff p q) v (fieldMask 63 6) 0

/-- LQSIZE: while EN is 0, or where it clears EN and nothing else. -/
def writeLqsize (s : State) (p q : Nat) (v : Word) : State :=
  let old := s.reg (lqOff p q + 8)
  let onlyEn := !v.getLsbD 4 && bits v 3 0 = bits old 3 0 && v.getLsbD 5 = old.getLsbD 5
  if lqEnabled s p q && !onlyEn then s else (s.writeReg (lqOff p q + 8) v 0x3F 0).pushE (.launchRead p)

/-- A register of a launch queue. -/
def writeLq (s : State) (p q i : Nat) (v : Word) : State :=
  match i with
  | 0 => writeLqbase s p q v
  | 1 => writeLqsize s p q v
  | 3 => writeLqtail s p q v
  | _ => s

/-! ### Package tables -/

def pctlOff (p : Nat) : Nat := pkgBase + 0x170000 + 8 * p
def State.stopped (s : State) (p : Nat) : Bool := (s.reg (pctlOff p)).getLsbD 0
/-- Age limit in ns; 0 turns promotion off (R219). -/
def State.ageLimit (s : State) (p : Nat) : Nat := 1000 * bits (s.reg (pctlOff p)) 23 8

/-- Whether a cell's inbox holds a record that can still be promoted (R31). -/
def canAge (s : State) (cell : Nat) : Bool := ((s.cell cell).inbox.take 3).any (fun l => !l.isEmpty)

/-- The promotion of a cell's inbox records is due while one can be promoted (R31). -/
def agingDue (s : State) (cell : Nat) : State :=
  if canAge s cell && decide (s.ageLimit (s.partN cell) ≠ 0) then s.dueOnce (.age cell) else s

/-- PCTL (R219): a new age limit makes the promotions of the partition's inboxes due. -/
def writePctl (s : State) (p : Nat) (v : Word) : State :=
  let s := (s.writeReg (pctlOff p) v (1 + fieldMask 23 8) 0).pushE (.launchRead p)
  (s.cells.filter (fun q => s.partOf q.1 = some p)).foldl (fun s q => agingDue s q.1) s

/-- RW bits of a word of a partition table entry (R181). -/
def partMask (w : Nat) : Nat :=
  if w = 0 then 3 + fieldMask 61 8
  else if w = 1 then fieldMask 23 0
  else if w = 2 then fieldMask 63 0
  else if 4 ≤ w && w < 20 then (if w % 4 = 3 then fieldMask 47 0 else fieldMask 63 0)
  else 0

/-- A word of a partition table entry: nothing is written to a committed one (R379). -/
def writePart (s : State) (p w : Nat) (v : Word) : State :=
  if s.committed p then s else s.writeReg (partBase p + 8 * w) v (partMask w) 0

/-- RW bits of a word of an interleave descriptor (R183). -/
def ilvMask (w : Nat) : Nat := match w with | 0 => 0xFFFF | 2 => fieldMask 51 0 | _ => fieldMask 63 0

/-- A word of an interleave descriptor: nothing is written to one that a committed entry names (R379). -/
def writeIlv (s : State) (n w : Nat) (v : Word) : State :=
  if allParts.any (fun p => s.committed p && s.ilv p = n) then s
  else s.writeReg (pkgBase + 0x110000 + 0x20 * n + 8 * w) v (ilvMask w) 0

/-- RW bits of a word of a peer table entry (R217). -/
def peerMask (w : Nat) : Nat := match w with | 0 => fieldMask 50 0 + 2 ^ 63 | 3 => fieldMask 36 0 | _ => fieldMask 63 0

/-- A word of a peer table entry: from a partition only if it has SYS (R217) (DESIGN CHOICE, notes/assumptions/46.md). -/
def writePeer (s : State) (by_ : Writer) (n w : Nat) (v : Word) : State :=
  let ok : Bool := match by_ with | .host => true | .part p => s.partSys p
  if ok then s.writeReg (pkgBase + 0x150000 + 0x20 * n + 8 * w) v (peerMask w) 0 else s

/-- Offset of an operating-point entry (R178). -/
def opOff (n : Nat) : Nat := pkgBase + 0x200000 + 16 * n

/-- Cells with a live slot that uses an operating-point entry. -/
def opCells (s : State) (n : Nat) : List Nat :=
  ((s.slots.filter (fun q => q.2.isLive && q.2.opIdx = some n)).map (fun q => cellOfSlot q.1)).eraseDups

/-- Word 0 of an operating-point entry: with LOCK the point's own fields too (R178). -/
def writeOp (s : State) (n : Nat) (v : Word) : State :=
  let m := if v.getLsbD 33 then fieldMask 45 0 else fieldMask 33 0
  let s := s.writeReg (opOff n) v m 0
  s.push ((opCells s n).map (fun c => Turn.event (.gearEvaluate c)))

/-- PRAIL (R206). -/
def writePrail (s : State) (v : Word) : State := s.writeReg (pkgBase + 0x130010) v 0xFFFF 0

/-- A word of the package's tables. -/
def pkgWrite (s : State) (by_ : Writer) (o : Nat) (v : Word) : State :=
  if 0x100000 ≤ o && o < 0x101000 then writePart s ((o - 0x100000) / 0x100) (o % 0x100 / 8) v
  else if 0x110000 ≤ o && o < 0x110200 then writeIlv s ((o - 0x110000) / 0x20) (o % 0x20 / 8) v
  else if 0x120000 ≤ o && o < 0x120800 then writeKey s by_ ((o - 0x120000) / 8) v
  else if o = 0x130000 then s.writeReg (pkgBase + o) v 0xFFFF 0
  else if o = 0x130010 then writePrail s v
  else if o = 0x140000 then s.writeReg (pkgBase + o) v 0 0x80
  else if 0x150000 ≤ o && o < 0x152000 then writePeer s by_ ((o - 0x150000) / 0x20) (o % 0x20 / 8) v
  else if 0x170000 ≤ o && o < 0x170080 then writePctl s ((o - 0x170000) / 8) v
  else if 0x180000 ≤ o && o < 0x180400 then writeFq s ((o - 0x180000) / 0x40) (o % 0x40 / 8) v
  else if 0x190000 ≤ o && o < 0x194000 && o % 0x400 < 0x40 * Config.launchQueues then writeLq s ((o - 0x190000) / 0x400) (o % 0x400 / 0x40) (o % 0x40 / 8) v
  else if 0x200000 ≤ o && o < 0x210000 && o % 16 = 0 then writeOp s ((o - 0x200000) / 16) v
  else s

/-- A write of a privileged register by the host or by a thread at level Y; an offset that names no register takes nothing
(R3; DEDUCED, notes/assumptions/19.md). -/
def privWrite (s : State) (by_ : Writer) (off : Nat) (v : Word) : State :=
  if off < pkgBase then dieWrite s by_ (off / 0x10000000) (off % 0x10000000) v
  else if off < pkgBase + 0x10000000 then pkgWrite s by_ (off - pkgBase) v
  else s

/-! ## Steps that are register writes: what the host writes through BAR0 needs the link (R215, R216) -/

/-- Whether a writer reaches the device: the host over the link, a thread always. -/
def reaches (s : State) (by_ : Writer) : Bool :=
  match by_ with
  | .host => s.linkUp
  | .part _ => true

/-- A register write by someone who reaches the device. -/
def byWriter (s : State) (by_ : Writer) (t : State) : Host.Outcome State Fault Refusal := .next (if reaches s by_ then t else s)

/-- FQDONE_WRITE (R109). -/
def execFqdoneWrite (by_ : Writer) (p : Nat) (v : Word) (s : State) : Host.Outcome State Fault Refusal :=
  byWriter s by_ (writeFqdone s p v)
/-- LQTAIL_WRITE (R140). -/
def execLqtailWrite (by_ : Writer) (p q : Nat) (v : Word) (s : State) : Host.Outcome State Fault Refusal :=
  byWriter s by_ (writeLqtail s p q v)
/-- LQSIZE_WRITE (R140). -/
def execLqsizeWrite (by_ : Writer) (p q : Nat) (base : Bool) (v : Word) (s : State) : Host.Outcome State Fault Refusal :=
  byWriter s by_ (if base then writeLqbase s p q v else writeLqsize s p q v)
/-- BRET_WRITE (R166-R168). -/
def execBretWrite (by_ : Writer) (die : Nat) (v : Word) (s : State) : Host.Outcome State Fault Refusal :=
  byWriter s by_ (writeBret s die v)
/-- OPTABLE_WRITE (R178). -/
def execOptableWrite (by_ : Writer) (n : Nat) (v : Word) (s : State) : Host.Outcome State Fault Refusal :=
  byWriter s by_ (writeOp s n v)
/-- KEY_DISCARD (R184). -/
def execKeyDiscard (by_ : Writer) (n : Nat) (v : Word) (s : State) : Host.Outcome State Fault Refusal :=
  byWriter s by_ (writeKey s by_ n v)
/-- ASIDTB_WRITE (R106). -/
def execAsidtbWrite (by_ : Writer) (die : Nat) (v : Word) (s : State) : Host.Outcome State Fault Refusal :=
  byWriter s by_ (writeAsidtb s by_ die v)
/-- CASID_WRITE (R106). -/
def execCasidWrite (by_ : Writer) (cell : Nat) (v : Word) (s : State) : Host.Outcome State Fault Refusal :=
  byWriter s by_ (writeCasid s by_ cell v)
/-- PCTL_WRITE (R219). -/
def execPctlWrite (by_ : Writer) (p : Nat) (v : Word) (s : State) : Host.Outcome State Fault Refusal :=
  byWriter s by_ (writePctl s p v)
/-- CEIL_WRITE (R213). -/
def execCeilWrite (by_ : Writer) (cell : Nat) (v : Word) (s : State) : Host.Outcome State Fault Refusal :=
  byWriter s by_ (writeCeil s cell v)
/-- PRAIL_WRITE (R206). -/
def execPrailWrite (by_ : Writer) (v : Word) (s : State) : Host.Outcome State Fault Refusal :=
  byWriter s by_ (writePrail s v)
/-- AGEMON_CLR (R213). -/
def execAgemonClr (by_ : Writer) (cell : Nat) (v : Word) (s : State) : Host.Outcome State Fault Refusal :=
  byWriter s by_ (writeAgemon s cell v)
/-- REGISTER_WRITE (R3). -/
def execRegisterWrite (by_ : Writer) (off : Nat) (v : Word) (s : State) : Host.Outcome State Fault Refusal :=
  byWriter s by_ (privWrite s by_ off v)

end Sys2Proof.Machine
end

