-- ==== Sys2Proof/Machine/Power.lean ====
section
/-! DEFINITION. Gears, operating points, droops, clock steps and the power controller's sample (spec/09_power.md R196-R213,
spec/07_tables.md R178-R180, spec/08_counters.md R188-R190). -/

namespace Sys2Proof.Machine

/-! ## Operating points (R178-R180) -/

def opWord (s : State) (n : Nat) : Word := s.reg (opOff n)
def opKey (w : Word) : Nat := bits w 31 0
def opValid (w : Word) : Bool := w.getLsbD 32
def opLocked (w : Word) : Bool := w.getLsbD 33
def opGidx (w : Word) : Nat := bits w 38 35
def opLidx (w : Word) : Nat := bits w 42 39
def opFidx (w : Word) : Nat := bits w 45 43

/-- The lowest-numbered valid entry with a key (R178). -/
def opFind (s : State) (key : Nat) : Option Nat :=
  (List.find? (fun (q : Nat × Word) => decide (opOff 0 ≤ q.1) && decide (q.1 < opOff Config.opEntries) && q.1 % 16 = 0 &&
      opValid q.2 && opKey q.2 = key) s.regs).map
    (fun (q : Nat × Word) => (q.1 - opOff 0) / 16)

/-- Marks an entry as the most recently used. -/
def opUse (s : State) (n : Nat) : State := { s with opLru := s.opLru.filter (· ≠ n) ++ [n] }

/-- The entry that hardware replaces: the first invalid one, else the least recently used, the lowest-numbered of equals (R386); a
locked entry is never updated (R178, R179). -/
def opVictim (s : State) : Option Nat :=
  match (List.range Config.opEntries).find? (fun n => !opLocked (opWord s n) && !opValid (opWord s n)) with
  | some n => some n
  | none =>
    match (List.range Config.opEntries).find? (fun n => !s.opLru.contains n && !opLocked (opWord s n)) with
    | some n => some n
    | none => s.opLru.find? (fun n => !opLocked (opWord s n))

/-- Kernel id and key of a slot's current phase (R179). -/
def kernelOf (x : Slot) : Nat := bits x.tkey 23 0
def phaseKey (x : Slot) : Nat := kernelOf x + 2 ^ 24 * x.phase.toNat

/-- Sets REQ of a slot (R196). -/
def setReq (x : Slot) (b : Bool) : Slot := { x with greq := setBit x.greq 0 b }

/-- The lookup of R179 for a slot with a kernel id: a rise that follows is the thread's, not the controller's (R209). -/
def opLookup (s : State) (sid : Nat) : State :=
  let x := s.slot sid
  if kernelOf x = 0 then s
  else
    let s := (s.modCell (cellOfSlot sid) (fun c => { c with lift := .free })).pushE (.gearEvaluate (cellOfSlot sid))
    let s := s.dueOnce (.fabric (dieOf (cellOfSlot sid)))
    match opFind s (phaseKey x) with
    | some n => opUse (s.setSlot sid { setReq x ((opWord s n).getLsbD 34) with opIdx := some n }) n
    | none =>
      match opVictim s with
      | none => s.setSlot sid { x with opIdx := none }
      | some n =>
        let s := s.setReg (opOff n) (wrap64 (phaseKey x + 2 ^ 32 + 2 ^ 34 + 8 * 2 ^ 35 + 4 * 2 ^ 39 + 4 * 2 ^ 43))
        let s := s.setReg (opOff n + 8) 0#64
        opUse (s.setSlot sid { x with opIdx := some n }) n

/-- The glory index to try next: the best one, and on one run in eight one step away from it, up and down in turn, up first
(R180, R386). -/
def nextIndex (best runs : Nat) : Nat :=
  if runs % 8 ≠ 0 then best else if (runs / 8 % 2 = 1 && decide (best < 8)) || best = 0 then best + 1 else best - 1

/-- The end of a phase: its energy, a free value, updates an unlocked entry, with a time mark and the slot's source number (R180,
R195) (DESIGN CHOICE, notes/assumptions/44.md). -/
def endPhase (s : State) (sid : Nat) : State :=
  let x := s.slot sid
  match x.opIdx with
  | none => s
  | some n =>
    let w := opWord s n
    if opLocked w || !opValid w || opKey w ≠ phaseKey x then s
    else
      let r := s.freeW
      let s := r.2
      let e := bits r.1 31 0
      let old := s.reg (opOff n + 8)
      let runs := (bits old 63 32 + 1) % 2 ^ 32
      let better : Bool := bits old 63 32 = 0 || decide (e < bits old 31 0)
      let best := if better then opGidx w else FMap.get (opGidx w) s.opBest n
      let ebest := if better then e else bits old 31 0
      let s := (s.setReg (opOff n + 8) (wrap64 (ebest + 2 ^ 32 * runs))).setReg (opOff n)
        (setBits w 38 35 (nextIndex best runs))
      { s with opBest := FMap.put s.opBest n best, opMark := FMap.put s.opMark n (s.gts, globalPos (coreOf sid)) }

/-! ## A cell's indices (R179, R213) -/

/-- Live slots of a cell. -/
def liveSlots (s : State) (cell : Nat) : List (Nat × Slot) := s.slots.filter (fun q => cellOfSlot q.1 = cell && q.2.isLive)

/-- Entries that the live slots of a cell use. -/
def contributions (s : State) (cell : Nat) : List Word := (liveSlots s cell).filterMap (fun q => q.2.opIdx.map (opWord s))

/-- The highest of some indices, or the reset value where there are none. -/
def highest (d : Nat) (l : List Nat) : Nat := match l with | [] => d | a :: as => as.foldl max a

/-- Ceilings of a cell (R213). -/
def gloryCeil (s : State) (cell : Nat) : Nat := min 8 (bits (s.reg (powerOff cell + 8)) 3 0)
def lehrCeil (s : State) (cell : Nat) : Nat := min 6 (bits (s.reg (powerOff cell + 8)) 7 4)

/-- Whether a cell runs in glory. -/
def inGlory (c : Cell) : Bool := c.gear.getLsbD 0

/-- The indices at which a cell is to run. -/
def wantedGidx (s : State) (cell : Nat) : Nat :=
  let c := s.cell cell
  let g := min (gloryCeil s cell) (highest 8 ((contributions s cell).map opGidx))
  if c.stepDown && inGlory c then g - 1 else g
def wantedLidx (s : State) (cell : Nat) : Nat :=
  let c := s.cell cell
  let l := min (lehrCeil s cell) (highest 4 ((contributions s cell).map opLidx))
  if c.stepDown && !inGlory c then l - 1 else l

/-- Frequencies in 100 MHz units (R78, R178). -/
def gloryFreq (g : Nat) : Nat := 24 + 2 * g
def lehrFreq (l : Nat) : Nat := 6 + l
def fabricFreq (f : Nat) : Nat := 12 + 2 * f

/-- How far the running gear's index goes from one to a wanted one (R209). -/
def stepTo (lift : Lift) (old want : Nat) : Nat :=
  if want ≤ old then want
  else match lift with
    | .hold => old
    | .one => old + 1
    | .free => want

/-- Begins a step of the running gear's clock at the next tick (R188, R191). -/
def beginStep (s : State) (cell f : Nat) : State :=
  let t := tickAt s.gts.toNat + Config.cellStepTime
  (s.modCell cell (fun c => { c with lift := if c.lift = .one then .hold else c.lift, droop := { c.droop with step := some (wrap64 t, f) } })).pushE
    (.clockStepEnd false cell)

/-- Brings OPPT to the wanted indices: the idle gear's at once, the running gear's by a step that begins at the next tick (R191,
R198); of its rises that no thread makes the controller allows one index for each sample (R209). -/
def retune (s : State) (cell : Nat) : State :=
  let c := s.cell cell
  let g := wantedGidx s cell
  let l := wantedLidx s cell
  let old := if inGlory c then bits c.oppt 3 0 else bits c.oppt 7 4
  let want := if inGlory c then g else l
  let s := s.modCell cell (fun c => { c with oppt := if inGlory c then setBits c.oppt 7 4 l else setBits c.oppt 3 0 g })
  let new := stepTo c.lift old want
  if new = old then (if want = old && c.lift = .free then s.modCell cell (fun c => { c with lift := .hold }) else s)
  else beginStep s cell (if inGlory c then gloryFreq new else lehrFreq new)

/-! ## The gear state machine (R196-R198) -/

/-- WANT: some live slot asks for glory and does not hide it (R196). -/
def wantOf (s : State) (cell : Nat) : Bool := (liveSlots s cell).any (fun q => q.2.greq.getLsbD 0 && !q.2.greq.getLsbD 1)

/-- Begins a hop at the next tick from a time (R197, R198). -/
def beginHop (s : State) (cell : Nat) (up : Bool) (now : Nat) : State :=
  let stop := wrap64 (tickAt now)
  let s := s.modCell cell (fun c =>
    { c with gear := setBit c.gear 1 true, gearState := if up then .hopUp stop else .hopDown stop })
  (count s (cellPerf cell) 9 1).pushE (.hopEnd cell)

/-- A cell begins to count its hold time; the slope budget's answer is a free value each time it is asked (R197, R207). -/
def askBudget (s : State) (cell : Nat) : State :=
  { s.push [.later (.lhold cell (Config.slopeAnswer s.freeCtr))] with freeCtr := s.freeCtr + 1 }

/-- The evaluation at the end of a cell cycle, for a time (R196, R197). -/
def gearEvalAt (s : State) (cell now : Nat) : State :=
  if (clockStop (s.cell cell)).isSome then s
  else
    let want := wantOf s cell
    let s := s.modCell cell (fun c => { c with gear := setBit c.gear 2 want })
    let s := match (s.cell cell).gearState, want with
      | .glory, false => askBudget (s.modCell cell (fun c => { c with gearState := .pendingFall s.gts })) cell
      | .pendingFall _, true => s.modCell cell (fun c => { c with gearState := .glory })
      | .lehr, true => beginHop s cell true now
      | _, _ => s
    if (clockStop (s.cell cell)).isSome then s else retune s cell

/-- The same at the present time. -/
def gearEval (s : State) (cell : Nat) : State := gearEvalAt s cell s.gts.toNat

/-- GEAR_EVALUATE (R197). -/
def execGearEvaluate (cell : Nat) (s : State) : Host.Outcome State Fault Refusal := .next (gearEval s cell)

/-- LHOLD_EXPIRY (R197): the slope budget's answer comes with the step (R207); until the cell falls, or wants glory again, it is
asked again. -/
def execLholdExpiry (cell : Nat) (budget : Bool) (s : State) : Host.Outcome State Fault Refusal :=
  match (s.cell cell).gearState with
  | .pendingFall since =>
    let s := gearEval s cell
    if (s.cell cell).gearState = .pendingFall since && (clockStop (s.cell cell)).isNone
        && decide (since.toNat + Config.lhold ≤ s.gts.toNat) && budget then
      .next (beginHop s cell false s.gts.toNat)
    else .next (match (s.cell cell).gearState with | .pendingFall _ => askBudget s cell | _ => s)
  | _ => .next s

/-- The removal depth of a cell. -/
def depthOf (s : State) (cell : Nat) : Nat := bits (s.reg (powerOff cell)) 3 0

/-- Slot number of slot i of core k of a cell. -/
def slotOf (cell k i : Nat) : Nat := 16 * (4 * cell + k) + i

/-- The slots of a core that are removed at a depth: its n highest servitor slots that are not exempt, so that an exempt slot
has its place taken by the next lower one (R204, R205). -/
def removedSlots (s : State) (cell k n : Nat) : List Nat :=
  (((List.range 15).map (fun j => slotOf cell k (15 - j))).filter (fun sid => (s.slot sid).exemptUntil.isNone)).take n

/-- Removes a slot or restores it; the 50 µs of a live one begin (R205). -/
def setRemoved (s : State) (sid : Nat) (gone : Bool) : State :=
  let x := s.slot sid
  if gone then
    (if x.removedAt.isSome then s
     else
       let s := s.setSlot sid { x with removedAt := some s.gts }
       if x.isLive then s.dueOnce (.removal sid) else s)
  else if x.removedAt.isSome then s.setSlot sid { x with removedAt := none }
  else s

/-- Brings the removals of a cell to its depth and exemptions; where an exempt slot finds no substitute the running gear's
index stands one lower (R204, R205). During a hop they wait for the cell's first cycle after it (R201). -/
def applyDepth (s : State) (cell : Nat) : State :=
  if (clockStop (s.cell cell)).isSome then s
  else
    let n := depthOf s cell
    let short := (List.range 4).any (fun k => decide ((removedSlots s cell k n).length < n))
    let s := (List.range 4).foldl (fun s k =>
      let gone := removedSlots s cell k n
      (List.range 15).foldl (fun s j => setRemoved s (slotOf cell k (j + 1)) (gone.contains (slotOf cell k (j + 1)))) s) s
    (s.modCell cell (fun c => { c with stepDown := short })).pushE (.gearEvaluate cell)

/-- Forgets the droop stretches that a rewritten pair leaves behind. -/
def pastStretch (s : State) (cell t : Nat) : State :=
  s.modCell cell (fun c => { c with droop := { c.droop with stretch := c.droop.stretch.filter (fun q => decide (t < q.2.toNat)) } })

/-- A cell's clock runs again: pair rewritten, what has landed is drained, removals decided meanwhile take effect (R189, R199,
R201). -/
def clockRuns (s : State) (cell t n f : Nat) : State :=
  applyDepth (drainFifo ((pastStretch (rewriteCellPair s cell t n f) cell t).push [.event (.gearEvaluate cell), .matrix cell]) cell) cell

/-- The first edge after a hop (R197, R198). -/
def endHop (s : State) (cell : Nat) (stop : Word) (up : Bool) : State :=
  let c := s.cell cell
  let n := s.ccyc cell
  let f := if up then gloryFreq (bits c.oppt 3 0) else lehrFreq (bits c.oppt 7 4)
  let s := s.modCell cell (fun c => { c with
    gear := setBit (setBit c.gear 1 false) 0 up, gearState := if up then .glory else .lehr })
  clockRuns s cell (stop.toNat + Config.hopTime) n f

/-- HOP_END (R198). -/
def execHopEnd (cell : Nat) (s : State) : Host.Outcome State Fault Refusal :=
  let go (stop : Word) (up : Bool) : State :=
    if decide (stop.toNat + Config.hopTime ≤ s.gts.toNat) then endHop s cell stop up else s.pushE (.hopEnd cell)
  match (s.cell cell).gearState with
  | .hopDown stop => .next (go stop false)
  | .hopUp stop => .next (go stop true)
  | _ => .next s

/-! ## Clock steps (R188, R189, R191) -/

/-- The end of a cell's step. -/
def endCellStep (s : State) (cell : Nat) (t : Word) (f : Nat) : State :=
  let n := s.ccyc cell
  let s := s.modCell cell (fun c => { c with
    droop := { c.droop with step := none }
    oppt := if inGlory c then setBits c.oppt 3 0 ((f - 24) / 2) else setBits c.oppt 7 4 (f - 6) })
  clockRuns s cell t.toNat n f

/-- The end of a die's fabric step. -/
def endFabricStep (s : State) (d : Nat) (t : Word) (f : Nat) : State :=
  let n := s.fcyc d
  let s := { s with fabric := FMap.put s.fabric d { s.fabricOf d with step := none } }
  rewritePair s (fabricPair d) t.toNat n f

/-- CLOCK_STEP_END (R189). -/
def execClockStepEnd (fabric : Bool) (n : Nat) (s : State) : Host.Outcome State Fault Refusal :=
  let d : Droop := if fabric then s.fabricOf n else (s.cell n).droop
  match d.step with
  | none => .next s
  | some (t, f) =>
    if s.gts.toNat < t.toNat then .next (s.pushE (.clockStepEnd fabric n))
    else .next (if fabric then endFabricStep s n t f else endCellStep s n t f)

/-- FABRIC_OP_EVAL (R179): at most once per 1 ms. -/
def execFabricOpEval (die : Nat) (s : State) : Host.Outcome State Fault Refusal :=
  let f := s.fabricOf die
  let early := f.recent.any (fun q => decide (s.gts.toNat < q.1.toNat + 1000000))
  if early || f.step.isSome then .next s
  else
    let cells := (List.range 240).map (240 * die + ·)
    let fx := min 6 (highest 4 ((cells.map (fun c => (contributions s c).map opFidx)).flatten))
    let new : Droop := { f with recent := [(s.gts, none)] }
    if fabricFreq fx = bits (s.reg (fabricPair die + 0x10)) 7 0 then .next { s with fabric := FMap.put s.fabric die new }
    else
      let t := tickAt s.gts.toNat + fabricStepTime
      .next ({ s with fabric := FMap.put s.fabric die { new with step := some (wrap64 t, fabricFreq fx) } }.pushE
        (.clockStepEnd true die))

/-! ## Droops (R210-R212) -/

/-- The operating-point entry under which a cell runs: that of a live slot with the highest index of the running gear. -/
def runningEntry (s : State) (cell : Nat) : Option Nat :=
  let es := (liveSlots s cell).filterMap (fun q => q.2.opIdx)
  let ix (n : Nat) : Nat := if inGlory (s.cell cell) then opGidx (opWord s n) else opLidx (opWord s n)
  match es with
  | [] => none
  | e :: rest => some (rest.foldl (fun a b => if ix a < ix b then b else a) e)

/-- Demotes an entry: its running gear's index and DEMOTE (R212). -/
def demote (s : State) (cell n : Nat) : State :=
  let w := opWord s n
  let w := if inGlory (s.cell cell) then setBits w 38 35 (opGidx w - 1) else setBits w 42 39 (opLidx w - 1)
  let s := s.setReg (opOff n) (setBits w 49 46 (min 15 (bits w 49 46 + 1)))
  s.push ((opCells s n).map (fun c => Turn.event (.gearEvaluate c)))

/-- When the stopped clock of a cell starts again. -/
def restartOf (c : Cell) : Word :=
  match c.gearState with
  | .hopDown stop => stop + wrap64 Config.hopTime
  | .hopUp stop => stop + wrap64 Config.hopTime
  | _ => match c.droop.step with | some x => x.1 | none => 0#64

/-- A droop stretch begins, unless one is in progress; it lasts 100 ns where the rail does not recover before (R190, R210). -/
def addStretch (l : List (Word × Word)) (t : Word) : List (Word × Word) :=
  if l.any (fun q => decide (q.1.toNat ≤ t.toNat) && decide (t.toNat < q.2.toNat)) then l else l ++ [(t, t + wrap64 Config.droopTime)]

/-- DROOP (R210-R212): one that meets a clock which has stopped is latched. -/
def execDroop (cell : Nat) (s : State) : Host.Outcome State Fault Refusal :=
  let c := s.cell cell
  let off := powerOff cell + 0x18
  let stopped := match clockStop c with | some u => decide (u ≤ s.gts.toNat) | none => false
  let r := s.reg off
  let s := s.setReg off (setBit (setBits r 7 0 (min 255 (bits r 7 0 + 1))) 8 (r.getLsbD 8 || stopped))
  let e := runningEntry s cell
  let recent := c.droop.recent.filter (fun q => decide (s.gts.toNat < q.1.toNat + 1000000)) ++ [(s.gts, e)]
  let third := decide (3 ≤ (recent.filter (fun q => q.2 = e)).length)
  let from_ := if stopped then restartOf c else s.gts
  let s := s.modCell cell (fun c => { c with droop := { c.droop with
    stretch := addStretch c.droop.stretch from_, recent := if third then recent.filter (fun q => q.2 ≠ e) else recent } })
  match third, e with
  | true, some n => .next (demote s cell n)
  | _, _ => .next s

/-- A stretch whose rail recovers at a time; one that is to begin at a first edge after it does not (R211). -/
def recover (t : Word) (q : Word × Word) : Word × Word := (q.1, if t.toNat < q.2.toNat then (if t.toNat < q.1.toNat then q.1 else t) else q.2)

/-- DROOP_RECOVERY (R210): the stretch in progress ends, and at the first tick after it the pair is rewritten (R190). -/
def execDroopRecovery (cell : Nat) (s : State) : Host.Outcome State Fault Refusal :=
  .next (settleStretch
    (s.modCell cell (fun c => { c with droop := { c.droop with stretch := c.droop.stretch.map (recover s.gts) } })) cell)

/-! ## The power controller's sample (R204, R206-R209) -/

/-- Sets a cell's depth (R204). -/
def setDepth (s : State) (cell n : Nat) : State := applyDepth (s.setReg (powerOff cell) (wrap64 n)) cell

/-- The cap in W (R206). -/
def capOf (s : State) : Nat := min 6000 (bits (s.reg (pkgBase + 0x130000)) 15 0)

/-- PMEAS (R206). -/
def pmeasOff : Nat := pkgBase + 0x130008

/-- Whether cell a is deepened before cell b: by measured power, ties by logical cell number (R204), then by cell number, of which
R204 speaks only within a partition (DESIGN CHOICE, notes/assumptions/14.md). -/
def deeperFirst (s : State) (a b : CellSample) : Bool :=
  let l (x : CellSample) : Nat := s.lcellOf (s.partN x.cell) x.cell
  decide (b.watts < a.watts) || (a.watts = b.watts && (decide (l a < l b) || (l a = l b && decide (a.cell < b.cell))))

/-- The first cell of a sample in an order of deepening, of those that a test admits. -/
def pickCell (before : CellSample → CellSample → Bool) : List CellSample → Option Nat
  | [] => none
  | a :: as => some (as.foldl (fun x y => if before y x then y else x) a).cell

/-- The cells of a sample that a committed partition holds. -/
def sampledCells (s : State) (l : List CellSample) : List CellSample := l.filter (fun x => (s.partOf x.cell).isSome)

/-- Deepens a cell by one: the first in order that can be deepened and that this sample has not (R204). -/
def deepenOne (l : List CellSample) (q : State × List Nat) : State × List Nat :=
  match pickCell (deeperFirst q.1) ((sampledCells q.1 l).filter (fun x => !q.2.contains x.cell && decide (depthOf q.1 x.cell < 15))) with
  | some c => (setDepth q.1 c (depthOf q.1 c + 1), c :: q.2)
  | none => q

/-- Relieves one cell by one, in the reverse order (R204, R209). -/
def relieveOne (s : State) (l : List CellSample) : State :=
  match pickCell (fun a b => deeperFirst s b a) ((sampledCells s l).filter (fun x => depthOf s x.cell ≠ 0)) with
  | some c => setDepth s c (depthOf s c - 1)
  | none => s

/-- What a sample finds at a cell: the slack of AGEMON and its least value, and ballast cycles, which performance event 7 counts
(R194, R213). -/
def noteCell (s : State) (x : CellSample) : State :=
  let off := powerOff x.cell + 0x10
  let w := s.reg off
  let k := min 0xFFFF x.slack
  count (s.setReg off (setBits (setBits w 15 0 k) 31 16 (min k (bits w 31 16)))) (cellPerf x.cell) 7 x.ballast

/-- With a sample the controller may raise each running index by one (R209). -/
def allowRise (s : State) : State :=
  let low := s.cells.filter (fun q => decide (stepTo .one (if inGlory q.2 then bits q.2.oppt 3 0 else bits q.2.oppt 7 4)
    (if inGlory q.2 then wantedGidx s q.1 else wantedLidx s q.1) > (if inGlory q.2 then bits q.2.oppt 3 0 else bits q.2.oppt 7 4)))
  ({ s with cells := s.cells.map (fun q => (q.1, { q.2 with lift := if q.2.lift = .hold then .one else q.2.lift })) } : State).push
    (low.map (fun q => Turn.event (.gearEvaluate q.1)))

/-- POWER_SAMPLE (R204, R206, R208): the measured power and current, the watts of it that are ballast held for the slope limit, how
many cells more than one are to be deepened, which R204 leaves open, and what each cell shows come with the step. The window in
which such ballast lifts the mean above the cap is an overdraw window, once: from the next one the cap wins until the mean has come
down to it. -/
def execPowerSample (watts amps ballast deepen : Nat) (cells : List CellSample) (s : State) : Host.Outcome State Fault Refusal :=
  let all := s.samples ++ [watts]
  let kept := all.drop (all.length - 100)
  let sum := kept.foldl (· + ·) 0
  let n := max 1 kept.length
  let mean := sum / n
  let cap := capOf s
  let overdraw := decide (cap < mean) && decide ((sum - ballast) / n ≤ cap) && !s.capWins
  let s := cells.foldl noteCell { s with samples := kept, capWins := decide (cap < mean) && (overdraw || s.capWins) }
  let s := s.setReg pmeasOff (wrap64 (min 0xFFFF mean + 65536 * (min 0xFFFF amps) + 2 ^ 32 * overdraw.toNat))
  let s :=
    if overdraw then s
    else if cap < mean then ((List.range (deepen + 1)).foldl (fun q _ => deepenOne cells q) (s, [])).1
    else if 100 * mean < 95 * cap then relieveOne s cells
    else s
  .next (allowRise s)

end Sys2Proof.Machine
end

