-- ==== Sys2Proof/Machine/Engine.lean ====
section
/-! DEFINITION. How the punty, the graph engine, the copy ports and the sequencers reach virtual addresses, and the end of a
task: its join and its node's retirement counter (spec/06_queues.md R145, R150-R152, R158, R159, R391, spec/04_memories.md
R108-R109, spec/08_counters.md R195). -/

namespace Sys2Proof.Machine

/-! ## Virtual accesses of engines -/

/-- An agent that translates for itself: partition, die, ASID, fault kind and source number of R109 and R195, the turn that makes
its access again after a demand fault, and which of that turn's accesses it is. -/
structure Agent where
  part : Nat
  die : Nat
  asid : Nat
  kind : Nat
  source : Nat
  again : Turn
  who : Nat := 0
  /-- whether it fetches (R304) -/
  fetch : Bool := false

/-- Source number of a cell's agent (R195). -/
def cellSource (kind cell : Nat) : Nat := 4096 * kind + globalPos (4 * cell)

/-- An access of an agent as a fault record keeps it. -/
def Agent.waiter (g : Agent) : Turn × Nat := (g.again, g.who)

/-- Whether an access waits on a fault record of a page that has no answer yet. -/
def isParked (s : State) (g : Agent) (va : Word) : Bool :=
  s.faults.any (fun f => f.part = g.part && f.asid = g.asid && samePage f.va va && f.answer.isNone && f.waits.contains g.waiter)

/-- Whether the record on which an access waited was answered with 2. -/
def isDenied (s : State) (g : Agent) (va : Word) : Bool :=
  s.faults.any (fun f => f.part = g.part && f.asid = g.asid && samePage f.va va && f.answer = some 2 && f.waits.contains g.waiter)

/-- Forgets that an access was denied a page. -/
def clearDenied (s : State) (g : Agent) (va : Word) : State :=
  let forget (f : FaultRec) : FaultRec :=
    if f.answer = some 2 && f.part = g.part && f.asid = g.asid && samePage f.va va then { f with waits := f.waits.filter (fun i => decide (i ≠ g.waiter)) } else f
  { s with faults := (s.faults.map forget).filter (fun f => f.answer ≠ some 2 || !f.waits.isEmpty) }

/-- Translates one address of an engine: `demand` means that the step is parked on a fault record (R109, R391). -/
def agentXlate (s : State) (g : Agent) (va : Word) (rd wr : Bool) : Xlate × State :=
  if !canonical va || va.getLsbD 56 then (.denied, s)
  else if isParked s g va then (.demand, s)
  else if isDenied s g va then (.denied, clearDenied s g va)
  else
    match translate s g.part g.die g.asid va.toNat (rd && !g.fetch) wr g.fetch with
    | (.demand, s) =>
      let s := demandFault s g.part g.asid g.kind g.source va
      (.demand, { s with faults := s.faults.map (fun f =>
        if f.part = g.part && f.asid = g.asid && samePage f.va va && f.answer.isNone && !f.waits.contains g.waiter
        then { f with waits := f.waits ++ [g.waiter] } else f) })
    | r => r

/-- What a read of an engine comes to. -/
inductive Got where
  | val (v : Nat)
  | denied (va : Word)
  | error (va : Word)
  | parked
  deriving DecidableEq, Repr

/-- Reads n bytes from a virtual address, page by page; the fuel bounds the pages. -/
def readVirtFuel : Nat → State → Agent → Word → Nat → Got × State
  | 0, s, _, _, _ => (.val 0, s)
  | k + 1, s, g, va, n =>
    if n = 0 then (.val 0, s)
    else
      match agentXlate s g va true false with
      | (.demand, s) => (.parked, s)
      | (.denied, s) => (.denied va, s)
      | (.ok pa key attr, s) =>
        let h := pageBytes va n
        if physErr s pa h then (.error (va + wrap64 (errAt s pa h - pa)), s)
        else
          let r := engineRead s g.die pa h key attr
          match readVirtFuel k r.2 g (va + wrap64 h) (n - h) with
          | (.val v, s) => (.val (r.1 + 2 ^ (8 * h) * v), s)
          | other => other

/-- Reads n bytes from a virtual address. -/
def readVirt (s : State) (g : Agent) (va : Word) (n : Nat) : Got × State := readVirtFuel (n / 65536 + 2) s g va n

/-- What a write of an engine comes to. -/
inductive Put where
  | done
  | denied (va : Word)
  | parked
  deriving DecidableEq, Repr

/-- Whether every page of a run may be written; nothing is written here. Host memory with the link down is taken as denied (R216; DESIGN
CHOICE, notes/assumptions/102.md). -/
def probeFuel : Nat → State → Agent → Word → Nat → Put × State
  | 0, s, _, _, _ => (.done, s)
  | k + 1, s, g, va, n =>
    if n = 0 then (.done, s)
    else
      match agentXlate s g va false true with
      | (.demand, s) => (.parked, s)
      | (.denied, s) => (.denied va, s)
      | (.ok pa _ _, s) =>
        if isSystem pa && !s.linkUp then (.denied va, s)
        else probeFuel k s g (va + wrap64 (pageBytes va n)) (n - pageBytes va n)

/-- Writes the pages of a run. -/
def writePagesFuel : Nat → State → Agent → Word → Nat → Nat → State
  | 0, s, _, _, _, _ => s
  | k + 1, s, g, va, n, v =>
    if n = 0 then s
    else
      let h := pageBytes va n
      match translate s g.part g.die g.asid va.toNat false true false with
      | (.ok pa key attr, s) =>
        writePagesFuel k (engineWrite s g.die pa h (v % 2 ^ (8 * h)) key attr) g (va + wrap64 h) (n - h) (v / 2 ^ (8 * h))
      | (_, s) => s

/-- Writes n bytes to a virtual address, all of them or none. -/
def writeVirt (s : State) (g : Agent) (va : Word) (n v : Nat) : Put × State :=
  match probeFuel (n / 65536 + 2) s g va n with
  | (.done, s) => (.done, writePagesFuel (n / 65536 + 2) s g va n v)
  | other => other

/-! ## Joins (R151) -/

/-- The join word after a task's end (DEDUCED, notes/assumptions/77.md). -/
def joined (w : Word) (status : Nat) : Word :=
  let w := if bits w 31 0 = 0 then setBit w 62 true else w - 1#64
  let bad := status = 1 || status = 2 || status = 3
  let w := if bad && decide (bits w 47 32 < 0xFFFF) then w + wrap64 (2 ^ 32) else w
  if status = 3 then setBit w 63 true else w

/-- Performs the join at a word of a cell's local memory; a count of 0 fills it, which a synchronised load of it acquires at package
scope (R125). -/
def joinLocal (s : State) (cell o status : Nat) : State :=
  if localErr s cell o 8 then s
  else
    let w := joined (wrap64 (localRead s cell o 8)) status
    let s := localWrite s cell o 8 w.toNat
    if bits w 31 0 = 0 then
      s.modCell cell (fun c => { Loc.setFull c o true with joined := Loc.wordAt c o :: c.joined.filter (· ≠ Loc.wordAt c o) })
    else s

/-- The join at an address: at a word of the remote aperture or of the lower half; elsewhere nothing (R151). True where the end
is parked on a demand fault. DESIGN CHOICE (notes/assumptions/82.md): a join word in uncorrectable error, or in a page of ATTR 10,
takes no join. -/
def joinAt (s : State) (g : Agent) (va : Word) (status : Nat) : Bool × State :=
  if va = 0#64 || !alignedTo va 8 || !canonical va then (false, s)
  else if va.getLsbD 56 then
    let o := bits va 47 0
    if bits va 63 48 = 0xFF01 then
      match s.cellAt g.part (o / localSize) with
      | some c => (false, joinLocal s c (o % localSize) status)
      | none => (false, s)
    else (false, s)
  else
    match agentXlate s g va true true with
    | (.demand, s) => (true, s)
    | (.denied, s) => (false, s)
    | (.ok pa key attr, s) =>
      if attr = 2 || physErr s pa 8 then (false, s)
      else
        let r := homeRead s g.die pa 8 key attr
        (false, homeWrite r.2 pa 8 (joined (wrap64 r.1) status).toNat key none)

/-! ## Retirement counters (R145) -/

/-- Number of tasks of a node. -/
def Node.tasks (n : Node) : Nat := n.x * n.y * n.z

/-- Whether a record lies in a node's record array. -/
def Node.hasRecord (n : Node) (rec_ : Word) : Bool :=
  decide (n.recs.toNat ≤ rec_.toNat) && decide (rec_.toNat < n.recs.toNat + 64 * n.placed)

/-- A node that has become complete. -/
def completeNode (l : Launch) (i : Nat) : Launch :=
  let n := (l.nodes[i]?)
  match n with
  | none => l
  | some n =>
    let l := { l with nodes := setAt l.nodes i { n with complete := true } }
    if n.stop && n.failed ≠ 0 then { l with cut := true }
    else
      { l with nodes := n.succ.foldl (fun ns j =>
          match ns[j]? with
          | some m => setAt ns j { m with deps := m.deps - 1 }
          | none => ns) l.nodes }

/-- Raises a node's retirement counter, and completes it with its last task. -/
def retireIn (l : Launch) (i status : Nat) : Launch :=
  match l.nodes[i]? with
  | none => l
  | some n =>
    let bad := status = 1 || status = 2 || status = 3
    let n := { n with retired := n.retired + 1, failed := n.failed + bad.toNat }
    let l := { l with nodes := setAt l.nodes i n }
    if n.retired = n.tasks then completeNode l i else l

/-- The nodes of a running launch that have become ready, in ascending index, take serial numbers from n on (R22). -/
def readyNodes : Nat → List Node → List Node × Nat
  | n, [] => ([], n)
  | n, m :: ms =>
    if m.deps = 0 && m.ready.isNone then
      let r := readyNodes (n + 1) ms
      ({ m with ready := some n } :: r.1, r.2)
    else
      let r := readyNodes n ms
      (m :: r.1, r.2)

/-- Puts a launch back with what has become ready in it. -/
def setLaunch (s : State) (li : Nat) (l : Launch) : State :=
  let r := readyNodes s.nextId l.nodes
  { s with launches := setAt s.launches li { l with nodes := r.1 }, nextId := r.2 }

/-- The running launch and node of a partition that hold a record. -/
def nodeOf (s : State) (p : Nat) (rec_ : Word) : Option (Nat × Nat) :=
  (s.launches.zipIdx.filter (fun (q : Launch × Nat) => q.1.part = p)).findSome? (fun (q : Launch × Nat) =>
    (q.1.nodes.zipIdx.find? (fun (m : Node × Nat) => m.1.hasRecord rec_ && !m.1.complete)).map (fun m => (q.2, m.2)))

/-- The retirement counter of the node of a record rises (R145, R150). -/
def raiseNode (s : State) (p : Nat) (rec_ : Word) (status : Nat) : State :=
  match nodeOf s p rec_ with
  | none => s
  | some (li, ni) =>
    match s.launches[li]? with
    | some l => (setLaunch s li (retireIn l ni status)).pushE (.recordPlace p)
    | none => s

/-! ## Final statuses (R150) -/

/-- A final status as `reap` codes it (R152). -/
def Final.code : Final → Nat
  | .ok => 0
  | .failed => 1
  | .trapped => 2
  | .killed => 3
  | .suspended => 4

/-- The record address of a slot (R71). -/
def recordOf (x : Slot) : Word := wrap64 (bits x.tid 58 8 * 64)

/-- Gives a slot its final status: its claims go, its gaffer's `wfi` ends (R74, R150, R316). -/
def giveFinal (s : State) (sid : Nat) (f : Final) (info : BitVec 32) : State :=
  let s := s.modSlot sid (fun x => { x with
    status := .ended f info, aown := 0#64, park := none, await := none, killReq := none, deferred := none, cap := none })
  let s := s.modSlot (16 * coreOf sid) wakeSlot
  s.pushE (.gearEvaluate (cellOfSlot sid))

/-- Whether a command of a slot is queued for, or runs in, the matrix unit. -/
def matrixBusy (s : State) (sid : Nat) : Bool :=
  (s.core (coreOf sid)).mq.any (fun c => c.sid = sid) ||
    (match (s.cell (cellOfSlot sid)).mrun with | some r => r.cmd.sid = sid | none => false) ||
    tileOf s (cellOfSlot sid) (fun c => c.sid = sid)

/-- Whether a forked program of a slot runs. -/
def forkBusy (s : State) (sid : Nat) : Bool :=
  let k := s.core (coreOf sid)
  (match k.seqM with | some q => q.sid = sid | none => false) ||
    (match k.seqC with | some q => q.sid = sid | none => false) ||
    (match k.seqV with | some q => q.sid = sid | none => false)

/-- Whether the accesses of a slot that are older than a serial number have been performed, at a scope (R121, R125). -/
def released (s : State) (sid id scope : Nat) : Bool :=
  !s.flight.any (fun b => decide (b.place < id) && b.slotOf s = some sid && !b.answered &&
      (match b.src with | .blk _ _ _ => false | _ => true)) &&
    !vecQueued s sid id && !(decide (4 ≤ scope) && forwardsOpen s (dieOf (cellOfSlot sid)))

/-- Whether a slot that stops must still wait before its end (R150, R297). -/
def endWaits (s : State) (sid : Nat) (f : Final) : Bool :=
  let x := s.slot sid
  x.unack ≠ 0#64 || x.replay.isSome || forwardsOpen s (dieOf (cellOfSlot sid)) ||
    (match f with
     | .killed => false
     | .trapped => x.anyOwed
     | _ => x.anyOwed || forkBusy s sid || matrixBusy s sid)

/-- The end of a task: its join, its node's counter, its final status (DEDUCED, notes/assumptions/45.md). -/
def finishTask (s : State) (sid : Nat) (f : Final) (info : BitVec 32) : State :=
  let x := s.slot sid
  let cell := cellOfSlot sid
  let p := s.partN cell
  let g : Agent := { part := p, die := dieOf cell, asid := s.casid cell, kind := 0, source := globalPos (coreOf sid), again := .event (.taskEnd sid) }
  let close (s : State) : State := giveFinal (raiseNode (endPhase s sid) p (recordOf x) f.code) sid f info
  match readVirt s g x.targ 8 with
  | (.parked, s) => s
  | (.val v, s) =>
    match joinAt s g (wrap64 v) f.code with
    | (true, s) => s
    | (false, s) => close s
  | (_, s) => close s

/-- A deferred trap that meets a slot on its way to its end is taken as unhandled (R83). -/
def deferAtEnd (x : Slot) : Slot :=
  match x.deferred, x.status with
  | some t, .ending f _ =>
    match f with
    | .ok => { trapSlot { x with tvec := 0#64 } t.cause t.detail t.tval true with deferred := none, tvec := x.tvec }
    | .failed => { trapSlot { x with tvec := 0#64 } t.cause t.detail t.tval true with deferred := none, tvec := x.tvec }
    | _ => { x with deferred := none }
  | _, _ => x

/-- TASK_END (R150), at a cycle of the slot's cell (R198). -/
def execTaskEnd (sid : Nat) (s : State) : Host.Outcome State Fault Refusal :=
  let t := s.setSlot sid (deferAtEnd (s.slot sid))
  match (t.slot sid).status with
  | .ending f info =>
    .next (whenRunning s (cellOfSlot sid) (.taskEnd sid) (if endWaits t sid f then t.pushE (.taskEnd sid) else finishTask t sid f info))
  | _ => .next t

/-! ## Kills (R153) -/

/-- Accesses and messages of a slot that only its own retry, or a fault's answer, would bring on: they go with the slot. A refused
message still counts in UNACK (R192); a refused or parked access does not (R4) (DEDUCED, notes/assumptions/33.md). -/
def abandon (s : State) (sid : Nat) : State :=
  let stuck (a : Access) : Bool := a.slotOf s = some sid && (a.stage = .held || a.stage = .faulted)
  let n := (s.messages.filter (fun m => m.sid = sid && decide (m.answer = some Verdict.refused))).length
  let s := { s with
    flight := s.flight.filter (fun a => !stuck a)
    messages := s.messages.filter (fun m => !(m.sid = sid && decide (m.answer = some Verdict.refused))) }
  s.modSlot sid (fun x => { x with unack := x.unack - wrap64 n })

/-- A killed slot's vector instructions: those that have not started and those that owe it a register go; stores whose data
are there, and stores that have started, are performed (R153, R344; notes/assumptions/49.md). -/
def dropVector (s : State) (sid : Nat) : State :=
  let core := coreOf sid
  let x := s.slot sid
  let isSt (e : VEntry) : Bool := match e.item.instr with
    | .vst _ _ _ => true
    | .vscat _ _ _ _ _ => true
    | _ => false
  let goes (e : VEntry) : Bool := e.sid = sid && !(isSt e && e.reads.all x.vF && e.readsP.all x.pF)
  let n := ((s.core core).vq.filter (fun e => goes e && isSt e)).length
  let s := s.modCore core (fun c => { c with
    vq := c.vq.filter (fun e => !goes e)
    vrun := c.vrun.filter (fun r => !(r.sid = sid && !r.store)) })
  s.modSlot sid (fun x => { x with unack := x.unack - wrap64 n })

/-- Stops the copy and vector programs of a slot (R153) (DEDUCED, notes/assumptions/43.md). -/
def stopPrograms (s : State) (sid : Nat) : State :=
  s.modCore (coreOf sid) (fun k => { k with
    seqC := match k.seqC with | some q => if q.sid = sid then none else some q | none => none
    seqV := match k.seqV with | some q => if q.sid = sid then none else some q | none => none })

/-- The effect of a kill: the slot stops, its matrix commands are discarded, nothing is owed to it any longer (R153). -/
def killSlot (s : State) (sid : Nat) : State :=
  let s := dropVector (stopPrograms (discardMatrix (abandon s sid) sid) sid) sid
  let s := s.modSlot sid (fun x => { x with
    status := .ending .killed 0#32, spend := 0#64, vpend := 0#32, ppend := 0#8, park := none, await := none
    killReq := none, deferred := none, cap := none, replay := none })
  s.pushE (.taskEnd sid)

/-- KILL_EFFECT (R153), at an issue cycle of the slot: nothing for a final status or another generation; it waits while the
punty spills or migrates the slot, at either end of the migration. -/
def execKillEffect (s : State) : Host.Outcome State Fault Refusal :=
  let x := s.slot s.cur
  match x.killReq with
  | none => .next s
  | some g =>
    if x.gen ≠ g || !x.isLive then .next (s.setSlot s.cur { x with killReq := none })
    else
      match x.status with
      | .spilling _ => .next s
      | .moving _ _ => .next s
      | _ => .next (if s.contexts.any (fun c => c.target = s.cur) then s else killSlot s s.cur)

/-- Takes a gaffer out of the list of waiting starts (R149). -/
def leaveWait (s : State) (sid : Nat) : State :=
  s.modCell (cellOfSlot sid) (fun c => { c with startWait := c.startWait.filter (fun w => w.gaffer ≠ sid) })

/-- A `start` that no longer waits lets those behind it be tried again (R149). -/
def endWait (s : State) (sid : Nat) : State :=
  if (s.cell (cellOfSlot sid)).startWait.any (fun w => w.gaffer = sid) then (leaveWait s sid).pushE (.poolGrant (cellOfSlot sid))
  else s

/-! ## Deferred traps and parks at an issue cycle (R4, R83, R281) -/

/-- DEFERRED_TRAP (R83). -/
def execDeferredTrap (s : State) : Host.Outcome State Fault Refusal :=
  let x := s.slot s.cur
  match x.deferred with
  | none => .next s
  | some t => .next (takeTrap ((endWait s s.cur).setSlot s.cur { x with deferred := none }) s.cur t.cause t.detail t.tval true)

/-- Whether a park ends by itself at the slot's turn: its reason is judged afresh by the instruction (R4). A demand fault, a
barrier, a `wfi`, room in UNACK and registers of the pools end a park by their own events. -/
def retriable (p : Park) : Bool :=
  match p with
  | .fault => false
  | .barrier _ => false
  | .wfi => false
  | .unack => false
  | .pool => false
  | .refused => false
  | _ => true

/-- PARK_RESUME (R4): the park ends, and at its next turn the slot issues the instruction again from its start, which parks
again where the reason still holds. -/
def execParkResume (s : State) : Host.Outcome State Fault Refusal :=
  let x := s.slot s.cur
  match x.park with
  | some p => .next (if retriable p then s.setSlot s.cur { x with park := none } else s)
  | none => .next s

/-- The slot after the second issue of a refused access: as after the first (R4, R64, R71). -/
def reissuedSlot (x : Slot) (id : Nat) (dst : Option Nat) (cons : List Nat) (counts : Bool) : Slot :=
  let y := x.takenAgain cons
  let y := match dst with | some d => y.oweD d | none => y
  let y := if counts then raiseUnack y else y
  { y with pc := y.pc + 4#64, await := some id, park := none }

/-- A refused access is issued again: it goes the path of its first attempt (R281). -/
def resendAccess (s : State) (a : Access) : State :=
  let x := s.slot s.cur
  match a.src with
  | .slot sid gen pc dst _ cons counts =>
    if counts && decide (x.unack = 0xFFFF#64) then (s.dropAccess a.id).setSlot s.cur { x with park := none }
    else
      let a := { a with src := .slot sid gen pc dst (match dst with | some d => x.fullD d | none => true) cons counts, entered := s.nextId }
      let s := { s.setSlot s.cur (reissuedSlot x a.id dst cons counts) with nextId := s.nextId + 1 }
      match spaceOf s a.cell a.va with
      | .own o => (s.setAccess { a with stage := .wheel a.cell (a.core % 4) }).pushE
          (.localPairing a.cell (a.core % 4) (pairTime s a.cell (a.core % 4) o))
      | .remote c _ => (s.setAccess { a with stage := .lattice c }).pushE (.remoteAccessArrival a.id)
      | _ => s
  | _ => s

/-- A refused message is issued again; it has counted in UNACK all the while (R192). -/
def resendMessage (s : State) (m : Message) : State :=
  let again (q : Message) : Message := if q.id = m.id then { q with answer := none } else q
  let s := s.modSlot s.cur (fun x => { x.takenAgain m.cons with pc := x.pc + 4#64, await := some m.id, park := none })
  { s with messages := s.messages.map again }.pushE (.messageArrival m.id)

/-- REFUSED_RETRY (R281): the instruction that was refused issues again from its start, and its request goes to its owner again
(R4). A deferred trap comes before that issue (R83): the park ends, and the request is withdrawn. -/
def execRefusedRetry (s : State) : Host.Outcome State Fault Refusal :=
  let x := s.slot s.cur
  if x.park ≠ some .refused then .next s
  else
    match s.flight.find? (fun a => a.stage = .held && a.slotOf s = some s.cur),
        s.messages.find? (fun m => m.sid = s.cur && decide (m.answer = some Verdict.refused)) with
    | some a, _ =>
      if x.deferred.isSome then .next ((s.dropAccess a.id).setSlot s.cur { x with park := none })
      else .next (resendAccess s a)
    | none, some m =>
      if x.deferred.isSome then
        .next ({ s with messages := s.messages.filter (fun q => q.id ≠ m.id) }.setSlot s.cur { lowerUnack x with park := none })
      else .next (resendMessage s m)
    | none, none => .next (s.setSlot s.cur { x with park := none })

end Sys2Proof.Machine
end

