-- ==== Sys2Proof/Machine/Threads.lean ====
section
/-! DEFINITION. Taking, starting, ending, moving and messaging threads; barriers; the engines' queues and sequencers from the
slot's side; accumulator rows (spec/15_ref_threads_system.md R294-R308, spec/06_queues.md R140-R162). -/

namespace Sys2Proof.Machine

/-! ## Checks of the chapter (R294) -/

/-- A value that names a slot, a generation or a target word, and fails its check. -/
def badTarget (i : Instr) : Halt := illegal i 3
/-- Any other value that fails its check. -/
def badValue (v : Word) : Halt := .trap cAccess 0 v
/-- Only a gaffer slot may go on (R18). -/
def gafferOnly (i : Instr) (s : State) : Except Halt Unit := guardH (isGaffer s.cur) (.trap cPriv 0 (instrWord i))
/-- Only a servitor slot may go on (R294). -/
def servitorOnly (i : Instr) (s : State) : Except Halt Unit := guardH (!isGaffer s.cur) (badTarget i)
/-- Waits until the slot's earlier accesses are performed at a scope (R121, R125) (DEDUCED, notes/assumptions/38.md). -/
def afterOlder (s : State) (scope : Nat) : Except Halt Unit := guardH (released s s.cur s.nextId scope) .hold

/-! ## Reads of memory at issue -/

/-- Parks the current slot on a demand fault of a read; the instruction issues again once the fault is answered (R33, R108). -/
def parkOnRead (s : State) (va : Word) (n : Nat) : State :=
  let sid := s.cur
  let cell := cellOfSlot sid
  let x := s.slot sid
  let s := demandFault s (s.partN cell) (s.casid cell) 0 (globalPos (coreOf sid)) va
  let a := newAccess sid (.slot sid x.gen x.pc none true [] false) (.load n false) va false false 0
  parkSlot (s.launch { a with stage := .faulted, pa := va.toNat, key := s.casid cell }) sid .fault

/-- Reads n bytes for the instruction that issues, page by page, and goes on with their value; a denied page traps PAGE, an
error MACHINE-CHECK once `pre`, the causes that precede it (R82), finds none, a demand fault parks. The fuel bounds the pages. -/
def readIssueFuel (pre : Except Halt Unit) : Nat → State → Word → Nat → Nat → Nat → (Nat → State → Res) → Res
  | 0, s, _, _, acc, _, k => k acc s
  | f + 1, s, va, n, acc, sh, k =>
    if n = 0 then k acc s
    else
      match xlateCell s (cellOfSlot s.cur) va true false with
      | (.denied, _) => .error (.trap cPage 0 va)
      | (.demand, s) => .ok (parkOnRead s va (min n 8))
      | (.ok pa key attr, s) =>
        let h := pageBytes va n
        if physErr s pa h then pre >>= fun _ => .error (.trap cMachineCheck 0 va)
        else
          let r := engineRead s (dieOf (cellOfSlot s.cur)) pa h key attr
          readIssueFuel pre f r.2 (va + wrap64 h) (n - h) (acc + 2 ^ (8 * sh) * r.1) (sh + h) k

/-- Reads n bytes for the instruction that issues, after the slot's own earlier accesses to them (R120, R121). -/
def readIssue (pre : Except Halt Unit) (s : State) (va : Word) (n : Nat) (k : Nat → State → Res) : Res :=
  bytesQuiet s va n >>= fun _ => readIssueFuel pre (n / 65536 + 2) s va n 0 0 k

/-- The checks of an address that must lie in the lower half with an alignment (R275, R296)
(DEDUCED, notes/assumptions/56.md). -/
def lowerAddr (va : Word) (n detail : Nat) : Except Halt Unit := do
  guardH (alignedTo va n) (.trap cMisalign detail va)
  canonicalOr va .read
  guardH (!va.getLsbD 56) (.trap cAccess 0 va)

/-! ## Inboxes and records (R146-R149) -/

/-- The highest non-empty level of an inbox. -/
def topLevel (inbox : List (List InboxEntry)) : Option Nat :=
  [3, 2, 1, 0].find? (fun i => !(getAt [] inbox i).isEmpty)

/-- Takes the oldest entry of the highest non-empty level out (R148): its address, or 0. -/
def takeInbox (c : Cell) : Word × Cell :=
  match topLevel c.inbox with
  | none => (0#64, c)
  | some i =>
    match getAt [] c.inbox i with
    | [] => (0#64, c)
    | e :: rest => (e.record, { c with inbox := setAt c.inbox i rest })

/-- TAKE (R148, R296): an acquire at package scope. -/
def execTake (d : BitVec 6) (s : State) : Host.Outcome State Fault Refusal :=
  finish s (do
    let x := s.slot s.cur
    gafferOnly (.take d) s
    boundS x [d.toNat]
    freeD x d.toNat
    let cell := cellOfSlot s.cur
    let r := takeInbox (s.cell cell)
    let s := selfInvalidate (s.setCell cell r.2) (dieOf cell)
    let s := done s ((x.oweS d.toNat).fillS d.toNat r.1)
    return s.push [.event (.recordPlace (s.partN cell)), .event (.continuationPlace (s.partN cell))])

/-- A task record (R146). -/
structure Record where
  pc : Word
  arg : Word
  x : Nat
  y : Nat
  z : Nat
  flags : Nat
  fmt : Nat
  key : Nat
  sca : Word
  scb : Word
  save : Word
  deriving DecidableEq, Repr

/-- The record of 64 bytes. -/
def Record.ofNat (v : Nat) : Record :=
  let w (i : Nat) : Nat := lane 64 v i
  { pc := wrap64 (w 0), arg := wrap64 (w 1), x := lane 32 (w 2) 0, y := lane 32 (w 2) 1, z := lane 32 (w 3) 0
    flags := lane 32 (w 3) 1, fmt := lane 32 (w 4) 0, key := lane 32 (w 4) 1, sca := wrap64 (w 5), scb := wrap64 (w 6)
    save := wrap64 (w 7) }

def Record.prio (r : Record) : Nat := nbits r.flags 1 0
def Record.gear (r : Record) : Bool := r.flags.testBit 2
def Record.det (r : Record) : Bool := r.flags.testBit 3
def Record.scnt (r : Record) : Nat := nbits r.flags 9 4 + 1
def Record.vcnt (r : Record) : Nat := nbits r.flags 14 10 + 1
def Record.live (r : Record) : Bool := r.flags.testBit 15
def Record.state (r : Record) : Nat := bits r.save 1 0
/-- Save-area address; 0 where there is none. -/
def Record.saveArea (r : Record) : Word := r.save &&& ~~~63#64

/-- What `start` asks of a record besides its state (R296). -/
def Record.wellFormed (r : Record) : Bool := bits r.pc 1 0 = 0 && nbits r.flags 31 16 = 0 && bits r.save 5 2 = 0

/-- TID of a task (R71). -/
def tidOf (rec_ : Word) (gen : BitVec 8) (r : Record) : Word :=
  wrap64 (gen.toNat + 256 * bits rec_ 56 6 + 2 ^ 59 * r.det.toNat + 2 ^ 60 * r.live.toNat + 2 ^ 61 * r.prio)

/-- VFMT from a format word (R36). -/
def vfmtOf (fmt : Nat) : Word := wrap64 (nbits fmt 19 15 + 32 * nbits fmt 22 22)

/-- The slot of a fresh record (R70). -/
def freshSlot (x : Slot) (rec_ : Word) (r : Record) (colour : Word) : Slot :=
  let gen := x.gen + 1#8
  { Slot.init with
    status := .live, gen := gen, pc := r.pc, ns := r.scnt, nv := r.vcnt, tid := tidOf rec_ gen r
    tix := wrap64 r.x, tiy := wrap64 r.y, tiz := wrap64 r.z, targ := r.arg, tfmt := wrap64 (r.fmt % 2 ^ 23)
    tsca := r.sca, tscb := r.scb, tkey := wrap64 r.key, vfmt := vfmtOf r.fmt, greq := wrap64 r.gear.toNat
    colr := colour, parklim := Config.parkLimit, save := r.saveArea, phase := BitVec.ofNat 8 (r.key / 2 ^ 24)
    removedAt := x.removedAt, exemptUntil := x.exemptUntil }

/-- Registers in use of a core's scalar pool and of a cell's vector pool (R62). -/
def scalarUsed (s : State) (core : Nat) : Nat := ((List.range 16).map (fun i => (s.slot (16 * core + i)).ns)).foldl (· + ·) 0
def vectorUsed (s : State) (cell : Nat) : Nat := ((List.range 64).map (fun i => (s.slot (64 * cell + i)).nv)).foldl (· + ·) 0
def scalarPool : Nat := 512
def vectorPool : Nat := 256

/-- Starts waiting ahead of a gaffer for the vector pool. -/
def aheadFor (c : Cell) (sid : Nat) : Bool := (c.startWait.takeWhile (fun w => w.gaffer ≠ sid)).any (·.vec)

/-- Puts a waiting start into the list, or notes what it waits for (R149). -/
def joinWait (s : State) (sid : Nat) (vec : Bool) : State :=
  s.modCell (cellOfSlot sid) (fun c =>
    if c.startWait.any (fun w => w.gaffer = sid) then
      { c with startWait := c.startWait.map (fun w => if w.gaffer = sid then { w with vec := vec } else w) }
    else { c with startWait := c.startWait ++ [{ gaffer := sid, vec := vec }] })

/-- Puts a started slot among those that issue. -/
def enrol (s : State) (sid : Nat) : State := if s.rota.contains sid then s else { s with rota := s.rota ++ [sid] }

/-- Starts a slot with a record (R70, R149, R179), an acquire at package scope (R125) (DEDUCED, notes/assumptions/40.md). -/
def startSlot (s : State) (t : Nat) (rec_ : Word) (r : Record) : State :=
  let cell := cellOfSlot t
  let x := freshSlot (s.slot t) rec_ r (lowColour s cell)
  let x := { x with removedAt := x.removedAt.map (fun _ => s.gts) }
  let x := if r.state = 1 then { x with status := .restoring } else x
  let s := (enrol (s.setSlot t x) t).pushE (.gearEvaluate cell)
  let s := opLookup (selfInvalidate s (dieOf cell)) t
  let s := if x.removedAt.isSome then s.dueOnce (.removal t) else s
  if r.state = 1 then s.pushE (.puntyRestore t) else s

/-- The rest of `start` once the record has been read (R149). -/
def startWith (i : Instr) (t : Nat) (rec_ : Word) (rs : List Nat) (x : Slot) (v : Nat) (s : State) : Res := do
  let r := Record.ofNat v
  let cell := cellOfSlot t
  guardH (decide (r.state < 2) && r.wellFormed) (badTarget i)
  soundS (s.slot s.cur) rs
  let vec := aheadFor (s.cell cell) s.cur || decide (vectorPool < vectorUsed s cell + r.vcnt)
  if vec || decide (scalarPool < scalarUsed s (coreOf t) + r.scnt) then return parkSlot (joinWait s s.cur vec) s.cur .pool
  else
    let s := startSlot (leaveWait s s.cur) t rec_ r
    return (s.setSlot s.cur x.next).pushE (.poolGrant cell)

/-- A `start` (R149, R296). -/
def startRes (a b : BitVec 6) (m n : Bool) (s : State) : Res := do
  let i := Instr.start a b m n
  let x := s.slot s.cur
  gafferOnly i s
  boundS x [a.toNat, b.toNat]
  let r ← peek2 x a.toNat m b.toNat n
  guardH (decide (1 ≤ r.1.toNat) && decide (r.1.toNat < 16)) (badTarget i)
  let t := 16 * coreOf s.cur + r.1.toNat
  guardH ((s.slot t).status = .empty) (badTarget i)
  lowerAddr r.2.1 64 4
  readIssue (.ok ()) s r.2.1 64 (fun v s => startWith i t r.2.1 [a.toNat, b.toNat] r.2.2 v s)

/-- START (R149, R296): one that traps waits for registers no longer. -/
def execStart (a b : BitVec 6) (m n : Bool) (s : State) : Host.Outcome State Fault Refusal :=
  match startRes a b m n s with
  | .error (.trap c d v) => finish (endWait s s.cur) (.error (.trap c d v))
  | r => finish s r

/-- POOL_GRANT (R149): waiting starts are tried again, in the order of their first attempts. -/
def execPoolGrant (cell : Nat) (s : State) : Host.Outcome State Fault Refusal :=
  .next ((s.cell cell).startWait.foldl (fun s w =>
    s.modSlot w.gaffer (fun x => { x with park := if x.park = some .pool then none else x.park })) s)

/-- The reap word of a slot with a final status (R152). -/
def reapWord (sid : Nat) (x : Slot) : Word :=
  match x.status with
  | .ended f info =>
    let inf := match f with | .failed => info.toNat | .trapped => info.toNat | _ => 0
    wrap64 (f.code + 16 * slotIx sid + 256 * x.gen.toNat + 65536 * inf)
  | _ => 7#64

/-- An emptied slot keeps its generation and its place under the power controller. -/
def emptied (x : Slot) : Slot := { Slot.init with gen := x.gen, removedAt := x.removedAt, exemptUntil := x.exemptUntil }

/-- REAP (R152). -/
def execReap (d a : BitVec 6) (m : Bool) (s : State) : Host.Outcome State Fault Refusal :=
  let i := Instr.reap d a m
  finish s (do
    let x := s.slot s.cur
    gafferOnly i s
    boundS x [d.toNat, a.toNat]
    let r ← peek1 x a.toNat m
    guardH (decide (r.1.toNat < 16)) (badTarget i)
    soundS x [a.toNat]
    let core := coreOf s.cur
    let cands := if r.1 = 0#64 then (List.range 15).map (· + 1) else [r.1.toNat]
    match cands.find? (fun k => (s.slot (16 * core + k)).hasFinal) with
    | none => do
      let y ← writeS r.2 d.toNat 7#64
      return done s y
    | some k => do
      let t := 16 * core + k
      let y ← writeS r.2 d.toNat (reapWord t (s.slot t))
      return (done (s.setSlot t (emptied (s.slot t))) y).pushE (.poolGrant (cellOfSlot s.cur)))

/-- KILL (R153): the effect falls at the target's next issue cycle. -/
def execKill (a b : BitVec 6) (m n : Bool) (s : State) : Host.Outcome State Fault Refusal :=
  let i := Instr.kill a b m n
  finish s (do
    let x := s.slot s.cur
    gafferOnly i s
    boundS x [a.toNat, b.toNat]
    let r ← peek2 x a.toNat m b.toNat n
    guardH (decide (1 ≤ r.1.toNat) && decide (r.1.toNat < 16) && decide (r.2.1.toNat < 256)) (badTarget i)
    soundS x [a.toNat, b.toNat]
    let t := 16 * coreOf s.cur + r.1.toNat
    let g := r.2.1.setWidth 8
    let s := done s r.2.2
    return if (s.slot t).isLive && (s.slot t).gen = g then s.modSlot t (fun y => { y with killReq := some g }) else s)

/-! ## A servitor's own end or move (R297) -/

/-- YIELD (R159, R297): the slot stops, to go on at PC + 4; the punty sees whether the record has a save area. -/
def execYield (s : State) : Host.Outcome State Fault Refusal :=
  finish s (do
    servitorOnly .yield s
    let x := s.slot s.cur
    return (s.setSlot s.cur { x.next with status := .spilling false }).pushE (.puntySpill s.cur))

/-- RETIRE (R150, R297): a kill that meets it in its issue cycle finds the retirement (R153). -/
def execRetire (a : BitVec 6) (m : Bool) (s : State) : Host.Outcome State Fault Refusal :=
  finish s (do
    let x := s.slot s.cur
    servitorOnly (.retire a m) s
    boundS x [a.toNat]
    let r ← read1 x a.toNat m
    let c := bits r.1 31 0
    let f : Final := if c = 0 then .ok else .failed
    return (s.setSlot s.cur { r.2 with status := .ending f (BitVec.ofNat 32 c), killReq := none }).pushE (.taskEnd s.cur))

/-- The fields of a target word (R298). -/
def twReg (w : Word) : Nat := bits w 5 0
def twSlot (w : Word) : Nat := bits w 9 6
def twCore (w : Word) : Nat := bits w 11 10
def twCell (w : Word) : Nat := bits w 21 12
def twGen (w : Word) : BitVec 8 := w.extractLsb' 22 8

/-- The cell that a target word names in the partition of a slot. -/
def twCellNo (s : State) (sid : Nat) (w : Word) : Option Nat := s.cellAt (s.partN (cellOfSlot sid)) (twCell w)

/-- MIGRATE (R161, R297). -/
def execMigrate (a : BitVec 6) (m : Bool) (s : State) : Host.Outcome State Fault Refusal :=
  let i := Instr.migrate a m
  finish s (do
    let x := s.slot s.cur
    servitorOnly i s
    boundS x [a.toNat]
    let r ← peek1 x a.toNat m
    let w := r.1
    guardH (twReg w = 0 && bits w 63 22 = 0 && twSlot w ≠ 0) (badTarget i)
    match twCellNo s s.cur w with
    | none => .error (badTarget i)
    | some c => do
      let core := 4 * c + twCore w
      guardH (core ≠ coreOf s.cur) (badTarget i)
      soundS x [a.toNat]
      return (s.setSlot s.cur { r.2.next with status := .moving (16 * core + twSlot w) false }).pushE (.migrationSend s.cur))

/-! ## Launches from the device (R299) -/

/-- Writes n bytes inside one line at a physical address's home; a die's own replica goes, after what the die has yet to forward of
the line (R131). -/
def writeHome (s : State) (d pa n v key : Nat) : State := cachedWrite (dropReplica s d (lineOf pa)) pa n v key none

/-- LNCH (R143, R299). -/
def execLnch (a b : BitVec 6) (m n : Bool) (s : State) : Host.Outcome State Fault Refusal :=
  finish s (do
    let x := s.slot s.cur
    boundS x [a.toNat, b.toNat]
    let r ← peek2 x a.toNat m b.toNat n
    let p := s.partN (cellOfSlot s.cur)
    let q := bits r.1 2 0
    lowerAddr r.2.1 64 4
    let queueOk := guardH (bits r.1 63 3 = 0 && lqEnabled s p q && lqDev s p q) (badValue r.1)
    readIssue queueOk s r.2.1 64 (fun v s => do
      queueOk
      soundS x [a.toNat, b.toNat]
      afterOlder s 4
      let t := lqTail s p q
      guardH (decide (lqCount s p q t < lqLen s p q)) (.park .launch)
      let pa := lqBase s p q + 64 * (t % lqLen s p q)
      guardH (isBacked pa && !(isSystem pa && !s.linkUp)) (.trap cMachineCheck 0 (wrap64 pa))
      let s := writeHome s (dieOf (cellOfSlot s.cur)) pa 64 v (keyByPa s pa)
      let s := s.setReg (lqOff p q + 0x18) (wrap64 ((t + 1) % 65536))
      return (done s r.2.2).pushE (.launchRead p)))

/-! ## Messages (R300) -/

/-- Issues a message to the register that a target word names; `y` is the slot with its sync-reads done. A register in error other
than the target's, `bad`, traps where the message would be accepted (R82). -/
def sendMsg (i : Instr) (kind lim : Nat) (w : Word) (v : VReg) (cons : List Nat) (bad : Option Nat) (y : Slot) (s : State) : Res := do
  let x := s.slot s.cur
  guardH (bits w 63 30 = 0 && decide (twReg w < lim)) (badTarget i)
  match twCellNo s s.cur w with
  | none => .error (badTarget i)
  | some c => do
    unackRoom x
    let id := s.nextId
    let msg : Message := {
      id := id, sid := s.cur, gen := x.gen, pc := x.pc, kind := kind, target := w, tcell := c, value := v, cons := cons
      poison := bad, answer := none }
    let y := { (raiseUnack y).next with await := some id, tries := 0 }
    return ({ s with messages := s.messages ++ [msg], nextId := id + 1 }.setSlot s.cur y).pushE (.messageArrival id)

/-- SEND (R300). -/
def execSend (a b : BitVec 6) (m n : Bool) (s : State) : Host.Outcome State Fault Refusal :=
  finish s (do
    let x := s.slot s.cur
    boundS x [a.toNat, b.toNat]
    let r ← peek2 x a.toNat m b.toNat n
    sendMsg (.send a b m n) 0 64 r.1 (r.2.1.setWidth 4096) (takenOf x a.toNat m ++ takenOf x b.toNat n)
      ([a.toNat, b.toNat].find? (badS x)) r.2.2 s)

/-- SEND_V (R300). -/
def execSendV (a : BitVec 6) (b : BitVec 5) (m n : Bool) (s : State) : Host.Outcome State Fault Refusal :=
  finish s (do
    let x := s.slot s.cur
    boundS x [a.toNat]
    boundV x [b.toNat]
    let w ← peekS x a.toNat
    let v ← peekV x b.toNat
    (if n then vecWriters s s.cur [b.toNat] else .ok ())
    sendMsg (.sendV a b m n) 1 32 w v (takenOf x a.toNat m ++ (if n then [x.takenV b.toNat] else []))
      (if badS x a.toNat then some a.toNat else if x.verr.getLsbD b.toNat then some b.toNat else none)
      ((x.take a.toNat m).takeV b.toNat n) s)

/-- SEND_P (R300). -/
def execSendP (a : BitVec 6) (b : BitVec 3) (m n : Bool) (s : State) : Host.Outcome State Fault Refusal :=
  finish s (do
    let x := s.slot s.cur
    boundS x [a.toNat]
    let w ← peekS x a.toNat
    let v ← peekP x b.toNat
    (if n then guardH (!predReader s s.cur b.toNat) .hold else .ok ())
    sendMsg (.sendP a b m n) 2 8 w (v.setWidth 4096)
      (takenOf x a.toNat m ++ (if n && b ≠ 0#3 then [96 + b.toNat] else []))
      (if badS x a.toNat then some a.toNat else if b ≠ 0#3 && x.perr.getLsbD b.toNat then some b.toNat else none)
      ((x.take a.toNat m).takeP b.toNat n) s)

/-! ## Barriers (R301, R302) -/

def barNo (w : Word) : Nat := bits w 5 0
def barPhase (w : Word) : Nat := bits w 31 16
/-- A barrier word's zero fields (R301). -/
def barWordOk (w : Word) : Bool := bits w 15 6 = 0 && bits w 63 32 = 0
/-- A cell's copy of a barrier's open phase. -/
def openCopy (s : State) (cell b : Nat) : Nat := FMap.get 0 (s.cell cell).bars b
def setOpenCopy (s : State) (cell b ph : Nat) : State := s.modCell cell (fun c => { c with bars := FMap.put c.bars b ph })
/-- Whether a phase has been released, judged on a cell's copy (R302). -/
def phasePassed (s : State) (cell : Nat) (w : Word) : Bool :=
  let k := (openCopy s cell (barNo w) + 65536 - barPhase w) % 65536
  decide (1 ≤ k) && decide (k ≤ 32767)

/-- Releases the slots of a cell that wait for a phase which has passed: each issues its `bar.wait` again, which completes
now (R203, R302). -/
def releaseSlots (s : State) (cell bar : Nat) : State :=
  (List.range 64).foldl (fun s i =>
    let sid := 64 * cell + i
    let x := s.slot sid
    match x.park with
    | some (.barrier w) =>
      if barNo w = bar && phasePassed s cell w then
        (s.setSlot sid { x with park := none, greq := setBit x.greq 1 false }).pushE (.gearEvaluate cell)
      else s
    | _ => s) s

/-- BAR_INIT (R302): the unit and every cell of the partition; a slot whose wait the new phase 0 ends goes on. -/
def execBarInit (a b : BitVec 6) (m n : Bool) (s : State) : Host.Outcome State Fault Refusal :=
  finish s (do
    let x := s.slot s.cur
    boundS x [a.toNat, b.toNat]
    let r ← peek2 x a.toNat m b.toNat n
    let p := s.partN (cellOfSlot s.cur)
    let bar := s.barrier p (barNo r.1)
    guardH (barWordOk r.1 && barPhase r.1 = 0) (badValue r.1)
    guardH (bits r.2.1 63 16 = 0) (badValue r.2.1)
    guardH (bar.count = 0 && bar.release.isNone) (badValue r.1)
    soundS x [a.toNat, b.toNat]
    let s := s.setBarrier p (barNo r.1) { Barrier.init with m := r.2.1.toNat }
    let s := (s.partCells p).foldl (fun s c => releaseSlots (setOpenCopy s c (barNo r.1) 0) c (barNo r.1)) s
    return done s r.2.2)

/-- BAR_ARR (R302): the arrival leaves, and reaches the unit once the slot's older accesses are performed (R125). -/
def execBarArr (a : BitVec 6) (m : Bool) (s : State) : Host.Outcome State Fault Refusal :=
  finish s (do
    let x := s.slot s.cur
    boundS x [a.toNat]
    let r ← peek1 x a.toNat m
    let cell := cellOfSlot s.cur
    let p := s.partN cell
    let b := barNo r.1
    guardH (barWordOk r.1 && (s.barrier p b).m ≠ 0 && barPhase r.1 = openCopy s cell b) (badValue r.1)
    soundS x [a.toNat]
    let arr : Arrival := { part := p, bar := b, src := some (s.cur, s.nextId), source := globalPos (coreOf s.cur) }
    return (done { s with arrivals := s.arrivals ++ [arr], nextId := s.nextId + 1 } r.2).pushE (.barrierArrival p b))

/-- A `bar.wait`; with `drop` the slot's gear request is hidden while it is parked (R302, R203). -/
def barWait (a : BitVec 6) (m drop : Bool) (s : State) : Res := do
  let x := s.slot s.cur
  boundS x [a.toNat]
  let r ← peek1 x a.toNat m
  let cell := cellOfSlot s.cur
  guardH (barWordOk r.1 && (s.barrier (s.partN cell) (barNo r.1)).m ≠ 0) (badValue r.1)
  soundS x [a.toNat]
  if phasePassed s cell r.1 then return done (selfInvalidate s (dieOf cell)) r.2
  else
    let y := { x with park := some (.barrier r.1), greq := if drop then setBit x.greq 1 true else x.greq }
    let s := s.setSlot s.cur y
    return if drop then s.pushE (.gearEvaluate cell) else s

/-- BAR_WAIT (R302). -/
def execBarWait (a : BitVec 6) (m : Bool) (s : State) : Host.Outcome State Fault Refusal := finish s (barWait a m false s)
/-- BAR_WAIT_DROP (R302). -/
def execBarWaitDrop (a : BitVec 6) (m : Bool) (s : State) : Host.Outcome State Fault Refusal := finish s (barWait a m true s)

/-! ## Engine queues (R303) -/

/-- What the token target of a command comes to at enqueue (R303). -/
inductive TokenTarget where
  | none
  | ok (sid reg : Nat)
  | owed
  | bound (reg : Nat)
  | gone (w : Word)
  deriving DecidableEq, Repr

/-- Judges the token target of a command of a cell. -/
def tokenTarget (s : State) (cell : Nat) (w : CmdWord) : TokenTarget :=
  if Cmd.noTok w then .none
  else
    let sid := 16 * (4 * cell + Cmd.tcore w) + Cmd.tslot w
    let x := s.slot sid
    if !(x.isLive && x.gen = Cmd.tgen w) then
      .gone (wrap64 (Cmd.treg w + 64 * Cmd.tslot w + 1024 * Cmd.tcore w + 4096 * s.lcellOf (s.partN cell) cell +
        2 ^ 22 * (Cmd.tgen w).toNat))
    else if x.ns ≤ Cmd.treg w then .bound (Cmd.treg w)
    else if x.sP (Cmd.treg w) then .owed
    else .ok sid (Cmd.treg w)

/-- Whether a command word passes the checks of R242 for a queue (0 matrix, 1 copy). -/
def cmdOk (queue : Nat) (w : CmdWord) : Bool := Cmd.queueOf w = some queue && Cmd.word0Ok w

/-- The token register of a command becomes owed. -/
def oweToken (s : State) (t : TokenTarget) : State :=
  match t with
  | .ok sid reg => s.modSlot sid (fun x => x.oweS reg)
  | _ => s

/-- Appends a command to a core's queue (R154). -/
def appendCmd (s : State) (core queue : Nat) (c : Cmd) : State :=
  if queue = 0 then (s.modCore core (fun k => { k with mq := k.mq ++ [c] })).push [.matrix (core / 4)]
  else (s.modCore core (fun k => { k with cq := k.cq ++ [c] })).push [.copy core]

def queueFull (s : State) (core queue : Nat) : Bool :=
  if queue = 0 then decide (Config.matrixQueue ≤ (s.core core).mq.length) else decide (Config.copyQueue ≤ (s.core core).cq.length)

/-- `enq.m` and `enq.c` (R303) (DEDUCED, notes/assumptions/39.md). -/
def enqueue (i : Instr) (queue : Nat) (a : BitVec 6) (m : Bool) (s : State) : Res := do
  let x := s.slot s.cur
  let core := coreOf s.cur
  let r := a.toNat
  guardH (r % 4 = 0) (illegal i 1)
  boundS x [r, r + 1, r + 2, r + 3]
  let w0 ← peekS x r
  let w1 ← peekS x (r + 1)
  let w2 ← peekS x (r + 2)
  let w3 ← peekS x (r + 3)
  let w : CmdWord := ⟨w0, w1, w2, w3⟩
  guardH (cmdOk queue w) (illegal i 0)
  let t := tokenTarget s (core / 4) w
  (match t with | .bound reg => .error (.trap cRegBound 0 (wrap64 reg)) | _ => .ok ())
  guardH (queue ≠ 0 || x.aown.getLsbD (Cmd.acc w)) (.trap cAccess 1 (wrap64 (Cmd.acc w)))
  (match t with | .gone tw => .error (.trap cUndeliverable 0 tw) | _ => .ok ())
  soundS x [r, r + 1, r + 2, r + 3]
  (match t with | .owed => .error .stall | _ => .ok ())
  afterOlder s (if queue = 0 then 2 else 2 + Cmd.scope w)
  guardH (!queueFull s core queue) (.park (if queue = 0 then .mqueue else .cqueue))
  let y := (List.range 4).foldl (fun y k => y.take (r + k) m) x
  let c : Cmd := { word := Cmd.withColour w x.colr, sid := s.cur, gen := x.gen, fc := bits x.tfmt 14 10, forked := false }
  return appendCmd (oweToken (done s y) t) core queue c

/-- ENQ_M (R303) (DEDUCED, notes/assumptions/81.md). -/
def execEnqM (a : BitVec 6) (m : Bool) (s : State) : Host.Outcome State Fault Refusal := finish s (enqueue (.enqM a m) 0 a m s)
/-- ENQ_C (R303). -/
def execEnqC (a : BitVec 6) (m : Bool) (s : State) : Host.Outcome State Fault Refusal := finish s (enqueue (.enqC a m) 1 a m s)

/-! ## Forked programs (R304-R307) -/

/-- A sequencer at the start of a program. -/
def newSeq (sid : Nat) (gen : BitVec 8) (base colr : Word) : Seq :=
  { sid := sid, gen := gen, base := base, next := 0, loops := [], colr := colr, owed := 0, word := none, ending := none }

/-- FORK (R304): a release to the programs at core scope, and to their package copies with it, which read at homes what the slot's
stores before it wrote (R134; DEDUCED, notes/assumptions/99.md). -/
def execFork (d a b : BitVec 6) (m n : Bool) (s : State) : Host.Outcome State Fault Refusal :=
  finish s (do
    let x := s.slot s.cur
    let core := coreOf s.cur
    boundS x [d.toNat, a.toNat, b.toNat]
    let pm ← peekS x d.toNat
    let r ← peek2 x a.toNat m b.toNat n
    let pc := r.1
    let pv := r.2.1
    let useM := d ≠ 0#6
    let useC := a ≠ 0#6
    let useV := b ≠ 0#6
    guardH x.fork.isNone (badTarget (.fork d a b m n))
    guardH (!useM || alignedTo pm 32) (.trap cMisalign 6 pm)
    guardH (!useC || alignedTo pc 32) (.trap cMisalign 6 pc)
    guardH (!useV || alignedTo pv 4) (.trap cMisalign 2 pv)
    soundS x [d.toNat, a.toNat, b.toNat]
    let k := s.core core
    guardH (!(useM && k.seqM.isSome) && !(useC && k.seqC.isSome) && !(useV && k.seqV.isSome)) (.park .fork)
    afterOlder s 4
    let st (u : Bool) : Nat := if u then 15 else 0
    let fr : ForkRec := { mst := st useM, cst := st useC, vst := st useV, mfail := 0, cfail := 0, vfail := 0, cause := 0, sigs := [0, 0, 0, 0] }
    let s := s.modCore core (fun k => { k with
      seqM := if useM then some (newSeq s.cur x.gen pm x.colr) else k.seqM
      seqC := if useC then some (newSeq s.cur x.gen pc x.colr) else k.seqC
      seqV := if useV then some { sid := s.cur, gen := x.gen, base := pv, next := 0, await := none } else k.seqV
      indexM := [0, 0, 0, 0]
      indexC := [0, 0, 0, 0] })
    let s := done s { r.2.2 with fork := some fr }
    let ev (u : Bool) (e : Instr) : List Turn := if u then [.event e] else []
    return s.push (ev useM (.sequencerFetch (core / 4) (core % 4) false) ++ ev useC (.sequencerFetch (core / 4) (core % 4) true) ++
      ev useV (.forkedVectorIssue (core / 4) (core % 4))))

/-- The rdv word (R306). -/
def rdvWord (f : ForkRec) : Word :=
  let bad (st : Nat) : Bool := st ≠ 0 && st ≠ 1
  let ix := if bad f.mst then f.mfail else if bad f.cst then f.cfail else if bad f.vst then f.vfail else 0
  wrap64 (f.mst + 16 * f.cst + 256 * f.vst + 65536 * (ix % 65536) + 2 ^ 32 * f.cause)

/-- RDV (R307). -/
def execRdv (d : BitVec 6) (s : State) : Host.Outcome State Fault Refusal :=
  finish s (do
    let x := s.slot s.cur
    boundS x [d.toNat]
    let w := match x.fork with | some f => rdvWord f | none => 0#64
    guardH (!(match x.fork with | some f => f.mst = 15 || f.cst = 15 || f.vst = 15 | none => false)) .hold
    let y ← writeS x d.toNat w
    return done s { y with fork := none })

/-! ## Accumulator rows (R308) -/

/-- Whether a command names accumulator n of its core. -/
def namesAcc (n : Nat) (w : CmdWord) : Bool := Cmd.queueOf w = some 0 && Cmd.acc w = n

/-- Iterations after which a step repeats in bits 28:0, which hold every ACC field (R351). -/
def accPeriod (step : Word) : Nat := 2 ^ 29 / Nat.gcd step.toNat (2 ^ 29)

/-- Whether a command whose word 1 the iterations to come of some loops adjust names accumulator n in one of them (R370). -/
def loopsName (n : Nat) (w : CmdWord) : List SeqLoop → Word → Bool
  | [], v => namesAcc n { w with w1 := v }
  | l :: ls, v => (List.range (min (l.count - l.i) (accPeriod l.s1))).any (fun k => loopsName n w ls (v + wrap64 (l.i + k) * l.s1))

/-- The command word at an index of a program, if it can be read at present. -/
def programWordAt (s : State) (cell : Nat) (base : Word) (i : Nat) : Xlate × CmdWord :=
  match xlateCell s cell (base + wrap64 (32 * i)) true false with
  | (.ok pa key attr, s) =>
    let v := (engineRead s (dieOf cell) pa 32 key attr).1
    (.ok pa key attr, ⟨wrap64 v, wrap64 (v / 2 ^ 64), wrap64 (v / 2 ^ 128), wrap64 (v / 2 ^ 192)⟩)
  | (x, _) => (x, ⟨0#64, 0#64, 0#64, 0#64⟩)

/-- The loop that a `seq.loop` word opens before a program's next word (R370). -/
def loopOf (w : CmdWord) (next : Nat) : SeqLoop :=
  { idx := bits w.w1 33 32, first := next, body := bits w.w1 47 36, count := bits w.w1 31 0, i := 0, s1 := w.w2, s2 := w.w3 }

/-- Whether a command that a program still has to come to, from a word on, names accumulator n: loops and jumps are followed, and a
jump to where one has been taken leads to nothing new. Past a page whose demand fault is not answered nothing is known, and the
command there counts as naming it (notes/assumptions/42.md). The fuel bounds the words. -/
def programNames : Nat → State → Nat → Word → List SeqLoop → List Nat → Nat → Nat → Bool
  | 0, _, _, _, _, _, _, _ => false
  | f + 1, s, cell, base, loops, seen, i, n =>
    let loops := loops.dropWhile (fun l => l.first + l.body ≤ i)
    match programWordAt s cell base i with
    | (.demand, _) => true
    | (.denied, _) => false
    | (.ok _ _ _, w) =>
      if opc w = 0x20 then
        let t := (((i : Int) + signedN 32 (bits w.w1 31 0)) % (2 ^ 59 : Nat)).toNat
        if seen.contains t then false else programNames f s cell base loops (t :: seen) t n
      else if opc w = 0x21 then
        let body := bits w.w1 47 36
        if bits w.w1 31 0 = 0 then programNames f s cell base loops seen (i + 1 + body) n
        else programNames f s cell base (loopOf w (i + 1) :: loops) seen (i + 1) n
      else if opc w = 0x24 || (Cmd.queueOf w).isNone then false
      else loopsName n w loops w.w1 || programNames f s cell base loops seen (i + 1) n

/-- Where the word before a program's next one leads to (R370). -/
def wordLeads (w : CmdWord) (loops : List SeqLoop) (next : Nat) : List SeqLoop × Nat :=
  if opc w = 0x20 then (loops, (((next : Int) - 1 + signedN 32 (bits w.w1 31 0)) % (2 ^ 59 : Nat)).toNat)
  else if opc w = 0x21 then
    (if bits w.w1 31 0 = 0 then (loops, next + bits w.w1 47 36) else (loopOf w next :: loops, next))
  else (loops, next)

/-- The places from which a program goes on: its next word, or where the word leads to that it is to carry out, and the first word of
each active loop with an iteration to come; none past a `seq.end`. -/
def programStarts (q : Seq) : List (List SeqLoop × Nat) :=
  let again := q.loops.tails.filterMap (fun ls => match ls with
      | l :: rest => if l.i + 1 < l.count then some ({ l with i := l.i + 1 } :: rest, l.first) else none
      | [] => none)
  match q.word with
  | some w => if opc w = 0x24 then [] else wordLeads w q.loops q.next :: again
  | none => (q.loops, q.next) :: again

/-- Whether a running forked matrix program of a core still holds a command that names an accumulator (R75). -/
def forkNames (s : State) (core n : Nat) : Bool :=
  match (s.core core).seqM with
  | none => false
  | some q => q.ending.isNone && (programStarts q).any (fun p => programNames (2 ^ 32) s (core / 4) q.base p.1 [] p.2 n)

/-- Waits until no command of the core that names an accumulator is queued, forked, or holds the lock (R75). -/
def accFree (s : State) (core n : Nat) : Except Halt Unit :=
  guardH (!(s.core core).mq.any (fun c => namesAcc n c.word) && !((s.cell (core / 4)).accOf (8 * (core % 4) + n)).lock &&
    !forkNames s core n) (.park .lock)

/-- Bits of rows 4 blk to 4 blk + 3: 128 F32 values. -/
def accRows (a : BitVec 32768) (blk : Nat) : VReg := a.extractLsb' (4096 * blk) 4096

/-- An accumulator with four rows replaced (R54). -/
def withRows (a : BitVec 32768) (blk : Nat) (v : VReg) : BitVec 32768 :=
  let rows := packLanes 32 ((lanes 32 v.toNat 128).map accCanon)
  let m := BitVec.ofNat 32768 ((2 ^ 4096 - 1) <<< (4096 * blk))
  (a &&& ~~~m) ||| BitVec.ofNat 32768 (rows <<< (4096 * blk))

/-- The claim on an accumulator (R74). -/
def claimed (x : Slot) (n : Nat) : Except Halt Unit := guardH (x.aown.getLsbD n) (.trap cAccess 1 (wrap64 n))

/-- ACCRD (R308): an error in the rows that it reads traps (R84) (DEDUCED, notes/assumptions/41.md). -/
def execAccrd (d : BitVec 5) (c k : BitVec 3) (s : State) : Host.Outcome State Fault Refusal :=
  finish s (do
    let x := s.slot s.cur
    let core := coreOf s.cur
    boundV x [d.toNat]
    claimed x c.toNat
    freeD x (64 + d.toNat)
    vecWriters s s.cur [d.toNat]
    accFree s core c.toNat
    let a := (s.cell (core / 4)).accOf (8 * (core % 4) + c.toNat)
    guardH (!a.err.getLsbD k.toNat) (.trap cMachineCheck 2 (wrap64 c.toNat))
    return done s ((x.oweV d.toNat).fillV d.toNat (accRows a.data k.toNat)))

/-- ACCWR (R308): rows written whole have new check bits (R84). -/
def execAccwr (d : BitVec 5) (c k : BitVec 3) (s : State) : Host.Outcome State Fault Refusal :=
  finish s (do
    let x := s.slot s.cur
    let core := coreOf s.cur
    boundV x [d.toNat]
    claimed x c.toNat
    let v ← peekV x d.toNat
    soundV x d.toNat
    accFree s core c.toNat
    let s := s.modCell (core / 4) (fun cl =>
      let n := 8 * (core % 4) + c.toNat
      cl.setAcc n { cl.accOf n with data := withRows (cl.accOf n).data k.toNat v, err := setBit (cl.accOf n).err k.toNat false })
    return done s x)

end Sys2Proof.Machine
end

