-- ==== Sys2Proof/Machine/Punty.lean ====
section
/-! DEFINITION. The punty: spills, restores and migrations, forwarding entries, removals that last too long (spec/06_queues.md
R159-R162, spec/07_tables.md R185, spec/09_power.md R205). -/

namespace Sys2Proof.Machine

/-- The punty of a slot's cell, for a step (R109, R159, R195): a restore's faults are recorded with the kind of a spill's (DESIGN CHOICE,
notes/assumptions/110.md). -/
def punty (s : State) (sid : Nat) (again : Instr) : Agent :=
  let cell := cellOfSlot sid
  { part := s.partN cell, die := dieOf cell, asid := s.casid cell, kind := 1, source := cellSource 3 cell, again := .event again }

/-! ## The image of a save area (R160) -/

/-- A read that parks on nothing: it fails where the translation is denied, ends in a demand fault, or meets an error. -/
def peekFuel : Nat → State → Agent → Word → Nat → Option Nat × State
  | 0, s, _, _, _ => (some 0, s)
  | k + 1, s, g, va, n =>
    if n = 0 then (some 0, s)
    else if !canonical va || va.getLsbD 56 then (none, s)
    else
      match translate s g.part g.die g.asid va.toNat true false false with
      | (.ok pa key attr, s) =>
        let h := pageBytes va n
        if physErr s pa h then (none, s)
        else
          let r := engineRead s g.die pa h key attr
          match peekFuel k r.2 g (va + wrap64 h) (n - h) with
          | (some v, s) => (some (r.1 + 2 ^ (8 * h) * v), s)
          | other => other
      | (_, s) => (none, s)

def peek (s : State) (g : Agent) (va : Word) (n : Nat) : Option Nat × State := peekFuel (n / 65536 + 2) s g va n

/-- Looks for the live masks of a PC offset in a liveness table, from entry i on; `prev` is the offset of the entry before, if
any, with its masks. None where a read fails. -/
def liveEntry : Nat → State → Agent → Word → Nat → Option (Nat × Nat × Nat) → Nat → Option (Option (Nat × Nat)) × State
  | 0, s, _, _, _, prev, _ => (some (prev.map (fun q => (q.2.1, q.2.2))), s)
  | k + 1, s, g, table, i, prev, off =>
    match peek s g (table + wrap64 (16 * i)) 16 with
    | (none, s) => (none, s)
    | (some v, s) =>
      let o := v % 2 ^ 32
      let ends := match prev with | some q => decide (o ≤ q.1) | none => false
      if ends || decide (off < o) then (some (prev.map (fun q => (q.2.1, q.2.2))), s)
      else liveEntry k s g table (i + 1) (some (o, v / 2 ^ 32 % 2 ^ 32, v / 2 ^ 64)) off

/-- The vector and scalar live masks of a task with a liveness table at a PC; none where every register is saved (R185). -/
def liveMasks (s : State) (g : Agent) (rec_ pc : Word) : Option (Nat × Nat) × State :=
  match peek s g rec_ 8 with
  | (none, s) => (none, s)
  | (some e, s) =>
    let entry := wrap64 e
    match peek s g (entry - 16#64) 16 with
    | (none, s) => (none, s)
    | (some h, s) =>
      let off := (pc - entry).toNat
      if h / 2 ^ 64 % 2 ^ 32 ≤ off then (none, s)
      else
        match liveEntry (off + 2) s g (wrap64 h) 0 none off with
        | (some r, s) => (r, s)
        | (none, s) => (none, s)

/-- The mask of the registers below a count. -/
def countMask (n : Nat) : Nat := 2 ^ n - 1

/-- The scalar and vector save masks of a slot at a PC (R160) (DEDUCED, notes/assumptions/50.md). -/
def saveMasks (s : State) (g : Agent) (x : Slot) (pc : Word) : (Nat × Nat) × State :=
  let all := (countMask x.ns, countMask x.nv)
  if x.tid.getLsbD 60 then
    match liveMasks s g (recordOf x) pc with
    | (some q, s) => ((all.1 &&& (q.2 / 2 * 2), all.2 &&& q.1), s)
    | (none, s) => (all, s)
  else ((all.1 &&& (~~~x.sdead).toNat, all.2 &&& (~~~x.vdead).toNat), s)

/-- The number of runs of bytes, each a length and a value, one after the other. -/
def joinRuns : List (Nat × Nat) → Nat
  | [] => 0
  | (n, v) :: rest => v % 2 ^ (8 * n) + 2 ^ (8 * n) * joinRuns rest

def runsLength (rs : List (Nat × Nat)) : Nat := (rs.map (·.1)).foldl (· + ·) 0

/-- Numbers of the set bits of a mask below a bound. -/
def setBitsOf (mask n : Nat) : List Nat := (List.range n).filter (fun i => mask.testBit i)

/-- The CSRs of the save area, in its order. -/
def savedCsrs (x : Slot) : List Word :=
  [x.vfmt, x.rmode, x.fflags, x.greq, x.cvmask, x.colr, x.parklim, x.aown, x.tvec, x.tcause, x.tepc, x.tval]

/-- Bytes between the predicates and the next 64-byte boundary. -/
def vectorPad (smask : Nat) : Nat := (64 - 8 * (popcount smask) % 64) % 64

/-- The image of a slot, as runs of bytes. A register or accumulator in error is saved as it is, and has no error after a restore:
the spec says nothing of it (R84; DESIGN CHOICE, notes/assumptions/86.md). -/
def imageRuns (x : Slot) (accs : List (Nat × Acc)) (pc : Word) (smask vmask : Nat) : List (Nat × Nat) :=
  let w (v : Nat) : Nat × Nat := (8, v)
  [w pc.toNat] ++ (savedCsrs x).map (fun v => w v.toNat) ++
    [w smask, w (vmask + 2 ^ 32 * 0xFE), w (x.sfull.toNat ||| 1), w (x.vfull.toNat + 2 ^ 32 * (x.pfull.toNat ||| 1)), w 0, w 0,
      (0x68, 0)] ++
    (setBitsOf smask 64).map (fun n => w (x.sval n).toNat) ++
    (List.range 7).map (fun i => (128, (x.pval (i + 1)).toNat)) ++
    [(vectorPad smask, 0)] ++
    (setBitsOf vmask 32).map (fun n => (512, (x.vval n).toNat)) ++
    (accs.map (fun q => [(4096, q.2.data.toNat), (64, q.2.flags.toNat)])).flatten

/-- The accumulators that a slot claims, rising (R74, R160). -/
def claimedAccs (s : State) (sid : Nat) (aown : Word) : List (Nat × Acc) :=
  (setBitsOf aown.toNat 8).map (fun n => (n, (s.cell (cellOfSlot sid)).accOf (8 * (coreOf sid % 4) + n)))

/-! ## The record (R146, R159) -/

/-- Writes the state of a slot's record; true where the step is parked on a demand fault. A denied write leaves the record
(DEDUCED, notes/assumptions/51.md). -/
def putRecordState (s : State) (g : Agent) (x : Slot) (st : Nat) : Bool × State :=
  match writeVirt s g (recordOf x + 0x38#64) 8 (x.save.toNat + st) with
  | (.parked, s) => (true, s)
  | (_, s) => (false, s)

/-! ## Stopping a slot (R159, R161) -/

/-- Withdraws what a parked slot waits for, so that it issues the instruction again after a resume: a refused access or message, whose
issue has been taken back (R4), an access parked on a demand fault, the hidden gear request of `bar.wait.drop`. -/
def withdraw (s : State) (sid : Nat) : State :=
  let x := s.slot sid
  match s.flight.find? (fun a => (a.stage = .held || a.stage = .faulted) && a.slotOf s = some sid),
      s.messages.find? (fun m => m.sid = sid && decide (m.answer = some Verdict.refused)) with
  | some a, _ => (s.dropAccess a.id).setSlot sid { x with tries := 0, park := none }
  | none, some m =>
    { s with messages := s.messages.filter (fun q => q.id ≠ m.id) }.setSlot sid { lowerUnack x with tries := 0, park := none }
  | none, none =>
    match x.park with
    | some (.barrier _) => s.setSlot sid { x with park := none, greq := setBit x.greq 1 false }
    | some _ => s.setSlot sid { x with park := none }
    | none => s

/-- A capture that is open when a slot stops is taken back: the slot resumes at its `vloop`
(DEDUCED, notes/assumptions/47.md). -/
def withoutCapture (x : Slot) : Slot :=
  match x.cap with
  | none => x
  | some l => { x with pc := (match l.body with | it :: _ => it.pc | [] => x.pc) - 4#64, cap := none }

/-- A deferred trap that waits in a stopping slot is taken before it stops (R83). -/
def takeDeferred (s : State) (sid : Nat) : State :=
  let x := s.slot sid
  match x.deferred with
  | none => s
  | some t =>
    let s := takeTrap (s.setSlot sid { x with deferred := none, status := .live }) sid t.cause t.detail t.tval true
    s.modSlot sid (fun y => if y.status = .live then { y with status := x.status } else y)

/-- Whether engines of a slot's core or cell still work for it. -/
def enginesBusy (s : State) (sid : Nat) : Bool :=
  (s.core (coreOf sid)).vq.any (fun e => e.sid = sid) || (s.core (coreOf sid)).vrun.any (fun r => r.sid = sid) ||
    (s.slot sid).replay.isSome || forkBusy s sid || matrixBusy s sid

/-- Whether a slot is quiet enough for a spill (R159 step 2). -/
def spillReady (s : State) (sid : Nat) : Bool :=
  let x := s.slot sid
  x.unack = 0#64 && !x.anyOwed && x.await.isNone && !enginesBusy s sid && !forwardsOpen s (dieOf (cellOfSlot sid))

/-- The third course of R205: the slot is restored and exempt from removal. -/
def exempt (s : State) (sid : Nat) : State :=
  let s := s.modSlot sid (fun x => { x with removedAt := none, exemptUntil := some (s.gts + wrap64 Config.removalBound) })
  applyDepth (s.dueOnce (.lapse sid)) (cellOfSlot sid)

/-- A spill that does not come about: the slot goes on where it stopped; at the power controller's trigger the next course of
R205 follows. -/
def abandonSpill (s : State) (sid : Nat) (byPower : Bool) : State :=
  let s := s.modCell (cellOfSlot sid) (fun c => { c with puntyAt := if c.puntyAt = some sid then none else c.puntyAt })
  let s := s.modSlot sid (fun x => { x with status := .live })
  if byPower then exempt s sid else s

/-- A slot's task has left it: the graph engine hears of the record if it is a continuation. -/
def suspended (s : State) (sid : Nat) : State :=
  let x := s.slot sid
  let cell := cellOfSlot sid
  let p := s.partN cell
  let s := giveFinal (s.modCell cell (fun c => { c with puntyAt := none })) sid .suspended 0#32
  { s with conts := s.conts ++ [(p, s.casid cell, recordOf x)] }.pushE (.continuationPlace p)

/-- Steps 3 to 5 of R159. -/
def spillNow (s : State) (sid : Nat) (byPower : Bool) : State :=
  let x := s.slot sid
  let g := punty s sid (.puntySpill sid)
  match putRecordState (s.modCell (cellOfSlot sid) (fun c => { c with puntyAt := some sid })) g x 2 with
  | (true, s) => s
  | (false, s) =>
    let m := saveMasks s g x x.pc
    let img := imageRuns x (claimedAccs s sid x.aown) x.pc m.1.1 m.1.2
    match writeVirt m.2 g x.save (runsLength img) (joinRuns img) with
    | (.parked, s) => s
    | (.denied _, s) =>
      match putRecordState s g x 0 with
      | (true, s) => s
      | (false, s) => abandonSpill s sid byPower
    | (.done, s) =>
      match putRecordState (flushDie s g.die) g x 1 with
      | (true, s) => s
      | (false, s) => suspended (flushDie s g.die) sid

/-- Whether the punty of a slot's cell is at another slot: it pre-empts one at a time (R159). -/
def puntyElsewhere (s : State) (sid : Nat) : Bool :=
  match (s.cell (cellOfSlot sid)).puntyAt with
  | some t => t ≠ sid
  | none => false

/-- A step of a cell's punty, which stands still with the cell's clock (R198). -/
def whenPunty (s : State) (cell : Nat) (ev : Instr) (t : Host.Outcome State Fault Refusal) : Host.Outcome State Fault Refusal :=
  if (clockStop (s.cell cell)).isSome then .next (s.pushE ev) else t

/-- PUNTY_SPILL (R159). -/
def execPuntySpill (sid : Nat) (s : State) : Host.Outcome State Fault Refusal :=
  whenPunty s (cellOfSlot sid) (.puntySpill sid) <|
  match (s.slot sid).status with
  | .spilling byPower =>
    let s := takeDeferred ((withdraw s sid).modSlot sid withoutCapture) sid
    let x := s.slot sid
    if x.status ≠ .spilling byPower then .next s
    else if x.save = 0#64 then .next (abandonSpill s sid byPower)
    else if puntyElsewhere s sid || !spillReady s sid then .next (s.pushE (.puntySpill sid))
    else .next (spillNow s sid byPower)
  | _ => .next s

/-! ## Restores (R149, R159, R160) -/

/-- Bytes lo .. lo + n - 1 of an image. -/
def imageBytes (img lo n : Nat) : Nat := (img >>> (8 * lo)) % 2 ^ (8 * n)

/-- Word i of an image's head. -/
def headWord (img i : Nat) : Word := wrap64 (imageBytes img (8 * i) 8)

/-- Offset of the vector registers, and of the accumulators, in an image. -/
def vectorsAt (smask : Nat) : Nat := 0x100 + 8 * popcount smask + 7 * 128 + vectorPad smask
def accsAt (smask vmask : Nat) : Nat := vectorsAt smask + 512 * popcount vmask

/-- Scalar registers from an image: saved ones with their F, the others dead. -/
def restoreScalars (img smask fs : Nat) (x : Slot) : Slot :=
  let r := (List.range x.ns).foldl (fun (acc : Slot × Nat) n =>
    if smask.testBit n then
      let y := acc.1.putS n (wrap64 (imageBytes img acc.2 8))
      ({ y with sfull := setBit y.sfull n (n = 0 || fs.testBit n) }, acc.2 + 8)
    else (if n = 0 then acc.1 else acc.1.killS n, acc.2)) (x, 0x100)
  r.1

/-- Predicates p1-p7 from an image. -/
def restorePreds (img smask fp : Nat) (x : Slot) : Slot :=
  (List.range 7).foldl (fun x i =>
    let n := i + 1
    { x with
      preg := FMap.put x.preg n (BitVec.ofNat 1024 (imageBytes img (0x100 + 8 * popcount smask + 128 * i) 128))
      pfull := setBit x.pfull n (fp.testBit n) }) x

/-- Vector registers from an image. -/
def restoreVectors (img smask vmask fv : Nat) (x : Slot) : Slot :=
  let r := (List.range x.nv).foldl (fun (acc : Slot × Nat) n =>
    if vmask.testBit n then
      let y := acc.1.putV n (BitVec.ofNat 4096 (imageBytes img acc.2 512))
      ({ y with vfull := setBit y.vfull n (fv.testBit n) }, acc.2 + 512)
    else (acc.1.killV n, acc.2)) (x, vectorsAt smask)
  r.1

/-- The slot as its image gives it; of a register only the defined bits are kept, and the PC is aligned (R3, R225). -/
def restoredSlot (img : Nat) (x : Slot) : Slot :=
  let w := headWord img
  let part (i m : Nat) : Word := w i &&& wrap64 m
  let smask := (w 13).toNat
  let vmask := bits (w 14) 31 0
  let x := { x with
    pc := part 0 (fieldMask 63 2), vfmt := part 1 0x3F, rmode := part 2 7, fflags := part 3 0x1F, greq := part 4 3
    cvmask := part 5 (fieldMask 63 1), colr := part 6 0x3F, parklim := part 7 (fieldMask 31 0), aown := part 8 0xFF
    tvec := part 9 (fieldMask 63 2), tcause := part 10 (fieldMask 17 0), tepc := w 11, tval := w 12, unack := 0#64 }
  restoreVectors img smask vmask (bits (w 16) 31 0) (restorePreds img smask (bits (w 16) 39 32) (restoreScalars img smask (w 15).toNat x))

/-- Writes claimed accumulators of an image or a context into a core. -/
def putAccs (s : State) (core : Nat) (accs : List (Nat × Acc)) : State :=
  s.modCell (core / 4) (fun c => accs.foldl (fun c q =>
    let n := 8 * (core % 4) + q.1
    c.setAcc n { c.accOf n with data := q.2.data, flags := q.2.flags, err := q.2.err }) c)

/-- The accumulators of an image: −0 as +0, any NaN as the canonical one (R54). -/
def imageAccs (img : Nat) : List (Nat × Acc) :=
  let w := headWord img
  let at_ := accsAt (w 13).toNat (bits (w 14) 31 0)
  ((setBitsOf (w 8).toNat 8).zipIdx).map (fun (q : Nat × Nat) =>
    (q.1, { Acc.init with
      data := BitVec.ofNat 32768 (packLanes 32 ((lanes 32 (imageBytes img (at_ + 4160 * q.2) 4096) 1024).map accCanon))
      flags := BitVec.ofNat 5 (imageBytes img (at_ + 4160 * q.2 + 4096) 1) }))

/-- Whether the accumulators of a mask are free on a slot's core (R74). -/
def accsFree (s : State) (sid : Nat) (aown : Word) : Bool :=
  (List.range 16).all (fun i =>
    let t := 16 * coreOf sid + i
    t = sid || (s.slot t).aown &&& aown = 0#64)

/-- A restore that fails: the slot ends with an unhandled trap before it issues (R159). -/
def failRestore (s : State) (sid cause : Nat) (va : Word) : State :=
  takeTrap (s.modSlot sid (fun x => { x with status := .live, tvec := 0#64 })) sid cause 0 va false

/-- PUNTY_RESTORE (R149, R159, R160): it acquires what the spill released (R125, R137). -/
def execPuntyRestore (sid : Nat) (s : State) : Host.Outcome State Fault Refusal :=
  let x := s.slot sid
  let g := punty s sid (.puntyRestore sid)
  whenPunty s (cellOfSlot sid) (.puntyRestore sid) <|
  if x.status ≠ .restoring then .next s
  else
    match readVirt (selfInvalidate s g.die) g x.save 0x100 with
    | (.parked, s) => .next s
    | (.denied va, s) => .next (failRestore s sid cPage va)
    | (.error va, s) => .next (failRestore s sid cMachineCheck va)
    | (.val h, s) =>
      let w := headWord h
      let n := accsAt (w 13).toNat (bits (w 14) 31 0) + 4160 * popcount (bits (w 8) 7 0)
      if !accsFree s sid (w 8) then .next (s.pushE (.puntyRestore sid))
      else
        match readVirt s g x.save n with
        | (.parked, s) => .next s
        | (.denied va, s) => .next (failRestore s sid cPage va)
        | (.error va, s) => .next (failRestore s sid cMachineCheck va)
        | (.val img, s) =>
          match putRecordState s g x 0 with
          | (true, s) => .next s
          | (false, s) =>
            let s := putAccs s (coreOf sid) (imageAccs img)
            .next ((s.setSlot sid { restoredSlot img x with status := .live }).pushE (.gearEvaluate (cellOfSlot sid)))

/-! ## Migrations (R161, R162) -/

/-- The scalar register that the load fills at whose verdict a slot waits. -/
def awaitedDst (s : State) (sid : Nat) : Option Nat :=
  match (s.slot sid).await with
  | none => none
  | some id =>
    match s.findAccess id with
    | some a => (match a.op, a.src with | .load _ _, .slot _ _ _ (some d) _ _ _ => if d < 64 then some d else none | _, _ => none)
    | none => none

/-- Whether a slot may be sent (R161): but for the reply to the load whose verdict it awaits nothing is owed to it. -/
def moveReady (s : State) (sid : Nat) : Bool :=
  let x := s.slot sid
  let may : BitVec 64 := match awaitedDst s sid with | some d => if d = 0 then 0#64 else 1#64 <<< d | none => 0#64
  x.unack = 0#64 && x.vpend = 0#32 && x.ppend = 0#8 && (x.spend &&& ~~~may) = 0#64 && !enginesBusy s sid &&
    (x.await.isNone || (awaitedDst s sid).isSome)

/-- Whether a slot can take a thread with these register counts (R161). -/
def canHold (s : State) (target ns nv : Nat) : Bool :=
  let x := s.slot target
  x.status = .empty && x.removedAt.isNone && decide (scalarUsed s (coreOf target) + ns ≤ scalarPool) &&
    decide (vectorUsed s (cellOfSlot target) + nv ≤ vectorPool)

/-- Whether a forwarding entry is valid on a die (R162). -/
def fwdValid (s : State) (core : Nat) (f : Fwd) : Bool := decide (s.fcyc (dieOf (core / 4)) < f.expires)

/-- The lowest forwarding entry that is free. -/
def freeFwd (s : State) (core : Nat) : Option Nat :=
  (List.range Config.forwardEntries).find? (fun i =>
    match (s.core core).fwd[i]? with
    | some f => !fwdValid s core f
    | none => true)

/-- Writes a forwarding entry. -/
def putFwd (s : State) (core i : Nat) (f : Fwd) : State :=
  s.modCore core (fun k => { k with fwd := if i < k.fwd.length then setAt k.fwd i f else k.fwd ++ [f] })

/-- The migration turns into a spill (R161). -/
def moveToSpill (s : State) (sid : Nat) (byPower : Bool) : State :=
  (s.modSlot sid (fun x => { x with status := .spilling byPower })).pushE (.puntySpill sid)

/-- The slot as a context carries it: a register that is not saved, and owes nothing, is dead (R160, R161). -/
def contextSlot (x : Slot) (smask vmask : Nat) : Slot :=
  let x := (List.range x.ns).foldl (fun x n => if n = 0 || smask.testBit n || x.spend.getLsbD n then x else x.killS n) x
  (List.range x.nv).foldl (fun x n => if vmask.testBit n then x else x.killV n) x

/-- What leaves the die with a thread: its writes are at their homes (R137). -/
def leaveDie (s : State) (sid target : Nat) : State :=
  if dieOf (cellOfSlot sid) = dieOf (cellOfSlot target) then s else flushDie s (dieOf (cellOfSlot sid))

/-- Sends the register context: the target slot is taken under a new generation, the old one keeps a forwarding entry
(DEDUCED, notes/assumptions/53.md). -/
def sendContext (s : State) (sid target i : Nat) (byPower : Bool) : State :=
  let m := saveMasks (leaveDie s sid target) (punty s sid (.migrationSend sid)) (s.slot sid) (s.slot sid).pc
  let s := m.2
  let x := contextSlot (s.slot sid) m.1.1 m.1.2
  let core := coreOf sid
  let t := s.slot target
  let gen := t.gen + 1#8
  let c : Context := { id := s.nextId, slot := x, accs := claimedAccs s sid x.aown, osid := sid, target := target, byPower := byPower }
  let s := { s with contexts := s.contexts ++ [c], nextId := s.nextId + 1 }
  let s := s.setSlot target { Slot.init with
    status := .restoring, gen := gen, ns := x.ns, nv := x.nv, tid := setBits x.tid 7 0 gen.toNat, targ := x.targ
    removedAt := t.removedAt, exemptUntil := t.exemptUntil }
  let f : Fwd := { oslot := slotIx sid, ogen := x.gen, target := target, tgen := gen
                   expires := s.fcyc (dieOf (core / 4)) + Config.forwardLife }
  (giveFinal (putFwd s core i f) sid .suspended 0#32).pushE (.migrationArrival c.id)

/-- MIGRATION_SEND (R161). -/
def execMigrationSend (sid : Nat) (s : State) : Host.Outcome State Fault Refusal :=
  whenPunty s (cellOfSlot sid) (.migrationSend sid) <|
  match (s.slot sid).status with
  | .moving target byPower =>
    let s := takeDeferred ((withdraw s sid).modSlot sid withoutCapture) sid
    let x := s.slot sid
    if x.status ≠ .moving target byPower then .next s
    else if !canHold s target x.ns x.nv then .next (moveToSpill s sid byPower)
    else if puntyElsewhere s sid || !moveReady s sid then .next (s.pushE (.migrationSend sid))
    else
      match freeFwd s (coreOf sid) with
      | none => .next (s.pushE (.migrationSend sid))
      | some i =>
        match putRecordState s (punty s sid (.migrationSend sid)) x 2 with
        | (true, s) => .next s
        | (false, s) => .next (sendContext s sid target i byPower)
  | _ => .next s

/-- Bytes of a register-context message: its registers and accumulators (R161, R199). -/
def Context.bytes (c : Context) : Nat := 8 * c.slot.ns + 512 * c.slot.nv + 128 * 8 + 4096 * c.accs.length

/-- MIGRATION_ARRIVAL (R161): on another die the thread finds nothing older than its own writes (R137). -/
def execMigrationArrival (id : Nat) (s : State) : Host.Outcome State Fault Refusal :=
  match s.contexts.find? (fun c => c.id = id) with
  | none => .next s
  | some c =>
    let t := s.slot c.target
    let cell := cellOfSlot c.target
    let ev := Instr.migrationArrival id
    if (s.fabricOf (dieOf cell)).step.isSome then .next (s.pushE ev)
    else if (clockStop (s.cell cell)).isSome then .next (whenPort s cell { turn := .event ev, bytes := c.bytes, ack := false } false s)
    else if !accsFree s c.target c.slot.aown then .next (s.pushE (.migrationArrival id))
    else
      match putRecordState s (punty s c.target (.migrationArrival id)) c.slot 0 with
      | (true, s) => .next s
      | (false, s) =>
        let s := { s with contexts := s.contexts.filter (fun q => q.id ≠ id) }
        let s := putAccs s (coreOf c.target) c.accs
        let d := dieOf (cellOfSlot c.target)
        let s := if dieOf (cellOfSlot c.osid) = d then s else selfInvalidate s d
        let s := s.setSlot c.target { c.slot with
          status := .live, gen := t.gen, tid := t.tid, park := none, killReq := t.killReq, removedAt := t.removedAt
          exemptUntil := t.exemptUntil, fork := none, phase := BitVec.ofNat 8 (bits c.slot.tkey 31 24) }
        .next ((enrol s c.target).pushE (.gearEvaluate (cellOfSlot c.target)))

/-- FORWARD_EXPIRY (R162): entry n of a core, due at a fabric cycle, loses V. -/
def execForwardExpiry (cell core n fc : Nat) (s : State) : Host.Outcome State Fault Refusal :=
  let k := 4 * cell + core
  match (s.core k).fwd[n]? with
  | some f => .next (if f.expires = fc && !fwdValid s k f then putFwd s k n { f with expires := 0 } else s)
  | none => .next s

/-! ## Removals that last (R205) -/

/-- A free unremoved servitor slot of another core of a partition, with registers enough: the first in the order of R12, then the
lowest core and slot (DESIGN CHOICE, notes/assumptions/104.md). -/
def freeTarget (s : State) (p sid : Nat) : Option Nat :=
  let x := s.slot sid
  (s.partCells p).findSome? (fun c => ((List.range 64).map (64 * c + ·)).find? (fun t =>
    !isGaffer t && coreOf t ≠ coreOf sid && canHold s t x.ns x.nv))

/-- REMOVAL_TIMEOUT (R30, R205): it stays due until the 50 µs are over, over a stop of the cell's clock (R201), and while the slot is
restored, stopped for a spill or a migration that may not come about, or about to end. -/
def execRemovalTimeout (sid : Nat) (s : State) : Host.Outcome State Fault Refusal :=
  let x := s.slot sid
  match x.removedAt with
  | none => .next s
  | some t =>
    if !x.isLive then .next s
    else if x.status ≠ .live || s.gts.toNat < t.toNat + Config.removalBound || (clockStop (s.cell (cellOfSlot sid))).isSome then .next (s.dueOnce (.removal sid))
    else
      match freeTarget s (s.partN (cellOfSlot sid)) sid with
      | some target => .next ((s.setSlot sid { x with status := .moving target true }).pushE (.migrationSend sid))
      | none =>
        if x.save ≠ 0#64 then .next ((s.setSlot sid { x with status := .spilling true }).pushE (.puntySpill sid))
        else .next (exempt s sid)

/-- EXEMPTION_LAPSE (R205). -/
def execExemptionLapse (sid : Nat) (s : State) : Host.Outcome State Fault Refusal :=
  let x := s.slot sid
  match x.exemptUntil with
  | none => .next s
  | some t =>
    if s.gts.toNat < t.toNat then .next (s.dueOnce (.lapse sid))
    else .next (applyDepth (s.setSlot sid { x with exemptUntil := none }) (cellOfSlot sid))

end Sys2Proof.Machine
end

