-- ==== Sys2Proof/Machine/Answers.lean ====
section
/-! DEFINITION. Arrivals at a slot: answers of accesses, token statuses, messages; and barrier arrivals and releases
(spec/03_registers.md R64-R67, spec/15_ref_threads_system.md R300-R302, spec/09_power.md R202-R203). -/

namespace Sys2Proof.Machine

/-! ## Answers of accesses (R66, R192) -/

/-- LOAD_RETURN (R66). -/
def execLoadReturn (id : Nat) (s : State) : Host.Outcome State Fault Refusal := .next (bringHome s id (.loadReturn id))

/-- ACKNOWLEDGEMENT (R192). -/
def execAcknowledgement (id : Nat) (s : State) : Host.Outcome State Fault Refusal := .next (bringHome s id (.acknowledgement id))

/-! ## Token statuses (R64, R303, R350) -/

/-- Delivers a token status to a slot of a generation that is owed it. -/
def fillToken (s : State) (t : Token) : State :=
  let sid := 16 * t.core + t.slot
  let x := s.slot sid
  let x' := if t.tok && x.isLive && decide (x.gen = t.gen) && x.sP t.reg then wakeSlot (x.fillS t.reg t.status) else x
  let s := s.setSlot sid x'
  if t.blk then acknowledge s sid t.gen else s

/-- Sends the barrier arrival that goes with a token (R369). -/
def tokenArrival (s : State) (t : Token) : State :=
  match t.bar with
  | some (p, b) =>
    let a : Arrival := { part := p, bar := b, src := none, source := cellSource 2 (t.core / 4) }
    let s := { s with arrivals := s.arrivals ++ [a] }
    s.pushE (.barrierArrival p b)
  | none => s

/-- A copy leaves its cell: its applied-sequence record goes with it, and the copy queues of the cell move on (R156, R362). -/
def dropCopy (s : State) (cell serial : Nat) : State :=
  let s := s.modCell cell (fun c => { c with copies := c.copies.filter (fun r => r.serial ≠ serial) })
  s.push (((List.range 4).filter (fun k => !(s.core (4 * cell + k)).cq.isEmpty)).map (fun k => Turn.copy (4 * cell + k)))

/-- What a token's release at package or system scope comes to at a die (R125, R131): the writes of the die's engines are at their
homes, and the reader's die holds nothing older. A value is acquired here, where it arrives, which no later read can tell from an
acquire at its first read: what is read in between comes from the homes (DEDUCED, notes/assumptions/97.md). -/
def tokenScope (s : State) (t : Token) : State :=
  let d := dieOf (t.core / 4)
  if 4 ≤ t.scope then selfInvalidate (flushDie s d) d else s

/-- A token status arrives (R64, R377). -/
def takeToken (s : State) (t : Token) : State :=
  let s := tokenScope { s with tokens := s.tokens.filter (fun q => q.id ≠ t.id) } t
  let s := tokenArrival (fillToken s t) t
  match t.copy with
  | some n => dropCopy s (t.core / 4) n
  | none => s

/-- Whether a token status comes from the cell's copy port, or from the commons, over the FIFO to the fabric (R191). -/
def Token.crosses (t : Token) : Bool := t.blk || t.copy.isSome

/-- TOKEN_FILL (R64, R377). -/
def execTokenFill (id : Nat) (s : State) : Host.Outcome State Fault Refusal :=
  let ev := Instr.tokenFill id
  match s.tokens.find? (fun t => t.id = id) with
  | none => .next s
  | some t =>
    let go : State := whenPort s (t.core / 4) { turn := .event ev, bytes := 8, ack := false } false (takeToken s t)
    .next (if t.crosses then whenFabric s (dieOf (t.core / 4)) ev go else go)

/-! ## Messages (R300) -/

/-- Judges a message at a slot, and fills the register. -/
def judgeAt (x : Slot) (m : Message) : Verdict × Slot :=
  let r := twReg m.target
  match m.kind with
  | 0 =>
    if x.ns ≤ r then (.nacked, x)
    else if r = 0 then (.accepted, x)
    else if x.sF r || x.sP r then (.refused, x)
    else (.accepted, x.fillS r (m.value.setWidth 64))
  | 1 =>
    if x.nv ≤ r then (.nacked, x)
    else if x.vF r || x.vP r then (.refused, x)
    else (.accepted, x.fillV r m.value)
  | _ =>
    if 8 ≤ r then (.nacked, x)
    else if r = 0 then (.accepted, x)
    else if x.pF r || x.pP r then (.refused, x)
    else (.accepted, x.fillP r (m.value.setWidth 1024))

/-- Judges a message at a slot, and fills the register; one whose instruction read a register in error fills nothing (R82)
(DEDUCED, notes/assumptions/52.md). -/
def judge (x : Slot) (m : Message) : Verdict × Slot :=
  let r := judgeAt x m
  match r.1, m.poison with
  | .accepted, some _ => (.broken, x)
  | _, _ => r

/-- Notes the verdict of a message and sends it home. -/
def answerMessage (s : State) (m : Message) (v : Verdict) : State :=
  let note (q : Message) : Message := if q.id = m.id then { q with answer := some v } else q
  let s := { s with messages := s.messages.map note }
  s.pushE (.messageResponse m.id)

/-- A message reaches its target cell: forwarding entries redirect it before it is judged (R162, R300); it waits for a slot
that is being filled, and for the sender's older accesses, since its fill is a release at the scope of the path, which the
receiver, wherever it is by then, acquires where it arrives: its die keeps no replica, since one that still holds a write would be
stale once that is forwarded (R125, R131; notes/assumptions/97.md). -/
def deliver (s : State) (m : Message) : State :=
  let sid := 16 * (4 * m.tcell + twCore m.target) + twSlot m.target
  match resolveSlot s sid (twGen m.target) with
  | none => answerMessage s m .nacked
  | some t =>
    let d := dieOf (cellOfSlot t)
    let far := decide (d ≠ dieOf (cellOfSlot m.sid))
    if inTransit s t || !released s m.sid m.id (if far then 4 else 3) then s.pushE (.messageArrival m.id)
    else
      let r := judge (s.slot t) m
      let x := match r.1 with | .accepted => wakeSlot r.2 | _ => r.2
      let s := if r.1 = .accepted && far then selfInvalidate (flushDie s d) d else s
      answerMessage (s.setSlot t x) m r.1

/-- Bytes that the fill of a message takes up in an inbound port FIFO (R199, R300). -/
def Message.bytes (m : Message) : Nat := match m.kind with | 0 => 8 | 1 => 512 | _ => 128

/-- The cell that a message arrives at: where forwarding entries send it (R162). -/
def Message.landsAt (s : State) (m : Message) : Nat :=
  match resolveSlot s (16 * (4 * m.tcell + twCore m.target) + twSlot m.target) (twGen m.target) with
  | some t => cellOfSlot t
  | none => m.tcell

/-- MESSAGE_ARRIVAL (R300). -/
def execMessageArrival (id : Nat) (s : State) : Host.Outcome State Fault Refusal :=
  let ev := Instr.messageArrival id
  match s.messages.find? (fun m => m.id = id && m.answer.isNone) with
  | none => .next s
  | some m =>
    let cell := m.landsAt s
    .next (whenFabric s (dieOf cell) ev (whenPort s cell { turn := .event ev, bytes := m.bytes, ack := false } false (deliver s m)))

/-- A message leaves its sender: UNACK falls, the slot no longer waits for it. -/
def endMessage (s : State) (m : Message) : State :=
  let s := { s with messages := s.messages.filter (fun q => q.id ≠ m.id) }
  s.modSlot m.sid (fun x => { lowerUnack x with await := if x.await = some m.id then none else x.await, tries := 0 })

/-- The sender as before the issue of its `send`, but for UNACK (R4, R82). -/
def undoSend (x : Slot) (m : Message) : Slot := { x.restoreTaken m.cons with pc := m.pc, await := none }

/-- A message that will not be accepted traps at its `send`, of which nothing has taken effect (R82, R281, R300). -/
def failMessage (s : State) (m : Message) (cause detail : Nat) (tval : Word) : State :=
  let s := endMessage s m
  if !(s.slot m.sid).goesOn then s
  else takeTrap (s.modSlot m.sid (fun x => undoSend x m)) m.sid cause detail tval false

/-- The verdict of a message reaches its sender. Refused, it parks as before its issue, but counts on in UNACK (R192, R281). -/
def respond (s : State) (m : Message) (v : Verdict) : State :=
  let x := s.slot m.sid
  if !(x.isLive && decide (x.gen = m.gen)) then { s with messages := s.messages.filter (fun q => q.id ≠ m.id) }
  else
    match v with
    | .accepted => endMessage s m
    | .nacked => failMessage s m cUndeliverable 0 m.target
    | .broken => failMessage s m cMachineCheck 1 (wrap64 (m.poison.getD 0))
    | .refused =>
      if !x.goesOn then endMessage s m
      else if bits x.parklim 31 0 ≠ 0 && x.tries + 1 = bits x.parklim 31 0 then failMessage s m cSyncTimeout 0 m.target
      else s.setSlot m.sid { undoSend x m with tries := x.tries + 1, park := some .refused }

/-- MESSAGE_RESPONSE (R300). -/
def execMessageResponse (id : Nat) (s : State) : Host.Outcome State Fault Refusal :=
  let ev := Instr.messageResponse id
  match s.messages.find? (fun m => m.id = id) with
  | none => .next s
  | some m =>
    match m.answer with
    | none => .next s
    | some v =>
      let cell := cellOfSlot m.sid
      if (s.slot m.sid).park = some .refused then .next s
      else .next (whenFabric s (dieOf cell) ev (whenPort s cell { turn := .event ev, bytes := 0, ack := true } false (respond s m v)))

/-! ## Barriers (R202, R203, R302) -/

/-- A phase whose members have all been stamped gets its release tick; arrivals beyond them count towards the next phase. -/
def closePhase (b : Barrier) : Barrier :=
  if b.m ≠ 0 && decide (b.m ≤ b.count) && b.release.isNone then
    { b with release := some (b.stamp + Config.releaseDelay), next := b.count - b.m, nextStamp := b.stamp, nextSource := b.source }
  else b

/-- Whether an arrival is the last of n + 1 in the order of R195, where `stamp` and `of` are those of the last of the n. -/
def comesLast (n stamp of t source : Nat) : Bool := n = 0 || decide (stamp < t) || (stamp = t && decide (of ≤ source))

/-- One arrival is stamped with the GTS and its source number; the last of a phase in the order of R195 stays (R195, R202). -/
def stampArrival (b : Barrier) (gts source : Nat) : Barrier :=
  let t := tickAt gts
  if b.m = 0 then b
  else if b.release.isSome then
    let last := comesLast b.next b.nextStamp b.nextSource t source
    { b with next := b.next + 1, nextStamp := if last then t else b.nextStamp, nextSource := if last then source else b.nextSource }
  else
    let last := comesLast b.count b.stamp b.source t source
    closePhase { b with count := b.count + 1, stamp := if last then t else b.stamp, source := if last then source else b.source }

/-- Whether an arrival may be stamped: the slot's older accesses are performed (R125), and the fabric of its die, over which it comes,
runs (R191). -/
def arrivalReady (s : State) (a : Arrival) : Bool :=
  (s.fabricOf (a.source % 4096 / 1024)).step.isNone &&
  (match a.src with
   | some (sid, serial) => released s sid serial 4
   | none => true)

/-- BARRIER_ARRIVAL (R202, R302). -/
def execBarrierArrival (p bar : Nat) (s : State) : Host.Outcome State Fault Refusal :=
  let mine (a : Arrival) : Bool := a.part = p && a.bar = bar
  if !s.arrivals.any mine then .next s
  else
    match s.arrivals.find? (fun a => mine a && arrivalReady s a) with
    | none => .next (s.pushE (.barrierArrival p bar))
    | some a =>
      let b := stampArrival (s.barrier p bar) s.gts.toNat a.source
      let fresh := (s.barrier p bar).release.isNone && b.release.isSome
      let s := { s with arrivals := s.arrivals.erase a }.setBarrier p bar b
      .next (if fresh then s.pushE (.barrierRelease p bar) else s)

/-- The barrier after the release of its open phase. -/
def advancePhase (b : Barrier) : Barrier :=
  closePhase { b with phase := (b.phase + 1) % 65536, count := b.next, stamp := b.nextStamp, source := b.nextSource, release := none, next := 0, nextStamp := 0
                      nextSource := 0 }

/-- A cell in lehr that the release makes want glory hops up from the release tick itself (R203). -/
def hopAtRelease (s : State) (cell t : Nat) : State :=
  if (s.cell cell).gearState = .lehr && (clockStop (s.cell cell)).isNone && wantOf s cell then gearEvalAt s cell t else s

/-- BARRIER_RELEASE (R202, R203): it takes effect in every cell of the partition. -/
def execBarrierRelease (p bar : Nat) (s : State) : Host.Outcome State Fault Refusal :=
  match (s.barrier p bar).release with
  | none => .next s
  | some t =>
    if s.gts.toNat < t then .next (s.pushE (.barrierRelease p bar))
    else
      let b := advancePhase (s.barrier p bar)
      let s := s.setBarrier p bar b
      let s := (s.partCells p).foldl (fun s c => hopAtRelease (releaseSlots (setOpenCopy s c bar b.phase) c bar) c t) s
      .next (if b.release.isSome then s.pushE (.barrierRelease p bar) else s)

end Sys2Proof.Machine
end

