-- ==== Sys2Proof/Machine/Control.lean ====
section
/-! DEFINITION. Branches, jumps, calls, returns and counted loops (spec/13_ref_scalar.md R265-R270). -/

namespace Sys2Proof.Machine

/-- A PC-relative target, in words from the instruction (R225, R265). -/
def target {w : Nat} (pc : Word) (o : BitVec w) : Word := pc + sx o * 4#64

/-- A conditional branch (R266). -/
def branch (c : Word → Word → Bool) (a b : BitVec 6) (o : BitVec 11) (s : State) : Res := do
  let x := s.slot s.cur
  boundS x [a.toNat, b.toNat]
  let u ← readS x a.toNat
  let v ← readS x b.toNat
  return s.setSlot s.cur { x with pc := if c u v then target x.pc o else x.pc + 4#64 }

def execBEq (a b : BitVec 6) (o : BitVec 11) (s : State) : Host.Outcome State Fault Refusal :=
  finish s (branch (fun x y => x == y) a b o s)
def execBNe (a b : BitVec 6) (o : BitVec 11) (s : State) : Host.Outcome State Fault Refusal :=
  finish s (branch (fun x y => x != y) a b o s)
def execBLt (a b : BitVec 6) (o : BitVec 11) (s : State) : Host.Outcome State Fault Refusal :=
  finish s (branch (fun x y => decide (x.toInt < y.toInt)) a b o s)
def execBGe (a b : BitVec 6) (o : BitVec 11) (s : State) : Host.Outcome State Fault Refusal :=
  finish s (branch (fun x y => decide (x.toInt ≥ y.toInt)) a b o s)
def execBLtu (a b : BitVec 6) (o : BitVec 11) (s : State) : Host.Outcome State Fault Refusal :=
  finish s (branch (fun x y => decide (x.toNat < y.toNat)) a b o s)
def execBGeu (a b : BitVec 6) (o : BitVec 11) (s : State) : Host.Outcome State Fault Refusal :=
  finish s (branch (fun x y => decide (x.toNat ≥ y.toNat)) a b o s)

/-- J (R267). -/
def execJ (o : BitVec 26) (s : State) : Host.Outcome State Fault Refusal :=
  finish s (.ok (s.modSlot s.cur (fun x => { x with pc := target x.pc o })))

/-- Writes a link and jumps (R267, R269). -/
def linkTo (x : Slot) (d : Nat) (t : Word) : Except Halt Slot := do
  let y ← writeS x d (x.pc + 4#64)
  return { y with pc := t }

/-- JAL (R267). -/
def execJal (o : BitVec 26) (s : State) : Host.Outcome State Fault Refusal :=
  finish s (do
    let x := s.slot s.cur
    boundS x [1]
    let y ← linkTo x 1 (target x.pc o)
    return s.setSlot s.cur y)

/-- A jump target through a register must be aligned (R225). -/
def alignedTarget (t : Word) : Except Halt Unit := guardH (bits t 1 0 = 0) (.trap cMisalign 2 t)

/-- JALR (R267). -/
def execJalr (d a : BitVec 6) (s : State) : Host.Outcome State Fault Refusal :=
  finish s (do
    let x := s.slot s.cur
    boundS x [d.toNat, a.toNat]
    let t ← peekS x a.toNat
    alignedTarget t
    soundS x [a.toNat]
    let y ← linkTo x d.toNat t
    return s.setSlot s.cur y)

/-- Scalar registers that CVMASK names within the slot's count (R268). -/
def deadScalars (x : Slot) : List Nat := (List.range 32).filter (fun r => r ≠ 0 && x.cvmask.getLsbD r && decide (r < x.ns))
/-- Vector registers that CVMASK names within the slot's count (R268). -/
def deadVectors (x : Slot) : List Nat := (List.range 32).filter (fun r => x.cvmask.getLsbD (32 + r) && decide (r < x.nv))

/-- Dead marking (R268): nothing in liveness-table mode; waits while a named register has P = 1. DESIGN CHOICE
(notes/assumptions/87.md): it does not wait for queued vector instructions that have yet to read a named register. -/
def deadMark (x : Slot) : Except Halt Slot :=
  if x.tid.getLsbD 60 then .ok x
  else if (deadScalars x).any x.sP || (deadVectors x).any x.vP then .error .stall
  else .ok ((deadVectors x).foldl Slot.killV ((deadScalars x).foldl Slot.killS x))

/-- RET (R269). -/
def execRet (a : BitVec 6) (s : State) : Host.Outcome State Fault Refusal :=
  finish s (do
    let x := s.slot s.cur
    boundS x [a.toNat]
    let t ← peekS x a.toNat
    alignedTarget t
    soundS x [a.toNat]
    let y ← deadMark x
    return s.setSlot s.cur { y with pc := t })

/-- CALL (R269): marking first, then the link. -/
def execCall (o : BitVec 20) (s : State) : Host.Outcome State Fault Refusal :=
  finish s (do
    let x := s.slot s.cur
    boundS x [1]
    let y ← deadMark x
    let z ← linkTo y 1 (target x.pc o)
    return s.setSlot s.cur z)

/-- LOOP (R270). -/
def execLoop (a : BitVec 6) (o : BitVec 14) (s : State) : Host.Outcome State Fault Refusal :=
  finish s (do
    let x := s.slot s.cur
    boundS x [a.toNat]
    let c ← readS x a.toNat
    if c = 0#64 then return done s x
    else
      let y ← writeS x a.toNat (c - 1#64)
      return s.setSlot s.cur { y with pc := if c = 1#64 then x.pc + 4#64 else target x.pc o })

end Sys2Proof.Machine
end

