-- ==== Sys2Proof/Machine/Pairings.lean ====
section
/-! DEFINITION. The local wheel and the commons: pairings, remote arrivals, turn boundaries (spec/04_memories.md R90-R98,
spec/07_tables.md R165-R168, spec/14_ref_memory.md R288-R291). -/

namespace Sys2Proof.Machine

/-- Whether a block still waits for the accesses that its slot ordered before it, of which those that its die has yet to forward are not
performed at package scope (R131, R289, R291). -/
def blkBlocked (s : State) (b : Blk) : Bool :=
  !released s b.sid b.bid (min 3 b.scope) || (decide (4 ≤ b.scope) && s.forwards.any (fun f => decide (f.sid = some b.sid)))

/-! ## The local wheel (R90, R91) -/

/-- Bank of an access at a cell's local memory. -/
def localBank (s : State) (cell : Nat) (a : Access) : Nat := nbits (Loc.mapOff (s.cell cell) (localOff a.va)) 9 6

/-- Whether an access at a local memory waits for an older one. -/
def localWaits (s : State) (a : Access) : Bool :=
  match a.src with
  | .blk _ _ _ => false
  | _ => mustWait s a

/-- Whether an access is a synchronised load that finds a join word full: it acquires at package scope, whatever its path (R125). -/
def joinRead (s : State) (cell : Nat) (a : Access) : Bool :=
  (match a.op with | .lds => true | .ldw => true | _ => false) && (s.cell cell).joined.contains (Loc.wordAt (s.cell cell) (localOff a.va))

/-- The local side of a unit of a block is served. The token of a `blk.rd` whose last local write this is arrives in the same cell cycle
(R373). -/
def serveBlk (s : State) (a : Access) (core bid i : Nat) : State :=
  let t := blkLocal s a core bid i
  match t.tokens.drop s.tokens.length with
  | k :: _ => takeToken t k
  | [] => t

/-- Serves an access at a cell's local memory. A refused attempt performs nothing (R281), but no class is read from an entry in error
(R172); one whose instruction read a register in error traps where it would be accepted (R82). -/
def serveLocal (s : State) (cell : Nat) (a : Access) : State :=
  match a.src with
  | .blk core bid i => serveBlk s a core bid i
  | _ =>
    if refusedBy s cell (localOff a.va) a.op && !entryErr s cell (localOff a.va) then reply s a .refused
    else
      match a.poison with
      | some r => reply s a (.register r)
      | none =>
        let r := performLocal s cell (localOff a.va) a.op
        reply (if joinRead s cell a then selfInvalidate r.2 (dieOf a.cell) else acquired r.2 a) a r.1

/-- Whether an access stands in the queue of a local-wheel position. -/
def atPosition (cell pos : Nat) (a : Access) : Bool :=
  match a.stage with
  | .wheel c p => c = cell && p = pos
  | .port c => c = cell && decide (14 ≤ pos)
  | _ => false

/-- Serves, of an access and of a unit of the copy port's, the one that reached the queue first. -/
def serveFirst (s : State) (cell : Nat) : Option Access → Option PortUnit → Option State
  | none, none => none
  | some a, none => some (serveLocal s cell a)
  | none, some u => some (servePort s u)
  | some a, some u => some (if a.entered < u.entered.getD 0 then serveLocal s cell a else servePort s u)

/-- LOCAL_PAIRING (R90): a position meets bank (pos + t) mod 16 and serves the unit for it that reached the position first; at
positions 6 to 13 that is a unit of an operand of the matrix unit, and at 14 and 15 units of copies and of accumulator transfers are
among those that wait. -/
def execLocalPairing (cell pos t : Nat) (s : State) : Host.Outcome State Fault Refusal :=
  let ev := Instr.localPairing cell pos t
  let here := s.flight.filter (fun a => atPosition cell pos a && localBank s cell a = (pos + t) % 16)
  let units := if 14 ≤ pos then portUnitsAt s cell ((pos + t) % 16) else []
  .next (whenRunning s cell ev
    (if 6 ≤ pos && pos < 14 then readOperand s cell pos ((pos + t) % 16)
     else
       match serveFirst s cell (firstIn (here.filter (fun a => !localWaits s a))) (firstEntered units) with
       | some s => s
       | none => if here.isEmpty then s else s.pushE ev))

/-- The unit of a copy port that is on its way and has a number. -/
def unitOnItsWay (s : State) (id : Nat) : Option PortUnit := s.units.find? (fun u => u.id = id && u.entered.isNone)

/-- Bytes that an access, or a unit, brings to a cell (R199). -/
def bytesBrought (op : MemOp) : Nat := if op.writes then op.size else 0
def unitBrings (u : PortUnit) : Nat := match u.act with | .read => 0 | _ => u.spot.n

/-- An access that has reached the cell that it is for: the windows judge, and an admitted one enters the copy port's queue; a word of a
block, which its own cell has read, enters at once (R92, R373). -/
def enterPort (s : State) (cell : Nat) (a : Access) : State :=
  let o := localOff a.va
  let enter : State := (s.arrive { a with stage := .port cell }).push (portPairings s cell o)
  match a.src with
  | .blk _ _ _ => enter
  | _ =>
    match windowRefusal (s.cell cell) o a.op.size a.op.rights with
    | some d => reply s a (.window d)
    | none =>
      match a.src, a.poison with
      | .vec _ _ _ _, some r => reply s a (.register r)
      | _, _ => enter

/-- REMOTE_ACCESS_ARRIVAL (R92, R373): an access, a word of a block or a unit of a copy reaches a cell's copy port. -/
def execRemoteAccessArrival (id : Nat) (s : State) : Host.Outcome State Fault Refusal :=
  let ev := Instr.remoteAccessArrival id
  let at_ (cell bytes : Nat) (reserved : Bool) (t : State) : State :=
    whenFabric s (dieOf cell) ev (whenPort s cell { turn := .event ev, bytes := bytes, ack := false } reserved t)
  match s.findAccess id with
  | none =>
    (match unitOnItsWay s id with
     | some u =>
       if u.spot.commons then .next s
       else
         .next (at_ u.spot.cell (unitBrings u) false
           (if unitBehind s u then s.pushE ev else (enterUnit s u).push (portPairings s u.spot.cell u.spot.off)))
     | none => .next s)
  | some a =>
    match a.stage with
    | .lattice cell => .next (at_ cell (bytesBrought a.op) (wordReturns s a) (enterPort s cell a))
    | _ => .next s

/-! ## The commons (R94-R97) -/

/-- Group, bank and row of an address of the commons aperture, for a cell. -/
def placeOf (s : State) (cell o : Nat) : Nat × Nat × Nat := commonsPlace s (s.partN cell) (dieOf cell) o

/-- The place of unit i of a block of a core. -/
def blkPlace (s : State) (core : Nat) (b : Blk) (i : Nat) : Nat × Nat × Nat := placeOf s (core / 4) (64 * (b.cunit + i))

/-- Offset of an access in the commons aperture. -/
def commonsOff (a : Access) : Nat := bits a.va 47 0

/-- Whether a lower unit of the same vector access has yet to enter its commons queue (R343). -/
def lowerCrosses (s : State) (a : Access) : Bool :=
  match a.src with
  | .vec core vid i _ => s.flight.any (fun b => match b.src, b.stage with
      | .vec k v j _, .crossing _ _ => k = core && v = vid && decide (j < i)
      | _, _ => false)
  | _ => false

/-- The block on its way to its engine that has a number, with its core. -/
def crossingBlk (s : State) (id : Nat) : Option (Nat × Blk) :=
  s.cores.findSome? (fun q => (q.2.blocks.find? (fun b => b.bid = id && b.entered.isNone)).map (fun b => (q.1, b)))

/-- COMMONS_QUEUE_ENTRY (R96, R289): a request enters its position's queue, a vector unit behind the lower ones and once there is
room (R343); a unit of a copy enters its lane's, once there is room; a block enters its engine once the accesses ordered before it are performed. -/
def execCommonsQueueEntry (id : Nat) (s : State) : Host.Outcome State Fault Refusal :=
  let ev := Instr.commonsQueueEntry id
  match s.findAccess id with
  | none =>
    (match crossingBlk s id, unitOnItsWay s id with
     | some (core, b), _ =>
       .next (whenFabric s (dieOf (core / 4)) ev (if blkBlocked s b then s.pushE ev else enterBlk s core b))
     | none, some u =>
       let d := dieOf u.spot.cell
       let lane := portLane u.spot.cell
       .next (whenFabric s d ev
         (if !u.spot.commons then s
          else if unitBehind s u || decide (Config.commonsQueue ≤ (laneUnits s d lane).length) then s.pushE ev
          else pushPairing (enterUnit s u) d lane (unitBank s u).1 (unitBank s u).2))
     | none, none => .next s)
  | some a =>
    match a.stage with
    | .crossing d pos =>
      let full := decide (Config.commonsQueue ≤ (s.flight.filter (fun b => decide (b.stage = Stage.commons d pos))).length)
      .next (whenFabric s d ev
        (if full || lowerCrosses s a then s.pushE ev
         else
           let pl := placeOf s a.cell (commonsOff a)
           pushPairing (s.arrive { a with stage := .commons d pos }) d pos pl.1 pl.2.1))
    | _ => .next s

/-- A unit of the commons of a die is served (R194). -/
def countServed (s : State) (d : Nat) : State :=
  count { s with served := FMap.put s.served d (FMap.get 0 s.served d + 1) } (diePerf d) 2 1

/-- Serves a plain request at its bank (R96, R97). -/
def serveCommons (s : State) (a : Access) : State :=
  let d := dieOf a.cell
  let o := commonsOff a
  let pl := placeOf s a.cell o
  let s := countServed s d
  if isHole s d pl.1 pl.2.1 then reply s a .machine
  else
    match a.op with
    | .load n _ =>
      if commonsErr s d pl (o % 64) n then reply s a .machine
      else reply (acquired s a) a (.value (commonsRead s d pl (o % 64) n))
    | .store n v => reply (commonsWrite s d pl (o % 64) n v) a .done
    | _ => s

/-- A word read of a block goes on to its local unit, behind what reaches the copy port before it (R289, R373). -/
def sendLocal (s : State) (core : Nat) (b : Blk) (i v : Nat) : State :=
  ((modBlk s core b.bid (fun b => { b with landing := b.landing + 1 })).launch
    { blkAccess core b i (.store 64 v) with stage := .lattice (core / 4) }).pushE (.remoteAccessArrival s.nextId)

/-- Local units of a block that have not yet been read are read now (R289) (DESIGN CHOICE, notes/assumptions/32.md). -/
def readNow (s : State) (core bid : Nat) (p : Nat → Bool) : State :=
  (s.flight.filter (fun a => match a.src with | .blk k b i => k = core && b = bid && p i && a.op.isLoad | _ => false)).foldl (fun s a =>
    match a.src with
    | .blk _ _ i => blkLocal s a core bid i
    | _ => s) s

/-- Serves unit i of a block at its bank; a turn-atomic one delivers its snapshot, or is staged (R98, R289, R290). -/
def serveUnit (s : State) (core : Nat) (b : Blk) (i : Nat) : State :=
  let d := dieOf (core / 4)
  let pl := blkPlace s core b i
  let s := if b.wr then readNow s core b.bid (fun j => j = i) else s
  let b := (s.blkOf core b.bid).getD b
  let s := modBlk (countServed s d) core b.bid (fun b => { b with todo := b.todo.filter (· ≠ i) })
  let s :=
    if b.atomic then
      if b.wr then (if isHole s d pl.1 pl.2.1 then modBlk s core b.bid (failUnit 4 i) else s)
      else (match FMap.find? b.snap i with | some v => sendLocal s core b i v | none => s)
    else if isHole s d pl.1 pl.2.1 then modBlk s core b.bid (failUnit 4 i)
    else if b.wr then (match FMap.find? b.snap i with | some v => commonsWrite s d pl 0 64 v | none => s)
    else if commonsErr s d pl 0 64 then modBlk s core b.bid (failUnit 5 i)
    else sendLocal s core b i (commonsRead s d pl 0 64)
  blkCheck s core b.bid

/-- The lowest unit of a block that waits for a bank. -/
def unitAt (s : State) (core : Nat) (b : Blk) (group bank : Nat) : Option Nat :=
  let here := b.todo.filter (fun i => (blkPlace s core b i).1 = group && (blkPlace s core b i).2.1 = bank)
  match here with
  | [] => none
  | i :: is => some (is.foldl min i)

/-- The blocks that a position serves: a core position's, a port lane has none (R9, R96). -/
def blocksAt (s : State) (d pos : Nat) : List Blk :=
  if pos < 960 then ((s.core (960 * d + pos)).blocks).filter (fun b => b.entered.isSome) else []

/-- Whether a read of the commons finds room in its cell's port FIFO, which nothing drains while the cell's clock is stopped: at a
pairing without room the read waits for its next one (R199). -/
def fifoRoom (s : State) (cell : Nat) : Bool :=
  (clockStop (s.cell cell)).isNone || decide (fifoBytes s cell + 64 ≤ Config.portFifo)

/-- Units of blocks of a position that may be served at a bank: block and unit. -/
def blkChoices (s : State) (d pos group bank : Nat) : List (Blk × Nat) :=
  ((blocksAt s d pos).filter (fun b => (!b.atomic || b.reservedAt.isSome) && (b.wr || fifoRoom s (240 * d + pos / 4)))).filterMap (fun b =>
    (unitAt s (960 * d + pos) b group bank).map (fun i => (b, i)))

/-- The unit whose block entered first. -/
def firstUnit : List (Blk × Nat) → Option (Blk × Nat)
  | [] => none
  | q :: qs => some (qs.foldl (fun x y => if y.1.entered.getD 0 < x.1.entered.getD 0 then y else x) q)

/-- What a position serves. -/
inductive Service where
  | plain (a : Access)
  | unit (b : Blk) (i : Nat)
  | lane (u : PortUnit)
  | nothing
  deriving DecidableEq, Repr

/-- What a port lane serves: the oldest of its queued units for the bank (R96). -/
def chooseLane (s : State) (d pos group bank : Nat) : Service :=
  match firstEntered ((laneUnits s d pos).filter (fun u => decide (unitBank s u = (group, bank)))) with
  | some u => .lane u
  | none => .nothing

/-- The choice of a core position (R289): a reserved turn-atomic unit, else the oldest of the plain and block units. -/
def chooseService (s : State) (d pos group bank : Nat) : Service :=
  if 960 ≤ pos then chooseLane s d pos group bank
  else
  let plain := firstIn (s.flight.filter (fun a => decide (a.stage = Stage.commons d pos) && !mustWait s a &&
    (!a.op.isLoad || fifoRoom s a.cell) && (placeOf s a.cell (commonsOff a)).1 = group && (placeOf s a.cell (commonsOff a)).2.1 = bank))
  let units := blkChoices s d pos group bank
  match units.find? (fun q => q.1.atomic) with
  | some q => .unit q.1 q.2
  | none =>
    match plain, firstUnit units with
    | none, none => .nothing
    | some a, none => .plain a
    | none, some q => .unit q.1 q.2
    | some a, some q => if a.entered ≤ q.1.entered.getD 0 then .plain a else .unit q.1 q.2

/-- Something that still waits at a position: its group and bank. -/
def pendingAt (s : State) (d pos : Nat) : Option (Nat × Nat) :=
  match s.flight.find? (fun a => decide (a.stage = Stage.commons d pos)) with
  | some a => some ((placeOf s a.cell (commonsOff a)).1, (placeOf s a.cell (commonsOff a)).2.1)
  | none =>
    match laneUnits s d pos with
    | u :: _ => some (unitBank s u)
    | [] =>
      ((blocksAt s d pos).find? (fun b => !b.todo.isEmpty)).map (fun b =>
        let pl := blkPlace s (960 * d + pos) b (b.todo.headD 0)
        (pl.1, pl.2.1))

/-- A position that has something waiting meets a bank again. -/
def pairAgain (s : State) (d pos : Nat) : State :=
  match pendingAt s d pos with
  | some q => pushPairing s d pos q.1 q.2
  | none => s

/-! ## Retirement of a bank (R167) -/

/-- The bank of a die that is being copied. -/
def copyingBank (s : State) (d : Nat) : Option (Nat × Nat) :=
  (List.find? (fun (q : Nat × Word) => decide (remapOff d 0 0 ≤ q.1) && decide (q.1 < remapOff d 16 0) && bits q.2 8 7 = 1) s.regs).map
    (fun (q : Nat × Word) => ((q.1 - remapOff d 0 0) / 0x200, (q.1 - remapOff d 0 0) % 0x200 / 8))

/-- Rows copied. -/
def rowsCopied (s : State) (d : Nat) : Nat := bits (s.reg (brstatOff d)) 14 3

/-- Copies the next row of a bank to the spare, with its check bits. -/
def copyRow (s : State) (d group bank : Nat) : State :=
  let row := rowsCopied s d
  match freeSpare s d group with
  | none => s
  | some x =>
    if 2048 ≤ row then s
    else
      let src := commonsAddr group (bits (s.reg (remapOff d group bank)) 6 0) row 0
      let dst := commonsAddr group x row 0
      let m := s.commonsOf d
      let moved := s.errs.filterMap (fun e => match e with
        | .commons k w => if k = d && decide (src / 8 ≤ w) && decide (w < src / 8 + 8) then some (ErrSite.commons k (w - src / 8 + dst / 8)) else none
        | _ => none)
      let kept := s.errs.filter (fun e => match e with
        | .commons k w => !(k = d && decide (dst / 8 ≤ w) && decide (w < dst / 8 + 8))
        | _ => true)
      let s := { s with
        commons := FMap.put s.commons d (Memory.writeN m dst 64 (Memory.readN m src 64))
        errs := kept ++ moved }
      s.setReg (brstatOff d) (setBits (s.reg (brstatOff d)) 14 3 (row + 1))

/-- Whether a pairing of a bank is already due. -/
def bankPairingDue (s : State) (d group bank : Nat) : Bool :=
  s.work.any (fun t => match t with
    | .event (.commonsPairing k pos u) => k = d && pairedBank s d pos u = (group, bank)
    | _ => false)

/-- While a bank is being copied, one of its pairings stays due; after its last row a turn boundary is. -/
def keepCopying (s : State) (d : Nat) : State :=
  match copyingBank s d with
  | none => s
  | some q =>
    if 2048 ≤ rowsCopied s d then s.pushE (.turnBoundary d (nextBoundary s d))
    else if bankPairingDue s d q.1 q.2 then s
    else pushBankPairing s d q.1 q.2

/-- COMMONS_PAIRING (R95, R96, R289): position `pos` meets its bank at fabric cycle t; an idle pairing of a bank that is being
copied copies a row (R167), and a read for which the cell's port FIFO has no room waits (R199). -/
def execCommonsPairing (die pos t : Nat) (s : State) : Host.Outcome State Fault Refusal :=
  if (s.fabricOf die).step.isSome then .next (s.pushE (.commonsPairing die pos t))
  else
  let gb := pairedBank s die pos t
  let copying := decide (copyingBank s die = some gb)
  match chooseService s die pos gb.1 gb.2 with
  | .plain a => .next (if copying then keepCopying (serveCommons s a) die else serveCommons s a)
  | .unit b i =>
    let s := pairAgain (serveUnit s (960 * die + pos) b i) die pos
    .next (if copying then keepCopying s die else s)
  | .lane u =>
    let s := pairAgain (servePort (countServed s die) u) die pos
    .next (if copying then keepCopying s die else s)
  | .nothing =>
    let s := if copying then keepCopying (copyRow s die gb.1 gb.2) die else s
    .next (pairAgain s die pos)

/-! ## Turn boundaries (R98, R139, R165, R167, R168) -/

/-- Cores of a die that have turn-atomic blocks, in ascending global core position. -/
def atomicCores (s : State) (d : Nat) : List Nat :=
  (s.cores.filter (fun q => dieOf (q.1 / 4) = d && q.2.blocks.any (·.atomic))).map (·.1)

/-- Units that have not been served in the block's turn are served at its end. -/
def serveLeft (s : State) (core bid : Nat) : State :=
  match s.blkOf core bid with
  | none => s
  | some b => b.todo.foldl (fun s i => match s.blkOf core bid with | some b => serveUnit s core b i | none => s) s

/-- Commits a turn-atomic write unless it names a hole or a word written earlier in the turn; the words written so far go
along (R98, R168). -/
def commitBlk (s : State) (core bid : Nat) (written : List (Nat × Nat × Nat)) : State × List (Nat × Nat × Nat) :=
  match s.blkOf core bid with
  | none => (s, written)
  | some b =>
    let d := dieOf (core / 4)
    let ws := b.snap.map (fun q => (blkPlace s core b q.1, q.2))
    if b.code = 4 then (finishBlk s core b, written)
    else if ws.any (fun q => written.contains q.1) then (finishBlk s core { b with code := 2, unit := 0 }, written)
    else
      let s := ws.foldl (fun s q => commonsWrite s d q.1 0 64 q.2) s
      (finishBlk s core b, written ++ ws.map (·.1))

/-- Ends the turn of the blocks of a die that reserved before a boundary: by core as R98 says, those of one core in the order of their
issue (DESIGN CHOICE, notes/assumptions/107.md). -/
def endTurn (s : State) (d fc : Nat) : State :=
  let due (s : State) (core : Nat) : List Blk :=
    (s.core core).blocks.filter (fun b => b.atomic && (match b.reservedAt with | some r => decide (r < fc) | none => false))
  let r := (atomicCores s d).foldl (fun (acc : State × List (Nat × Nat × Nat)) core =>
    (due acc.1 core).foldl (fun (acc : State × List (Nat × Nat × Nat)) b =>
      let s := serveLeft (if b.wr then readNow acc.1 core b.bid (fun _ => true) else acc.1) core b.bid
      if b.wr then commitBlk s core b.bid acc.2 else (s, acc.2)) acc) (s, [])
  r.1

/-- Whether a swap that was asked for has arrived by a fabric cycle (R165). -/
def swapArrived (s : State) (d fc : Nat) : Bool :=
  (s.reg (dieBase d + 0x2000)).getLsbD 2 && (match FMap.find? s.swapAt d with | some t => decide (t ≤ fc) | none => true)

/-- The armed set takes effect at a boundary at or after the swap's arrival (R165). -/
def swapWheel (s : State) (d fc : Nat) : State :=
  let off := dieBase d + 0x2000
  let w := s.reg off
  if swapArrived s d fc then
    { (s.setReg off (setBit (setBit (setBit w 0 (!w.getLsbD 0)) 1 false) 2 false)).setReg (off + 8) (wrap64 fc) with
      swapAt := FMap.del s.swapAt d }
  else s

/-- A bank that has been copied whole takes its spare; a bank without a spare becomes a hole (R167, R168). -/
def flipBanks (s : State) (d : Nat) : State :=
  let s := match copyingBank s d with
    | some q =>
      if 2048 ≤ rowsCopied s d then
        match freeSpare s d q.1 with
        | some x =>
          (s.setReg (remapOff d q.1 q.2) (wrap64 x)).setReg (brstatOff d) (setBit (s.reg (brstatOff d)) 0 false)
        | none => s
      else s
    | none => s
  let mine := s.holes.filter (fun h => h.1 = d)
  mine.foldl (fun s h => setRemapState s d h.2.1 h.2.2 2) { s with holes := s.holes.filter (fun h => h.1 ≠ d) }

/-- Staging entries in use in a bank (R98). -/
def stagedIn (s : State) (d group bank : Nat) : Nat :=
  ((atomicCores s d).map (fun core =>
    ((s.core core).blocks.filter (fun b => b.atomic && b.wr && b.reservedAt.isSome &&
      (List.range b.count).any (fun i => (blkPlace s core b i).1 = group && (blkPlace s core b i).2.1 = bank))).length)).foldl (· + ·) 0

/-- The words of a turn-atomic read as they stand at a boundary, and its failing units. -/
def snapshot (s : State) (core : Nat) (b : Blk) : Blk :=
  let d := dieOf (core / 4)
  (List.range b.count).foldl (fun b i =>
    let pl := blkPlace s core b i
    if isHole s d pl.1 pl.2.1 then failUnit 4 i b
    else if commonsErr s d pl 0 64 then failUnit 5 i b
    else { b with snap := FMap.put b.snap i (commonsRead s d pl 0 64) }) b

/-- Reserves for a block at a boundary if it may begin and every bank that it writes has room (R98, R291). -/
def reserve (s : State) (core fc : Nat) (b : Blk) : State :=
  let d := dieOf (core / 4)
  let room := !b.wr || (List.range b.count).all (fun i =>
    let pl := blkPlace s core b i
    decide (stagedIn s d pl.1 pl.2.1 < Config.stagingPerBank))
  if b.entered.isNone || !room then s
  else
    let x := if b.wr then b else snapshot s core b
    pairAgain (modBlk s core b.bid (fun _ => { x with reservedAt := some fc })) d (wheelPos core)

/-- Reservations of a boundary, in ascending global core position, those of one core in the order of their issue (DESIGN CHOICE,
notes/assumptions/107.md). -/
def reserveAll (s : State) (d fc : Nat) : State :=
  (atomicCores s d).foldl (fun s core =>
    ((s.core core).blocks.filter (fun b => b.atomic && b.reservedAt.isNone)).foldl (fun s b => reserve s core fc b) s) s

/-- Whether a die needs its next turn boundary. -/
def boundaryNeeded (s : State) (d : Nat) : Bool := !(atomicCores s d).isEmpty || (FMap.find? s.swapAt d).isSome

/-- TURN_BOUNDARY (R98, R165, R167, R168): blocks end their turn, before the swap and the flips; then blocks reserve. -/
def execTurnBoundary (die fcyc : Nat) (s : State) : Host.Outcome State Fault Refusal :=
  if s.fcyc die < fcyc then .next (s.pushE (.turnBoundary die fcyc))
  else if !isBoundary s die fcyc then .next (s.pushE (.turnBoundary die (nextBoundary s die)))
  else
    let s := reserveAll (flipBanks (swapWheel (endTurn s die fcyc) die fcyc) die) die fcyc
    .next (if boundaryNeeded s die then s.pushE (.turnBoundary die (nextBoundary s die)) else s)

end Sys2Proof.Machine
end

