-- ==== Sys2Proof/Machine/Slices.lean ====
section
/-! DEFINITION. Translations, slices, forwards, fault records and the host's accesses (spec/04_memories.md R99-R109,
spec/05_ordering.md R127-R133, spec/14_ref_memory.md R272-R287). -/

namespace Sys2Proof.Machine

/-! ## Translation at the L2 boundary (R100, R108, R272, R274) -/

/-- Whether an access spans two pages. -/
def spansPages (a : Access) : Bool := decide (65536 < a.va.toNat % 65536 + a.op.size)

/-- The agent that a forked program of a core is: it reaches memory as its slot does (R304, R305)
(DEDUCED, notes/assumptions/62.md). -/
def progAgent (s : State) (core kind : Nat) (fetch : Bool) (again : Instr) : Agent :=
  { part := s.partN (core / 4), die := dieOf (core / 4), asid := s.casid (core / 4), kind := kind, source := globalPos core
    again := .event again, fetch := fetch }

/-- A forked vector program meets a demand fault in a memory instruction: it parks, or ends where the fault was denied
(R305, R306, R344). -/
def parkForked (s : State) (core kind : Nat) (va : Word) : State :=
  let g := progAgent s core kind false (.forkedVectorIssue (core / 4) (core % 4))
  match agentXlate s g va (kind = 0) (kind = 1) with
  | (.denied, s) => endVector s core 5 cPage
  | (.demand, s) => rewindVector s core
  | (.ok _ _ _, s) => (rewindVector s core).push [g.again]

/-- Parks an access on a demand fault at an address: its slot is as before its issue and will issue again (R33, R108, R344). -/
def parkOnWalk (s : State) (a : Access) (va : Word) : State :=
  let p := s.partN a.cell
  let asid := s.casid a.cell
  let hold (s : State) (sid : Nat) (x : Slot) (pc : Word) : State :=
    let s := demandFault s p asid a.op.kind.detail (globalPos a.core) va
    let held : Access := { a with
      src := .slot sid x.gen pc none true [] false, stage := .faulted, pa := va.toNat, key := asid }
    { s.setSlot sid { x with park := some .fault } with flight := s.flight ++ [held] }
  match a.src with
  | .slot sid0 gen pc dst oldF cons counts =>
    (match resolveSlot s sid0 gen with
     | none => s.dropAccess a.id
     | some sid =>
       let x := undoIssue (s.slot sid) pc dst oldF cons counts
       if x.goesOn then hold (s.dropAccess a.id) sid x pc else (s.dropAccess a.id).setSlot sid x)
  | .vec core vid _ _ =>
    (match s.vrunOf core vid with
     | none => s.dropAccess a.id
     | some r =>
       if r.forked then parkForked (undoForked s core r) core a.op.kind.detail va
       else
         let x := undoRun (s.slot r.sid) r
         if x.goesOn then hold (dropRun s core vid) r.sid x r.pc else (dropRun s core vid).setSlot r.sid x)
  | .blk _ _ _ => s

/-- The verdict of a plain store has fallen: its slot no longer waits for it; a vector store waits for every unit (R274, R344). -/
def storeVerdict (s : State) (a : Access) : State :=
  if !a.op.isStore then s
  else
    match a.src with
    | .slot sid _ _ _ _ _ _ => s.modSlot sid (fun x => { x with await := if x.await = some a.id then none else x.await })
    | .vec core vid _ _ =>
      if vecVerdictOpen s core vid then s else vecVerdict s core vid
    | .blk _ _ _ => s

/-- What an access needs of a leaf's ATTR (R271, R272): the answer that refuses it, if any. -/
def attrRefusal (a : Access) (attr : Nat) : Option Reply :=
  if attr = 2 && !alignedTo a.va a.op.align then some .misalign
  else
    match a.op with
    | .load _ _ => if attr = 2 && (match a.src with | .vec _ _ _ _ => true | _ => false) then some .access else none
    | .store _ _ => if attr = 2 && (match a.src with | .vec _ _ _ _ => true | _ => false) then some .access else none
    | .lineRd => if attr ≠ 0 then some .access else none
    | .lineCst _ _ _ => if attr ≠ 0 then some .access else none
    | _ => if attr = 2 then some .access else none

/-- The stage at which an access goes on once it is translated: plain accesses at the die's own slices, the others at the
line's home (R100, R132). -/
def sliceOf (s : State) (a : Access) (pa : Nat) : Nat :=
  match a.op with
  | .load _ _ => dieOf a.cell
  | .store _ _ => dieOf a.cell
  | _ => homeDie s pa

/-- The step of a slice that serves an access. -/
def sliceEvent (a : Access) : Instr :=
  match a.op with
  | .load _ _ => .sliceReadMiss a.id
  | .store _ _ => .sliceWriteSerialise a.id
  | _ => .sliceAtomic a.id

/-- Sends a translated access to its slice. -/
def toSlice (s : State) (a : Access) (pa key attr : Nat) (second : Option (Nat × Nat)) : State :=
  match attrRefusal a attr with
  | some r => reply s a r
  | none =>
    let down := !s.linkUp && (isSystem pa || (match second with | some q => isSystem q.1 | none => false))
    match (if down && a.op.needsWr then some Reply.machine else a.poison.map Reply.register) with
    | some r => reply s a r
    | none =>
      let wr := match translate s (s.partN a.cell) (dieOf a.cell) (s.casid a.cell) a.va.toNat false true false with
        | (.ok _ _ _, _) => 4
        | _ => 0
      let b := { a with
        pa := pa, key := key, attr := attr + wr, stage := .slice (sliceOf s a pa)
        pa2 := (match second with | some q => q.1 | none => 0), key2 := (match second with | some q => q.2 | none => 0) }
      (storeVerdict (s.arrive b) b).pushE (sliceEvent b)

/-- ATTR of the page of an address of an access, whatever its rights. -/
def pageAttr (s : State) (a : Access) (va : Word) : Option Nat :=
  match translate s (s.partN a.cell) (dieOf a.cell) (s.casid a.cell) va.toNat false false false with
  | (.ok _ _ attr, _) => some attr
  | _ => none

/-- Whether a `line.cst` names lines of two slices: its result is 8, whatever lies past the first page (R287). -/
def cstSplit (a : Access) : Bool :=
  match a.op with
  | .lineCst n _ _ => decide (4 < bits a.va 8 7 + n)
  | _ => false

/-- TRANSLATION_WALK (R100, R108): the pages of an access are judged from its lowest byte upwards. -/
def execTranslationWalk (id : Nat) (s : State) : Host.Outcome State Fault Refusal :=
  match s.findAccess id with
  | none => .next s
  | some a =>
    match a.stage with
    | .walk d =>
      if answerWaits s a || lowerUnjudged s a then .next (s.pushE (.translationWalk id))
      else if pageAttr s a a.va = some 2 && !alignedTo a.va a.op.align then .next (reply s a .misalign)
      else
        let xl (s : State) (va : Word) : Xlate × State :=
          translate s (s.partN a.cell) d (s.casid a.cell) va.toNat a.op.needsRd a.op.needsWr false
        match xl s a.va with
        | (.denied, s) => .next (reply s a (.page a.op.kind.detail a.va))
        | (.demand, s) => .next (parkOnWalk s a a.va)
        | (.ok pa key attr, s) =>
          if !spansPages a || cstSplit a then .next (toSlice s a pa key attr none)
          else
            let v2 := nextPage a.va
            if pageAttr s a v2 = some 2 then .next (reply s a .misalign)
            else if !canonical v2 || v2.getLsbD 56 then .next (reply s a (.page a.op.kind.detail v2))
            else
              match xl s v2 with
              | (.denied, s) => .next (reply s a (.page a.op.kind.detail v2))
              | (.demand, s) => .next (parkOnWalk s a v2)
              | (.ok pa2 key2 _, s) => .next (toSlice s a pa key attr (some (pa2, key2)))
    | _ => .next s

/-! ## Slices (R101-R103) -/

/-- ATTR of the page of an access. -/
def attrOf (a : Access) : Nat := a.attr % 4

/-- A load or a slice operation misses: that is counted once, and its later hit is not (R194). -/
def countMiss (s : State) (d : Nat) (a : Access) : State :=
  if a.attr.testBit 3 then s else count s (diePerf d) 5 1
def countHit (s : State) (d : Nat) (a : Access) : State :=
  if a.attr.testBit 3 then s else count s (diePerf d) 4 1
/-- The access as it waits at a miss register. -/
def Access.missedAt (a : Access) (d : Nat) : Access := { a with stage := .missed d, attr := a.attr ||| 8 }

/-- Lines that an access touches, with a key for each. -/
def touched (a : Access) : List (Nat × Nat) :=
  ((pieces a).map (fun q => (List.range (lineOf (q.2.1 + q.2.2.1 - 1) - lineOf q.2.1 + 1)).map (fun i => (lineOf q.2.1 + i, q.2.2.2)))).flatten

/-- The value of a load's bytes at a die; at package or system scope an acquire reads at home (R131). -/
def readPieces (s : State) (a : Access) : Nat × State :=
  let d := dieOf a.cell
  let fresh := a.acq && decide (4 ≤ a.scope)
  let r := (pieces a).foldl (fun (acc : Nat × Nat × State) q =>
    let v := sliceReadAny acc.2.2 d q.2.1 q.2.2.1 q.2.2.2 (attrOf a) fresh
    (acc.1 + 2 ^ (8 * acc.2.1) * v.1, acc.2.1 + q.2.2.1, v.2)) (0, 0, s)
  (r.1, r.2.2)

/-- Fills the lines of a cached load into the core's L1 (R99). -/
def fillLoad (s : State) (a : Access) : State :=
  if attrOf a ≠ 0 then s
  else
    (pieces a).foldl (fun s q =>
      (List.range (lineOf (q.2.1 + q.2.2.1 - 1) - lineOf q.2.1 + 1)).foldl (fun s i =>
        fillL1 s a.core (s.casid a.cell) (wrap64 ((q.1.toNat / 128 + i) * 128)) ((lineOf q.2.1 + i) * 128) q.2.2.2 (a.attr.testBit 2)) s) s

/-- Reads at the slice, or past it where `keep` is false, and answers. -/
def serveRead (s : State) (a : Access) (keep : Bool) : State :=
  if (pieces a).any (fun q => physErr s q.2.1 q.2.2.1) then reply s a .machine
  else
    let r := readPieces s a
    let s := acquired r.2 a
    reply (if keep then fillLoad s a else s) a (.value r.1)

/-- The first line of an access that is not at its slice. -/
def missing (s : State) (a : Access) (d : Nat) : Option (Nat × Nat) := (touched a).find? (fun q => !present s d q.1 q.2)

/-- SLICE_READ_MISS (R102): a load at its slice. A line that is there is read; an open miss register is joined, a free one
allocated, and with none free the read goes past the slice, behind the writes in the address filter. -/
def execSliceReadMiss (id : Nat) (s : State) : Host.Outcome State Fault Refusal :=
  match s.findAccess id with
  | none => .next s
  | some a =>
    match a.stage, a.op with
    | .slice d, .load _ _ =>
      if mustWait s a then .next (s.pushE (.sliceReadMiss id))
      else if attrOf a ≠ 0 then .next (serveRead (count s (diePerf d) 6 1) a false)
      else
        match missing s a d with
        | none => .next (serveRead (countHit s d a) a true)
        | some (line, key) =>
          if mergeable s d line then .next ((countMiss s d a).setAccess (a.missedAt d))
          else if missFree s d line then
            .next (allocMiss ((countMiss s d a).setAccess (a.missedAt d)) d line key false)
          else if s.filter.contains (d, line) then .next (s.pushE (.sliceReadMiss id))
          else .next (serveRead (count s (diePerf d) 6 1) a false)
    | .priv, .load _ _ =>
      if mustWait s a then .next (s.pushE (.sliceReadMiss id))
      else .next (reply (acquired s a) a (.value (privRead s a.pa).toNat))
    | _, _ => .next s

/-- LINE_FILLED_FROM_MEMORY (R102, R103): the line is there, and the accesses that wait for it go on. -/
def execLineFilledFromMemory (die line : Nat) (s : State) : Host.Outcome State Fault Refusal :=
  match s.misses.find? (fun m => m.die = die && m.line = line) with
  | none => .next s
  | some m =>
    let s := { s with misses := s.misses.erase m }
    let waits := s.flight.filter (fun a => a.stage = .missed die && (touched a).any (fun q => q.1 = line))
    let s := if homeDie s (128 * line) = die then
        install s die line m.key
      else waits.foldl (fun s a =>
        match (touched a).find? (fun q => q.1 = line) with
        | some q => bringLine s die (128 * line) q.2
        | none => s) s
    .next (waits.foldl (fun s a => (s.setAccess { a with stage := .slice die }).pushE (sliceEvent a)) s)

/-- MEMORY_WRITE_ACKNOWLEDGED (R102): a write leaves the address filter. -/
def execMemoryWriteAcknowledged (die line : Nat) (s : State) : Host.Outcome State Fault Refusal :=
  .next { s with filter := s.filter.erase (die, line) }

/-- The writing core's own L1 after a write of n bytes: the line under the same virtual address takes it, a second virtual
copy goes (R99, R101) (DEDUCED, notes/assumptions/34.md). -/
def ownL1 (s : State) (core asid : Nat) (va : Word) (pa n v : Nat) : State :=
  let h := headBytes pa n
  let fix (va pa n v : Nat) (c : Core) : Core :=
    L1.update (L1.drop c (fun l => l.pa = lineOf pa && !(l.asid = asid && l.va = va / 128))) asid va n v
  s.modCore core (fun c =>
    let c := fix va.toNat pa h (v % 2 ^ (8 * h)) c
    if h = n then c else fix (va.toNat + h) (pa + h) (n - h) (v / 2 ^ (8 * h)) c)

/-- The writes of a plain store. -/
def writePieces (s : State) (a : Access) (v : Nat) : State :=
  let d := dieOf a.cell
  let r := (pieces a).foldl (fun (acc : State × Nat) q =>
    let w := acc.2 % 2 ^ (8 * q.2.2.1)
    let s := sliceWriteAny acc.1 d q.2.1 q.2.2.1 w q.2.2.2 (attrOf a) (some ((a.slotOf acc.1).getD (16 * a.core)))
    (ownL1 s a.core (s.casid a.cell) q.1 q.2.1 q.2.2.1 w, acc.2 / 2 ^ (8 * q.2.2.1))) (s, v)
  r.1

/-- SLICE_WRITE_SERIALISE (R101, R127, R131): a plain store at the slice of its die. A store to host memory has no effect while the
link is down (R216). -/
def execSliceWriteSerialise (id : Nat) (s : State) : Host.Outcome State Fault Refusal :=
  match s.findAccess id with
  | none => .next s
  | some a =>
    match a.stage, a.op with
    | .slice _, .store _ v =>
      if mustWait s a then .next (s.pushE (.sliceWriteSerialise id))
      else if (pieces a).any (fun q => isSystem q.2.1) && !s.linkUp then .next (reply s a .machine)
      else .next (reply (writePieces s a v) a .done)
    | .priv, .store _ v =>
      if mustWait s a then .next (s.pushE (.sliceWriteSerialise id))
      else .next (reply (privWrite s (.part (s.partN a.cell)) a.pa (wrap64 v)) a .done)
    | _, _ => .next s

/-! ## Operations of a slice (R103, R132) -/

/-- The issuing die's replica of a line and its L1 copies go (R132). -/
def dropOwn (s : State) (d line : Nat) : State := dropL1 (dropReplica s d line) d line none

/-- The lines of a `line.cst`, with their expected stamps and data. -/
def cstLines (a : Access) (n : Nat) (data stamps : VReg) : List (Nat × Word × Nat) :=
  (List.range n).map (fun i => (lineOf a.pa + i, stamps.extractLsb' (64 * i) 64, lane 1024 data.toNat i))

/-- `line.cst` at its slice (R287): its result code. Whatever that is, the issuing die's copies of the lines go first (R132). -/
def performCst (s : State) (a : Access) (n : Nat) (data stamps : VReg) : Nat × State :=
  let ls := cstLines a n data stamps
  let s := (ls.filter (fun q => q.1 / 512 = lineOf a.pa / 512)).foldl (fun s q => dropOwn s (dieOf a.cell) q.1) s
  if cstSplit a then (8, s)
  else
    let h := homeDie s a.pa
    match (ls.zipIdx).find? (fun (q : (Nat × Word × Nat) × Nat) => decide (lineStamp s h q.1.1 ≠ some q.1.2.1)) with
    | some q => (1 + q.2, s)
    | none => (0, ls.foldl (fun s q => homeWrite s (128 * q.1) 128 q.2.2 a.key none) s)

/-- An atomic, `cas`, `line.rd` or `line.cst` at the home slice, behind what its die has yet to forward of the line (R120,
R132). -/
def performHome (s : State) (a : Access) : Reply × State :=
  let d := dieOf a.cell
  let word (n : Nat) (new : Nat → Option Nat) : Reply × State :=
    if physErr s a.pa n then (.machine, s)
    else
      let r := physReadLine (flushLine s d (lineOf a.pa)) a.pa n a.key
      let s := match new r.1 with | some v => homeWrite r.2 a.pa n v a.key none | none => r.2
      (.value r.1, dropOwn s d (lineOf a.pa))
  match a.op with
  | .amo op n v => word n (fun old => some (amoNew op n old v))
  | .cas n e w => word n (fun old => if old = e then some w else none)
  | .lineRd =>
    if physErr s a.pa 128 then (.machine, s)
    else
      let r := physReadLine (flushLine s d (lineOf a.pa)) a.pa 128 a.key
      (.value (r.1 + 2 ^ 1024 * ((lineStamp r.2 (homeDie r.2 a.pa) (lineOf a.pa)).getD 0#64).toNat), dropOwn r.2 d (lineOf a.pa))
  | .lineCst n data stamps =>
    if isSystem a.pa && !s.linkUp then (.machine, s)
    else
      let r := performCst s a n data stamps
      (.value r.1, r.2)
  | _ => (.access, s)

/-- Whether an operation is performed at the home slice (R132). -/
def atHome (a : Access) : Bool :=
  match a.op with
  | .load _ _ => false
  | .store _ _ => false
  | _ => true

/-- Whether an operation that arrived earlier at the same slice has yet to be performed there (R102, R132); one that waits for
accesses ordered before it has not arrived. -/
def behindOlder (s : State) (a : Access) (d : Nat) : Bool :=
  s.flight.any (fun b => (b.stage = .slice d || b.stage = .missed d) && atHome b && decide (b.entered < a.entered) &&
    sliceNo d (lineOf b.pa) = sliceNo d (lineOf a.pa) && !mustWait s b)

/-- SLICE_ATOMIC (R103, R132): operations that need their lines in the slice wait for them, in order of arrival. -/
def execSliceAtomic (id : Nat) (s : State) : Host.Outcome State Fault Refusal :=
  match s.findAccess id with
  | none => .next s
  | some a =>
    match a.stage, a.op with
    | .slice _, .load _ _ => .next s
    | .slice _, .store _ _ => .next s
    | .slice d, _ =>
      if mustWait s a || behindOlder s a d then .next (s.pushE (.sliceAtomic id))
      else
        match (if attrOf a = 0 && !cstSplit a then missing s a d else none) with
        | some (line, key) =>
          if mergeable s d line then .next ((countMiss s d a).setAccess (a.missedAt d))
          else if missFree s d line then
            .next (allocMiss ((countMiss s d a).setAccess (a.missedAt d)) d line key false)
          else .next (s.pushE (.sliceAtomic id))
        | none =>
          let r := performHome (if attrOf a = 0 then countHit s d a else count s (diePerf d) 6 1) a
          .next (reply (acquired r.2 a) a r.1)
    | _, _ => .next s

/-! ## Forwards (R131) -/

/-- REMOTE_WRITE_FORWARD (R131): the oldest write of a die to a home is serialised there. -/
def execRemoteWriteForward (die home : Nat) (s : State) : Host.Outcome State Fault Refusal :=
  match s.forwards.find? (fun f => f.die = die && f.home = home) with
  | none => .next s
  | some f => .next (performForward { s with forwards := s.forwards.erase f } f)

/-! ## Fault records (R109) -/

/-- The four words of a fault record. -/
def faultImage (f : FaultRec) : Nat :=
  packLanes 64 [f.va.toNat, f.asid % 8192 + 8192 * (f.kind % 8) + 65536 * (f.source % 65536), f.at_.toNat, 0]

/-- FAULT_RECORD_WRITE (R109): the oldest record that waits is written once the queue is enabled and has room, and once the link is up if
the queue lies in host memory (R216; DESIGN CHOICE, notes/assumptions/102.md). -/
def execFaultRecordWrite (p : Nat) (s : State) : Host.Outcome State Fault Refusal :=
  match s.faults.find? (fun f => f.part = p && f.index.isNone) with
  | none => .next s
  | some f =>
    let t := fqTail s p
    let used := (t + 65536 - fqHead s p) % 65536
    let pa := fqBase s p + 32 * (t % fqSize s p)
    if !fqEnabled s p || decide (fqSize s p ≤ used) || (isSystem pa && !s.linkUp) then .next (s.pushE (.faultRecordWrite p))
    else
      let s := cachedWrite s pa 32 (faultImage f) (keyByPa s pa) none
      let s := s.setReg (fqOff p + 0x18) (wrap64 ((t + 1) % 65536))
      .next { s with faults := s.faults.map (fun g => if g = f then { g with index := some t } else g) }

/-! ## The host (R133) -/

/-- Writes n bytes at the home slices, line by line. -/
def hostWrite (s : State) (pa n v : Nat) : State :=
  (List.range (n / 128 + 2)).foldl (fun s i =>
    let lo := if i = 0 then pa else (pa / 128 + i) * 128
    let hi := min (pa + n) ((pa / 128 + i + 1) * 128)
    if lo < hi then cachedWrite s lo (hi - lo) (v / 2 ^ (8 * (lo - pa)) % 2 ^ (8 * (hi - lo))) (keyByPa s lo) none else s) s

/-- Reads n bytes at the home slices, line by line, under the keys of R390. -/
def hostRead (s : State) (pa n : Nat) : Nat × State :=
  (List.range (n / 128 + 2)).foldl (fun (acc : Nat × State) i =>
    let lo := if i = 0 then pa else (pa / 128 + i) * 128
    let hi := min (pa + n) ((pa / 128 + i + 1) * 128)
    if lo < hi then
      let r := physReadLine (countL2 acc.2 (homeDie acc.2 lo) (lineOf lo) (keyByPa acc.2 lo)) lo (hi - lo) (keyByPa acc.2 lo)
      (acc.1 + 2 ^ (8 * (lo - pa)) * r.1, r.2)
    else acc) (0, s)

/-- HOST_CXL_ACCESS (R133, R215, R216, R390): a host access to device memory is serialised at the home slices; what a read gives is
`hostValue`, with nothing in it where the memory is in error. While the link is down neither reaches the package. -/
def execHostCxlAccess (write : Bool) (pa n : Nat) (v : Word) (s : State) : Host.Outcome State Fault Refusal :=
  if !s.linkUp || !isBacked pa then .next s
  else if write then .next (hostWrite s pa (min n 8) v.toNat)
  else if physErr s pa (min n 8) then .next { s with hostValue := none }
  else
    let r := hostRead s pa (min n 8)
    .next { r.2 with hostValue := some (wrap64 r.1) }

end Sys2Proof.Machine
end

