-- ==== Sys2Proof/Machine/Directory.lean ====
section
/-! DEFINITION. The tile directory, pair entries, gear and phase marks, CSR access, traps by instruction, `wfi`
(spec/15_ref_threads_system.md R309-R316, spec/03_registers.md R71-R78). -/

namespace Sys2Proof.Machine

/-! ## Directory (R309, R310) -/

/-- Local offset of an own-cell aperture address, else the failed value check (R294, R309). -/
def ownOff (v : Word) : Except Halt Nat :=
  if bits v 63 48 = 0xFF00 && decide (bits v 47 0 < localSize) then .ok (bits v 47 0) else .error (badValue v)

/-- Waits until the slot's earlier accesses to a run of frames of its own cell are performed (R120). -/
def framesQuiet (s : State) (f n : Nat) : Except Halt Unit :=
  bytesQuiet s (0xFF00000000000000#64 + wrap64 (1024 * f)) (1024 * n)

/-- TDQ (R309). -/
def execTdq (d a : BitVec 6) (m : Bool) (s : State) : Host.Outcome State Fault Refusal :=
  finish s (do
    let x := s.slot s.cur
    let c := s.cell (cellOfSlot s.cur)
    boundS x [d.toNat, a.toNat]
    let r ← peek1 x a.toNat m
    let o ← ownOff r.1
    let e := Loc.entry c (Loc.mapFrame c (o / 1024))
    guardH (!e.err) (.trap cMachineCheck 0 r.1)
    soundS x [a.toNat]
    let y ← writeS r.2 d.toNat (Loc.entryWord e)
    return done s y)

/-- TDSET (R310) (DEDUCED, notes/assumptions/57.md). -/
def execTdset (a b : BitVec 6) (m n : Bool) (s : State) : Host.Outcome State Fault Refusal :=
  finish s (do
    let x := s.slot s.cur
    let cell := cellOfSlot s.cur
    let c := s.cell cell
    boundS x [a.toNat, b.toNat]
    let r ← peek2 x a.toNat m b.toNat n
    let code := bits r.2.1 4 0
    guardH ((elemOf code).isSome && code ≠ 0x1F) (illegal (.tdset a b m n) 2)
    let o ← ownOff r.1
    guardH (bits r.2.1 63 5 = 0) (badValue r.2.1)
    soundS x [a.toNat, b.toNat]
    framesQuiet s (o / 1024) 1
    let f := Loc.mapFrame c (o / 1024)
    guardH ((Loc.entry c f).err || !localErr s cell (o / 1024 * 1024) 1024) (.trap cMachineCheck 0 r.1)
    return done (s.modCell cell (fun c => Loc.setFmt c f code)) r.2.2)

/-- Zeroes a frame of a cell (R310). -/
def zeroAt (s : State) (cell f : Nat) : State :=
  let mf := Loc.mapFrame (s.cell cell) f
  let s := s.modCell cell (fun c => Loc.zeroFrame c mf)
  { s with errs := s.errs.filter (fun e => match e with
      | .loc k w => !(k = cell && decide (128 * mf ≤ w) && decide (w < 128 * mf + 128))
      | _ => true) }

/-- TDZERO (R310). -/
def execTdzero (a b : BitVec 6) (m n : Bool) (s : State) : Host.Outcome State Fault Refusal :=
  finish s (do
    let x := s.slot s.cur
    let cell := cellOfSlot s.cur
    boundS x [a.toNat, b.toNat]
    let r ← peek2 x a.toNat m b.toNat n
    guardH (alignedTo r.1 1024) (.trap cMisalign 7 r.1)
    let o ← ownOff r.1
    let k := bits r.2.1 11 0
    guardH (bits r.2.1 63 12 = 0 && decide (o / 1024 + k ≤ 2048)) (badValue r.2.1)
    soundS x [a.toNat, b.toNat]
    framesQuiet s (o / 1024) k
    return done ((List.range k).foldl (fun s i => zeroAt s cell (o / 1024 + i)) s) r.2.2)

/-! ## Parison pairs (R311, R312) -/

/-- Whether two pairs of runs meet. -/
def pairsMeet (f n : Nat) (e : PairEntry) : Bool := decide (f < e.first + 2 * e.n) && decide (e.first < f + 2 * n)

/-- The pair entry of a run, made with flip 0 where there is none. -/
def makePair (c : Cell) (f n : Nat) : Cell :=
  if c.pairs.any (fun e => e.first = f) then c else { c with pairs := c.pairs ++ [{ first := f, n := n, flip := false }] }

/-- The flip of a pair entry, made where there is none. -/
def flipPair (c : Cell) (f n : Nat) : Cell :=
  let c := makePair c f n
  { c with pairs := c.pairs.map (fun e => if e.first = f then { e with flip := !e.flip } else e) }

/-- Whether a publication of a run is refused (R312). -/
def pairRefused (c : Cell) (f n : Nat) : Bool :=
  match c.pairs.find? (fun e => e.first = f) with
  | some e => e.n ≠ n || (c.pairs.filter (fun e => e.first ≠ f)).any (pairsMeet f n)
  | none => c.pairs.any (pairsMeet f n) || decide (Config.pairEntries ≤ c.pairs.length)

/-- First frame and run length of a pair word. -/
def pubFirst (w : Word) : Nat := bits w 20 10
def pubRun (w : Word) : Nat := bits w 31 21 + 1

/-- The checks of `pub`: the pair word, and the slot with its sync-read done (R312). -/
def pubCheck (a : BitVec 6) (m : Bool) (s : State) : Except Halt (Word × Slot) := do
  let x := s.slot s.cur
  boundS x [a.toNat]
  let r ← peek1 x a.toNat m
  let w := r.1
  guardH (bits w 9 0 = 0 && bits w 62 32 = 0 && decide (pubFirst w + 2 * pubRun w ≤ 2048)) (badValue w)
  guardH (w.getLsbD 63 || !pairRefused (s.cell (cellOfSlot s.cur)) (pubFirst w) (pubRun w)) (badValue w)
  soundS x [a.toNat]
  return r

/-- PUB (R312): the entry is there before the slot's older accesses are waited for; then it flips. -/
def execPub (a : BitVec 6) (sc : BitVec 3) (m : Bool) (s : State) : Host.Outcome State Fault Refusal :=
  let cell := cellOfSlot s.cur
  match pubCheck a m s with
  | .error h => finish s (.error h)
  | .ok (w, x) =>
    if w.getLsbD 63 then
      finish s (.ok (done (s.modCell cell (fun c => { c with pairs := c.pairs.filter (fun e => e.first ≠ pubFirst w) })) x))
    else
      let s := s.modCell cell (fun c => makePair c (pubFirst w) (pubRun w))
      finish s (do
        (if sc = 0#3 then .ok () else afterOlder s sc.toNat)
        framesQuiet s (pubFirst w) (2 * pubRun w)
        return done (s.modCell cell (fun c => flipPair c (pubFirst w) (pubRun w))) x)

/-! ## Gear and phase marks (R313) -/

/-- GEAR (R196, R313). -/
def execGear (i : BitVec 13) (s : State) : Host.Outcome State Fault Refusal :=
  finish s (do
    guardH (decide (i.toNat ≤ 1)) (illegal (.gear i) 0)
    return (done s (setReq (s.slot s.cur) (i.toNat = 1))).pushE (.gearEvaluate (cellOfSlot s.cur)))

/-- OPHINT (R179, R180, R313). -/
def execOphint (i : BitVec 13) (s : State) : Host.Outcome State Fault Refusal :=
  finish s (do
    guardH (decide (i.toNat ≤ 255)) (illegal (.ophint i) 0)
    let s := if kernelOf (s.slot s.cur) = 0 then s else endPhase s s.cur
    let x := (s.slot s.cur).next
    return opLookup (s.setSlot s.cur { x with phase := BitVec.ofNat 8 i.toNat }) s.cur)

/-! ## CSRs (R71-R78, R314) -/

/-- SLOT (R71). -/
def slotWord (s : State) (sid : Nat) : Word :=
  let cell := cellOfSlot sid
  wrap64 (slotIx sid + 16 * (coreOf sid % 4) + 64 * s.lcellOf (s.partN cell) cell + 65536 * dieOf cell +
    2 ^ 18 * clusterOf cell + 2 ^ 22 * enabledIx cell)

/-- SREM (R75). -/
def sremWord (s : State) (core : Nat) : Word :=
  wrap64 (((List.range 16).map (fun i => if (s.slot (16 * core + i)).removedAt.isSome then 2 ^ i else 0)).foldl (· + ·) 0)

/-- Entries of MWT that name a core of its cell (R75). -/
def mwshWord (c : Cell) (k : Nat) : Word := wrap64 ((List.range 16).filter (fun i => bits c.mwt (2 * i + 1) (2 * i) = k)).length

/-- FWDn (R162). -/
def fwdWord (s : State) (core n : Nat) : Word :=
  match (s.core core).fwd[n]? with
  | none => 0#64
  | some f =>
    let left := f.expires - s.fcyc (dieOf (core / 4)) - 1
    wrap64 (f.oslot + 16 * f.ogen.toNat + 2 ^ 12 * s.lcellOf (s.partN (core / 4)) (cellOfSlot f.target) +
      2 ^ 22 * (coreOf f.target % 4) + 2 ^ 24 * slotIx f.target + 2 ^ 28 * f.tgen.toNat +
      2 ^ 36 * (left % 4096) + 2 ^ 48 * (fwdValid s core f).toNat)

/-- The value of a CSR by number; none where the number is not in the table of R72. -/
def csrValue (s : State) (sid n : Nat) : Option Word :=
  let x := s.slot sid
  let core := coreOf sid
  let c := s.cell (core / 4)
  if 0x120 ≤ n && n < 0x140 then some (fwdWord s core (n - 0x120))
  else if 0x200 ≤ n && n < 0x210 then some (FMap.get 0#64 c.q (n - 0x200))
  else if 0x210 ≤ n && n < 0x220 then some (FMap.get 0#64 c.qs (n - 0x210))
  else if 0x220 ≤ n && n < 0x228 then some (FMap.get 0#64 c.win (n - 0x220))
  else
    match n with
    | 0x00 => some x.tid
    | 0x01 => some (slotWord s sid)
    | 0x02 => some x.tix
    | 0x03 => some x.tiy
    | 0x04 => some x.tiz
    | 0x05 => some x.targ
    | 0x06 => some x.tfmt
    | 0x07 => some x.tsca
    | 0x08 => some x.tscb
    | 0x09 => some x.tkey
    | 0x10 => some x.vfmt
    | 0x11 => some x.rmode
    | 0x12 => some x.fflags
    | 0x13 => some x.greq
    | 0x14 => some x.cvmask
    | 0x15 => some x.colr
    | 0x16 => some x.parklim
    | 0x17 => some x.unack
    | 0x18 => some x.aown
    | 0x20 => some x.tvec
    | 0x21 => some x.tcause
    | 0x22 => some x.tepc
    | 0x23 => some x.tval
    | 0x100 => some (sremWord s core)
    | 0x101 => some (mwshWord c (core % 4))
    | 0x230 => some c.gear
    | 0x231 => some c.oppt
    | 0x232 => some (wrap64 (s.ccyc (core / 4)))
    | 0x233 => some c.tdctl
    | 0x234 => some c.mwt
    | _ => none

/-- Whether a slot may read, and may write, a CSR (R72, R73). -/
def csrReadable (s : State) (n : Nat) : Bool := !(decide (0x120 ≤ n) && decide (n < 0x140)) || s.levelY s.cur
def csrWritable (s : State) (n : Nat) : Bool :=
  !((decide (0x220 ≤ n) && decide (n < 0x228)) || n = 0x233 || n = 0x234) || isGaffer s.cur

/-- Whether a vector instruction of a slot has not completed (R50). -/
def vectorBusy (s : State) (sid : Nat) : Bool :=
  (s.core (coreOf sid)).vq.any (fun e => e.sid = sid) || (s.core (coreOf sid)).vrun.any (fun r => r.sid = sid) ||
    (s.slot sid).replay.isSome

/-- Whether a copy in flight names a ring (R77, R360): ARG of its attribute word; one whose control block has yet to be read may
name any. -/
def copyNames (r : CopyRun) (q : Nat) : Bool :=
  let w := r.cmd.word
  opc w = 0x10 && bits w.w0 13 11 = 4 && decide (r.phase ≠ .completed) &&
    (if r.phase = .plan then w.w0.getLsbD 15 || bits w.w3 35 32 = q else bits r.geom.attr 35 32 = q)

/-- Whether a matrix command or a copy in flight of a cell names a ring (R77). -/
def ringBusy (s : State) (cell q : Nat) : Bool :=
  let c := s.cell cell
  (List.range 4).any (fun k => (s.core (4 * cell + k)).mq.any (fun e => (Cmd.rings e.word).contains q)) ||
    (match c.mrun with | some r => (Cmd.rings r.cmd.word).contains q | none => false) ||
    c.copies.any (fun r => copyNames r q)

/-- Whether a queued or running command of a slot, or an accumulator transfer that is under way, names an accumulator (R74). -/
def accBusy (s : State) (sid n : Nat) : Bool :=
  (s.core (coreOf sid)).mq.any (fun e => e.sid = sid && namesAcc n e.word) ||
    (match (s.cell (cellOfSlot sid)).mrun with | some r => r.cmd.sid = sid && r.accNo = 8 * (coreOf sid % 4) + n | none => false) ||
    tileOf s (cellOfSlot sid) (fun c => c.sid = sid && namesAcc n c.word)

/-- The lowest set bit among the eight of a mask. -/
def lowestBit (w : Word) : Option Nat := (List.range 8).find? (fun i => w.getLsbD i)

/-- A write of AOWN: claims held elsewhere trap, claims still in use stall (R74). -/
def writeAown (s : State) (v : Word) : Except Halt Unit := do
  let old := (s.slot s.cur).aown
  let held := (List.range 16).foldl (fun (w : Word) i =>
    let t := 16 * coreOf s.cur + i
    if t = s.cur then w else w ||| (s.slot t).aown) 0#64
  (match lowestBit (v &&& ~~~old &&& held) with
   | some n => .error (.trap cAccess 2 (wrap64 n))
   | none => .ok ())
  guardH (!(List.range 8).any (fun n => (old &&& ~~~v).getLsbD n && accBusy s s.cur n)) .hold

/-- Waits and traps of a write of a CSR. -/
def csrGuard (s : State) (n : Nat) (v : Word) : Except Halt Unit :=
  if n = 0x18 then writeAown s v
  else if 0x200 ≤ n && n < 0x220 then guardH (!ringBusy s (cellOfSlot s.cur) (n % 16)) (.park .ring)
  else .ok ()

/-- A slot register of a CSR number with its writable bits replaced; a number without any is left (R3, R71). -/
def csrSlot (n : Nat) (v : Word) (x : Slot) : Slot :=
  let put (old : Word) (m : Nat) : Word := maskedWrite old v m 0
  match n with
  | 0x10 => { x with vfmt := put x.vfmt 0x3F }
  | 0x11 => { x with rmode := put x.rmode 7 }
  | 0x12 => { x with fflags := put x.fflags 0x1F }
  | 0x14 => { x with cvmask := put x.cvmask (fieldMask 63 1) }
  | 0x15 => { x with colr := put x.colr 0x3F }
  | 0x16 => { x with parklim := put x.parklim (fieldMask 31 0) }
  | 0x18 => { x with aown := put x.aown 0xFF }
  | 0x20 => { x with tvec := put x.tvec (fieldMask 63 2) }
  | 0x21 => { x with tcause := put x.tcause 0xFFFF }
  | 0x22 => { x with tepc := v }
  | 0x23 => { x with tval := v }
  | _ => x

/-- A cell register of a CSR number with its writable bits replaced. A ring register's write forgets the landings of the old
ring (R77). -/
def csrCell (n : Nat) (v : Word) (c : Cell) : Cell :=
  if 0x200 ≤ n && n < 0x210 then
    { c with q := FMap.put c.q (n - 0x200) (v &&& wrap64 (fieldMask 54 0)), rings := FMap.del c.rings (n - 0x200) }
  else if 0x210 ≤ n && n < 0x220 then { c with qs := FMap.put c.qs (n - 0x210) (v &&& wrap64 (fieldMask 20 5)) }
  else if 0x220 ≤ n && n < 0x228 then { c with win := FMap.put c.win (n - 0x220) (v &&& wrap64 (fieldMask 34 0)) }
  else if n = 0x233 then { c with tdctl := maskedWrite c.tdctl v 3 0 }
  else if n = 0x234 then { c with mwt := maskedWrite c.mwt v (fieldMask 31 0) 0 }
  else c

/-- A CSR instruction: `new` gives the value written from the old one and the register's, if the class writes (R314). -/
def csrRes (i : Instr) (n : Nat) (d : BitVec 6) (a : Option (BitVec 6)) (new : Word → Word → Word) (s : State) : Res := do
  let x := s.slot s.cur
  guardH (csrValue s s.cur n).isSome (illegal i 0)
  guardH (csrReadable s n && (a.isNone || csrWritable s n)) (.trap cPriv 0 (instrWord i))
  boundS x (match a with | some a => [d.toNat, a.toNat] | none => [d.toNat])
  let r ← (match a with | some a => peekS x a.toNat | none => .ok 0#64)
  guardH (!(n = 0x12 && vectorBusy s s.cur)) .hold
  let old := (csrValue s s.cur n).getD 0#64
  let v := new old r
  let y ← writeS x d.toNat old
  if a.isNone then return done s y
  else do
    csrGuard s n v
    soundS x (match a with | some a => [a.toNat] | none => [])
    let s := s.modCell (cellOfSlot s.cur) (csrCell n v)
    let s := if n = 0x234 then s.push [.matrix (cellOfSlot s.cur)] else s
    return done s (csrSlot n v y)

/-- CSRR (R314). -/
def execCsrr (d : BitVec 6) (c : BitVec 14) (s : State) : Host.Outcome State Fault Refusal :=
  finish s (csrRes (.csrr d c) c.toNat d none (fun old _ => old) s)
/-- CSRW (R314). -/
def execCsrw (d a : BitVec 6) (c : BitVec 12) (s : State) : Host.Outcome State Fault Refusal :=
  finish s (csrRes (.csrw d a c) c.toNat d (some a) (fun _ r => r) s)
/-- CSRS (R314). -/
def execCsrs (d a : BitVec 6) (c : BitVec 12) (s : State) : Host.Outcome State Fault Refusal :=
  finish s (csrRes (.csrs d a c) c.toNat d (some a) (fun old r => old ||| r) s)
/-- CSRC (R314). -/
def execCsrc (d a : BitVec 6) (c : BitVec 12) (s : State) : Host.Outcome State Fault Refusal :=
  finish s (csrRes (.csrc d a c) c.toNat d (some a) (fun old r => old &&& ~~~r) s)

/-! ## Traps and waiting (R315, R316) -/

/-- TRAP (R315). -/
def execTrap (i : BitVec 12) (s : State) : Host.Outcome State Fault Refusal :=
  finish s (.error (.trap cSoftware 0 (wrap64 i.toNat)))
/-- BRK (R315). -/
def execBrk (i : BitVec 12) (s : State) : Host.Outcome State Fault Refusal :=
  finish s (.error (.trap cBreak 0 (wrap64 i.toNat)))
/-- ERET (R315). -/
def execEret (s : State) : Host.Outcome State Fault Refusal :=
  finish s (do
    let x := s.slot s.cur
    guardH (bits x.tepc 1 0 = 0) (.trap cMisalign 2 x.tepc)
    return s.setSlot s.cur (eretSlot x))
/-- WFI (R316). -/
def execWfi (s : State) : Host.Outcome State Fault Refusal := finish s (.error (.park .wfi))

end Sys2Proof.Machine
end

