-- ==== Sys2Proof/Machine/System.lean ====
section
/-! DEFINITION. System control: shoot-down, wheel sets, partitions (spec/15_ref_threads_system.md R317-R319,
spec/07_tables.md R163-R165, R181-R184, spec/10_edges.md R219-R221, spec/04_memories.md R111-R113,
spec/23_prog_partition_merge.md R379-R382). -/

namespace Sys2Proof.Machine

/-- Only level Y may go on (R72, R294). -/
def levelYOnly (i : Instr) (s : State) : Except Halt Unit := guardH (s.levelY s.cur) (.trap cPriv 0 (instrWord i))

/-! ## Shoot-down (R111, R317) -/

/-- Whether a shoot-down names n bytes of an ASID. -/
def Shoot.hits (k : Shoot) (asid va n : Nat) : Bool :=
  decide (k.asidLo ≤ asid) && decide (asid ≤ k.asidHi) && decide (va < k.hi) && decide (k.lo < va + n)

/-- Takes the L1 lines that a shoot-down names out, on the dies of its partition. -/
def shootL1 (s : State) (k : Shoot) : State :=
  { s with cores := s.cores.map (fun q =>
      if s.holdsDie k.part (dieOf (q.1 / 4)) then (q.1, L1.drop q.2 (fun l => k.hits l.asid (128 * l.va) 128)) else q) }

/-- Removes the TLB entries and the L1 lines that a shoot-down names, on the dies of its partition. -/
def shoot (s : State) (k : Shoot) : State :=
  let gone (e : TlbEntry) : Bool := s.holdsDie k.part e.die &&
    (match e.asid with
     | some a => k.hits a e.va e.size
     | none => decide (e.va < k.hi) && decide (k.lo < e.va + e.size))
  shootL1 { s with tlb := s.tlb.filter (fun e => !gone e) } k

/-- Whether an access has been translated: what was not is at its die's translation unit, or parked. -/
def Access.walked (a : Access) : Bool :=
  match a.stage with
  | .walk _ => false
  | .faulted => false
  | .held => false
  | _ => true

/-- The accesses in the lower half that an entry which goes may have translated: of whatever ASID, since a global entry serves all
of them (R111). -/
def shootOpen (s : State) (k : Shoot) : List Nat :=
  (s.flight.filter (fun a => s.holdsDie k.part (dieOf a.cell) && a.walked && !a.va.getLsbD 56 &&
    decide (a.va.toNat < k.hi) && decide (k.lo < a.va.toNat + a.op.size))).map (·.id)

/-- Whether one of some accesses is not yet acknowledged. -/
def stillOpen (s : State) (ids : List Nat) : Bool := s.flight.any (fun a => ids.contains a.id)

/-- What a descriptor of `tlbsd` names; none where its value check fails (R317). -/
def shootOf (s : State) (p v : Nat) : Option Shoot :=
  let w := wrap64 (lane 64 v 0)
  let va := lane 64 v 1
  let len := lane 64 v 2
  let asid := bits w 12 0
  let all := w.getLsbD 13
  let inRange := decide (s.asidLo p ≤ asid) && decide (asid ≤ s.asidHi p)
  if bits w 63 14 = 0 && (all || inRange) && va % 65536 = 0 && len % 65536 = 0 && decide (va < 2 ^ 56) && decide (va + len ≤ 2 ^ 56) then
    some { part := p, asidLo := if all then s.asidLo p else asid, asidHi := if all then s.asidHi p else asid
           lo := if len = 0 then 0 else va, hi := if len = 0 then 2 ^ 56 else va + len }
  else none

/-- A `tlbsd` that has begun its shoot-down ends once the accesses that the removed entries translated are acknowledged; the L1
lines that these have filled meanwhile go too (R111). -/
def endShoot (s : State) (k : Shoot) (ids : List Nat) : Res :=
  if stillOpen s ids then .error .hold else .ok (done (shootL1 s k) { s.slot s.cur with shoot := none })

/-- TLBSD (R111, R317): the descriptor is read once and the entries go at once; then the slot stalls. -/
def execTlbsd (a : BitVec 6) (s : State) : Host.Outcome State Fault Refusal :=
  match (s.slot s.cur).shoot with
  | some q => finish s (endShoot s q.1 q.2)
  | none =>
    finish s (do
      let x := s.slot s.cur
      levelYOnly (.tlbsd a) s
      boundS x [a.toNat]
      let va ← peekS x a.toNat
      lowerAddr va 8 3
      readIssue (.ok ()) s va 24 (fun v s =>
        match shootOf s (s.partN (cellOfSlot s.cur)) v with
        | none => .error (badValue va)
        | some k => do
          soundS x [a.toNat]
          let s := shoot s k
          let ids := shootOpen s k
          return if ids.isEmpty then done s (s.slot s.cur) else s.modSlot s.cur (fun y => { y with shoot := some (k, ids) })))

/-! ## Wheel sets (R163-R165, R318) -/

def wctlOff (d : Nat) : Nat := dieBase d + 0x2000

/-- Writes an image of 129 words into a wheel set. -/
def loadSet (s : State) (set v : Nat) : State :=
  let s := (List.range 64).foldl (fun s i => s.setReg (set + 8 * i) (wrap64 (lane 64 v i))) s
  let s := (List.range 64).foldl (fun s i => s.setReg (set + 0x200 + 8 * i) (wrap64 (lane 64 v (64 + i)) &&& 0x3F#64)) s
  s.setReg (set + 0x400) (wrap64 (lane 64 v 128) &&& 0x3F3F#64)

/-- Sets BAD of a die's WCTL. -/
def wheelBad (s : State) (d : Nat) : State := s.setReg (wctlOff d) (setBit (s.reg (wctlOff d)) 3 true)

/-- WHEEL_LOAD (R318). -/
def execWheelLoad (a : BitVec 6) (s : State) : Host.Outcome State Fault Refusal :=
  finish s (do
    let x := s.slot s.cur
    levelYOnly (.wheelLoad a) s
    boundS x [a.toNat]
    let va ← peekS x a.toNat
    lowerAddr va 8 3
    readIssue (.ok ()) s va 1032 (fun v s => do
      soundS x [a.toNat]
      let d := dieOf (cellOfSlot s.cur)
      let s := if (s.reg (wctlOff d)).getLsbD 1 then wheelBad s d else loadSet s (inactiveSet s d) v
      return done s (s.slot s.cur)))

/-- Conditions 2 and 3 of R164 for a set, for some partitions. -/
def covers (s : State) (d set : Nat) (ps : List Nat) : Bool :=
  let rows := List.range (wheelLo s set)
  let has (c g : Nat) : Bool := rows.any (fun i => wheelWo s set i c = g)
  ps.all (fun p => (s.groupsOn p d).all (fun g =>
    has 15 g && (List.range 15).all (fun c =>
      !(List.range 16).any (fun e => s.holds p (cellNo d c e)) || has c g)))

/-- The check of R164 over a set of a die. -/
def armOk (s : State) (d set : Nat) : Bool :=
  (List.range (wheelLo s set)).all (fun i =>
      (List.range 16).all (fun g => (List.range 16).any (fun c => wheelWo s set i c = g))) &&
    covers s d set (allParts.filter s.committed) &&
    (List.range 64).all (fun o => (List.range (wheelLi s set)).any (fun k => wheelWi s set k = o))

/-- WHEEL_ARM (R164): a failed check leaves nothing armed. -/
def execWheelArm (s : State) : Host.Outcome State Fault Refusal :=
  finish s (do
    levelYOnly .wheelArm s
    let d := dieOf (cellOfSlot s.cur)
    let s := if armOk s d (inactiveSet s d) then s.setReg (wctlOff d) (setBit (s.reg (wctlOff d)) 1 true)
      else wheelBad (s.setReg (wctlOff d) (setBit (s.reg (wctlOff d)) 1 false)) d
    return done s (s.slot s.cur))

/-- WHEEL_SWAP (R165): it arrives at the next fabric edge; a swap that is already asked for keeps its arrival. -/
def execWheelSwap (s : State) : Host.Outcome State Fault Refusal :=
  finish s (do
    levelYOnly .wheelSwap s
    let d := dieOf (cellOfSlot s.cur)
    let s := if (s.reg (wctlOff d)).getLsbD 1 then
        let t := (FMap.find? s.swapAt d).getD (s.fcyc d + 1)
        ({ s.setReg (wctlOff d) (setBit (s.reg (wctlOff d)) 2 true) with swapAt := FMap.put s.swapAt d t } : State).pushE
          (.turnBoundary d (boundaryFrom s d t))
      else wheelBad s d
    return done s (s.slot s.cur))

/-! ## Conditions of a partition (R220) -/

/-- The cells that a partition holds: none unless it is committed, whatever its entry says (R181, R220). -/
def heldCells (s : State) (p : Nat) : List Nat := if s.committed p then s.partCells p else []

/-- The BUSY bits of a partition, bit 0 for bit 16 of the result word (DEDUCED, notes/assumptions/54.md). -/
def busyBits (s : State) (p : Nat) : Nat :=
  let cells := heldCells s p
  let launch := s.launches.any (fun l => l.part = p) || (List.range 8).any (fun q => lqCount s p q (lqTail s p q) ≠ 0)
  let inbox := cells.any (fun c => (s.cell c).inbox.any (fun l => !l.isEmpty)) || s.conts.any (fun q => q.1 = p)
  let live := s.slots.any (fun q => !isGaffer q.1 && q.2.isLive && cells.contains (cellOfSlot q.1))
  let queues := s.cores.any (fun q => cells.contains (q.1 / 4) && (!q.2.mq.isEmpty || !q.2.cq.isEmpty)) ||
    cells.any (fun c => (s.cell c).mrun.isSome || tileOf s c (fun _ => true))
  let colours := s.committed p && (s.partDies p).any (fun d => (List.range 64).any (fun k =>
    decide (s.colLo p ≤ k) && decide (k ≤ s.colHi p) && (colBusy s d).getLsbD k))
  let bar := (List.range 64).any (fun b => (s.barrier p b).count ≠ 0 || (s.barrier p b).release.isSome) ||
    s.arrivals.any (fun a => a.part = p) ||
    s.slots.any (fun q => q.2.isLive && cells.contains (cellOfSlot q.1) && (match q.2.park with | some (.barrier _) => true | _ => false))
  let faults := s.faults.any (fun f => f.part = p && f.answer.isNone)
  launch.toNat + 2 * inbox.toNat + 4 * live.toNat + 8 * queues.toNat + 16 * colours.toNat + 32 * bar.toNat + 64 * faults.toNat

/-- The partitions of a mask. -/
def namedParts (m : Word) : List Nat := allParts.filter (fun p => m.getLsbD p)

/-- The result word of query and quiesce for some partitions: 0, or CODE 1 with BUSY and PART. -/
def busyWord (s : State) (ps : List Nat) : Word :=
  let all := ps.foldl (fun b p => b ||| busyBits s p) 0
  match ps.find? (fun p => busyBits s p ≠ 0) with
  | none => 0#64
  | some p => wrap64 (1 + 65536 * all + 2 ^ 24 * p)

/-- Whether the issuing slot's own partition is named. -/
def namesOwn (s : State) (ps : List Nat) : Bool := ps.contains (s.partN (cellOfSlot s.cur))

/-- Operands and frame of a `part` form (R319): `f` gives the result word and the state after it, unless it waits. -/
def partRes (i : Instr) (d a : BitVec 6) (f : List Nat → State → Except Halt (Word × State)) (s : State) : Res := do
  let x := s.slot s.cur
  levelYOnly i s
  boundS x [d.toNat, a.toNat]
  let m ← peekS x a.toNat
  guardH (bits m 63 16 = 0) (badValue m)
  soundS x [a.toNat]
  freeD x d.toNat
  let r ← if m = 0#64 then .ok (0#64, s) else f (namedParts m) s
  return done r.2 ((r.2.slot s.cur).putS d.toNat r.1)

/-- PART_QUERY (R220). -/
def execPartQuery (d a : BitVec 6) (s : State) : Host.Outcome State Fault Refusal :=
  finish s (partRes (.partQuery d a) d a (fun ps s => .ok (busyWord s ps, s)) s)

/-! ## Quiesce (R220) -/

/-- What the gaffers of a cell have under way goes on for nobody: no answer, token or block of theirs reaches the gaffers that a
commit starts (R19). -/
def orphan (s : State) (cell : Nat) : State :=
  let mine (sid : Nat) : Bool := cellOfSlot sid = cell && isGaffer sid
  { s with
    flight := s.flight.map (fun a => match a.src with
      | .slot sid gen pc dst oldF cons counts =>
        if mine sid then { a with src := .slot sid (gen + 1#8) pc dst oldF cons counts } else a
      | _ => a)
    tokens := s.tokens.map (fun t => if mine (16 * t.core + t.slot) then { t with gen := t.gen + 1#8 } else t)
    messages := s.messages.map (fun m => if mine m.sid then { m with gen := m.gen + 1#8 } else m)
    cores := s.cores.map (fun q => (q.1, { q.2 with blocks := q.2.blocks.map (fun b => if mine b.sid then { b with gen := b.gen + 1#8 } else b) })) }

/-- The gaffers of a cell stop. -/
def stopCell (s : State) (cell : Nat) : State :=
  let s := orphan s cell
  { s with
    flight := s.flight.filter (fun a => !(a.cell = cell && (a.stage = .held || a.stage = .faulted)))
    slots := s.slots.filter (fun q => !(cellOfSlot q.1 = cell && isGaffer q.1))
    rota := s.rota.filter (fun i => cellOfSlot i ≠ cell) }

/-- The lines of a partition are written back and leave the L1s and slices (R220 step 3). -/
def flushPart (s : State) (p : Nat) : State :=
  let mine (k : Nat) : Bool := decide (s.keyLo p ≤ k) && decide (k ≤ s.keyHi p)
  let now := s.forwards.filter (fun f => mine f.key)
  let s := now.foldl performForward { s with forwards := s.forwards.filter (fun f => !mine f.key) }
  { s with
    replicas := s.replicas.filter (fun r => !mine r.key)
    lines := s.lines.filter (fun x => !mine x.key && decide (partOfPa s (128 * x.line) ≠ some p))
    cores := s.cores.map (fun q => if s.holds p (q.1 / 4) then (q.1, { q.2 with l1 := [] }) else q) }

/-- Quiesces one partition: of one that is not committed nothing runs and no line is held. -/
def quiescePart (s : State) (p : Nat) : State :=
  let s := if s.committed p then flushPart ((s.partCells p).foldl stopCell s) p else s
  s.setReg (partBase p) (setBit (setBit (s.partWord p 0) 2 false) 3 true)

/-- PART_QUIESCE (R220). -/
def execPartQuiesce (d a : BitVec 6) (s : State) : Host.Outcome State Fault Refusal :=
  finish s (partRes (.partQuiesce d a) d a (fun ps s =>
    if namesOwn s ps then .ok (4#64, s)
    else if busyWord s ps ≠ 0#64 then .ok (busyWord s ps, s)
    else .ok (0#64, ps.foldl quiescePart s)) s)

/-! ## The checks of a commit (R182, R183, R220) -/

/-- Whether two closed ranges meet. -/
def rangesMeet (a b c d : Nat) : Bool := decide (a ≤ d) && decide (c ≤ b)

/-- Whether two entries are disjoint as R182 asks. -/
def disjointParts (s : State) (p q : Nat) : Bool :=
  (List.range 16).all (fun k => s.partWord p (4 + k) &&& s.partWord q (4 + k) = 0#64) &&
    !rangesMeet (s.asidLo p) (s.asidHi p) (s.asidLo q) (s.asidHi q) &&
    !rangesMeet (s.keyLo p) (s.keyHi p) (s.keyLo q) (s.keyHi q) &&
    !rangesMeet (s.colLo p) (s.colHi p) (s.colLo q) (s.colHi q) &&
    s.partWord p 2 &&& s.partWord q 2 = 0#64 &&
    (List.range 4).all (fun d => !(s.countsOn p d && s.countsOn q d) || s.phases p &&& s.phases q = 0)

/-- Links that the routes between the dies of a partition use (R8). -/
def neededLinks (s : State) (p : Nat) : Nat :=
  let ds := s.partDies p
  let ls := (ds.map (fun a => (ds.map (fun b => routeLinks a b)).flatten)).flatten
  (List.range 4).foldl (fun m l => if ls.contains l then m + 2 ^ l else m) 0

/-- The conditions of R182 on one entry. -/
def soundPart (s : State) (p : Nat) : Bool :=
  let ds := s.partDies p
  let g := (s.groupsOn p (s.lowDie p)).length
  decide (s.asidLo p ≤ s.asidHi p) && decide (s.keyLo p ≤ s.keyHi p) && decide (s.colLo p ≤ s.colHi p) &&
    (ds.isEmpty || s.phases p ≠ 0) && s.dlink p = neededLinks s p &&
    ds.all (fun d => g ≠ 0 && (s.groupsOn p d).length = g &&
      (s.groupsOn p d).all (fun x => (List.range 64).all (fun b => !isHole s d x b)))

/-- The conditions of R183 on a descriptor. -/
def soundIlv (s : State) (n : Nat) : Bool :=
  let w (i : Nat) : Word := s.ilvWord n i
  decide (bits (w 0) 15 12 ≤ 9) && decide (bits (w 2) 51 48 ≤ 9) &&
    (bits (w 0) 11 0 ≠ 0 || bits (w 1) 63 32 = 0) && (bits (w 2) 47 0 ≠ 0 || bits (w 3) 63 32 = 0) &&
    decide (bits (w 1) 31 0 + bits (w 1) 63 32 ≤ 1152) && decide (bits (w 3) 31 0 + bits (w 3) 63 32 ≤ 6144)

/-- Pairs of a list, each once. -/
def pairsOf : List Nat → List (Nat × Nat)
  | [] => []
  | a :: l => l.map (fun b => (a, b)) ++ pairsOf l

/-- Whether a commit of some partitions passes its checks (DEDUCED, notes/assumptions/55.md). -/
def commitOk (s : State) (ps : List Nat) : Bool :=
  let valid := allParts.filter (fun p => if ps.contains p then s.partValid p else s.partValid p || s.committed p)
  let live := allParts.filter (fun p => if ps.contains p then s.partValid p else s.committed p)
  valid.all (soundPart s) && (pairsOf valid).all (fun q => disjointParts s q.1 q.2) &&
    (List.range 4).all (fun d => decide ((live.filter (fun p => !(s.partDies p).isEmpty && s.lowDie p = d)).length ≤ 4)) &&
    (List.range 4).all (fun d => covers s d (activeSet s d) live) &&
    (ps.filter s.partValid).all (fun p => soundIlv s (s.ilv p))

/-! ## The effect of a commit (R220) -/

/-- Whether an ASID is one of a partition that runs on through a commit of some partitions. -/
def asidKept (s : State) (ps : List Nat) (a : Nat) : Bool :=
  (allParts.filter (fun p => s.committed p && !ps.contains p)).any (fun p => decide (s.asidLo p ≤ a) && decide (a ≤ s.asidHi p))

/-- Whether an access that an entry which a commit removes may have translated is not acknowledged: the commit waits for it, as
`tlbsd` does (R111, R220). -/
def commitOpen (s : State) (ps : List Nat) : Bool :=
  s.flight.any (fun a => a.walked && !a.va.getLsbD 56 && !asidKept s ps (s.casid a.cell))

/-- Step 1: entries and lines of the named partitions' old ASIDs go: all of them but those of partitions that run on. -/
def commitTlb (s : State) (ps : List Nat) : State :=
  let kept := asidKept s ps
  { s with
    tlb := s.tlb.filter (fun e => match e.asid with | some a => kept a | none => false)
    cores := s.cores.map (fun q => (q.1, L1.drop q.2 (fun l => !kept l.asid))) }

/-- Step 2 for one key slot: discarded where its owner loses it, loaded afresh where it is granted to a new owner. One whose owner
keeps it is left as it is, though it were discarded (R184). OWNER of a slot that is granted to none keeps its number (DESIGN CHOICE,
notes/assumptions/103.md). -/
def commitKey (ps : List Nat) (s : State) (n : Nat) : State :=
  let w := s.reg (keyReg n)
  let owner := bits w 5 2
  match ps.find? (fun p => s.partValid p && decide (s.keyLo p ≤ n) && decide (n ≤ s.keyHi p)) with
  | some p =>
    if owner = p && (w.getLsbD 0 || (FMap.find? s.keyMat n).isSome) then s
    else
      let t := discardKey s n
      { t.setReg (keyReg n) (wrap64 (1 + 4 * p)) with keyMat := FMap.put t.keyMat n (t.nextId + 1), nextId := t.nextId + 1 }
  | none =>
    if (w.getLsbD 0 || (FMap.find? s.keyMat n).isSome) && ps.contains owner then
      { discardKey s n with keyMat := FMap.del s.keyMat n }
    else s

/-- First address and size of the two ranges that the words of a descriptor give (R183). -/
def ilvRanges (w : List Word) : List (Nat × Nat) :=
  [(bits (getAt 0#64 w 1) 31 0 * gib, bits (getAt 0#64 w 1) 63 32 * gib),
   (0x100000000000 + bits (getAt 0#64 w 3) 31 0 * gib, bits (getAt 0#64 w 3) 63 32 * gib)]

/-- Where the words of a descriptor interleave an address: mask and granule word, and the first address of the range. -/
def ilvPlace (w : List Word) (pa : Nat) : Option (Word × Nat) :=
  ((ilvRanges w).zipIdx.find? (fun q => decide (q.1.1 ≤ pa) && decide (pa < q.1.1 + q.1.2))).map (fun q => (getAt 0#64 w (2 * q.2), q.1.1))

/-- The interleave of an address under the descriptors of some partitions, of the lowest of them that names it (R390). -/
def ilvOf (seen : FMap (List Word)) (pa : Nat) : Option (Word × Nat) := seen.findSome? (fun q => ilvPlace q.2 pa)

/-- The descriptors in force after a commit of some partitions: theirs, and of the others those of running partitions and those
whose ranges no named one takes. -/
def ilvNext (s : State) (ps : List Nat) : FMap (List Word) :=
  let words (p : Nat) : List Word := (List.range 4).map (s.ilvWord (s.ilv p))
  let named := ps.filter s.partValid
  let taken (w : List Word) : Bool := named.any (fun p => (ilvRanges (words p)).any (fun a => (ilvRanges w).any (fun b =>
    decide (a.1 < b.1 + b.2) && decide (b.1 < a.1 + a.2))))
  named.foldl (fun m p => FMap.put m p (words p)) (s.ilvSeen.filter (fun q => !ps.contains q.1 && (s.committed q.1 || !taken q.2)))

/-- A commit notes the descriptors that are in force from it on; a line whose interleave it changes loses its meaning (R380). -/
def commitIlv (s : State) (ps : List Nat) : State :=
  let next := ilvNext s ps
  let lost (line : Nat) : Bool :=
    (ilvOf s.ilvSeen (128 * line)).isSome && decide (ilvOf next (128 * line) ≠ ilvOf s.ilvSeen (128 * line))
  { s with
    ilvSeen := next
    lineKey := s.lineKey.map (fun q => if lost q.1 then (q.1, s.nextId + 1) else q)
    nextId := s.nextId + 1 }

/-- Clears a physical bank of a group. -/
def scrubBank (s : State) (d g phys : Nat) : State :=
  let lo := commonsAddr g phys 0 0
  let hi := lo + 2048 * 64
  { s with
    commons := FMap.put s.commons d (Memory.clear (s.commonsOf d) lo hi)
    errs := s.errs.filter (fun e => match e with
      | .commons k w => !(k = d && decide (lo / 8 ≤ w) && decide (w < hi / 8))
      | _ => true) }

/-- Clears the commons banks of a group, holes aside (R113); of one that is being copied its spare too (R167). -/
def scrubGroup (s : State) (d g : Nat) : State :=
  (List.range 64).foldl (fun s b =>
    if isHole s d g b then s
    else
      let s' := scrubBank s d g (bits (s.reg (remapOff d g b)) 6 0)
      if remapState s d g b = 1 then (match freeSpare s d g with | some x => scrubBank s' d g x | none => s') else s') s

/-- A cell as a commit leaves it: frames zeroed, windows, pairs, barriers and gear at reset (R113, R169, R220). -/
def committedCell (c : Cell) : Cell :=
  { Cell.init with
    dir := c.dir.map (fun (q : Nat × DirEntry) => (q.1, { DirEntry.init with fmt := q.2.fmt }))
    q := c.q, qs := c.qs, rings := c.rings, tdctl := c.tdctl, mwt := c.mwt, acc := c.acc }

/-- A gaffer at its start (R19). -/
def gafferSlot (colour : Word) : Slot :=
  { Slot.init with status := .live, pc := Config.runtimeEntry, ns := 32, colr := colour, parklim := Config.parkLimit }

/-- A slot of a committed cell before its gaffers start: empty; the power controller's hold on it stays. -/
def clearedSlot (x : Slot) : Slot := { Slot.init with removedAt := x.removedAt, exemptUntil := x.exemptUntil }

/-- The gaffers of a cell of a partition start (R19) (DEDUCED, notes/assumptions/78.md). -/
def startGaffers (p : Nat) (s : State) (cell : Nat) : State :=
  let s := (List.range 4).foldl (fun s k =>
    let sid := 16 * (4 * cell + k)
    enrol (s.setSlot sid (gafferSlot (wrap64 (s.colLo p)))) sid) s
  s.pushE (.gearEvaluate cell)

/-- Steps 4, 5 and 7 for one cell of a partition. -/
def commitCell (p : Nat) (s : State) (cell : Nat) : State :=
  let s := { dropJobsOf (drainFifo s cell) (fun c => c = cell) with
    slots := s.slots.map (fun (q : Nat × Slot) => if cellOfSlot q.1 = cell then (q.1, clearedSlot q.2) else q)
    cores := s.cores.filter (fun (q : Nat × Core) => q.1 / 4 ≠ cell)
    errs := s.errs.filter (fun e => match e with | .loc k _ => k ≠ cell | _ => true) }
  let s := s.modCell cell committedCell
  let s := s.setReg (casidOff cell) (wrap64 (s.asidLo p))
  let s := s.setReg (powerOff cell + 0x18) 0#64
  let pair := cellPair cell
  let s := ((s.setReg pair (wrap64 (tickAt s.gts.toNat))).setReg (pair + 8) 0#64).setReg (pair + 0x10) 40#64
  let s := keepHistory ((List.range 32).foldl (fun s i => s.setReg (historyOff cell + 8 * i) 0#64) s) cell
  startGaffers p s cell

/-- Commits one valid partition, or releases one that is not valid. -/
def commitPart (s : State) (p : Nat) : State :=
  let w := s.partWord p 0
  if !s.partValid p then s.setReg (partBase p) (setBit (setBit w 2 false) 3 false)
  else
    let s := (s.partDies p).foldl (fun s d => (s.groupsOn p d).foldl (fun s g => scrubGroup s d g) s) s
    let s := { s with
      barriers := s.barriers.filter (fun q => q.1 / 64 ≠ p)
      arrivals := s.arrivals.filter (fun a => a.part ≠ p) }
    let s := (s.partCells p).foldl (commitCell p) s
    (s.setReg (partBase p) (setBit (setBit w 2 true) 3 false)).pushE (.launchRead p)

/-- The whole effect of a commit that passes its checks. -/
def commitAll (s : State) (ps : List Nat) : State :=
  let s := (List.range 256).foldl (commitKey ps) (commitTlb s ps)
  ps.foldl commitPart (commitIlv s ps)

/-- PART_COMMIT (R220). -/
def execPartCommit (d a : BitVec 6) (s : State) : Host.Outcome State Fault Refusal :=
  finish s (partRes (.partCommit d a) d a (fun ps s =>
    if namesOwn s ps then .ok (4#64, s)
    else if ps.any (fun p => s.committed p && !s.quiesced p) then .ok (3#64, s)
    else if !commitOk s ps then .ok (2#64, s)
    else if commitOpen s ps then .error .hold
    else .ok (0#64, commitAll s ps)) s)

end Sys2Proof.Machine
end

