-- ==== Sys2Proof/Machine/Graph.lean ====
section
/-! DEFINITION. The graph engines: launches, nodes, placement of records and continuations, promotion by age
(spec/01_machine.md R21-R23, R31, spec/06_queues.md R140-R148, R391). -/

namespace Sys2Proof.Machine

/-- Lane of the graph engine of a partition among the four of its die (R9): engines go to the committed partitions of a die in
ascending number (DESIGN CHOICE, notes/assumptions/20.md). -/
def graphLane (s : State) (p : Nat) : Nat :=
  (allParts.filter (fun q => decide (q < p) && s.committed q && s.lowDie q = s.lowDie p)).length % 4

/-- Source number of a partition's graph engine: a port-lane engine at lanes 56-59 (R9, R11, R195). -/
def graphSource (s : State) (p : Nat) : Nat := 0x4000 + (1024 * s.lowDie p + 960 + 56 + graphLane s p)

/-- The graph engine of a partition, reading or writing for a step under an ASID; `who` is the launch, the node or the record that
it does so for, since each of them is parked and denied for itself (R391). -/
def graphAgent (s : State) (p asid : Nat) (wr : Bool) (again : Instr) (who : Nat) : Agent :=
  { part := p, die := s.lowDie p, asid := asid, kind := if wr then 6 else 5, source := graphSource s p, again := .event again
    who := who }

/-- The n bytes at offset o of a record held as a little-endian number. -/
def fieldAt (v o n : Nat) : Nat := (v >>> (8 * o)) % 2 ^ (8 * n)

/-- Puts x before the first element that it may stand before. -/
def insertBy {α : Type} (le : α → α → Bool) (x : α) : List α → List α
  | [] => [x]
  | y :: ys => if le x y then x :: y :: ys else y :: insertBy le x ys

/-- Sorts a list; elements that are equal in the order keep their places relative to one another. -/
def sortBy {α : Type} (le : α → α → Bool) (l : List α) : List α := l.foldr (insertBy le) []

/-! ## Reading a launch (R140-R144) -/

/-- A node of the table from its 128 bytes and its dependents. -/
def parseNode (v : Nat) (succ : List Nat) : Node :=
  { pc := wrap64 (fieldAt v 0 8), arg := wrap64 (fieldAt v 8 8)
    x := fieldAt v 0x10 4, y := fieldAt v 0x14 4, z := fieldAt v 0x18 4
    flags := BitVec.ofNat 32 (fieldAt v 0x1C 4), fmt := BitVec.ofNat 32 (fieldAt v 0x20 4), key := BitVec.ofNat 32 (fieldAt v 0x24 4)
    sca := wrap64 (fieldAt v 0x28 8), scb := wrap64 (fieldAt v 0x30 8)
    recs := wrap64 (fieldAt v 0x38 8), saves := wrap64 (fieldAt v 0x40 8)
    deps := fieldAt v 0x48 4, succ := succ, stop := fieldAt v 0x58 8 % 2 = 1, ready := none, placed := 0, written := false, retired := 0
    failed := 0, complete := false }

/-- Whether a node table entry passes the checks of R36, R142 and R144 that need no other read
(DEDUCED, notes/assumptions/75.md). -/
def soundNode (v : Nat) : Bool :=
  let n := parseNode v []
  decide (n.flags.toNat < 2 ^ 16) && decide (n.fmt.toNat < 2 ^ 23) && decide (fieldAt v 0x58 8 < 2) && fieldAt v 0x60 32 = 0 &&
    n.recs.toNat % 64 = 0 && n.saves.toNat % 64 = 0 && decide (0 < n.tasks) && decide (n.tasks ≤ 2 ^ 32) &&
    (fieldAt v 0x4C 4 = 0 || fieldAt v 0x50 8 % 4 = 0)

/-- What the reading of a graph comes to. -/
inductive Opened where
  | parked
  | rejected
  | nodes (l : List Node)
  deriving DecidableEq, Repr

/-- Checks the entries of a node table of k nodes, reading each dependents list. -/
def openNodes (g : Agent) (k : Nat) : State → List Nat → Opened × State
  | s, [] => (.nodes [], s)
  | s, v :: vs =>
    let n := fieldAt v 0x4C 4
    if !soundNode v then (.rejected, s)
    else
      match (if n = 0 then (Got.val 0, s) else readVirt s g (wrap64 (fieldAt v 0x50 8)) (4 * n)) with
      | (.parked, s) => (.parked, s)
      | (.val l, s) =>
        let succ := (List.range n).map (fun i => fieldAt l (4 * i) 4)
        if succ.any (fun j => decide (k ≤ j)) then (.rejected, s)
        else
          match openNodes g k s vs with
          | (.nodes ns, s) => (.nodes (parseNode v succ :: ns), s)
          | other => other
      | (_, s) => (.rejected, s)

/-- Reads and checks a graph header, which is taken to have 64 bytes (R141; DESIGN CHOICE, notes/assumptions/108.md), its node table and
its dependents lists. -/
def openGraph (s : State) (g : Agent) (header : Word) : Opened × State :=
  match readVirt s g header 64 with
  | (.parked, s) => (.parked, s)
  | (.val h, s) =>
    let k := fieldAt h 0 4
    let table := fieldAt h 8 8
    if k = 0 || decide (Config.nodesPerLaunch < k) || fieldAt h 4 4 ≠ 0 || fieldAt h 0x10 48 ≠ 0 || table % 128 ≠ 0 then (.rejected, s)
    else
      match readVirt s g (wrap64 table) (128 * k) with
      | (.parked, s) => (.parked, s)
      | (.val t, s) => openNodes g k s ((List.range k).map (fun i => fieldAt t (128 * i) 128))
      | (_, s) => (.rejected, s)
  | (_, s) => (.rejected, s)

/-- The completion word of a launch that has run (R142). -/
def completionWord (l : Launch) : Word :=
  let nodes := (l.nodes.filter (fun n => n.complete)).length
  let failed := min 0xFFFF ((l.nodes.map (fun n => n.failed)).foldl (· + ·) 0)
  setBit (setBit (wrap64 (nodes + 2 ^ 32 * failed)) 62 l.cut) 63 true

/-- The completion word of a rejected launch (R142). -/
def rejectedWord : Word := setBit (setBit 0#64 61 true) 63 true

/-- A launch entry as read, or nothing where it cannot be read (R142). -/
def readEntry (s : State) (pa : Nat) : Option Nat × State :=
  if !isBacked pa || (isSystem pa && !s.linkUp) || physErr s pa 64 then (none, s)
  else
    let r := physReadRaw s pa 64
    (some r.1, r.2)

/-- The launch of an entry: rejected at once where the entry cannot be read, is misaligned or has a reserved field set. -/
def entryLaunch (id p : Nat) (e : Option Nat) : Launch :=
  let reject (done : Word) : Launch := { id := id, part := p, done := done, phase := .closing rejectedWord, nodes := [], cut := false }
  match e with
  | none => reject 0#64
  | some v =>
    let header := wrap64 (fieldAt v 0 8)
    let done := wrap64 (fieldAt v 8 8)
    if fieldAt v 0x10 48 ≠ 0 || header.toNat % 64 ≠ 0 || done.toNat % 8 ≠ 0 then reject (if done.toNat % 8 = 0 then done else 0#64)
    else { id := id, part := p, done := done, phase := .opening header, nodes := [], cut := false }

/-- The next queue that an engine serves: ascending from the one whose turn it is, empty and disabled ones skipped (R142)
(DESIGN CHOICE, notes/assumptions/76.md). -/
def nextQueue (s : State) (p : Nat) : Option Nat :=
  let from_ := FMap.get 0 s.lqNext p
  ((List.range Config.launchQueues).map (fun i => (from_ + i) % Config.launchQueues)).find? (fun q =>
    lqEnabled s p q && lqCount s p q (lqTail s p q) ≠ 0)

/-- Takes one launch entry from the queue whose turn it is, with an acquire at system scope (R140, R142). -/
def takeEntry (s : State) (p : Nat) : State :=
  if s.stopped p || decide (Config.launchesAtOnce ≤ (s.launches.filter (fun l => l.part = p)).length) then s
  else
    match nextQueue s p with
    | none => s
    | some q =>
      let h := lqHead s p q
      let r := readEntry (selfInvalidate s (s.lowDie p)) (lqBase s p q + 64 * (h % lqLen s p q))
      let s := r.2.setReg (lqOff p q + 0x10) (wrap64 ((h + 1) % 65536))
      let s : State := { s with
        lqNext := FMap.put s.lqNext p ((q + 1) % Config.launchQueues), launches := s.launches ++ [entryLaunch s.nextId p r.1]
        nextId := s.nextId + 1 }
      s.pushE (.launchRead p)

/-- A running launch that has no node ready or running ends (R145). -/
def endLaunch (l : Launch) : Launch :=
  if l.phase = .running && l.nodes.all (fun n => n.ready.isNone || n.complete) then { l with phase := .closing (completionWord l) }
  else l

/-- Reads the graph of a launch whose entry has been taken. -/
def openLaunch (s : State) (p li : Nat) : State :=
  match s.launches[li]? with
  | none => s
  | some l =>
    match l.phase with
    | .opening header =>
      match openGraph s (graphAgent s p (s.asidLo p) false (.launchRead p) l.id) header with
      | (.parked, s) => s
      | (.rejected, s) => { s with launches := setAt s.launches li { l with phase := .closing rejectedWord } }
      | (.nodes ns, s) =>
        let s := setLaunch s li { l with phase := .running, nodes := ns }
        { s with launches := s.launches.map endLaunch }.pushE (.recordPlace p)
    | _ => s

/-- Writes the completion word of a launch that has ended, as a release at system scope: what the engine wrote before has reached
its home (R142); false where the write is parked. -/
def closeLaunch (s : State) (p : Nat) (l : Launch) : Bool × State :=
  match l.phase with
  | .closing w =>
    if l.done = 0#64 then (true, s)
    else
      match writeVirt (flushDie s (s.lowDie p)) (graphAgent s p (s.asidLo p) true (.launchRead p) l.id) l.done 8 w.toNat with
      | (.parked, s) => (false, s)
      | (_, s) => (true, s)
  | _ => (false, s)

/-- Writes every completion word that can be written, and drops those launches. -/
def closeLaunches (p : Nat) : State → List Launch → List Launch × State
  | s, [] => ([], s)
  | s, l :: ls =>
    if l.part ≠ p then
      let r := closeLaunches p s ls
      (l :: r.1, r.2)
    else
      match closeLaunch s p l with
      | (true, s) => closeLaunches p s ls
      | (false, s) =>
        let r := closeLaunches p s ls
        (l :: r.1, r.2)

/-- LAUNCH_READ (R142): takes an entry, reads the graphs that are still to be read, writes the completion words that are due. -/
def execLaunchRead (p : Nat) (s : State) : Host.Outcome State Fault Refusal :=
  if (s.fabricOf (s.lowDie p)).step.isSome then .next (s.pushE (.launchRead p))
  else
  let s := takeEntry s p
  let s := (List.range s.launches.length).foldl (fun s i =>
    match s.launches[i]? with
    | some l => if l.part = p then openLaunch s p i else s
    | none => s) s
  let n := s.launches.length
  let r := closeLaunches p s s.launches
  let s : State := { r.2 with launches := r.1 }
  .next (if r.1.length < n then s.pushE (.launchRead p) else s)

/-! ## Placement (R21-R23, R145, R148) -/

/-- Whether a cell's inbox has room at a level. -/
def hasRoom (s : State) (cell prio : Nat) : Bool := decide ((getAt [] (s.cell cell).inbox prio).length < Config.inboxLevel)

/-- Records of a cell's inbox over all levels. -/
def inboxLoad (s : State) (cell : Nat) : Nat := ((s.cell cell).inbox.map List.length).foldl (· + ·) 0

/-- Puts a record into a cell's inbox, as a release at package scope: what the engine wrote before has reached its home (R145); the
`wfi` of a gaffer there ends, and the record may become due for promotion (R31, R148, R316). -/
def deliverRecord (s : State) (cell : Nat) (rec_ : Word) (prio : Nat) : State :=
  let s := (flushDie s (s.lowDie (s.partN cell))).modCell cell (fun c => { c with
    inbox := setAt c.inbox prio (getAt [] c.inbox prio ++ [{ record := rec_, entered := s.gts }]) })
  (List.range 4).foldl (fun s k =>
    let sid := 16 * (4 * cell + k)
    if (s.slot sid).park = some .wfi then s.modSlot sid wakeSlot else s) (agingDue s cell)

/-- The cell of throughput mode: the fewest records among those with room, ties to the lowest logical number (R23). -/
def leastLoaded (s : State) (p prio : Nat) : Option Nat :=
  ((s.partCells p).filter (fun c => hasRoom s c prio)).foldl (fun best c =>
    match best with
    | none => some c
    | some b => if inboxLoad s c < inboxLoad s b then some c else some b) none

/-- Delivers what waits for inbox room; a record behind another of its cell waits too (R21). -/
def deliverHeld (p : Nat) : State → List Held → List Nat → List Held × State
  | s, [], _ => ([], s)
  | s, h :: hs, blocked =>
    if h.part = p && !blocked.contains h.cell && hasRoom s h.cell h.prio then
      deliverHeld p (deliverRecord s h.cell h.record h.prio) hs blocked
    else
      let r := deliverHeld p s hs (h.cell :: blocked)
      (h :: r.1, r.2)

/-- The 64 bytes of the record of linear index L of a node (R21, R144, R146). -/
def recordBytes (n : Node) (L : Nat) : Nat :=
  let save := if n.saves = 0#64 then 0#64 else n.saves + wrap64 (65536 * L)
  n.pc.toNat + 2 ^ 64 * n.arg.toNat + 2 ^ 128 * (L % n.x) + 2 ^ 160 * (L / n.x % n.y) + 2 ^ 192 * (L / (n.x * n.y)) +
    2 ^ 224 * n.flags.toNat + 2 ^ 256 * n.fmt.toNat + 2 ^ 288 * n.key.toNat + 2 ^ 320 * n.sca.toNat + 2 ^ 384 * n.scb.toNat +
    2 ^ 448 * save.toNat

/-- What an attempt to write and place a node's next record comes to: done; parked on a demand fault; the record is written and
no cell has room for it. -/
inductive Placing where
  | placed | parked | waits
  deriving DecidableEq, Repr

/-- The end of a task whose record could not be written (R391). -/
def failRecord (s : State) (p li ni : Nat) (l : Launch) (n : Node) : Bool × State :=
  let g := graphAgent s p (s.asidLo p) false (.recordPlace p) (n.ready.getD 0)
  let close (s : State) : Bool × State :=
    (true, setLaunch s li (retireIn { l with nodes := setAt l.nodes ni { n with placed := n.placed + 1 } } ni 1))
  match readVirt s g n.arg 8 with
  | (.parked, s) => (false, s)
  | (.val v, s) =>
    match joinAt s { g with kind := 6 } (wrap64 v) 1 with
    | (true, s) => (false, s)
    | (false, s) => close s
  | (_, s) => close s

/-- Places the written record of a node (R21, R23). -/
def placeRecord (s : State) (p li ni : Nat) (l : Launch) (n : Node) : Placing × State :=
  let L := n.placed
  let rec_ := n.recs + wrap64 (64 * L)
  let prio := n.flags.toNat % 4
  let put (m : Node) (s : State) : State := { s with launches := setAt s.launches li { l with nodes := setAt l.nodes ni m } }
  let s := put { n with written := true } s
  let next := put { n with written := false, placed := L + 1 }
  if n.flags.getLsbD 3 then
    match s.cellAt p (L % s.cellCount p) with
    | none => (.waits, s)
    | some c =>
      if s.held.any (fun h => h.cell = c) || !hasRoom s c prio then
        (.placed, { next s with held := s.held ++ [{ part := p, cell := c, record := rec_, prio := prio }] })
      else (.placed, deliverRecord (next s) c rec_ prio)
  else
    match leastLoaded s p prio with
    | none => (.waits, s)
    | some c => (.placed, deliverRecord (next s) c rec_ prio)

/-- Writes and places the next record of a node (R145). -/
def placeNext (s : State) (p li ni : Nat) : Placing × State :=
  match s.launches[li]? with
  | none => (.parked, s)
  | some l =>
    match l.nodes[ni]? with
    | none => (.parked, s)
    | some n =>
      if n.written then placeRecord s p li ni l n
      else
        match writeVirt s (graphAgent s p (s.asidLo p) true (.recordPlace p) (n.ready.getD 0)) (n.recs + wrap64 (64 * n.placed)) 64 (recordBytes n n.placed) with
        | (.parked, s) => (.parked, s)
        | (.done, s) => placeRecord s p li ni l n
        | (.denied _, t) =>
          match failRecord t p li ni l n with
          | (true, t) => (.placed, t)
          | (false, t) =>
            -- the join is parked: the denial stands until the join has been made
            (.parked, { t with faults := t.faults ++ s.faults.filter (fun f => decide (f.answer = some 2) && !t.faults.contains f) })

/-- The nodes of a partition that have records to place, in the order in which they became ready (R22). -/
def readyOrder (s : State) (p : Nat) : List (Nat × Nat) :=
  let all := s.launches.zipIdx.flatMap (fun (q : Launch × Nat) =>
    if q.1.part = p && q.1.phase = .running then
      q.1.nodes.zipIdx.filterMap (fun (m : Node × Nat) =>
        match m.1.ready with
        | some r => if m.1.placed < m.1.tasks then some (r, q.2, m.2) else none
        | none => none)
    else [])
  (sortBy (fun (a b : Nat × Nat × Nat) => decide (a.1 ≤ b.1)) all).map (fun (a : Nat × Nat × Nat) => a.2)

/-- Tries nodes in order until one has a record placed or holds one; a node whose access is parked is passed over (R391). -/
def placeFirst (p : Nat) : State → List (Nat × Nat) → Placing × State
  | s, [] => (.parked, s)
  | s, (li, ni) :: rest =>
    match placeNext s p li ni with
    | (.parked, s) => placeFirst p s rest
    | r => r

/-- RECORD_PLACE (R145). -/
def execRecordPlace (p : Nat) (s : State) : Host.Outcome State Fault Refusal :=
  if (s.fabricOf (s.lowDie p)).step.isSome then .next (s.pushE (.recordPlace p))
  else
  let r := deliverHeld p s s.held []
  let s : State := { r.2 with held := r.1 }
  let q := placeFirst p s (readyOrder s p)
  let ended := q.2.launches.map endLaunch
  let done : Bool := decide (ended ≠ q.2.launches)
  let s : State := { q.2 with launches := ended }
  let s := if done then s.pushE (.launchRead p) else s
  .next (if q.1 ≠ .parked || s.held.any (fun h => h.part = p) then s.pushE (.recordPlace p) else s)

/-! ## Continuations (R147, R391) -/

/-- Whether the read of a continuation's priority is parked. -/
def contParked (s : State) (p : Nat) (c : Nat × Nat × Word) : Bool :=
  isParked s (graphAgent s p c.2.1 false (.continuationPlace p) c.2.2.toNat) (c.2.2 + 0x1C#64)

/-- Places a continuation; false where it waits. -/
def placeCont (s : State) (p : Nat) (c : Nat × Nat × Word) : Bool × State :=
  let place (s : State) (prio : Nat) : Bool × State :=
    match leastLoaded s p prio with
    | none => (false, s.pushE (.continuationPlace p))
    | some cell => (true, deliverRecord s cell c.2.2 prio)
  match readVirt s (graphAgent s p c.2.1 false (.continuationPlace p) c.2.2.toNat) (c.2.2 + 0x1C#64) 4 with
  | (.parked, s) => (false, s)
  | (.val v, s) => place s (v % 4)
  | (_, s) => place s 0

/-- CONTINUATION_PLACE (R147). -/
def execContinuationPlace (p : Nat) (s : State) : Host.Outcome State Fault Refusal :=
  if (s.fabricOf (s.lowDie p)).step.isSome then .next (s.pushE (.continuationPlace p))
  else
  match s.conts.find? (fun c => c.1 = p && !contParked s p c) with
  | none => .next s
  | some c =>
    match placeCont s p c with
    | (false, t) => .next t
    | (true, t) =>
      let t : State := { t with conts := t.conts.erase c }
      .next (if t.conts.any (fun d => d.1 = p) then t.pushE (.continuationPlace p) else t)

/-! ## Promotion by age (R31, R148) -/

/-- Records of a cell's inbox that have waited longer than a limit and may rise, in the order of R148: by entry GTS, then from
the higher level, then by position. -/
def overdue (c : Cell) (now limit : Nat) : List (Nat × InboxEntry) :=
  let at_ (lv : Nat) : List (Nat × InboxEntry) :=
    ((getAt [] c.inbox lv).filter (fun e => decide (limit < now - e.entered.toNat))).map (fun e => (lv, e))
  sortBy (fun (a b : Nat × InboxEntry) => decide (a.2.entered.toNat ≤ b.2.entered.toNat)) (at_ 2 ++ at_ 1 ++ at_ 0)

/-- Raises one record by a level, unless that is full. -/
def promote (now : Word) (c : Cell) (q : Nat × InboxEntry) : Cell :=
  let up := getAt [] c.inbox (q.1 + 1)
  if up.length < Config.inboxLevel then
    let box := setAt c.inbox q.1 ((getAt [] c.inbox q.1).erase q.2)
    { c with inbox := setAt box (q.1 + 1) (up ++ [{ q.2 with entered := now }]) }
  else c

/-- AGE_PROMOTION (R31, R148); it stays due while a record of the inbox may still rise. -/
def execAgePromotion (cell : Nat) (s : State) : Host.Outcome State Fault Refusal :=
  match s.partOf cell with
  | none => .next s
  | some p =>
    if s.ageLimit p = 0 then .next s
    else .next (agingDue (s.modCell cell (fun c => (overdue c s.gts.toNat (s.ageLimit p)).foldl (promote s.gts) c)) cell)

end Sys2Proof.Machine
end

