-- ==== Sys2Proof/Machine/Copies.lean ====
section
/-! DEFINITION. The copy port: how copies are checked, cut into chunks and moved (spec/17_ref_commands.md R350, R355-R365,
R367-R369, spec/06_queues.md R156-R158, spec/05_ordering.md R134-R135). -/

namespace Sys2Proof.Machine

/-! ## Address checks (R359) -/

/-- Spaces as the address checks of a copy see them. -/
inductive Region where
  | own | remote | commons | lower | bad
  deriving DecidableEq, Repr

/-- The region of an address for a cell. -/
def regionOf (s : State) (cell : Nat) (va : Word) : Region :=
  if !canonical va then .bad
  else
    match spaceOf s cell va with
    | .own _ => .own
    | .remote _ _ => .remote
    | .commons _ => .commons
    | .lower => .lower
    | _ => .bad

/-- The region of n bytes from an address, which do not wrap. -/
def regionRun (s : State) (cell : Nat) (va : Word) (n : Nat) : Region :=
  let r := regionOf s cell va
  if n = 0 then r
  else
    let last := va + wrap64 (n - 1)
    if decide (va.toNat + n ≤ 2 ^ 64) && regionOf s cell last = r then r else .bad

/-- Whether the runs of a side lie in regions that are allowed and are aligned to al bytes. Where the first and last bytes of the
whole side lie in one region, so do all its runs. -/
def sideOk (s : State) (cell : Nat) (base : Word) (steps : List (Int × Nat)) (run al : Nat) (allowed : List Region) : Bool :=
  let x := Geom.extremes steps
  let lo := (base.toNat : Int) + x.1
  let hi := (base.toNat : Int) + x.2 + run
  let whole := decide (0 ≤ lo) && decide (hi ≤ (2 ^ 64 : Nat)) && allowed.contains (regionRun s cell (wrap64 lo.toNat) (hi - lo).toNat)
  base.toNat % al = 0 && steps.all (fun q => decide (q.2 ≤ 1) || q.1 % (al : Int) = 0) &&
    (whole || (Geom.offsets steps).all (fun o => allowed.contains (regionRun s cell (base + BitVec.ofInt 64 o) run)))

/-- Every region. -/
def anyRegion : List Region := [.own, .remote, .commons, .lower]

/-! ## Segments -/

/-- A run of elements of one row: element index, source address, destination displacement, bytes of both. -/
structure Seg where
  l : Nat
  src : Word
  off : Int
  ns : Nat
  nd : Nat
  deriving DecidableEq, Repr

/-- Element L of a box, and the elements that follow it in its row. -/
def segAt (w : CmdWord) (g : Geom) (l stop : Nat) : Seg × Nat :=
  let sb := Cp.srcBits w g.attr
  let db := Cp.dstBits w g.attr
  if Cp.isList w then
    let x := getAt 0 g.list l
    let k := l * Cp.size w
    (⟨l, w.w1 + wrap64 (if Cp.isGath w then x else k), if Cp.isGath w then (k : Int) else (x : Int), Cp.size w, Cp.size w⟩, 1)
  else
    let i0 := l % g.e 0
    let i1 := l / g.e 0 % g.e 1
    let i2 := l / g.e 0 / g.e 1 % g.e 2
    let i3 := l / g.e 0 / g.e 1 / g.e 2
    let so : Int := (i1 : Int) * g.s 1 + (i2 : Int) * g.s 2 + (i3 : Int) * g.s 3 + ((i0 * sb / 8 : Nat) : Int)
    let rest : Int := (i2 : Int) * g.d 2 + (i3 : Int) * g.d 3
    let off : Int :=
      if Cp.isRing w then ((l * sb / 8 : Nat) : Int)
      else if Cp.xf w = 2 then ((i1 * Cp.size w : Nat) : Int) + (i0 : Int) * g.d 1 + rest
      else (i1 : Int) * g.d 1 + rest + ((i0 * db / 8 : Nat) : Int)
    let n := if Cp.xf w = 2 then 1 else min (g.e 0 - i0) (stop - l)
    (⟨l, w.w1 + BitVec.ofInt 64 so, off, n * sb / 8, n * db / 8⟩, n)

/-- The segments of elements from l up to stop; the fuel counts them. -/
def segsFuel (w : CmdWord) (g : Geom) : Nat → Nat → Nat → List Seg
  | 0, _, _ => []
  | k + 1, l, stop =>
    if stop ≤ l then []
    else
      let q := segAt w g l stop
      q.1 :: segsFuel w g k (l + max 1 q.2) stop

/-- First element of chunk n: chunks are 4 KiB of source bytes; four 6-bit elements that a boundary cuts are moved with the chunk that
holds their last byte (R356). -/
def chunkStart (w : CmdWord) (g : Geom) (n : Nat) : Nat :=
  let sb := Cp.srcBits w g.attr
  min (g.count w) (if sb = 6 then 4 * (4096 * n / 3) else n * (32768 / sb))

/-- The segments of a chunk. -/
def chunkSegs (w : CmdWord) (g : Geom) (n : Nat) : List Seg :=
  let a := chunkStart w g n
  let b := chunkStart w g (n + 1)
  segsFuel w g (b - a) a b

/-- Bytes at the end of a chunk's run that belong to elements moved with the next chunk: the chunk's source holds them (R356). -/
def chunkTail (w : CmdWord) (g : Geom) (n : Nat) : List Seg :=
  let b := chunkStart w g (n + 1)
  let k := 4096 * (n + 1) % 3
  if Cp.srcBits w g.attr = 6 && k ≠ 0 && decide (b < g.count w) then [{ (segAt w g b (b + 4)).1 with ns := k, nd := 0 }] else []

/-- Number of chunks. -/
def chunkCount (w : CmdWord) (g : Geom) : Nat := (g.count w * Cp.srcBits w g.attr / 8 + 4095) / 4096

/-! ## Agents -/

/-- Number of the host-link agent's store replay queue, beside those of the cells (R158). -/
def hostLink : Nat := 960

/-- The copy port of a cell reading or writing a chunk (R109, R195). -/
def portAgent (s : State) (cell : Nat) (wr : Bool) (again : Turn) : Agent :=
  { part := s.partN cell, die := dieOf cell, asid := s.casid cell, kind := if wr then 4 else 3, source := cellSource 2 cell
    again := again }

/-- The store replay queue that a waiter of a fault record stands in: a cell's copy port's, or the host-link agent's (R158). -/
def replayQueue (w : Turn × Nat) : Option Nat :=
  match w.1 with
  | .event (.copyChunk cell _ _) => some cell
  | .event (.reducePieceApply cell _ _ _) => some cell
  | .event (.ringLanding cell _ _ _) => some cell
  | .event (.collResultWrite _ _ _) => some w.2
  | .later (.peerAck cell _ _ _ _) => some cell
  | .later (.peerChunk _ _ _ _ _ _ _ _ _ _) => some hostLink
  | _ => none

/-- Whether a fault record is of the page of an address of an agent. -/
def ofPage (g : Agent) (va : Word) (f : FaultRec) : Bool := f.part = g.part && f.asid = g.asid && samePage f.va va

/-- Whether a waiter of a record stands in an agent's replay queue, and is not the agent's own. -/
def sameQueue (g : Agent) (w : Turn × Nat) : Bool :=
  (replayQueue g.waiter).isSome && decide (replayQueue w = replayQueue g.waiter) && decide (w ≠ g.waiter)

/-- Whether an older chunk of the same replay queue is parked on the page of an address (R158). -/
def pageParked (g : Agent) (va : Word) (f : FaultRec) : Bool := ofPage g va f && f.answer.isNone && f.waits.any (sameQueue g)

/-- Whether chunks of an agent's replay queue that were parked on a page are still to be replayed: a younger one waits, and those that
are replayed go in their order (R158). -/
def pageReplays (s : State) (g : Agent) (va : Word) : Bool :=
  decide (s.replayed ≠ some g.again) && s.faults.any (fun f => ofPage g va f && decide (f.answer = some 1) && f.waits.any (sameQueue g))

/-- Translates one address for a chunk: it parks behind an older chunk of its replay queue that is parked on the page, in order
(R158). -/
def portXlate (s : State) (g : Agent) (va : Word) (rd wr : Bool) : Xlate × State :=
  if s.faults.any (pageParked g va) then
    (.demand, { s with faults := s.faults.map (fun f =>
      if pageParked g va f && !f.waits.contains g.waiter then { f with waits := f.waits ++ [g.waiter] } else f) })
  else agentXlate s g va rd wr

/-- Whether a waiter of a record is a chunk that is parked still: its copy waits for it (R158). -/
def stillParked (s : State) (w : Turn × Nat) : Bool :=
  match w.1 with
  | .event (.copyChunk cell n k) => (match s.copyOf cell n with | some r => r.parked.contains k | none => false)
  | .event (.reducePieceApply cell n k i) => (match s.copyOf cell n with | some r => r.owed.contains (k, i) | none => false)
  | .event (.ringLanding cell n m sc) => (match s.copyOf cell n with | some r => r.phase = .running && !r.landings.contains (m, sc) | none => false)
  | .event (.collResultWrite d c i) => s.colls.any (fun x => x.die = d && x.col = c && x.rid = i)
  | .later (.peerAck cell n k _ _) => (match s.copyOf cell n with | some r => r.acks.contains k | none => false)
  | .later (.peerChunk _ _ _ _ _ _ _ _ _ _) => true
  | _ => false

/-- Chunks that stand in a store replay queue (R158). -/
def replayLoad (s : State) (q : Nat) : Nat :=
  (s.faults.flatMap (fun f => if f.answer = some 2 then [] else f.waits.filter (fun w => decide (replayQueue w = some q) && stillParked s w))).length

/-- Whether a store replay queue is full for a turn: one that stands in it, or that is replayed, has its place (R158, R385)
(DESIGN CHOICE, notes/assumptions/16.md). -/
def replayFull (s : State) (q : Nat) (t : Turn) : Bool :=
  decide (Config.replayChunks ≤ replayLoad s q) && decide (s.replayed ≠ some t) && !s.faults.any (fun f => f.waits.any (fun w => decide (w.1 = t)))

/-- Whether a turn is to replay what an older one of its queue, parked on the same page, has yet to replay before it (R158). -/
def replayBehind (s : State) (t : Turn) : Bool :=
  s.faults.any (fun f => decide (f.answer = some 1) && f.waits.any (fun w => decide (w.1 = t) && (replayQueue w).isSome &&
    (f.waits.takeWhile (fun v => decide (v ≠ w))).any (fun v => decide (replayQueue v = replayQueue w) && decide (v.1 ≠ t))))

/-- A turn makes again the accesses that waited on records which were answered with 1. -/
def replayTurn (s : State) (t : Turn) : State :=
  let mine (f : FaultRec) : Bool := decide (f.answer = some 1) && f.waits.any (fun w => decide (w.1 = t))
  { s with
    replayed := if s.faults.any mine then some t else none
    faults := (s.faults.map (fun f => if mine f then { f with waits := f.waits.filter (fun w => decide (w.1 ≠ t)) } else f)).filter
      (fun f => decide (f.answer ≠ some 1) || !f.waits.isEmpty) }

/-! ## Judging a run of bytes (R158, R359) -/

/-- Two findings together: what stops the chunk for now comes first, then the lowest code. -/
def Judged.and (a b : Judged) : Judged :=
  match a, b with
  | .held, _ => .held
  | _, .held => .held
  | .parked, _ => .parked
  | _, .parked => .parked
  | .bad x, .bad y => .bad (min x y)
  | .bad x, _ => .bad x
  | _, b => b

/-- Judges k bytes of a cell's local memory, through its windows where they are reached from outside (R78, R87); a write of part of a
frame meets an entry in error (R172). -/
def judgeLocal (s : State) (owe : FMap Nat) (cell o k : Nat) (remote wr : Bool) : Judged :=
  if remote && (windowRefusal (s.cell cell) o k (if wr then ⟨false, true, false, false⟩ else ⟨true, false, false, false⟩)).isSome then
    .bad 7
  else if !wr && localErr s cell o k then .bad 5
  else if wr && entryErr s cell o && (FMap.find? owe (2048 * cell + o / 1024)).isNone then .bad 5
  else .fine

/-- Judges k bytes of the commons (R97, R359). -/
def judgeCommons (s : State) (cell o k : Nat) (wr : Bool) : Judged :=
  let pl := commonsPlace s (s.partN cell) (dieOf cell) o
  if isHole s (dieOf cell) pl.1 pl.2.1 then .bad 4
  else if !wr && commonsErr s (dieOf cell) pl (o % 64) k then .bad 5
  else .fine

/-- Judges bytes of one page; after a denial other demand faults of the chunk are left alone. -/
def judgePage (s : State) (g : Agent) (va : Word) (k : Nat) (wr red late : Bool) : Judged × State :=
  if pageReplays s g va then (.held, s) else
  let r := if late then translate s g.part g.die g.asid va.toNat (!wr || red) wr false else portXlate s g va (!wr || red) wr
  match r with
  | (.demand, s) => (if late then .fine else .parked, s)
  | (.denied, s) => (.bad 6, s)
  | (.ok pa _ attr, s) =>
    if isSystem pa && !s.linkUp then (.bad 0x0A, s)
    else if red && attr = 2 then (.bad 6, s)
    else if (!wr || red) && physErr s pa k then (.bad 5, s)
    else (.fine, s)

/-- Judges n bytes from an address for a cell's port; the fuel bounds the units. `owe` names the frames that are written whole. -/
def judgeFuel (cell : Nat) (g : Agent) (wr red : Bool) (owe : FMap Nat) : Nat → State → Word → Nat → Judged → Judged × State
  | 0, s, _, _, acc => (acc, s)
  | f + 1, s, va, n, acc =>
    if n = 0 then (acc, s)
    else
      let k := unitBytes va.toNat n
      let go (s : State) (k : Nat) (j : Judged) : Judged × State :=
        judgeFuel cell g wr red owe f s (va + wrap64 k) (n - k) (acc.and j)
      match spaceOf s cell va with
      | .own o => go s k (judgeLocal s owe cell o k false wr)
      | .remote c o => go s k (judgeLocal s owe c o k true wr)
      | .commons o => go s k (judgeCommons s cell o k wr)
      | .lower =>
        let k := pageBytes va n
        let late := match acc with | .bad _ => true | _ => false
        let r := judgePage s g va k wr red late
        go r.2 k r.1
      | _ => go s k (.bad 6)

/-- Judges n bytes from an address, after what has been found about the bytes before them. -/
def judgeRun (s : State) (cell : Nat) (g : Agent) (wr red : Bool) (owe : FMap Nat) (va : Word) (n : Nat) (acc : Judged) : Judged × State :=
  judgeFuel cell g wr red owe (n + 1) s va n acc

/-- Judges n bytes from an address. -/
def judgeBytes (s : State) (cell : Nat) (g : Agent) (wr red : Bool) (va : Word) (n : Nat) : Judged × State :=
  judgeRun s cell g wr red [] va n .fine

/-! ## Moving bytes -/

/-- Reads n bytes that have been judged: of local memories and of the commons what a job has read there, if it has; the fuel bounds
the units. -/
def fetchFuel (cell : Nat) (g : Agent) (got : FMap Nat) : Nat → State → Word → Nat → Nat × State
  | 0, s, _, _ => (0, s)
  | f + 1, s, va, n =>
    if n = 0 then (0, s)
    else
      let k := unitBytes va.toNat n
      let go (v : Nat) (s : State) (k : Nat) : Nat × State :=
        let r := fetchFuel cell g got f s (va + wrap64 k) (n - k)
        (v + 2 ^ (8 * k) * r.1, r.2)
      match spaceOf s cell va with
      | .own o => go ((FMap.find? got (spotKey va k)).getD (localRead s cell o k)) s k
      | .remote c o => go ((FMap.find? got (spotKey va k)).getD (localRead s c o k)) s k
      | .commons o => go ((FMap.find? got (spotKey va k)).getD <| commonsRead s (dieOf cell) (commonsPlace s (s.partN cell) (dieOf cell) o) (o % 64) k) s k
      | .lower =>
        let k := pageBytes va n
        (match translate s g.part g.die g.asid va.toNat true false false with
         | (.ok pa key attr, s) =>
           let r := engineRead s g.die pa k key attr
           go r.1 r.2 k
         | (_, s) => go 0 s k)
      | _ => go 0 s k

/-- Reads n bytes from an address, with what a job has read. -/
def fetchBytes (s : State) (cell : Nat) (g : Agent) (got : FMap Nat) (va : Word) (n : Nat) : Nat × State :=
  fetchFuel cell g got (n + 1) s va n

/-- Writes n bytes that have been judged into the lower half; what is to be written elsewhere is left as units. -/
def storeBytes (s : State) (cell : Nat) (g : Agent) (va : Word) (n v : Nat) : List (Spot × UnitAct) × State :=
  match spaceOf s cell va with
  | .lower => ([], writePagesFuel (n / 65536 + 2) s g va n v)
  | _ =>
    ((spotsOf s cell va n).foldl (fun (acc : List (Spot × UnitAct) × Nat) q =>
      (acc.1 ++ [(q, .write (v / 2 ^ (8 * acc.2) % 2 ^ (8 * q.n)))], acc.2 + q.n)) ([], 0) |>.1, s)

/-- Address in the remote aperture of a cell of a partition; of the own cell where it has no logical number. -/
def remoteVa (s : State) (p cell o : Nat) : Word := 0xFF01000000000000#64 + wrap64 (localSize * s.lcellOf p cell + o)

/-! ## Destinations -/

/-- Cells that a multicast names (R363). -/
def mcCells (cell : Nat) (w : CmdWord) : List Nat :=
  ((List.range 16).filter (fun e => w.w2.getLsbD (32 + e))).map (fun e => cell / 16 * 16 + e)

/-- Own-cell offset of byte b of a ring append (R360). -/
def ringOffset (c : Cell) (r : RingRun) (b : Nat) : Nat :=
  let x := Ring.word c r.q
  let sb := 1024 * 2 ^ Ring.sfr x
  1024 * Ring.frame x ((r.first + b / sb) % Ring.nslots x) + b % sb

/-- The runs of bytes that a segment writes: addresses, with the displacement of each in the segment. The runs of a ring append
stay within a frame. -/
def destRuns (s : State) (cell : Nat) (run : CopyRun) (q : Seg) : List (Word × Nat × Nat) :=
  let w := run.cmd.word
  match run.ring with
  | some r =>
    let b := q.off.toNat
    (List.range (q.nd / 1024 + 2)).filterMap (fun i =>
      let lo := if i = 0 then b else (b / 1024 + i) * 1024
      let hi := min (b + q.nd) ((b / 1024 + i + 1) * 1024)
      if lo < hi then some (ownVa (ringOffset (s.cell cell) r lo), lo - b, hi - lo) else none)
  | none =>
    if Cp.isMc w then
      ((mcCells cell w).filter (fun c => !run.dead.contains c)).map (fun c =>
        let o := ((bits w.w2 20 0 : Int) + q.off).toNat
        (if c = cell then ownVa o else remoteVa s (s.partN cell) c o, 0, q.nd))
    else [(w.w2 + BitVec.ofInt 64 q.off, 0, q.nd)]

/-- Bytes that a copy will write into each frame that it covers whole (R171); those of a ring append's strips among them. -/
def wholeFramesOf (s : State) (cell : Nat) (run : CopyRun) : FMap Nat :=
  let c := s.cell cell
  let strips : List Nat := match run.ring with
    | some r => (List.range r.k).map (fun m => Ring.strip c r.q ((r.first + m) % Ring.nslots (Ring.word c r.q)) % localSize)
    | none => []
  coveredFrames ((List.range run.chunks).flatMap (fun n => (chunkSegs run.cmd.word run.geom n).flatMap (fun q =>
      (destRuns s cell run q).flatMap (fun d => framesOf s cell d.1 d.2.2))) ++
    strips.flatMap (fun o => framesOf s cell (ownVa o) 32))

/-- Notes a failure: the lowest code counts, with its lowest chunk (R350). -/
def CopyRun.failed (r : CopyRun) (code chunk : Nat) : CopyRun :=
  { r with fail := match r.fail with
      | none => some (code, chunk)
      | some (c, k) => if code < c then some (code, chunk) else if code = c then some (c, min k chunk) else some (c, k) }

/-- What a command of a cell's copy port releases: at package scope, the writes of its die that are on their way to their homes
(R125, R134, R138). -/
def atScope (s : State) (cell : Nat) (w : CmdWord) : State := if 2 ≤ Cmd.scope w then flushDie s (dieOf cell) else s

/-- A copy has reached its token point: at package scope its writes have reached their homes (R134); its sequencer learns of it;
the token, and the arrival of a copy that names a barrier, go out; the copy leaves when its token is filled (R350, R369, R371,
R377). -/
def finishCopy (s : State) (cell : Nat) (r : CopyRun) (code info : Nat) (bar : Bool) : State :=
  let w := r.cmd.word
  let s := atScope s cell w
  let s := seqDone (setCopy s cell { r with phase := .completed }) r.core r.cmd
  let sendsBar := bar && r.geom.attr.getLsbD 48
  if Cmd.noTok w && !sendsBar then dropCopy s cell r.serial
  else
    let t : Token := { id := s.nextId, core := 4 * cell + Cmd.tcore w, slot := Cmd.tslot w, reg := Cmd.treg w, gen := Cmd.tgen w
                       status := statusWord code r.flags info, tok := !Cmd.noTok w
                       bar := if sendsBar then some (s.partN cell, bits r.geom.attr 47 42) else none
                       blk := false, copy := some r.serial, scope := 2 + Cmd.scope w }
    ({ s with tokens := s.tokens ++ [t], nextId := s.nextId + 1 }).pushE (.tokenFill s.nextId)

end Sys2Proof.Machine
end

