-- ==== Sys2Proof/Machine/Transfers.lean ====
section
/-! DEFINITION. The copy-queue commands: acceptance and checks, chunks, ring appends, reducing pieces, column reductions,
publications and classifications, the peer transport (spec/17_ref_commands.md R355-R369, spec/06_queues.md R156-R158,
spec/10_edges.md R217-R218, spec/22_prog_matvec.md R377-R378). -/

namespace Sys2Proof.Machine

/-! ## Checks (R350, R355-R368) -/

/-- What the checks of a copy come to. -/
inductive Planned where
  /-- ILLEGAL-FIELD with its word -/
  | bad (word : Nat)
  | zero
  /-- its control block or index list cannot be read: the code -/
  | fault (code : Nat)
  | parked
  | held
  /-- units of its control block, of its index list or of its contribution are to be read first -/
  | reads (l : List Spot)
  | go (r : CopyRun)
  deriving DecidableEq, Repr

/-- Continues with the n bytes at an address once they can be read, and once the units of them that lie in local memories or in the
commons have been read: `got` holds those (R90). -/
def withBytes (s : State) (cell : Nat) (g : Agent) (got : FMap Nat) (va : Word) (n : Nat) (f : Nat → State → Planned × State) :
    Planned × State :=
  match judgeBytes s cell g false false va n with
  | (.parked, s) => (.parked, s)
  | (.held, s) => (.held, s)
  | (.bad c, s) => (.fault c, s)
  | (.fine, s) =>
    let left := (spotsOf s cell va n).filter (fun q => (FMap.find? got q.key).isNone)
    if left.isEmpty then
      let r := fetchBytes s cell g got va n
      f r.1 r.2
    else (.reads left, s)

/-- Words of an entry of the peer table (R217). -/
def State.peerWord (s : State) (n w : Nat) : Word := s.reg (pkgBase + 0x150000 + 0x20 * n + 8 * w)

/-- ARG of an attribute word (R358). -/
def argOk (w : CmdWord) (g : Geom) : Bool :=
  let arg := bits g.attr 41 32
  match Cp.xf w with
  | 1 =>
    (Cp.formats w g.attr).isSome && g.e 0 * Cp.srcBits w g.attr % 8 = 0 && g.e 0 * Cp.dstBits w g.attr % 8 = 0 &&
      (!(Cp.srcBits w g.attr = 6 || Cp.dstBits w g.attr = 6) || g.e 0 % 4 = 0)
  | 3 => (Cp.formats w g.attr).isSome
  | 4 => decide (arg < 16)
  | 5 => decide (arg < 0x1F) && (elemOf arg).isSome
  | _ => arg = 0

/-- The attribute word (R357, R359, R369). -/
def attrOk (s : State) (cell : Nat) (w : CmdWord) (g : Geom) : Bool :=
  let p := s.partN cell
  let n := Cp.peerEntry g.attr
  argOk w g && (!g.attr.getLsbD 48 || (s.barrier p (bits g.attr 47 42)).m ≠ 0) && bits g.attr 63 59 = 0 &&
    (!Cp.peerOn g.attr || ((s.peerWord n 0).getLsbD 63 && bits (s.peerWord n 3) 19 16 = p))

/-- Addresses in the lower half, one for each page that the own side of a peer copy has bytes in; none where that side lies in the upper
half. -/
def ownPages (s : State) (cell : Nat) (w : CmdWord) (g : Geom) : List Word :=
  let src := !Cp.peerSrc g.attr
  let base := if src then w.w1 else w.w2
  if Cp.isFill w || (!src && (Cp.isRing w || Cp.isMc w)) then []
  else
    let n := if src then g.srcRun w else g.dstRun w
    let runs := (Geom.offsets (if src then g.srcSteps else g.dstSteps w)).map (fun o => base + BitVec.ofInt 64 o)
    (runs.flatMap (fun va => (List.range (n / 65536 + 2)).filterMap (fun i =>
      let a := if i = 0 then va.toNat else (va.toNat / 65536 + i) * 65536
      if a < va.toNat + n && regionOf s cell (wrap64 a) = .lower then some (wrap64 (if i = 0 then a else a / 65536 * 65536)) else none))).eraseDups

/-- Whether the own side of a peer copy lies in host memory: both sides would lie outside the package (R359); a page that a demand fault
has yet to bring parks the check (DEDUCED, notes/assumptions/64.md). -/
def peerOutside (s : State) (cell : Nat) (w : CmdWord) (g : Geom) (ag : Agent) : Option Bool × State :=
  if !Cp.peerOn g.attr then (some false, s)
  else
    (ownPages s cell w g).foldl (fun (acc : Option Bool × State) va =>
      match acc.1 with
      | some false =>
        (match agentXlate acc.2 { ag with kind := if Cp.peerSrc g.attr then 4 else 3 } va (!Cp.peerSrc g.attr) (Cp.peerSrc g.attr) with
         | (.ok pa _ _, s) => (some (isSystem pa), s)
         | (.demand, s) => (none, s)
         | (.denied, s) => (some false, s))
      | _ => acc) (some false, s)

/-- Fields of a multicast's word 2 (R363). -/
def mcFields (s : State) (cell : Nat) (w : CmdWord) : Bool :=
  bits w.w2 31 21 = 0 && bits w.w2 63 48 = 0 && bits w.w2 47 32 ≠ 0 &&
    (mcCells cell w).all (fun c => s.partOf c = some (s.partN cell))

/-- Slots that a ring append fills, for a sound ring (R360). -/
def appendSlots (c : Cell) (w : CmdWord) (g : Geom) : Nat :=
  g.count w * Cp.size w / (1024 * 2 ^ Ring.sfr (Ring.word c (bits g.attr 35 32)))

/-- Addresses of word 1 and of word 2 of a box copy whose extents are non-zero. -/
def sourceOk (s : State) (cell : Nat) (w : CmdWord) (g : Geom) : Bool :=
  Cp.isFill w ||
    sideOk s cell w.w1 g.srcSteps (g.srcRun w) (max 1 (Cp.srcBits w g.attr / 8))
      (if Cp.peerOn g.attr && Cp.peerSrc g.attr then [.lower] else anyRegion)

def destOk (s : State) (cell : Nat) (w : CmdWord) (g : Geom) : Bool :=
  let al := max 1 (Cp.dstBits w g.attr / 8)
  if Cp.isRing w then
    w.w2 = 0#64 || (w.w2.toNat % Cp.size w = 0 && regionRun s cell w.w2 (32 * max 1 (appendSlots (s.cell cell) w g)) ≠ .bad)
  else if Cp.isMc w then
    sideOk s cell (ownVa (bits w.w2 20 0)) (g.dstSteps w) (g.dstRun w) al [.own]
  else
    sideOk s cell w.w2 (g.dstSteps w) (g.dstRun w) al
      (if Cp.xf w = 5 then (if Cp.peerOn g.attr && !Cp.peerSrc g.attr then [] else [.own])
       else if Cp.peerOn g.attr && !Cp.peerSrc g.attr then [.lower]
       else if Cp.isRed w then [.own, .remote, .lower]
       else anyRegion)

/-- The ring of an append: well formed, and the source bytes fill whole slots of it (R76, R360). -/
def ringOk (c : Cell) (w : CmdWord) (g : Geom) : Bool :=
  let x := Ring.word c (bits g.attr 35 32)
  !Ring.malformed x && g.count w * Cp.size w % (1024 * 2 ^ Ring.sfr x) = 0

/-- Die of the cell that an address names. -/
def dieAt (s : State) (cell : Nat) (va : Word) : Nat :=
  match spaceOf s cell va with
  | .remote c _ => dieOf c
  | _ => dieOf cell

/-- Die of a port of the peer table's entry of a copy (R9, R217). -/
def peerDie (s : State) (attr : Word) : Nat := bits (s.peerWord (Cp.peerEntry attr) 0) 50 48 / 2

/-- Dies whose ports or streamers count a copy once its box is known: its cell's, those of the cells that hold its source or its
destination, and the die of a peer's port (R193, R359). -/
def copyDies (s : State) (cell : Nat) (r : CopyRun) : List Nat :=
  let w := r.cmd.word
  let peer := Cp.peerOn r.geom.attr && !Cp.isList w
  let segs := (List.range r.chunks).flatMap (chunkSegs w r.geom)
  let src := if Cp.isFill w then [] else if peer && Cp.peerSrc r.geom.attr then [peerDie s r.geom.attr] else segs.map (fun q => dieAt s cell q.src)
  let dst := if peer && !Cp.peerSrc r.geom.attr then [peerDie s r.geom.attr]
    else if Cp.isRing w then [] else segs.flatMap (fun q => (destRuns s cell r q).map (fun d => dieAt s cell d.1))
  (dieOf cell :: src ++ dst).eraseDups

/-- The checks of a box copy once its geometry is known. -/
def planGeom (s : State) (cell : Nat) (r : CopyRun) (ag : Agent) (g : Geom) (sound : Bool) : Planned × State :=
  let w := r.cmd.word
  let aw := if Cp.box w then 4 else 3
  let none0 := (List.range 4).all (fun i => decide (g.e i ≠ 0))
  if none0 && !sourceOk s cell w g then (.bad 1, s)
  else if Cp.isMc w && !mcFields s cell w then (.bad 2, s)
  else if none0 && !destOk s cell w g then (.bad 2, s)
  else if !(sound && attrOk s cell w g) then (.bad aw, s)
  else if !none0 then (.zero, s)
  else
    match peerOutside s cell w g ag with
    | (none, s) => (.parked, s)
    | (some true, s) => (.bad aw, s)
    | (some false, s) =>
      if Cp.isRing w && !ringOk (s.cell cell) w g then (.bad 4, s)
      else
        let r := { r with geom := g, chunks := chunkCount w g }
        let r := { r with dies := copyDies s cell r }
        if Cp.isRing w then (.go { r with phase := .reserve }, s)
        else
          let r := { r with phase := .running }
          (.go { r with owe := wholeFramesOf s cell r }, s)

/-- The first word that fails where word 3 does: words 1 and 2 as far as they can be judged without what word 3 names (R350). -/
def wordBeforeThird (s : State) (cell : Nat) (w : CmdWord) : Nat :=
  let al := if Cp.converts w then 1 else Cp.size w
  let fits (va : Word) : Bool := va.toNat % al = 0 && regionOf s cell va ≠ .bad
  if !Cp.isFill w && !fits w.w1 then 1
  else if (if Cp.isMc w then !mcFields s cell w || bits w.w2 20 0 % al ≠ 0 else !fits w.w2 && !(Cp.isRing w && w.w2 = 0#64)) then 2
  else 3

/-- The checks of a box copy (R356-R364). -/
def planBox (s : State) (cell : Nat) (r : CopyRun) (g : Agent) (got : FMap Nat) : Planned × State :=
  let w := r.cmd.word
  if !Cp.box w then planGeom s cell r g (Geom.inline w.w3) true
  else if bits w.w3 5 0 ≠ 0 || regionRun s cell w.w3 64 = .bad then (.bad (wordBeforeThird s cell w), s)
  else withBytes s cell g got w.w3 64 (fun v s => planGeom s cell r g (Geom.ofBlock v) (Geom.blockOk v))

/-- The checks of `gath` and `scat` (R365) (DEDUCED, notes/assumptions/66.md). -/
def planList (s : State) (cell : Nat) (r : CopyRun) (g : Agent) (got : FMap Nat) : Planned × State :=
  let w := r.cmd.word
  let sz := Cp.size w
  if bits w.w3 2 0 ≠ 0 || regionRun s cell w.w3 8 = .bad then (.bad (wordBeforeThird s cell w), s)
  else withBytes s cell g got w.w3 8 (fun c s =>
    let contiguous (va : Word) : Bool := regionRun s cell va (c * sz) ≠ .bad
    if c = 0 then (.zero, s)
    else if w.w1.toNat % sz ≠ 0 || (Cp.isScat w && !contiguous w.w1) then (.bad 1, s)
    else if w.w2.toNat % sz ≠ 0 || (Cp.isGath w && !contiguous w.w2) then (.bad 2, s)
    else if 2 ^ 32 ≤ c || regionRun s cell w.w3 (8 + 4 * c) = .bad then (.bad 4, s)
    else withBytes s cell g got (w.w3 + 8#64) (4 * c) (fun v s =>
      let xs := lanes 32 v c
      let base := if Cp.isGath w then w.w1 else w.w2
      if xs.all (fun x => x % sz = 0 && regionRun s cell (base + wrap64 x) sz ≠ .bad) then
        let gm : Geom := { Geom.none' with list := xs }
        let r := { r with geom := gm, chunks := chunkCount w gm, phase := .running }
        let r := { r with dies := copyDies s cell r }
        (.go { r with owe := wholeFramesOf s cell r }, s)
      else (.bad 4, s)))

/-- Fields of `coll` (R366). -/
def collCount (w : CmdWord) : Nat := bits w.w3 9 0
def collRid (w : CmdWord) : Nat := bits w.w3 15 10
def collIdx (w : CmdWord) : Nat := bits w.w3 19 16
def collN (w : CmdWord) : Nat := bits w.w3 23 20 + 1

/-- The checks of `coll`; the contribution is read once, as it leaves the port (R366, R378). -/
def planColl (s : State) (cell : Nat) (r : CopyRun) (g : Agent) (got : FMap Nat) : Planned × State :=
  let w := r.cmd.word
  let n := collCount w
  let o := bits w.w1 20 0
  if bits w.w1 63 21 ≠ 0 || o % 4 ≠ 0 || localSize < o + 4 * n then (.bad 1, s)
  else if w.w2.toNat % 4 ≠ 0 || regionRun s cell w.w2 (4 * n) = .bad then (.bad 2, s)
  else if n = 0 || 512 < n || bits w.w3 63 24 ≠ 0 then (.bad 3, s)
  else withBytes s cell g got (ownVa o) (4 * n) (fun v s =>
    (.go { r with phase := .waiting, contrib := (lanes 32 v n).map (BitVec.ofNat 32) }, s))

/-- Frame and count of a pair word (R311). -/
def pairFirst (w : Word) : Nat := bits w 20 10
def pairCount (w : Word) : Nat := bits w 31 21 + 1

/-- The checks of `pubc` (R367). -/
def planPubc (r : CopyRun) : Planned :=
  let w := r.cmd.word
  if !(bits w.w1 9 0 = 0 && bits w.w1 62 32 = 0 && decide (pairFirst w.w1 + 2 * pairCount w.w1 ≤ 2048)) then .bad 1
  else if w.w2 ≠ 0#64 then .bad 2
  else if w.w3 ≠ 0#64 then .bad 3
  else .go { r with phase := .waiting }

/-- The checks of `tclass` (R367). -/
def planTclass (r : CopyRun) : Planned :=
  let w := r.cmd.word
  let n := bits w.w2 11 0
  let code := bits w.w2 20 16
  if bits w.w1 63 21 ≠ 0 || bits w.w1 9 0 ≠ 0 then .bad 1
  else if bits w.w2 15 12 ≠ 0 || bits w.w2 63 21 ≠ 0 || code = 0x1F || (elemOf code).isNone || 2048 < bits w.w1 20 10 + n then .bad 2
  else if w.w3 ≠ 0#64 then .bad 3
  else if n = 0 then .zero
  else .go { r with phase := .running, chunks := n }

/-- The checks of a command, in order of word number (R350). -/
def planOf (s : State) (cell : Nat) (r : CopyRun) (g : Agent) (got : FMap Nat) : Planned × State :=
  let w := r.cmd.word
  if !Cp.word0Ok w then (.bad 0, s)
  else
    match opc w with
    | 0x14 => planList s cell r g got
    | 0x15 => planList s cell r g got
    | 0x16 => planColl s cell r g got
    | 0x18 => (planPubc r, s)
    | 0x19 => (planTclass r, s)
    | _ => planBox s cell r g got

/-- The first step of a copy that has passed its checks. -/
def firstStep (cell : Nat) (r : CopyRun) : Instr :=
  match r.phase with
  | .reserve => .ringReserve cell r.serial
  | .waiting => if opc r.cmd.word = 0x16 then .collArrival cell r.serial else .copyChunk cell r.serial 0
  | _ => .copyChunk cell r.serial 0

/-- Makes the checks of a copy with what has been read for them. -/
def planWith (s : State) (cell : Nat) (r : CopyRun) (got : FMap Nat) : State :=
  let ev := Turn.event (.copyChunk cell r.serial 0)
  let g := portAgent s cell false ev
  match planOf s cell r g got with
  | (.bad w, s) => finishCopy s cell r 3 w false
  | (.zero, s) =>
    let box := if Cp.box r.cmd.word then Geom.ofBlock (fetchBytes s cell g got r.cmd.word.w3 64).1 else Geom.inline r.cmd.word.w3
    finishCopy s cell (if Cp.isList r.cmd.word || opc r.cmd.word = 0x19 then r else { r with geom := box }) 1 0 true
  | (.fault c, s) => finishCopy s cell r c 0 false
  | (.parked, s) => s
  | (.held, s) => s.push [ev]
  | (.reads l, s) => openJob s { id := 0, cell := cell, turn := ev, serial := some r.serial, got := got } (l.map (fun q => (q, .read)))
  | (.go r, s) => (setCopy s cell r).pushE (firstStep cell r)

/-- Makes the checks of a copy (DEDUCED, notes/assumptions/63.md), for which its control block, its index list and its contribution are
read as a chunk is. -/
def planCopy (s : State) (cell : Nat) (r : CopyRun) : State :=
  match s.jobOf cell (.event (.copyChunk cell r.serial 0)) with
  | none => planWith s cell r []
  | some j =>
    if jobOpen s j.id then s
    else
      match j.fail with
      | some c => finishCopy (dropJob s j.id) cell r c 0 false
      | none => planWith (dropJob s j.id) cell r j.got

/-! ## Chunks (R359) -/

/-- Whether the source of a copy, or its destination, lies at a peer. -/
def fromPeer (r : CopyRun) : Bool := Cp.peerOn r.geom.attr && Cp.peerSrc r.geom.attr && !Cp.isFill r.cmd.word
def toPeer (r : CopyRun) : Bool := Cp.peerOn r.geom.attr && !fromPeer r

/-- Judges the sources and destinations of segments: of the failures among them the lowest code counts (R350). -/
def judgeSegs (s : State) (cell : Nat) (r : CopyRun) (t : Turn) (src dst : Bool) (qs : List Seg) : Judged × State :=
  let gr := portAgent s cell false t
  let gw := portAgent s cell true t
  qs.foldl (fun (acc : Judged × State) q =>
    if acc.1 = .parked || acc.1 = .held then acc
    else
      let a := if src then judgeRun acc.2 cell gr false false [] q.src q.ns acc.1 else acc
      if !dst then a
      else
        (destRuns a.2 cell r q).foldl (fun (acc : Judged × State) d =>
          judgeRun acc.2 cell gw true (Cp.isRed r.cmd.word) r.owe d.1 d.2.2 acc.1) a) (.fine, s)

/-- Converts the elements of a segment (R51, R358). -/
def convertRun (w : CmdWord) (g : Geom) (v ns : Nat) : Nat × FlagBits :=
  if Cp.xf w ≠ 1 then (v, 0#5)
  else
    match Cp.formats w g.attr with
    | none => (v, 0#5)
    | some (a, b) =>
      let xs := (lanes a.width v (8 * ns / a.width)).map (fun x => convertElem a b .rn (Cp.sat w) (elemValue a x 0 false))
      (packLanes b.width (xs.map (·.1)), xs.foldl (fun f x => f ||| x.2) 0#5)

/-- Applies one element at its line's home, in one step (R135). -/
def reduceAt (s : State) (g : Agent) (r : CopyRun) (va : Word) (n v : Nat) : State × FlagBits :=
  match translate s g.part g.die g.asid va.toNat true true false with
  | (.ok pa key attr, s) =>
    let old := homeRead s g.die pa n key attr
    let z := reduceElem r.cmd.word r.geom old.1 v
    (homeWrite old.2 pa n z.1 key none, z.2)
  | (_, s) => (s, 0#5)

/-- What is left to be done at the units of local memories and of the commons, the state, and the copy. -/
abbrev Moved := List (Spot × UnitAct) × State × CopyRun

/-- Applies the elements of a segment in ascending order (R362): those of the lower half now, those of a local memory at its units. -/
def reduceSeg (s : State) (cell : Nat) (g : Agent) (r : CopyRun) (q : Seg) (v : Nat) : Moved :=
  let sb := Cp.srcBits r.cmd.word r.geom.attr
  let db := Cp.dstBits r.cmd.word r.geom.attr / 8
  let va := r.cmd.word.w2 + BitVec.ofInt 64 q.off
  if regionOf s cell va = .lower then
    let z := (List.range (q.nd / db)).foldl (fun (acc : State × FlagBits) i =>
      let t := reduceAt acc.1 g r (va + wrap64 (i * db)) db (lane sb v i)
      (t.1, acc.2 ||| t.2)) (s, 0#5)
    ([], z.1, { r with flags := r.flags ||| z.2 })
  else
    (((spotsOf s cell va q.nd).foldl (fun (acc : List (Spot × UnitAct) × Nat) p =>
      (acc.1 ++ [(p, .reduce (v / 2 ^ (sb * (acc.2 / db)) % 2 ^ (sb * (p.n / db))))], acc.2 + p.n)) ([], 0)).1, s, r)

/-- The bytes of a segment's source: the fill value, the bytes that a peer sent, or what stands at its address, of which `got` holds what
has been read at units. -/
def segBytes (s : State) (cell : Nat) (g : Agent) (r : CopyRun) (got : FMap Nat) (q : Seg) (sent : Option Nat) : Nat × State :=
  let w := r.cmd.word
  if Cp.isFill w then (packLanes (8 * Cp.size w) (List.replicate (q.ns / Cp.size w) (w.w1.toNat % 2 ^ (8 * Cp.size w))), s)
  else
    match sent with
    | some v => (v % 2 ^ (8 * q.ns), s)
    | none => fetchBytes s cell g got q.src q.ns

/-- Moves the segments of a chunk; `sent` holds the bytes that a peer sent for what is left of it. -/
def moveSegs (s : State) (cell : Nat) (r : CopyRun) (t : Turn) (got : FMap Nat) (sent : Option Nat) (qs : List Seg) : Moved :=
  let gr := portAgent s cell false t
  let gw := portAgent s cell true t
  let w := r.cmd.word
  let z := qs.foldl (fun (acc : Moved × Option Nat) q =>
    let (us, s, r) := acc.1
    let v := segBytes s cell gr r got q acc.2
    let left := acc.2.map (fun x => x / 2 ^ (8 * q.ns))
    if Cp.isRed w then
      let t := reduceSeg v.2 cell gw r q v.1
      ((us ++ t.1, t.2), left)
    else
      let c := convertRun w r.geom v.1 q.ns
      let t := (destRuns v.2 cell r q).foldl (fun (st : List (Spot × UnitAct) × State) d =>
        let p := storeBytes st.2 cell gw d.1 d.2.2 (c.1 / 2 ^ (8 * d.2.1) % 2 ^ (8 * d.2.2))
        (st.1 ++ p.1, p.2)) (us, v.2)
      ((t.1, t.2, { r with flags := r.flags ||| c.2 }), left)) (([], s, r), sent)
  z.1

/-- The code by which a chunk says what it is for the peer: 0 a plain write, 1 + (BF16 source) + 2 × (BF16 destination) a reducing one,
5 and the number of bytes that it asks for. -/
def sentKind (r : CopyRun) (qs : List Seg) : Nat :=
  let bf (code : Nat) : Nat := if code = 1 then 1 else 0
  if fromPeer r then 5 + (qs.map (·.ns)).foldl (· + ·) 0
  else if Cp.isRed r.cmd.word then 1 + bf (Cp.srcCode r.geom.attr) + 2 * bf (Cp.dstCode r.geom.attr)
  else 0

/-- A chunk leaves for a peer (R217, R359): with its converted bytes, or for a reducing copy with its elements, or asking for those of
its source; the copy takes what the conversion raises (R51, R358). -/
def sendSegs (s : State) (cell : Nat) (r : CopyRun) (n : Nat) (t : Turn) (got : FMap Nat) (qs : List Seg) : State × CopyRun :=
  let e := Cp.peerEntry r.geom.attr
  let z := if fromPeer r then (([] : List Byte), s, r) else
    qs.foldl (fun (acc : List Byte × State × CopyRun) q =>
      let (bs, s, r) := acc
      let v := segBytes s cell (portAgent s cell false t) r got q none
      if Cp.isRed r.cmd.word then (bs ++ toBytes q.ns v.1, v.2, r)
      else
        let c := convertRun r.cmd.word r.geom v.1 q.ns
        (bs ++ toBytes q.nd c.1, v.2, { r with flags := r.flags ||| c.2 })) ([], s, r)
  let m : SentChunk :=
    { cell := cell, serial := r.serial, chunk := n, entry := e, rpart := bits (s.peerWord e 3) 23 20, red := sentKind r qs
      runs := qs.map (fun q => if fromPeer r then (q.src, q.ns) else (r.cmd.word.w2 + BitVec.ofInt 64 q.off, q.nd)), bytes := z.1 }
  ({ z.2.1 with peerSent := z.2.1.peerSent ++ [m] }, { z.2.2 with acks := z.2.2.acks ++ [n] })

/-- Dies at which lines of n bytes from a lower-half address are homed: their channel streamers take part in a copy (R193, R359). -/
def lineDies (s : State) (g : Agent) (va : Word) (n : Nat) : List Nat :=
  if va.getLsbD 56 || n = 0 then []
  else
    ((List.range (n / 128 + 2)).filterMap (fun i =>
      let a := if i = 0 then va.toNat else (va.toNat / 128 + i) * 128
      if a < va.toNat + n then
        (match translate s g.part g.die g.asid a true false false with
         | (.ok pa _ _, _) => some (homeDie s pa)
         | _ => none)
      else none)).eraseDups

/-- Notes the dies whose streamers send a chunk's source. -/
def noteDies (s : State) (cell : Nat) (r : CopyRun) (t : Turn) (qs : List Seg) : CopyRun :=
  if Cp.isFill r.cmd.word then r
  else { r with dies := (r.dies ++ qs.flatMap (fun q => lineDies s (portAgent s cell false t) q.src q.ns)).eraseDups }

/-- Whether a chunk needs translation (R158): bytes of its own side lie in the lower half. -/
def needsXlate (s : State) (cell : Nat) (r : CopyRun) (src dst : Bool) (qs : List Seg) : Bool :=
  qs.any (fun q => (src && regionOf s cell q.src = .lower) ||
    (dst && (destRuns s cell r q).any (fun d => regionOf s cell d.1 = .lower)))

/-- Notes the cells of a multicast that refuse a chunk: nothing more is written there, and the others go on (R363). -/
def markDead (s : State) (cell : Nat) (r : CopyRun) (n : Nat) (qs : List Seg) : CopyRun :=
  if !Cp.isMc r.cmd.word then r
  else
    let refuses (c : Nat) : Bool := c ≠ cell && qs.any (fun q =>
      (windowRefusal (s.cell c) ((bits r.cmd.word.w2 20 0 : Int) + q.off).toNat q.nd ⟨false, true, false, false⟩).isSome)
    let new := (mcCells cell r.cmd.word).filter (fun c => !r.dead.contains c && refuses c)
    if new.isEmpty then r else { r.failed 7 n with dead := r.dead ++ new }

/-- Frames that a classifying copy touches. -/
def touchedFrames (s : State) (cell : Nat) (r : CopyRun) : List Nat :=
  ((List.range r.chunks).map (fun n => ((chunkSegs r.cmd.word r.geom n).map (fun q =>
    ((destRuns s cell r q).map (fun d => (framesOf s cell d.1 d.2.2).map (·.1))).flatten)).flatten)).flatten.eraseDups

/-- The classify transform at a copy's last unit (R358). -/
def classifyCopy (s : State) (cell : Nat) (r : CopyRun) : State :=
  if Cp.xf r.cmd.word ≠ 5 || r.fail.isSome then s
  else
    (touchedFrames s cell r).foldl (fun s f =>
      s.modCell (f / 2048) (fun c => Loc.setFmt c (Loc.mapFrame c (f % 2048)) (bits r.geom.attr 36 32))) s

/-- Whether units of a copy are still being served. -/
def copyWorks (s : State) (cell : Nat) (r : CopyRun) : Bool := s.jobs.any (fun j => j.cell = cell && j.serial = some r.serial)

/-- Ends a copy of which nothing is left to do: its token point (R134, R350). -/
def settleCopy (s : State) (cell : Nat) (r : CopyRun) : State :=
  let landed := match r.ring with | some q => r.fail.isSome || r.landings.length = 2 * q.k | none => true
  if r.phase = .running && decide (r.chunks ≤ r.next) && r.parked.isEmpty && r.acks.isEmpty && r.owed.isEmpty && landed && !copyWorks s cell r then
    match r.fail with
    | some (c, n) => finishCopy s cell r c n true
    | none => finishCopy (classifyCopy s cell r) cell r 0 0 true
  else setCopy s cell r

/-- A chunk has been issued: the next one is due. -/
def chunkIssued (r : CopyRun) (n : Nat) : CopyRun := if n = r.next then { r with next := n + 1 } else r

/-- The step of the next chunk, where chunk n was the one before it. -/
def nextChunk (s : State) (cell : Nat) (r : CopyRun) (n : Nat) : State :=
  if r.next = n + 1 && decide (r.next < r.chunks) then s.pushE (.copyChunk cell r.serial r.next) else s

/-- Owners of the pieces of a reducing chunk: a cell's local memory, or a run of 512 bytes (R362). -/
def ownerOf (s : State) (cell : Nat) (va : Word) : Nat × Nat :=
  match spaceOf s cell va with
  | .own _ => (1, cell)
  | .remote c _ => (1, c)
  | _ => (0, va.toNat / 512)

/-- The parts of a segment by owner, cut at 512 bytes of its destination. -/
def ownerParts (s : State) (cell : Nat) (r : CopyRun) (q : Seg) : List ((Nat × Nat) × Seg) :=
  let sb := Cp.srcBits r.cmd.word r.geom.attr
  let db := Cp.dstBits r.cmd.word r.geom.attr
  let a := (r.cmd.word.w2 + BitVec.ofInt 64 q.off).toNat
  (List.range (q.nd / 512 + 2)).filterMap (fun i =>
    let lo := if i = 0 then 0 else (a / 512 + i) * 512 - a
    let hi := min q.nd ((a / 512 + i + 1) * 512 - a)
    if lo < hi then
      some (ownerOf s cell (wrap64 (a + lo)),
        (⟨q.l + 8 * lo / db, q.src + wrap64 (lo * sb / db), q.off + (lo : Int), (hi - lo) * sb / db, hi - lo⟩ : Seg))
    else none)

/-- The parts of a chunk, and its pieces in order of first appearance. -/
def chunkParts (s : State) (cell : Nat) (r : CopyRun) (n : Nat) : List ((Nat × Nat) × Seg) :=
  ((chunkSegs r.cmd.word r.geom n).map (ownerParts s cell r)).flatten
def chunkPieces (s : State) (cell : Nat) (r : CopyRun) (n : Nat) : List (Nat × Nat) :=
  ((chunkParts s cell r n).map (·.1)).eraseDups

/-- The slots of a ring append whose data chunk n completes (R157, R360). -/
def chunkSlots (s : State) (cell : Nat) (q : RingRun) (n : Nat) : List Nat :=
  let per := 4 / 2 ^ Ring.sfr (Ring.word (s.cell cell) q.q)
  (List.range per).filterMap (fun i => if per * n + i < q.k then some (per * n + i) else none)

/-- A chunk whose runs have been judged fine goes: to the peer, or piece by piece to its owners, or as a whole, of which what is left is
done at units (R359, R362). -/
def sendChunk (s : State) (cell : Nat) (r : CopyRun) (n : Nat) (t : Turn) (got : FMap Nat) (qs : List Seg) :
    List (Spot × UnitAct) × State :=
  let r := chunkIssued { r with parked := r.parked.erase n } n
  if fromPeer r || toPeer r then
    let z := sendSegs s cell r n t got qs
    ([], nextChunk (setCopy z.1 cell z.2) cell r n)
  else if Cp.isRed r.cmd.word then
    let ps := List.range (chunkPieces s cell r n).length
    let s := setCopy s cell { r with owed := r.owed ++ ps.map (fun k => (n, k)) }
    ([], nextChunk (ps.foldl (fun s k => s.pushE (.reducePieceApply cell r.serial n k)) s) cell r n)
  else
    let z := moveSegs s cell r t got none qs
    (z.1, nextChunk (setCopy z.2.1 cell z.2.2) cell z.2.2 n)

/-- The data of a chunk has reached a ring's slots: they may be landed now (R157). -/
def slotsArrived (s : State) (cell : Nat) (r : CopyRun) (n : Nat) : State :=
  match r.ring with
  | some q => (chunkSlots s cell q n).foldl (fun s m => s.pushE (.ringLanding cell r.serial m false)) s
  | none => s

/-- A chunk's units have been served: its slots may land, and the copy may be at its end. -/
def chunkDone (cell serial n : Nat) (s : State) : State :=
  match s.copyOf cell serial with
  | none => s
  | some r => settleCopy (if fromPeer r || toPeer r || Cp.isRed r.cmd.word then s else slotsArrived s cell r n) cell r

/-- A failure drops the chunks that have not been issued (R359). -/
def dropRest (r : CopyRun) (code n : Nat) : CopyRun := { r.failed code n with next := r.chunks, parked := r.parked.erase n }

/-- Whether an earlier chunk of a `scat` names an element of chunk n and has yet to be written: entries of one element are written in
ascending order (R365). -/
def scatBehind (s : State) (cell : Nat) (r : CopyRun) (n : Nat) : Bool :=
  let xs (k : Nat) : List Int := (chunkSegs r.cmd.word r.geom k).map (·.off)
  Cp.isScat r.cmd.word && (List.range n).any (fun k =>
    (r.parked.contains k || (s.jobOf cell (.event (.copyChunk cell r.serial k))).isSome) && (xs k).any (xs n).contains)

/-- What stops a chunk of a copy: it waits, is parked, or fails (R158, R359). -/
def stopChunk (cell serial n : Nat) (v : Judged) (s : State) : State :=
  match s.copyOf cell serial with
  | none => s
  | some r =>
    match v with
    | .fine => s
    | .held => s.pushE (.copyChunk cell serial n)
    | .parked =>
      let r' := chunkIssued { r with parked := r.parked.erase n ++ [n] } n
      nextChunk (setCopy s cell r') cell r' n
    | .bad c => settleCopy s cell (dropRest r c n)

/-- Issues or replays chunk n of a copy; with the replay queue full, none that needs translation is issued (R158)
(DESIGN CHOICE, notes/assumptions/16.md). -/
def runChunk (s : State) (cell : Nat) (r : CopyRun) (n : Nat) : State :=
  let ev := Instr.copyChunk cell r.serial n
  let qs := chunkSegs r.cmd.word r.geom n
  let src := !Cp.isFill r.cmd.word && !fromPeer r
  let dst := !fromPeer r && !toPeer r
  let held := qs ++ (if src then chunkTail r.cmd.word r.geom n else [])
  let now (s : State) : CopyRun := (s.copyOf cell r.serial).getD r
  if scatBehind s cell r n || (replayFull s cell (.event ev) && needsXlate s cell r src (!toPeer r) qs) then s.pushE ev
  else
    portWork (setCopy s cell (markDead s cell r n qs))
      { id := 0, cell := cell, turn := .event ev, serial := some r.serial, fmt := copyFmt r }
      (if !src || (Cp.isRed r.cmd.word && !toPeer r) then [] else held.flatMap (fun q => spotsOf s cell q.src q.ns))
      (fun s => judgeSegs s cell (now s) (.event ev) src dst held)
      (stopChunk cell r.serial n)
      (fun got s => sendChunk s cell (if src then noteDies s cell (now s) (.event ev) qs else now s) n (.event ev) got qs)
      (chunkDone cell r.serial n)

/-- `tclass` takes its frames in ascending order, each once its units have been read; an error in one ends it (R84, R90, R171, R367)
(DEDUCED, notes/assumptions/67.md). -/
def runTclass (s : State) (cell : Nat) (r : CopyRun) (i : Nat) : State :=
  let w := r.cmd.word
  let f := bits w.w1 20 10 + i
  portWork s { id := 0, cell := cell, turn := .event (.copyChunk cell r.serial i), serial := some r.serial }
    ((List.range 16).map (fun u => ⟨false, cell, 1024 * f + 64 * u, 64, u⟩))
    (fun s => (.fine, s))
    (fun v s => match v with | .bad c => settleCopy s cell { r.failed c (i / 4) with next := r.chunks } | _ => s)
    (fun _ s => ([], s.modCell cell (fun c => Loc.setFmt c (Loc.mapFrame c f) (bits w.w2 20 16))))
    (fun s => let r := chunkIssued r i; settleCopy (nextChunk s cell r i) cell r)

/-- `pubc` acts as `pub` once every earlier command of its queue has completed, as a release at its scope (R138, R367). -/
def runPubc (s : State) (cell : Nat) (r : CopyRun) : State :=
  let w := r.cmd.word.w1
  let f := pairFirst w
  let n := pairCount w
  if (s.cell cell).copies.any (fun q => q.core = r.core && decide (q.serial < r.serial) && decide (q.phase ≠ .completed)) then
    s.pushE (.copyChunk cell r.serial 0)
  else if w.getLsbD 63 then
    finishCopy (s.modCell cell (fun c => { c with pairs := c.pairs.filter (fun e => e.first ≠ f) })) cell r 0 0 false
  else if pairRefused (s.cell cell) f n then finishCopy s cell r 3 1 false
  else finishCopy ((atScope s cell r.cmd.word).modCell cell (fun c => flipPair c f n)) cell r 0 0 false

/-- COPY_CHUNK (R158, R359): chunk n of a copy; before its chunks, its checks. -/
def execCopyChunk (cell serial chunk : Nat) (s : State) : Host.Outcome State Fault Refusal :=
  match s.copyOf cell serial with
  | none => .next s
  | some r =>
    .next (whenRunning s cell (.copyChunk cell serial chunk)
      (match r.phase with
       | .plan => planCopy s cell r
       | .running =>
         if !(decide (chunk = r.next ∧ chunk < r.chunks) || r.parked.contains chunk ||
             (s.jobOf cell (.event (.copyChunk cell serial chunk))).isSome) then s
         else if opc r.cmd.word = 0x19 then runTclass s cell r chunk
         else runChunk s cell r chunk
       | .waiting => if opc r.cmd.word = 0x18 then runPubc s cell r else s
       | _ => s))

/-! ## Acceptance (R156) -/

/-- A copy as the port accepts it. -/
def newCopy (serial core : Nat) (c : Cmd) : CopyRun :=
  { serial := serial, core := core, cmd := c, phase := .plan, geom := Geom.none', next := 0, chunks := 0, parked := [], acks := []
    attempts := [], owed := [], applied := [], ring := none, landings := [], owe := [], dead := [], contrib := []
    dies := [dieOf (core / 4)], flags := 0#5, fail := none }

/-- The copy queue of the current core hands its head, if it is the given word, to the cell's copy port; at 64 copies in flight
the queues stop (R156). A forked copy of package or system scope reads only after the writes of the commands that its program has
waited for have reached their homes (R134). -/
def handOver (w : CmdWord) (s : State) : Host.Outcome State Fault Refusal :=
  let core := coreOf s.cur
  let cell := core / 4
  match (s.core core).cq with
  | [] => .next s
  | c :: rest =>
    if c.word ≠ w || decide (Config.copiesPerCell ≤ (s.cell cell).copies.length) then .next s
    else if (clockStop (s.cell cell)).isSome then .next (s.push [.copy core])
    else
      let r := newCopy s.nextId core c
      let s := { s with nextId := s.nextId + 1 }
      let s := s.modCore core (fun k => { k with cq := rest })
      let s := s.modCell cell (fun x => { x with copies := x.copies ++ [r] })
      let s := if rest.isEmpty then s else s.push [.copy core]
      .next (planCopy (if c.forked then atScope s cell w else s) cell r)

/-- COPY (R356, R359). -/
def execCopy (w : CmdWord) (s : State) : Host.Outcome State Fault Refusal := handOver w s
/-- COPY_RING_APPEND (R360). -/
def execCopyRingAppend (w : CmdWord) (s : State) : Host.Outcome State Fault Refusal := handOver w s
/-- COPY_RED (R361). -/
def execCopyRed (w : CmdWord) (s : State) : Host.Outcome State Fault Refusal := handOver w s
/-- COPY_MC (R363). -/
def execCopyMc (w : CmdWord) (s : State) : Host.Outcome State Fault Refusal := handOver w s
/-- FILL (R364). -/
def execFill (w : CmdWord) (s : State) : Host.Outcome State Fault Refusal := handOver w s
/-- GATH (R365). -/
def execGath (w : CmdWord) (s : State) : Host.Outcome State Fault Refusal := handOver w s
/-- SCAT (R365). -/
def execScat (w : CmdWord) (s : State) : Host.Outcome State Fault Refusal := handOver w s
/-- COLL (R366). -/
def execColl (w : CmdWord) (s : State) : Host.Outcome State Fault Refusal := handOver w s
/-- PUBC (R367). -/
def execPubc (w : CmdWord) (s : State) : Host.Outcome State Fault Refusal := handOver w s
/-- TCLASS (R367). -/
def execTclass (w : CmdWord) (s : State) : Host.Outcome State Fault Refusal := handOver w s

/-! ## Ring appends (R157, R360) -/

def Cell.ringOf (c : Cell) (q : Nat) : RingHidden := FMap.get RingHidden.init c.rings q
def Cell.setRing (c : Cell) (q : Nat) (h : RingHidden) : Cell := { c with rings := FMap.put c.rings q h }

/-- Whether an earlier append to the same ring, or one whose ring is not yet known, has still to reserve its slots. -/
def appendBehind (c : Cell) (r : CopyRun) (q : Nat) : Bool :=
  c.copies.any (fun o => decide (o.serial < r.serial) && Cp.isRing o.cmd.word &&
    (o.phase = .plan || (o.phase = .reserve && bits o.geom.attr 35 32 = q)))

/-- RING_RESERVE (R157). -/
def execRingReserve (cell serial : Nat) (s : State) : Host.Outcome State Fault Refusal :=
  let ev := Instr.ringReserve cell serial
  match s.copyOf cell serial with
  | none => .next s
  | some r =>
    let c := s.cell cell
    let q := bits r.geom.attr 35 32
    let x := Ring.word c q
    let h := c.ringOf q
    let k := appendSlots c r.cmd.word r.geom
    .next (whenRunning s cell ev
      (if r.phase ≠ .reserve then s
       else if appendBehind c r q || decide (Ring.nslots x < Ring.cnt x + h.reserved + k) then s.pushE ev
       else
         let at_ := Ring.cnt x + h.reserved
         let rr : RingRun := { q := q, first := (Ring.head x + at_) % Ring.nslots x, seq := (Ring.hseq x + at_) % 256, k := k }
         let s := s.modCell cell (fun c => c.setRing q { h with reserved := h.reserved + k })
         let r := { r with phase := .running, ring := some rr }
         let r := { r with owe := wholeFramesOf s cell r }
         let s := (setCopy s cell r).pushE (.copyChunk cell serial 0)
         (List.range k).foldl (fun s m => s.pushE (.ringLanding cell serial m true)) s))

/-- COUNT rises over the run of landed slots that follows it; the fuel counts slots (R157). -/
def watermark (q : Nat) : Nat → Cell → Cell
  | 0, c => c
  | n + 1, c =>
    let x := Ring.word c q
    let h := c.ringOf q
    let slot := (Ring.head x + Ring.cnt x) % Ring.nslots x
    if h.reserved ≠ 0 && (FMap.find? h.dataLanded slot).isSome && (FMap.find? h.scaleLanded slot).isSome then
      let c := { c with q := FMap.put c.q q (setBits x 46 35 (Ring.cnt x + 1)) }
      watermark q n (c.setRing q { h with
        reserved := h.reserved - 1, dataLanded := FMap.del h.dataLanded slot, scaleLanded := FMap.del h.scaleLanded slot })
    else c

/-- Notes the landing of the data or of the strip of a slot, with the sequence number that it carries. -/
def land (c : Cell) (rr : RingRun) (m : Nat) (scale : Bool) : Cell :=
  let x := Ring.word c rr.q
  let h := c.ringOf rr.q
  let slot := (rr.first + m) % Ring.nslots x
  let sq := BitVec.ofNat 8 (rr.seq + m)
  let h := if scale then { h with scaleLanded := FMap.put h.scaleLanded slot sq, sseq := FMap.put h.sseq slot sq }
    else { h with dataLanded := FMap.put h.dataLanded slot sq, dseq := FMap.put h.dseq slot sq }
  watermark rr.q (Ring.nslots x) (c.setRing rr.q h)

/-- The chunk that fills slot m of an append. -/
def slotChunk (c : Cell) (rr : RingRun) (m : Nat) : Nat := m * 1024 * 2 ^ Ring.sfr (Ring.word c rr.q) / 4096

/-- The strip of slot m arrives: 32 bytes from the scale source, or of 0x7F (R360). -/
def landStrip (s : State) (cell : Nat) (r : CopyRun) (rr : RingRun) (m : Nat) (ev : Instr) : State :=
  let va := r.cmd.word.w2 + wrap64 (32 * m)
  let fixed : Bool := decide (r.cmd.word.w2 = 0#64)
  let g := portAgent s cell false (.event ev)
  let c := s.cell cell
  let o := Ring.strip c rr.q ((rr.first + m) % Ring.nslots (Ring.word c rr.q)) % localSize
  let now (s : State) : CopyRun := (s.copyOf cell r.serial).getD r
  if !fixed && replayFull s cell (.event ev) && regionOf s cell va = .lower then s.pushE ev
  else
    portWork s { id := 0, cell := cell, turn := .event ev, serial := some r.serial, fmt := copyFmt r }
      (if fixed then [] else spotsOf s cell va 32)
      (fun s =>
        if entryErr s cell o && (FMap.find? (now s).owe (2048 * cell + o / 1024)).isNone then (.bad 5, s)
        else if fixed then (.fine, s)
        else judgeBytes s cell g false false va 32)
      (fun v s => match v with
        | .fine => s
        | .held => s.pushE ev
        | .parked => s
        | .bad code => settleCopy s cell (dropRest (now s) code (slotChunk c rr m)))
      (fun got s =>
        let v := if fixed then (packLanes 8 (List.replicate 32 0x7F), s) else fetchBytes s cell g got va 32
        ([(⟨false, cell, o, 32, 0⟩, .write v.1)], v.2))
      (fun s =>
        let s := s.modCell cell (fun c => land c rr m true)
        settleCopy (s.push [.matrix cell]) cell { now s with landings := (now s).landings ++ [(m, true)] })

/-- RING_LANDING (R157): slot n of an append, its data or its scale strip. -/
def execRingLanding (cell serial n : Nat) (scale : Bool) (s : State) : Host.Outcome State Fault Refusal :=
  let ev := Instr.ringLanding cell serial n scale
  match s.copyOf cell serial with
  | none => .next s
  | some r =>
    match r.ring with
    | none => .next s
    | some rr =>
      .next (whenRunning s cell ev
        (if r.phase ≠ .running || r.landings.contains (n, scale) then s
         else if scale then landStrip s cell r rr n ev
         else
           let s := (s.modCell cell (fun c => land c rr n false)).push [.matrix cell]
           settleCopy s cell { r with landings := r.landings ++ [(n, false)] }))

/-! ## Reducing pieces (R362) -/

/-- REDUCE_PIECE_APPLY (R135, R362): a piece whose record bit is set is dropped; else its elements are applied, in a local memory at the
units of its port, and the bit set
(DEDUCED, notes/assumptions/65.md). -/
def execReducePieceApply (cell serial chunk piece : Nat) (s : State) : Host.Outcome State Fault Refusal :=
  let ev := Instr.reducePieceApply cell serial chunk piece
  match s.copyOf cell serial with
  | none => .next s
  | some r =>
    if r.applied.contains (chunk, piece) || !r.owed.contains (chunk, piece) then .next s
    else
      let key := (chunkPieces s cell r chunk)[piece]?
      let qs := ((chunkParts s cell r chunk).filter (fun q => some q.1 = key)).map (·.2)
      let now (s : State) : CopyRun := (s.copyOf cell serial).getD r
      .next (whenRunning s cell ev
        (if replayFull s cell (.event ev) && needsXlate s cell r true true qs then s.pushE ev
         else
           portWork s { id := 0, cell := cell, turn := .event ev, serial := some serial, fmt := copyFmt r }
             (qs.flatMap (fun q => spotsOf s cell q.src q.ns))
             (fun s => judgeSegs s cell (now s) (.event ev) true true qs)
             (fun v s => match v with
               | .fine => s
               | .held => s.pushE ev
               | .parked => s
               | .bad c => settleCopy s cell { dropRest (now s) c chunk with owed := (now s).owed.erase (chunk, piece) })
             (fun got s =>
               let z := moveSegs s cell (now s) (.event ev) got none qs
               (z.1, setCopy z.2.1 cell z.2.2))
             (fun s => settleCopy s cell
               { now s with owed := (now s).owed.erase (chunk, piece), applied := (now s).applied ++ [(chunk, piece)] })))

/-! ## Column reductions (R57, R366) -/

/-- The column instance that a contribution of a cell goes to. -/
def collMatch (s : State) (cell : Nat) (w : CmdWord) (c : Coll) : Bool :=
  c.part = s.partN cell && c.die = dieOf cell && c.col = cell % 16 && c.rid = collRid w

/-- An instance is complete: the frames that its result covers whole are noted with contributor 0's copy (R171). -/
def oweResult (s : State) (c : Coll) : State :=
  match c.parts.find? (fun q => q.1 = 0) with
  | none => s
  | some z =>
    match s.copyOf z.2.1.1 z.2.1.2 with
    | some r => setCopy s z.2.1.1 { r with owe := coveredFrames (framesOf s z.2.1.1 c.dst (4 * c.count)) }
    | none => s

/-- COLL_ARRIVAL (R366): a contribution reaches its column. -/
def execCollArrival (cell serial : Nat) (s : State) : Host.Outcome State Fault Refusal :=
  match s.copyOf cell serial with
  | none => .next s
  | some r =>
    let w := r.cmd.word
    let part : Nat × (Nat × Nat) × List (BitVec 32) := (collIdx w, (cell, serial), r.contrib)
    let full (c : Coll) : Bool := c.parts.length = c.n
    let go (s : State) (c : Coll) : State :=
      if full c then (oweResult s c).pushE (.collResultWrite c.die c.col c.rid) else s
    if r.phase ≠ .waiting || opc w ≠ 0x16 then .next s
    else
      match s.colls.find? (collMatch s cell w) with
      | none =>
        if collN w ≤ collIdx w then .next (finishCopy s cell r 3 3 false)
        else
          let c : Coll := { part := s.partN cell, die := dieOf cell, col := cell % 16, rid := collRid w, n := collN w
                            count := collCount w, dst := w.w2, parts := [part] }
          .next (go { s with colls := s.colls ++ [c] } c)
      | some c =>
        if c.parts.any (fun q => q.1 = collIdx w) || full c then .next (s.pushE (.collArrival cell serial))
        else if c.dst ≠ w.w2 then .next (finishCopy s cell r 3 2 false)
        else if c.count ≠ collCount w || c.n ≠ collN w || c.n ≤ collIdx w then .next (finishCopy s cell r 3 3 false)
        else
          let c' := { c with parts := c.parts ++ [part] }
          .next (go { s with colls := s.colls.map (fun q => if collMatch s cell w q then c' else q) } c')

/-- The result of a complete instance and the flags of its nodes (R57); a signalling NaN raises NV also where no node combines it
(R55). -/
def collResult (c : Coll) : List Nat × FlagBits :=
  let leaf (m i : Nat) : Option Fp :=
    (c.parts.find? (fun q => q.1 = i)).map (fun q => decodeFloat fF32 (getAt 0#32 q.2.2 m).toNat)
  let zs := (List.range c.count).map (fun m =>
    let xs := (List.range c.n).map (leaf m)
    let t := treeFold (sumNode .rn) 4 xs
    (Vec.exactF32 (t.1.getD Fp.zero), t.2 ||| flagIf (xs.any (fun x => (x.map Fp.isSig).getD false)) FlagBits.nv))
  (zs.map (·.1), zs.foldl (fun f z => f ||| z.2) 0#5)

/-- Writes one element of a result at its line's home (R135, R366). -/
def writeElem (s : State) (g : Agent) (va : Word) (v : Nat) : State :=
  match translate s g.part g.die g.asid va.toNat false true false with
  | (.ok pa key attr, s) => homeWrite (dropReplica (countSlice s (homeDie s pa) (lineOf pa) key attr) g.die (lineOf pa)) pa 4 v key none
  | (_, s) => s

/-- Writes the elements of a result in the lower half in ascending order until one fails or waits, counting them. -/
def writeResult (cell : Nat) (g : Agent) : List (Word × Nat) → Nat → State → Judged × Nat × State
  | [], k, s => (.fine, k, s)
  | (va, v) :: rest, k, s =>
    match judgeBytes s cell g true false va 4 with
    | (.fine, s) => writeResult cell g rest (k + 1) (writeElem s g va v)
    | (j, s) => (j, k, s)

/-- Leading elements of a result against whose writing there is nothing. -/
def elemsFine (cell : Nat) (g : Agent) (owe : FMap Nat) : List (Word × Nat) → State → List (Word × Nat)
  | [], _ => []
  | (va, v) :: rest, s =>
    match judgeRun s cell g true false owe va 4 .fine with
    | (.fine, s) => (va, v) :: elemsFine cell g owe rest s
    | _ => []

/-- The instance of a column whose result is being written, as it now stands. -/
def sameColl (c d : Coll) : Bool := c.part = d.part && c.die = d.die && c.col = d.col && c.rid = d.rid && decide (c.parts = d.parts)

/-- k more elements of a result have been written. -/
def wroteElems (s : State) (c : Coll) (k : Nat) : State :=
  { s with colls := s.colls.map (fun d => if sameColl c d then { d with written := d.written + k } else d) }

/-- An instance has ended: its contributors' tokens follow (R366). -/
def closeColl (s : State) (c : Coll) (code : Nat) : State :=
  let fl := (collResult c).2
  c.parts.foldl (fun s q =>
    match s.copyOf q.2.1.1 q.2.1.2 with
    | some k => finishCopy s q.2.1.1 { k with flags := if code = 0 then fl else 0#5 } code 0 false
    | none => s) { s with colls := s.colls.filter (fun d => !sameColl c d) }

/-- Elements of a result that are still to be written, with their addresses. -/
def collLeft (c : Coll) : List (Word × Nat) :=
  ((List.range c.count).map (fun m => (c.dst + wrap64 (4 * m), getAt 0 (collResult c).1 m))).drop c.written

/-- The turn once, if it is not due already. -/
def pushOnce (s : State) (ev : Instr) : State := if s.work.contains (.event ev) then s else s.pushE ev

/-- Writes the result of an instance as far as it can be written: of the lower half now, elsewhere at units of the copy port of
contributor 0's cell (R90, R366). Frames that it covers whole are written as a copy writes them (R171). -/
def runColl (ev : Instr) (s : State) (c : Coll) : State :=
  match c.parts.find? (fun q => q.1 = 0) with
  | none => s
  | some z =>
    let cell := z.2.1.1
    let g := { portAgent s cell true (.event ev) with who := cell }
    let stop (v : Judged) (s : State) : State :=
      match v with
      | .held => pushOnce s ev
      | .bad code => closeColl s c code
      | _ => s
    if (clockStop (s.cell cell)).isSome then pushOnce s ev
    else if regionOf s cell c.dst = .lower then
      if replayFull s cell (.event ev) then pushOnce s ev
      else
        match writeResult cell g (collLeft c) 0 s with
        | (.fine, _, s) => closeColl s c 0
        | (v, k, s) => stop v (wroteElems s c k)
    else
      let owe := ((s.copyOf cell z.2.1.2).map (·.owe)).getD []
      let es (s : State) : List (Word × Nat) := elemsFine cell g owe (collLeft c) s
      portWork s { id := 0, cell := cell, turn := .event ev, serial := some z.2.1.2 } []
        (fun s => match collLeft c with
          | [] => (.fine, s)
          | e :: _ => judgeRun s cell g true false owe e.1 4 .fine)
        stop
        (fun _ s => ((es s).flatMap (fun e => (storeBytes s cell g e.1 4 e.2).1), wroteElems s c (es s).length))
        (fun s =>
          match s.colls.find? (sameColl c) with
          | some d => if d.written = d.count then closeColl s d 0 else pushOnce s ev
          | none => s)

/-- COLL_RESULT_WRITE (R366): the copy port of contributor 0's cell writes the result; every contributor's token follows. -/
def execCollResultWrite (die col rid : Nat) (s : State) : Host.Outcome State Fault Refusal :=
  .next ((s.colls.filter (fun c => c.die = die && c.col = col && c.rid = rid && c.parts.length = c.n)).foldl
    (runColl (.collResultWrite die col rid)) s)

/-! ## The peer transport (R217, R218) -/

/-- Codes of the failures that a peer's answer can bring (R350, R359). -/
def peerCode (code : Nat) : Nat := if [5, 6, 7, 0xA].contains code then code else 7

/-- A chunk is no longer waited for. -/
def peerDone (r : CopyRun) (chunk : Nat) : CopyRun := { r with acks := r.acks.erase chunk, attempts := FMap.del r.attempts chunk }

/-- What was sent of a copy that some chunks no longer wait for is let go (R218). -/
def forgetSent (s : State) (cell serial : Nat) (p : Nat → Bool) : State :=
  { s with peerSent := s.peerSent.filter (fun m => !(m.cell = cell && m.serial = serial && p m.chunk)) }

/-- A chunk's answer has been taken. -/
def peerSettle (s : State) (cell : Nat) (r : CopyRun) (chunk : Nat) : State :=
  settleCopy (forgetSent s cell r.serial (fun n => n = chunk)) cell (peerDone r chunk)

/-- Whether another answer to a chunk is being written. -/
def answerOpen (s : State) (cell serial chunk : Nat) (t : Turn) : Bool :=
  s.jobs.any (fun j => decide (j.turn ≠ t) && (match j.turn with
    | .later (.peerAck c n k _ _) => c = cell && n = serial && k = chunk
    | _ => false))

/-- PEER_ACK_RECEIVE (R218): a peer acknowledges a chunk, with the flags of the elements that it applied (R58), or sends the bytes of
one that was read from it, or answers with a failure. Bytes whose destination is parked or stopped wait here (R158, R200). -/
def execPeerAckReceive (cell serial chunk : Nat) (status : Word) (bytes : List Byte) (s : State) :
    Host.Outcome State Fault Refusal :=
  match s.copyOf cell serial with
  | none => .next s
  | some r =>
    let t := Turn.later (.peerAck cell serial chunk status bytes)
    let code := bits status 7 0
    if !r.acks.contains chunk || answerOpen s cell serial chunk t then .next s
    else if code ≠ 0 then .next (peerSettle s cell (dropRest r (peerCode code) chunk) chunk)
    else if !fromPeer r then .next (peerSettle s cell { r with flags := r.flags ||| BitVec.ofNat 5 (bits status 12 8) } chunk)
    else
      let qs := chunkSegs r.cmd.word r.geom chunk
      let now (s : State) : CopyRun := (s.copyOf cell serial).getD r
      .next (if replayFull s cell t && needsXlate s cell r false true qs then s.push [t]
        else
          portWork s { id := 0, cell := cell, turn := t, serial := some serial, fmt := copyFmt r } []
            (fun s => judgeSegs s cell (now s) t false true qs)
            (fun v s => match v with
              | .fine => s
              | .held => s.push [t]
              | .parked => s
              | .bad c => peerSettle s cell (dropRest (now s) c chunk) chunk)
            (fun _ s =>
              let z := moveSegs s cell (now s) t [] (some (ofBytes bytes)) qs
              (z.1, setCopy z.2.1 cell z.2.2))
            (fun s => peerSettle (slotsArrived s cell (now s) chunk) cell (now s) chunk))

/-- PEER_RETRANSMIT_TIMEOUT (R218): the chunk is sent again, at most 16 times; then the copy ends as unreachable and no later chunk of
it goes (DEDUCED, notes/assumptions/69.md). -/
def execPeerRetransmitTimeout (cell serial chunk : Nat) (s : State) : Host.Outcome State Fault Refusal :=
  match s.copyOf cell serial with
  | none => .next s
  | some r =>
    let n := FMap.get 0 r.attempts chunk
    if !r.acks.contains chunk then .next s
    else if n < Config.peerAttempts then .next (setCopy s cell { r with attempts := FMap.put r.attempts chunk (n + 1) })
    else
      .next (settleCopy (forgetSent s cell serial (fun _ => true)) cell { dropRest r 8 chunk with acks := [], attempts := [], parked := [] })

/-- The entry of the peer table that admits a chunk (R217). -/
def admitting (s : State) (addr : BitVec 128) (udp : BitVec 16) (rpart : Nat) : Option Nat :=
  (List.range 256).find? (fun n =>
    (s.peerWord n 0).getLsbD 63 && s.peerWord n 1 = addr.extractLsb' 0 64 && s.peerWord n 2 = addr.extractLsb' 64 64 &&
      bits (s.peerWord n 3) 15 0 = udp.toNat && bits (s.peerWord n 3) 19 16 = rpart)

/-- The Ethernet engine of a port, translating an arriving chunk under its entry's ASID (R217); `t` is the chunk's turn. -/
def peerAgent (s : State) (n rpart : Nat) (wr : Bool) (t : Turn) : Agent :=
  let d := bits (s.peerWord n 0) 50 48 / 2
  { part := rpart, die := d, asid := bits (s.peerWord n 3) 36 24, kind := if wr then 4 else 3
    source := 4096 * 6 + 1024 * d + 960 + 48 + 4 * (bits (s.peerWord n 0) 50 48 % 2), again := t }

/-- Judges the pages of an arriving chunk: a demand fault parks it in the host-link agent's replay queue (R158). -/
def peerPages (g : Agent) (wr red : Bool) : Nat → State → Word → Nat → Judged × State
  | 0, s, _, _ => (.fine, s)
  | f + 1, s, va, n =>
    if n = 0 then (.fine, s)
    else if !canonical va || va.getLsbD 56 then (.bad 6, s)
    else
      let k := pageBytes va n
      if pageReplays s g va then (.held, s) else
      match portXlate s g va (!wr || red) wr with
      | (.ok pa _ attr, s) =>
        if isSystem pa && !s.linkUp then (.bad 0xA, s)
        else if red && attr = 2 then (.bad 6, s)
        else if (!wr || red) && physErr s pa k then (.bad 5, s)
        else peerPages g wr red f s (va + wrap64 k) (n - k)
      | (.demand, s) => (.parked, s)
      | (.denied, s) => (.bad 6, s)

/-- Formats of an arriving reducing chunk, by its code: 1 + (BF16 source) + 2 × (BF16 destination). -/
def peerFormats (red : Nat) : FloatFmt × FloatFmt :=
  (if (red - 1) % 2 = 1 then fBF16 else fF32, if (red - 1) / 2 % 2 = 1 then fBF16 else fF32)

/-- Applies the bytes of an arriving chunk, and answers what their elements raise; a reducing one element by element at the lines'
homes (R58, R135). -/
def peerApply (s : State) (g : Agent) (va : Word) (red : Nat) (bytes : List Byte) : State × FlagBits :=
  if red = 0 then (flushDie (writePagesFuel (bytes.length / 65536 + 2) s g va bytes.length (ofBytes bytes)) g.die, 0#5)
  else
    let f := peerFormats red
    let n := bytes.length * 8 / (Elem.float f.1).width
    (List.range n).foldl (fun (acc : State × FlagBits) i =>
      let a := va + wrap64 (i * ((Elem.float f.2).width / 8))
      match translate acc.1 g.part g.die g.asid a.toNat true true false with
      | (.ok pa key attr, s) =>
        let old := homeRead s g.die pa ((Elem.float f.2).width / 8) key attr
        let z := (fpAdd .rn (decodeFloat f.2 old.1) (decodeFloat f.1 (lane (Elem.float f.1).width (ofBytes bytes) i))).round f.2 .rn false
        (homeWrite old.2 pa ((Elem.float f.2).width / 8) z.1 key none, acc.2 ||| z.2)
      | (_, s) => (s, acc.2)) (s, 0#5)

/-- Bytes that an arriving chunk writes, or that it asks for. -/
def peerSize (red : Nat) (bytes : List Byte) : Nat :=
  if red = 0 then bytes.length
  else if 5 ≤ red then red - 5
  else bytes.length * 8 / (Elem.float (peerFormats red).1).width * ((Elem.float (peerFormats red).2).width / 8)

/-- Chunks of peers that are parked in the host-link agent's replay queue (R158). -/
def peersParked (s : State) : Nat := replayLoad s hostLink

/-- PEER_CHUNK_RECEIVE (R217, R218): the engine that receives a chunk admits it by its peer table and translates it; what it writes is
applied once, what it asks for is read, and the answer names the outcome. A chunk that arrives again is answered again
(DESIGN CHOICE, notes/assumptions/15.md), and one whose entry has an ASID outside its partition's range is refused (DESIGN CHOICE,
notes/assumptions/111.md). -/
def execPeerChunkReceive (peer srcCell serial chunk : Nat) (addr : BitVec 128) (udp : BitVec 16) (rpart : Nat) (va : Word)
    (red : Nat) (bytes : List Byte) (s : State) : Host.Outcome State Fault Refusal :=
  let t := Turn.later (.peerChunk peer srcCell serial chunk addr udp rpart va red bytes)
  let answer (s : State) (code : Nat) (f : BitVec 5) (bs : List Byte) : State :=
    { s with peerOut := some { peer := peer, srcCell := srcCell, serial := serial, chunk := chunk, code := code, flags := f, bytes := bs } }
  match admitting s addr udp rpart with
  | none => .next (answer s 7 0#5 [])
  | some n =>
    let wr := red < 5
    let g := peerAgent s n rpart wr t
    let size := peerSize red bytes
    if g.asid < s.asidLo rpart || s.asidHi rpart < g.asid then .next (answer s 7 0#5 [])
    else if wr && s.peerSeen.any (fun q => decide (q.1 = (peer, srcCell, serial, chunk))) then
      .next (answer s 0 (((s.peerSeen.find? (fun q => decide (q.1 = (peer, srcCell, serial, chunk)))).map (·.2)).getD 0#5) [])
    else if (s.fabricOf g.die).step.isSome || replayFull s hostLink t then
      .next (s.push [t])
    else
      .next (match peerPages g wr (wr && red ≠ 0) (size / 65536 + 2) s va size with
        | (.fine, s) =>
          if wr then
            let z := peerApply s g va red bytes
            answer { z.1 with peerSeen := z.1.peerSeen ++ [((peer, srcCell, serial, chunk), z.2)] } 0 z.2 []
          else
            (match readVirt s g va size with
             | (.val v, s) => answer s 0 0#5 (toBytes size v)
             | (_, s) => answer s 6 0#5 [])
        | (.bad c, s) => answer s c 0#5 []
        | (.held, s) => s.push [t]
        | (.parked, s) => s)

end Sys2Proof.Machine
end

