-- ==== Sys2Proof/Machine/Sequencers.lean ====
section
/-! DEFINITION. The command sequencers of forked programs: fetch, loops, jumps, waits, signals, end (spec/17_ref_commands.md
R370-R371, spec/15_ref_threads_system.md R304-R306). -/

namespace Sys2Proof.Machine

/-! ## Programs -/

/-- The matrix sequencer of a core, or its copy sequencer. -/
def State.seqOf (s : State) (core : Nat) (cp : Bool) : Option Seq := if cp then (s.core core).seqC else (s.core core).seqM

/-- Which of a core's sequencers has the turn: `cur` is its core's slot 1 for the copy sequencer, slot 0 for the matrix one. -/
def curSeq (s : State) : Bool := slotIx s.cur = 1

def setSeq (s : State) (core : Nat) (cp : Bool) (q : Option Seq) : State :=
  s.modCore core (fun c => if cp then { c with seqC := q } else { c with seqM := q })

/-- Ends a program: its status and the index of its last word, for `rdv` (R306). -/
def endSeq (s : State) (core : Nat) (cp : Bool) (q : Seq) (st : Nat) : State :=
  let ix := if st = 1 then 0 else (q.next + 2 ^ 59 - 1) % 2 ^ 59
  (setSeq s core cp none).modSlot q.sid (fun x =>
    if x.gen = q.gen then
      { x with fork := x.fork.map (fun f => if cp then { f with cst := st, cfail := ix } else { f with mst := st, mfail := ix }) }
    else x)

/-- The step in which a sequencer fetches. -/
def fetchStep (core : Nat) (cp : Bool) : Instr := .sequencerFetch (core / 4) (core % 4) cp

/-- A program is to end with a status once its commands have completed (R242, R371). -/
def closeSeq (s : State) (core : Nat) (cp : Bool) (q : Seq) (st : Nat) : State :=
  (setSeq s core cp (some { q with word := none, ending := some st })).pushE (fetchStep core cp)

/-- A program goes on with its next fetch. -/
def goOn (s : State) (core : Nat) (cp : Bool) (q : Seq) : State :=
  (setSeq s core cp (some { q with word := none })).pushE (fetchStep core cp)

/-! ## Loops (R370) -/

/-- Word index modulo 2^59: 32 bytes each, modulo 2^64 (DEDUCED, notes/assumptions/68.md). -/
def seqWrap (n : Nat) : Nat := n % 2 ^ 59

/-- At the end of the innermost body: the next iteration begins there, or the loop ends and its enclosing one is looked at. -/
def turnLoops : List SeqLoop → Nat → List SeqLoop × Nat
  | [], next => ([], next)
  | l :: ls, next =>
    if next ≠ seqWrap (l.first + l.body) then (l :: ls, next)
    else if l.i + 1 < l.count then ({ l with i := l.i + 1 } :: ls, l.first)
    else turnLoops ls next

/-- A program at the word that it fetches next. -/
def Seq.turned (q : Seq) : Seq :=
  let r := turnLoops q.loops q.next
  { q with loops := r.1, next := r.2 }

/-- Index registers after the loops have turned: a loop's register holds its iteration (R370). -/
def indexAfter (old : List Nat) (ls : List SeqLoop) : List Nat :=
  (List.range 4).map (fun i => match ls.find? (fun l => l.idx = i) with | some l => l.i | none => getAt 0 old i)

def setIndex (s : State) (core : Nat) (cp : Bool) (ls : List SeqLoop) : State :=
  s.modCore core (fun c => if cp then { c with indexC := indexAfter c.indexC ls } else { c with indexM := indexAfter c.indexM ls })

/-- What the active loops add to word 1 and to word 2. -/
def adjusted (q : Seq) (w : CmdWord) : CmdWord :=
  { w with
    w1 := q.loops.foldl (fun v l => v + wrap64 l.i * l.s1) w.w1
    w2 := q.loops.foldl (fun v l => v + wrap64 l.i * l.s2) w.w2 }

/-! ## Fetch -/

/-- Word 0 of a sequencer command: FLAGS, SCOPE and the token fields zero, NOTOK set (R370). -/
def seqWord0Ok (w : CmdWord) : Bool :=
  bits w.w0 15 8 = 0 && bits w.w0 23 22 = 0 && Cmd.noTok w && Cmd.word0Ok w

/-- Whether a matrix command names an accumulator that its slot has claimed (R74). -/
def claimOk (x : Slot) (cp : Bool) (w : CmdWord) : Bool := cp || x.aown.getLsbD (Cmd.acc w)

/-- Places a fetched command: where `enq.m` or `enq.c` would trap the program ends with status 2; where they would stall or park
the sequencer stalls (R242, R303, R370). -/
def placeWord (s : State) (core : Nat) (cp : Bool) (q : Seq) (w : CmdWord) : State :=
  let x := s.slot q.sid
  let queue := if cp then 1 else 0
  let on := { q with next := seqWrap (q.next + 1) }
  let w := adjusted q w
  if !cmdOk queue w || !claimOk x cp w then closeSeq s core cp on 2
  else
    match tokenTarget s (core / 4) w with
    | .bound _ => closeSeq s core cp on 2
    | .gone _ => closeSeq s core cp on 2
    | .owed => s.pushE (fetchStep core cp)
    | t =>
      if queueFull s core queue then s.pushE (fetchStep core cp)
      else
        let c : Cmd := { word := Cmd.withColour w q.colr, sid := q.sid, gen := q.gen, fc := bits x.tfmt 14 10, forked := true }
        appendCmd (oweToken (goOn s core cp { on with owed := on.owed + 1 }) t) core queue c

/-- What a fetched word is: a sequencer command waits to be carried out, a command is placed. -/
def fetchedWord (s : State) (core : Nat) (cp : Bool) (q : Seq) (w : CmdWord) : State :=
  let on := { q with next := seqWrap (q.next + 1) }
  if Cmd.queueOf w = some 2 then
    if seqWord0Ok w then (setSeq s core cp (some { on with word := some w })).push [.control core cp] else closeSeq s core cp on 2
  else placeWord s core cp q w

/-- A program fetches its next word with its slot's translation (R304). -/
def fetchNext (s : State) (core : Nat) (cp : Bool) (q : Seq) : State :=
  let ev := fetchStep core cp
  let q := q.turned
  let s := setIndex (setSeq s core cp (some q)) core cp q.loops
  let g := progAgent s core 0 false ev
  let va := q.base + wrap64 (32 * q.next)
  match judgeBytes s (core / 4) g false false va 32 with
  | (.held, s) => s.pushE ev
  | (.parked, s) => s
  | (.bad _, s) => closeSeq s core cp { q with next := seqWrap (q.next + 1) } 3
  | (.fine, s) =>
    let r := fetchBytes s (core / 4) g [] va 32
    let f (i : Nat) : Word := wrap64 (r.1 / 2 ^ (64 * i) % 2 ^ 64)
    fetchedWord r.2 core cp q ⟨f 0, f 1, f 2, f 3⟩

/-- SEQUENCER_FETCH (R304, R306, R370). -/
def execSequencerFetch (cell core : Nat) (copyProg : Bool) (s : State) : Host.Outcome State Fault Refusal :=
  let k := 4 * cell + core
  let ev := Instr.sequencerFetch cell core copyProg
  match s.seqOf k copyProg with
  | none => .next s
  | some q =>
    let x := s.slot q.sid
    .next (whenRunning s cell ev
      (if x.gen ≠ q.gen || !x.isLive then setSeq s k copyProg none
       else if q.word.isSome then s
       else
         match q.ending with
         | some st => if q.owed = 0 then endSeq s k copyProg q st else s.pushE ev
         | none => fetchNext s k copyProg q))

/-! ## Sequencer commands (R370, R371) -/

/-- The program of the current core whose turn it is, passed to `f` where it is to carry this word out; otherwise the turn
passes. -/
def withSeq (w : CmdWord) (s : State) (f : Nat → Bool → Seq → State → State) : Host.Outcome State Fault Refusal :=
  let core := coreOf s.cur
  let cp := curSeq s
  match s.seqOf core cp with
  | some q =>
    if q.word ≠ some w then .next s
    else if (clockStop (s.cell (core / 4))).isSome then .next (s.push [.control core cp])
    else .next (f core cp q s)
  | none => .next s

/-- SEQ_JMP. -/
def seqJmp (w : CmdWord) (core : Nat) (cp : Bool) (q : Seq) (s : State) : State :=
  let t := (((q.next : Int) - 1 + signedN 32 (bits w.w1 31 0)) % (2 ^ 59 : Nat)).toNat
  let stays := match q.loops with
    | [] => true
    | l :: _ => decide (seqWrap (t + 2 ^ 59 - l.first) < l.body)
  if bits w.w1 63 32 ≠ 0 || w.w2 ≠ 0#64 || w.w3 ≠ 0#64 || !stays then closeSeq s core cp q 2
  else goOn s core cp { q with next := t }

def execSeqJmp (w : CmdWord) (s : State) : Host.Outcome State Fault Refusal := withSeq w s (seqJmp w)

/-- SEQ_LOOP. -/
def seqLoop (w : CmdWord) (core : Nat) (cp : Bool) (q : Seq) (s : State) : State :=
  let n := bits w.w1 31 0
  let idx := bits w.w1 33 32
  let body := bits w.w1 47 36
  let inside := match q.loops with
    | [] => true
    | l :: _ => decide (seqWrap (q.next + 2 ^ 59 - l.first) + body ≤ l.body)
  if bits w.w1 35 34 ≠ 0 || bits w.w1 63 48 ≠ 0 || body = 0 || !inside || q.loops.any (fun l => l.idx = idx) then
    closeSeq s core cp q 2
  else if n = 0 then goOn s core cp { q with next := seqWrap (q.next + body) }
  else
    let ls := loopOf w q.next :: q.loops
    goOn (setIndex s core cp ls) core cp { q with loops := ls }

def execSeqLoop (w : CmdWord) (s : State) : Host.Outcome State Fault Refusal := withSeq w s (seqLoop w)

/-- SEQ_WAIT_OWN: until every earlier command of the program has completed. -/
def seqWaitOwn (w : CmdWord) (core : Nat) (cp : Bool) (q : Seq) (s : State) : State :=
  if bits w.w1 63 2 ≠ 0 || w.w2 ≠ 0#64 || w.w3 ≠ 0#64 then closeSeq s core cp q 2
  else if q.owed = 0 then goOn s core cp q
  else s.push [.control core cp]

def execSeqWaitOwn (w : CmdWord) (s : State) : Host.Outcome State Fault Refusal := withSeq w s (seqWaitOwn w)

/-- A signal counter of a program's fork. -/
def sigOf (s : State) (q : Seq) (n : Nat) : Nat :=
  match (s.slot q.sid).fork with
  | some f => getAt 0 f.sigs n
  | none => 0

/-- SEQ_WAIT_SIG: until sig ≥ v. -/
def seqWaitSig (w : CmdWord) (core : Nat) (cp : Bool) (q : Seq) (s : State) : State :=
  if bits w.w1 63 3 ≠ 0 || bits w.w2 63 32 ≠ 0 || w.w3 ≠ 0#64 then closeSeq s core cp q 2
  else if bits w.w2 31 0 ≤ sigOf s q (bits w.w1 1 0) then goOn s core cp q
  else s.push [.control core cp]

def execSeqWaitSig (w : CmdWord) (s : State) : Host.Outcome State Fault Refusal := withSeq w s (seqWaitSig w)

/-- SEQ_SIG: after every earlier command of the program has completed, sig += 1. -/
def seqSig (w : CmdWord) (core : Nat) (cp : Bool) (q : Seq) (s : State) : State :=
  let n := bits w.w1 1 0
  if bits w.w1 63 2 ≠ 0 || w.w2 ≠ 0#64 || w.w3 ≠ 0#64 then closeSeq s core cp q 2
  else if q.owed ≠ 0 then s.push [.control core cp]
  else
    goOn (s.modSlot q.sid (fun x => { x with
      fork := x.fork.map (fun f => { f with sigs := (List.range 4).map (fun i => getAt 0 f.sigs i + (i = n : Bool).toNat) }) })) core cp q

def execSeqSig (w : CmdWord) (s : State) : Host.Outcome State Fault Refusal := withSeq w s (seqSig w)

/-- SEQ_END: waits as `seq.wait own`, then the program ends with status 1. -/
def seqEnd (w : CmdWord) (core : Nat) (cp : Bool) (q : Seq) (s : State) : State :=
  if w.w1 ≠ 0#64 || w.w2 ≠ 0#64 || w.w3 ≠ 0#64 then closeSeq s core cp q 2
  else if q.owed = 0 then endSeq s core cp q 1
  else s.push [.control core cp]

def execSeqEnd (w : CmdWord) (s : State) : Host.Outcome State Fault Refusal := withSeq w s (seqEnd w)

end Sys2Proof.Machine
end

