-- ==== Sys2Proof/Machine/Vector.lean ====
section
/-! DEFINITION. The vector instructions: issue, start, completion, memory accesses, the loop buffer, forked vector programs
(spec/16_ref_vector.md R320-R348, spec/01_machine.md R15, spec/15_ref_threads_system.md R304-R306). -/

namespace Sys2Proof.Machine

/-! ## What an instruction is -/

/-- Whether an instruction is a vector memory access (R341). -/
def isVecMem (i : Instr) : Bool :=
  match i with
  | .vld _ _ _ => true
  | .vst _ _ _ => true
  | .vlds _ _ _ _ _ => true
  | .vgath _ _ _ _ _ => true
  | .vscat _ _ _ _ _ => true
  | _ => false

/-- Whether it stores. -/
def isVecStore (i : Instr) : Bool :=
  match i with
  | .vst _ _ _ => true
  | .vscat _ _ _ _ _ => true
  | _ => false

/-- Whether it is checked at issue: `vld` and `vst` (R342). -/
def isVecBlock (i : Instr) : Bool :=
  match i with
  | .vld _ _ _ => true
  | .vst _ _ _ => true
  | _ => false

/-! ## Units of an access (R341-R343) -/

/-- One unit or element of an access: its index, address, bytes, and the lowest bit of the register that it holds. -/
structure VUnit where
  i : Nat
  va : Word
  n : Nat
  lo : Nat
  deriving DecidableEq, Repr

/-- The eight 64-B units of 512 bytes. -/
def units64 (ea : Word) : List VUnit := (List.range 8).map (fun i => ⟨i, ea + wrap64 (64 * i), 64, 512 * i⟩)

/-- 512 bytes as parts of 128-B lines (R343). -/
def unitsLine (ea : Word) : List VUnit :=
  if ea.toNat % 128 = 0 then (List.range 4).map (fun i => ⟨i, ea + wrap64 (128 * i), 128, 1024 * i⟩)
  else
    [⟨0, ea, 64, 0⟩, ⟨1, ea + wrap64 64, 128, 512⟩, ⟨2, ea + wrap64 192, 128, 1536⟩, ⟨3, ea + wrap64 320, 128, 2560⟩,
      ⟨4, ea + wrap64 448, 64, 3584⟩]

/-- The elements of the active lanes, in ascending order (R341, R342). -/
def unitsLane (x : Slot) (w p : Nat) (addr : Nat → Word) : List VUnit :=
  ((List.range (Vec.laneCount w)).filter (Vec.active w (x.pval p).toNat)).map (fun i => ⟨i, addr i, w / 8, i * w⟩)

/-- The 32-bit index of a lane (R341). -/
def laneIndex (x : Slot) (b i : Nat) : Word := wrap64 (lane 32 (x.vval (b + i / 128)).toNat (i % 128))

/-- Element width of a queued instruction. -/
def VItem.width (it : VItem) : Nat :=
  match vecFormat it.instr it.vfmt it.rmode with
  | some (el, _, _) => el.width
  | none => 32

/-- The units of an access as its checks see them. -/
def VItem.units (x : Slot) (it : VItem) : List VUnit :=
  match it.instr with
  | .vld _ _ _ => units64 it.x
  | .vst _ _ _ => units64 it.x
  | .vlds _ _ _ p _ => unitsLane x it.width p.toNat (fun i => it.x + wrap64 i * it.y)
  | .vgath _ _ b p _ => unitsLane x it.width p.toNat (fun i => it.x + laneIndex x b.toNat i)
  | .vscat _ _ b p _ => unitsLane x it.width p.toNat (fun i => it.x + laneIndex x b.toNat i)
  | _ => []

/-- The units of an access as they are served: whole lines in the lower half (R343). -/
def VItem.served (x : Slot) (it : VItem) : List VUnit :=
  if isVecBlock it.instr && !it.x.getLsbD 56 then unitsLine it.x else it.units x

/-- The register that a load writes or a store reads. -/
def VItem.dataReg (it : VItem) : Nat :=
  match it.instr with
  | .vld d _ _ => d.toNat
  | .vst d _ _ => d.toNat
  | .vlds d _ _ _ _ => d.toNat
  | .vgath d _ _ _ _ => d.toNat
  | .vscat d _ _ _ _ => d.toNat
  | _ => 0

/-- The access that serves a unit, with the store's data taken from `data`. -/
def unitOp (store : Bool) (data : Nat) (u : VUnit) : MemOp :=
  if store then .store u.n ((data >>> u.lo) % 2 ^ (8 * u.n)) else .load u.n false

/-- The checks of R275 on a unit, made for a slot: the answer that they give where one fails (R342)
(DEDUCED, notes/assumptions/23.md). -/
def unitCheck (s : State) (sid : Nat) (i : Instr) (u : VUnit) : Option Halt :=
  let w : Want := { dst := none, op := unitOp (isVecStore i) 0 u, acq := false, rel := false, scope := 0, plain := false }
  match addrCheck { s with cur := sid } u.va w with
  | .ok _ => none
  | .error h => some h

/-- The first unit, in ascending order, that fails its checks. -/
def firstFailing (s : State) (sid : Nat) (i : Instr) (us : List VUnit) : Option (VUnit × Halt) :=
  us.findSome? (fun u => (unitCheck s sid i u).map (fun h => (u, h)))

/-- Whether a unit is judged by its checks alone: no window and no translation follows (R274, R344). -/
def judgedHere (s : State) (sid : Nat) (u : VUnit) : Bool :=
  match spaceOf s (cellOfSlot sid) u.va with
  | .own _ => true
  | .commons _ => true
  | _ => false

/-- The trap that the units of an access meet at issue: that of the first failing one, unless a lower unit has yet to be judged
elsewhere (R342). -/
def unitChecks (s : State) (sid : Nat) (i : Instr) (us : List VUnit) : Except Halt Unit :=
  match firstFailing s sid i us with
  | none => .ok ()
  | some (u, h) => if (us.filter (fun v => decide (v.lo < u.lo))).all (judgedHere s sid) then .error h else .ok ()

/-- Whether a slot waits for the verdict of an access after its issue: a `vst` to own-cell local memory or the commons has it
at once (R344). -/
def awaitsVerdict (s : State) (sid : Nat) (it : VItem) : Bool :=
  match it.instr with
  | .vst _ _ _ =>
    (match spaceOf s (cellOfSlot sid) it.x with
     | .own _ => false
     | .commons _ => false
     | _ => true)
  | i => isVecMem i

/-- Whether an access may still meet a cause before MACHINE-CHECK after its issue: a `vld` or `vst` to own-cell local memory or the
commons has met its checks (R82, R342). -/
def judgedLater (s : State) (sid : Nat) (it : VItem) : Bool :=
  isVecMem it.instr && !(isVecBlock it.instr &&
    (match spaceOf s (cellOfSlot sid) it.x with
     | .own _ => true
     | .commons _ => true
     | _ => false))

/-! ## Issue (R324, R326) -/

/-- A destination still owed to the slot (R324). -/
def VForm.owed (f : VForm) (x : Slot) : Bool :=
  (groupRegs f.vd).any x.vP || (match f.pd with | some p => x.pP p | none => false) ||
    (match f.sd with | some r => x.sP r | none => false)

/-- Whether every destination is full. -/
def VForm.full (f : VForm) (x : Slot) : Bool :=
  (groupRegs f.vd).all x.vF && (match f.pd with | some p => x.pF p | none => true) &&
    (match f.sd with | some r => x.sF r | none => true)

/-- The destinations take F := 0 and P := 1 (R324). -/
def VForm.owe (f : VForm) (x : Slot) : Slot :=
  let x := (groupRegs f.vd).foldl Slot.oweV x
  let x := match f.pd with | some p => x.oweP p | none => x
  match f.sd with | some r => x.oweS r | none => x

/-- The register in error that an instruction reads, if any: of several the first scalar one, else the first vector one, else the first
predicate (DESIGN CHOICE, notes/assumptions/106.md). -/
def VForm.poison (f : VForm) (i : Instr) (x : Slot) : Option Nat :=
  (f.ss.find? (badS x)).or (((readRegs i f).find? (fun r => x.vF r && x.verr.getLsbD r)).or
    (f.ps.find? (fun p => p ≠ 0 && x.perr.getLsbD p)))

/-- A register in error that an instruction reads raises MACHINE-CHECK, after every other cause (R82, R84, R348). -/
def VForm.sound (f : VForm) (i : Instr) (x : Slot) : Except Halt Unit :=
  match f.poison i x with
  | some r => .error (.trap cMachineCheck 1 (wrap64 r))
  | none => .ok ()

/-- The scalar operands, in the order of their fields. -/
def scalarOps (x : Slot) : List Nat → Except Halt (Word × Word)
  | [] => .ok (0#64, 0#64)
  | [a] => do
    let u ← peekS x a
    return (u, 0#64)
  | a :: b :: _ => do
    let u ← peekS x a
    let v ← peekS x b
    return (u, v)

/-- Whether queued instructions of a slot have yet to read what a form would write (R324). -/
def formWaits (s : State) (sid : Nat) (f : VForm) : Bool :=
  vecReader s sid (groupRegs f.vd) || (match f.pd with | some p => predReader s sid p | none => false)

/-- The cell cycle at which a core's next window opens (R13). -/
def windowTime (s : State) (core : Nat) : Nat :=
  let t := s.ccyc (core / 4)
  t + (2 * (core % 4) + 8 - t % 8) % 8

/-- An entry joins a core's vector queue. -/
def queueEntry (s : State) (core : Nat) (e : VEntry) : State :=
  (s.modCore core (fun c => { c with vq := c.vq ++ [e] })).pushE (.vectorStart (core / 4) (windowTime s core))

/-- Depth of a core's vector queue (R15). -/
def vqFull (s : State) (core : Nat) : Bool := decide (8 ≤ (s.core core).vq.length)

/-- An instruction whose checks have passed enters the queue of its core; its serial number is the state's next, and so is its place
in the program unless a replay appends it: that has the place of its `vend` (R114, R347). -/
def enterQueue (s : State) (sid : Nat) (it : VItem) (f : VForm) (forked : Bool) (replayOf poison : Option Nat) : State :=
  let x := s.slot sid
  let e : VEntry := { vid := s.nextId, order := replayOf.getD s.nextId, sid := sid, gen := x.gen, item := it, oldF := f.full x, forked := forked, replayed := replayOf.isSome, poison := poison }
  let y := f.owe x
  let y := if isVecStore it.instr then raiseUnack y else y
  queueEntry ({ s with nextId := s.nextId + 1 }.setSlot sid y) (coreOf sid) e

/-- A vector instruction of a slot or of its forked program passes its checks and enters the queue (R305, R324, R326, R342);
it answers the item. -/
def vecEnter (i : Instr) (s : State) (sid : Nat) (pc : Word) (forked : Bool) : Except Halt (State × VItem) := do
  let x := s.slot sid
  let core := coreOf sid
  let (_, _, _, f) ← vecCheck i x
  let v ← scalarOps x f.ss
  let it : VItem := { instr := i, pc := pc, x := v.1, y := v.2, vfmt := x.vfmt, rmode := x.rmode }
  guardH (!f.owed x) .stall
  guardH (!formWaits s sid f) .hold
  (if isVecBlock i then unitChecks s sid i (units64 it.x) else .ok ())
  (if judgedLater s sid it then .ok () else f.sound i x)
  (if isVecStore i then unackRoom x else .ok ())
  guardH (!vqFull s core) (.park .vqueue)
  return (enterQueue s sid it f forked none (if judgedLater s sid it then f.poison i x else none), it)

/-- Whether a slot's replay has instructions that are not complete: its other vector instructions wait (R347)
(DEDUCED, notes/assumptions/60.md). -/
def replayOpen (s : State) (sid : Nat) : Bool :=
  let k := s.core (coreOf sid)
  (s.slot sid).replay.isSome || k.vq.any (fun e => e.sid = sid && e.replayed) || k.vrun.any (fun r => r.sid = sid && r.replayed)

/-- Whether a forked vector program of a slot runs (R305). -/
def programOpen (s : State) (sid : Nat) : Bool :=
  match (s.core (coreOf sid)).seqV with
  | some q => q.sid = sid
  | none => false

/-- A vector instruction at its slot's issue. -/
def vecIssue (i : Instr) (s : State) : Res := do
  let sid := s.cur
  guardH (!replayOpen s sid && !programOpen s sid) .hold
  let id := s.nextId
  let (t, it) ← vecEnter i s sid (s.slot sid).pc false
  return t.modSlot sid (fun x => { x.next with await := if awaitsVerdict s sid it then some id else none })

/-- A word is captured: it is checked, its scalar operands are read, and it joins the body (R346). -/
def vecCapture (i : Instr) (l : Loop) (s : State) : Res := do
  let x := s.slot s.cur
  let (_, _, _, f) ← vecCheck i x
  let v ← scalarOps x f.ss
  soundS x f.ss
  let it : VItem := { instr := i, pc := x.pc, x := v.1, y := v.2, vfmt := x.vfmt, rmode := x.rmode }
  return done s { x with cap := some { l with body := l.body ++ [it] } }

/-- A vector instruction: captured while the slot captures, else issued (R324, R346). -/
def vecInstr (i : Instr) (s : State) : Host.Outcome State Fault Refusal :=
  finish s (match (s.slot s.cur).cap with
    | some l => vecCapture i l s
    | none => vecIssue i s)

/-! ## The instructions (R327-R342) -/

/-- VADD (R327). -/
def execVadd (r : BitVec 3) (d a b : BitVec 5) (p : BitVec 3) (f : BitVec 2) (s : State) : Host.Outcome State Fault Refusal :=
  vecInstr (.vadd r d a b p f) s

/-- VSUB (R327). -/
def execVsub (r : BitVec 3) (d a b : BitVec 5) (p : BitVec 3) (f : BitVec 2) (s : State) : Host.Outcome State Fault Refusal :=
  vecInstr (.vsub r d a b p f) s

/-- VMUL (R327). -/
def execVmul (r : BitVec 3) (d a b : BitVec 5) (p : BitVec 3) (f : BitVec 2) (s : State) : Host.Outcome State Fault Refusal :=
  vecInstr (.vmul r d a b p f) s

/-- VFMA (R327). -/
def execVfma (r : BitVec 3) (d a b : BitVec 5) (p : BitVec 3) (f : BitVec 2) (s : State) : Host.Outcome State Fault Refusal :=
  vecInstr (.vfma r d a b p f) s

/-- VFMS (R327). -/
def execVfms (r : BitVec 3) (d a b : BitVec 5) (p : BitVec 3) (f : BitVec 2) (s : State) : Host.Outcome State Fault Refusal :=
  vecInstr (.vfms r d a b p f) s

/-- VDIV (R327). -/
def execVdiv (r : BitVec 3) (d a b : BitVec 5) (p : BitVec 3) (f : BitVec 2) (s : State) : Host.Outcome State Fault Refusal :=
  vecInstr (.vdiv r d a b p f) s

/-- VSQRT (R327). -/
def execVsqrt (r : BitVec 3) (d a : BitVec 5) (p : BitVec 3) (f : BitVec 2) (s : State) : Host.Outcome State Fault Refusal :=
  vecInstr (.vsqrt r d a p f) s

/-- VRCP (R327). -/
def execVrcp (r : BitVec 3) (d a : BitVec 5) (p : BitVec 3) (f : BitVec 2) (s : State) : Host.Outcome State Fault Refusal :=
  vecInstr (.vrcp r d a p f) s

/-- VRSQRT (R327). -/
def execVrsqrt (r : BitVec 3) (d a : BitVec 5) (p : BitVec 3) (f : BitVec 2) (s : State) : Host.Outcome State Fault Refusal :=
  vecInstr (.vrsqrt r d a p f) s

/-- VSUM (R336). -/
def execVsum (r : BitVec 3) (d a : BitVec 5) (p : BitVec 3) (f : BitVec 2) (s : State) : Host.Outcome State Fault Refusal :=
  vecInstr (.vsum r d a p f) s

/-- VDOT (R337). -/
def execVdot (r : BitVec 3) (d a b : BitVec 5) (p : BitVec 3) (f : BitVec 2) (s : State) : Host.Outcome State Fault Refusal :=
  vecInstr (.vdot r d a b p f) s

/-- VCVT (R332). -/
def execVcvt (r : BitVec 3) (d a c : BitVec 5) (p : BitVec 3) (f : BitVec 2) (s : State) : Host.Outcome State Fault Refusal :=
  vecInstr (.vcvt r d a c p f) s

/-- VCVT_SAT (R332). -/
def execVcvtSat (r : BitVec 3) (d a c : BitVec 5) (p : BitVec 3) (f : BitVec 2) (s : State) : Host.Outcome State Fault Refusal :=
  vecInstr (.vcvtSat r d a c p f) s

/-- VWIDEN (R333). -/
def execVwiden (r : BitVec 3) (d a c : BitVec 5) (f : BitVec 2) (s : State) : Host.Outcome State Fault Refusal :=
  vecInstr (.vwiden r d a c f) s

/-- VNARROW (R333). -/
def execVnarrow (r : BitVec 3) (d a c : BitVec 5) (f : BitVec 2) (s : State) : Host.Outcome State Fault Refusal :=
  vecInstr (.vnarrow r d a c f) s

/-- VNARROW_SAT (R333). -/
def execVnarrowSat (r : BitVec 3) (d a c : BitVec 5) (f : BitVec 2) (s : State) : Host.Outcome State Fault Refusal :=
  vecInstr (.vnarrowSat r d a c f) s

/-- VQNT (R334). -/
def execVqnt (r : BitVec 3) (d a c : BitVec 5) (f : BitVec 2) (s : State) : Host.Outcome State Fault Refusal :=
  vecInstr (.vqnt r d a c f) s

/-- VSCALE (R335). -/
def execVscale (r : BitVec 3) (d a b : BitVec 5) (p : BitVec 3) (f : BitVec 2) (s : State) : Host.Outcome State Fault Refusal :=
  vecInstr (.vscale r d a b p f) s

/-- VMIN (R327). -/
def execVmin (d a b : BitVec 5) (p : BitVec 3) (f : BitVec 2) (s : State) : Host.Outcome State Fault Refusal :=
  vecInstr (.vmin d a b p f) s

/-- VMAX (R327). -/
def execVmax (d a b : BitVec 5) (p : BitVec 3) (f : BitVec 2) (s : State) : Host.Outcome State Fault Refusal :=
  vecInstr (.vmax d a b p f) s

/-- VABS (R327). -/
def execVabs (d a : BitVec 5) (p : BitVec 3) (f : BitVec 2) (s : State) : Host.Outcome State Fault Refusal :=
  vecInstr (.vabs d a p f) s

/-- VNEG (R327). -/
def execVneg (d a : BitVec 5) (p : BitVec 3) (f : BitVec 2) (s : State) : Host.Outcome State Fault Refusal :=
  vecInstr (.vneg d a p f) s

/-- VMAXR (R336). -/
def execVmaxr (d a : BitVec 5) (p : BitVec 3) (f : BitVec 2) (s : State) : Host.Outcome State Fault Refusal :=
  vecInstr (.vmaxr d a p f) s

/-- VMINR (R336). -/
def execVminr (d a : BitVec 5) (p : BitVec 3) (f : BitVec 2) (s : State) : Host.Outcome State Fault Refusal :=
  vecInstr (.vminr d a p f) s

/-- VEXP2 (R328). -/
def execVexp2 (d a : BitVec 5) (p : BitVec 3) (f : BitVec 2) (s : State) : Host.Outcome State Fault Refusal :=
  vecInstr (.vexp2 d a p f) s

/-- VLOG2 (R328). -/
def execVlog2 (d a : BitVec 5) (p : BitVec 3) (f : BitVec 2) (s : State) : Host.Outcome State Fault Refusal :=
  vecInstr (.vlog2 d a p f) s

/-- VEXP (R328). -/
def execVexp (d a : BitVec 5) (p : BitVec 3) (f : BitVec 2) (s : State) : Host.Outcome State Fault Refusal :=
  vecInstr (.vexp d a p f) s

/-- VLOG (R328). -/
def execVlog (d a : BitVec 5) (p : BitVec 3) (f : BitVec 2) (s : State) : Host.Outcome State Fault Refusal :=
  vecInstr (.vlog d a p f) s

/-- VTANH (R328). -/
def execVtanh (d a : BitVec 5) (p : BitVec 3) (f : BitVec 2) (s : State) : Host.Outcome State Fault Refusal :=
  vecInstr (.vtanh d a p f) s

/-- VSIGM (R328). -/
def execVsigm (d a : BitVec 5) (p : BitVec 3) (f : BitVec 2) (s : State) : Host.Outcome State Fault Refusal :=
  vecInstr (.vsigm d a p f) s

/-- VCMP (R329). -/
def execVcmp (d : BitVec 3) (a b : BitVec 5) (p : BitVec 3) (f : BitVec 2) (c : BitVec 3) (s : State) : Host.Outcome State Fault Refusal :=
  vecInstr (.vcmp d a b p f c) s

/-- VSEL (R330). -/
def execVsel (d a b : BitVec 5) (p : BitVec 3) (f : BitVec 2) (s : State) : Host.Outcome State Fault Refusal :=
  vecInstr (.vsel d a b p f) s

/-- VAND (R331). -/
def execVand (d a b : BitVec 5) (p : BitVec 3) (f : BitVec 2) (s : State) : Host.Outcome State Fault Refusal :=
  vecInstr (.vand d a b p f) s

/-- VOR (R331). -/
def execVor (d a b : BitVec 5) (p : BitVec 3) (f : BitVec 2) (s : State) : Host.Outcome State Fault Refusal :=
  vecInstr (.vor d a b p f) s

/-- VXOR (R331). -/
def execVxor (d a b : BitVec 5) (p : BitVec 3) (f : BitVec 2) (s : State) : Host.Outcome State Fault Refusal :=
  vecInstr (.vxor d a b p f) s

/-- VNOT (R331). -/
def execVnot (d a : BitVec 5) (p : BitVec 3) (f : BitVec 2) (s : State) : Host.Outcome State Fault Refusal :=
  vecInstr (.vnot d a p f) s

/-- VSHL (R331). -/
def execVshl (d a b : BitVec 5) (p : BitVec 3) (f : BitVec 2) (s : State) : Host.Outcome State Fault Refusal :=
  vecInstr (.vshl d a b p f) s

/-- VSHR (R331). -/
def execVshr (d a b : BitVec 5) (p : BitVec 3) (f : BitVec 2) (s : State) : Host.Outcome State Fault Refusal :=
  vecInstr (.vshr d a b p f) s

/-- VSAR (R331). -/
def execVsar (d a b : BitVec 5) (p : BitVec 3) (f : BitVec 2) (s : State) : Host.Outcome State Fault Refusal :=
  vecInstr (.vsar d a b p f) s

/-- VPERM (R338). -/
def execVperm (d a b : BitVec 5) (p : BitVec 3) (f : BitVec 2) (s : State) : Host.Outcome State Fault Refusal :=
  vecInstr (.vperm d a b p f) s

/-- VBCAST (R339). -/
def execVbcast (d a : BitVec 5) (p : BitVec 3) (f : BitVec 2) (s : State) : Host.Outcome State Fault Refusal :=
  vecInstr (.vbcast d a p f) s

/-- VEXT (R339). -/
def execVext (d a b : BitVec 5) (f : BitVec 2) (s : State) : Host.Outcome State Fault Refusal :=
  vecInstr (.vext d a b f) s

/-- VINS (R339). -/
def execVins (d a b : BitVec 5) (f : BitVec 2) (s : State) : Host.Outcome State Fault Refusal :=
  vecInstr (.vins d a b f) s

/-- PAND (R340). -/
def execPand (d a b : BitVec 3) (s : State) : Host.Outcome State Fault Refusal :=
  vecInstr (.pand d a b) s

/-- POR (R340). -/
def execPor (d a b : BitVec 3) (s : State) : Host.Outcome State Fault Refusal :=
  vecInstr (.por d a b) s

/-- PXOR (R340). -/
def execPxor (d a b : BitVec 3) (s : State) : Host.Outcome State Fault Refusal :=
  vecInstr (.pxor d a b) s

/-- PNOT (R340). -/
def execPnot (d a : BitVec 3) (s : State) : Host.Outcome State Fault Refusal :=
  vecInstr (.pnot d a) s

/-- PCNT (R340). -/
def execPcnt (d : BitVec 5) (a : BitVec 3) (s : State) : Host.Outcome State Fault Refusal :=
  vecInstr (.pcnt d a) s

/-- PFIRST (R340). -/
def execPfirst (d : BitVec 5) (a : BitVec 3) (s : State) : Host.Outcome State Fault Refusal :=
  vecInstr (.pfirst d a) s

/-- VLD (R341). -/
def execVld (d a b : BitVec 5) (s : State) : Host.Outcome State Fault Refusal :=
  vecInstr (.vld d a b) s

/-- VST (R341). -/
def execVst (d a b : BitVec 5) (s : State) : Host.Outcome State Fault Refusal :=
  vecInstr (.vst d a b) s

/-- VLDS (R341). -/
def execVlds (d a b : BitVec 5) (p : BitVec 3) (f : BitVec 2) (s : State) : Host.Outcome State Fault Refusal :=
  vecInstr (.vlds d a b p f) s

/-- VGATH (R341). -/
def execVgath (d a b : BitVec 5) (p : BitVec 3) (f : BitVec 2) (s : State) : Host.Outcome State Fault Refusal :=
  vecInstr (.vgath d a b p f) s

/-- VSCAT (R341). -/
def execVscat (d a b : BitVec 5) (p : BitVec 3) (f : BitVec 2) (s : State) : Host.Outcome State Fault Refusal :=
  vecInstr (.vscat d a b p f) s

/-! ## The loop buffer (R346-R348) -/

/-- VLOOP (R346). -/
def execVloop (a : BitVec 5) (s : State) : Host.Outcome State Fault Refusal :=
  finish s (do
    let x := s.slot s.cur
    boundS x [a.toNat]
    guardH (!replayOpen s s.cur && !programOpen s s.cur) .hold
    let v ← readS x a.toNat
    return done s { x with cap := some { count := bits v 31 0, body := [] } })

/-- Address of a `vld` or `vst` of a body in iteration k (R341). -/
def VItem.addr (it : VItem) (k : Nat) : Word := it.x + wrap64 k * it.y

/-- The trap that an access of a replay would meet: every byte lies in the own-cell aperture, the address is 64-B aligned
(R347). -/
def replayBad (s : State) (cell : Nat) (ea : Word) : Option Halt :=
  if !alignedTo ea 64 then some (.trap cMisalign 4 ea)
  else
    match (units64 ea).find? (fun u => match spaceOf s cell u.va with | .own _ => !canonical u.va | _ => true) with
    | some u => some (.trap cAccess 0 u.va)
    | none => none

/-- The first failing access of n iterations from k on. -/
def replayCheck (s : State) (cell : Nat) (body : List VItem) : Nat → Nat → Except Halt Unit
  | 0, _ => .ok ()
  | n + 1, k =>
    match (body.filter (fun it => isVecBlock it.instr)).findSome? (fun it => replayBad s cell (it.addr k)) with
    | some h => .error h
    | none => replayCheck s cell body n (k + 1)

/-- VEND (R346, R347). -/
def execVend (s : State) : Host.Outcome State Fault Refusal :=
  finish s (do
    let x := s.slot s.cur
    match x.cap with
    | none => .error (illegal .vend 0)
    | some l => do
      (if l.body.any (fun it => isVecBlock it.instr) then replayCheck s (cellOfSlot s.cur) l.body l.count 0 else .ok ())
      if l.count = 0 || l.body.isEmpty then return done s { x with cap := none }
      else
        let r : Replay := { body := l.body, count := l.count, order := s.nextId, k := 0, j := 0 }
        return (done { s with nextId := s.nextId + 1 } { x with cap := none, replay := some r }).pushE (.loopBufferReplay s.cur))

/-- The replay after the instruction at its position. -/
def Replay.next (r : Replay) : Option Replay :=
  if r.j + 1 < r.body.length then some { r with j := r.j + 1 }
  else if r.k + 1 < r.count then some { r with k := r.k + 1, j := 0 }
  else none

/-- The instruction that a replay appends next, with its address. -/
def Replay.item (r : Replay) : Option VItem :=
  (r.body[r.j]?).map (fun it => if isVecBlock it.instr then { it with x := it.addr r.k } else it)

/-- Appends an instruction of a replay, if its destinations are free and the queue has room. -/
def replayAppend (s : State) (sid : Nat) (r : Replay) (it : VItem) (f : VForm) : State :=
  let x := s.slot sid
  let room := !(isVecStore it.instr) || decide (x.unack ≠ 0xFFFF#64)
  if f.owed x || formWaits s sid f || vqFull s (coreOf sid) || !room then s.pushE (.loopBufferReplay sid)
  else
    let s := (enterQueue s sid it f false (some r.order) none).modSlot sid (fun x => { x with replay := r.next })
    if r.next.isSome then s.pushE (.loopBufferReplay sid) else s

/-- LOOP_BUFFER_REPLAY (R347): at most one instruction is appended. -/
def execLoopBufferReplay (sid : Nat) (s : State) : Host.Outcome State Fault Refusal :=
  match (s.slot sid).replay with
  | none => .next s
  | some r =>
    .next (whenRunning s (cellOfSlot sid) (.loopBufferReplay sid)
      (match r.item with
       | none => s.modSlot sid (fun x => { x with replay := none })
       | some it =>
         match vecFormat it.instr it.vfmt it.rmode with
         | none => s.modSlot sid (fun x => { x with replay := none })
         | some (el, sc, _) => replayAppend s sid r it (vForm it.instr el sc)))

/-! ## Start (R324, R342-R345) -/

/-- Whether the sources of an entry are full; one that is also a destination counts as it was before the issue
(notes/assumptions/48.md). -/
def VEntry.sourcesFull (s : State) (e : VEntry) : Bool :=
  let x := s.slot e.sid
  match vecFormat e.item.instr e.item.vfmt e.item.rmode with
  | none => true
  | some (el, sc, _) =>
    let f := vForm e.item.instr el sc
    (groupRegs f.vs).all (fun r => x.vF r || (e.oldF && (groupRegs f.vd).contains r)) &&
      f.ps.all (fun p => x.pF p || (e.oldF && f.pd = some p))

/-- Whether an earlier scalar access of the slot to a location of a vector access has yet to be performed (R345). -/
def scalarOpen (s : State) (e : VEntry) : Bool :=
  !e.forked && isVecMem e.item.instr &&
    (e.item.units (s.slot e.sid)).any (fun u => s.flight.any (fun b =>
      (match b.src with | .slot sid _ _ _ _ _ _ => sid = e.sid | _ => false) && decide (b.place < e.order) && b.pending &&
        runsMeet s b.cell u.va u.n b.va b.op.size))

/-- Whether an entry is ready: its sources are full, every older entry of its slot has started (R324), no scalar access holds
it (R345). -/
def entryReady (s : State) (core : Nat) (e : VEntry) : Bool :=
  ((s.core core).vq.find? (fun q => q.sid = e.sid)).all (fun q => q.vid = e.vid) && e.sourcesFull s && !scalarOpen s e

/-- Whether a source of an entry is in error (R348). -/
def sourceErr (x : Slot) (i : Instr) (f : VForm) : Bool :=
  (readRegs i f).any (fun r => x.verr.getLsbD r) || f.ps.any (fun p => p ≠ 0 && x.perr.getLsbD p)

/-- A started entry before its results are known. -/
def VEntry.run (e : VEntry) : VRun :=
  { vid := e.vid, sid := e.sid, gen := e.gen, pc := e.item.pc, oldF := e.oldF, forked := e.forked, replayed := e.replayed
    vw := [], pw := [], sw := [], flags := 0#5, err := false, memory := false, store := false, owed := 0 }

def dropEntry (s : State) (core vid : Nat) : State :=
  s.modCore core (fun c => { c with vq := c.vq.filter (fun e => e.vid ≠ vid) })

def addRun (s : State) (core : Nat) (r : VRun) : State := s.modCore core (fun c => { c with vrun := c.vrun ++ [r] })

/-- An entry that computes reads its sources; its results wait for its completion (R324, R325). -/
def startCompute (s : State) (core : Nat) (e : VEntry) (el : Elem) (sc : Bool) (m : Rnd) : State :=
  let x := s.slot e.sid
  let c : VIn := { el := el, scaled := sc, mode := m, x := e.item.x, y := e.item.y
                   rv := fun r => (x.vval r).toNat, rp := fun p => (x.pval p).toNat }
  let z := vecResult e.item.instr c
  let r := { e.run with vw := z.vw, pw := z.pw, sw := z.sw, flags := z.flags, err := sourceErr x e.item.instr (vForm e.item.instr el sc) }
  (addRun (dropEntry s core e.vid) core r).pushE (.vectorComplete (core / 4) (core % 4) e.vid)

/-- Sends the units of an access out, in ascending order (R343). Each takes the same copy of the register's data; the unit `last`
traps for a register in error, where it is judged. -/
def sendUnits (s : State) (core : Nat) (e : VEntry) (data : Nat) (last : Option VUnit) (us : List VUnit) : State :=
  let cell := core / 4
  us.foldl (fun s u =>
    startAccess s e.sid
      { newAccess e.sid (.vec core e.vid u.i u.lo) (unitOp (isVecStore e.item.instr) data u) u.va false false 0 with
        order := some e.order, poison := if last = some u then e.poison else none }
      (spaceOf s cell u.va) (4 + u.i % 2)) s

/-- The answer that a failing check gives to a unit. -/
def haltReply (h : Halt) : Reply :=
  match h with
  | .trap c d v => if c = cMisalign then .misalign else if c = cPage then .page d v else if c = cAccess then .access else .machine
  | _ => .machine

/-- A unit that fails its checks is answered with its trap, which waits for the judgement of the lower units (R342). -/
def sendFailing (s : State) (core : Nat) (e : VEntry) (f : Option (VUnit × Halt)) : State :=
  match f with
  | none => s
  | some (u, h) =>
    let a := newAccess e.sid (.vec core e.vid u.i u.lo) (unitOp (isVecStore e.item.instr) 0 u) u.va false false 0
    (s.launch { a with stage := .reply (haltReply h) }).pushE (homeEvent { a with id := s.nextId })

/-- The units below a failing one, cut off where it begins. -/
def unitsBelow (us : List VUnit) (f : Option (VUnit × Halt)) : List VUnit :=
  match f with
  | none => us
  | some (u, _) => (us.filter (fun v => decide (v.lo < u.lo))).map (fun v => { v with n := min v.n ((u.lo - v.lo) / 8) })

/-- An access starts: its units below the first that fails its checks, and the trap of that one. -/
def startUnits (s : State) (core : Nat) (e : VEntry) (f : Option (VUnit × Halt)) (poison : Bool) : State :=
  let x := s.slot e.sid
  let store := isVecStore e.item.instr
  let d := e.item.dataReg
  let us := unitsBelow (e.item.served x) f
  let r := { e.run with
    vw := if store then [] else [(d, x.vval d)]
    err := poison, memory := true, store := store, owed := us.length + f.toList.length }
  let last := if f.isNone then (us.filter (fun u => !judgedHere s e.sid u)).getLast? else none
  let s := sendFailing (sendUnits (addRun (dropEntry s core e.vid) core r) core e (x.vval d).toNat last us) core e f
  let s := if us.isEmpty && f.isNone then s.pushE (.vectorComplete (core / 4) (core % 4) e.vid) else s
  if store && !vecVerdictOpen s core e.vid then vecVerdict s core e.vid else s

/-- A failing element access traps once the slot's earlier vector instructions have completed; it writes nothing and raises no
UNACK (R342). In a forked program it ends the program (R305). -/
def startFault (s : State) (core : Nat) (e : VEntry) (cause detail : Nat) (tval : Word) (ev : Instr) : State :=
  let r := { e.run with vw := if isVecStore e.item.instr then [] else [(e.item.dataReg, 0#4096)], store := isVecStore e.item.instr }
  if e.forked then endVector (undoForked (dropEntry s core e.vid) core r) core 5 cause
  else if (s.core core).vrun.any (fun q => q.sid = e.sid && !q.forked && !q.memory) then s.pushE ev
  else trapAccess (dropEntry s core e.vid) e.sid (undoRun (s.slot e.sid) r) cause detail tval

/-- A memory entry starts: its units are checked in ascending order (R342). The first that fails traps at once where every lower one
is judged here, else once they are; a register in error traps where no unit fails (R82). -/
def startMemory (s : State) (core : Nat) (e : VEntry) (poison : Bool) (ev : Instr) : State :=
  let us := e.item.units (s.slot e.sid)
  match (if e.replayed then Except.ok () else unitChecks s e.sid e.item.instr us) with
  | .ok () =>
    let f := if e.replayed then none else firstFailing s e.sid e.item.instr us
    (match e.poison with
     | some r => if f.isNone && us.all (judgedHere s e.sid) then startFault s core e cMachineCheck 1 (wrap64 r) ev else startUnits s core e f poison
     | none => startUnits s core e f poison)
  | .error (.trap c d v) => startFault s core e c d v ev
  | .error _ => s.pushE ev

/-- An entry starts. -/
def startEntry (s : State) (core : Nat) (e : VEntry) (ev : Instr) : State :=
  match vecFormat e.item.instr e.item.vfmt e.item.rmode with
  | none => dropEntry s core e.vid
  | some (el, sc, m) =>
    if isVecMem e.item.instr then startMemory s core e (sourceErr (s.slot e.sid) e.item.instr (vForm e.item.instr el sc)) ev
    else startCompute s core e el sc m

/-- VECTOR_START (R15, R324): in a core's window the oldest ready entry starts; a window without one stays idle. -/
def execVectorStart (cell t : Nat) (s : State) : Host.Outcome State Fault Refusal :=
  let core := 4 * cell + t / 2 % 4
  let ev := Instr.vectorStart cell t
  .next (whenRunning s cell ev
    (match (s.core core).vq.find? (entryReady s core) with
     | some e => startEntry s core e ev
     | none => if (s.core core).vq.isEmpty then s else s.pushE ev))

/-! ## Completion (R324, R325, R348) -/

/-- The slot with the results of a completed instruction: arrivals, flags, marks of registers in error. -/
def VRun.write (r : VRun) (x : Slot) : Slot :=
  let x := r.vw.foldl (fun x (q : Nat × VReg) => x.fillV q.1 q.2) x
  let x := r.pw.foldl (fun x (q : Nat × PReg) => x.fillP q.1 q.2) x
  let x := r.sw.foldl (fun x (q : Nat × Word) => x.fillS q.1 q.2) x
  let x := { x with fflags := x.fflags ||| r.flags.setWidth 64 }
  if r.err then
    { x with
      verr := r.vw.foldl (fun m (q : Nat × VReg) => setBit m q.1 true) x.verr
      perr := r.pw.foldl (fun m (q : Nat × PReg) => if q.1 = 0 then m else setBit m q.1 true) x.perr
      serr := r.sw.foldl (fun m (q : Nat × Word) => if q.1 = 0 then m else setBit m q.1 true) x.serr }
  else x

/-- The completion of a run: its verdict, its results, UNACK. -/
def completeRun (s : State) (core : Nat) (r : VRun) : State :=
  let s := vecVerdict s core r.vid
  let s := s.modCore core (fun c => { c with vrun := c.vrun.filter (fun q => q.vid ≠ r.vid) })
  let s := s.modSlot r.sid (fun x => if x.gen = r.gen && x.isLive then wakeSlot (r.write x) else x)
  if r.store then acknowledge s r.sid r.gen else s

/-- VECTOR_COMPLETE (R325): run n of a core completes. -/
def execVectorComplete (cell core n : Nat) (s : State) : Host.Outcome State Fault Refusal :=
  let k := 4 * cell + core
  match s.vrunOf k n with
  | some r =>
    .next (if r.owed ≠ 0 then s else whenRunning s cell (.vectorComplete cell core n) (completeRun s k r))
  | none => .next s

/-! ## Forked vector programs (R304-R306) -/

/-- Whether a word lies in the vector groups (R226, R239). -/
def vectorMajor (w : BitVec 32) : Bool :=
  let m := (w.extractLsb' 26 6).toNat
  decide (0x20 ≤ m) && decide (m ≤ 0x28)

/-- What a fetched word of a vector program does (DEDUCED, notes/assumptions/61.md). -/
def programWord (s : State) (core : Nat) (q : SeqV) (w : BitVec 32) (ev : Instr) : State :=
  let on := s.modCore core (fun c => { c with seqV := some { q with next := q.next + 1 } })
  if w = 0#32 then (if programPending s core then s.pushE ev else endVector on core 1 0)
  else if !vectorMajor w then endVector on core 2 0
  else
    match decode w with
    | .error _ => endVector on core 5 cIllegal
    | .ok (.vloop _) => endVector on core 2 0
    | .ok .vend => endVector on core 5 cIllegal
    | .ok i =>
      match vecEnter i on q.sid (q.base + wrap64 (4 * q.next)) true with
      | .ok (t, it) =>
        let t := count t (cellPerf (core / 4)) 2 1
        if awaitsVerdict s q.sid it then
          t.modCore core (fun c => { c with seqV := c.seqV.map (fun p => { p with await := some s.nextId }) })
        else t.pushE ev
      | .error (.trap c _ _) => endVector on core 5 c
      | .error _ => s.pushE ev

/-- A forked vector program that is to end goes on waiting, or ends (R125). -/
def goOnEnding (s : State) (core : Nat) (q : SeqV) : State :=
  match q.ending with
  | some (st, cause) => endVector s core st cause
  | none => s

/-- A forked vector program at the issue cycle of its slot: it fetches its next word and issues it. -/
def programIssue (s : State) (core : Nat) (q : SeqV) (ev : Instr) : State :=
  let on := s.modCore core (fun c => { c with seqV := some { q with next := q.next + 1 } })
  let x := s.slot q.sid
  if x.gen ≠ q.gen || !x.isLive then s.modCore core (fun c => { c with seqV := none })
  else if q.ending.isSome then goOnEnding s core q
  else if q.await.isSome then s
  else if x.removedAt.isSome || (x.cap.isSome) || replayOpen s q.sid then s.pushE ev
  else
    match readVirt s (progAgent s core 2 true ev) (q.base + wrap64 (4 * q.next)) 4 with
    | (.parked, s) => s
    | (.denied _, s) => endVector (s.modCore core (fun c => { c with seqV := some { q with next := q.next + 1 } })) core 3 0
    | (.error _, _) => endVector on core 5 cMachineCheck
    | (.val v, s) => programWord s core q (BitVec.ofNat 32 v) ev

/-- FORKED_VECTOR_ISSUE (R305). -/
def execForkedVectorIssue (cell core : Nat) (s : State) : Host.Outcome State Fault Refusal :=
  let k := 4 * cell + core
  let ev := Instr.forkedVectorIssue cell core
  match (s.core k).seqV with
  | none => .next s
  | some q => .next (whenRunning s cell ev (programIssue s k q ev))

end Sys2Proof.Machine
end

