-- ==== Sys2Proof/Machine/World.lean ====
section
/-! DEFINITION. What reaches the package from outside: the Berryn link, power, boot, die resets, uncorrectable errors, the
attestation report (spec/10_edges.md R214-R216, R222-R224, spec/03_registers.md R84, spec/08_counters.md R186-R187). -/

namespace Sys2Proof.Machine

/-! ## The Berryn link (R214, R216) -/

/-- Offset of HLINK. -/
def hlinkOff : Nat := pkgBase + 0x140000

/-- LINK_DOWN (R216). -/
def execLinkDown (s : State) : Host.Outcome State Fault Refusal :=
  let w := s.reg hlinkOff
  if w.getLsbD 6 then .next (s.setReg hlinkOff (setBit (setBit (setBits w 5 0 0) 6 false) 7 true)) else .next s

/-- LINK_UP (R214): the link trains at 32, 16 or 8 lanes. -/
def execLinkUp (width : Nat) (s : State) : Host.Outcome State Fault Refusal :=
  if width = 32 || width = 16 || width = 8 then
    .next (s.setReg hlinkOff (setBit (setBits (s.reg hlinkOff) 5 0 width) 6 true))
  else .next s

/-- FLIT_REPLAY (R214, R216): REPLAYS rises, up to 0xFFFF; on a link that is down no flit goes
(DEDUCED, notes/assumptions/73.md). -/
def execFlitReplay (s : State) : Host.Outcome State Fault Refusal :=
  let w := s.reg hlinkOff
  if w.getLsbD 6 then .next (s.setReg hlinkOff (setBits w 23 8 (min 0xFFFF (bits w 23 8 + 1)))) else .next s

/-! ## Uncorrectable errors (R84, R172) -/

/-- The state with an uncorrectable error in some storage. -/
def withError (s : State) (site : ErrSite) : State :=
  match site with
  | .sreg sid r => if r < 64 then s.modSlot sid (fun x => { x with serr := setBit x.serr r true }) else s
  | .vreg sid r => if r < 32 then s.modSlot sid (fun x => { x with verr := setBit x.verr r true }) else s
  | .preg sid r => if r < 8 then s.modSlot sid (fun x => { x with perr := setBit x.perr r true }) else s
  | .acc cell n => s.modCell cell (fun c => { c with acc := FMap.put c.acc n { FMap.get Acc.init c.acc n with err := BitVec.allOnes 8 } })
  | .dir cell f => s.modCell cell (fun c => Loc.setEntry c f { Loc.entry c f with err := true })
  | _ => if s.errs.contains site then s else { s with errs := s.errs ++ [site] }

/-- UNCORRECTABLE_ERROR (R84). -/
def execUncorrectableError (site : ErrSite) (s : State) : Host.Outcome State Fault Refusal := .next (withError s site)

/-! ## Die reset (R19, R187) -/

/-- Whether an item that belongs to a core, a slot or a cell lies on another die. -/
def offDie (d cell : Nat) : Bool := decide (dieOf cell ≠ d)

/-- Whether a turn is of another die's slot, cell or core. -/
def turnOffDie (d : Nat) (t : Turn) : Bool :=
  match t with
  | .issue sid => offDie d (cellOfSlot sid)
  | .matrix cell => offDie d cell
  | .copy core => offDie d (core / 4)
  | .control core _ => offDie d (core / 4)
  | .event _ => true
  | .later _ => true

/-- The pairs of a die restart at a GTS (R187, R189). -/
def restartPairs (s : State) (d : Nat) : State :=
  let t := s.gts
  (List.range 240).foldl (fun s i => s.setReg (cellPair (240 * d + i)) t) (s.setReg (fabricPair d) t)

/-- A die with everything in it at its reset values, its frames of zero class; the contents of its commons stay
(notes/assumptions/21.md). -/
def clearDie (s : State) (d : Nat) : State :=
  { dropJobsOf s (fun c => !offDie d c) with
    regs := s.regs.filter (fun q => decide (q.1 / 0x10000000 ≠ d))
    rota := s.rota.filter (fun sid => offDie d (cellOfSlot sid))
    work := s.work.filter (turnOffDie d)
    slots := s.slots.filter (fun q => offDie d (cellOfSlot q.1))
    cores := s.cores.filter (fun q => offDie d (q.1 / 4))
    cells := s.cells.filter (fun q => offDie d q.1)
    errs := s.errs.filter (fun e => match e with | .loc k _ => offDie d k | _ => true)
    swapAt := FMap.del s.swapAt d
    flight := s.flight.filter (fun a => offDie d a.cell)
    tokens := s.tokens.filter (fun t => offDie d (t.core / 4))
    messages := s.messages.filter (fun m => offDie d (cellOfSlot m.sid))
    contexts := s.contexts.filter (fun c => offDie d (cellOfSlot c.osid) && offDie d (cellOfSlot c.target))
    tlb := s.tlb.filter (fun e => decide (e.die ≠ d))
    lines := s.lines.filter (fun q => decide (q.die ≠ d))
    stamps := s.stamps.filter (fun q => decide (q.1 / 64 ≠ d))
    misses := s.misses.filter (fun m => decide (m.die ≠ d))
    replicas := s.replicas.filter (fun r => decide (r.die ≠ d))
    forwards := s.forwards.filter (fun f => decide (f.die ≠ d))
    launches := s.launches.filter (fun l => decide (s.lowDie l.part ≠ d))
    conts := s.conts.filter (fun c => decide (s.lowDie c.1 ≠ d))
    held := s.held.filter (fun h => offDie d h.cell && decide (s.lowDie h.part ≠ d))
    barriers := s.barriers.filter (fun q => decide (s.lowDie (q.1 / 64) ≠ d))
    arrivals := s.arrivals.filter (fun a => decide (s.lowDie a.part ≠ d))
    colls := s.colls.filter (fun c => decide (c.die ≠ d))
    peerSent := s.peerSent.filter (fun m => offDie d m.cell)
    served := s.served.filter (fun q => decide (q.1 ≠ d))
    holes := s.holes.filter (fun h => decide (h.1 ≠ d))
    fabric := s.fabric.filter (fun q => decide (q.1 ≠ d)) }

/-- DIE_RESET (R187): the die's counters restart, set A of its wheels is active with ORIGIN 0; the gaffers of its cells that a
committed partition holds start (R19). -/
def execDieReset (die : Nat) (s : State) : Host.Outcome State Fault Refusal :=
  if 4 ≤ die then .next s
  else
    let s := restartPairs (clearDie s die) die
    .next (allParts.foldl (fun s p =>
      if s.committed p then ((s.partCells p).filter (fun c => decide (dieOf c = die))).foldl (startGaffers p) s else s) s)

/-! ## Power and boot (R222-R224) -/

/-- Offset of BOOTST. -/
def bootOff : Nat := pkgBase + 0x160000

/-- STANDBY (R224): the package loses power. -/
def execStandby (s : State) : Host.Outcome State Fault Refusal := .next { s with powered := false }

/-- The package as power-up finds it: every register at its reset value, a new package key (R390), its own memory without
contents; what lies in the host's memory and in other devices stays (DESIGN CHOICE, notes/assumptions/70.md). -/
def poweredUp (s : State) : State :=
  { State.reset with
    agenda := s.agenda, freeCtr := s.freeCtr, nextId := s.nextId + 2, gts := s.gts
    phys := s.phys.filter (fun q => isSystem q.1)
    lineKey := s.lineKey.filter (fun q => isSystem (128 * q.1))
    keyMat := [(packageKey, s.nextId + 1)] }

/-- The words that the host hands to the firmware as its partition map: partition table and interleave descriptors (R222). -/
def writeMap (s : State) (map : List (Nat × Word)) : State :=
  map.foldl (fun s q => if 0x100000 ≤ q.1 && q.1 < 0x110200 then pkgWrite s .host q.1 q.2 else s) s

/-- What the firmware of a verified image does: it loads GTS, writes the host's partition map and commits it, which starts the
gaffers (R186, R222). A map that fails the checks of R220 is not committed (DESIGN CHOICE, notes/assumptions/71.md). -/
def bootFirmware (s : State) (time : Word) (map : List (Nat × Word)) : State :=
  let s := (List.range 4).foldl restartPairs { s with gts := time }
  let s := writeMap s map
  let ps := allParts.filter s.partValid
  if commitOk s ps then commitAll s ps else s

/-- BOOTST and the image digest of a running image (R222). -/
def bootRecord (s : State) (src : Bool) (svn : BitVec 8) (digest : List Word) : State :=
  let s := s.setReg bootOff (wrap64 (src.toNat + 2 + 256 * svn.toNat + 65536 * Config.fusedMinimum.toNat))
  (List.range 6).foldl (fun s i => s.setReg (bootOff + 0x10 + 8 * i) (getAt 0#64 digest i)) s

/-- Whether an image runs: signature and key hold, and its security version is no lower than the fused minimum (R222). -/
def imageAccepted (verified : Bool) (svn : BitVec 8) : Bool := verified && decide (Config.fusedMinimum.toNat ≤ svn.toNat)

/-- POWER_UP_BOOT (R222): from standby, or of a package that has not booted. -/
def execPowerUpBoot (verified : Bool) (time : Word) (svn : BitVec 8) (digest : List Word) (map : List (Nat × Word)) (s : State) :
    Host.Outcome State Fault Refusal :=
  if s.powered && bits (s.reg bootOff) 2 1 ≠ 0 then .next s
  else
    let t := poweredUp s
    if imageAccepted verified svn then .next (bootFirmware (bootRecord t false svn digest) time map)
    else .next (t.setReg bootOff (wrap64 (4 + 65536 * Config.fusedMinimum.toNat)))

/-- HOST_IMAGE_SUPPLY (R222): while boot waits and the link is up. -/
def execHostImageSupply (verified : Bool) (time : Word) (svn : BitVec 8) (digest : List Word) (map : List (Nat × Word)) (s : State) :
    Host.Outcome State Fault Refusal :=
  if (s.reg bootOff).getLsbD 2 && s.linkUp && imageAccepted verified svn then
    .next (bootFirmware (bootRecord s true svn digest) time map)
  else .next s

/-! ## Attestation (R223) -/

/-- The eight bytes of a word, lowest first. -/
def wordBytes (w : Word) : List Byte := (List.range 8).map (fun i => BitVec.ofNat 8 (w.toNat >>> (8 * i)))

/-- ATTESTATION_REPORT (R223): image digest, BOOTST, partition table, the 48 bytes of the nonce, and a signature of 96 bytes
whose value is free (DESIGN CHOICE, notes/assumptions/74.md). -/
def execAttestationReport (nonce : List Byte) (s : State) : Host.Outcome State Fault Refusal :=
  let digest := (List.range 6).flatMap (fun i => wordBytes (s.reg (bootOff + 0x10 + 8 * i)))
  let table := allParts.flatMap (fun p => (List.range 20).flatMap (fun w => wordBytes (s.partWord p w)))
  let sig := (List.range 12).flatMap (fun i => wordBytes (Config.freeWord (s.freeCtr + i)))
  .next { s with
    report := digest ++ wordBytes (s.reg bootOff) ++ table ++ (List.range 48).map (getAt 0#8 nonce) ++ sig
    freeCtr := s.freeCtr + 12 }

end Sys2Proof.Machine
end

