-- ==== Sys2Proof/Machine/Dispatch.lean ====
section
/-! DEFINITION. The one dispatch from an instruction to its meaning. -/

namespace Sys2Proof.Machine

def exec (i : Instr) (s : State) : Host.Outcome State Fault Refusal :=
  match i with
  | .add d a b m n => Sys2Proof.Machine.execAdd d a b m n s
  | .sub d a b m n => Sys2Proof.Machine.execSub d a b m n s
  | .mul d a b m n => Sys2Proof.Machine.execMul d a b m n s
  | .mulh d a b m n => Sys2Proof.Machine.execMulh d a b m n s
  | .mulhu d a b m n => Sys2Proof.Machine.execMulhu d a b m n s
  | .div d a b m n => Sys2Proof.Machine.execDiv d a b m n s
  | .divu d a b m n => Sys2Proof.Machine.execDivu d a b m n s
  | .rem d a b m n => Sys2Proof.Machine.execRem d a b m n s
  | .remu d a b m n => Sys2Proof.Machine.execRemu d a b m n s
  | .and d a b m n => Sys2Proof.Machine.execAnd d a b m n s
  | .or d a b m n => Sys2Proof.Machine.execOr d a b m n s
  | .xor d a b m n => Sys2Proof.Machine.execXor d a b m n s
  | .andn d a b m n => Sys2Proof.Machine.execAndn d a b m n s
  | .orn d a b m n => Sys2Proof.Machine.execOrn d a b m n s
  | .shl d a b m n => Sys2Proof.Machine.execShl d a b m n s
  | .shr d a b m n => Sys2Proof.Machine.execShr d a b m n s
  | .sar d a b m n => Sys2Proof.Machine.execSar d a b m n s
  | .rol d a b m n => Sys2Proof.Machine.execRol d a b m n s
  | .min d a b m n => Sys2Proof.Machine.execMin d a b m n s
  | .max d a b m n => Sys2Proof.Machine.execMax d a b m n s
  | .minu d a b m n => Sys2Proof.Machine.execMinu d a b m n s
  | .maxu d a b m n => Sys2Proof.Machine.execMaxu d a b m n s
  | .slt d a b m n => Sys2Proof.Machine.execSlt d a b m n s
  | .sltu d a b m n => Sys2Proof.Machine.execSltu d a b m n s
  | .seq d a b m n => Sys2Proof.Machine.execSeq d a b m n s
  | .sne d a b m n => Sys2Proof.Machine.execSne d a b m n s
  | .clz d a m => Sys2Proof.Machine.execClz d a m s
  | .ctz d a m => Sys2Proof.Machine.execCtz d a m s
  | .popc d a m => Sys2Proof.Machine.execPopc d a m s
  | .sext d a w m => Sys2Proof.Machine.execSext d a w m s
  | .zext d a w m => Sys2Proof.Machine.execZext d a w m s
  | .bswap d a m => Sys2Proof.Machine.execBswap d a m s
  | .addi d a m im => Sys2Proof.Machine.execAddi d a m im s
  | .andi d a m im => Sys2Proof.Machine.execAndi d a m im s
  | .ori d a m im => Sys2Proof.Machine.execOri d a m im s
  | .xori d a m im => Sys2Proof.Machine.execXori d a m im s
  | .slti d a m im => Sys2Proof.Machine.execSlti d a m im s
  | .sltui d a m im => Sys2Proof.Machine.execSltui d a m im s
  | .shli d a m h => Sys2Proof.Machine.execShli d a m h s
  | .shri d a m h => Sys2Proof.Machine.execShri d a m h s
  | .sari d a m h => Sys2Proof.Machine.execSari d a m h s
  | .lui d im => Sys2Proof.Machine.execLui d im s
  | .pcrel d im => Sys2Proof.Machine.execPcrel d im s
  | .lea d b z y o => Sys2Proof.Machine.execLea d b z y o s
  | .bEq a b o => Sys2Proof.Machine.execBEq a b o s
  | .bNe a b o => Sys2Proof.Machine.execBNe a b o s
  | .bLt a b o => Sys2Proof.Machine.execBLt a b o s
  | .bGe a b o => Sys2Proof.Machine.execBGe a b o s
  | .bLtu a b o => Sys2Proof.Machine.execBLtu a b o s
  | .bGeu a b o => Sys2Proof.Machine.execBGeu a b o s
  | .j o => Sys2Proof.Machine.execJ o s
  | .jal o => Sys2Proof.Machine.execJal o s
  | .jalr d a => Sys2Proof.Machine.execJalr d a s
  | .ret a => Sys2Proof.Machine.execRet a s
  | .call o => Sys2Proof.Machine.execCall o s
  | .loop a o => Sys2Proof.Machine.execLoop a o s
  | .ld d b z y o => Sys2Proof.Machine.execLd d b z y o s
  | .st d b z y o => Sys2Proof.Machine.execSt d b z y o s
  | .ldS d b z y e => Sys2Proof.Machine.execLdS d b z y e s
  | .ldAcq d b z y sc e => Sys2Proof.Machine.execLdAcq d b z y sc e s
  | .stRel d b z y sc => Sys2Proof.Machine.execStRel d b z y sc s
  | .lds d b y => Sys2Proof.Machine.execLds d b y s
  | .sts d b y => Sys2Proof.Machine.execSts d b y s
  | .ldw d b y => Sys2Proof.Machine.execLdw d b y s
  | .fefill d b y => Sys2Proof.Machine.execFefill d b y s
  | .feempty b y => Sys2Proof.Machine.execFeempty b y s
  | .feq d b y => Sys2Proof.Machine.execFeq d b y s
  | .amoAdd d a m z q r sc => Sys2Proof.Machine.execAmoAdd d a m z q r sc s
  | .amoAnd d a m z q r sc => Sys2Proof.Machine.execAmoAnd d a m z q r sc s
  | .amoOr d a m z q r sc => Sys2Proof.Machine.execAmoOr d a m z q r sc s
  | .amoXor d a m z q r sc => Sys2Proof.Machine.execAmoXor d a m z q r sc s
  | .amoMin d a m z q r sc => Sys2Proof.Machine.execAmoMin d a m z q r sc s
  | .amoMax d a m z q r sc => Sys2Proof.Machine.execAmoMax d a m z q r sc s
  | .amoMinu d a m z q r sc => Sys2Proof.Machine.execAmoMinu d a m z q r sc s
  | .amoMaxu d a m z q r sc => Sys2Proof.Machine.execAmoMaxu d a m z q r sc s
  | .amoSwap d a m z q r sc => Sys2Proof.Machine.execAmoSwap d a m z q r sc s
  | .amoFadd d a m q r sc => Sys2Proof.Machine.execAmoFadd d a m q r sc s
  | .cas d a b z q r sc => Sys2Proof.Machine.execCas d a b z q r sc s
  | .lineRd d a q sc => Sys2Proof.Machine.execLineRd d a q sc s
  | .lineCst d a b n r sc => Sys2Proof.Machine.execLineCst d a b n r sc s
  | .blkRd d a b t sc => Sys2Proof.Machine.execBlkRd d a b t sc s
  | .blkWr d a b t sc => Sys2Proof.Machine.execBlkWr d a b t sc s
  | .fence k sc => Sys2Proof.Machine.execFence k sc s
  | .cinv a => Sys2Proof.Machine.execCinv a s
  | .cwb a => Sys2Proof.Machine.execCwb a s
  | .pref a => Sys2Proof.Machine.execPref a s
  | .prefW a => Sys2Proof.Machine.execPrefW a s
  | .send a b m n => Sys2Proof.Machine.execSend a b m n s
  | .sendV a b m n => Sys2Proof.Machine.execSendV a b m n s
  | .sendP a b m n => Sys2Proof.Machine.execSendP a b m n s
  | .take d => Sys2Proof.Machine.execTake d s
  | .start a b m n => Sys2Proof.Machine.execStart a b m n s
  | .reap d a m => Sys2Proof.Machine.execReap d a m s
  | .kill a b m n => Sys2Proof.Machine.execKill a b m n s
  | .yield => Sys2Proof.Machine.execYield s
  | .retire a m => Sys2Proof.Machine.execRetire a m s
  | .migrate a m => Sys2Proof.Machine.execMigrate a m s
  | .lnch a b m n => Sys2Proof.Machine.execLnch a b m n s
  | .enqM a m => Sys2Proof.Machine.execEnqM a m s
  | .enqC a m => Sys2Proof.Machine.execEnqC a m s
  | .fork d a b m n => Sys2Proof.Machine.execFork d a b m n s
  | .rdv d => Sys2Proof.Machine.execRdv d s
  | .accrd d c k => Sys2Proof.Machine.execAccrd d c k s
  | .accwr d c k => Sys2Proof.Machine.execAccwr d c k s
  | .barInit a b m n => Sys2Proof.Machine.execBarInit a b m n s
  | .barArr a m => Sys2Proof.Machine.execBarArr a m s
  | .barWait a m => Sys2Proof.Machine.execBarWait a m s
  | .barWaitDrop a m => Sys2Proof.Machine.execBarWaitDrop a m s
  | .tdq d a m => Sys2Proof.Machine.execTdq d a m s
  | .tdset a b m n => Sys2Proof.Machine.execTdset a b m n s
  | .tdzero a b m n => Sys2Proof.Machine.execTdzero a b m n s
  | .pub a sc m => Sys2Proof.Machine.execPub a sc m s
  | .gear im => Sys2Proof.Machine.execGear im s
  | .ophint im => Sys2Proof.Machine.execOphint im s
  | .vadd r d a b p f => Sys2Proof.Machine.execVadd r d a b p f s
  | .vsub r d a b p f => Sys2Proof.Machine.execVsub r d a b p f s
  | .vmul r d a b p f => Sys2Proof.Machine.execVmul r d a b p f s
  | .vfma r d a b p f => Sys2Proof.Machine.execVfma r d a b p f s
  | .vfms r d a b p f => Sys2Proof.Machine.execVfms r d a b p f s
  | .vdiv r d a b p f => Sys2Proof.Machine.execVdiv r d a b p f s
  | .vsqrt r d a p f => Sys2Proof.Machine.execVsqrt r d a p f s
  | .vrcp r d a p f => Sys2Proof.Machine.execVrcp r d a p f s
  | .vrsqrt r d a p f => Sys2Proof.Machine.execVrsqrt r d a p f s
  | .vsum r d a p f => Sys2Proof.Machine.execVsum r d a p f s
  | .vdot r d a b p f => Sys2Proof.Machine.execVdot r d a b p f s
  | .vcvt r d a c p f => Sys2Proof.Machine.execVcvt r d a c p f s
  | .vcvtSat r d a c p f => Sys2Proof.Machine.execVcvtSat r d a c p f s
  | .vwiden r d a c f => Sys2Proof.Machine.execVwiden r d a c f s
  | .vnarrow r d a c f => Sys2Proof.Machine.execVnarrow r d a c f s
  | .vnarrowSat r d a c f => Sys2Proof.Machine.execVnarrowSat r d a c f s
  | .vqnt r d a c f => Sys2Proof.Machine.execVqnt r d a c f s
  | .vscale r d a b p f => Sys2Proof.Machine.execVscale r d a b p f s
  | .vmin d a b p f => Sys2Proof.Machine.execVmin d a b p f s
  | .vmax d a b p f => Sys2Proof.Machine.execVmax d a b p f s
  | .vabs d a p f => Sys2Proof.Machine.execVabs d a p f s
  | .vneg d a p f => Sys2Proof.Machine.execVneg d a p f s
  | .vmaxr d a p f => Sys2Proof.Machine.execVmaxr d a p f s
  | .vminr d a p f => Sys2Proof.Machine.execVminr d a p f s
  | .vexp2 d a p f => Sys2Proof.Machine.execVexp2 d a p f s
  | .vlog2 d a p f => Sys2Proof.Machine.execVlog2 d a p f s
  | .vexp d a p f => Sys2Proof.Machine.execVexp d a p f s
  | .vlog d a p f => Sys2Proof.Machine.execVlog d a p f s
  | .vtanh d a p f => Sys2Proof.Machine.execVtanh d a p f s
  | .vsigm d a p f => Sys2Proof.Machine.execVsigm d a p f s
  | .vcmp d a b p f c => Sys2Proof.Machine.execVcmp d a b p f c s
  | .vsel d a b p f => Sys2Proof.Machine.execVsel d a b p f s
  | .vand d a b p f => Sys2Proof.Machine.execVand d a b p f s
  | .vor d a b p f => Sys2Proof.Machine.execVor d a b p f s
  | .vxor d a b p f => Sys2Proof.Machine.execVxor d a b p f s
  | .vnot d a p f => Sys2Proof.Machine.execVnot d a p f s
  | .vshl d a b p f => Sys2Proof.Machine.execVshl d a b p f s
  | .vshr d a b p f => Sys2Proof.Machine.execVshr d a b p f s
  | .vsar d a b p f => Sys2Proof.Machine.execVsar d a b p f s
  | .vperm d a b p f => Sys2Proof.Machine.execVperm d a b p f s
  | .vbcast d a p f => Sys2Proof.Machine.execVbcast d a p f s
  | .vext d a b f => Sys2Proof.Machine.execVext d a b f s
  | .vins d a b f => Sys2Proof.Machine.execVins d a b f s
  | .vloop a => Sys2Proof.Machine.execVloop a s
  | .vend => Sys2Proof.Machine.execVend s
  | .pand d a b => Sys2Proof.Machine.execPand d a b s
  | .por d a b => Sys2Proof.Machine.execPor d a b s
  | .pxor d a b => Sys2Proof.Machine.execPxor d a b s
  | .pnot d a => Sys2Proof.Machine.execPnot d a s
  | .pcnt d a => Sys2Proof.Machine.execPcnt d a s
  | .pfirst d a => Sys2Proof.Machine.execPfirst d a s
  | .vld d a b => Sys2Proof.Machine.execVld d a b s
  | .vst d a b => Sys2Proof.Machine.execVst d a b s
  | .vlds d a b p f => Sys2Proof.Machine.execVlds d a b p f s
  | .vgath d a b p f => Sys2Proof.Machine.execVgath d a b p f s
  | .vscat d a b p f => Sys2Proof.Machine.execVscat d a b p f s
  | .csrr d c => Sys2Proof.Machine.execCsrr d c s
  | .csrw d a c => Sys2Proof.Machine.execCsrw d a c s
  | .csrs d a c => Sys2Proof.Machine.execCsrs d a c s
  | .csrc d a c => Sys2Proof.Machine.execCsrc d a c s
  | .trap im => Sys2Proof.Machine.execTrap im s
  | .brk im => Sys2Proof.Machine.execBrk im s
  | .eret => Sys2Proof.Machine.execEret s
  | .wfi => Sys2Proof.Machine.execWfi s
  | .tlbsd a => Sys2Proof.Machine.execTlbsd a s
  | .wheelLoad a => Sys2Proof.Machine.execWheelLoad a s
  | .wheelArm => Sys2Proof.Machine.execWheelArm s
  | .wheelSwap => Sys2Proof.Machine.execWheelSwap s
  | .partQuery d a => Sys2Proof.Machine.execPartQuery d a s
  | .partQuiesce d a => Sys2Proof.Machine.execPartQuiesce d a s
  | .partCommit d a => Sys2Proof.Machine.execPartCommit d a s
  | .mma w => Sys2Proof.Machine.execMma w s
  | .mmz w => Sys2Proof.Machine.execMmz w s
  | .accld w => Sys2Proof.Machine.execAccld w s
  | .accst w => Sys2Proof.Machine.execAccst w s
  | .accclr w => Sys2Proof.Machine.execAccclr w s
  | .copy w => Sys2Proof.Machine.execCopy w s
  | .copyRingAppend w => Sys2Proof.Machine.execCopyRingAppend w s
  | .copyRed w => Sys2Proof.Machine.execCopyRed w s
  | .copyMc w => Sys2Proof.Machine.execCopyMc w s
  | .fill w => Sys2Proof.Machine.execFill w s
  | .gath w => Sys2Proof.Machine.execGath w s
  | .scat w => Sys2Proof.Machine.execScat w s
  | .coll w => Sys2Proof.Machine.execColl w s
  | .pubc w => Sys2Proof.Machine.execPubc w s
  | .tclass w => Sys2Proof.Machine.execTclass w s
  | .seqJmp w => Sys2Proof.Machine.execSeqJmp w s
  | .seqLoop w => Sys2Proof.Machine.execSeqLoop w s
  | .seqWaitOwn w => Sys2Proof.Machine.execSeqWaitOwn w s
  | .seqWaitSig w => Sys2Proof.Machine.execSeqWaitSig w s
  | .seqSig w => Sys2Proof.Machine.execSeqSig w s
  | .seqEnd w => Sys2Proof.Machine.execSeqEnd w s
  | .sequencerFetch cell core copyProg => Sys2Proof.Machine.execSequencerFetch cell core copyProg s
  | .forkedVectorIssue cell core => Sys2Proof.Machine.execForkedVectorIssue cell core s
  | .vectorStart cell t => Sys2Proof.Machine.execVectorStart cell t s
  | .vectorComplete cell core n => Sys2Proof.Machine.execVectorComplete cell core n s
  | .loopBufferReplay sid => Sys2Proof.Machine.execLoopBufferReplay sid s
  | .matrixUpdate cell => Sys2Proof.Machine.execMatrixUpdate cell s
  | .deferredTrap => Sys2Proof.Machine.execDeferredTrap s
  | .parkResume => Sys2Proof.Machine.execParkResume s
  | .refusedRetry => Sys2Proof.Machine.execRefusedRetry s
  | .localPairing cell pos t => Sys2Proof.Machine.execLocalPairing cell pos t s
  | .loadReturn id => Sys2Proof.Machine.execLoadReturn id s
  | .tokenFill id => Sys2Proof.Machine.execTokenFill id s
  | .acknowledgement id => Sys2Proof.Machine.execAcknowledgement id s
  | .commonsQueueEntry id => Sys2Proof.Machine.execCommonsQueueEntry id s
  | .commonsPairing die pos t => Sys2Proof.Machine.execCommonsPairing die pos t s
  | .turnBoundary die fcyc => Sys2Proof.Machine.execTurnBoundary die fcyc s
  | .remoteAccessArrival id => Sys2Proof.Machine.execRemoteAccessArrival id s
  | .messageArrival id => Sys2Proof.Machine.execMessageArrival id s
  | .messageResponse id => Sys2Proof.Machine.execMessageResponse id s
  | .translationWalk id => Sys2Proof.Machine.execTranslationWalk id s
  | .faultRecordWrite p => Sys2Proof.Machine.execFaultRecordWrite p s
  | .fqdoneWrite by_ p v => Sys2Proof.Machine.execFqdoneWrite by_ p v s
  | .sliceWriteSerialise id => Sys2Proof.Machine.execSliceWriteSerialise id s
  | .sliceReadMiss id => Sys2Proof.Machine.execSliceReadMiss id s
  | .sliceAtomic id => Sys2Proof.Machine.execSliceAtomic id s
  | .remoteWriteForward die home => Sys2Proof.Machine.execRemoteWriteForward die home s
  | .hostCxlAccess write pa n v => Sys2Proof.Machine.execHostCxlAccess write pa n v s
  | .lqtailWrite by_ p q v => Sys2Proof.Machine.execLqtailWrite by_ p q v s
  | .lqsizeWrite by_ p q base v => Sys2Proof.Machine.execLqsizeWrite by_ p q base v s
  | .launchRead p => Sys2Proof.Machine.execLaunchRead p s
  | .recordPlace p => Sys2Proof.Machine.execRecordPlace p s
  | .continuationPlace p => Sys2Proof.Machine.execContinuationPlace p s
  | .agePromotion cell => Sys2Proof.Machine.execAgePromotion cell s
  | .poolGrant cell => Sys2Proof.Machine.execPoolGrant cell s
  | .taskEnd sid => Sys2Proof.Machine.execTaskEnd sid s
  | .killEffect => Sys2Proof.Machine.execKillEffect s
  | .puntySpill sid => Sys2Proof.Machine.execPuntySpill sid s
  | .migrationSend sid => Sys2Proof.Machine.execMigrationSend sid s
  | .migrationArrival id => Sys2Proof.Machine.execMigrationArrival id s
  | .forwardExpiry cell core n fc => Sys2Proof.Machine.execForwardExpiry cell core n fc s
  | .ringReserve cell serial => Sys2Proof.Machine.execRingReserve cell serial s
  | .ringLanding cell serial n scale => Sys2Proof.Machine.execRingLanding cell serial n scale s
  | .copyChunk cell serial chunk => Sys2Proof.Machine.execCopyChunk cell serial chunk s
  | .reducePieceApply cell serial chunk piece => Sys2Proof.Machine.execReducePieceApply cell serial chunk piece s
  | .collArrival cell serial => Sys2Proof.Machine.execCollArrival cell serial s
  | .collResultWrite die col rid => Sys2Proof.Machine.execCollResultWrite die col rid s
  | .peerChunkReceive peer srcCell serial chunk addr udp rpart va red bytes => Sys2Proof.Machine.execPeerChunkReceive peer srcCell serial chunk addr udp rpart va red bytes s
  | .peerAckReceive cell serial chunk status bytes => Sys2Proof.Machine.execPeerAckReceive cell serial chunk status bytes s
  | .peerRetransmitTimeout cell serial chunk => Sys2Proof.Machine.execPeerRetransmitTimeout cell serial chunk s
  | .barrierArrival p bar => Sys2Proof.Machine.execBarrierArrival p bar s
  | .barrierRelease p bar => Sys2Proof.Machine.execBarrierRelease p bar s
  | .gearEvaluate cell => Sys2Proof.Machine.execGearEvaluate cell s
  | .lholdExpiry cell budget => Sys2Proof.Machine.execLholdExpiry cell budget s
  | .hopEnd cell => Sys2Proof.Machine.execHopEnd cell s
  | .clockStepEnd fabric n => Sys2Proof.Machine.execClockStepEnd fabric n s
  | .powerSample watts amps ballast deepen cells => Sys2Proof.Machine.execPowerSample watts amps ballast deepen cells s
  | .removalTimeout sid => Sys2Proof.Machine.execRemovalTimeout sid s
  | .exemptionLapse sid => Sys2Proof.Machine.execExemptionLapse sid s
  | .fabricOpEval die => Sys2Proof.Machine.execFabricOpEval die s
  | .droop cell => Sys2Proof.Machine.execDroop cell s
  | .droopRecovery cell => Sys2Proof.Machine.execDroopRecovery cell s
  | .bretWrite by_ die v => Sys2Proof.Machine.execBretWrite by_ die v s
  | .optableWrite by_ n v => Sys2Proof.Machine.execOptableWrite by_ n v s
  | .keyDiscard by_ n v => Sys2Proof.Machine.execKeyDiscard by_ n v s
  | .asidtbWrite by_ die v => Sys2Proof.Machine.execAsidtbWrite by_ die v s
  | .casidWrite by_ cell v => Sys2Proof.Machine.execCasidWrite by_ cell v s
  | .pctlWrite by_ p v => Sys2Proof.Machine.execPctlWrite by_ p v s
  | .ceilWrite by_ cell v => Sys2Proof.Machine.execCeilWrite by_ cell v s
  | .prailWrite by_ v => Sys2Proof.Machine.execPrailWrite by_ v s
  | .agemonClr by_ cell v => Sys2Proof.Machine.execAgemonClr by_ cell v s
  | .registerWrite by_ off v => Sys2Proof.Machine.execRegisterWrite by_ off v s
  | .linkDown => Sys2Proof.Machine.execLinkDown s
  | .linkUp width => Sys2Proof.Machine.execLinkUp width s
  | .dieReset die => Sys2Proof.Machine.execDieReset die s
  | .powerUpBoot verified time svn digest map => Sys2Proof.Machine.execPowerUpBoot verified time svn digest map s
  | .hostImageSupply verified time svn digest map => Sys2Proof.Machine.execHostImageSupply verified time svn digest map s
  | .puntyRestore sid => Sys2Proof.Machine.execPuntyRestore sid s
  | .lineFilledFromMemory die line => Sys2Proof.Machine.execLineFilledFromMemory die line s
  | .memoryWriteAcknowledged die line => Sys2Proof.Machine.execMemoryWriteAcknowledged die line s
  | .uncorrectableError site => Sys2Proof.Machine.execUncorrectableError site s
  | .attestationReport nonce => Sys2Proof.Machine.execAttestationReport nonce s
  | .standby => Sys2Proof.Machine.execStandby s
  | .flitReplay => Sys2Proof.Machine.execFlitReplay s

end Sys2Proof.Machine
end

