-- ==== Sys2Proof/Machine/Fetch.lean ====
section
/-! DEFINITION. Whose turn it is and what it does: the passing of time, the choice of a turn, fetching a thread instruction,
the heads of the engine queues (spec/01_machine.md R14, spec/04_memories.md R85-R86, R100-R108, spec/06_queues.md R154-R156;
notes/assumptions/1.md, 2.md, 3.md). -/

namespace Sys2Proof.Machine

/-! ## Time (R186) -/

/-- Time passes: 1 ns and a free time beyond it; the cell and fabric cycles that it holds are counted, the pairings of a die's 1,024
positions in which no unit was served (R95), and lattice flits, a free number
for each die, since the spec does not say how a message is cut into flits or which die counts one (R194; DESIGN CHOICE,
notes/assumptions/98.md). -/
def passTime (s : State) : State :=
  let t : State := settleStretches { s with gts := s.gts + 1#64 + wrap64 (Config.elapsed s.freeCtr), freeCtr := s.freeCtr + 1 }
  let cellBlocks := (s.regs.filter (fun q => (q.1 % 0x10000000) / 0x10000 = 1 && q.1 % 0x100 < 0x40 && bits q.2 7 0 = 1 &&
    decide (q.1 < pkgBase))).map (·.1)
  let dieBlocks (ev : Nat) := (s.regs.filter (fun q => (q.1 % 0x10000000) / 0x40 = 0x800 && bits q.2 7 0 = ev &&
    decide (q.1 < pkgBase))).map (·.1)
  let t := cellBlocks.foldl (fun t off =>
    let cell := 240 * (off / 0x10000000) + (off % 0x10000) / 0x100
    bump t (cellPerf cell) 1 (t.ccyc cell - s.ccyc cell) (off % 0x100 / 8)) t
  let t := (dieBlocks 1).foldl (fun t off =>
    let d := off / 0x10000000
    bump t (diePerf d) 1 (t.fcyc d - s.fcyc d) (off % 0x40 / 8)) t
  let pairings (d : Nat) : Nat := 1024 * (t.fcyc d - s.fcyc d)
  let t := (dieBlocks 3).foldl (fun t off =>
    let d := off / 0x10000000
    bump t (diePerf d) 3 (pairings d - FMap.get 0 s.served d) (off % 0x40 / 8)) t
  let t : State := { t with served := s.served.filterMap (fun (q : Nat × Nat) =>
    if q.2 ≤ pairings q.1 then none else some (q.1, q.2 - pairings q.1)) }
  (dieBlocks 9).foldl (fun t off =>
    let d := off / 0x10000000
    bump t (diePerf d) 9 (Config.flitsOf s.freeCtr d) (off % 0x40 / 8)) t

/-! ## Choosing a turn (notes/assumptions/2.md) -/

/-- The turn of the rota's head, which goes to the rota's end. -/
def rotaTurn (s : State) : Option Turn × State :=
  match s.rota with
  | [] => (none, s)
  | sid :: rest => (some (.issue sid), { s with rota := rest ++ [sid], workTurn := true })

/-- The step that has been due longest. -/
def dueTurn (s : State) : Option Turn × State :=
  match s.work with
  | [] => (none, s)
  | t :: rest => (some t, { s with work := rest, workTurn := false })

/-- The next turn: one chosen from outside if any, else due steps and issues alternate. -/
def chooseTurn (s : State) : Option Turn × State :=
  match s.agenda with
  | t :: rest => (some t, { s with agenda := rest })
  | [] =>
    if s.workTurn || s.rota.isEmpty then
      match dueTurn s with
      | (some t, s') => (some t, s')
      | (none, _) => rotaTurn s
    else rotaTurn s

/-! ## Fetching (R85, R86, R108, R225) -/

/-- Whether the power controller holds a slot removed (R204, R205). -/
def isRemoved (s : State) (sid : Nat) : Bool := (s.slot sid).removedAt.isSome

/-- Whether an instruction may be captured by the loop buffer: groups 0x20-0x26, `vld`, `vst`, and `vend` (R346). -/
def capturable (i : Instr) : Bool :=
  match i with
  | .vld _ _ _ => true
  | .vst _ _ _ => true
  | .vend => true
  | _ =>
    match encode i with
    | some w => 0x20 ≤ (w.extractLsb' 26 6).toNat && (w.extractLsb' 26 6).toNat ≤ 0x26
    | none => false

/-- Decodes a fetched word for a slot; a word that is no instruction traps ILLEGAL (R243), and so does one that the loop
buffer may not capture (R346). -/
def decodeFor (s : State) (sid : Nat) (w : BitVec 32) : Option Instr × State :=
  match decode w with
  | .error e => (none, trapNow s sid cIllegal e.detail (w.setWidth 64))
  | .ok i =>
    match (s.slot sid).cap with
    | none => (some i, s)
    | some l =>
      if !capturable i || (l.body.length = 16 && i ≠ .vend) then (none, trapNow s sid cIllegal 0 (w.setWidth 64))
      else (some i, s)

/-- Fetches the instruction at a slot's PC: traps and demand faults as R85, R86 and R108 say. -/
def fetchAt (s : State) (sid : Nat) : Option Instr × State :=
  let pc := (s.slot sid).pc
  let cell := cellOfSlot sid
  if !canonical pc then (none, trapNow s sid cPage 2 pc)
  else if pc.getLsbD 56 then (none, trapNow s sid cAccess 0 pc)
  else
    match translate s (s.partN cell) (dieOf cell) (s.casid cell) pc.toNat false false true with
    | (.denied, s) => (none, trapNow s sid cPage 2 pc)
    | (.demand, s) => (none, parkSlot (demandFault s (s.partN cell) (s.casid cell) 2 (globalPos (coreOf sid)) pc) sid .fault)
    | (.ok pa key attr, s) =>
      if physErr s pa 4 then (none, trapNow s sid cMachineCheck 0 pc)
      else
        let r := physRead (countSlice s (dieOf cell) (lineOf pa) key attr) pa 4 key
        decodeFor r.2 sid (BitVec.ofNat 32 r.1)

/-- The state that an outcome leaves; a stop leaves the state as it was. -/
def after (s : State) (o : Host.Outcome State Fault Refusal) : State :=
  match o with
  | .next t => t
  | _ => s

/-- A slot that stalls in a begun `tlbsd`, at its issue cycle: it ends or stalls on, and is not fetched again (R111, R317). -/
def goOnShoot (s : State) : State :=
  match (s.slot s.cur).shoot with
  | some q => after s (finish s (endShoot s q.1 q.2))
  | none => s

/-- The retirement that a slot issues in this cycle, if it does: a kill that meets it finds it first (R66, R153). -/
def retiresNow (s : State) (sid : Nat) : Option (Option Instr × State) :=
  let x := s.slot sid
  if !x.running || isRemoved s sid || x.shoot.isSome || x.park.isSome || x.await.isSome || x.deferred.isSome then none
  else
    match fetchAt s sid with
    | (some (.retire a m), t) =>
      (match ((after t (execRetire a m t)).slot sid).status with
       | .ending .trapped _ => none
       | .ending _ _ => some (some (.retire a m), t)
       | _ => none)
    | _ => none

/-- What a slot does at its issue cycle (R14): nothing, an event of its own, or the instruction at its PC. A deferred trap is taken
before the next instruction issues: one that has issued and waits ends first (R83). -/
def issueTurn (s : State) (sid : Nat) : Option Instr × State :=
  let s := { s with cur := sid }
  let x := s.slot sid
  if !x.isLive || (clockStop (s.cell (cellOfSlot sid))).isSome then (none, s)
  else if x.killReq.isSome then (retiresNow s sid).getD (some .killEffect, s)
  else if !x.running then (none, s)
  else if isRemoved s sid then (none, count s (cellPerf (cellOfSlot sid)) 3 1)
  else if x.shoot.isSome then (none, goOnShoot s)
  else
    match x.park with
    | some .refused => (some .refusedRetry, s)
    | some _ => (some .parkResume, s)
    | none =>
      if x.await.isSome then (none, s)
      else if x.deferred.isSome then (some .deferredTrap, s)
      else fetchAt s sid

/-- The word that a core's sequencer is to carry out. -/
def controlWord (s : State) (core : Nat) (copyProg : Bool) : Option CmdWord :=
  match (if copyProg then (s.core core).seqC else (s.core core).seqM) with
  | some q => q.word
  | none => none

/-- A step of a timer, of a peer or of the power controller that is due or waits, run (R31, R158, R179, R197, R205, R217). -/
def runLater (s : State) (l : Later) : State :=
  after s (match l with
    | .age cell => execAgePromotion cell s
    | .removal sid => execRemovalTimeout sid s
    | .lapse sid => execExemptionLapse sid s
    | .lhold cell budget => execLholdExpiry cell budget s
    | .fabric die => execFabricOpEval die s
    | .peerChunk peer srcCell serial chunk addr udp rpart va red bytes =>
      execPeerChunkReceive peer srcCell serial chunk addr udp rpart va red bytes s
    | .tile job => .next (endTile s job)
    | .peerAck cell serial chunk status bytes => execPeerAckReceive cell serial chunk status bytes s)

/-- The instruction that a turn runs, and the state in which it runs. -/
def turnInstr (t : Turn) (s : State) : Option Instr × State :=
  match t with
  | .event i => (some i, s)
  | .later l => (none, runLater s l)
  | .issue sid => issueTurn s sid
  | .matrix cell =>
    match matrixPick s cell with
    | some (core, c) => (decodeCommand c.word, { s with cur := 16 * core })
    | none => (none, s)
  | .copy core =>
    match (s.core core).cq with
    | c :: _ => (decodeCommand c.word, { s with cur := 16 * core })
    | [] => (none, s)
  | .control core cp =>
    match controlWord s core cp with
    | some w => (decodeCommand w, { s with cur := 16 * core + cp.toNat })
    | none => (none, s)

/-- Whether the next turn chosen from outside is a power-up. -/
def powerUpNext (s : State) : Bool :=
  match s.agenda with
  | .event (.powerUpBoot _ _ _ _ _) :: _ => true
  | _ => false

/-- One step before its instruction runs: time passes, a turn is chosen; one that replays what was parked waits for older ones (R158). -/
def nextInstr (s : State) : Option Instr × State :=
  match chooseTurn (passTime s) with
  | (none, s) => (none, s)
  | (some t, s) => if replayBehind s t then (none, s.push [t]) else turnInstr t (replayTurn s t)

/-! ## Placing an instruction to be run next (notes/assumptions/3.md) -/

/-- A machine in which partition 0 is committed at level Y with cell 0 and bank group 0, whose gaffer of core 0 runs at the
runtime's entry point, mapped to physical address 0, and issues next. -/
def runnable (s : State) : State :=
  let s := s.setReg (partBase 0) (wrap64 7)
  let s := s.setReg (partBase 0 + 16) 1#64
  let s := s.setReg (partBase 0 + 32) 1#64
  let s := s.setReg (keyReg 0) 1#64
  let s := s.setReg (asidtbOff 0) (wrap64 0x10001)
  let m := Memory.writeN s.phys 0x10000 8 0x20001
  let m := Memory.writeN m 0x20000 8 0x30001
  let m := Memory.writeN m 0x30000 8 0x40001
  let m := Memory.writeN m 0x40040 8 0x1F
  let x : Slot := { Slot.init with status := .live, pc := Config.runtimeEntry, ns := 32, parklim := Config.parkLimit }
  { s with
    phys := m, slots := FMap.put s.slots 0 x, rota := [0], agenda := [.issue 0], cur := 0, powered := true
    tlb := [], lineKey := [], keyMat := [] }

/-- Stores a thread instruction's bytes where the gaffer of core 0 fetches. -/
def placeThread (s : State) (w : Nat) : State :=
  let s := runnable s
  { s with phys := Memory.writeN s.phys 0 4 w }

/-- A command word from the bits of the opcode table's numbering. -/
def cmdOfBits (w : Nat) : CmdWord := ⟨wrap64 w, wrap64 (w / 2 ^ 64), wrap64 (w / 2 ^ 128), wrap64 (w / 2 ^ 192)⟩

/-- Puts a command word where the next turn takes it: at the head of core 0's matrix or copy queue, or at its matrix
sequencer. -/
def placeCommand (s : State) (w : Nat) : State :=
  let s := runnable s
  let c : Cmd := { word := cmdOfBits w, sid := 0, gen := 0#8, fc := 0, forked := false }
  match Cmd.queueOf c.word with
  | some 0 => { s.modCore 0 (fun k => { k with mq := [c] }) with agenda := [.matrix 0] }
  | some 1 => { s.modCore 0 (fun k => { k with cq := [c] }) with agenda := [.copy 0] }
  | _ =>
    let q : Seq := { sid := 0, gen := 0#8, base := 0#64, next := 1, loops := [], colr := 0#64, owed := 0, word := some c.word, ending := none }
    { s.modCore 0 (fun k => { k with seqM := some q }) with agenda := [.control 0 false] }

end Sys2Proof.Machine
end

