-- ==== Sys2Proof/Machine/Step.lean ====
section
/-! DEFINITION. One step of the machine: time passes, a turn is chosen, and what the turn runs is run. -/

namespace Sys2Proof.Machine

/-- One step. In standby the package is unpowered and takes none but a power-up that comes from outside (R222, R224)
(DESIGN CHOICE, notes/assumptions/72.md) (DESIGN CHOICE, notes/assumptions/80.md). -/
def step (s : State) : Host.Outcome State Fault Refusal :=
  if s.powered || powerUpNext s then
    match nextInstr s with
    | (some i, t) => exec i t
    | (none, t) => .next t
  else .fault .unpowered

/-- The state with an instruction stored where the next step fetches it (notes/assumptions/3.md): a thread instruction of up
to 32 bits, else a command word of 256 bits. -/
def State.withFetchWord (s : State) (nbits w : Nat) : State :=
  if nbits ≤ 32 then placeThread s w else placeCommand s w

end Sys2Proof.Machine
end

