-- ==== Sys2Proof/Safety.lean ====
section
/-! DEFINITION. What counts as a safe run: the machine is powered and takes a next state at every step. -/

namespace Sys2Proof.Safety

open Sys2Proof.Machine

/-- A step from this state gives a next state: it neither faults nor is refused. -/
def Goes (s : State) : Prop := ∃ t, step s = .next t

/-- Memory in canonical form everywhere: physical memory, every cell's local memory, every die's commons. -/
def MemoryCanonical (s : State) : Prop :=
  Memory.wf s.phys = true ∧ (∀ q ∈ s.cells, Memory.wf q.2.mem = true) ∧ (∀ q ∈ s.commons, Memory.wf q.2 = true)

end Sys2Proof.Safety
end

