-- ==== Sys2Proof/Certificates/Slice0/Obligations.lean ====
section
/-! DEFINITION. The statements for the provers, and the predicates that they are stated with. -/

namespace Sys2Proof.Claims

open Sys2Proof.Machine

/-! ## Words used in the statements -/

/-- The result of `exec`, and of `step`. -/
abbrev Out : Type := Host.Outcome State Fault Refusal

/-- A scalar register that an instruction may read now: below the slot's count, full, without an uncorrectable error
(R63, R65, R84). -/
def Readable (x : Slot) (r : BitVec 6) : Prop :=
  r.toNat < x.ns ∧ x.sF r.toNat = true ∧ (r = 0#6 ∨ x.serr.getLsbD r.toNat = false)

/-- A scalar register that an instruction may write now: below the slot's count, nothing owed to it (R63, R64). -/
def Writable (x : Slot) (r : BitVec 6) : Prop := r.toNat < x.ns ∧ x.sP r.toNat = false

/-- The slot that issues. -/
abbrev here (s : State) : Slot := s.slot s.cur

/-- The cell of the slot that issues. -/
abbrev home (s : State) : Nat := cellOfSlot s.cur

/-- Nothing changed but the issuing slot and the performance counters of its cell: no other slot, no memory, no accumulator,
no queue, no other special register. -/
def OnlyIssuer (s t : State) : Prop :=
  t = { s with slots := t.slots, regs := t.regs } ∧ (∀ j, j ≠ s.cur → t.slot j = s.slot j) ∧
    ∀ off, off / 0x100 ≠ cellPerf (home s) / 0x100 → t.reg off = s.reg off

/-- Every byte of physical memory, of every cell's local memory and of every die's commons reads as before. -/
def SameBytes (s t : State) : Prop :=
  (∀ a, Memory.read t.phys a = Memory.read s.phys a) ∧ (∀ c a, Memory.read (t.cell c).mem a = Memory.read (s.cell c).mem a) ∧
    ∀ d a, Memory.read (t.commonsOf d) a = Memory.read (s.commonsOf d) a

/-! ## What the scalar instructions compute, from R257-R264 -/

/-- Operands, sync-read bits and result of an instruction on two registers (R257-R259). -/
def aluTwo : Instr → Option (BitVec 6 × BitVec 6 × BitVec 6 × Bool × Bool × (Word → Word → Word))
  | .add d a b m n => some (d, a, b, m, n, fun x y => BitVec.ofNat 64 (x.toNat + y.toNat))
  | .sub d a b m n => some (d, a, b, m, n, fun x y => BitVec.ofInt 64 ((x.toNat : Int) - y.toNat))
  | .mul d a b m n => some (d, a, b, m, n, fun x y => BitVec.ofNat 64 (x.toNat * y.toNat))
  | .mulh d a b m n => some (d, a, b, m, n, fun x y => BitVec.ofInt 64 ((x.toInt * y.toInt).fdiv (2 ^ 64)))
  | .mulhu d a b m n => some (d, a, b, m, n, fun x y => BitVec.ofNat 64 (x.toNat * y.toNat / 2 ^ 64))
  | .div d a b m n => some (d, a, b, m, n, fun x y =>
      if y.toInt = 0 then BitVec.ofInt 64 (-1)
      else BitVec.ofInt 64 (x.toInt.sign * y.toInt.sign * (x.toInt.natAbs / y.toInt.natAbs : Nat)))
  | .divu d a b m n => some (d, a, b, m, n, fun x y =>
      if y.toNat = 0 then BitVec.ofInt 64 (-1) else BitVec.ofNat 64 (x.toNat / y.toNat))
  | .rem d a b m n => some (d, a, b, m, n, fun x y =>
      if y.toInt = 0 then x
      else BitVec.ofInt 64 (x.toInt - y.toInt * (x.toInt.sign * y.toInt.sign * (x.toInt.natAbs / y.toInt.natAbs : Nat))))
  | .remu d a b m n => some (d, a, b, m, n, fun x y =>
      if y.toNat = 0 then x else BitVec.ofNat 64 (x.toNat - y.toNat * (x.toNat / y.toNat)))
  | .and d a b m n => some (d, a, b, m, n, fun x y => x &&& y)
  | .or d a b m n => some (d, a, b, m, n, fun x y => x ||| y)
  | .xor d a b m n => some (d, a, b, m, n, fun x y => x ^^^ y)
  | .andn d a b m n => some (d, a, b, m, n, fun x y => x &&& ~~~y)
  | .orn d a b m n => some (d, a, b, m, n, fun x y => x ||| ~~~y)
  | .shl d a b m n => some (d, a, b, m, n, fun x y => if y.toNat < 64 then x <<< y.toNat else 0#64)
  | .shr d a b m n => some (d, a, b, m, n, fun x y => if y.toNat < 64 then x >>> y.toNat else 0#64)
  | .sar d a b m n => some (d, a, b, m, n, fun x y =>
      if y.toNat < 64 then BitVec.ofInt 64 (x.toInt.fdiv (2 ^ y.toNat)) else if 0 ≤ x.toInt then 0#64 else BitVec.allOnes 64)
  | .rol d a b m n => some (d, a, b, m, n, fun x y => x.rotateLeft (y.toNat % 64))
  | .min d a b m n => some (d, a, b, m, n, fun x y => if x.toInt ≤ y.toInt then x else y)
  | .max d a b m n => some (d, a, b, m, n, fun x y => if y.toInt ≤ x.toInt then x else y)
  | .minu d a b m n => some (d, a, b, m, n, fun x y => if x.toNat ≤ y.toNat then x else y)
  | .maxu d a b m n => some (d, a, b, m, n, fun x y => if y.toNat ≤ x.toNat then x else y)
  | .slt d a b m n => some (d, a, b, m, n, fun x y => if x.toInt < y.toInt then 1#64 else 0#64)
  | .sltu d a b m n => some (d, a, b, m, n, fun x y => if x.toNat < y.toNat then 1#64 else 0#64)
  | .seq d a b m n => some (d, a, b, m, n, fun x y => if x = y then 1#64 else 0#64)
  | .sne d a b m n => some (d, a, b, m, n, fun x y => if x = y then 0#64 else 1#64)
  | _ => none

/-- Operands, sync-read bit and result of an instruction on one register and perhaps an immediate (R260-R262, R264). -/
def aluOne : Instr → Option (BitVec 6 × BitVec 6 × Bool × (Word → Word))
  | .clz d a m => some (d, a, m, fun x => BitVec.ofNat 64 (((List.range 64).reverse.takeWhile (fun i => !x.getLsbD i)).length))
  | .ctz d a m => some (d, a, m, fun x => BitVec.ofNat 64 (((List.range 64).takeWhile (fun i => !x.getLsbD i)).length))
  | .popc d a m => some (d, a, m, fun x => BitVec.ofNat 64 (((List.range 64).filter (fun i => x.getLsbD i)).length))
  | .sext d a w m => some (d, a, m, fun x => (x.setWidth (8 * 2 ^ w.toNat)).signExtend 64)
  | .zext d a w m => some (d, a, m, fun x => (x.setWidth (8 * 2 ^ w.toNat)).setWidth 64)
  | .bswap d a m => some (d, a, m, fun x =>
      x.extractLsb' 0 8 ++ x.extractLsb' 8 8 ++ x.extractLsb' 16 8 ++ x.extractLsb' 24 8 ++ x.extractLsb' 32 8 ++
        x.extractLsb' 40 8 ++ x.extractLsb' 48 8 ++ x.extractLsb' 56 8)
  | .addi d a m i => some (d, a, m, fun x => BitVec.ofInt 64 (x.toInt + i.toInt))
  | .andi d a m i => some (d, a, m, fun x => x &&& i.signExtend 64)
  | .ori d a m i => some (d, a, m, fun x => x ||| i.signExtend 64)
  | .xori d a m i => some (d, a, m, fun x => x ^^^ i.signExtend 64)
  | .slti d a m i => some (d, a, m, fun x => if x.toInt < i.toInt then 1#64 else 0#64)
  | .sltui d a m i => some (d, a, m, fun x => if x.toNat < (i.signExtend 64).toNat then 1#64 else 0#64)
  | .shli d a m h => some (d, a, m, fun x => x <<< h.toNat)
  | .shri d a m h => some (d, a, m, fun x => x >>> h.toNat)
  | .sari d a m h => some (d, a, m, fun x => BitVec.ofInt 64 (x.toInt.fdiv (2 ^ h.toNat)))
  | .lea d b z y o => some (d, b, y, fun x => BitVec.ofInt 64 (x.toInt + o.toInt * 2 ^ z.toNat))
  | _ => none

/-- Destination and value of an instruction without a register source, at an address (R263). -/
def aluNone : Instr → Option (BitVec 6 × (Word → Word))
  | .lui d i => some (d, fun _ => BitVec.ofInt 64 (i.toInt * 4096))
  | .pcrel d i => some (d, fun pc => BitVec.ofInt 64 (pc.toInt + i.toInt * 4096))
  | _ => none

/-- Sources, offset in words and condition of a conditional branch (R266). -/
def branchOf : Instr → Option (BitVec 6 × BitVec 6 × BitVec 11 × (Word → Word → Prop))
  | .bEq a b o => some (a, b, o, fun x y => x = y)
  | .bNe a b o => some (a, b, o, fun x y => x ≠ y)
  | .bLt a b o => some (a, b, o, fun x y => x.toInt < y.toInt)
  | .bGe a b o => some (a, b, o, fun x y => y.toInt ≤ x.toInt)
  | .bLtu a b o => some (a, b, o, fun x y => x.toNat < y.toNat)
  | .bGeu a b o => some (a, b, o, fun x y => y.toNat ≤ x.toNat)
  | _ => none

/-- Registers that CVMASK names within the slot's counts (R268): bits 1-31 for s1-s31, bits 32-63 for v0-v31. -/
def NamedS (x : Slot) (r : Nat) : Prop := 1 ≤ r ∧ r < 32 ∧ x.cvmask.getLsbD r = true ∧ r < x.ns
def NamedV (x : Slot) (r : Nat) : Prop := r < 32 ∧ x.cvmask.getLsbD (32 + r) = true ∧ r < x.nv

/-- Dead marking does not have to wait: liveness-table mode, or no named register is owed anything (R268). -/
def MayMark (x : Slot) : Prop :=
  x.tid.getLsbD 60 = true ∨ (∀ r < 32, NamedS x r → x.sP r = false) ∧ (∀ r < 32, NamedV x r → x.vP r = false)

/-- A slot before and after dead marking, a link register and the PC aside (R69, R268): in convention-mask mode the named
registers read zero, are full and dead; nothing else has changed. -/
def Marked (x y : Slot) (link : Nat) : Prop :=
  y = { x with
    pc := y.pc, sreg := y.sreg, sfull := y.sfull, sdead := y.sdead, serr := y.serr
    vreg := y.vreg, vfull := y.vfull, vdead := y.vdead, verr := y.verr } ∧
  (∀ r < 64, r ≠ link →
    (x.tid.getLsbD 60 = false ∧ NamedS x r → y.sval r = 0#64 ∧ y.sF r = true ∧ y.sdead.getLsbD r = true) ∧
    (¬(x.tid.getLsbD 60 = false ∧ NamedS x r) → y.sval r = x.sval r ∧ y.sF r = x.sF r)) ∧
  (∀ r < 32,
    (x.tid.getLsbD 60 = false ∧ NamedV x r → y.vval r = 0#4096 ∧ y.vF r = true) ∧
    (¬(x.tid.getLsbD 60 = false ∧ NamedV x r) → y.vval r = x.vval r ∧ y.vF r = x.vF r))

/-- The slot after a trap with a cause, a DETAIL and TVAL at its PC (R80): the record in TCAUSE, TEPC and TVAL with HACT set and
DEFER clear; the PC at TVEC, or the slot on its way to its end with status 2 where HACT was set or TVEC is 0. A capture, a park and a
wait for a verdict are over; nothing else has changed. -/
def Trapped (x y : Slot) (cause detail : Nat) (tval : Word) : Prop :=
  y.tcause = BitVec.ofNat 64 (cause + 256 * detail + 0x10000) ∧ y.tepc = x.pc ∧ y.tval = tval ∧
  (x.tcause.getLsbD 16 = false ∧ x.tvec ≠ 0#64 → y.pc = x.tvec &&& ~~~3#64 ∧ y.status = x.status) ∧
  (x.tcause.getLsbD 16 = true ∨ x.tvec = 0#64 → y.pc = x.pc ∧ y.status = .ending .trapped (BitVec.ofNat 32 cause)) ∧
  y = { x with
    tcause := y.tcause, tepc := y.tepc, tval := y.tval, pc := y.pc, status := y.status, cap := none, park := none, tries := 0
    shoot := none, await := none }

/-- The state after an instruction that takes a trap: the slot trapped, nothing else changed; a slot that stops has its end
due. -/
def TakesTrap (s t : State) (cause detail : Nat) (tval : Word) : Prop :=
  t = { s with slots := t.slots, work := t.work } ∧ (∀ j, j ≠ s.cur → t.slot j = s.slot j) ∧
    Trapped (here s) (here { t with cur := s.cur }) cause detail tval

/-- The word of an instruction, as TVAL holds it (R81). -/
def wordOf (i : Instr) : Word := match encode i with | some w => w.setWidth 64 | none => 0#64

/-! ## CSRs, from R71-R78 -/

/-- Writable bits of a CSR (R71-R78); a number that is not here takes no write (R3). -/
def csrMask (n : Nat) : Word :=
  match n with
  | 0x10 => 0x3F#64
  | 0x11 => 7#64
  | 0x12 => 0x1F#64
  | 0x14 => 0xFFFFFFFFFFFFFFFE#64
  | 0x15 => 0x3F#64
  | 0x16 => 0xFFFFFFFF#64
  | 0x18 => 0xFF#64
  | 0x20 => 0xFFFFFFFFFFFFFFFC#64
  | 0x21 => 0xFFFF#64
  | 0x22 => 0xFFFFFFFFFFFFFFFF#64
  | 0x23 => 0xFFFFFFFFFFFFFFFF#64
  | 0x233 => 3#64
  | 0x234 => 0xFFFFFFFF#64
  | n => if 0x200 ≤ n ∧ n < 0x210 then 0x7FFFFFFFFFFFFF#64 else if 0x210 ≤ n ∧ n < 0x220 then 0x1FFFE0#64
         else if 0x220 ≤ n ∧ n < 0x228 then 0x7FFFFFFFF#64 else 0#64

/-- Whether a write of a CSR replaces the whole register: rings, their scale strips, windows (R76-R78). -/
def csrWhole (n : Nat) : Prop := 0x200 ≤ n ∧ n < 0x228

/-- A value written to AOWN claims accumulator k, which another slot of the core holds; it drops one that the slot's commands still
use (R74). -/
def HeldBy (s : State) (v : Word) (k : Nat) : Prop :=
  v.getLsbD k = true ∧ (here s).aown.getLsbD k = false ∧
    ∃ i < 16, 16 * coreOf s.cur + i ≠ s.cur ∧ (s.slot (16 * coreOf s.cur + i)).aown.getLsbD k = true
def Drops (s : State) (v : Word) (k : Nat) : Prop :=
  v.getLsbD k = false ∧ (here s).aown.getLsbD k = true ∧ accBusy s s.cur k = true

/-- A write of a CSR neither waits for the engines nor traps: AOWN, the rings and their strips (R74, R77). -/
def csrFree (s : State) (n : Nat) (v : Word) : Prop :=
  (n = 0x18 → ∀ k < 8, ¬HeldBy s v k ∧ ¬Drops s v k) ∧ (0x200 ≤ n ∧ n < 0x220 → ringBusy s (home s) (n % 16) = false)

/-- Number, destination, source and the value written of an instruction that writes a CSR (R314). -/
def csrOf : Instr → Option (Nat × BitVec 6 × BitVec 6 × (Word → Word → Word))
  | .csrw d a c => some (c.toNat, d, a, fun _ v => v)
  | .csrs d a c => some (c.toNat, d, a, fun old v => old ||| v)
  | .csrc d a c => some (c.toNat, d, a, fun old v => old &&& ~~~v)
  | _ => none

/-! ## Memory instructions, from R264, R271-R287 -/

/-- What a memory instruction asks: its base register and whether it sync-reads it, the address from the base's value, the
registers whose values it sends along, its destination, what is done at the address, ordering bits, and whether it may be
unaligned in the lower half. -/
structure MemReq where
  base : BitVec 6
  sync : Bool
  ea : Word → Word
  data : List (BitVec 6)
  dst : Option (BitVec 6)
  op : MemOp
  acq : Bool
  rel : Bool
  plain : Bool

/-- The n low bytes of a register. -/
def low (x : Slot) (r : BitVec 6) (n : Nat) : Nat := (x.sval r.toNat).toNat % 2 ^ (8 * n)

/-- An atomic with an operation (R283): z selects 8 bytes or 4. -/
def amoReq (x : Slot) (op : AmoOp) (d a : BitVec 6) (m : Bool) (n : Nat) (q r : Bool) : MemReq :=
  { base := a, sync := m, ea := id, data := [d], dst := some d, op := .amo op n (low x d n), acq := q, rel := r, plain := false }

/-- What a memory instruction with scalar operands asks (R276-R285). -/
def memOf (x : Slot) : Instr → Option MemReq
  | .ld d b z y o => some
      { base := b, sync := y, ea := fun v => BitVec.ofInt 64 (v.toInt + o.toInt * 2 ^ z.toNat), data := [], dst := some d
        op := .load (2 ^ z.toNat) false, acq := false, rel := false, plain := true }
  | .st d b z y o => some
      { base := b, sync := y, ea := fun v => BitVec.ofInt 64 (v.toInt + o.toInt * 2 ^ z.toNat), data := [d], dst := none
        op := .store (2 ^ z.toNat) (low x d (2 ^ z.toNat)), acq := false, rel := false, plain := true }
  | .ldS d b z y e => some
      { base := b, sync := y, ea := id, data := [], dst := some d, op := .load (2 ^ z.toNat) e, acq := false, rel := false
        plain := !e }
  | .ldAcq d b z y _ e => some
      { base := b, sync := y, ea := id, data := [], dst := some d, op := .load (2 ^ z.toNat) e, acq := true, rel := false
        plain := false }
  | .stRel d b z y _ => some
      { base := b, sync := y, ea := id, data := [d], dst := none, op := .store (2 ^ z.toNat) (low x d (2 ^ z.toNat)), acq := false
        rel := true, plain := false }
  | .lds d b y => some
      { base := b, sync := y, ea := id, data := [], dst := some d, op := .lds, acq := true, rel := false, plain := false }
  | .sts d b y => some
      { base := b, sync := y, ea := id, data := [d], dst := none, op := .sts (low x d 8), acq := false, rel := true, plain := false }
  | .ldw d b y => some
      { base := b, sync := y, ea := id, data := [], dst := some d, op := .ldw, acq := true, rel := false, plain := false }
  | .fefill d b y => some
      { base := b, sync := y, ea := id, data := [d], dst := none, op := .fefill (low x d 8), acq := false, rel := true
        plain := false }
  | .feempty b y => some
      { base := b, sync := y, ea := id, data := [], dst := none, op := .feempty, acq := false, rel := false, plain := false }
  | .feq d b y => some
      { base := b, sync := y, ea := id, data := [], dst := some d, op := .feq, acq := false, rel := false, plain := false }
  | .amoAdd d a m z q r _ => some (amoReq x .add d a m (if z then 8 else 4) q r)
  | .amoAnd d a m z q r _ => some (amoReq x .and d a m (if z then 8 else 4) q r)
  | .amoOr d a m z q r _ => some (amoReq x .or d a m (if z then 8 else 4) q r)
  | .amoXor d a m z q r _ => some (amoReq x .xor d a m (if z then 8 else 4) q r)
  | .amoMin d a m z q r _ => some (amoReq x .min d a m (if z then 8 else 4) q r)
  | .amoMax d a m z q r _ => some (amoReq x .max d a m (if z then 8 else 4) q r)
  | .amoMinu d a m z q r _ => some (amoReq x .minu d a m (if z then 8 else 4) q r)
  | .amoMaxu d a m z q r _ => some (amoReq x .maxu d a m (if z then 8 else 4) q r)
  | .amoSwap d a m z q r _ => some (amoReq x .swap d a m (if z then 8 else 4) q r)
  | .amoFadd d a m q r _ => some (amoReq x .fadd d a m 4 q r)
  | .cas d a b z q r _ => some
      { base := a, sync := false, ea := id, data := [d, b], dst := some d
        op := .cas (if z then 8 else 4) (low x d (if z then 8 else 4)) (low x b (if z then 8 else 4)), acq := q, rel := r
        plain := false }
  | _ => none

/-- An address that the issuing slot may send an operation to: canonical; aligned, or unaligned in the lower half where the
instruction allows it; in a space that takes the operation; in the privileged aperture only at level Y; no store to a hole of
the commons (R85, R86, R97, R271, R272). -/
def Admitted (s : State) (ea : Word) (op : MemOp) (plain : Bool) : Prop :=
  canonical ea = true ∧ (inPriv ea = true → s.levelY s.cur = true) ∧
    (ea.toNat % op.align = 0 ∨ (plain = true ∧ ea.getLsbD 56 = false)) ∧ op.allowedIn (spaceOf s (home s) ea) = true ∧
    ∀ o, spaceOf s (home s) ea = .commons o → op.isStore = true → holeAt s (home s) o = false

/-- Nothing makes an access of the issuing slot wait: room in UNACK, in a commons queue, and no earlier vector access of the slot
to the same bytes that has not started (R71, R96, R345). -/
def Unhindered (s : State) (ea : Word) (op : MemOp) : Prop :=
  (op.counts = true → (here s).unack ≠ 0xFFFF#64) ∧
    (∀ o, spaceOf s (home s) ea = .commons o →
      commonsPending s (dieOf (home s)) (wheelPos (coreOf s.cur)) < Config.commonsQueue) ∧
    vecPending s s.cur ea op.size = false

/-- The access that an instruction sends out for the issuing slot. -/
def Sent (s : State) (a : Access) (r : MemReq) (ea : Word) : Prop :=
  a.op = r.op ∧ a.va = ea ∧ a.cell = home s ∧ a.core = coreOf s.cur ∧ a.acq = r.acq ∧ a.rel = r.rel ∧
    ∃ oldF, a.src = .slot s.cur (here s).gen (here s).pc (r.dst.map (fun d => d.toNat)) oldF
      (if r.sync = true ∧ r.base ≠ 0#6 then [(here s).takenS r.base.toNat] else []) r.op.counts

/-- The slot after the issue of an access: at PC + 4, its destination owed, UNACK raised where the operation is acknowledged,
every register's value and every other special register as before. -/
def Issued (x y : Slot) (r : MemReq) : Prop :=
  y = { x with
    pc := x.pc + 4#64, unack := if r.op.counts then x.unack + 1#64 else x.unack
    sfull := y.sfull, spend := y.spend, sdead := y.sdead, await := y.await, tries := 0 } ∧
  ∀ d, r.dst = some d → d ≠ 0#6 → y.sF d.toNat = false ∧ y.sP d.toNat = true

/-! ## Lines, blocks, fences -/

/-- The page that a lower-half address of the issuing slot's cell leads to, with what the translation leaves behind. -/
def LeadsTo (s : State) (ea : Word) (rd wr : Bool) (pa key attr : Nat) (u : State) : Prop :=
  xlateCell s (home s) ea rd wr = (.ok pa key attr, u)

/-- Nothing changed in any slot but the issuing one. -/
def OtherSlots (s t : State) : Prop := ∀ j, j ≠ s.cur → t.slot j = s.slot j

/-- No earlier access of the issuing slot to n bytes at an address is still to be performed (R120, R121). -/
def BytesQuiet (s : State) (va : Word) (n : Nat) : Prop :=
  pendingOverlap s s.cur (newAccess s.cur (.blk 0 0 0) (.load n false) va false false 0) = false ∧ vecPending s s.cur va n = false

/-- The same of the line at an address, where it lies in the lower half (R293). -/
def LineQuiet (s : State) (ea : Word) : Prop :=
  canonical ea = true → ea.getLsbD 56 = false → BytesQuiet s (ea &&& ~~~127#64) 128

/-- A die's slice can fill a line that it does not hold: a miss register is free or takes one more read of it (R102). -/
def CanMiss (s : State) (d line : Nat) : Prop := missFree s d line = true ∨ mergeable s d line = true

/-- A block instruction's addresses: a run of `c` units of the commons aperture, and one of the own cell's local memory (R288). -/
def BlockRuns (s : State) (a b : Word) (c : Nat) : Prop :=
  bits a 63 48 = 0xFF02 ∧ a.toNat % 64 = 0 ∧ bits a 47 6 + c ≤ 0x20000 * groupCount s (home s) ∧
    bits b 63 48 = 0xFF00 ∧ b.toNat % 64 = 0 ∧ bits b 47 6 + c ≤ 0x8000

/-! ## Threads -/

/-- A target word that names a register below `lim` of a cell of the partition (R298). -/
def Names (s : State) (w : Word) (lim cell : Nat) : Prop :=
  bits w 63 30 = 0 ∧ bits w 5 0 < lim ∧ s.cellAt (s.partN (home s)) (bits w 21 12) = some cell

/-- The issuing slot after a message has left it: PC + 4, UNACK raised, waiting for the answer (R71, R300). -/
def MessageSent (s t : State) (m : Message) : Prop :=
  (here t).pc = (here s).pc + 4#64 ∧ (here t).unack = (here s).unack + 1#64 ∧ (here t).await = some m.id ∧
    t.messages = s.messages ++ [m] ∧ m.sid = s.cur ∧ m.gen = (here s).gen ∧ m.pc = (here s).pc ∧ m.answer = none ∧
    m.poison = none ∧ OtherSlots s t

/-- A message that may be judged now: the first of its number, without an answer, its slot in a cell whose clock and whose die's fabric run, its sender's older
accesses performed, its target a slot of the generation that is not being filled (R125, R162, R300). -/
def JudgedAs (s : State) (m : Message) (k : Nat) : Prop :=
  s.messages.find? (fun q => q.id = m.id && q.answer.isNone) = some m ∧ clockStop (s.cell (cellOfSlot k)) = none ∧
    (s.fabricOf (dieOf (cellOfSlot k))).step = none ∧
    released s m.sid m.id (if dieOf (cellOfSlot k) = dieOf (cellOfSlot m.sid) then 3 else 4) = true ∧
    resolveSlot s (16 * (4 * m.tcell + bits m.target 11 10) + bits m.target 9 6) (m.target.extractLsb' 22 8) = some k ∧
    (s.slot k).status ≠ .restoring

/-- The answer that a message carries from now on. -/
def Answered (t : State) (m : Message) (v : Verdict) : Prop := ∀ q ∈ t.messages, q.id = m.id → q.answer = some v

/-- A message whose answer may reach its sender now: the clock of the sender's cell and its die's fabric run. -/
def Returning (s : State) (m : Message) (v : Verdict) : Prop :=
  s.messages.find? (fun q => q.id = m.id) = some m ∧ m.answer = some v ∧ (s.slot m.sid).park ≠ some .refused ∧
    clockStop (s.cell (cellOfSlot m.sid)) = none ∧ (s.fabricOf (dieOf (cellOfSlot m.sid))).step = none ∧
      (s.slot m.sid).isLive = true ∧ (s.slot m.sid).gen = m.gen

/-- The reap word of R152. -/
def reapOf (sid : Nat) (x : Slot) : Word :=
  match x.status with
  | .ended .ok _ => BitVec.ofNat 64 (16 * (sid % 16) + 256 * x.gen.toNat)
  | .ended .failed i => BitVec.ofNat 64 (1 + 16 * (sid % 16) + 256 * x.gen.toNat + 65536 * i.toNat)
  | .ended .trapped i => BitVec.ofNat 64 (2 + 16 * (sid % 16) + 256 * x.gen.toNat + 65536 * i.toNat)
  | .ended .killed _ => BitVec.ofNat 64 (3 + 16 * (sid % 16) + 256 * x.gen.toNat)
  | .ended .suspended _ => BitVec.ofNat 64 (4 + 16 * (sid % 16) + 256 * x.gen.toNat)
  | _ => 7#64

/-- The issuing slot has gone on with a value in a scalar register; no other slot changed. -/
def Wrote (s t : State) (d : BitVec 6) (v : Word) : Prop :=
  (here t).pc = (here s).pc + 4#64 ∧ OtherSlots s t ∧
    (d ≠ 0#6 → (here t).sF d.toNat = true ∧ (here t).sval d.toNat = v) ∧
    ∀ r, r < 64 → r ≠ d.toNat → (here t).sval r = (here s).sval r

/-- Doubleword and word i of a 64-byte record (R146). -/
def rec64 (v i : Nat) : Word := BitVec.ofNat 64 (v / 2 ^ (64 * i))
def rec32 (v i : Nat) : Nat := v / 2 ^ (32 * i) % 2 ^ 32

/-- The 64 bytes of the record at an address of the lower half, as the issuing gaffer reads them: mapped readable, without an
error, none of its own stores to them still to be performed (R120, R296). -/
def RecordAt (s : State) (va : Word) (v : Nat) : Prop :=
  va.toNat % 64 = 0 ∧ bits va 63 56 = 0 ∧ BytesQuiet s va 64 ∧
    ∃ pa key attr u, LeadsTo s va true false pa key attr u ∧ physErr u pa 64 = false ∧
      v = (engineRead u (dieOf (home s)) pa 64 key attr).1

/-- What `start` asks of a record: PC a multiple of 4, the zero fields zero (R146, R296). -/
def RecordSound (v : Nat) : Prop :=
  rec32 v 0 % 4 = 0 ∧ rec32 v 7 / 2 ^ 16 = 0 ∧ rec32 v 14 % 64 < 4

/-- Scalar and vector registers that a record asks for (R146). -/
def recS (v : Nat) : Nat := rec32 v 7 / 16 % 64 + 1
def recV (v : Nat) : Nat := rec32 v 7 / 1024 % 32 + 1

/-- A command in four registers from r on. -/
def wordFrom (x : Slot) (r : Nat) : CmdWord := ⟨x.sval r, x.sval (r + 1), x.sval (r + 2), x.sval (r + 3)⟩

/-- The slot that a command's token names, in the issuing cell (R240). -/
def tokenSlot (s : State) (w : CmdWord) : Nat := 16 * (4 * home s + Cmd.tcore w) + Cmd.tslot w

/-- A command may name its token: it has none, or its slot is live with the token's generation and its register is below the
count and owed nothing (R303). -/
def TokenFree (s : State) (w : CmdWord) : Prop :=
  Cmd.noTok w = true ∨
    (s.slot (tokenSlot s w)).isLive = true ∧ (s.slot (tokenSlot s w)).gen = Cmd.tgen w ∧
      Cmd.treg w < (s.slot (tokenSlot s w)).ns ∧ (s.slot (tokenSlot s w)).sP (Cmd.treg w) = false

/-- The value of `rdv` (R306): the three statuses, the index of the last word of the first program, in the order matrix, copy,
vector, that did not end well, and the vector program's cause. -/
def rdvOf (f : ForkRec) : Word :=
  let ix := if f.mst ≠ 0 ∧ f.mst ≠ 1 then f.mfail else if f.cst ≠ 0 ∧ f.cst ≠ 1 then f.cfail
    else if f.vst ≠ 0 ∧ f.vst ≠ 1 then f.vfail else 0
  BitVec.ofNat 64 (f.mst + 2 ^ 4 * f.cst + 2 ^ 8 * f.vst + 2 ^ 16 * (ix % 2 ^ 16) + 2 ^ 32 * f.cause)

/-- A sequencer at its program's first word (R304). -/
def Begun (q : Option Seq) (s : State) (base : Word) : Prop :=
  ∃ x, q = some x ∧ x.sid = s.cur ∧ x.gen = (here s).gen ∧ x.base = base ∧ x.next = 0 ∧ x.loops = [] ∧ x.colr = (here s).colr ∧
    x.word = none ∧ x.ending = none

/-- The accumulator that a core of the issuing slot numbers c. -/
def accAt (s : State) (c : BitVec 3) : Acc := (s.cell (home s)).accOf (8 * (coreOf s.cur % 4) + c.toNat)

/-- An accumulator that the issuing slot may use now: claimed, named by no command of the core that is queued or forked, not
locked (R74, R75). -/
def AccFree (s : State) (c : BitVec 3) : Prop :=
  (here s).aown.getLsbD c.toNat = true ∧ (∀ e ∈ (s.core (coreOf s.cur)).mq, namesAcc c.toNat e.word = false) ∧
    (accAt s c).lock = false ∧ forkNames s (coreOf s.cur) c.toNat = false

/-- Partition of the issuing slot. -/
abbrev part (s : State) : Nat := s.partN (home s)

/-- A barrier word with its zero fields zero (R301). -/
def BarWord (w : Word) : Prop := bits w 15 6 = 0 ∧ bits w 63 32 = 0

/-- A barrier's number and phase in a barrier word. -/
def barOf (w : Word) : Nat := w.toNat % 64
def phaseOf (w : Word) : Nat := w.toNat / 2 ^ 16 % 2 ^ 16

/-- A phase that a cell sees as released: its open phase is 1 to 32,767 ahead, modulo 65,536 (R302). -/
def Passed (s : State) (cell : Nat) (w : Word) : Prop :=
  let k := (FMap.get 0 (s.cell cell).bars (barOf w) + 65536 - phaseOf w) % 65536
  1 ≤ k ∧ k ≤ 32767

/-- An address in the own cell's local memory; the frame that it reaches through the pair entries (R309, R311). -/
def OwnAddr (v : Word) : Prop := bits v 63 48 = 0xFF00 ∧ bits v 47 0 < 0x200000
def frameAt (s : State) (v : Word) : Nat := Loc.mapFrame (s.cell (home s)) (bits v 47 0 / 1024)

/-- No access of the issuing slot to n frames from f on is still to be performed (R120). -/
def Quiet (s : State) (f n : Nat) : Prop := BytesQuiet s (0xFF00000000000000#64 + BitVec.ofNat 64 (1024 * f)) (1024 * n)

/-! ## The vector unit -/

/-- The vector and predicate instructions, `vloop` and `vend` aside (R327-R341). -/
def isVector : Instr → Bool
  | .vadd _ _ _ _ _ _ => true
  | .vsub _ _ _ _ _ _ => true
  | .vmul _ _ _ _ _ _ => true
  | .vfma _ _ _ _ _ _ => true
  | .vfms _ _ _ _ _ _ => true
  | .vdiv _ _ _ _ _ _ => true
  | .vsqrt _ _ _ _ _ => true
  | .vrcp _ _ _ _ _ => true
  | .vrsqrt _ _ _ _ _ => true
  | .vsum _ _ _ _ _ => true
  | .vdot _ _ _ _ _ _ => true
  | .vcvt _ _ _ _ _ _ => true
  | .vcvtSat _ _ _ _ _ _ => true
  | .vwiden _ _ _ _ _ => true
  | .vnarrow _ _ _ _ _ => true
  | .vnarrowSat _ _ _ _ _ => true
  | .vqnt _ _ _ _ _ => true
  | .vscale _ _ _ _ _ _ => true
  | .vmin _ _ _ _ _ => true
  | .vmax _ _ _ _ _ => true
  | .vabs _ _ _ _ => true
  | .vneg _ _ _ _ => true
  | .vmaxr _ _ _ _ => true
  | .vminr _ _ _ _ => true
  | .vexp2 _ _ _ _ => true
  | .vlog2 _ _ _ _ => true
  | .vexp _ _ _ _ => true
  | .vlog _ _ _ _ => true
  | .vtanh _ _ _ _ => true
  | .vsigm _ _ _ _ => true
  | .vcmp _ _ _ _ _ _ => true
  | .vsel _ _ _ _ _ => true
  | .vand _ _ _ _ _ => true
  | .vor _ _ _ _ _ => true
  | .vxor _ _ _ _ _ => true
  | .vnot _ _ _ _ => true
  | .vshl _ _ _ _ _ => true
  | .vshr _ _ _ _ _ => true
  | .vsar _ _ _ _ _ => true
  | .vperm _ _ _ _ _ => true
  | .vbcast _ _ _ _ => true
  | .vext _ _ _ _ => true
  | .vins _ _ _ _ => true
  | .pand _ _ _ => true
  | .por _ _ _ => true
  | .pxor _ _ _ => true
  | .pnot _ _ => true
  | .pcnt _ _ => true
  | .pfirst _ _ => true
  | .vld _ _ _ => true
  | .vst _ _ _ => true
  | .vlds _ _ _ _ _ => true
  | .vgath _ _ _ _ _ => true
  | .vscat _ _ _ _ _ => true
  | _ => false

/-- A vector instruction's format and registers are in order in a slot (R63, R244, R321, R322). -/
def Formed (x : Slot) (i : Instr) (el : Elem) (sc : Bool) (m : Rnd) : Prop :=
  let f := vForm i el sc
  vecFormat i x.vfmt x.rmode = some (el, sc, m) ∧ groupsAligned f.vs = true ∧ groupsAligned f.vd = true ∧
    (∀ r ∈ groupRegs f.vd ++ groupRegs f.vs, r < x.nv) ∧ (∀ r ∈ f.sd.toList ++ f.ss, r < x.ns) ∧ partOverlap f = none ∧
    ∀ r ∈ f.ss, x.sF r = true ∧ (r = 0 ∨ x.serr.getLsbD r = false)

/-- The first and the second scalar operand (R341). -/
def scalar1 (x : Slot) (f : VForm) : Word := match f.ss with | a :: _ => x.sval a | [] => 0#64
def scalar2 (x : Slot) (f : VForm) : Word := match f.ss with | _ :: b :: _ => x.sval b | _ => 0#64

/-- A vector instruction may enter the queue of its slot's core: in order, its destinations owe nothing and no queued instruction
has yet to read them, no source is in error, the addresses of a `vld` or `vst` pass, UNACK and the queue have room (R15, R71,
R324, R326, R342). -/
def MayEnter (s : State) (sid : Nat) (i : Instr) (el : Elem) (sc : Bool) (m : Rnd) : Prop :=
  let x := s.slot sid
  let f := vForm i el sc
  Formed x i el sc m ∧ f.owed x = false ∧ formWaits s sid f = false ∧ f.sound i x = .ok () ∧
    (isVecBlock i = true → unitChecks s sid i (units64 (scalar1 x f)) = .ok ()) ∧
    (isVecStore i = true → x.unack ≠ 0xFFFF#64) ∧ (s.core (coreOf sid)).vq.length < 8

/-- An entry as it stands in the vector queue: its slot and generation, its instruction with PC, scalar operands, VFMT and RMODE
(R324). -/
def EntryOf (e : VEntry) (x : Slot) (sid : Nat) (i : Instr) (pc : Word) (f : VForm) : Prop :=
  e.sid = sid ∧ e.gen = x.gen ∧
    e.item = { instr := i, pc := pc, x := scalar1 x f, y := scalar2 x f, vfmt := x.vfmt, rmode := x.rmode }

/-- A vector instruction in order, in a slot that issues: the format and the mode are ones that it takes (R47, R321), its groups
start at multiples of their sizes and overlap only where they are one (R63, R322), every register that it names is below the slot's
count, full, owed nothing and without an error (R63-R65, R84), nothing captures or replays and no forked vector program runs (R305,
R346, R347), and its core's queue is empty (R15). -/
def InOrder (s : State) (i : Instr) (el : Elem) (sc : Bool) (m : Rnd) : Prop :=
  let x := here s
  let k := s.core (coreOf s.cur)
  let f := vForm i el sc
  (x.status = .live ∧ x.park = none ∧ x.cap = none ∧ x.replay = none) ∧ clockStop (s.cell (home s)) = none ∧
    (k.vq = [] ∧ k.seqV = none ∧ ∀ r ∈ k.vrun, r.vid ≠ s.nextId ∧ (r.sid = s.cur → r.replayed = false)) ∧
    vecFormat i x.vfmt x.rmode = some (el, sc, m) ∧ (∀ g ∈ f.vs ++ f.vd, 0 < g.2 ∧ g.1 % g.2 = 0) ∧
    (∀ d ∈ f.vd, ∀ g ∈ f.vs, g = d ∨ g.1 + g.2 ≤ d.1 ∨ d.1 + d.2 ≤ g.1) ∧
    (∀ r ∈ groupRegs (f.vs ++ f.vd), r < 32 ∧ r < x.nv ∧ x.vF r = true ∧ x.vP r = false ∧ x.verr.getLsbD r = false) ∧
    (∀ r ∈ f.ss ++ f.sd.toList, r < x.ns ∧ x.sF r = true ∧ x.sP r = false ∧ (r = 0 ∨ x.serr.getLsbD r = false)) ∧
    ∀ p ∈ f.ps ++ f.pd.toList, x.pF p = true ∧ x.pP p = false ∧ (p = 0 ∨ x.perr.getLsbD p = false)

/-- A register file after a completed vector instruction: the destinations hold the run's results, full and owed nothing; the others
hold what they held, and are as full and as owed as they were (R324, R325). s0 and p0 discard what is written to them (R61). -/
def Completed (x y : Slot) (r : VRun) : Prop :=
  (∀ q ∈ r.vw, y.vval q.1 = q.2 ∧ y.vF q.1 = true ∧ y.vP q.1 = false) ∧
    (∀ q ∈ r.pw, q.1 ≠ 0 → y.pval q.1 = q.2 ∧ y.pF q.1 = true ∧ y.pP q.1 = false) ∧
    (∀ q ∈ r.sw, q.1 ≠ 0 → y.sval q.1 = q.2 ∧ y.sF q.1 = true ∧ y.sP q.1 = false) ∧
    (∀ n < 32, n ∉ r.vw.map (·.1) → y.vval n = x.vval n ∧ y.vF n = x.vF n ∧ y.vP n = x.vP n) ∧
    (∀ n < 8, n ∉ r.pw.map (·.1) → y.pval n = x.pval n ∧ y.pF n = x.pF n ∧ y.pP n = x.pP n) ∧
    (∀ n < 64, n ∉ r.sw.map (·.1) → y.sval n = x.sval n ∧ y.sF n = x.sF n ∧ y.sP n = x.sP n)

/-- The item of an instruction that the slot issues: its scalar operands, PC, VFMT and RMODE (R324). -/
def itemOf (x : Slot) (i : Instr) (f : VForm) : VItem :=
  { instr := i, pc := x.pc, x := scalar1 x f, y := scalar2 x f, vfmt := x.vfmt, rmode := x.rmode }

/-- The oldest ready entry of a core of a cell whose clock runs, and its format (R324). -/
def Starts (s : State) (cell t : Nat) (e : VEntry) (el : Elem) (sc : Bool) (m : Rnd) : Prop :=
  clockStop (s.cell cell) = none ∧
    (s.core (4 * cell + t / 2 % 4)).vq.find? (entryReady s (4 * cell + t / 2 % 4)) = some e ∧
    vecFormat e.item.instr e.item.vfmt e.item.rmode = some (el, sc, m)

/-- What a lane-wise bit instruction or an integer shift makes of lanes of w bits (R331): operands, predicate and result. -/
def bitOp (w : Nat) : Instr → Option (BitVec 5 × BitVec 5 × BitVec 5 × BitVec 3 × (Nat → Nat → Nat))
  | .vand d a b p _ => some (d, a, b, p, fun x y => x &&& y)
  | .vor d a b p _ => some (d, a, b, p, fun x y => x ||| y)
  | .vxor d a b p _ => some (d, a, b, p, fun x y => x ^^^ y)
  | .vnot d a p _ => some (d, a, a, p, fun x _ => 2 ^ w - 1 - x)
  | .vshl d a b p _ => some (d, a, b, p, fun x n => if n < w then x * 2 ^ n % 2 ^ w else 0)
  | .vshr d a b p _ => some (d, a, b, p, fun x n => if n < w then x / 2 ^ n else 0)
  | .vsar d a b p _ => some (d, a, b, p, fun x n =>
      if n < w then (signedN w x / (2 ^ n : Nat) % (2 ^ w : Nat)).toNat else if x < 2 ^ (w - 1) then 0 else 2 ^ w - 1)
  | _ => none

/-- What integer arithmetic makes of lanes of w bits (R51, R327): modulo 2^w, from the operands and the old destination. -/
def intOp : Instr → Option (BitVec 5 × BitVec 5 × BitVec 5 × BitVec 3 × (Int → Int → Int → Int))
  | .vadd _ d a b p _ => some (d, a, b, p, fun x y _ => x + y)
  | .vsub _ d a b p _ => some (d, a, b, p, fun x y _ => x - y)
  | .vmul _ d a b p _ => some (d, a, b, p, fun x y _ => x * y)
  | .vfma _ d a b p _ => some (d, a, b, p, fun x y z => x * y + z)
  | .vfms _ d a b p _ => some (d, a, b, p, fun x y z => x * y - z)
  | .vmin d a b p _ => some (d, a, b, p, fun x y _ => min x y)
  | .vmax d a b p _ => some (d, a, b, p, fun x y _ => max x y)
  | .vabs d a p _ => some (d, a, a, p, fun x _ _ => if x < 0 then -x else x)
  | .vneg d a p _ => some (d, a, a, p, fun x _ _ => -x)
  | _ => none

/-- The exact result of floating arithmetic, which is rounded once (R48, R52, R327), from the operands and the old destination. -/
def floatOp (m : Rnd) : Instr → Option (BitVec 5 × BitVec 5 × BitVec 5 × BitVec 3 × (Fp → Fp → Fp → Ex))
  | .vadd _ d a b p _ => some (d, a, b, p, fun x y _ => fpAdd m x y)
  | .vsub _ d a b p _ => some (d, a, b, p, fun x y _ => fpAdd m x y.negate)
  | .vmul _ d a b p _ => some (d, a, b, p, fun x y _ => fpMul x y)
  | .vfma _ d a b p _ => some (d, a, b, p, fun x y z => fpFma m x y z)
  | .vfms _ d a b p _ => some (d, a, b, p, fun x y z => fpFma m x y z.negate)
  | .vdiv _ d a b p _ => some (d, a, b, p, fun x y _ => fpDiv x y)
  | .vsqrt _ d a p _ => some (d, a, a, p, fun x _ _ => fpSqrt x)
  | .vrcp _ d a p _ => some (d, a, a, p, fun x _ _ => fpDiv Fp.one x)
  | .vrsqrt _ d a p _ => some (d, a, a, p, fun x _ _ => fpRsqrt x)
  | _ => none

/-- Whether the second of two numbers is the greater, or the smaller, −0 below +0 (R52). -/
def beats (isMax : Bool) (u v : Fp) : Bool :=
  if fpCompare u v = 0 then (if isMax then u.neg? && !v.neg? else v.neg? && !u.neg?)
  else if isMax then decide (fpCompare u v < 0) else decide (0 < fpCompare u v)

/-- Whether the greater, or the smaller, of two values is the second: a NaN gives way to a number (R52). -/
def takesSecond (isMax : Bool) (u v : Fp) : Bool := u.isNan || (!v.isNan && beats isMax u v)

/-- NV where a condition holds, else no flag (R49). -/
def nvIf (c : Bool) : FlagBits := if c then FlagBits.nv else 0#5

/-- `vmin` and `vmax` on two lanes' bits (R52). -/
def pickBits (isMax : Bool) (f : FloatFmt) (x y : Nat) : Nat × FlagBits :=
  let u := decodeFloat f x
  let v := decodeFloat f y
  (if u.isNan && v.isNan then canonicalNan f else if takesSecond isMax u v then y else x, nvIf (u.isSig || v.isSig))

/-- A change of sign: of a NaN the canonical one (R49, R327). -/
def resigned (f : FloatFmt) (x y : Nat) : Nat × FlagBits :=
  let u := decodeFloat f x
  (if u.isNan then canonicalNan f else y, nvIf u.isSig)

/-- The floating instructions without arithmetic and `vscale` (R52, R327, R335): operands, predicate, and what they make of a lane:
bits and flags from its operands' bits and the byte of the second source that its block has. -/
def floatBits (f : FloatFmt) (m : Rnd) :
    Instr → Option (BitVec 5 × BitVec 5 × BitVec 5 × BitVec 3 × (Nat → Nat → Nat → Nat × FlagBits))
  | .vmin d a b p _ => some (d, a, b, p, fun x y _ => pickBits false f x y)
  | .vmax d a b p _ => some (d, a, b, p, fun x y _ => pickBits true f x y)
  | .vabs d a p _ => some (d, a, a, p, fun x _ _ => resigned f x (x % 2 ^ (f.eb + f.mb)))
  | .vneg d a p _ => some (d, a, a, p, fun x _ _ => resigned f x ((x + 2 ^ (f.eb + f.mb)) % 2 ^ (f.eb + f.mb + 1)))
  | .vscale _ d a b p _ => some (d, a, b, p, fun x _ s =>
      if s = 255 then (canonicalNan f, 0#5)
      else (Ex.mk ((decodeFloat f x).scale ((s : Int) - 127)) false (nvIf (decodeFloat f x).isSig)).round f m false)
  | _ => none

/-- The truth of a floating comparison, and whether it raises NV (R52, R329). -/
def floatTruth (c : Nat) (u v : Fp) : Bool :=
  match c with
  | 0 => !u.isNan && !v.isNan && decide (fpCompare u v = 0)
  | 1 => u.isNan || v.isNan || decide (fpCompare u v ≠ 0)
  | 2 => !u.isNan && !v.isNan && decide (fpCompare u v < 0)
  | 3 => !u.isNan && !v.isNan && decide (fpCompare u v ≤ 0)
  | 4 => !u.isNan && !v.isNan && decide (0 < fpCompare u v)
  | 5 => !u.isNan && !v.isNan && decide (0 ≤ fpCompare u v)
  | _ => u.isNan || v.isNan
def compareRaises (c : Nat) (u v : Fp) : Bool := if 2 ≤ c ∧ c ≤ 5 then u.isNan || v.isNan else u.isSig || v.isSig

/-- Operands, predicate and function of a special function (R328). -/
def specialOf : Instr → Option (BitVec 5 × BitVec 5 × BitVec 3 × Special.Fn)
  | .vexp2 d a p _ => some (d, a, p, .exp2)
  | .vlog2 d a p _ => some (d, a, p, .log2)
  | .vexp d a p _ => some (d, a, p, .exp)
  | .vlog d a p _ => some (d, a, p, .log)
  | .vtanh d a p _ => some (d, a, p, .tanh)
  | .vsigm d a p _ => some (d, a, p, .sigm)
  | _ => none

/-- Column of the table of R60 for a function on F32: bits and flags at +∞, −∞, ±0 and, where the function has no value there, below
−0. -/
def atPlusInf : Special.Fn → Nat
  | .sigm => 0x3F800000
  | .tanh => 0x3F800000
  | _ => 0x7F800000
def atMinusInf : Special.Fn → Nat × FlagBits
  | .log2 => (0x7FC00000, FlagBits.nv)
  | .log => (0x7FC00000, FlagBits.nv)
  | .tanh => (0xBF800000, 0#5)
  | _ => (0, 0#5)
def atZero (neg : Bool) : Special.Fn → Nat × FlagBits
  | .log2 => (0xFF800000, FlagBits.dz)
  | .log => (0xFF800000, FlagBits.dz)
  | .sigm => (0x3F000000, 0#5)
  | .tanh => (if neg then 0x80000000 else 0, 0#5)
  | _ => (0x3F800000, 0#5)

/-- F32 bits of an integer and of a power of two. -/
def intF32 (k : Int) : Nat := (roundF32 .rn (.num (decide (k < 0)) k.natAbs 0)).1
def powF32 (k : Int) : Nat := (roundF32 .rn (.num false 1 k)).1

/-- The tree of R55: node i of level n over the leaves. An absent half passes the other up, so that levels above the register's leaves
change nothing. -/
def tree55 (op : Fp → Fp → Fp × FlagBits) (leaf : Nat → Option Fp) : Nat → Nat → Option Fp × FlagBits
  | 0, i => (leaf i, 0#5)
  | n + 1, i =>
    let l := tree55 op leaf n (2 * i)
    let h := tree55 op leaf n (2 * i + 1)
    match l.1, h.1 with
    | some u, some v => (some (op u v).1, (op u v).2 ||| l.2 ||| h.2)
    | some u, none => (some u, l.2 ||| h.2)
    | none, v => (v, l.2 ||| h.2)

/-- The nodes of `vsum`, `vmaxr` and `vminr` on values (R55, R336). -/
def addNode (m : Rnd) (u v : Fp) : Fp × FlagBits :=
  let r := (fpAdd m u v).round fF32 m false
  (decodeFloat fF32 r.1, r.2)
def bestNode (isMax : Bool) (u v : Fp) : Fp × FlagBits := (if takesSecond isMax u v then v else u, 0#5)

/-- The accumulator of `vdot` after its first n blocks of pairs of values (R53, R337): C's bits and the flags. -/
def dotRun (m : Rnd) (blk : Nat → List (Fp × Fp)) (c : Nat) : Nat → Nat × FlagBits
  | 0 => (c, 0#5)
  | n + 1 =>
    let r := dotRun m blk c n
    let ps := blk n
    if ps.all (fun q => q.1.finite && q.2.finite && (q.1.isZero || q.2.isZero)) then r
    else
      let z := (chunkOf (ps.map (·.1)) (ps.map (·.2)) Chunk.start).update m r.1
      (z.1, r.2 ||| z.2 ||| nvIf (ps.any (fun q => q.1.isSig || q.2.isSig) || (decodeFloat fF32 r.1).isSig))

/-- The truth of an integer comparison (R329). -/
def intTruth (c : Nat) (x y : Int) : Bool :=
  match c with
  | 0 => decide (x = y)
  | 1 => decide (x ≠ y)
  | 2 => decide (x < y)
  | 3 => decide (x ≤ y)
  | 4 => decide (y < x)
  | 5 => decide (y ≤ x)
  | _ => false

/-- What a predicate instruction gives (R340): the predicate or the scalar register that it writes. -/
def predOp (x : Slot) : Instr → Option (List (Nat × PReg) × List (Nat × Word))
  | .pand d a b => some ([(d.toNat, x.pval a.toNat &&& x.pval b.toNat)], [])
  | .por d a b => some ([(d.toNat, x.pval a.toNat ||| x.pval b.toNat)], [])
  | .pxor d a b => some ([(d.toNat, x.pval a.toNat ^^^ x.pval b.toNat)], [])
  | .pnot d a => some ([(d.toNat, ~~~(x.pval a.toNat))], [])
  | .pcnt d a => some ([], [(d.toNat, wrap64 ((List.range 1024).countP (fun i => (x.pval a.toNat).getLsbD i)))])
  | .pfirst d a => some ([], [(d.toNat, wrap64 (((List.range 1024).find? (fun i => (x.pval a.toNat).getLsbD i)).getD 1024))])
  | _ => none

/-- Lane i of w bits of a vector register of a slot. -/
def laneOf (x : Slot) (r : BitVec 5) (w i : Nat) : Nat := (x.vval r.toNat).toNat / 2 ^ (w * i) % 2 ^ w

/-- The value of element i of a register of a format, whose scale strip, if it is scaled, is the next register (R42, R332). -/
def valueAt (x : Slot) (el : Elem) (sc : Bool) (r i : Nat) : Fp :=
  elemValue el ((x.vval r).toNat / 2 ^ (el.width * i) % 2 ^ el.width) ((x.vval (r + 1)).toNat / 2 ^ (8 * (i / 32)) % 2 ^ 8) sc

/-- The value of element i of a group of r registers from a on (R333). -/
def spreadAt (x : Slot) (el : Elem) (a r i : Nat) : Fp :=
  elemValue el ((x.vval (a + i % r)).toNat / 2 ^ (el.width * (i / r)) % 2 ^ el.width) 0 false

/-- The destination format of a conversion (R238, R332). -/
def dstCode (f : BitVec 2) (c : BitVec 5) : Nat := if f = 1#2 then 0 else if f = 2#2 then 1 else c.toNat

/-- A flag is up exactly where one of n results raises it. -/
def FlagsOf (fl : FlagBits) (n : Nat) (act : Nat → Bool) (g : Nat → FlagBits) : Prop :=
  ∀ k < 5, fl.getLsbD k = true ↔ ∃ i < n, act i = true ∧ (g i).getLsbD k = true

/-- A started entry has left the queue, and its run waits for its completion with the results that its registers are to take and
its flags (R324). -/
def RunsFor (s u : State) (core : Nat) (e : VEntry) (vw : List (Nat × VReg)) (pw : List (Nat × PReg)) (sw : List (Nat × Word))
    (fl : FlagBits) : Prop :=
  (u.core core).vq = (s.core core).vq.filter (fun q => q.vid ≠ e.vid) ∧
    ∃ r ∈ (u.core core).vrun, r.vid = e.vid ∧ r.sid = e.sid ∧ r.vw = vw ∧ r.pw = pw ∧ r.sw = sw ∧ r.flags = fl ∧ r.owed = 0

/-- The same of one whose one result is a vector register. -/
def RunsWith (s u : State) (core : Nat) (e : VEntry) (d : BitVec 5) (v : VReg) (fl : FlagBits) : Prop :=
  RunsFor s u core e [(d.toNat, v)] [] [] fl

/-! ## System control -/

/-- The n bytes at a lower-half address, read by the instruction that issues, are v, and u is the state after the read: nothing holds it, and
no page of them is denied, absent or in error. -/
def Fetches (s : State) (va : Word) (n v : Nat) (u : State) : Prop := ∀ pre k, readIssue pre s va n k = k v u

/-- An address of the lower half that is a multiple of 8. -/
def LowerEight (va : Word) : Prop := va.toNat % 8 = 0 ∧ bits va 63 56 = 0

/-- WCTL of the issuing slot's die. -/
def wctl (s : State) : Word := s.reg (wctlOff (dieOf (home s)))

/-- A `part` instruction that may run: level Y, a mask of partitions, its destination free (R319). -/
def PartForm (s : State) (d a : BitVec 6) : Prop :=
  s.levelY s.cur = true ∧ Writable (here s) d ∧ Readable (here s) a ∧ bits ((here s).sval a.toNat) 63 16 = 0

/-- The partitions that a mask names. -/
def Named (s : State) (a : BitVec 6) (p : Nat) : Prop := p < 16 ∧ ((here s).sval a.toNat).getLsbD p = true

/-- A result word of code 1, with the BUSY bits of all the named partitions (R220). -/
def IsBusy (s : State) (a : BitVec 6) (w : Word) : Prop :=
  w.toNat % 2 ^ 16 = 1 ∧ ∀ k < 8, w.getLsbD (16 + k) = true ↔ ∃ q, Named s a q ∧ (busyBits s q).testBit k = true

/-- The issuing slot has gone on with a result in d. -/
def Result (s t : State) (d : BitVec 6) (v : Word) : Prop :=
  (here t).pc = (here s).pc + 4#64 ∧ (d ≠ 0#6 → (here t).sval d.toNat = v ∧ (here t).sF d.toNat = true)

/-! ## Engines -/

/-- The core that the current command is of. -/
abbrev hereCore (s : State) : Nat := coreOf s.cur

/-- A command at the head of the matrix queue of the current core, in a cell whose clock runs. -/
def MatrixHead (s : State) (c : Cmd) (rest : List Cmd) : Prop :=
  (s.core (hereCore s)).mq = c :: rest ∧ clockStop (s.cell (hereCore s / 4)) = none

/-- It is well formed, the unit is free, its rings cover their heads and its accumulator is not locked (R155, R351). -/
def MatrixRuns (s : State) (c : Cmd) : Prop :=
  matrixFail s (hereCore s) c = none ∧ (s.cell (hereCore s / 4)).mrun = none ∧ matrixReady s (hereCore s) c = true

/-- The token of a command is on its way with a status word (R350): code, flags, INFO. -/
def TokenSent (t : State) (core : Nat) (w : CmdWord) (code : Nat) (flags : FlagBits) (info : Nat) : Prop :=
  Cmd.noTok w = false → ∃ k ∈ t.tokens, k.core = 4 * (core / 4) + Cmd.tcore w ∧ k.slot = Cmd.tslot w ∧ k.reg = Cmd.treg w ∧
    k.gen = Cmd.tgen w ∧ k.status = BitVec.ofNat 64 (code + 256 * flags.toNat + 65536 * (info % 2 ^ 32))

/-- A unit of 64 bytes of a tile at an offset of a cell's local memory stands at the copy port, with what is to be done there (R90). -/
def TileUnit (t : State) (j : PortJob) (o u : Nat) (act : UnitAct) : Prop :=
  ∃ x ∈ t.units, x.job = j.id ∧ x.spot = ⟨false, j.cell, o + 64 * u, 64, u⟩ ∧ x.act = act ∧ x.entered.isSome

/-- The job of the copy port that loads or stores a command's tile; it ends with a step of its own (R353). -/
def TileJob (t : State) (core : Nat) (c : Cmd) (w : Bool) (j : PortJob) : Prop :=
  j ∈ t.jobs ∧ j.cmd = some (core, c) ∧ j.cell = core / 4 ∧ j.turn = .later (.tile j.id) ∧ j.writing = w

/-- The five commands of the matrix queue. -/
def isMatrix (i : Instr) (w : CmdWord) : Prop := i = .mma w ∨ i = .mmz w ∨ i = .accld w ∨ i = .accst w ∨ i = .accclr w

/-- The accumulator that a matrix command of the current core names. -/
def cmdAcc (s : State) (w : CmdWord) : Nat := 8 * (hereCore s % 4) + Cmd.acc w

/-- What one pop does to a ring (R76). -/
def Popped (x y : Word) : Prop :=
  Ring.cnt y = Ring.cnt x - 1 ∧ Ring.head y = (Ring.head x + 1) % Ring.nslots x ∧ Ring.hseq y = (Ring.hseq x + 1) % 256 ∧
    Ring.base y = Ring.base x ∧ Ring.nslots y = Ring.nslots x ∧ Ring.sfr y = Ring.sfr x

/-- A program of the current core, the one whose turn it is, waits to carry a sequencer command out (R370). -/
def Carries (s : State) (cp : Bool) (q : Seq) (w : CmdWord) : Prop :=
  s.seqOf (hereCore s) cp = some q ∧ q.word = some w ∧ clockStop (s.cell (hereCore s / 4)) = none ∧
    s.cur % 16 = cp.toNat

/-- The loops of a program let n words from word t on be its next ones: they lie in the innermost active body (R370). -/
def InBody (q : Seq) (t n : Nat) : Prop :=
  ∀ (l : SeqLoop) (ls : List SeqLoop), q.loops = l :: ls → (t + 2 ^ 59 - l.first) % 2 ^ 59 + n ≤ l.body
/-- A program goes no further: it ends with status 2 once its commands have completed. -/
def EndsBad (t : State) (core : Nat) (cp : Bool) (q : Seq) : Prop :=
  t.seqOf core cp = some { q with word := none, ending := some 2 }
/-- A sequencer command with a field that R370 does not allow. -/
def seqWrong (i : Instr) (w : CmdWord) : Prop :=
  (i = .seqJmp w ∧ (bits w.w1 63 32 ≠ 0 ∨ w.w2 ≠ 0#64 ∨ w.w3 ≠ 0#64)) ∨
  (i = .seqLoop w ∧ (bits w.w1 35 34 ≠ 0 ∨ bits w.w1 63 48 ≠ 0 ∨ bits w.w1 47 36 = 0)) ∨
  ((i = .seqWaitOwn w ∨ i = .seqSig w) ∧ (bits w.w1 63 2 ≠ 0 ∨ w.w2 ≠ 0#64 ∨ w.w3 ≠ 0#64)) ∨
  (i = .seqWaitSig w ∧ (bits w.w1 63 3 ≠ 0 ∨ bits w.w2 63 32 ≠ 0 ∨ w.w3 ≠ 0#64)) ∨
  (i = .seqEnd w ∧ (w.w1 ≠ 0#64 ∨ w.w2 ≠ 0#64 ∨ w.w3 ≠ 0#64))
/-- The program has gone on to its next word, with no command in hand. -/
def WentOn (t : State) (core : Nat) (cp : Bool) (q : Seq) : Prop := t.seqOf core cp = some { q with word := none }

/-- A program whose next fetch may be made, its loops turned (R304, R370). -/
def MayFetch (s u : State) (cell core : Nat) (cp : Bool) (q : Seq) (w : CmdWord) : Prop :=
  let k := 4 * cell + core
  s.seqOf k cp = some q ∧ (s.slot q.sid).gen = q.gen ∧ (s.slot q.sid).isLive = true ∧ q.word = none ∧ q.ending = none ∧
    clockStop (s.cell cell) = none ∧
    ∃ m v, judgeBytes (setIndex (setSeq s k cp (some q.turned)) k cp q.turned.loops) (k / 4)
        (progAgent (setIndex (setSeq s k cp (some q.turned)) k cp q.turned.loops) k 0 false (.sequencerFetch (k / 4) (k % 4) cp))
        false false (q.base + BitVec.ofNat 64 (32 * q.turned.next)) 32 = (.fine, m) ∧
      fetchBytes m (k / 4) (progAgent (setIndex (setSeq s k cp (some q.turned)) k cp q.turned.loops) k 0 false
        (.sequencerFetch (k / 4) (k % 4) cp)) [] (q.base + BitVec.ofNat 64 (32 * q.turned.next)) 32 = (v, u) ∧
      w = ⟨BitVec.ofNat 64 v, BitVec.ofNat 64 (v / 2 ^ 64), BitVec.ofNat 64 (v / 2 ^ 128), BitVec.ofNat 64 (v / 2 ^ 192)⟩

/-! ## Copies -/

/-- The commands of the copy queue (R241). -/
def isCopyCmd (i : Instr) (w : CmdWord) : Prop :=
  i = .copy w ∨ i = .copyRingAppend w ∨ i = .copyRed w ∨ i = .copyMc w ∨ i = .fill w ∨ i = .gath w ∨ i = .scat w ∨ i = .coll w ∨
    i = .pubc w ∨ i = .tclass w

/-- A command at the head of the current core's copy queue that the port takes now: the cell's clock runs, fewer than 64 copies are
in flight, and its number is new (R156). -/
def CopyHead (s : State) (c : Cmd) (rest : List Cmd) : Prop :=
  (s.core (hereCore s)).cq = c :: rest ∧ (s.cell (hereCore s / 4)).copies.length < 64 ∧
    clockStop (s.cell (hereCore s / 4)) = none ∧
    s.jobOf (hereCore s / 4) (.event (.copyChunk (hereCore s / 4) s.nextId 0)) = none

/-- The state in which the port checks a command that it has taken: a forked one of package scope has the writes of its die brought home
first (R134). -/
def taken (s : State) (c : Cmd) (rest : List Cmd) : State :=
  let u := { s with nextId := s.nextId + 1 }
  let u := u.modCore (hereCore s) (fun k => { k with cq := rest })
  let u := u.modCell (hereCore s / 4) (fun x => { x with copies := x.copies ++ [newCopy s.nextId (hereCore s) c] })
  let u := if rest.isEmpty then u else u.push [.copy (hereCore s)]
  if c.forked then atScope u (hereCore s / 4) c.word else u

/-- What the checks of a copy come to in a state, with what units have been read for them (R350). -/
def checked (u : State) (cell : Nat) (r : CopyRun) (got : FMap Nat) : Planned × State :=
  planOf u cell r (portAgent u cell false (.event (.copyChunk cell r.serial 0))) got

/-- A unit of a job of a cell's copy port has set out with what is to be done there: within the cell it stands at the port at once, to
the commons or another cell it is on its way (R90, R92, R96). -/
def Posted (t : State) (cell job : Nat) (q : Spot) (act : UnitAct) : Prop :=
  ∃ u ∈ t.units, u.job = job ∧ u.spot = q ∧ u.act = act ∧
    (q.commons = false ∧ q.cell = cell → u.entered.isSome) ∧
    (¬(q.commons = false ∧ q.cell = cell) → u.entered = none ∧
      Turn.event (if q.commons then .commonsQueueEntry u.id else .remoteAccessArrival u.id) ∈ t.work)

/-- A turn of a copy goes on with a job of the port once its units, reads or writes, are served (R90). -/
def JobWith (t : State) (cell : Nat) (turn : Turn) (serial : Nat) (w : Bool) (got : FMap Nat) (us : List (Spot × UnitAct)) : Prop :=
  ∃ j ∈ t.jobs, j.cell = cell ∧ j.turn = turn ∧ j.serial = some serial ∧ j.writing = w ∧ j.got = got ∧ j.fail = none ∧
    ∀ x ∈ us, Posted t cell j.id x.1 x.2

/-- A turn of a cell's port has all that it reads, `got`, and is judged fine in what follows: it reads nothing at units, or its job has
read them. -/
def TurnReady (m : State) (cell : Nat) (t : Turn) (reads : List Spot) (judged : State → Judged × State) (u : State)
    (got : FMap Nat) : Prop :=
  (got = [] ∧ m.jobOf cell t = none ∧ reads = [] ∧ judged m = (.fine, u)) ∨
  ∃ j, m.jobOf cell t = some j ∧ jobOpen m j.id = false ∧ j.writing = false ∧ j.fail = none ∧ got = j.got ∧
    judged (dropJob m j.id) = (.fine, u)

/-- The units that a turn of a cell's port was to write, or to read, are served; what failed of them, if anything did. -/
def TurnServed (m : State) (cell : Nat) (t : Turn) (w : Bool) (fail : Option Nat) (j : PortJob) : Prop :=
  m.jobOf cell t = some j ∧ jobOpen m j.id = false ∧ j.writing = w ∧ j.fail = fail

/-- A copy of a cell with a number, in a cell whose clock runs. -/
def Copying (s : State) (cell : Nat) (r : CopyRun) : Prop :=
  s.copyOf cell r.serial = some r ∧ clockStop (s.cell cell) = none

/-- A copy that moves data and has nothing special about it: no peer, no reduction, no ring, no multicast. -/
def PlainCopy (r : CopyRun) : Prop :=
  r.phase = .running ∧ Cp.peerOn r.geom.attr = false ∧ Cp.isRed r.cmd.word = false ∧ Cp.isMc r.cmd.word = false ∧
    r.ring = none ∧ opc r.cmd.word ≠ 0x19 ∧ r.fail = none ∧ r.acks = [] ∧ r.owed = [] ∧ r.parked = []

/-- Some copy of a cell with a number is as a predicate says. -/
def CopyIs (t : State) (cell serial : Nat) (p : CopyRun → Prop) : Prop :=
  ∃ r ∈ (t.cell cell).copies, r.serial = serial ∧ p r

/-- What happens where the checks of a copy come to an end (R350): it is in flight; or its token is sent, with code 3 and the bad
field's word, code 1, or the code of what could not be read; or units that the checks need are read first. -/
def PlanEnds (s : State) (i : Instr) (cell : Nat) (r : CopyRun) (got : FMap Nat) (o : Planned × State) : Prop :=
  (∀ q v, o = (.go q, v) → q.serial = r.serial → CopyIs v cell r.serial (fun _ => True) →
    ∃ t, exec i s = .next t ∧ (∀ k, (t.core k).cq = (v.core k).cq) ∧ CopyIs t cell r.serial (fun c => c = q)) ∧
  (∀ n v, o = (.bad n, v) →
    ∃ t, exec i s = .next t ∧ (∀ k, (t.core k).cq = (v.core k).cq) ∧ TokenSent t (4 * cell) r.cmd.word 3 r.flags n) ∧
  (∀ v, o = (.zero, v) → ∃ t, exec i s = .next t ∧ TokenSent t (4 * cell) r.cmd.word 1 r.flags 0) ∧
  (∀ n v, o = (.fault n, v) → ∃ t, exec i s = .next t ∧ TokenSent t (4 * cell) r.cmd.word n r.flags 0) ∧
  (∀ l v, o = (.reads l, v) → ∃ t, exec i s = .next t ∧ SameBytes v t ∧ t.cells = v.cells ∧
    JobWith t cell (.event (.copyChunk cell r.serial 0)) r.serial false got (l.map (fun q => (q, .read))))

/-- The segments of a chunk with the bytes that it holds for the next one, what it reads of them at units, and what is found about its
source and destination (R356, R359). -/
def heldSegs (r : CopyRun) (n : Nat) : List Seg :=
  chunkSegs r.cmd.word r.geom n ++ (if Cp.isFill r.cmd.word then [] else chunkTail r.cmd.word r.geom n)
def chunkReads (s : State) (cell : Nat) (r : CopyRun) (n : Nat) : List Spot :=
  if Cp.isFill r.cmd.word then [] else (heldSegs r n).flatMap (fun q => spotsOf s cell q.src q.ns)
def chunkJudged (cell : Nat) (r : CopyRun) (n : Nat) (v : State) : Judged × State :=
  judgeSegs v cell r (.event (.copyChunk cell r.serial n)) (!Cp.isFill r.cmd.word) true (heldSegs r n)

/-- Chunk n of a plain copy may run: no earlier chunk of a `scat` is in its way, the store replay queue has room (R158, R365). -/
def MayRun (s : State) (cell : Nat) (r : CopyRun) (n : Nat) : Prop :=
  Copying s cell r ∧ PlainCopy r ∧ n < r.chunks ∧ scatBehind s cell r n = false ∧
    replayFull s cell (.event (.copyChunk cell r.serial n)) = false

/-- The copy as its next chunk goes: the chunk is issued, the dies of its source are noted (R193). -/
def issuing (u : State) (cell : Nat) (r : CopyRun) : CopyRun :=
  chunkIssued (if Cp.isFill r.cmd.word then r
    else noteDies u cell r (.event (.copyChunk cell r.serial r.next)) (chunkSegs r.cmd.word r.geom r.next)) r.next

/-- The state in which the next chunk of a copy moves, with what its job has read. -/
def ChunkReady (s u : State) (cell : Nat) (r : CopyRun) (got : FMap Nat) : Prop :=
  MayRun s cell r r.next ∧ u.copyOf cell r.serial = some r ∧
    TurnReady (setCopy s cell r) cell (.event (.copyChunk cell r.serial r.next)) (chunkReads s cell r r.next)
      (chunkJudged cell r r.next) u got

/-- Bytes of some spots before one of them. -/
def bytesBefore (l : List Spot) : Nat := (l.map (fun p => p.n)).foldl (fun x y => x + y) 0

/-- The pieces of a reducing chunk with a number (R362). -/
def pieceSegs (s : State) (cell : Nat) (r : CopyRun) (n k : Nat) : List Seg :=
  ((chunkParts s cell r n).filter (fun q => some q.1 = (chunkPieces s cell r n)[k]?)).map (·.2)

/-- Slot m of an append (R157). -/
def slotOf (c : Cell) (q : RingRun) (m : Nat) : Nat := (q.first + m) % Ring.nslots (Ring.word c q.q)

/-! ## Accesses in flight -/

/-- An access has been answered: it stands in flight with its answer, and the step that brings the answer home is due (R66,
R192). -/
def Replied (t : State) (a : Access) (r : Reply) : Prop :=
  t.findAccess a.id = some { a with stage := .reply r } ∧ Turn.event (homeEvent a) ∈ t.work

/-- The access that a local-wheel position, the matrix unit's aside, serves at a cycle: the cell's clock runs; it is the first to have
reached the position of those whose bank the position meets and that wait for no older one, and no unit of a copy or of an
accumulator transfer reached the copy port before it (R90, R91). -/
def ServesNow (s : State) (cell pos t : Nat) (a : Access) : Prop :=
  clockStop (s.cell cell) = none ∧ (pos < 6 ∨ 14 ≤ pos) ∧
    firstIn ((s.flight.filter (fun b => atPosition cell pos b && localBank s cell b = (pos + t) % 16)).filter
      (fun b => !localWaits s b)) = some a ∧
    (14 ≤ pos → ∀ u, firstEntered (portUnitsAt s cell ((pos + t) % 16)) = some u → a.entered < u.entered.getD 0)

/-- The same of an access of a slot whose instruction read no register in error. -/
def Meets (s : State) (cell pos t : Nat) (a : Access) : Prop :=
  ServesNow s cell pos t a ∧ (∀ c b i, a.src ≠ .blk c b i) ∧ a.poison = none

/-- The unit of a copy or of an accumulator transfer that the copy port serves at a cycle: it reached the queue first (R90). -/
def ServesUnit (s : State) (cell pos t : Nat) (u : PortUnit) : Prop :=
  clockStop (s.cell cell) = none ∧ 14 ≤ pos ∧ firstEntered (portUnitsAt s cell ((pos + t) % 16)) = some u ∧
    ∀ a, firstIn ((s.flight.filter (fun b => atPosition cell pos b && localBank s cell b = (pos + t) % 16)).filter
      (fun b => !localWaits s b)) = some a → u.entered.getD 0 ≤ a.entered

/-- Where n bytes at an offset of a cell's local memory lie, once the pair entries are applied (R311). -/
abbrev realOff (s : State) (cell o : Nat) : Nat := Loc.mapOff (s.cell cell) o

/-- An aligned run of n bytes in a frame of class general, without an uncorrectable error. -/
def PlainAt (s : State) (cell o n : Nat) : Prop :=
  (n = 1 ∨ n = 2 ∨ n = 4 ∨ n = 8) ∧ o % n = 0 ∧ (Loc.entry (s.cell cell) (realOff s cell o / 1024)).cls = .general ∧
    localErr s cell o n = false ∧ Memory.wf (s.cell cell).mem = true ∧ FMap.wf (s.cell cell).fe = true

/-- A run of n bytes within one frame of class general. -/
def InFrame (s : State) (cell o n : Nat) : Prop :=
  0 < n ∧ o % 1024 + n ≤ 1024 ∧ (Loc.entry (s.cell cell) (realOff s cell o / 1024)).cls = .general ∧
    Memory.wf (s.cell cell).mem = true

/-- n bytes at an offset of a cell's local memory have become v, and no other byte of any local memory has changed. -/
def LocalStored (s u : State) (cell o n v : Nat) : Prop :=
  localRead u cell o n = v % 2 ^ (8 * n) ∧
    ∀ c b, (c ≠ cell ∨ b < realOff s cell o ∨ realOff s cell o + n ≤ b) →
      Memory.read (u.cell c).mem b = Memory.read (s.cell c).mem b

/-- n bytes at an offset of a cell's local memory have become v, and no other byte of any memory has changed. -/
def StoredAt (s u : State) (cell o n v : Nat) : Prop :=
  localRead u cell o n = v % 2 ^ (8 * n) ∧
    (∀ c b, (c ≠ cell ∨ b < realOff s cell o ∨ realOff s cell o + n ≤ b) →
      Memory.read (u.cell c).mem b = Memory.read (s.cell c).mem b) ∧
    u.phys = s.phys ∧ u.commons = s.commons

/-- The full/empty bit of the word at an offset of a cell's local memory. -/
abbrev fullAt (s : State) (cell o : Nat) : Bool := Loc.full (s.cell cell) o

/-- What an atomic leaves of the old value and the operand, n bytes each (R283, R284). -/
def amoOf (n old v : Nat) : AmoOp → Nat
  | .add => old + v
  | .and => old &&& v
  | .or => old ||| v
  | .xor => old ^^^ v
  | .min => if (BitVec.ofNat (8 * n) old).toInt ≤ (BitVec.ofNat (8 * n) v).toInt then old else v
  | .max => if (BitVec.ofNat (8 * n) v).toInt ≤ (BitVec.ofNat (8 * n) old).toInt then old else v
  | .minu => if old ≤ v then old else v
  | .maxu => if v ≤ old then old else v
  | .swap => v
  | .fadd => (fadd32 old v).1

/-- An answered access of a scalar instruction whose answer comes home now, to the slot of the generation wherever that has been moved
to: the clock of that slot's cell and the fabric clock of its die run; the slot holds a task (R66, R192). -/
def ComesHome (s : State) (a : Access) (r : Reply) (k : Nat) (pc : Word) (dst : Option Nat) (counts : Bool) : Prop :=
  s.findAccess a.id = some a ∧ a.stage = .reply r ∧ clockStop (s.cell (cellOfSlot k)) = none ∧
    (s.fabricOf (dieOf (cellOfSlot k))).step = none ∧
    (∃ sid gen oldF cons, a.src = .slot sid gen pc dst oldF cons counts ∧ resolveSlot s sid gen = some k) ∧
    (s.slot k).status = .live

/-- A step that is due, again or now. -/
def Due (t : State) (i : Instr) : Prop := Turn.event i ∈ t.work

/-- Nothing but the list of due steps has changed, and a step is due. -/
def OnlyDue (s t : State) (i : Instr) : Prop := t = { s with work := t.work } ∧ Due t i

/-- The bank store address of a byte of a unit of a die's commons, whose place is a group, a bank and a row (R94, R166). -/
def bankAt (s : State) (d : Nat) (pl : Nat × Nat × Nat) (byte : Nat) : Nat :=
  commonsAddr pl.1 ((s.reg (remapOff d pl.1 pl.2.1)).toNat % 128) pl.2.2 byte

/-- n bytes of a die's commons have become v, and no other byte of any memory has changed. -/
def CommonsStored (s t : State) (d addr n v : Nat) : Prop :=
  t.phys = s.phys ∧ t.cells = s.cells ∧ Memory.readN (t.commonsOf d) addr n = v % 2 ^ (8 * n) ∧
    (∀ b, (b < addr ∨ addr + n ≤ b) → Memory.read (t.commonsOf d) b = Memory.read (s.commonsOf d) b) ∧
    ∀ k b, k ≠ d → Memory.read (t.commonsOf k) b = Memory.read (s.commonsOf k) b

/-- A place of a die's commons that is served as it stands: within a bank that is no hole and is not being copied (R94, R167). -/
def PlaceServes (s : State) (d : Nat) (pl : Nat × Nat × Nat) : Prop :=
  pl.1 < 16 ∧ pl.2.1 < 64 ∧ isHole s d pl.1 pl.2.1 = false ∧ remapState s d pl.1 pl.2.1 = 0 ∧ Memory.wf (s.commonsOf d) = true

/-- The bank store address of an access of the commons aperture (R94, R166). -/
def commonsAt (s : State) (a : Access) : Nat :=
  let pl := placeOf s a.cell (bits a.va 47 0)
  commonsAddr pl.1 ((s.reg (remapOff (dieOf a.cell) pl.1 pl.2.1)).toNat % 128) pl.2.2 (bits a.va 47 0 % 64)

/-! ## The lower half -/

/-- A plain access at the slice of its die, in a cached page, within one line and one page; nothing older of its slot is in its
way (R101, R102, R120). -/
def AtSlice (s : State) (a : Access) (n : Nat) : Prop :=
  s.findAccess a.id = some a ∧ a.stage = .slice (dieOf a.cell) ∧ a.attr % 4 = 0 ∧ 0 < n ∧ a.pa % 128 + n ≤ 128 ∧
    a.va.toNat % 65536 + n ≤ 65536 ∧ mustWait s a = false

/-- The line that an access touches, and its home. -/
abbrev lineHome (s : State) (a : Access) : Nat := homeDie s a.pa

/-- Physical memory after a write of n bytes at an address: they are v, every other byte as before. -/
def PhysStored (s t : State) (pa n v : Nat) : Prop :=
  Memory.readN t.phys pa n = v % 2 ^ (8 * n) ∧ ∀ b, (b < pa ∨ pa + n ≤ b) → Memory.read t.phys b = Memory.read s.phys b

/-- A line of physical memory that reads under a key without an error (R84, R112). -/
def LineReads (s : State) (pa n key : Nat) : Prop := physErr s pa n = false ∧ decrypts s (pa / 128) key = true

/-! ## The graph engines and the punty -/

/-- A launch entry whose fields are in order (R140, R142): its header's address and the address of its completion word. -/
def EntryFine (v : Nat) (header done : Word) : Prop :=
  v / 2 ^ 128 % 2 ^ 384 = 0 ∧ header = BitVec.ofNat 64 v ∧ done = BitVec.ofNat 64 (v / 2 ^ 64) ∧ header.toNat % 64 = 0 ∧
    done.toNat % 8 = 0

/-- The next launch entry of an engine that serves no launch, on a die whose fabric clock runs: its queue, where it lies (R142, R191). -/
def NextEntry (s : State) (p q pa : Nat) : Prop :=
  s.launches = [] ∧ (s.fabricOf (s.lowDie p)).step = none ∧ s.stopped p = false ∧ nextQueue s p = some q ∧
    pa = lqBase s p q + 64 * (lqHead s p q % lqLen s p q)

/-- A slot that nothing holds back from leaving: no park, no capture, no deferred trap, nothing of it refused or faulted. -/
def Unburdened (s : State) (sid : Nat) : Prop :=
  (s.slot sid).park = none ∧ (s.slot sid).cap = none ∧ (s.slot sid).deferred = none ∧
    s.flight.find? (fun a => (a.stage = .held || a.stage = .faulted) && a.slotOf s = some sid) = none ∧
    s.messages.find? (fun m => m.sid = sid && decide (m.answer = some Verdict.refused)) = none

/-- The address of a slot's record (R71). -/
def recordAddr (x : Slot) : Word := BitVec.ofNat 64 (x.tid.toNat / 2 ^ 8 % 2 ^ 51 * 64)

/-- Number of bits below r in a mask. -/
def below (mask r : Nat) : Nat := ((List.range r).filter (fun i => mask.testBit i)).length

/-! ## Gears and power -/

/-- Some live slot of a cell asks for glory and does not hide it (R196). -/
def Wants (s : State) (cell : Nat) : Prop :=
  ∃ q ∈ s.slots, q.1 / 64 = cell ∧ q.2.isLive = true ∧ q.2.greq.getLsbD 0 = true ∧ q.2.greq.getLsbD 1 = false

/-- A cell whose indices stand where they are wanted, in both gears. -/
def Settled (s : State) (cell : Nat) : Prop :=
  ∀ t : State, t.slots = s.slots → t.regs = s.regs → (t.cell cell).stepDown = (s.cell cell).stepDown →
    (t.cell cell).gear.getLsbD 0 = (s.cell cell).gear.getLsbD 0 →
    wantedGidx t cell = bits (s.cell cell).oppt 3 0 ∧ wantedLidx t cell = bits (s.cell cell).oppt 7 4

/-- The next tick of the package clock (R188). -/
def nextTick (s : State) : Nat := (s.gts.toNat + 9) / 10 * 10

/-- A cell's removals stand as its depth says, where none of its slots is exempt: its highest servitor slots of each core are
removed, and of a slot nothing else changes (R204). -/
def DepthStands (s t : State) (cell : Nat) : Prop :=
  (∀ j, { t.slot j with removedAt := (s.slot j).removedAt } = s.slot j) ∧
    ∀ k i, k < 4 → 1 ≤ i → i < 16 → (∀ j < 16, (s.slot (64 * cell + 16 * k + j)).exemptUntil = none) →
      ((t.slot (64 * cell + 16 * k + i)).removedAt.isSome = true ↔ 16 ≤ i + (t.reg (powerOff cell)).toNat % 16)

/-- Whether a sampled cell comes before another in the order of R204: by measured power, then by logical number. -/
def Hotter (s : State) (x y : CellSample) : Prop :=
  let l (z : CellSample) : Nat := s.lcellOf (s.partN z.cell) z.cell
  y.watts < x.watts ∨ x.watts = y.watts ∧ (l x < l y ∨ l x = l y ∧ x.cell < y.cell)

/-- A pair as a rewrite leaves it (R189): the time, the count, the frequency, and SEQ one higher. -/
def PairIs (s t : State) (pair at_ n f : Nat) : Prop :=
  t.reg pair = BitVec.ofNat 64 at_ ∧ t.reg (pair + 8) = BitVec.ofNat 64 n ∧
    t.reg (pair + 0x10) = BitVec.ofNat 64 (f % 256 + 2 ^ 32 * (((s.reg (pair + 0x10)).toNat / 2 ^ 32 + 1) % 2 ^ 32))

/-! ## Decoding and steps -/

/-- A slot that issues at its turn: live, its cell's clock running, nothing that holds it back (R4, R14, R83, R153, R204, R274). -/
def Issues (s : State) (sid : Nat) : Prop :=
  let x := s.slot sid
  x.status = .live ∧ clockStop (s.cell (sid / 64)) = none ∧ x.killReq = none ∧ x.removedAt = none ∧ x.deferred = none ∧
    x.park = none ∧ x.await = none ∧ x.shoot = none ∧ x.cap = none

/-- The state in which a turn is chosen from outside: time has passed, the turn is no longer to come. -/
def chosen (s : State) (rest : List Turn) : State := { passTime s with agenda := rest }

/-- The state in which it runs: where it replays what was parked, those accesses are made again. -/
def turnState (s : State) (t : Turn) (rest : List Turn) : State := replayTurn (chosen s rest) t

end Sys2Proof.Claims

open Sys2Proof Sys2Proof.Machine Sys2Proof.Claims

/-! ## Integer, address and control instructions -/

/-- R254, R255, R257-R259: every instruction on two registers, sources readable and destination owing nothing, writes the result
that the rules give into its destination, takes F of the sources that it sync-reads, goes on at PC + 4, and changes nothing else.
The instructions that it says so of are add, sub, mul, mulh, mulhu, div, divu, rem, remu, and, or, xor, andn, orn, shl, shr, sar,
rol, min, max, minu, maxu, slt, sltu, seq and sne. -/
def Obligations.TwoRegisterResults : Prop :=
  ∀ (s : State) (i : Instr) (d a b : BitVec 6) (m n : Bool) (f : Word → Word → Word),
    aluTwo i = some (d, a, b, m, n, f) → Writable (here s) d → Readable (here s) a → Readable (here s) b →
    ∃ t, exec i s = .next t ∧ OnlyIssuer s t ∧
      here t = ((((here s).take a.toNat m).take b.toNat n).putS d.toNat (f ((here s).sval a.toNat) ((here s).sval b.toNat))).next

/-- R254, R260-R264: the same of the instructions on one register, of those with an immediate, and of `lui`, `pcrel`, `lea`. The
width code of `sext` and `zext` is one that decodes.
The instructions that it says so of are clz, ctz, popc, sext, zext, bswap, addi, andi, ori, xori, slti, sltui, shli, shri, sari,
lea, lui and pcrel. -/
def Obligations.OneRegisterResults : Prop :=
  (∀ (s : State) (i : Instr) (d a : BitVec 6) (m : Bool) (f : Word → Word),
    aluOne i = some (d, a, m, f) → i.legality = none → Writable (here s) d → Readable (here s) a →
    ∃ t, exec i s = .next t ∧ OnlyIssuer s t ∧
      here t = (((here s).take a.toNat m).putS d.toNat (f ((here s).sval a.toNat))).next) ∧
  (∀ (s : State) (i : Instr) (d : BitVec 6) (f : Word → Word),
    aluNone i = some (d, f) → Writable (here s) d →
    ∃ t, exec i s = .next t ∧ OnlyIssuer s t ∧ here t = ((here s).putS d.toNat (f (here s).pc)).next)

/-- R266: a conditional branch whose sources can be read goes to PC + 4 off where its condition holds, else to PC + 4, and changes
nothing but the PC; a word whose cond field is 110 or 111 is no instruction, and so traps ILLEGAL (StepRunsDecoded).
The instructions that it says so of are bEq, bNe, bLt, bGe, bLtu and bGeu. -/
def Obligations.BranchResults : Prop :=
  (∀ (s : State) (i : Instr) (a b : BitVec 6) (o : BitVec 11) (c : Word → Word → Prop),
    branchOf i = some (a, b, o, c) → Readable (here s) a → Readable (here s) b →
    ∃ t, exec i s = .next t ∧ OnlyIssuer s t ∧
      (c ((here s).sval a.toNat) ((here s).sval b.toNat) →
        here t = { here s with pc := BitVec.ofInt 64 ((here s).pc.toInt + o.toInt * 4) }) ∧
      (¬ c ((here s).sval a.toNat) ((here s).sval b.toNat) → here t = { here s with pc := (here s).pc + 4#64 })) ∧
  ∀ (a b : BitVec 6) (c : BitVec 3) (o : BitVec 11), 6 ≤ c.toNat → decode (0x0C#6 ++ a ++ b ++ c ++ o) = .error .encoding

/-- R267, R270: `j` goes to its target; `jal` and `jalr` also write PC + 4 into s1 or d; `loop` counts its register down and goes
to its target while the count is not 0. Nothing else changes.
R69, R268, R269: `ret` and `call` mark the registers that CVMASK names dead, except in liveness-table mode; `ret` goes to the
address in its register, `call` writes PC + 4 into s1 after the marking and goes to its target.
It rests on the model's own choices and readings too, notes/assumptions/87.md. -/
def Obligations.JumpsAndCalls : Prop :=
  ((∀ (s : State) (o : BitVec 26), ∃ t, exec (.j o) s = .next t ∧ OnlyIssuer s t ∧
    here t = { here s with pc := BitVec.ofInt 64 ((here s).pc.toInt + o.toInt * 4) }) ∧
  (∀ (s : State) (o : BitVec 26), Writable (here s) 1#6 → ∃ t, exec (.jal o) s = .next t ∧ OnlyIssuer s t ∧
    here t = { (here s).putS 1 ((here s).pc + 4#64) with pc := BitVec.ofInt 64 ((here s).pc.toInt + o.toInt * 4) }) ∧
  (∀ (s : State) (d a : BitVec 6), Writable (here s) d → Readable (here s) a → ((here s).sval a.toNat) &&& 3#64 = 0#64 →
    ∃ t, exec (.jalr d a) s = .next t ∧ OnlyIssuer s t ∧
      here t = { (here s).putS d.toNat ((here s).pc + 4#64) with pc := (here s).sval a.toNat }) ∧
  (∀ (s : State) (a : BitVec 6) (o : BitVec 14), Readable (here s) a → (here s).sP a.toNat = false →
    ∃ t, exec (.loop a o) s = .next t ∧ OnlyIssuer s t ∧
      let c := (here s).sval a.toNat
      here t =
        if c = 0#64 then { here s with pc := (here s).pc + 4#64 }
        else if c = 1#64 then { (here s).putS a.toNat 0#64 with pc := (here s).pc + 4#64 }
        else { (here s).putS a.toNat (c - 1#64) with pc := BitVec.ofInt 64 ((here s).pc.toInt + o.toInt * 4) })) ∧
  ((∀ (s : State) (a : BitVec 6), Readable (here s) a → ((here s).sval a.toNat) &&& 3#64 = 0#64 → MayMark (here s) →
    ∃ t, exec (.ret a) s = .next t ∧ OnlyIssuer s t ∧ Marked (here s) (here t) 64 ∧ (here t).pc = (here s).sval a.toNat) ∧
  (∀ (s : State) (o : BitVec 20), Writable (here s) 1#6 → MayMark (here s) →
    ∃ t, exec (.call o) s = .next t ∧ OnlyIssuer s t ∧ Marked (here s) (here t) 1 ∧
      (here t).sval 1 = (here s).pc + 4#64 ∧ (here t).sF 1 = true ∧
      (here t).pc = BitVec.ofInt 64 ((here s).pc.toInt + o.toInt * 4)))

/-- The frame of the arithmetic, address, branch and jump instructions, whatever their operands and whether they complete, stall
or trap: no byte of memory, no other slot, no cell and no queue changes, nor do FFLAGS, the vector registers and predicates, and
the slot's status and task registers outside the trap record (R256).
R61, R67: a write of s0 is discarded: an instruction on two registers with destination s0 completes, and every scalar register
reads as before.
R65: an instruction on two registers whose first source is empty stalls: the slot and everything but the performance counters stay
as they are.
R63, R80, R81: an instruction on two registers that names one at or above the slot's count traps REG-BOUND with the number of the
first such register, once the slot's earlier vector instructions are complete.
It rests on the model's own choices and readings too, notes/assumptions/10.md and notes/assumptions/28.md. -/
def Obligations.ScalarFrameAndStalls : Prop :=
  (∀ (s t : State) (i : Instr),
    ((aluTwo i).isSome ∨ (aluOne i).isSome ∨ (aluNone i).isSome ∨ (branchOf i).isSome ∨
      (∃ o, i = .j o) ∨ (∃ o, i = .jal o) ∨ (∃ d a, i = .jalr d a) ∨ (∃ a o, i = .loop a o)) →
    exec i s = .next t →
    SameBytes s t ∧ t.cells = s.cells ∧ t.cores = s.cores ∧ t.flight = s.flight ∧ (∀ j, j ≠ s.cur → t.slot j = s.slot j) ∧
      (here t).fflags = (here s).fflags ∧ (here t).vreg = (here s).vreg ∧ (here t).preg = (here s).preg ∧
      (here t).unack = (here s).unack ∧ (here t).tvec = (here s).tvec ∧ (here t).aown = (here s).aown ∧
      (here t).rmode = (here s).rmode ∧ (here t).vfmt = (here s).vfmt ∧ (here t).greq = (here s).greq ∧ (here t).tid = (here s).tid) ∧
  (∀ (s : State) (i : Instr) (a b : BitVec 6) (f : Word → Word → Word),
    aluTwo i = some (0#6, a, b, false, false, f) → 0 < (here s).ns → Readable (here s) a → Readable (here s) b →
    ∃ t, exec i s = .next t ∧ OnlyIssuer s t ∧ (here t).sval 0 = 0#64 ∧
      here t = { here s with pc := (here s).pc + 4#64 }) ∧
  (∀ (s : State) (i : Instr) (d a b : BitVec 6) (m n : Bool) (f : Word → Word → Word),
    aluTwo i = some (d, a, b, m, n, f) → d.toNat < (here s).ns → a.toNat < (here s).ns → b.toNat < (here s).ns →
    (here s).sF a.toNat = false →
    ∃ t, exec i s = .next t ∧ OnlyIssuer s t ∧ here t = here s) ∧
  (∀ (s : State) (i : Instr) (d a b : BitVec 6) (m n : Bool) (f : Word → Word → Word),
    aluTwo i = some (d, a, b, m, n, f) → vecOpen s s.cur = false →
    ((here s).ns ≤ d.toNat → ∃ t, exec i s = .next t ∧ TakesTrap s t 3 0 (d.setWidth 64)) ∧
    (d.toNat < (here s).ns → (here s).ns ≤ a.toNat → ∃ t, exec i s = .next t ∧ TakesTrap s t 3 0 (a.setWidth 64)) ∧
    (d.toNat < (here s).ns → a.toNat < (here s).ns → (here s).ns ≤ b.toNat →
      ∃ t, exec i s = .next t ∧ TakesTrap s t 3 0 (b.setWidth 64)))

/-! ## Waiting and trapping -/

/-- R80, R81, R315: `trap` takes SOFTWARE and `brk` takes BREAK, with the immediate in TVAL, once the slot's earlier vector
instructions are complete.
R80, R315: `eret` sets the PC to TEPC and clears HACT, and changes nothing else; with TEPC not aligned it traps MISALIGN.
R225, R267, R269: `jalr` and `ret` to an address that is not a multiple of 4 trap MISALIGN with DETAIL 2, d unwritten. -/
def Obligations.SlotTraps : Prop :=
  (∀ (s : State) (i : BitVec 12), vecOpen s s.cur = false →
    (∃ t, exec (.trap i) s = .next t ∧ TakesTrap s t 6 0 (i.setWidth 64)) ∧
    (∃ t, exec (.brk i) s = .next t ∧ TakesTrap s t 5 0 (i.setWidth 64))) ∧
  ((∀ (s : State), (here s).tepc &&& 3#64 = 0#64 →
    ∃ t, exec .eret s = .next t ∧ OnlyIssuer s t ∧
      here t = { here s with pc := (here s).tepc, tcause := (here s).tcause &&& ~~~0x10000#64 }) ∧
  (∀ (s : State), (here s).tepc &&& 3#64 ≠ 0#64 → vecOpen s s.cur = false →
    ∃ t, exec .eret s = .next t ∧ TakesTrap s t 7 2 (here s).tepc)) ∧
  (∀ (s : State) (d a : BitVec 6), Writable (here s) d → Readable (here s) a → vecOpen s s.cur = false →
    ((here s).sval a.toNat) &&& 3#64 ≠ 0#64 →
    (∃ t, exec (.jalr d a) s = .next t ∧ TakesTrap s t 7 2 ((here s).sval a.toNat)) ∧
    (∃ t, exec (.ret a) s = .next t ∧ TakesTrap s t 7 2 ((here s).sval a.toNat)))

/-! ## CSRs -/

/-- R72, R314: `csrr` writes the value of any CSR of the table of R72 that the slot's level may read into its destination. FFLAGS
waits for the slot's vector instructions (R50).
R73, R81: a CSR instruction with a number outside the table of R72 traps ILLEGAL, and a write of a window, TDCTL or MWT by a
servitor, like a read or a write of a forwarding entry below level Y, traps PRIV. -/
def Obligations.CsrReadsAndRefusals : Prop :=
  (∀ (s : State) (d : BitVec 6) (c : BitVec 14) (v : Word),
    csrValue s s.cur c.toNat = some v → (0x120 ≤ c.toNat ∧ c.toNat < 0x140 → s.levelY s.cur = true) →
    Writable (here s) d → (c.toNat = 0x12 → vectorBusy s s.cur = false) →
    ∃ t, exec (.csrr d c) s = .next t ∧ OnlyIssuer s t ∧ here t = ((here s).putS d.toNat v).next) ∧
  ((∀ (s : State) (d : BitVec 6) (c : BitVec 14), vecOpen s s.cur = false →
    (csrValue s s.cur c.toNat = none → ∃ t, exec (.csrr d c) s = .next t ∧ TakesTrap s t 1 0 (wordOf (.csrr d c))) ∧
    (0x120 ≤ c.toNat → c.toNat < 0x140 → s.levelY s.cur = false →
      ∃ t, exec (.csrr d c) s = .next t ∧ TakesTrap s t 2 0 (wordOf (.csrr d c)))) ∧
  ∀ (s : State) (i : Instr) (n : Nat) (d a : BitVec 6) (f : Word → Word → Word), csrOf i = some (n, d, a, f) →
    vecOpen s s.cur = false →
    (csrValue s s.cur n = none → ∃ t, exec i s = .next t ∧ TakesTrap s t 1 0 (wordOf i)) ∧
    ((0x220 ≤ n ∧ n < 0x228) ∨ n = 0x233 ∨ n = 0x234 → isGaffer s.cur = false →
      ∃ t, exec i s = .next t ∧ TakesTrap s t 2 0 (wordOf i)) ∧
    (0x120 ≤ n → n < 0x140 → s.levelY s.cur = false → ∃ t, exec i s = .next t ∧ TakesTrap s t 2 0 (wordOf i)))

/-- R71-R78, R314: `csrw`, `csrs` and `csrc` give the destination the old value, and the register's writable bits the register's
value, the old value with its bits set, or with its bits cleared; a register without writable bits takes nothing, and no other CSR
changes but MWSH with MWT. Windows, TDCTL and MWT are written by gaffers alone. A write of AOWN that claims what another slot of
the core holds traps ACCESS with DETAIL 2, one that drops an accumulator in use stalls, and a write of a ring or a strip that a
command names parks.
The instructions that it says so of are csrw, csrs and csrc. -/
def Obligations.CsrWrites : Prop :=
  ∀ (s : State) (i : Instr) (n : Nat) (d a : BitVec 6) (f : Word → Word → Word) (old : Word),
    csrOf i = some (n, d, a, f) → csrValue s s.cur n = some old → (0x120 ≤ n ∧ n < 0x140 → s.levelY s.cur = true) →
    ((0x220 ≤ n ∧ n < 0x228) ∨ n = 0x233 ∨ n = 0x234 → isGaffer s.cur = true) →
    Writable (here s) d → Readable (here s) a → (n = 0x12 → vectorBusy s s.cur = false) →
    let v := f old ((here s).sval a.toNat)
    (csrFree s n v → ∃ t, exec i s = .next t ∧ SameBytes s t ∧ OtherSlots s t ∧ (here t).pc = (here s).pc + 4#64 ∧
      (here t).sreg = ((here s).putS d.toNat old).sreg ∧ (here t).vreg = (here s).vreg ∧ (here t).preg = (here s).preg ∧
      (csrWhole n → csrValue t s.cur n = some (v &&& csrMask n)) ∧
      (¬csrWhole n → csrValue t s.cur n = some ((old &&& ~~~csrMask n) ||| (v &&& csrMask n))) ∧
      ∀ k, k ≠ n → ¬(n = 0x234 ∧ k = 0x101) → csrValue t s.cur k = csrValue s s.cur k) ∧
    (∀ k < 8, n = 0x18 → HeldBy s v k → (∀ j < k, ¬HeldBy s v j) → vecOpen s s.cur = false →
      ∃ t, exec i s = .next t ∧ TakesTrap s t 9 2 (BitVec.ofNat 64 k)) ∧
    (∀ k < 8, n = 0x18 → (∀ j < 8, ¬HeldBy s v j) → Drops s v k → ∃ t, exec i s = .next t ∧ OnlyIssuer s t ∧ here t = here s) ∧
    (0x200 ≤ n → n < 0x220 → ringBusy s (home s) (n % 16) = true →
      ∃ t, exec i s = .next t ∧ here t = { here s with park := some .ring } ∧ OtherSlots s t ∧ SameBytes s t)

/-! ## Memory instructions at issue -/

/-- R264, R271-R285: a load, store, full/empty operation or atomic whose operands are ready, at an address that takes it, sends
one access with the operation, address, data and ordering that the rules give, owes its destination, raises UNACK where it is
acknowledged, goes on at PC + 4, and changes no byte of memory itself.
The instructions that it says so of are ld, st, ldS, ldAcq, stRel, lds, sts, ldw, fefill, feempty, feq, amoAdd, amoAnd, amoOr,
amoXor, amoMin, amoMax, amoMinu, amoMaxu, amoSwap, amoFadd and cas. -/
def Obligations.MemoryIssue : Prop :=
  ∀ (s : State) (i : Instr) (r : MemReq),
    memOf (here s) i = some r → Readable (here s) r.base → (∀ d ∈ r.data, Readable (here s) d) →
    (∀ d, r.dst = some d → Writable (here s) d) →
    Admitted s (r.ea ((here s).sval r.base.toNat)) r.op r.plain → Unhindered s (r.ea ((here s).sval r.base.toNat)) r.op →
    ∃ t a, exec i s = .next t ∧ t.flight = s.flight ++ [a] ∧ Sent s a r (r.ea ((here s).sval r.base.toNat)) ∧
      Issued (here s) (here t) r ∧ SameBytes s t ∧ (∀ j, j ≠ s.cur → t.slot j = s.slot j)

/-- R81, R85, R86, R271, R272, R275: at an address that does not take it, the same instruction traps: PRIV below level Y in the
privileged aperture, else MISALIGN with the size code, else PAGE where the address is not canonical, else ACCESS. -/
def Obligations.MemoryTraps : Prop :=
  ∀ (s : State) (i : Instr) (r : MemReq),
    memOf (here s) i = some r → Readable (here s) r.base → (∀ d ∈ r.data, Readable (here s) d) →
    (∀ d, r.dst = some d → Writable (here s) d) → vecOpen s s.cur = false →
    let ea := r.ea ((here s).sval r.base.toNat)
    let below := inPriv ea = true ∧ canonical ea = true ∧ s.levelY s.cur = false
    let unaligned := ea.toNat % r.op.align ≠ 0 ∧ (r.plain = false ∨ (canonical ea = true ∧ ea.getLsbD 56 = true))
    (below → ∃ t, exec i s = .next t ∧ TakesTrap s t 2 0 (wordOf i)) ∧
    (¬below → unaligned → ∃ t, exec i s = .next t ∧ TakesTrap s t 7 (sizeCode r.op.align) ea) ∧
    (¬below → ¬unaligned → canonical ea = false → ∃ t, exec i s = .next t ∧ TakesTrap s t 8 r.op.kind.detail ea) ∧
    (¬below → ¬unaligned → canonical ea = true → r.op.allowedIn (spaceOf s (home s) ea) = false →
      ∃ t, exec i s = .next t ∧ TakesTrap s t 9 0 ea)

/-! ## Lines, blocks, fences -/

/-- R286, R287: `line.rd` and `line.cst` at a lower-half line send one access to the translation unit, with the line's address and
the data, and owe their destination; `line.cst` raises UNACK.
R288, R289: a block of a nonzero count whose runs lie in the commons and in the own local memory enters the core's block engine
with its direction, scope, first units and count, owes its token register, and goes on at PC + 4; `blk.wr` raises UNACK. No byte
has moved yet.
The instructions that it says so of are lineRd, lineCst, blkRd and blkWr. -/
def Obligations.LineAndBlockIssue : Prop :=
  ((∀ (s : State) (d : BitVec 5) (a : BitVec 6) (q : Bool) (sc : BitVec 3),
    Readable (here s) a → d.toNat < (here s).nv → (here s).vP d.toNat = false → vecReader s s.cur [d.toNat] = false →
    Admitted s ((here s).sval a.toNat) .lineRd false → Unhindered s ((here s).sval a.toNat) .lineRd →
    ∃ t b, exec (.lineRd d a q sc) s = .next t ∧ t.flight = s.flight ++ [b] ∧ b.op = .lineRd ∧ b.va = (here s).sval a.toNat ∧
      b.acq = q ∧ b.stage = .walk (dieOf (home s)) ∧ (here t).vF d.toNat = false ∧ (here t).vP d.toNat = true ∧
      (here t).pc = (here s).pc + 4#64 ∧ (here t).unack = (here s).unack ∧ (here t).sreg = (here s).sreg ∧
      (here t).vreg = (here s).vreg ∧ SameBytes s t ∧ OtherSlots s t) ∧
  (∀ (s : State) (d a b : BitVec 6) (n : BitVec 2) (r : Bool) (sc : BitVec 3),
    b.toNat % 2 = 0 → Readable (here s) a → Writable (here s) d → b.toNat + 1 < (here s).nv →
    (∀ k, k = b.toNat ∨ k = b.toNat + 1 → (here s).vF k = true ∧ (here s).verr.getLsbD k = false) →
    let op := MemOp.lineCst (n.toNat + 1) ((here s).vval b.toNat) ((here s).vval (b.toNat + 1))
    Admitted s ((here s).sval a.toNat) op false → Unhindered s ((here s).sval a.toNat) op →
    ∃ t c, exec (.lineCst d a b n r sc) s = .next t ∧ t.flight = s.flight ++ [c] ∧ c.op = op ∧ c.va = (here s).sval a.toNat ∧
      c.rel = r ∧ c.stage = .walk (dieOf (home s)) ∧ (d ≠ 0#6 → (here t).sF d.toNat = false ∧ (here t).sP d.toNat = true) ∧
      (here t).pc = (here s).pc + 4#64 ∧ (here t).unack = (here s).unack + 1#64 ∧ (here t).sreg = (here s).sreg ∧
      (here t).vreg = (here s).vreg ∧ SameBytes s t ∧ OtherSlots s t)) ∧
  (∀ (s : State) (i : Instr) (wr t0 : Bool) (d a b : BitVec 6) (sc : BitVec 3),
    i = (if wr then Instr.blkWr d a b t0 sc else Instr.blkRd d a b t0 sc) → d ≠ 0#6 → Writable (here s) d →
    Readable (here s) d → Readable (here s) a → Readable (here s) b → (here s).sval d.toNat ≠ 0#64 →
    BlockRuns s ((here s).sval a.toNat) ((here s).sval b.toNat) ((here s).sval d.toNat).toNat →
    (wr = true → (here s).unack ≠ 0xFFFF#64) → (s.core (coreOf s.cur)).blocks.length < 4 →
    (t0 = true → ((here s).sval d.toNat).toNat ≤ 64 * groupCount s (home s)) →
    ∃ t k, exec i s = .next t ∧ (t.core (coreOf s.cur)).blocks = (s.core (coreOf s.cur)).blocks ++ [k] ∧
      k.wr = wr ∧ k.atomic = t0 ∧ k.scope = sc.toNat ∧ k.sid = s.cur ∧ k.gen = (here s).gen ∧ k.dreg = d.toNat ∧
      k.cunit = bits ((here s).sval a.toNat) 47 6 ∧ k.lunit = bits ((here s).sval b.toNat) 47 6 ∧
      k.count = ((here s).sval d.toNat).toNat ∧ SameBytes s t ∧ OtherSlots s t ∧
      here t = let x := ((here s).oweS d.toNat).next; if wr then { x with unack := x.unack + 1#64 } else x)

/-- R122, R292: a `fence` completes once the slot's reads have returned and, for a release, its writes are acknowledged and, at
package or system scope, the die's forwards are home, or at scope 0 once its vector and its scalar accesses are performed; it then
changes no byte and no register, and until then the slot stays at it. An acquire at package or system scope leaves no clean
replica on the die.
R293: the cache maintenance instructions go on at PC + 4 and change no register. `cwb` first waits for the slot's own stores to
its line. Where the address is translated, `cinv` leaves no copy of its line in the core's L1, `cwb` no forward of it that waits
for its home, and `pref` and `pref.w` to a cached page whose line has no error bring it to the die's slice, at its home at once or
by a miss register. Without a translation they do nothing. None changes a byte of memory, but for the writes that the die has yet
to forward, which `cwb`, `pref` and `pref.w` may bring to their homes.
It rests on the model's own choices and readings too, notes/assumptions/31.md, notes/assumptions/34.md and
notes/assumptions/101.md. -/
def Obligations.FencesAndCaches : Prop :=
  (∀ (s : State) (k : BitVec 2) (sc : BitVec 3),
    let open_ := (sc = 0#3 ∧ (vectorOpen s s.cur = true ∨ scalarPending s s.cur = true)) ∨
      (sc ≠ 0#3 ∧ (readsOpen s s.cur = true ∨
        (k.getLsbD 1 = true ∧ (writesOpen s s.cur = true ∨ 4 ≤ sc.toNat ∧ forwardsOpen s (dieOf (home s)) = true))))
    (¬open_ → ∃ t, exec (.fence k sc) s = .next t ∧ here t = (here s).next ∧ SameBytes s t ∧ OtherSlots s t ∧
      (k.getLsbD 0 = true → 4 ≤ sc.toNat → ∀ r ∈ t.replicas, r.die = dieOf (home s) →
        ∃ f ∈ t.forwards, f.die = r.die ∧ f.pa / 128 = r.line)) ∧
    (open_ → ∃ t, exec (.fence k sc) s = .next t ∧ OnlyIssuer s t ∧ here t = here s)) ∧
  ((∀ (s : State) (a : BitVec 6) (i : Instr), i = .cinv a ∨ i = .pref a ∨ i = .prefW a ∨ i = .cwb a → Readable (here s) a →
    (i = .cwb a → LineQuiet s ((here s).sval a.toNat)) →
    ∃ t, exec i s = .next t ∧ here t = (here s).next ∧ OtherSlots s t ∧
      (i = .cinv a ∨ (∀ f ∈ s.forwards, f.die ≠ dieOf (home s)) → SameBytes s t)) ∧
  (∀ (s u t : State) (a : BitVec 6) (pa key attr : Nat), Readable (here s) a →
    LeadsTo s ((here s).sval a.toNat) false false pa key attr u → exec (.cinv a) s = .next t →
    ∀ q ∈ (t.core (coreOf s.cur)).l1, ∀ l, some l ∈ q.2.ways → l.pa ≠ pa / 128) ∧
  (∀ (s : State) (a : BitVec 6), Readable (here s) a → ¬LineQuiet s ((here s).sval a.toNat) → exec (.cwb a) s = .next s) ∧
  (∀ (s u t : State) (a : BitVec 6) (pa key attr : Nat), Readable (here s) a → LineQuiet s ((here s).sval a.toNat) →
    LeadsTo s ((here s).sval a.toNat) false false pa key attr u → exec (.cwb a) s = .next t →
    ∀ f ∈ t.forwards, f.die = dieOf (home s) → f.home = homeDie u (128 * (pa / 128)) → f.pa / 128 ≠ pa / 128) ∧
  (∀ (s u t : State) (a : BitVec 6) (pa key : Nat), Readable (here s) a →
    LeadsTo s ((here s).sval a.toNat) false false pa key 0 u → physErr u (pa / 128 * 128) 128 = false →
    CanMiss u (dieOf (home s)) (pa / 128) → exec (.prefW a) s = .next t →
    (homeDie u pa = dieOf (home s) →
      lineStamp t (dieOf (home s)) (pa / 128) ≠ none ∨ ∃ q ∈ t.misses, q.die = dieOf (home s) ∧ q.line = pa / 128) ∧
    (homeDie u pa ≠ dieOf (home s) → replicaOf t (dieOf (home s)) (pa / 128) key ≠ none)) ∧
  (∀ (s u t : State) (a : BitVec 6) (pa key : Nat), Readable (here s) a →
    LeadsTo s ((here s).sval a.toNat) true false pa key 0 u → physErr u (pa / 128 * 128) 128 = false →
    CanMiss u (dieOf (home s)) (pa / 128) → exec (.pref a) s = .next t →
    (homeDie u pa = dieOf (home s) →
      lineStamp t (dieOf (home s)) (pa / 128) ≠ none ∨ ∃ q ∈ t.misses, q.die = dieOf (home s) ∧ q.line = pa / 128) ∧
    (homeDie u pa ≠ dieOf (home s) → replicaOf t (dieOf (home s)) (pa / 128) key ≠ none)))

/-! ## Messages -/

/-- R298, R300: `send`, `send.v` and `send.p` to a register of a slot of the partition send one message with the target word and
the value of the scalar, vector or predicate register, raise UNACK and wait for the answer at PC + 4.
R64, R300: a scalar, vector or predicate message is refused while its register is full or owed, NACKed where the register lies at
or above the slot's count, or is none of the eight predicates, or no slot has its generation, and else accepted: the register
takes the value and is full; one to s0 or p0 is accepted and discarded. One whose `send` read a register in error fills nothing.
An accepted message lowers its sender's UNACK and lets it go on; a NACKed one traps UNDELIVERABLE at its `send`, one that read a
register in error MACHINE-CHECK with its number (R82); a refused one parks at its `send` for another attempt, up to the limit of
PARKLIM, at which it traps SYNC-TIMEOUT (R281). -/
def Obligations.Messages : Prop :=
  ((∀ (s : State) (a b : BitVec 6) (m n : Bool) (c : Nat), Readable (here s) a → Readable (here s) b →
    Names s ((here s).sval a.toNat) 64 c → (here s).unack ≠ 0xFFFF#64 →
    ∃ t q, exec (.send a b m n) s = .next t ∧ MessageSent s t q ∧ q.kind = 0 ∧ q.target = (here s).sval a.toNat ∧ q.tcell = c ∧
      q.value = ((here s).sval b.toNat).setWidth 4096) ∧
  (∀ (s : State) (a : BitVec 6) (b : BitVec 5) (m n : Bool) (c : Nat), Readable (here s) a → b.toNat < (here s).nv →
    (here s).vF b.toNat = true → (here s).verr.getLsbD b.toNat = false → (n = true → vecReader s s.cur [b.toNat] = false) →
    Names s ((here s).sval a.toNat) 32 c → (here s).unack ≠ 0xFFFF#64 →
    ∃ t q, exec (.sendV a b m n) s = .next t ∧ MessageSent s t q ∧ q.kind = 1 ∧ q.target = (here s).sval a.toNat ∧ q.tcell = c ∧
      q.value = (here s).vval b.toNat) ∧
  (∀ (s : State) (a : BitVec 6) (b : BitVec 3) (m n : Bool) (c : Nat), Readable (here s) a →
    (here s).pF b.toNat = true → (b = 0#3 ∨ (here s).perr.getLsbD b.toNat = false) →
    (n = true → predReader s s.cur b.toNat = false) → Names s ((here s).sval a.toNat) 8 c → (here s).unack ≠ 0xFFFF#64 →
    ∃ t q, exec (.sendP a b m n) s = .next t ∧ MessageSent s t q ∧ q.kind = 2 ∧ q.target = (here s).sval a.toNat ∧ q.tcell = c ∧
      q.value = ((here s).pval b.toNat).setWidth 4096)) ∧
  ((∀ (s : State) (m : Message) (k : Nat), JudgedAs s m k → m.kind = 0 →
    let r := bits m.target 5 0
    ((s.slot k).ns ≤ r → ∃ t, exec (.messageArrival m.id) s = .next t ∧ Answered t m .nacked ∧ t.slot k = s.slot k) ∧
    (r < (s.slot k).ns → r ≠ 0 → (s.slot k).sF r = true ∨ (s.slot k).sP r = true →
      ∃ t, exec (.messageArrival m.id) s = .next t ∧ Answered t m .refused ∧ t.slot k = s.slot k) ∧
    (m.poison ≠ none → r < (s.slot k).ns → r = 0 ∨ ((s.slot k).sF r = false ∧ (s.slot k).sP r = false) →
      ∃ t, exec (.messageArrival m.id) s = .next t ∧ Answered t m .broken ∧ t.slot k = s.slot k) ∧
    (m.poison = none → r < (s.slot k).ns → r ≠ 0 → (s.slot k).sF r = false → (s.slot k).sP r = false →
      ∃ t, exec (.messageArrival m.id) s = .next t ∧ Answered t m .accepted ∧ (t.slot k).sF r = true ∧
        (t.slot k).sval r = m.value.setWidth 64) ∧
    (m.poison = none → r = 0 → 0 < (s.slot k).ns →
      ∃ t, exec (.messageArrival m.id) s = .next t ∧ Answered t m .accepted ∧ (t.slot k).sreg = (s.slot k).sreg)) ∧
  (∀ (s : State) (m : Message) (k : Nat), JudgedAs s m k → m.kind = 1 →
    let r := bits m.target 5 0
    ((s.slot k).nv ≤ r → ∃ t, exec (.messageArrival m.id) s = .next t ∧ Answered t m .nacked ∧ t.slot k = s.slot k) ∧
    (r < (s.slot k).nv → (s.slot k).vF r = true ∨ (s.slot k).vP r = true →
      ∃ t, exec (.messageArrival m.id) s = .next t ∧ Answered t m .refused ∧ t.slot k = s.slot k) ∧
    (m.poison ≠ none → r < (s.slot k).nv → (s.slot k).vF r = false → (s.slot k).vP r = false →
      ∃ t, exec (.messageArrival m.id) s = .next t ∧ Answered t m .broken ∧ t.slot k = s.slot k) ∧
    (m.poison = none → r < (s.slot k).nv → r < 32 → (s.slot k).vF r = false → (s.slot k).vP r = false →
      ∃ t, exec (.messageArrival m.id) s = .next t ∧ Answered t m .accepted ∧ (t.slot k).vF r = true ∧
        (t.slot k).vval r = m.value)) ∧
  (∀ (s : State) (m : Message) (k : Nat), JudgedAs s m k → m.kind = 2 →
    let r := bits m.target 5 0
    (8 ≤ r → ∃ t, exec (.messageArrival m.id) s = .next t ∧ Answered t m .nacked ∧ t.slot k = s.slot k) ∧
    (r < 8 → r ≠ 0 → (s.slot k).pF r = true ∨ (s.slot k).pP r = true →
      ∃ t, exec (.messageArrival m.id) s = .next t ∧ Answered t m .refused ∧ t.slot k = s.slot k) ∧
    (m.poison ≠ none → r < 8 → r = 0 ∨ ((s.slot k).pF r = false ∧ (s.slot k).pP r = false) →
      ∃ t, exec (.messageArrival m.id) s = .next t ∧ Answered t m .broken ∧ t.slot k = s.slot k) ∧
    (m.poison = none → r < 8 → r ≠ 0 → (s.slot k).pF r = false → (s.slot k).pP r = false →
      ∃ t, exec (.messageArrival m.id) s = .next t ∧ Answered t m .accepted ∧ (t.slot k).pF r = true ∧
        (t.slot k).pval r = m.value.setWidth 1024) ∧
    (m.poison = none → r = 0 →
      ∃ t, exec (.messageArrival m.id) s = .next t ∧ Answered t m .accepted ∧ (t.slot k).preg = (s.slot k).preg)) ∧
  (∀ (s : State) (m : Message), s.messages.find? (fun q => q.id = m.id && q.answer.isNone) = some m →
    clockStop (s.cell m.tcell) = none → (s.fabricOf (dieOf m.tcell)).step = none →
    resolveSlot s (16 * (4 * m.tcell + bits m.target 11 10) + bits m.target 9 6) (m.target.extractLsb' 22 8) = none →
    ∃ t, exec (.messageArrival m.id) s = .next t ∧ Answered t m .nacked ∧ t.slots = s.slots) ∧
  (∀ (s : State) (m : Message), Returning s m .accepted →
    ∃ t, exec (.messageResponse m.id) s = .next t ∧ (∀ q ∈ t.messages, q.id ≠ m.id) ∧
      (t.slot m.sid).unack = (s.slot m.sid).unack - 1#64 ∧ (t.slot m.sid).pc = (s.slot m.sid).pc ∧
      ((s.slot m.sid).await = some m.id → (t.slot m.sid).await = none)) ∧
  (∀ (s : State) (m : Message), Returning s m .nacked → (s.slot m.sid).status = .live →
    ∃ t, exec (.messageResponse m.id) s = .next t ∧ (∀ q ∈ t.messages, q.id ≠ m.id) ∧
      (t.slot m.sid).tcause = BitVec.ofNat 64 (11 + 0x10000) ∧ (t.slot m.sid).tepc = m.pc ∧ (t.slot m.sid).tval = m.target) ∧
  (∀ (s : State) (m : Message) (r : Nat), Returning s m .broken → m.poison = some r → (s.slot m.sid).status = .live →
    ∃ t, exec (.messageResponse m.id) s = .next t ∧ (∀ q ∈ t.messages, q.id ≠ m.id) ∧
      (t.slot m.sid).tcause = BitVec.ofNat 64 (14 + 256 + 0x10000) ∧ (t.slot m.sid).tepc = m.pc ∧
      (t.slot m.sid).tval = BitVec.ofNat 64 r) ∧
  (∀ (s : State) (m : Message), Returning s m .refused → (s.slot m.sid).status = .live →
    let n := (s.slot m.sid).parklim.toNat % 2 ^ 32
    (n ≠ 0 → (s.slot m.sid).tries + 1 = n → ∃ t, exec (.messageResponse m.id) s = .next t ∧
      (t.slot m.sid).tcause = BitVec.ofNat 64 (12 + 0x10000) ∧ (t.slot m.sid).tepc = m.pc ∧ (t.slot m.sid).tval = m.target) ∧
    (n = 0 ∨ (s.slot m.sid).tries + 1 ≠ n → ∃ t, exec (.messageResponse m.id) s = .next t ∧
      (t.slot m.sid).park = some .refused ∧ (t.slot m.sid).tries = (s.slot m.sid).tries + 1 ∧
      (t.slot m.sid).pc = m.pc ∧ (t.slot m.sid).await = none ∧ t.messages = s.messages)))

/-! ## Threads -/

/-- R148, R152: `take` gives a gaffer the record address of the oldest entry of the highest level that has one and takes that
entry out, or 0; `reap` gives it the reap word of the lowest slot of its core with a final status, or of the one named, and
empties that slot, or 7 and leaves all as it is. -/
def Obligations.TakeAndReap : Prop :=
  (∀ (s : State) (d : BitVec 6), isGaffer s.cur = true → Writable (here s) d →
    let inbox := (s.cell (home s)).inbox
    ((∀ p < 4, getAt [] inbox p = []) →
      ∃ t, exec (.take d) s = .next t ∧ Wrote s t d 0#64 ∧ (t.cell (home s)).inbox = inbox ∧ SameBytes s t) ∧
    (∀ p e rest, p < 4 → getAt [] inbox p = e :: rest → (∀ q, p < q → q < 4 → getAt [] inbox q = []) →
      ∃ t, exec (.take d) s = .next t ∧ Wrote s t d e.record ∧ (t.cell (home s)).inbox = setAt inbox p rest ∧ SameBytes s t)) ∧
  (∀ (s : State) (d a : BitVec 6) (m : Bool), isGaffer s.cur = true → Writable (here s) d → Readable (here s) a →
    ((here s).sval a.toNat).toNat < 16 →
    let may (k : Nat) : Prop := 1 ≤ k ∧ k < 16 ∧ (((here s).sval a.toNat).toNat = 0 ∨ ((here s).sval a.toNat).toNat = k) ∧
      (s.slot (s.cur + k)).hasFinal = true
    ((∀ k, ¬may k) → ∃ t, exec (.reap d a m) s = .next t ∧ OnlyIssuer s t ∧
      here t = (((here s).take a.toNat m).putS d.toNat 7#64).next) ∧
    (∀ k, may k → (∀ j < k, ¬may j) → ∃ t, exec (.reap d a m) s = .next t ∧ SameBytes s t ∧
      here t = (((here s).take a.toNat m).putS d.toNat (reapOf (s.cur + k) (s.slot (s.cur + k)))).next ∧
      (t.slot (s.cur + k)).status = .empty ∧ (t.slot (s.cur + k)).gen = (s.slot (s.cur + k)).gen))

/-- R70, R146, R149: `start` of an empty servitor slot of the gaffer's core with a sound record, for which both pools have room
and no earlier start waits: the slot runs at the record's PC with its counts, dimensions, argument, formats, key and scale words,
VFMT with them, its generation one higher, all scalar, vector and predicate registers zero and full, no trap vector; a suspended
record's slot is to be restored first. Without room the gaffer parks. -/
def Obligations.StartResults : Prop :=
  ∀ (s : State) (a b : BitVec 6) (m n : Bool) (v k : Nat), isGaffer s.cur = true → Readable (here s) a → Readable (here s) b →
    k = ((here s).sval a.toNat).toNat → 1 ≤ k → k < 16 → (s.slot (s.cur + k)).status = .empty →
    RecordAt s ((here s).sval b.toNat) v → RecordSound v → rec32 v 14 % 4 < 2 →
    let room := aheadFor (s.cell (home s)) s.cur = false ∧ vectorUsed s (home s) + recV v ≤ 256 ∧
      scalarUsed s (coreOf s.cur) + recS v ≤ 512
    (room → ∃ t, exec (.start a b m n) s = .next t ∧
      (here t).pc = (here s).pc + 4#64 ∧ (here t).sreg = (here s).sreg ∧
      let y := t.slot (s.cur + k)
      y.status = (if rec32 v 14 % 4 = 1 then Status.restoring else Status.live) ∧
      y.gen = (s.slot (s.cur + k)).gen + 1#8 ∧ y.pc = rec64 v 0 ∧ y.targ = rec64 v 1 ∧
      y.tix = BitVec.ofNat 64 (rec32 v 4) ∧ y.tiy = BitVec.ofNat 64 (rec32 v 5) ∧ y.tiz = BitVec.ofNat 64 (rec32 v 6) ∧
      y.ns = recS v ∧ y.nv = recV v ∧ y.tsca = rec64 v 5 ∧ y.tscb = rec64 v 6 ∧ y.tkey = BitVec.ofNat 64 (rec32 v 9) ∧
      y.tvec = 0#64 ∧ y.cvmask = 0#64 ∧ y.aown = 0#64 ∧ y.unack = 0#64 ∧ y.parklim = 4096#64 ∧
      y.tfmt = BitVec.ofNat 64 (rec32 v 8 % 2 ^ 23) ∧
      y.vfmt = BitVec.ofNat 64 (rec32 v 8 / 2 ^ 15 % 32 + 32 * (rec32 v 8 / 2 ^ 22 % 2)) ∧
      y.save = rec64 v 7 &&& ~~~63#64 ∧ (∀ r < 64, y.sF r = true ∧ y.sP r = false ∧ y.sval r = 0#64) ∧
      (∀ r < 32, y.vF r = true ∧ y.vP r = false ∧ y.vval r = 0#4096) ∧
      ∀ r < 8, y.pF r = true ∧ y.pP r = false ∧ (r ≠ 0 → y.pval r = 0#1024)) ∧
    (¬room → ∃ t, exec (.start a b m n) s = .next t ∧ here t = { here s with park := some .pool } ∧ OtherSlots s t)

/-- R153, R159, R161, R150, R179, R196, R297, R313, R316: `kill` leaves a request at the live slot of the generation and nothing
elsewhere; `yield`, `retire` and `migrate` stop a servitor for the punty, for its end with a status, which a kill no longer
changes, or for its move; `wfi` parks; `gear` sets the gear request; `ophint` sets the phase. -/
def Obligations.ThreadRequests : Prop :=
  (∀ (s : State) (a b : BitVec 6) (m n : Bool), isGaffer s.cur = true → Readable (here s) a → Readable (here s) b →
    1 ≤ ((here s).sval a.toNat).toNat → ((here s).sval a.toNat).toNat < 16 → ((here s).sval b.toNat).toNat < 256 →
    let k := s.cur + ((here s).sval a.toNat).toNat
    let g := ((here s).sval b.toNat).setWidth 8
    ∃ t, exec (.kill a b m n) s = .next t ∧ SameBytes s t ∧ here t = (((here s).take a.toNat m).take b.toNat n).next ∧
      ((s.slot k).isLive = true → (s.slot k).gen = g → t.slot k = { s.slot k with killReq := some g }) ∧
      ((s.slot k).isLive = false ∨ (s.slot k).gen ≠ g → t.slot k = s.slot k)) ∧
  (∀ (s : State), isGaffer s.cur = false → ∃ t, exec .yield s = .next t ∧ SameBytes s t ∧ OtherSlots s t ∧
    here t = { (here s).next with status := .spilling false }) ∧
  (∀ (s : State) (a : BitVec 6) (m : Bool), isGaffer s.cur = false → Readable (here s) a →
    ∃ t, exec (.retire a m) s = .next t ∧ SameBytes s t ∧ OtherSlots s t ∧
      here t = { (here s).take a.toNat m with
        status := .ending (if ((here s).sval a.toNat).setWidth 32 = 0#32 then .ok else .failed)
          (((here s).sval a.toNat).setWidth 32), killReq := none }) ∧
  (∀ (s : State) (a : BitVec 6) (m : Bool) (c : Nat), isGaffer s.cur = false → Readable (here s) a →
    let w := (here s).sval a.toNat
    Names s w 1 c → bits w 63 22 = 0 → bits w 9 6 ≠ 0 → 4 * c + bits w 11 10 ≠ coreOf s.cur →
    ∃ t, exec (.migrate a m) s = .next t ∧ SameBytes s t ∧ OtherSlots s t ∧
      here t = { ((here s).take a.toNat m).next with
        status := .moving (16 * (4 * c + bits w 11 10) + bits w 9 6) false }) ∧
  (∀ (s : State), ∃ t, exec .wfi s = .next t ∧ SameBytes s t ∧ OtherSlots s t ∧
    here t = { here s with park := some .wfi }) ∧
  (∀ (s : State) (i : BitVec 13), i.toNat ≤ 1 → ∃ t, exec (.gear i) s = .next t ∧ SameBytes s t ∧ OtherSlots s t ∧
    here t = { (here s).next with greq := if i.toNat = 1 then (here s).greq ||| 1#64 else (here s).greq &&& ~~~1#64 }) ∧
  (∀ (s : State) (i : BitVec 13), i.toNat ≤ 255 → ∃ t, exec (.ophint i) s = .next t ∧ SameBytes s t ∧ OtherSlots s t ∧
    (here t).phase = i.setWidth 8 ∧ (here t).pc = (here s).pc + 4#64 ∧ (here t).sreg = (here s).sreg)

/-! ## Engines from the slot's side -/

/-- R154, R242, R303: `enq.m` and `enq.c` of a well-formed command of their queue, with room in the queue and the slot's older
accesses performed, append it with COLOUR from COLR, the slot, its generation and TFMT.FC, owe its token register, and go on.
The instructions that it says so of are enqM and enqC.
It rests on the model's own choices and readings too, notes/assumptions/38.md, notes/assumptions/39.md and
notes/assumptions/81.md. -/
def Obligations.EngineQueues : Prop :=
  ∀ (s : State) (a : BitVec 6) (m : Bool) (q : Nat),
    q < 2 → a.toNat % 4 = 0 → (∀ k < 4, Readable (here s) (a + BitVec.ofNat 6 k)) →
    let w := wordFrom (here s) a.toNat
    Cmd.queueOf w = some q → Cmd.word0Ok w = true → TokenFree s w →
    (q = 0 → (here s).aown.getLsbD (Cmd.acc w) = true) →
    released s s.cur s.nextId (if q = 0 then 2 else 2 + Cmd.scope w) = true →
    (q = 0 → (s.core (coreOf s.cur)).mq.length < 16) → (q = 1 → (s.core (coreOf s.cur)).cq.length < 16) →
    ∃ t e, exec (if q = 0 then .enqM a m else .enqC a m) s = .next t ∧ SameBytes s t ∧
      (q = 0 → (t.core (coreOf s.cur)).mq = (s.core (coreOf s.cur)).mq ++ [e]) ∧
      (q = 1 → (t.core (coreOf s.cur)).cq = (s.core (coreOf s.cur)).cq ++ [e]) ∧
      e.word = { w with w0 := setBits w.w0 21 16 (bits (here s).colr 5 0) } ∧ e.sid = s.cur ∧ e.gen = (here s).gen ∧
      e.fc = bits (here s).tfmt 14 10 ∧ e.forked = false ∧ (here t).pc = (here s).pc + 4#64 ∧
      (Cmd.noTok w = false → Cmd.treg w ≠ 0 →
        (t.slot (tokenSlot s w)).sP (Cmd.treg w) = true ∧ (t.slot (tokenSlot s w)).sF (Cmd.treg w) = false)

/-- R304, R306, R307: `fork`, by a slot without a fork outstanding, on sequencers that are free, starts each program whose
register is not s0 at its first word, with status 15 in the record, and sets the loop indexes of both command sequencers to 0;
`rdv` writes the record of a fork whose programs have ended and forgets it, writes 0 without one, and waits while one runs. -/
def Obligations.ForkAndRendezvous : Prop :=
  (∀ (s : State) (d a b : BitVec 6) (m n : Bool), Readable (here s) d → Readable (here s) a → Readable (here s) b →
    (here s).fork = none → released s s.cur s.nextId 4 = true →
    (d ≠ 0#6 → ((here s).sval d.toNat).toNat % 32 = 0 ∧ (s.core (coreOf s.cur)).seqM = none) →
    (a ≠ 0#6 → ((here s).sval a.toNat).toNat % 32 = 0 ∧ (s.core (coreOf s.cur)).seqC = none) →
    (b ≠ 0#6 → ((here s).sval b.toNat).toNat % 4 = 0 ∧ (s.core (coreOf s.cur)).seqV = none) →
    ∃ t f, exec (.fork d a b m n) s = .next t ∧ SameBytes s t ∧ (here t).pc = (here s).pc + 4#64 ∧ (here t).fork = some f ∧
      f.mst = (if d = 0#6 then 0 else 15) ∧ f.cst = (if a = 0#6 then 0 else 15) ∧ f.vst = (if b = 0#6 then 0 else 15) ∧
      f.cause = 0 ∧ f.sigs = [0, 0, 0, 0] ∧
      (d ≠ 0#6 → Begun (t.core (coreOf s.cur)).seqM s ((here s).sval d.toNat)) ∧
      (a ≠ 0#6 → Begun (t.core (coreOf s.cur)).seqC s ((here s).sval a.toNat)) ∧
      (t.core (coreOf s.cur)).indexM = [0, 0, 0, 0] ∧ (t.core (coreOf s.cur)).indexC = [0, 0, 0, 0] ∧
      (b ≠ 0#6 → ∃ q, (t.core (coreOf s.cur)).seqV = some q ∧ q.base = (here s).sval b.toNat ∧ q.next = 0 ∧ q.sid = s.cur)) ∧
  (∀ (s : State) (d : BitVec 6), Writable (here s) d →
    ((here s).fork = none → ∃ t, exec (.rdv d) s = .next t ∧ OnlyIssuer s t ∧ here t = ((here s).putS d.toNat 0#64).next) ∧
    (∀ f, (here s).fork = some f → f.mst ≠ 15 → f.cst ≠ 15 → f.vst ≠ 15 →
      ∃ t, exec (.rdv d) s = .next t ∧ OnlyIssuer s t ∧
        here t = { (here s).putS d.toNat (rdvOf f) with pc := (here s).pc + 4#64, fork := none }) ∧
    (∀ f, (here s).fork = some f → f.mst = 15 ∨ f.cst = 15 ∨ f.vst = 15 →
      ∃ t, exec (.rdv d) s = .next t ∧ OnlyIssuer s t ∧ here t = here s))

/-- R54, R74, R308: with the accumulator claimed and free, `accrd` writes the 128 F32 values of rows 4k to 4k + 3 into its vector
register, and `accwr` replaces those rows by the register's values, -0 as +0 and a NaN as the canonical one, and no other element.
Without the claim both trap ACCESS with DETAIL 1 and the accumulator's number.
It rests on the model's own choices and readings too, notes/assumptions/41.md. -/
def Obligations.AccumulatorRows : Prop :=
  (∀ (s : State) (d : BitVec 5) (c k : BitVec 3), d.toNat < (here s).nv → (here s).vP d.toNat = false →
    vecReader s s.cur [d.toNat] = false → AccFree s c → (accAt s c).err.getLsbD k.toNat = false →
    ∃ t, exec (.accrd d c k) s = .next t ∧ OnlyIssuer s t ∧ (here t).pc = (here s).pc + 4#64 ∧ (here t).vF d.toNat = true ∧
      (here t).vval d.toNat = (accAt s c).data.extractLsb' (4096 * k.toNat) 4096) ∧
  (∀ (s : State) (d : BitVec 5) (c k : BitVec 3), d.toNat < (here s).nv → (here s).vF d.toNat = true →
    (here s).verr.getLsbD d.toNat = false → AccFree s c →
    ∃ t, exec (.accwr d c k) s = .next t ∧ SameBytes s t ∧ here t = (here s).next ∧ OtherSlots s t ∧
      (accAt { t with cur := s.cur } c).err.getLsbD k.toNat = false ∧
      (∀ i < 128, ((accAt { t with cur := s.cur } c).data.extractLsb' (32 * (128 * k.toNat + i)) 32).toNat =
        accCanon (((here s).vval d.toNat).extractLsb' (32 * i) 32).toNat) ∧
      (∀ i < 1024, i / 128 ≠ k.toNat →
        (accAt { t with cur := s.cur } c).data.extractLsb' (32 * i) 32 = (accAt s c).data.extractLsb' (32 * i) 32)) ∧
  (∀ (s : State) (d : BitVec 5) (c k : BitVec 3), d.toNat < (here s).nv → (here s).aown.getLsbD c.toNat = false →
    vecOpen s s.cur = false →
    (∃ t, exec (.accrd d c k) s = .next t ∧ TakesTrap s t 9 1 (c.setWidth 64)) ∧
    (∃ t, exec (.accwr d c k) s = .next t ∧ TakesTrap s t 9 1 (c.setWidth 64)))

/-! ## Barriers -/

/-- R301, R302: `bar.init` sets a barrier without arrivals to M members and phase 0, in the unit and in every cell of the
partition, and lets the slots go on whose wait at it the phase 0 ends; `bar.arr` at the open phase sends an arrival; `bar.wait`
goes on where its phase has passed and parks otherwise, and `bar.wait.drop` hides the gear request meanwhile.
R202, R203, R302: an arrival that may be stamped is counted for the open phase with the stamp of the next tick, and the last of
the M arrivals sets the release 40 ns after the greatest stamp; at that time the phase number goes up by one, modulo 65,536, in
the unit and in every cell of the partition, and the count starts from the arrivals that came after. -/
def Obligations.Barriers : Prop :=
  ((∀ (s : State) (a b : BitVec 6) (m n : Bool), Readable (here s) a → Readable (here s) b →
    let w := (here s).sval a.toNat
    BarWord w → phaseOf w = 0 → ((here s).sval b.toNat).toNat < 65536 → (s.barrier (part s) (barOf w)).count = 0 →
    (s.barrier (part s) (barOf w)).release = none →
    ∃ t, exec (.barInit a b m n) s = .next t ∧ SameBytes s t ∧
      (∀ j, j ≠ s.cur → t.slot j = s.slot j ∨ ∃ v, (s.slot j).park = some (.barrier v) ∧ barOf v = barOf w ∧
        t.slot j = { s.slot j with park := none, greq := (s.slot j).greq &&& ~~~2#64 }) ∧
      here t = (((here s).take a.toNat m).take b.toNat n).next ∧
      (t.barrier (part s) (barOf w)).m = ((here s).sval b.toNat).toNat ∧ (t.barrier (part s) (barOf w)).phase = 0 ∧
      (t.barrier (part s) (barOf w)).count = 0 ∧
      ∀ c ∈ s.partCells (part s), FMap.get 0 (t.cell c).bars (barOf w) = 0) ∧
  (∀ (s : State) (a : BitVec 6) (m : Bool), Readable (here s) a →
    let w := (here s).sval a.toNat
    BarWord w → (s.barrier (part s) (barOf w)).m ≠ 0 → phaseOf w = FMap.get 0 (s.cell (home s)).bars (barOf w) →
    ∃ t x, exec (.barArr a m) s = .next t ∧ SameBytes s t ∧ OtherSlots s t ∧ here t = ((here s).take a.toNat m).next ∧
      t.arrivals = s.arrivals ++ [x] ∧ x.part = part s ∧ x.bar = barOf w) ∧
  (∀ (s : State) (a : BitVec 6) (m : Bool), Readable (here s) a →
    let w := (here s).sval a.toNat
    BarWord w → (s.barrier (part s) (barOf w)).m ≠ 0 →
    (Passed s (home s) w →
      (∃ t, exec (.barWait a m) s = .next t ∧ SameBytes s t ∧ OtherSlots s t ∧ here t = ((here s).take a.toNat m).next) ∧
      (∃ t, exec (.barWaitDrop a m) s = .next t ∧ SameBytes s t ∧ OtherSlots s t ∧
        here t = ((here s).take a.toNat m).next)) ∧
    (¬Passed s (home s) w →
      (∃ t, exec (.barWait a m) s = .next t ∧ SameBytes s t ∧ OtherSlots s t ∧
        here t = { here s with park := some (.barrier w) }) ∧
      (∃ t, exec (.barWaitDrop a m) s = .next t ∧ SameBytes s t ∧ OtherSlots s t ∧
        here t = { here s with park := some (.barrier w), greq := (here s).greq ||| 2#64 })))) ∧
  ((∀ (s : State) (p b : Nat) (x : Arrival), s.arrivals.find? (fun a => a.part = p && a.bar = b && arrivalReady s a) = some x →
    (s.barrier p b).m ≠ 0 → (s.barrier p b).release = none →
    let now := (s.gts.toNat + 9) / 10 * 10
    let last := if (s.barrier p b).count = 0 then now else max (s.barrier p b).stamp now
    ∃ t, exec (.barrierArrival p b) s = .next t ∧ SameBytes s t ∧ t.slots = s.slots ∧ t.arrivals = s.arrivals.erase x ∧
      ((s.barrier p b).count + 1 < (s.barrier p b).m → (t.barrier p b).release = none ∧
        (t.barrier p b).count = (s.barrier p b).count + 1 ∧ (t.barrier p b).stamp = last) ∧
      ((s.barrier p b).m ≤ (s.barrier p b).count + 1 → (t.barrier p b).release = some (last + 40))) ∧
  (∀ (s : State) (p b r : Nat), (s.barrier p b).release = some r → r ≤ s.gts.toNat →
    ∃ t, exec (.barrierRelease p b) s = .next t ∧ SameBytes s t ∧
      (t.barrier p b).phase = ((s.barrier p b).phase + 1) % 65536 ∧ (t.barrier p b).count = (s.barrier p b).next ∧
      ∀ c ∈ s.partCells p, FMap.get 0 (t.cell c).bars b = ((s.barrier p b).phase + 1) % 65536))

/-! ## The tile directory -/

/-- R169-R171, R309-R312: `tdq` reads the entry of the frame that its address reaches; `tdset` sets its format; `tdzero` makes k
frames of zero class, full, every byte 0; `pub` flips a pair of runs, making the entry where there is none, at once, before it
waits for the slot's older accesses, or removes its entry; one that clashes with an entry, or finds none free, traps ACCESS with
DETAIL 0 and the pair word. -/
def Obligations.TileDirectory : Prop :=
  (∀ (s : State) (d a : BitVec 6) (m : Bool), Writable (here s) d → Readable (here s) a → OwnAddr ((here s).sval a.toNat) →
    let e := Loc.entry (s.cell (home s)) (frameAt s ((here s).sval a.toNat))
    e.err = false →
    ∃ t, exec (.tdq d a m) s = .next t ∧ OnlyIssuer s t ∧
      here t = (((here s).take a.toNat m).putS d.toNat (Loc.entryWord e)).next) ∧
  (∀ (s : State) (a b : BitVec 6) (m n : Bool), Readable (here s) a → Readable (here s) b → OwnAddr ((here s).sval a.toNat) →
    let c := (here s).sval b.toNat
    let f := frameAt s ((here s).sval a.toNat)
    c.toNat < 31 → (elemOf c.toNat).isSome = true → Quiet s (bits ((here s).sval a.toNat) 47 0 / 1024) 1 →
    localErr s (home s) (bits ((here s).sval a.toNat) 47 0 / 1024 * 1024) 1024 = false →
    ∃ t, exec (.tdset a b m n) s = .next t ∧ OtherSlots s t ∧ here t = (((here s).take a.toNat m).take b.toNat n).next ∧
      (Loc.entry (t.cell (home s)) f).fmt = c.toNat ∧
      (∀ g, g ≠ f → Loc.entry (t.cell (home s)) g = Loc.entry (s.cell (home s)) g) ∧
      (∀ o, o / 1024 ≠ f → Memory.read (t.cell (home s)).mem o = Memory.read (s.cell (home s)).mem o)) ∧
  (∀ (s : State) (a b : BitVec 6) (m n : Bool), Readable (here s) a → Readable (here s) b → OwnAddr ((here s).sval a.toNat) →
    let o := bits ((here s).sval a.toNat) 47 0
    let k := ((here s).sval b.toNat).toNat
    o % 1024 = 0 → k < 4096 → o / 1024 + k ≤ 2048 → Quiet s (o / 1024) k →
    ∃ t, exec (.tdzero a b m n) s = .next t ∧ OtherSlots s t ∧ here t = (((here s).take a.toNat m).take b.toNat n).next ∧
      ∀ i < k, let f := Loc.mapFrame (s.cell (home s)) (o / 1024 + i)
        (Loc.entry (t.cell (home s)) f).cls = .zero ∧ (Loc.entry (t.cell (home s)) f).fmt = (Loc.entry (s.cell (home s)) f).fmt ∧
        ∀ j < 1024, Memory.read (t.cell (home s)).mem (1024 * f + j) = 0#8) ∧
  (∀ (s : State) (a : BitVec 6) (sc : BitVec 3) (m : Bool), Readable (here s) a →
    let w := (here s).sval a.toNat
    let f := bits w 20 10
    let k := bits w 31 21 + 1
    bits w 9 0 = 0 → bits w 62 32 = 0 → f + 2 * k ≤ 2048 →
    (w.getLsbD 63 = true → ∃ t, exec (.pub a sc m) s = .next t ∧ SameBytes s t ∧ OtherSlots s t ∧
      here t = ((here s).take a.toNat m).next ∧
      (t.cell (home s)).pairs = (s.cell (home s)).pairs.filter (fun e => e.first ≠ f)) ∧
    (w.getLsbD 63 = false →
      let es := (s.cell (home s)).pairs
      let own := es.find? (fun e => decide (e.first = f))
      let clash := (∃ e, own = some e ∧ e.n ≠ k) ∨ (∃ e ∈ es, e.first ≠ f ∧ e.first < f + 2 * k ∧ f < e.first + 2 * e.n) ∨
        (own = none ∧ 8 ≤ es.length)
      (clash → vecOpen s s.cur = false → ∃ t, exec (.pub a sc m) s = .next t ∧ TakesTrap s t 9 0 w) ∧
      (¬clash → (sc ≠ 0#3 → released s s.cur s.nextId sc.toNat = true) → Quiet s f (2 * k) →
        ∃ t, exec (.pub a sc m) s = .next t ∧ SameBytes s t ∧ OtherSlots s t ∧ here t = ((here s).take a.toNat m).next ∧
          (own = none → (t.cell (home s)).pairs = es ++ [{ first := f, n := k, flip := true }]) ∧
          (own ≠ none →
            (t.cell (home s)).pairs = es.map (fun e => if e.first = f then { e with flip := !e.flip } else e))) ∧
      (¬clash → ¬((sc ≠ 0#3 → released s s.cur s.nextId sc.toNat = true) ∧ Quiet s f (2 * k)) →
        ∃ t, exec (.pub a sc m) s = .next t ∧ SameBytes s t ∧ OtherSlots s t ∧ here t = here s ∧
          (own = none → (t.cell (home s)).pairs = es ++ [{ first := f, n := k, flip := false }]) ∧
          (own ≠ none → (t.cell (home s)).pairs = es))))

/-! ## The vector unit -/

/-- R15, R324, R326: a vector or predicate instruction whose checks pass enters its core's queue with its scalar operands, VFMT
and RMODE, owes its destinations and goes on at PC + 4, a store with UNACK raised; while the slot captures, it joins the loop body
instead (R346). No register's value and no byte of memory changes yet. The instructions are vadd, vsub, vmul, vfma, vfms, vdiv,
vsqrt, vrcp, vrsqrt, vsum, vdot, vcvt, vcvtSat, vwiden, vnarrow, vnarrowSat, vqnt, vscale, vmin, vmax, vabs, vneg, vmaxr, vminr,
vexp2, vlog2, vexp, vlog, vtanh, vsigm, vcmp, vsel, vand, vor, vxor, vnot, vshl, vshr, vsar, vperm, vbcast, vext, vins, pand, por,
pxor, pnot, pcnt, pfirst, vld, vst, vlds, vgath, vscat.
It rests on the model's own choices and readings too, notes/assumptions/59.md. -/
def Obligations.VectorIssue : Prop :=
  (∀ (s : State) (i : Instr) (el : Elem) (sc : Bool) (m : Rnd), isVector i = true → (here s).cap = none →
    replayOpen s s.cur = false → programOpen s s.cur = false → MayEnter s s.cur i el sc m →
    ∃ t e, exec i s = .next t ∧ (t.core (coreOf s.cur)).vq = (s.core (coreOf s.cur)).vq ++ [e] ∧
      EntryOf e (here s) s.cur i (here s).pc (vForm i el sc) ∧ e.forked = false ∧ e.replayed = false ∧ SameBytes s t ∧
      OtherSlots s t ∧ (here t).pc = (here s).pc + 4#64 ∧
      (here t).unack = (if isVecStore i then (here s).unack + 1#64 else (here s).unack) ∧
      (here t).sreg = (here s).sreg ∧ (here t).vreg = (here s).vreg ∧ (here t).preg = (here s).preg ∧
      (here t).fflags = (here s).fflags ∧
      (∀ r ∈ groupRegs (vForm i el sc).vd, r < 32 → (here t).vF r = false ∧ (here t).vP r = true) ∧
      (∀ r < 32, r ∉ groupRegs (vForm i el sc).vd → (here t).vF r = (here s).vF r ∧ (here t).vP r = (here s).vP r)) ∧
  (∀ (s : State) (i : Instr) (el : Elem) (sc : Bool) (m : Rnd) (l : Loop), isVector i = true → (here s).cap = some l →
    Formed (here s) i el sc m →
    ∃ t, exec i s = .next t ∧ OnlyIssuer s t ∧
      here t = { (here s).next with cap := some { l with body := l.body ++ [{
        instr := i, pc := (here s).pc, x := scalar1 (here s) (vForm i el sc), y := scalar2 (here s) (vForm i el sc)
        vfmt := (here s).vfmt, rmode := (here s).rmode }] } })

/-- R323, R331: the lane-wise bit instructions and the integer shifts write, in every active lane, the bits of their sources
combined or shifted, and leave the other lanes as they were; no flag is raised.
R51, R323, R327: `vadd`, `vsub`, `vmul`, `vfma`, `vfms`, `vmin`, `vmax`, `vabs` and `vneg` in an integer format compute modulo 2^w
in every active lane, and leave the other lanes as they were; no flag is raised.
R48, R323, R327: in a floating format `vadd`, `vsub`, `vmul`, `vfma`, `vfms`, `vdiv`, `vsqrt`, `vrcp` and `vrsqrt` write, in every
active lane, the exact result of the lanes' values rounded once to the format under the mode, leave the other lanes as they were,
and raise the flags of those roundings and no others. -/
def Obligations.VectorLanes : Prop :=
  (∀ (s : State) (cell t : Nat) (e : VEntry) (el : Elem) (sc : Bool) (m : Rnd) (d a b : BitVec 5) (p : BitVec 3)
    (f : Nat → Nat → Nat), Starts s cell t e el sc m → bitOp el.width e.item.instr = some (d, a, b, p, f) →
    let x := s.slot e.sid
    ∃ u v, exec (.vectorStart cell t) s = .next u ∧ RunsWith s u (4 * cell + t / 2 % 4) e d v 0#5 ∧ u.slots = s.slots ∧
      SameBytes s u ∧ ∀ i < Vec.laneCount el.width, v.toNat / 2 ^ (el.width * i) % 2 ^ el.width =
        if Vec.active el.width (x.pval p.toNat).toNat i then f (laneOf x a el.width i) (laneOf x b el.width i)
        else laneOf x d el.width i) ∧
  (∀ (s : State) (cell t : Nat) (e : VEntry) (g : Bool) (w : Nat) (sc : Bool) (m : Rnd) (d a b : BitVec 5) (p : BitVec 3)
    (f : Int → Int → Int → Int), Starts s cell t e (.int g w) sc m → intOp e.item.instr = some (d, a, b, p, f) →
    let x := s.slot e.sid
    let int (r : BitVec 5) (i : Nat) : Int := if g then signedN w (laneOf x r w i) else laneOf x r w i
    ∃ u v, exec (.vectorStart cell t) s = .next u ∧ RunsWith s u (4 * cell + t / 2 % 4) e d v 0#5 ∧ u.slots = s.slots ∧
      SameBytes s u ∧ ∀ i < Vec.laneCount w, v.toNat / 2 ^ (w * i) % 2 ^ w =
        if Vec.active w (x.pval p.toNat).toNat i then (f (int a i) (int b i) (int d i) % (2 ^ w : Nat)).toNat
        else laneOf x d w i) ∧
  (∀ (s : State) (cell t : Nat) (e : VEntry) (f : FloatFmt) (sc : Bool) (m : Rnd) (d a b : BitVec 5) (p : BitVec 3)
    (g : Fp → Fp → Fp → Ex), Starts s cell t e (.float f) sc m → floatOp m e.item.instr = some (d, a, b, p, g) →
    let x := s.slot e.sid
    let w := (Elem.float f).width
    let z (i : Nat) := (g (decodeFloat f (laneOf x a w i)) (decodeFloat f (laneOf x b w i)) (decodeFloat f (laneOf x d w i))).round
      f m false
    ∃ u v fl, exec (.vectorStart cell t) s = .next u ∧ RunsWith s u (4 * cell + t / 2 % 4) e d v fl ∧ u.slots = s.slots ∧
      SameBytes s u ∧ (∀ i < Vec.laneCount w, v.toNat / 2 ^ (w * i) % 2 ^ w =
        if Vec.active w (x.pval p.toNat).toNat i then (z i).1 % 2 ^ w else laneOf x d w i) ∧
      ∀ k < 5, fl.getLsbD k = true ↔ ∃ i < Vec.laneCount w, Vec.active w (x.pval p.toNat).toNat i = true ∧ (z i).2.getLsbD k = true)

/-- R323, R330, R338, R339: `vsel` takes each lane from the source that its predicate bit picks, `vbcast` writes the scalar's low
bits into every active lane, `vperm` the lane that its index names, or 0, `vext` gives the lane that its scalar names, or 0, and
`vins` replaces that lane and no other. No flag is raised.
R67, R329, R340: the predicate instructions give the bits of their sources combined, their number or the lowest of them; `vcmp` in
an integer format gives one bit per lane, the truth of the comparison in an active lane and 0 in any other and above the lanes. No
flag is raised. -/
def Obligations.VectorMoves : Prop :=
  (∀ (s : State) (cell t : Nat) (e : VEntry) (el : Elem) (sc : Bool) (m : Rnd), Starts s cell t e el sc m →
    let x := s.slot e.sid
    let w := el.width
    let core := 4 * cell + t / 2 % 4
    let lanesOf (v : VReg) (i : Nat) : Nat := v.toNat / 2 ^ (w * i) % 2 ^ w
    (∀ d a b p f, e.item.instr = .vsel d a b p f →
      ∃ u v, exec (.vectorStart cell t) s = .next u ∧ RunsWith s u core e d v 0#5 ∧ u.slots = s.slots ∧ SameBytes s u ∧
        ∀ i < Vec.laneCount w, lanesOf v i = laneOf x (if Vec.active w (x.pval p.toNat).toNat i then a else b) w i) ∧
    (∀ d a p f, e.item.instr = .vbcast d a p f →
      ∃ u v, exec (.vectorStart cell t) s = .next u ∧ RunsWith s u core e d v 0#5 ∧ u.slots = s.slots ∧ SameBytes s u ∧
        ∀ i < Vec.laneCount w, lanesOf v i =
          if Vec.active w (x.pval p.toNat).toNat i then e.item.x.toNat % 2 ^ w else laneOf x d w i) ∧
    (∀ d a b p f, e.item.instr = .vperm d a b p f →
      ∃ u v, exec (.vectorStart cell t) s = .next u ∧ RunsWith s u core e d v 0#5 ∧ u.slots = s.slots ∧ SameBytes s u ∧
        ∀ i < Vec.laneCount w, lanesOf v i =
          let k := (x.vval (b.toNat + i / 256)).toNat / 2 ^ (16 * (i % 256)) % 2 ^ 16
          if Vec.active w (x.pval p.toNat).toNat i then (if k < Vec.laneCount w then laneOf x a w k else 0) else laneOf x d w i) ∧
    (∀ d a b f, e.item.instr = .vext d a b f →
      ∃ u, exec (.vectorStart cell t) s = .next u ∧ u.slots = s.slots ∧ SameBytes s u ∧ RunsFor s u core e [] []
        [(d.toNat, wrap64 (if e.item.x.toNat < Vec.laneCount w then laneOf x a w e.item.x.toNat else 0))] 0#5) ∧
    (∀ d a b f, e.item.instr = .vins d a b f →
      ∃ u v, exec (.vectorStart cell t) s = .next u ∧ RunsWith s u core e d v 0#5 ∧ u.slots = s.slots ∧ SameBytes s u ∧
        ∀ i < Vec.laneCount w, lanesOf v i = if i = e.item.y.toNat then e.item.x.toNat % 2 ^ w else laneOf x d w i)) ∧
  ((∀ (s : State) (cell t : Nat) (e : VEntry) (el : Elem) (sc : Bool) (m : Rnd) (pw : List (Nat × PReg)) (sw : List (Nat × Word)),
    Starts s cell t e el sc m → predOp (s.slot e.sid) e.item.instr = some (pw, sw) →
    ∃ u, exec (.vectorStart cell t) s = .next u ∧ RunsFor s u (4 * cell + t / 2 % 4) e [] pw sw 0#5 ∧ u.slots = s.slots ∧
      SameBytes s u) ∧
  (∀ (s : State) (cell t : Nat) (e : VEntry) (g : Bool) (w : Nat) (sc : Bool) (m : Rnd) (d : BitVec 3) (a b : BitVec 5) (p : BitVec 3)
    (f : BitVec 2) (c : BitVec 3), Starts s cell t e (.int g w) sc m → e.item.instr = .vcmp d a b p f c →
    let x := s.slot e.sid
    let int (r : BitVec 5) (i : Nat) : Int := if g then signedN w (laneOf x r w i) else laneOf x r w i
    ∃ u v, exec (.vectorStart cell t) s = .next u ∧ RunsFor s u (4 * cell + t / 2 % 4) e [] [(d.toNat, v)] [] 0#5 ∧
      u.slots = s.slots ∧ SameBytes s u ∧ ∀ i < 1024, v.getLsbD i =
        (decide (i < Vec.laneCount w) && Vec.active w (x.pval p.toNat).toNat i && intTruth c.toNat (int a i) (int b i))))

/-- R52, R323, R327, R329, R335: in a floating format `vmin` and `vmax` give an operand's bits, the number beside a NaN, −0 below
+0, `vabs` and `vneg` clear and invert the sign, and `vscale` gives the lane times the power of two of its block's scale, rounded
once, or a NaN; of NaNs they give the canonical one, inactive lanes stay, and NV is raised for a signalling NaN, `vscale` raising
the flags of its rounding too; `vcmp` gives one bit per lane, the truth of the comparison in an active lane and 0 elsewhere, with
NV for a signalling NaN, and for any NaN where it is an ordered one.
R46, R51, R332-R334: `vcvt` and `vcvt.sat` convert each active lane's value, its block's scale included, into the destination
format under the mode, with the conversion's flags, and leave the others; `vwiden` puts element i into register i mod r of its
group at lane i / r, and `vnarrow`, `vnarrow.sat` and `vqnt` take it from there; `vqnt` encodes each block of 32 elements at the
scale that R46 chooses, which it writes into the strip, the scale bytes of a 6-bit register's unused lanes 0x7F. Bits above the
lanes are zero.
R53, R55, R336, R337: in an integer format `vsum` writes the sum of the active lanes modulo 2^64, `vmaxr` and `vminr` the greatest
and the smallest, the format's bound without one; in a floating format they combine the active lanes by the tree of R55, `vsum`
rounding at each node to F32, and write the F32 bits, +0, −∞ or +∞ without an active lane, with the flags of the nodes and NV for
a signalling NaN; `vdot` adds the blocks of products, each summed exactly, to the F32 value of its destination. All other bytes
are zero.
R59, R60, R328: a special function gives each active lane its value at the lane, and raises the flags of those results; on F32 it
has the results and flags of the table of R60 at a NaN, ±∞, ±0 and, the logarithms, below −0; `vexp2` of an integer from −149 to
127 and `vlog2` of a power of two are exact and raise nothing. -/
def Obligations.VectorResults : Prop :=
  ((∀ (s : State) (cell t : Nat) (e : VEntry) (f : FloatFmt) (sc : Bool) (m : Rnd) (d a b : BitVec 5) (p : BitVec 3)
    (g : Nat → Nat → Nat → Nat × FlagBits), Starts s cell t e (.float f) sc m →
    floatBits f m e.item.instr = some (d, a, b, p, g) →
    let x := s.slot e.sid
    let w := (Elem.float f).width
    let z (i : Nat) := g (laneOf x a w i) (laneOf x b w i) ((x.vval b.toNat).toNat / 2 ^ (8 * (i / 32)) % 2 ^ 8)
    ∃ u v fl, exec (.vectorStart cell t) s = .next u ∧ RunsWith s u (4 * cell + t / 2 % 4) e d v fl ∧ u.slots = s.slots ∧
      SameBytes s u ∧ (∀ i < Vec.laneCount w, v.toNat / 2 ^ (w * i) % 2 ^ w =
        if Vec.active w (x.pval p.toNat).toNat i then (z i).1 % 2 ^ w else laneOf x d w i) ∧
      FlagsOf fl (Vec.laneCount w) (Vec.active w (x.pval p.toNat).toNat) (fun i => (z i).2)) ∧
  (∀ (s : State) (cell t : Nat) (e : VEntry) (f : FloatFmt) (sc : Bool) (m : Rnd) (d : BitVec 3) (a b : BitVec 5) (p : BitVec 3)
    (g : BitVec 2) (c : BitVec 3), Starts s cell t e (.float f) sc m → e.item.instr = .vcmp d a b p g c →
    let x := s.slot e.sid
    let w := (Elem.float f).width
    let val (r : BitVec 5) (i : Nat) : Fp := decodeFloat f (laneOf x r w i)
    ∃ u v fl, exec (.vectorStart cell t) s = .next u ∧ RunsFor s u (4 * cell + t / 2 % 4) e [] [(d.toNat, v)] [] fl ∧
      u.slots = s.slots ∧ SameBytes s u ∧
      (∀ i < 1024, v.getLsbD i = (decide (i < Vec.laneCount w) && Vec.active w (x.pval p.toNat).toNat i &&
        floatTruth c.toNat (val a i) (val b i))) ∧
      FlagsOf fl (Vec.laneCount w) (Vec.active w (x.pval p.toNat).toNat)
        (fun i => nvIf (compareRaises c.toNat (val a i) (val b i))))) ∧
  (∀ (s : State) (cell t : Nat) (e : VEntry) (el dst : Elem) (sc : Bool) (m : Rnd), Starts s cell t e el sc m →
    let x := s.slot e.sid
    let w := dst.width
    let core := 4 * cell + t / 2 % 4
    let lanesOf (v : VReg) (i : Nat) : Nat := v.toNat / 2 ^ (w * i) % 2 ^ w
    let conv (sat : Bool) (y : Fp) : Nat × FlagBits := convertElem el dst m sat y
    (∀ q d a c p f sat, e.item.instr = (if sat = true then .vcvtSat q d a c p f else .vcvt q d a c p f) →
      elemOf (dstCode f c) = some dst →
      let n := min (Vec.convLanes el.width) (Vec.convLanes w)
      let act := Vec.active w (x.pval p.toNat).toNat
      ∃ u v fl, exec (.vectorStart cell t) s = .next u ∧ RunsWith s u core e d v fl ∧ u.slots = s.slots ∧ SameBytes s u ∧
        (∀ i < n, lanesOf v i = if act i then (conv sat (valueAt x el sc a.toNat i)).1 % 2 ^ w else laneOf x d w i) ∧
        v.toNat / 2 ^ (w * n) = 0 ∧ FlagsOf fl n act (fun i => (conv sat (valueAt x el sc a.toNat i)).2)) ∧
    (∀ q d a c f, e.item.instr = .vwiden q d a c f → elemOf (dstCode f c) = some dst →
      let r := Vec.convWidth w / Vec.convWidth el.width
      let n := Vec.convLanes el.width
      ∃ u fl, ∃ vs : Nat → VReg, exec (.vectorStart cell t) s = .next u ∧ u.slots = s.slots ∧ SameBytes s u ∧
        RunsFor s u core e ((List.range r).map (fun k => (d.toNat + k, vs k))) [] [] fl ∧
        (∀ k < r, (∀ j < n / r, lanesOf (vs k) j = (conv false (valueAt x el sc a.toNat (r * j + k))).1 % 2 ^ w) ∧
          (vs k).toNat / 2 ^ (w * (n / r)) = 0) ∧
        FlagsOf fl n (fun _ => true) (fun i => (conv false (valueAt x el sc a.toNat i)).2)) ∧
    (∀ q d a c f sat, e.item.instr = (if sat = true then .vnarrowSat q d a c f else .vnarrow q d a c f) →
      elemOf (dstCode f c) = some dst →
      let r := Vec.convWidth el.width / Vec.convWidth w
      let n := Vec.convLanes w
      ∃ u v fl, exec (.vectorStart cell t) s = .next u ∧ RunsWith s u core e d v fl ∧ u.slots = s.slots ∧ SameBytes s u ∧
        (∀ i < n, lanesOf v i = (conv sat (spreadAt x el a.toNat r i)).1 % 2 ^ w) ∧ v.toNat / 2 ^ (w * n) = 0 ∧
        FlagsOf fl n (fun _ => true) (fun i => (conv sat (spreadAt x el a.toNat r i)).2)) ∧
    (∀ q d a c f, e.item.instr = .vqnt q d a c f → elemOf (dstCode f c) = some dst →
      let r := Vec.convWidth el.width / Vec.convWidth w
      let n := Vec.convLanes w
      let scale (k : Nat) : Nat := blockScale dst ((List.range 32).map (fun j => spreadAt x el a.toNat r (32 * k + j)))
      let z (i : Nat) := encodeScaled dst m (scale (i / 32)) (spreadAt x el a.toNat r i)
      ∃ u v y fl, exec (.vectorStart cell t) s = .next u ∧ u.slots = s.slots ∧ SameBytes s u ∧
        RunsFor s u core e [(d.toNat, v), (d.toNat + 1, y)] [] [] fl ∧
        (∀ i < n / 32 * 32, lanesOf v i = (z i).1 % 2 ^ w) ∧ v.toNat / 2 ^ (w * (n / 32 * 32)) = 0 ∧
        (∀ k < 512, y.toNat / 2 ^ (8 * k) % 2 ^ 8 =
          if k < n / 32 then scale k % 2 ^ 8 else if w = 6 ∧ k < n / 32 + 5 then 0x7F else 0) ∧
        FlagsOf fl (n / 32 * 32) (fun _ => true) (fun i => (z i).2))) ∧
  (∀ (s : State) (cell t : Nat) (e : VEntry) (el : Elem) (sc : Bool) (m : Rnd), Starts s cell t e el sc m →
    let x := s.slot e.sid
    let w := el.width
    let n := Vec.laneCount w
    let core := 4 * cell + t / 2 % 4
    let gives (d : BitVec 5) (v : Nat) (fl : FlagBits) : Prop :=
      ∃ u, exec (.vectorStart cell t) s = .next u ∧ RunsWith s u core e d (BitVec.ofNat 4096 v) fl ∧ u.slots = s.slots ∧ SameBytes s u
    (∀ q d a p f g, e.item.instr = .vsum q d a p f → el = .int g w →
      let int (i : Nat) : Int := if g then signedN w (laneOf x a w i) else laneOf x a w i
      let act := (List.range n).filter (Vec.active w (x.pval p.toNat).toNat)
      gives d ((act.map int).foldl (fun y z => y + z) (0 : Int) % (2 ^ 64 : Int)).toNat 0#5) ∧
    (∀ d a p f g isMax, e.item.instr = (if isMax = true then .vmaxr d a p f else .vminr d a p f) → el = .int g w →
      let int (i : Nat) : Int := if g then signedN w (laneOf x a w i) else laneOf x a w i
      let act := (List.range n).filter (Vec.active w (x.pval p.toNat).toNat)
      let bound : Int := if isMax = true then (if g then -(2 ^ (w - 1) : Nat) else 0) else (if g then (2 ^ (w - 1) : Nat) - 1
        else (2 ^ w : Nat) - 1)
      ∃ k : Int, gives d (k % (2 ^ 64 : Nat)).toNat 0#5 ∧ (act = [] → k = bound) ∧
        (act ≠ [] → (∃ i ∈ act, k = int i) ∧ ∀ i ∈ act, if isMax = true then int i ≤ k else k ≤ int i)) ∧
    (∀ q d a p g f, e.item.instr = .vsum q d a p g → el = .float f →
      let val (i : Nat) : Fp := decodeFloat f (laneOf x a w i)
      let leaf (i : Nat) : Option Fp := if i < n ∧ Vec.active w (x.pval p.toNat).toNat i = true then some (val i) else none
      let r := tree55 (addNode m) leaf 10 0
      let sig := (List.range n).any (fun i => Vec.active w (x.pval p.toNat).toNat i && (val i).isSig)
      gives d (match r.1 with | some y => (roundF32 .rn y).1 | none => 0) (r.2 ||| nvIf sig)) ∧
    (∀ d a p g f isMax, e.item.instr = (if isMax = true then .vmaxr d a p g else .vminr d a p g) → el = .float f →
      let val (i : Nat) : Fp := decodeFloat f (laneOf x a w i)
      let leaf (i : Nat) : Option Fp := if i < n ∧ Vec.active w (x.pval p.toNat).toNat i = true then some (val i) else none
      let r := tree55 (bestNode isMax) leaf 10 0
      let sig := (List.range n).any (fun i => Vec.active w (x.pval p.toNat).toNat i && (val i).isSig)
      gives d (match r.1 with | some y => (roundF32 .rn y).1 | none => if isMax = true then 0xFF800000 else 0x7F800000) (nvIf sig)) ∧
    (∀ q d a b p f, e.item.instr = .vdot q d a b p f →
      let blk (k : Nat) : List (Fp × Fp) := (((List.range 32).map (fun j => 32 * k + j)).filter (Vec.active w (x.pval p.toNat).toNat)).map
        (fun i => (valueAt x el sc a.toNat i, valueAt x el sc b.toNat i))
      let r := dotRun m blk ((x.vval d.toNat).toNat % 2 ^ 32) (n / 32)
      gives d r.1 r.2)) ∧
  ((∀ (s : State) (cell t : Nat) (e : VEntry) (f : FloatFmt) (sc : Bool) (m : Rnd) (d a : BitVec 5) (p : BitVec 3)
    (fn : Special.Fn), Starts s cell t e (.float f) sc m → specialOf e.item.instr = some (d, a, p, fn) →
    let x := s.slot e.sid
    let w := (Elem.float f).width
    let z (i : Nat) := Special.apply fn f (decodeFloat f (laneOf x a w i))
    ∃ u v fl, exec (.vectorStart cell t) s = .next u ∧ RunsWith s u (4 * cell + t / 2 % 4) e d v fl ∧ u.slots = s.slots ∧
      SameBytes s u ∧ (∀ i < Vec.laneCount w, v.toNat / 2 ^ (w * i) % 2 ^ w =
        if Vec.active w (x.pval p.toNat).toNat i then (z i).1 % 2 ^ w else laneOf x d w i) ∧
      FlagsOf fl (Vec.laneCount w) (Vec.active w (x.pval p.toNat).toNat) (fun i => (z i).2)) ∧
  (∀ (fn : Special.Fn) (b : Nat),
    let z := Special.apply fn fF32 (decodeFloat fF32 b)
    ((decodeFloat fF32 b).isNan = true → z = (0x7FC00000, nvIf (decodeFloat fF32 b).isSig)) ∧
    (b = 0x7F800000 → z = (atPlusInf fn, 0#5)) ∧ (b = 0xFF800000 → z = atMinusInf fn) ∧
    (b = 0 → z = atZero false fn) ∧ (b = 0x80000000 → z = atZero true fn) ∧
    (fn = .log2 ∨ fn = .log → (decodeFloat fF32 b).finite = true → (decodeFloat fF32 b).neg? = true →
      (decodeFloat fF32 b).isZero = false → z = (0x7FC00000, FlagBits.nv))) ∧
  ∀ k : Int, -149 ≤ k → k ≤ 127 →
    Special.apply .exp2 fF32 (decodeFloat fF32 (intF32 k)) = (powF32 k, 0#5) ∧
    Special.apply .log2 fF32 (decodeFloat fF32 (powF32 k)) = (intF32 k, 0#5))

/-- R324, R325, R342: any other ready instruction starts likewise: it leaves the queue and runs, a memory access with its units
counted, those below the first that fails its checks and that one, where its instruction read no register in error; a run to which
nothing is owed completes with its result in the register, full, its flags joined to FFLAGS, and is gone.
It rests on the model's own choices and readings too, notes/assumptions/48.md. -/
def Obligations.VectorEvents : Prop :=
  (∀ (s : State) (cell t : Nat) (e : VEntry) (el : Elem) (sc : Bool) (m : Rnd), Starts s cell t e el sc m →
    (isVecMem e.item.instr = true → e.poison = none ∧
      (e.replayed = true ∨ unitChecks s e.sid e.item.instr (e.item.units (s.slot e.sid)) = .ok ())) →
    ∃ u r, exec (.vectorStart cell t) s = .next u ∧ r ∈ (u.core (4 * cell + t / 2 % 4)).vrun ∧ r.vid = e.vid ∧ r.sid = e.sid ∧
      (u.core (4 * cell + t / 2 % 4)).vq = (s.core (4 * cell + t / 2 % 4)).vq.filter (fun q => q.vid ≠ e.vid) ∧
      (isVecMem e.item.instr = true →
        let f := if e.replayed then none else firstFailing s e.sid e.item.instr (e.item.units (s.slot e.sid))
        r.owed = (unitsBelow (e.item.served (s.slot e.sid)) f).length + f.toList.length) ∧
      (isVecMem e.item.instr = false → r.owed = 0)) ∧
  (∀ (s : State) (cell core : Nat) (r : VRun) (d : BitVec 5) (v : VReg), s.vrunOf (4 * cell + core) r.vid = some r → r.owed = 0 →
    clockStop (s.cell cell) = none → r.vw = [(d.toNat, v)] → r.pw = [] → r.sw = [] → r.err = false → r.store = false →
    r.forked = false → (s.slot r.sid).gen = r.gen → (s.slot r.sid).isLive = true →
    ∃ u, exec (.vectorComplete cell core r.vid) s = .next u ∧ SameBytes s u ∧ (u.slot r.sid).vval d.toNat = v ∧
      (u.slot r.sid).vF d.toNat = true ∧ (u.slot r.sid).vP d.toNat = false ∧
      (u.slot r.sid).fflags = (s.slot r.sid).fflags ||| r.flags.setWidth 64 ∧
      (∀ q ∈ (u.core (4 * cell + core)).vrun, q.vid ≠ r.vid) ∧
      (∀ k, k ≠ d.toNat → (u.slot r.sid).vval k = (s.slot r.sid).vval k) ∧ ∀ j, j ≠ r.sid → u.slot j = s.slot j)

/-- R323-R341: a vector or predicate instruction in order that is no access completes: its issue, its start in its core's next
window and its completion each answer a next state. After the last its destinations hold the run's results, full and owed nothing;
every other register is as it was; the flags that it raised are joined to FFLAGS; the PC is the next one; nothing of it is left in
its core, and no byte of memory has changed. What the results are VectorLanes and VectorMoves say of its entry. The instructions
that it says so of are vadd, vsub, vmul, vfma, vfms, vdiv, vsqrt, vrcp, vrsqrt, vsum, vdot, vcvt, vcvtSat, vwiden, vnarrow,
vnarrowSat, vqnt, vscale, vmin, vmax, vabs, vneg, vmaxr, vminr, vexp2, vlog2, vexp, vlog, vtanh, vsigm, vcmp, vsel, vand, vor,
vxor, vnot, vshl, vshr, vsar, vperm, vbcast, vext, vins, pand, por, pxor, pnot, pcnt and pfirst.
R341-R343: a vector access in order whose units are at addresses that take them is issued and starts, each with a next state: each
of its units is then on its way with its address, its bytes and its part of the register, and its run waits for as many answers.
The instructions that it says so of are vld, vst, vlds, vgath and vscat.
It rests on the model's own choices and readings too, notes/assumptions/48.md. -/
def Obligations.VectorCompletes : Prop :=
  (∀ (s : State) (i : Instr) (el : Elem) (sc : Bool) (m : Rnd) (k : Nat), isVector i = true → isVecMem i = false →
    InOrder s i el sc m → k / 2 % 4 = coreOf s.cur % 4 →
    let f := vForm i el sc
    let core := coreOf s.cur
    ∃ t u v e r, exec i s = .next t ∧ (here t).pc = (here s).pc + 4#64 ∧ Starts t (home s) k e el sc m ∧
      EntryOf e (here s) s.cur i (here s).pc f ∧ exec (.vectorStart (home s) k) t = .next u ∧ u.vrunOf core s.nextId = some r ∧
      exec (.vectorComplete (home s) (core % 4) s.nextId) u = .next v ∧
      r.vw.map (·.1) = groupRegs f.vd ∧ r.pw.map (·.1) = f.pd.toList ∧ r.sw.map (·.1) = f.sd.toList ∧
      Completed (here s) (v.slot s.cur) r ∧ (v.slot s.cur).fflags = (here s).fflags ||| r.flags.setWidth 64 ∧
      (v.slot s.cur).pc = (here s).pc + 4#64 ∧ (v.slot s.cur).unack = (here s).unack ∧ (v.core core).vq = [] ∧
      (v.core core).vrun = (s.core core).vrun ∧ SameBytes s v ∧ OtherSlots s v) ∧
  (∀ (s : State) (i : Instr) (el : Elem) (sc : Bool) (m : Rnd) (k : Nat), isVector i = true → isVecMem i = true →
    InOrder s i el sc m → k / 2 % 4 = coreOf s.cur % 4 → (isVecStore i = true → (here s).unack ≠ 0xFFFF#64) →
    let it := itemOf (here s) i (vForm i el sc)
    let data := ((here s).vval it.dataReg).toNat
    (∀ b ∈ s.flight, ∀ sid gen pc dst oldF cons counts, b.src = .slot sid gen pc dst oldF cons counts → sid ≠ s.cur) →
    (∀ w ∈ it.units (here s), Admitted s w.va (unitOp (isVecStore i) 0 w) false) →
    ∃ t u r, exec i s = .next t ∧ (here t).pc = (here s).pc + 4#64 ∧
      (here t).unack = (if isVecStore i then (here s).unack + 1#64 else (here s).unack) ∧
      exec (.vectorStart (home s) k) t = .next u ∧ u.vrunOf (coreOf s.cur) s.nextId = some r ∧ r.memory = true ∧
      r.store = isVecStore i ∧ r.owed = (it.served (here s)).length ∧ (u.core (coreOf s.cur)).vq = [] ∧ SameBytes s u ∧
      OtherSlots s u ∧
      ∀ w ∈ it.served (here s), ∃ a ∈ u.flight, a.src = .vec (coreOf s.cur) s.nextId w.i w.lo ∧ a.va = w.va ∧
        a.op = unitOp (isVecStore i) data w)

/-- R346, R347: `vloop` begins a capture with the count of its register; `vend` ends it, and starts a replay where the count and
the body are not empty and every access of every iteration lies, aligned, in the own cell's local memory; a replay appends its
next instruction, with the VFMT and RMODE of its capture, at its iteration's address and its place in the program that of the
`vend`, to the queue when that has room.
It rests on the model's own choices and readings too, notes/assumptions/59.md. -/
def Obligations.LoopBuffer : Prop :=
  (∀ (s : State) (a : BitVec 5), Readable (here s) (a.setWidth 6) → (here s).cap = none → replayOpen s s.cur = false →
    programOpen s s.cur = false →
    ∃ t, exec (.vloop a) s = .next t ∧ OnlyIssuer s t ∧
      here t = { (here s).next with cap := some { count := ((here s).sval a.toNat).toNat % 2 ^ 32, body := [] } }) ∧
  (∀ (s : State) (l : Loop), (here s).cap = some l →
    (l.count = 0 ∨ l.body = [] →
      ∃ t, exec .vend s = .next t ∧ OnlyIssuer s t ∧ here t = { (here s).next with cap := none }) ∧
    (l.count ≠ 0 → l.body ≠ [] →
      (∀ it ∈ l.body, isVecBlock it.instr = true → ∀ k < l.count, (it.addr k).toNat % 64 = 0 ∧
        bits (it.addr k) 63 48 = 0xFF00 ∧ bits (it.addr k) 47 0 + 512 ≤ 0x200000) →
      ∃ t, exec .vend s = .next t ∧ SameBytes s t ∧ OtherSlots s t ∧
        here t = { (here s).next with cap := none, replay := some ⟨l.body, l.count, s.nextId, 0, 0⟩ })) ∧
  (∀ (s : State) (sid : Nat) (r : Replay) (it : VItem) (el : Elem) (sc : Bool) (m : Rnd), (s.slot sid).replay = some r →
    clockStop (s.cell (cellOfSlot sid)) = none → r.item = some it → vecFormat it.instr it.vfmt it.rmode = some (el, sc, m) →
    (vForm it.instr el sc).owed (s.slot sid) = false → formWaits s sid (vForm it.instr el sc) = false →
    (s.core (coreOf sid)).vq.length < 8 → (isVecStore it.instr = true → (s.slot sid).unack ≠ 0xFFFF#64) →
    ∃ u e, exec (.loopBufferReplay sid) s = .next u ∧ (u.core (coreOf sid)).vq = (s.core (coreOf sid)).vq ++ [e] ∧
      e.item = it ∧ e.sid = sid ∧ e.replayed = true ∧ e.order = r.order ∧ (u.slot sid).replay = r.next ∧ SameBytes s u)

/-- R304, R305, R306: a forked vector program fetches its next word: a vector instruction whose checks pass enters the queue of
its core for its slot; a word of zeros ends the program with status 1 once its instructions are complete.
It rests on the model's own choices and readings too, notes/assumptions/61.md. -/
def Obligations.VectorPrograms : Prop :=
  ∀ (s u : State) (cell core v : Nat) (q : SeqV),
    let k := 4 * cell + core
    (s.core k).seqV = some q → clockStop (s.cell cell) = none → (s.slot q.sid).gen = q.gen → (s.slot q.sid).isLive = true →
    q.await = none → q.ending = none → (s.slot q.sid).removedAt = none → (s.slot q.sid).cap = none → replayOpen s q.sid = false →
    readVirt s (progAgent s k 2 true (.forkedVectorIssue cell core)) (q.base + BitVec.ofNat 64 (4 * q.next)) 4 = (.val v, u) →
    (v % 2 ^ 32 = 0 → programPending u k = false → ∀ f, (s.slot q.sid).fork = some f →
      ∃ t, exec (.forkedVectorIssue cell core) s = .next t ∧
      (t.core k).seqV = none ∧ (t.slot q.sid).fork = some { f with vst := 1 }) ∧
    (∀ i el sc m, vectorMajor (BitVec.ofNat 32 v) = true → decode (BitVec.ofNat 32 v) = .ok i → isVector i = true →
      coreOf q.sid = k → MayEnter u q.sid i el sc m →
      ∃ t e p, exec (.forkedVectorIssue cell core) s = .next t ∧ (t.core k).vq = (u.core k).vq ++ [e] ∧
        EntryOf e (u.slot q.sid) q.sid i (q.base + BitVec.ofNat 64 (4 * q.next)) (vForm i el sc) ∧ e.forked = true ∧
        (t.core k).seqV = some p ∧ p.next = q.next + 1)

/-! ## System control -/

/-- R111, R317: `tlbsd` at level Y leaves, on the dies of its partition, no TLB entry of the ASIDs and addresses that its
descriptor names, global ones among them, and goes on at once where no access that one of them may have translated is open; else
it stalls until those accesses are acknowledged, and leaves then no L1 line that it names.
R163-R165, R318: at level Y, `wheel.load` writes its image into the inactive set of its die, `wheel.arm` sets ARMED where the
inactive set passes the check and else clears it and sets BAD, and `wheel.swap` asks for the swap of an armed set and sets BAD
without one. -/
def Obligations.SystemTables : Prop :=
  ((∀ (s u : State) (a : BitVec 6) (v : Nat) (k : Shoot), (here s).shoot = none → s.levelY s.cur = true → Readable (here s) a →
    LowerEight ((here s).sval a.toNat) → Fetches s ((here s).sval a.toNat) 24 v u → u.cur = s.cur →
    (∀ j, u.slot j = s.slot j) → shootOf u (part s) v = some k → part u = part s →
    ∃ t, exec (.tlbsd a) s = .next t ∧ OtherSlots s t ∧
      (∀ e ∈ t.tlb, u.holdsDie k.part e.die = true → (∀ x, e.asid = some x → k.asidLo ≤ x ∧ x ≤ k.asidHi) →
        ¬(e.va < k.hi ∧ k.lo < e.va + e.size)) ∧
      (shootOpen u k = [] → here t = (here s).next) ∧
      (shootOpen u k ≠ [] → here t = { here s with shoot := some (k, shootOpen u k) })) ∧
  (∀ (s : State) (a : BitVec 6) (k : Shoot) (ids : List Nat), (here s).shoot = some (k, ids) →
    ((∃ b ∈ s.flight, b.id ∈ ids) → ∃ t, exec (.tlbsd a) s = .next t ∧ OnlyIssuer s t ∧ here t = here s) ∧
    ((∀ b ∈ s.flight, b.id ∉ ids) → ∃ t, exec (.tlbsd a) s = .next t ∧ SameBytes s t ∧ OtherSlots s t ∧
      here t = { (here s).next with shoot := none } ∧
      ∀ q ∈ t.cores, s.holdsDie k.part (dieOf (q.1 / 4)) = true → ∀ st ∈ q.2.l1, ∀ l, some l ∈ st.2.ways →
        k.hits l.asid (128 * l.va) 128 = false))) ∧
  ((∀ (s u : State) (a : BitVec 6) (v : Nat), s.levelY s.cur = true → Readable (here s) a →
    LowerEight ((here s).sval a.toNat) → Fetches s ((here s).sval a.toNat) 1032 v u → u.cur = s.cur →
    (∀ j, u.slot j = s.slot j) → (wctl u).getLsbD 1 = false →
    let set := inactiveSet u (dieOf (home s))
    ∃ t, exec (.wheelLoad a) s = .next t ∧ here t = (here s).next ∧ OtherSlots s t ∧
      (∀ i < 64, t.reg (set + 8 * i) = BitVec.ofNat 64 (v / 2 ^ (64 * i)) ∧
        t.reg (set + 0x200 + 8 * i) = BitVec.ofNat 64 (v / 2 ^ (64 * (64 + i))) &&& 0x3F#64) ∧
      t.reg (set + 0x400) = BitVec.ofNat 64 (v / 2 ^ (64 * 128)) &&& 0x3F3F#64) ∧
  (∀ (s : State), s.levelY s.cur = true →
    ∃ t, exec .wheelArm s = .next t ∧ here t = (here s).next ∧ SameBytes s t ∧ OtherSlots s t ∧
      (armOk s (dieOf (home s)) (inactiveSet s (dieOf (home s))) = true → wctl { t with cur := s.cur } = wctl s ||| 2#64) ∧
      (armOk s (dieOf (home s)) (inactiveSet s (dieOf (home s))) = false →
        wctl { t with cur := s.cur } = wctl s &&& ~~~2#64 ||| 8#64)) ∧
  (∀ (s : State), s.levelY s.cur = true →
    ∃ t, exec .wheelSwap s = .next t ∧ here t = (here s).next ∧ SameBytes s t ∧ OtherSlots s t ∧
      ((wctl s).getLsbD 1 = true → wctl { t with cur := s.cur } = wctl s ||| 4#64) ∧
      ((wctl s).getLsbD 1 = false → wctl { t with cur := s.cur } = wctl s ||| 8#64)))

/-- R220, R319: `part.query` gives 0 for partitions that are idle, and code 1 with the lowest busy one and the BUSY bits of all
otherwise; `part.quiesce` of idle partitions, none of them its own, clears COMMITTED and sets QUIESCED in each, and else answers 4
or as the query and changes nothing; `part.commit` sets COMMITTED in each valid one where the checks pass, once the accesses that
a removed translation may have served are acknowledged, and answers 4, 3 or 2 and changes no entry where its own partition is
named, one is committed and not quiesced, or a check fails.
It rests on the model's own choices and readings too, notes/assumptions/54.md and notes/assumptions/55.md. -/
def Obligations.PartitionControl : Prop :=
  (∀ (s : State) (d a : BitVec 6), PartForm s d a →
    ((∀ p, Named s a p → busyBits s p = 0) →
      ∃ t, exec (.partQuery d a) s = .next t ∧ OnlyIssuer s t ∧ Result s t d 0#64) ∧
    (∀ p, Named s a p → busyBits s p ≠ 0 → (∀ q < p, Named s a q → busyBits s q = 0) →
      ∃ t w, exec (.partQuery d a) s = .next t ∧ OnlyIssuer s t ∧ Result s t d w ∧ IsBusy s a w ∧ w.toNat / 2 ^ 24 = p)) ∧
  (∀ (s : State) (d a : BitVec 6), PartForm s d a → (∀ p, Named s a p → p ≠ part s ∧ s.holds p (home s) = false ∧ busyBits s p = 0) →
    ∃ t, exec (.partQuiesce d a) s = .next t ∧ Result s t d 0#64 ∧
      ∀ p, Named s a p → t.committed p = false ∧ t.quiesced p = true) ∧
  (∀ (s : State) (d a : BitVec 6), PartForm s d a → (here s).sval a.toNat ≠ 0#64 →
    (Named s a (part s) → ∃ t, exec (.partQuiesce d a) s = .next t ∧ OnlyIssuer s t ∧ Result s t d 4#64) ∧
    (¬Named s a (part s) → ∀ p, Named s a p → busyBits s p ≠ 0 → (∀ q < p, Named s a q → busyBits s q = 0) →
      ∃ t w, exec (.partQuiesce d a) s = .next t ∧ OnlyIssuer s t ∧ Result s t d w ∧ IsBusy s a w ∧ w.toNat / 2 ^ 24 = p)) ∧
  (∀ (s : State) (d a : BitVec 6), PartForm s d a → (here s).sval a.toNat ≠ 0#64 →
    (Named s a (part s) → ∃ t, exec (.partCommit d a) s = .next t ∧ OnlyIssuer s t ∧ Result s t d 4#64) ∧
    (¬Named s a (part s) → (∃ p, Named s a p ∧ s.committed p = true ∧ s.quiesced p = false) →
      ∃ t, exec (.partCommit d a) s = .next t ∧ OnlyIssuer s t ∧ Result s t d 3#64) ∧
    (¬Named s a (part s) → (∀ p, Named s a p → s.committed p = true → s.quiesced p = true) →
      (commitOk s (namedParts ((here s).sval a.toNat)) = false →
        ∃ t, exec (.partCommit d a) s = .next t ∧ OnlyIssuer s t ∧ Result s t d 2#64) ∧
      (commitOk s (namedParts ((here s).sval a.toNat)) = true → commitOpen s (namedParts ((here s).sval a.toNat)) = true →
        ∃ t, exec (.partCommit d a) s = .next t ∧ OnlyIssuer s t ∧ here t = here s) ∧
      (commitOk s (namedParts ((here s).sval a.toNat)) = true → commitOpen s (namedParts ((here s).sval a.toNat)) = false →
        ∃ t, exec (.partCommit d a) s = .next t ∧ (d ≠ 0#6 → (here t).sval d.toNat = 0#64) ∧
          ∀ p, Named s a p → t.committed p = s.partValid p ∧ t.quiesced p = false)))

/-! ## The matrix unit -/

/-- R350-R353: a matrix command at the head of its queue that runs leaves the queue. `accclr` clears its accumulator and the
flags; `accld` locks its accumulator and puts reads of its tile's units of 64 bytes into the copy port's queue; `accst` leaves the
accumulator as it is and puts writes there: of the 1,024 elements converted to the destination format and packed, the 64 bytes
that belong to each unit; `mma` and `mmz` lock the accumulator and read the units of their operands' tiles and scale strips at
pairings of the matrix unit's positions with the banks.
The instructions that it says so of are accclr, accld, accst, mma and mmz.
It rests on the model's own choices and readings too, notes/assumptions/24.md. -/
def Obligations.MatrixCommands : Prop :=
  (∀ (s : State) (c : Cmd) (rest : List Cmd), MatrixHead s c rest → MatrixRuns s c →
    ∃ t, exec (.accclr c.word) s = .next t ∧ (t.core (hereCore s)).mq = rest ∧ SameBytes s t ∧
      (t.cell (hereCore s / 4)).accOf (cmdAcc s c.word) = { data := 0#32768, flags := 0#5, lock := false, err := 0#8 } ∧
      TokenSent t (hereCore s) c.word 0 0#5 0) ∧
  (∀ (s : State) (c : Cmd) (rest : List Cmd) (el : Elem), MatrixHead s c rest → MatrixRuns s c →
    elemOf (bits c.word.w1 25 21) = some el →
    ∃ t j, exec (.accld c.word) s = .next t ∧ (t.core (hereCore s)).mq = rest ∧ SameBytes s t ∧
      ((t.cell (hereCore s / 4)).accOf (cmdAcc s c.word)).lock = true ∧ TileJob t (hereCore s) c false j ∧
      ∀ u < 2 * el.width, TileUnit t j (bits c.word.w1 20 0) u .read) ∧
  (∀ (s : State) (c : Cmd) (rest : List Cmd) (el : Elem) (mode : Rnd), MatrixHead s c rest → MatrixRuns s c →
    opc c.word = 0x09 → elemOf (if c.word.w0.getLsbD 9 then c.fc else bits c.word.w1 25 21) = some el →
    rndOf (bits c.word.w0 12 10) = some mode → ((s.cell (hereCore s / 4)).accOf (cmdAcc s c.word)).err = 0#8 →
    (∀ u < 2 * el.width, entryErr s (hereCore s / 4) (bits c.word.w1 20 0 + 64 * u) = false) →
    let acc := (s.cell (hereCore s / 4)).accOf (cmdAcc s c.word)
    let elem (i : Nat) : Nat × FlagBits :=
      convertTo el mode (c.word.w0.getLsbD 8) (decodeFloat fF32 (acc.data.extractLsb' (32 * i) 32).toNat)
    ∃ t j, exec (.accst c.word) s = .next t ∧ (t.core (hereCore s)).mq = rest ∧ SameBytes s t ∧
      (t.cell (hereCore s / 4)).accOf (cmdAcc s c.word) = acc ∧ TileJob t (hereCore s) c true j ∧
      FlagsOf j.flags 1024 (fun _ => true) (fun i => (elem i).2) ∧
      ∀ u < 2 * el.width, TileUnit t j (bits c.word.w1 20 0) u
        (.write (packLanes el.width ((List.range 1024).map (fun i => (elem i).1)) / 2 ^ (512 * u) % 2 ^ 512))) ∧
  (∀ (s : State) (c : Cmd) (rest : List Cmd) (i : Instr) (zero : Bool), MatrixHead s c rest → MatrixRuns s c →
    i = (if zero then .mmz c.word else .mma c.word) →
    let cell := s.cell (hereCore s / 4)
    let qa := bits c.word.w1 3 0
    let qb := bits c.word.w1 7 4
    Ring.mismatch cell qa = false → Ring.mismatch cell qb = false → (zero = true ∨ (cell.accOf (cmdAcc s c.word)).err = 0#8) →
    ∃ t r, exec i s = .next t ∧ (t.core (hereCore s)).mq = rest ∧ SameBytes s t ∧ (t.cell (hereCore s / 4)).mrun = some r ∧
      ((t.cell (hereCore s / 4)).accOf (cmdAcc s c.word)).lock = true ∧ r.accNo = cmdAcc s c.word ∧ r.cmd = c ∧
      r.popA = (if c.word.w0.getLsbD 8 then none else some qa) ∧ r.popB = (if c.word.w0.getLsbD 9 then none else some qb) ∧
      r.zero = zero ∧ r.bad = false ∧ r.gotA = [] ∧ r.gotB = [] ∧
      r.todo = operandUnits s (hereCore s / 4) qa (fmtA c.word) false ++ operandUnits s (hereCore s / 4) qb (fmtB c.word) true ∧
      ∀ u ∈ r.todo, ∃ p k, Turn.event (.localPairing (hereCore s / 4) p k) ∈ t.work ∧ (10 ≤ p ↔ u.b = true) ∧ 6 ≤ p ∧ p < 14 ∧
        realOff s (hereCore s / 4) u.off / 64 % 16 = (p + k) % 16)

/-- R83, R242, R350, R351: a matrix command with a bad field leaves its queue with token code 3 and the field's word in INFO, and
changes no accumulator and no memory. Once the last unit of a tile is served, `accld` puts its 1,024 elements, each converted to
F32, into the accumulator and unlocks it, or leaves its contents and names the error that a unit met; `accst` sends its token with
the conversion's flags. A running operation takes in a unit of an operand where a position of that operand meets the unit's bank,
and computes its product over the old accumulator, or over zero, with the last; its update puts the results into the accumulator,
unlocks it, pops the rings that it is to pop, and sends the token with the flags raised.
It rests on the model's own choices and readings too, notes/assumptions/24.md. -/
def Obligations.MatrixEvents : Prop :=
  (∀ (s : State) (c : Cmd) (rest : List Cmd) (i : Instr) (n : Nat), MatrixHead s c rest → isMatrix i c.word →
    matrixFail s (hereCore s) c = some n →
    ∃ t, exec i s = .next t ∧ (t.core (hereCore s)).mq = rest ∧ t.cells = s.cells ∧ SameBytes s t ∧
      TokenSent t (hereCore s) c.word 3 0#5 n) ∧
  (∀ (s : State) (j : PortJob) (core : Nat) (c : Cmd), s.jobs.find? (fun x => x.id = j.id) = some j → j.cmd = some (core, c) →
    (∀ u ∈ s.units, u.job ≠ j.id) →
    let t := runLater s (.tile j.id)
    let n := 8 * (core % 4) + Cmd.acc c.word
    SameBytes s t ∧ (∀ k ∈ t.jobs, k.id ≠ j.id) ∧
    (j.writing = true → TokenSent t core c.word 0 j.flags 0 ∧
      (t.cell (core / 4)).accOf n = (s.cell (core / 4)).accOf n) ∧
    (j.writing = false → ∀ el, elemOf (bits c.word.w1 25 21) = some el →
      ((t.cell (core / 4)).accOf n).lock = false ∧
      (∀ code, j.fail = some code → TokenSent t core c.word code 0#5 0 ∧
        ((t.cell (core / 4)).accOf n).data = ((s.cell (core / 4)).accOf n).data) ∧
      (j.fail = none → TokenSent t core c.word 0 0#5 0 ∧
        ∀ i < 1024, (((t.cell (core / 4)).accOf n).data.extractLsb' (32 * i) 32).toNat =
          accCanon (roundF32 .rn (elemValue el
            (packLanes 512 ((List.range (2 * el.width)).map (FMap.get 0 j.got)) / 2 ^ (el.width * i) % 2 ^ el.width) 0 false)).1))) ∧
  (∀ (s : State) (cell pos k : Nat) (r : MRun) (u : MUnit), (s.cell cell).mrun = some r → clockStop (s.cell cell) = none →
    6 ≤ pos → pos < 14 → (r.todo.filter (fun x => x.b = decide (10 ≤ pos))).find?
      (fun x => realOff s cell x.off / 64 % 16 = (pos + k) % 16) = some u → localErr s cell u.off u.n = false →
    let got := r.read u (localRead s cell u.off u.n) false
    ∃ t, exec (.localPairing cell pos k) s = .next t ∧ SameBytes s t ∧ t.slots = s.slots ∧
      (got.todo ≠ [] → (t.cell cell).mrun = some got) ∧
      (got.todo = [] → r.bad = false → ∃ z, (t.cell cell).mrun = some z ∧ z.accNo = r.accNo ∧ z.cmd = r.cmd ∧
        Turn.event (.matrixUpdate cell) ∈ t.work ∧
        z.data = (product (rowsA r.cmd.word got.gotA) (columnsB r.cmd.word got.gotB)
          (if r.zero then 0#32768 else ((s.cell cell).accOf r.accNo).data)).1)) ∧
  (∀ (s : State) (cell : Nat) (r : MRun), (s.cell cell).mrun = some r → clockStop (s.cell cell) = none → r.todo = [] →
    r.bad = false → ∃ t, exec (.matrixUpdate cell) s = .next t ∧ (t.cell cell).mrun = none ∧ SameBytes s t ∧
      (t.cell cell).accOf r.accNo = { data := r.data, flags := r.flags, lock := false, err := 0#8 } ∧
      TokenSent t r.core r.cmd.word 0 r.raised 0 ∧
      (∀ q, r.popA = some q ∧ r.popB ≠ some q ∨ r.popB = some q ∧ r.popA ≠ some q →
        Popped (Ring.word (s.cell cell) q) (Ring.word (t.cell cell) q)) ∧
      (∀ q, r.popA ≠ some q → r.popB ≠ some q → Ring.word (t.cell cell) q = Ring.word (s.cell cell) q))

/-! ## Forked command programs -/

/-- R370: with its fields in order, `seq.jmp` moves its program to the word an offset away, `seq.loop` begins a loop or, with a
count of 0, passes its body over, `seq.wait` of both kinds goes on once what it waits for is there and keeps waiting before,
`seq.sig` counts its signal up, and `seq.end` ends the program with status 1. A command with a wrong field, a jump out of the
innermost active body, and a loop that does not lie inside it or has an enclosing loop's register, end the program with status 2
(R371).
R304, R306, R370: a program that is to end does so once its commands have completed, with its status in the slot's fork record;
otherwise the next word is fetched: a sequencer command is taken in hand, and a well-formed command without a token joins the
queue with the active loops' steps added to its words 1 and 2.
It rests on the model's own choices and readings too, notes/assumptions/62.md and notes/assumptions/68.md. -/
def Obligations.Sequencers : Prop :=
  (∀ (s : State) (cp : Bool) (q : Seq) (w : CmdWord), Carries s cp q w →
    (∀ k : Nat, k = (((q.next : Int) - 1 + (w.w1.setWidth 32).toInt) % (2 ^ 59 : Nat)).toNat →
      bits w.w1 63 32 = 0 → w.w2 = 0#64 → w.w3 = 0#64 →
        (InBody q k 1 → ∃ t, exec (.seqJmp w) s = .next t ∧ SameBytes s t ∧ WentOn t (hereCore s) cp { q with next := k }) ∧
        (¬ InBody q k 1 → ∃ t, exec (.seqJmp w) s = .next t ∧ SameBytes s t ∧ EndsBad t (hereCore s) cp q)) ∧
    (bits w.w1 35 34 = 0 → bits w.w1 63 48 = 0 → bits w.w1 47 36 ≠ 0 →
      (InBody q q.next (bits w.w1 47 36) → (∀ l ∈ q.loops, l.idx ≠ bits w.w1 33 32) →
        (bits w.w1 31 0 ≠ 0 → ∃ t, exec (.seqLoop w) s = .next t ∧ SameBytes s t ∧ WentOn t (hereCore s) cp { q with
          loops := { idx := bits w.w1 33 32, first := q.next, body := bits w.w1 47 36, count := bits w.w1 31 0, i := 0
                     s1 := w.w2, s2 := w.w3 } :: q.loops }) ∧
        (bits w.w1 31 0 = 0 → ∃ t, exec (.seqLoop w) s = .next t ∧ SameBytes s t ∧
          WentOn t (hereCore s) cp { q with next := (q.next + bits w.w1 47 36) % 2 ^ 59 })) ∧
      (¬ InBody q q.next (bits w.w1 47 36) ∨ (∃ l ∈ q.loops, l.idx = bits w.w1 33 32) →
        ∃ t, exec (.seqLoop w) s = .next t ∧ SameBytes s t ∧ EndsBad t (hereCore s) cp q)) ∧
    (bits w.w1 63 2 = 0 → w.w2 = 0#64 → w.w3 = 0#64 →
      (q.owed = 0 → ∃ t, exec (.seqWaitOwn w) s = .next t ∧ SameBytes s t ∧ WentOn t (hereCore s) cp q) ∧
      (q.owed ≠ 0 → ∃ t, exec (.seqWaitOwn w) s = .next t ∧ SameBytes s t ∧ t.seqOf (hereCore s) cp = some q)) ∧
    (w.w1 = 0#64 → w.w2 = 0#64 → w.w3 = 0#64 →
      (q.owed = 0 → ∀ f, (s.slot q.sid).fork = some f → (s.slot q.sid).gen = q.gen →
        ∃ t g, exec (.seqEnd w) s = .next t ∧ SameBytes s t ∧ t.seqOf (hereCore s) cp = none ∧ (t.slot q.sid).fork = some g ∧
          (if cp then g.cst else g.mst) = 1) ∧
      (q.owed ≠ 0 → ∃ t, exec (.seqEnd w) s = .next t ∧ SameBytes s t ∧ t.seqOf (hereCore s) cp = some q)) ∧
    (bits w.w1 63 3 = 0 → bits w.w2 63 32 = 0 → w.w3 = 0#64 → ∀ f, (s.slot q.sid).fork = some f →
      (bits w.w2 31 0 ≤ getAt 0 f.sigs (bits w.w1 1 0) →
        ∃ t, exec (.seqWaitSig w) s = .next t ∧ SameBytes s t ∧ WentOn t (hereCore s) cp q) ∧
      (getAt 0 f.sigs (bits w.w1 1 0) < bits w.w2 31 0 →
        ∃ t, exec (.seqWaitSig w) s = .next t ∧ SameBytes s t ∧ t.seqOf (hereCore s) cp = some q)) ∧
    (bits w.w1 63 2 = 0 → w.w2 = 0#64 → w.w3 = 0#64 → ∀ f, (s.slot q.sid).fork = some f →
      (q.owed = 0 → ∃ t g, exec (.seqSig w) s = .next t ∧ SameBytes s t ∧ WentOn t (hereCore s) cp q ∧
        (t.slot q.sid).fork = some g ∧
        ∀ n < 4, getAt 0 g.sigs n = getAt 0 f.sigs n + if n = bits w.w1 1 0 then 1 else 0) ∧
      (q.owed ≠ 0 → ∃ t, exec (.seqSig w) s = .next t ∧ SameBytes s t ∧ t.seqOf (hereCore s) cp = some q)) ∧
    ∀ i : Instr, seqWrong i w → ∃ t, exec i s = .next t ∧ SameBytes s t ∧ EndsBad t (hereCore s) cp q) ∧
  ((∀ (s : State) (cell core : Nat) (cp : Bool) (q : Seq) (n : Nat) (f : ForkRec),
    s.seqOf (4 * cell + core) cp = some q → q.ending = some n → q.word = none → q.owed = 0 → clockStop (s.cell cell) = none →
    (s.slot q.sid).gen = q.gen → (s.slot q.sid).isLive = true → (s.slot q.sid).fork = some f →
    ∃ t g, exec (.sequencerFetch cell core cp) s = .next t ∧ t.seqOf (4 * cell + core) cp = none ∧
      (t.slot q.sid).fork = some g ∧ (if cp then g.cst else g.mst) = n ∧ (if cp then g.mst else g.cst) =
        (if cp then f.mst else f.cst)) ∧
  (∀ (s u : State) (cell core : Nat) (cp : Bool) (q : Seq) (w : CmdWord), core < 4 → MayFetch s u cell core cp q w →
    Cmd.queueOf w = some 2 → seqWord0Ok w = true →
    ∃ t, exec (.sequencerFetch cell core cp) s = .next t ∧
      t.seqOf (4 * cell + core) cp = some { q.turned with next := (q.turned.next + 1) % 2 ^ 59, word := some w }) ∧
  (∀ (s u : State) (cell core : Nat) (cp : Bool) (q : Seq) (w : CmdWord), core < 4 → MayFetch s u cell core cp q w →
    Cmd.queueOf w ≠ some 2 → cmdOk (if cp then 1 else 0) (adjusted q.turned w) = true → Cmd.noTok w = true →
    claimOk (u.slot q.sid) cp (adjusted q.turned w) = true → queueFull u (4 * cell + core) (if cp then 1 else 0) = false →
    ∃ t e, exec (.sequencerFetch cell core cp) s = .next t ∧
      (if cp then (t.core (4 * cell + core)).cq else (t.core (4 * cell + core)).mq) =
        (if cp then (u.core (4 * cell + core)).cq else (u.core (4 * cell + core)).mq) ++ [e] ∧
      e.word.w1 = (q.turned.loops.map (fun l => BitVec.ofNat 64 l.i * l.s1)).foldl (· + ·) w.w1 ∧
      e.word.w2 = (q.turned.loops.map (fun l => BitVec.ofNat 64 l.i * l.s2)).foldl (· + ·) w.w2 ∧ e.word.w3 = w.w3 ∧
      e.forked = true ∧ e.sid = q.sid ∧
      t.seqOf (4 * cell + core) cp = some { q.turned with next := (q.turned.next + 1) % 2 ^ 59, owed := q.owed + 1 }))

/-! ## Copies -/

/-- R156, R350: a command of the copy queue leaves it when the port takes it: one that passes its checks is in flight from then
on, one with a bad field sends token code 3 with the field's word in INFO, one without elements token code 1, and one whose
control block or index list cannot be read the code of that; what the checks need of local memory or the commons is read at units
first, and they are made again with it.
The instructions that it says so of are copy, copyRingAppend, copyRed, copyMc, fill, gath, scat, coll, pubc and tclass.
It rests on the model's own choices and readings too, notes/assumptions/66.md. -/
def Obligations.CopyCommands : Prop :=
  (∀ (s : State) (c : Cmd) (rest : List Cmd) (i : Instr), CopyHead s c rest → isCopyCmd i c.word →
    let r := newCopy s.nextId (hereCore s) c
    ((taken s c rest).core (hereCore s)).cq = rest ∧
      PlanEnds s i (hereCore s / 4) r [] (checked (taken s c rest) (hereCore s / 4) r [])) ∧
  (∀ (s : State) (cell : Nat) (r : CopyRun) (j : PortJob), Copying s cell r → r.phase = .plan →
    s.jobOf cell (.event (.copyChunk cell r.serial 0)) = some j → jobOpen s j.id = false →
    (∀ n, j.fail = some n → ∃ t, exec (.copyChunk cell r.serial 0) s = .next t ∧ TokenSent t (4 * cell) r.cmd.word n r.flags 0) ∧
    (j.fail = none → PlanEnds s (.copyChunk cell r.serial 0) cell r j.got (checked (dropJob s j.id) cell r j.got)))

/-- R134, R158, R350, R359: the next chunk of a running copy reads what lies in local memory or the commons at units; with that it
is judged again, writes the lower half at once and the rest at units, and the chunk after it is due; with the last one served the
copy sends token code 0. What a destination receives at each byte is the source's byte at the same place: the fill value, what its
units read, or memory. A chunk that may not be moved, or a unit in error, drops the chunks not yet issued, and the copy ends with
its code and chunk number; one on a page yet to be brought waits there while the next goes on.
It rests on the model's own choices and readings too, notes/assumptions/16.md. -/
def Obligations.CopyChunks : Prop :=
  (∀ (s u : State) (cell : Nat) (r : CopyRun), MayRun s cell r r.next →
    let turn := Turn.event (.copyChunk cell r.serial r.next)
    s.jobOf cell turn = none →
    (chunkReads s cell r r.next ≠ [] → chunkJudged cell r r.next (setCopy s cell r) = (.fine, u) →
      ∃ t, exec (.copyChunk cell r.serial r.next) s = .next t ∧ SameBytes u t ∧ t.cells = u.cells ∧
        JobWith t cell turn r.serial false [] ((chunkReads s cell r r.next).map (fun q => (q, .read)))) ∧
    (∀ code, chunkJudged cell r r.next (setCopy s cell r) = (.bad code, u) → u.copyOf cell r.serial = some r →
      copyWorks u cell r = false →
      ∃ t, exec (.copyChunk cell r.serial r.next) s = .next t ∧ TokenSent t (4 * cell) r.cmd.word code r.flags r.next) ∧
    (chunkJudged cell r r.next (setCopy s cell r) = (.parked, u) → u.copyOf cell r.serial = some r →
      ∃ t, exec (.copyChunk cell r.serial r.next) s = .next t ∧ SameBytes u t ∧
        CopyIs t cell r.serial (fun q => q.parked = [r.next] ∧ q.next = r.next + 1) ∧
        (r.next + 1 < r.chunks → Turn.event (.copyChunk cell r.serial (r.next + 1)) ∈ t.work))) ∧
  (∀ (s u : State) (cell : Nat) (r : CopyRun) (got : FMap Nat), ChunkReady s u cell r got →
    let turn := Turn.event (.copyChunk cell r.serial r.next)
    let m := moveSegs u cell (issuing u cell r) turn got none (chunkSegs r.cmd.word r.geom r.next)
    (m.1 ≠ [] → ∃ t, exec (.copyChunk cell r.serial r.next) s = .next t ∧ SameBytes m.2.1 t ∧
      CopyIs t cell r.serial (fun q => q.next = r.next + 1 ∧ q.phase = .running) ∧ JobWith t cell turn r.serial true [] m.1 ∧
      (r.next + 1 < r.chunks → Turn.event (.copyChunk cell r.serial (r.next + 1)) ∈ t.work)) ∧
    (m.1 = [] → r.next + 1 < r.chunks → ∃ t, exec (.copyChunk cell r.serial r.next) s = .next t ∧ SameBytes m.2.1 t ∧
      CopyIs t cell r.serial (fun q => q.next = r.next + 1 ∧ q.phase = .running) ∧
      Turn.event (.copyChunk cell r.serial (r.next + 1)) ∈ t.work) ∧
    (m.1 = [] → r.next + 1 = r.chunks → copyWorks u cell r = false → ∃ t fl, exec (.copyChunk cell r.serial r.next) s = .next t ∧
      (Cmd.scope r.cmd.word < 2 → SameBytes m.2.1 t) ∧ TokenSent t (4 * cell) r.cmd.word 0 fl 0)) ∧
  (∀ (s : State) (cell n : Nat) (r : CopyRun) (w : Bool) (f : Option Nat) (j : PortJob), MayRun s cell r n →
    TurnServed s cell (.event (.copyChunk cell r.serial n)) w f j → copyWorks (dropJob s j.id) cell r = false →
    (w = true → f = none → r.next = r.chunks →
      ∃ t, exec (.copyChunk cell r.serial n) s = .next t ∧ TokenSent t (4 * cell) r.cmd.word 0 r.flags 0) ∧
    (∀ code, f = some code →
      ∃ t, exec (.copyChunk cell r.serial n) s = .next t ∧ TokenSent t (4 * cell) r.cmd.word code r.flags n)) ∧
  (∀ (s u x : State) (cell V : Nat) (r : CopyRun) (got : FMap Nat) (q : Seg), ChunkReady s u cell r got →
    chunkSegs r.cmd.word r.geom r.next = [q] → Cp.xf r.cmd.word ≠ 1 →
    let turn := Turn.event (.copyChunk cell r.serial r.next)
    let dst := r.cmd.word.w2 + BitVec.ofInt 64 q.off
    let m := moveSegs u cell (issuing u cell r) turn got none [q]
    segBytes u cell (portAgent u cell false turn) (issuing u cell r) got q none = (V, x) →
    (∀ pre p post, spaceOf x cell dst ≠ .lower → spotsOf x cell dst q.nd = pre ++ p :: post →
      (p, .write (V % 2 ^ (8 * q.nd) / 2 ^ (8 * bytesBefore pre) % 2 ^ (8 * p.n))) ∈ m.1) ∧
    (∀ (y : State) (pa key : Nat), spaceOf x cell dst = .lower → 0 < q.nd → dst.toNat % 65536 + q.nd ≤ 65536 → pa % 128 + q.nd ≤ 128 →
      translate x (u.partN cell) (dieOf cell) (u.casid cell) dst.toNat false true false = (.ok pa key 0, y) →
      homeDie y pa = dieOf cell → decrypts y (pa / 128) key = true → Memory.wf y.phys = true →
      m.1 = [] ∧ PhysStored y m.2.1 pa q.nd V) ∧
    (Cp.isFill r.cmd.word = true → ∀ k, k < q.ns / Cp.size r.cmd.word →
      V / 2 ^ (8 * Cp.size r.cmd.word * k) % 2 ^ (8 * Cp.size r.cmd.word) = r.cmd.word.w1.toNat % 2 ^ (8 * Cp.size r.cmd.word)) ∧
    (∀ pre p post, Cp.isFill r.cmd.word = false → spotsOf u cell q.src q.ns = pre ++ p :: post →
      bytesBefore (spotsOf u cell q.src q.ns) = q.ns →
      (∀ z ∈ spotsOf u cell q.src q.ns, ∃ b, FMap.find? got z.key = some b ∧ b < 2 ^ (8 * z.n)) →
      V / 2 ^ (8 * bytesBefore pre) % 2 ^ (8 * p.n) = FMap.get 0 got p.key) ∧
    (∀ (y : State) (pa key : Nat), Cp.isFill r.cmd.word = false → spaceOf u cell q.src = .lower → 0 < q.ns →
      q.src.toNat % 65536 + q.ns ≤ 65536 → pa % 128 + q.ns ≤ 128 →
      translate u (u.partN cell) (dieOf cell) (u.casid cell) q.src.toNat true false false = (.ok pa key 0, y) →
      (∀ k ∈ y.replicas, k.die ≠ dieOf cell) → (∀ k ∈ y.forwards, k.die ≠ dieOf cell) → decrypts y (pa / 128) key = true →
      V = Memory.readN y.phys pa q.ns))

/-- R76, R157: a copy into a ring takes its slots once the ring has room for them behind those already taken; the landing of a
slot's data and of its scale strip is noted with the slot's sequence number, and the ring's count goes up only with the second of
the two at the first uncounted slot. A strip without a source is 32 bytes of 0x7F, written at a unit of the copy port. -/
def Obligations.RingAppends : Prop :=
  (∀ (s : State) (cell : Nat) (r : CopyRun), Copying s cell r → r.phase = .reserve →
    let q := bits r.geom.attr 35 32
    let x := Ring.word (s.cell cell) q
    let k := appendSlots (s.cell cell) r.cmd.word r.geom
    appendBehind (s.cell cell) r q = false → Ring.cnt x + ((s.cell cell).ringOf q).reserved + k ≤ Ring.nslots x →
    ∃ t, exec (.ringReserve cell r.serial) s = .next t ∧ SameBytes s t ∧
      ((t.cell cell).ringOf q).reserved = ((s.cell cell).ringOf q).reserved + k ∧ Ring.word (t.cell cell) q = x ∧
      CopyIs t cell r.serial (fun c => c.phase = .running ∧ ∃ z, c.ring = some z ∧ z.q = q ∧ z.k = k ∧
        z.first = (Ring.head x + (Ring.cnt x + ((s.cell cell).ringOf q).reserved)) % Ring.nslots x)) ∧
  (∀ (s : State) (cell n : Nat) (r : CopyRun) (z : RingRun), Copying s cell r → r.phase = .running → r.ring = some z →
    r.next < r.chunks → (n, false) ∉ r.landings →
    let x := Ring.word (s.cell cell) z.q
    let h := (s.cell cell).ringOf z.q
    ∃ t, exec (.ringLanding cell r.serial n false) s = .next t ∧ SameBytes s t ∧
      CopyIs t cell r.serial (fun c => (n, false) ∈ c.landings) ∧
      FMap.find? ((t.cell cell).ringOf z.q).dseq (slotOf (s.cell cell) z n) = some (BitVec.ofNat 8 (z.seq + n)) ∧
      (FMap.find? h.scaleLanded ((Ring.head x + Ring.cnt x) % Ring.nslots x) = none → Ring.word (t.cell cell) z.q = x) ∧
      (slotOf (s.cell cell) z n = (Ring.head x + Ring.cnt x) % Ring.nslots x → h.reserved ≠ 0 →
        FMap.find? h.scaleLanded (slotOf (s.cell cell) z n) ≠ none → Ring.cnt x + h.reserved ≤ Ring.nslots x →
        Ring.cnt x < Ring.cnt (Ring.word (t.cell cell) z.q))) ∧
  (∀ (s : State) (cell n : Nat) (r : CopyRun) (z : RingRun), Copying s cell r → r.phase = .running → r.ring = some z →
    r.next < r.chunks → (n, true) ∉ r.landings → r.cmd.word.w2 = 0#64 →
    let x := Ring.word (s.cell cell) z.q
    let h := (s.cell cell).ringOf z.q
    let turn := Turn.event (.ringLanding cell r.serial n true)
    let o := Ring.strip (s.cell cell) z.q (slotOf (s.cell cell) z n) % localSize
    (s.jobOf cell turn = none → entryErr s cell o = false →
      ∃ t, exec (.ringLanding cell r.serial n true) s = .next t ∧ SameBytes s t ∧
        JobWith t cell turn r.serial true [] [(⟨false, cell, o, 32, 0⟩, .write (2 ^ 256 / 255 * 127))]) ∧
    (∀ j, TurnServed s cell turn true none j →
      ∃ t, exec (.ringLanding cell r.serial n true) s = .next t ∧ SameBytes s t ∧
        CopyIs t cell r.serial (fun c => (n, true) ∈ c.landings) ∧
        FMap.find? ((t.cell cell).ringOf z.q).sseq (slotOf (s.cell cell) z n) = some (BitVec.ofNat 8 (z.seq + n)) ∧
        (FMap.find? h.dataLanded ((Ring.head x + Ring.cnt x) % Ring.nslots x) = none → Ring.word (t.cell cell) z.q = x) ∧
        (slotOf (s.cell cell) z n = (Ring.head x + Ring.cnt x) % Ring.nslots x → h.reserved ≠ 0 →
          FMap.find? h.dataLanded (slotOf (s.cell cell) z n) ≠ none → Ring.cnt x + h.reserved ≤ Ring.nslots x →
          Ring.cnt x < Ring.cnt (Ring.word (t.cell cell) z.q))))

/-- R57, R135, R362, R366: a piece of a reducing copy is applied once: with its record bit set it changes nothing, else it is
applied, in a local memory at units, and the bit set. A contribution to a column opens its instance or joins it, and the instance
ends once its result is written, in a local memory at units, every contributor's token following with the tree's flags.
It rests on the model's own choices and readings too, notes/assumptions/65.md and notes/assumptions/67.md. -/
def Obligations.Reductions : Prop :=
  (∀ (s : State) (cell n k : Nat) (r : CopyRun), s.copyOf cell r.serial = some r → (n, k) ∈ r.applied →
    exec (.reducePieceApply cell r.serial n k) s = .next s) ∧
  (∀ (s : State) (cell n k : Nat) (r : CopyRun), Copying s cell r → (n, k) ∉ r.applied → (n, k) ∈ r.owed → r.next < r.chunks →
    let turn := Turn.event (.reducePieceApply cell r.serial n k)
    let qs := pieceSegs s cell r n k
    let reads := qs.flatMap (fun q => spotsOf s cell q.src q.ns)
    let judged (v : State) : Judged × State := judgeSegs v cell r turn true true qs
    replayFull s cell turn = false →
    (∀ u, s.jobOf cell turn = none → reads ≠ [] → judged s = (.fine, u) →
      ∃ t, exec (.reducePieceApply cell r.serial n k) s = .next t ∧ SameBytes u t ∧
        JobWith t cell turn r.serial false [] (reads.map (fun q => (q, .read)))) ∧
    (∀ u got, TurnReady s cell turn reads judged u got → u.copyOf cell r.serial = some r →
      let m := moveSegs u cell r turn got none qs
      ∃ t, exec (.reducePieceApply cell r.serial n k) s = .next t ∧ SameBytes m.2.1 t ∧
        (m.1 ≠ [] → JobWith t cell turn r.serial true [] m.1) ∧
        (m.1 = [] → CopyIs t cell r.serial (fun q => (n, k) ∈ q.applied ∧ q.owed = r.owed.erase (n, k)))) ∧
    (∀ j, TurnServed s cell turn true none j →
      ∃ t, exec (.reducePieceApply cell r.serial n k) s = .next t ∧ SameBytes s t ∧
        CopyIs t cell r.serial (fun q => (n, k) ∈ q.applied ∧ q.owed = r.owed.erase (n, k)))) ∧
  (∀ (s : State) (cell : Nat) (r : CopyRun), Copying s cell r → r.phase = .waiting → opc r.cmd.word = 0x16 →
    let w := r.cmd.word
    (s.colls.find? (collMatch s cell w) = none → bits w.w3 19 16 ≤ bits w.w3 23 20 →
      ∃ t c, exec (.collArrival cell r.serial) s = .next t ∧ t.colls = s.colls ++ [c] ∧ c.part = s.partN cell ∧
        c.die = dieOf cell ∧ c.col = cell % 16 ∧ c.rid = bits w.w3 15 10 ∧ c.n = bits w.w3 23 20 + 1 ∧
        c.count = bits w.w3 9 0 ∧ c.dst = w.w2 ∧ c.written = 0 ∧ c.parts = [(bits w.w3 19 16, (cell, r.serial), r.contrib)]) ∧
    (∀ c, s.colls.find? (collMatch s cell w) = some c → (∀ q ∈ c.parts, q.1 ≠ bits w.w3 19 16) → c.parts.length ≠ c.n →
      c.dst = w.w2 → c.count = bits w.w3 9 0 → c.n = bits w.w3 23 20 + 1 → bits w.w3 19 16 < c.n →
      ∃ t d, exec (.collArrival cell r.serial) s = .next t ∧ d ∈ t.colls ∧
        d.parts = c.parts ++ [(bits w.w3 19 16, (cell, r.serial), r.contrib)])) ∧
  (∀ (s u : State) (die col rid cell n k : Nat) (v : List (BitVec 32)) (c : Coll),
    s.colls.filter (fun c => c.die = die && c.col = col && c.rid = rid && c.parts.length = c.n) = [c] →
    c.parts.find? (fun q => q.1 = 0) = some (0, (cell, n), v) → clockStop (s.cell cell) = none →
    let turn := Turn.event (.collResultWrite die col rid)
    let g := { portAgent s cell true turn with who := cell }
    let owe := ((s.copyOf cell n).map (·.owe)).getD []
    let left := ((List.range c.count).map (fun m => (c.dst + BitVec.ofNat 64 (4 * m), getAt 0 (collResult c).1 m))).drop c.written
    let ended (x t : State) : Prop := t.colls = x.colls.filter (fun d => !sameColl c d) ∧
      ∀ q ∈ c.parts, ∀ z, x.copyOf q.2.1.1 q.2.1.2 = some z → TokenSent t (4 * q.2.1.1) z.cmd.word 0 (collResult c).2 0
    (regionOf s cell c.dst = .lower → replayFull s cell turn = false → writeResult cell g left 0 s = (.fine, k, u) →
      ∃ t, exec (.collResultWrite die col rid) s = .next t ∧ ended u t) ∧
    (regionOf s cell c.dst ≠ .lower →
      (∀ e es, s.jobOf cell turn = none → left = e :: es → judgeRun s cell g true false owe e.1 4 .fine = (.fine, u) →
        let us := (elemsFine cell g owe left u).flatMap (fun e => (storeBytes u cell g e.1 4 e.2).1)
        us ≠ [] → ∃ t, exec (.collResultWrite die col rid) s = .next t ∧ SameBytes u t ∧ JobWith t cell turn n true [] us) ∧
      (∀ j, TurnServed s cell turn true none j → c.written = c.count → s.colls.find? (sameColl c) = some c →
        ∃ t, exec (.collResultWrite die col rid) s = .next t ∧ ended s t)))

/-- R58, R158, R217, R218, R350: the acknowledgement of a chunk that is owed is noted with the flags that it carries, a failure
that it names makes the copy fail with the chunk's number, a chunk without an answer is sent again, 16 times at most, and then the
copy fails with code 8. A chunk from a peer that an entry of the peer table admits is applied once and answered, with the same
flags however often it arrives, and one that asks for bytes is answered with them; any other, and one under an ASID outside the
partition, is answered with code 7 and changes nothing. A chunk that goes to a peer is noted with the RPART of its sender's entry,
and its answer is waited for.
It rests on the model's own choices and readings too, notes/assumptions/15.md and notes/assumptions/69.md. -/
def Obligations.PeerTransport : Prop :=
  (∀ (s : State) (cell n : Nat) (r : CopyRun) (w : Word) (bs : List Byte), s.copyOf cell r.serial = some r → n ∈ r.acks →
    answerOpen s cell r.serial n (.later (.peerAck cell r.serial n w bs)) = false → r.next < r.chunks → fromPeer r = false →
      bits w 7 0 = 0 →
    ∃ t, exec (.peerAckReceive cell r.serial n w bs) s = .next t ∧ SameBytes s t ∧
      CopyIs t cell r.serial (fun q => q.acks = r.acks.erase n ∧ q.fail = r.fail ∧
        q.flags = r.flags ||| BitVec.ofNat 5 (bits w 12 8))) ∧
  (∀ (s : State) (cell n : Nat) (r : CopyRun) (w : Word) (bs : List Byte), s.copyOf cell r.serial = some r → r.phase = .running →
    r.acks = [n] → r.parked = [] → r.owed = [] → r.ring = none → r.fail = none → bits w 7 0 ≠ 0 → copyWorks s cell r = false →
    answerOpen s cell r.serial n (.later (.peerAck cell r.serial n w bs)) = false →
    let c := bits w 7 0
    ∃ t, exec (.peerAckReceive cell r.serial n w bs) s = .next t ∧
      TokenSent t (4 * cell) r.cmd.word (if c = 5 ∨ c = 6 ∨ c = 7 ∨ c = 0xA then c else 7) r.flags n) ∧
  (∀ (s : State) (cell n : Nat) (r : CopyRun), s.copyOf cell r.serial = some r → n ∈ r.acks → r.phase = .running → r.parked = [] →
    r.owed = [] → r.ring = none → r.fail = none →
    (FMap.get 0 r.attempts n < 16 → ∃ t, exec (.peerRetransmitTimeout cell r.serial n) s = .next t ∧ SameBytes s t ∧
      CopyIs t cell r.serial (fun q => q.acks = r.acks ∧ FMap.get 0 q.attempts n = FMap.get 0 r.attempts n + 1)) ∧
    (16 ≤ FMap.get 0 r.attempts n → copyWorks s cell r = false → ∃ t, exec (.peerRetransmitTimeout cell r.serial n) s = .next t ∧
      TokenSent t (4 * cell) r.cmd.word 8 r.flags n)) ∧
  (∀ (s u : State) (cell : Nat) (r : CopyRun) (got : FMap Nat), Copying s cell r → r.phase = .running → r.next < r.chunks →
    Cp.peerOn r.geom.attr = true → Cp.isMc r.cmd.word = false → opc r.cmd.word ≠ 0x19 → scatBehind s cell r r.next = false →
    let turn := Turn.event (.copyChunk cell r.serial r.next)
    let src := !Cp.isFill r.cmd.word && !fromPeer r
    let qs := chunkSegs r.cmd.word r.geom r.next
    let held := qs ++ (if src then chunkTail r.cmd.word r.geom r.next else [])
    replayFull s cell turn = false →
    TurnReady (setCopy s cell r) cell turn (if src then held.flatMap (fun q => spotsOf s cell q.src q.ns) else [])
      (fun v => judgeSegs v cell r turn src false held) u got → u.copyOf cell r.serial = some r →
    ∃ t m, exec (.copyChunk cell r.serial r.next) s = .next t ∧ m ∈ t.peerSent ∧ m.cell = cell ∧ m.serial = r.serial ∧
      m.chunk = r.next ∧ m.entry = bits r.geom.attr 56 49 ∧ m.rpart = bits (u.peerWord (bits r.geom.attr 56 49) 3) 23 20 ∧
      CopyIs t cell r.serial (fun q => r.next ∈ q.acks)) ∧
  (∀ (s u : State) (peer src serial chunk rpart red n : Nat) (addr : BitVec 128) (udp : BitVec 16) (va : Word) (bs : List Byte),
    admitting s addr udp rpart = some n →
    let asid := bits (s.peerWord n 3) 36 24
    let g := peerAgent s n rpart (decide (red < 5)) (.later (.peerChunk peer src serial chunk addr udp rpart va red bs))
    let i := Instr.peerChunkReceive peer src serial chunk addr udp rpart va red bs
    let answer (t : State) (c : Nat) (f : FlagBits) (z : List Byte) : State := { t with peerOut := some {
      peer := peer, srcCell := src, serial := serial, chunk := chunk, code := c, flags := f, bytes := z } }
    (asid < s.asidLo rpart ∨ s.asidHi rpart < asid → exec i s = .next (answer s 7 0#5 [])) ∧
    (s.asidLo rpart ≤ asid → asid ≤ s.asidHi rpart →
      (∀ f, red < 5 → s.peerSeen.find? (fun q => decide (q.1 = (peer, src, serial, chunk))) = some ((peer, src, serial, chunk), f) →
        exec i s = .next (answer s 0 f [])) ∧
      ((s.fabricOf g.die).step = none → peersParked s < 32 →
        (red = 0 → (∀ q ∈ s.peerSeen, q.1 ≠ (peer, src, serial, chunk)) →
          peerPages g true false (bs.length / 65536 + 2) s va bs.length = (.fine, u) →
          ∃ t, exec i s = .next (answer t 0 0#5 []) ∧ t.peerSeen = u.peerSeen ++ [((peer, src, serial, chunk), 0#5)] ∧
            t.cells = u.cells) ∧
        (5 ≤ red → peerPages g false false ((red - 5) / 65536 + 2) s va (red - 5) = (.fine, u) →
          ∀ v t, readVirt u g va (red - 5) = (.val v, t) → exec i s = .next (answer t 0 0#5 (toBytes (red - 5) v)))))) ∧
  (∀ (s : State) (peer src serial chunk rpart red : Nat) (addr : BitVec 128) (udp : BitVec 16) (va : Word) (bs : List Byte),
    admitting s addr udp rpart = none → exec (.peerChunkReceive peer src serial chunk addr udp rpart va red bs) s =
      .next { s with peerOut := some {
        peer := peer, srcCell := src, serial := serial, chunk := chunk, code := 7, flags := 0#5, bytes := [] } })

/-! ## Accesses on their way -/

/-- R90, R280, R283, R285: a position of the local wheel serves its oldest access for the bank that it meets: a load gets the
bytes, a store writes them; the full/empty operations do and answer what the table of R280 gives; an atomic gets the old value and
writes what its operation makes of it; `cas` writes where the old value is the expected one. No other byte of any memory changes.
A unit of a copy or of an accumulator transfer whose turn it is brings its job the bytes that it reads, or writes its bytes, and
the job goes on with the last of them; a unit of a block writes the 64 bytes that it brings from the commons, or takes those that
it is to bring there (R289). -/
def Obligations.LocalPairings : Prop :=
  (∀ (s : State) (cell pos t : Nat) (a : Access), Meets s cell pos t a →
    let o := bits a.va 20 0
    let full := fullAt s cell o
    PlainAt s cell o a.op.size →
    ∃ u r, exec (.localPairing cell pos t) s = .next u ∧ Replied u a r ∧
      (∀ n e, a.op = .load n e → r = .value (localRead s cell o n) ∧ SameBytes s u ∧ fullAt u cell o = full) ∧
      (∀ n v, a.op = .store n v → r = .done ∧ StoredAt s u cell o n v ∧ fullAt u cell o = full) ∧
      (a.op = .lds → SameBytes s u ∧ fullAt u cell o = false ∧
        r = if full then .value (localRead s cell o 8) else .refused) ∧
      (a.op = .ldw → SameBytes s u ∧ fullAt u cell o = full ∧ r = if full then .value (localRead s cell o 8) else .refused) ∧
      (∀ v, a.op = .sts v → fullAt u cell o = true ∧ (full = true → r = .refused ∧ SameBytes s u) ∧
        (full = false → r = .done ∧ StoredAt s u cell o 8 v)) ∧
      (∀ v, a.op = .fefill v → r = .done ∧ StoredAt s u cell o 8 v ∧ fullAt u cell o = true) ∧
      (a.op = .feempty → r = .done ∧ SameBytes s u ∧ fullAt u cell o = false) ∧
      (a.op = .feq → r = .value full.toNat ∧ SameBytes s u ∧ fullAt u cell o = full) ∧
      (∀ f n v, a.op = .amo f n v → v < 2 ^ (8 * n) → r = .value (localRead s cell o n) ∧
        StoredAt s u cell o n (amoOf n (localRead s cell o n) v f)) ∧
      (∀ n e w, a.op = .cas n e w → r = .value (localRead s cell o n) ∧
        (localRead s cell o n = e → StoredAt s u cell o n w) ∧ (localRead s cell o n ≠ e → SameBytes s u))) ∧
  (∀ (s : State) (cell pos t : Nat) (u : PortUnit) (j : PortJob), ServesUnit s cell pos t u →
    s.jobs.find? (fun k => k.id = u.job) = some j →
    ∃ x, exec (.localPairing cell pos t) s = .next x ∧ (∀ v ∈ x.units, v.id ≠ u.id) ∧
      ((∀ v ∈ s.units, v.job = j.id → v.id = u.id) → j.turn ∈ x.work) ∧
      (u.act = .read → SameBytes s x ∧ ∃ k, x.jobs.find? (fun k => k.id = u.job) = some k ∧
        FMap.find? k.got u.spot.key = some (localRead s cell u.spot.off u.spot.n) ∧
        (localErr s cell u.spot.off u.spot.n = false → k.fail = j.fail) ∧
        (localErr s cell u.spot.off u.spot.n = true → ∃ c ≤ 5, k.fail = some c)) ∧
      (∀ v, u.act = .write v → InFrame s cell u.spot.off u.spot.n → j.serial = none →
        FMap.find? j.owe (2048 * cell + u.spot.off / 1024) = none → StoredAt s x cell u.spot.off u.spot.n v)) ∧
  (∀ (s : State) (cell pos t core bid i : Nat) (a : Access) (b : Blk), ServesNow s cell pos t a → a.src = .blk core bid i →
    a.cell = cell → s.blkOf core bid = some b →
    (∀ v, a.op = .store 64 v → b.wr = false → (wholeFrames b).contains ((b.lunit + i) / 16) = false →
      InFrame s cell (bits a.va 20 0) 64 → entryErr s cell (bits a.va 20 0) = false →
      ∃ u, exec (.localPairing cell pos t) s = .next u ∧ u.findAccess a.id = none ∧ LocalStored s u cell (bits a.va 20 0) 64 v) ∧
    (∀ e, a.op = .load 64 e → b.wr = true → localErr s cell (bits a.va 20 0) 64 = false →
      ∃ u, exec (.localPairing cell pos t) s = .next u ∧ u.findAccess a.id = none ∧
        (∀ c o, Memory.read (u.cell c).mem o = Memory.read (s.cell c).mem o) ∧
        ∀ d, u.blkOf core bid = some d → FMap.find? d.snap i = some (localRead s cell (bits a.va 20 0) 64)))

/-- R64, R66, R92, R192, R299, R350: an access that reaches a remote cell is refused where no window admits it, else waits at the
copy port; the answer of an access leaves it out of flight and writes the loaded value, or lowers UNACK, or, where it is bad and
the slot waits for it, traps at the access; a token status fills the register that is owed it; `lnch` appends the 64 bytes at its
address to its launch queue and moves LQTAIL on by 1. -/
def Obligations.AnswersAndLaunches : Prop :=
  (∀ (s : State) (a : Access) (cell : Nat), s.findAccess a.id = some a → a.stage = .lattice cell → clockStop (s.cell cell) = none →
    (s.fabricOf (dieOf cell)).step = none → (∀ c b i, a.src ≠ .blk c b i) → a.poison = none →
    (∀ d, windowRefusal (s.cell cell) (bits a.va 20 0) a.op.size a.op.rights = some d →
      ∃ t, exec (.remoteAccessArrival a.id) s = .next t ∧ Replied t a (.window d) ∧ SameBytes s t) ∧
    (windowRefusal (s.cell cell) (bits a.va 20 0) a.op.size a.op.rights = none →
      ∃ t, exec (.remoteAccessArrival a.id) s = .next t ∧ t.findAccess a.id = some { a with stage := .port cell, entered := s.nextId } ∧
        (∃ n, Turn.event (.localPairing cell 14 n) ∈ t.work) ∧ SameBytes s t)) ∧
  (∀ (s : State) (a : Access) (k d v n : Nat) (pc : Word) (e : Bool),
    ComesHome s a (.value v) k pc (some d) false → a.op = .load n e → 0 < d → d < 64 →
    ∃ t, exec (.loadReturn a.id) s = .next t ∧ t.findAccess a.id = none ∧ (t.slot k).sF d = true ∧ (t.slot k).sP d = false ∧
      (t.slot k).sval d = (if e then (BitVec.ofNat (8 * n) v).signExtend 64 else BitVec.ofNat 64 v) ∧
      (∀ r < 64, r ≠ d → (t.slot k).sval r = (s.slot k).sval r) ∧ (∀ j, j ≠ k → t.slot j = s.slot j)) ∧
  (∀ (s : State) (a : Access) (k : Nat) (pc : Word), ComesHome s a .done k pc none true → homeEvent a = .acknowledgement a.id →
    (s.slot k).unack ≠ 0#64 →
    ∃ t, exec (.acknowledgement a.id) s = .next t ∧ t.findAccess a.id = none ∧ (t.slot k).unack = (s.slot k).unack - 1#64 ∧
      (∀ r < 64, (t.slot k).sval r = (s.slot k).sval r) ∧ (∀ j, j ≠ k → t.slot j = s.slot j)) ∧
  (∀ (s : State) (a : Access) (k c d : Nat) (pc v : Word) (dst : Option Nat) (counts : Bool) (r : Reply),
    ComesHome s a r k pc dst counts → replyTrap a r = some (c, d, v) → (s.slot k).await = some a.id → vecOpen s k = false →
    ∃ t, exec (homeEvent a) s = .next t ∧ t.findAccess a.id = none ∧ (t.slot k).tepc = pc ∧ (t.slot k).tval = v ∧
      (t.slot k).tcause = BitVec.ofNat 64 (c + 256 * d + 0x10000) ∧ (∀ j, j ≠ k → t.slot j = s.slot j)) ∧
  (∀ (s : State) (k : Token), s.tokens.find? (fun t => t.id = k.id) = some k → clockStop (s.cell (k.core / 4)) = none →
    k.tok = true → k.blk = false → k.copy = none → 0 < k.reg →
    let x := s.slot (16 * k.core + k.slot)
    x.isLive = true → x.gen = k.gen → x.sP k.reg = true →
    ∃ t, exec (.tokenFill k.id) s = .next t ∧ (∀ q ∈ t.tokens, q.id ≠ k.id) ∧
      (t.slot (16 * k.core + k.slot)).sval k.reg = k.status ∧ (t.slot (16 * k.core + k.slot)).sF k.reg = true ∧
      (t.slot (16 * k.core + k.slot)).sP k.reg = false) ∧
  (∀ (s u : State) (a b : BitVec 6) (m n : Bool) (v q : Nat), Readable (here s) a → Readable (here s) b →
    q = ((here s).sval a.toNat).toNat → q < 8 → ((here s).sval b.toNat).toNat % 64 = 0 → bits ((here s).sval b.toNat) 63 56 = 0 →
    Fetches s ((here s).sval b.toNat) 64 v u → u.cur = s.cur → (∀ j, u.slot j = s.slot j) → Memory.wf u.phys = true →
    lqEnabled s (part s) q = true → lqDev s (part s) q = true → released u u.cur u.nextId 4 = true →
    lqCount u (part s) q (lqTail u (part s) q) < lqLen u (part s) q →
    let tail := lqTail u (part s) q
    let pa := lqBase u (part s) q + 64 * (tail % lqLen u (part s) q)
    isBacked pa = true → isSystem pa = false →
    ∃ t, exec (.lnch a b m n) s = .next t ∧ here t = (((here s).take a.toNat m).take b.toNat n).next ∧
      lqTail t (part s) q = (tail + 1) % 65536 ∧ Memory.readN t.phys pa 64 = v % 2 ^ 512)

/-- R84, R96, R97, R98, R165, R343: with the fabric clock running, a request enters its position's commons queue once that has
room and the lower units of its vector access have entered; a pairing answers the request that it serves with the bytes of its
bank, with a store done, or as an error where the bank is a hole. A unit of a block that it serves writes the 64 bytes that its
own cell gave, or brings the bank's 64 bytes to its place in that cell (R289); one of a copy, at a port lane, brings its job the
bank's bytes or writes its own (R96). At a turn boundary at which no block ends or reserves and no bank flips, a swap that has
arrived takes effect, and before its cycle a boundary stays due.
It rests on the model's own choices and readings too, notes/assumptions/32.md and notes/assumptions/100.md. -/
def Obligations.CommonsEvents : Prop :=
  (∀ (s : State) (a : Access) (d pos : Nat), s.findAccess a.id = some a → a.stage = .crossing d pos →
    (s.fabricOf d).step = none →
    let n := (s.flight.filter (fun b => decide (b.stage = Stage.commons d pos))).length
    (n < Config.commonsQueue → lowerCrosses s a = false → ∃ t k, exec (.commonsQueueEntry a.id) s = .next t ∧
      t.findAccess a.id = some { a with stage := .commons d pos, entered := s.nextId } ∧ Due t (.commonsPairing d pos k) ∧ SameBytes s t) ∧
    (Config.commonsQueue ≤ n ∨ lowerCrosses s a = true → ∃ t, exec (.commonsQueueEntry a.id) s = .next t ∧
      OnlyDue s t (.commonsQueueEntry a.id))) ∧
  (∀ (s : State) (d pos c : Nat) (a : Access),
    chooseService s d pos (pairedBank s d pos c).1 (pairedBank s d pos c).2 = .plain a → dieOf a.cell = d →
    copyingBank s d = none → (s.fabricOf d).step = none →
    let pl := placeOf s a.cell (bits a.va 47 0)
    pl.1 < 16 → pl.2.1 < 64 →
    (isHole s d pl.1 pl.2.1 = true →
      ∃ t, exec (.commonsPairing d pos c) s = .next t ∧ Replied t a .machine ∧ SameBytes s t) ∧
    (∀ n e, isHole s d pl.1 pl.2.1 = false → a.op = .load n e → commonsErr s d pl (bits a.va 47 0 % 64) n = false →
      ∃ t, exec (.commonsPairing d pos c) s = .next t ∧ Replied t a (.value (Memory.readN (s.commonsOf d) (commonsAt s a) n)) ∧
        SameBytes s t) ∧
    (∀ n v, isHole s d pl.1 pl.2.1 = false → a.op = .store n v → remapState s d pl.1 pl.2.1 = 0 →
      Memory.wf (s.commonsOf d) = true →
      ∃ t, exec (.commonsPairing d pos c) s = .next t ∧ Replied t a .done ∧ CommonsStored s t d (commonsAt s a) n v)) ∧
  (∀ (s : State) (d pos c i : Nat) (b : Blk), chooseService s d pos (pairedBank s d pos c).1 (pairedBank s d pos c).2 = .unit b i →
    s.blkOf (960 * d + pos) b.bid = some b → b.atomic = false → copyingBank s d = none → (s.fabricOf d).step = none →
    PlaceServes s d (blkPlace s (960 * d + pos) b i) →
    let place := bankAt s d (blkPlace s (960 * d + pos) b i) 0
    (∀ v, b.wr = true → FMap.find? b.snap i = some v →
      (∀ a ∈ s.flight, a.src = .blk (960 * d + pos) b.bid i → a.op.isLoad = false) →
      ∃ t, exec (.commonsPairing d pos c) s = .next t ∧ CommonsStored s t d place 64 v) ∧
    (b.wr = false → commonsErr s d (blkPlace s (960 * d + pos) b i) 0 64 = false →
      ∃ t, exec (.commonsPairing d pos c) s = .next t ∧ SameBytes s t ∧ ∃ a ∈ t.flight, a.src = .blk (960 * d + pos) b.bid i ∧
        a.op = .store 64 (Memory.readN (s.commonsOf d) place 64) ∧ a.stage = .lattice ((960 * d + pos) / 4) ∧
        a.va = 0xFF00000000000000#64 + BitVec.ofNat 64 (64 * (b.lunit + i)) ∧ Due t (.remoteAccessArrival a.id))) ∧
  (∀ (s : State) (d pos c : Nat) (u : PortUnit) (j : PortJob),
    chooseService s d pos (pairedBank s d pos c).1 (pairedBank s d pos c).2 = .lane u → s.jobs.find? (fun k => k.id = u.job) = some j →
    copyingBank s d = none → (s.fabricOf d).step = none →
    let pl := commonsPlace s (s.partN u.spot.cell) d u.spot.off
    PlaceServes s d pl →
    (u.act = .read → commonsErr s d pl (u.spot.off % 64) u.spot.n = false →
      ∃ t, exec (.commonsPairing d pos c) s = .next t ∧ SameBytes s t ∧ ∃ k, t.jobs.find? (fun k => k.id = u.job) = some k ∧
        FMap.find? k.got u.spot.key = some (Memory.readN (s.commonsOf d) (bankAt s d pl (u.spot.off % 64)) u.spot.n) ∧ k.fail = j.fail) ∧
    (∀ v, u.act = .write v →
      ∃ t, exec (.commonsPairing d pos c) s = .next t ∧ CommonsStored s t d (bankAt s d pl (u.spot.off % 64)) u.spot.n v)) ∧
  (∀ (s : State) (d pos c : Nat), chooseService s d pos (pairedBank s d pos c).1 (pairedBank s d pos c).2 = .nothing →
    copyingBank s d ≠ some (pairedBank s d pos c) → (s.fabricOf d).step = none →
    ∃ t, exec (.commonsPairing d pos c) s = .next t ∧ t = { s with work := t.work, regs := t.regs }) ∧
  (∀ (s : State) (d f : Nat),
    (s.fcyc d < f → ∃ t, exec (.turnBoundary d f) s = .next t ∧ OnlyDue s t (.turnBoundary d f)) ∧
    (f ≤ s.fcyc d → isBoundary s d f = true → atomicCores s d = [] → copyingBank s d = none → (∀ h ∈ s.holes, h.1 ≠ d) →
      let w := s.reg (dieBase d + 0x2000)
      ∃ t, exec (.turnBoundary d f) s = .next t ∧ SameBytes s t ∧ t.slots = s.slots ∧
        (w.getLsbD 2 = true → (∀ k, FMap.find? s.swapAt d = some k → k ≤ f) → t.reg (dieBase d + 0x2000) = (w ^^^ 1#64) &&& ~~~6#64 ∧
          t.reg (dieBase d + 0x2008) = BitVec.ofNat 64 f) ∧
        (w.getLsbD 2 = false ∨ (∃ k, FMap.find? s.swapAt d = some k ∧ f < k) → t.reg (dieBase d + 0x2000) = w ∧
          t.reg (dieBase d + 0x2008) = s.reg (dieBase d + 0x2008))))

/-! ## The lower half of the address space -/

/-- R82, R100, R108, R272: an access within one page at the translation unit goes on to its slice with the page's address, key and
ATTR, or is refused with the number of a register in error that its instruction read, is refused with the page's first byte that
it touches where the page is denied, and leaves a fault record where the page asks for one, its slot parked at the instruction. -/
def Obligations.TranslationWalks : Prop :=
  ∀ (s u : State) (a : Access) (d : Nat) (x : Xlate), s.findAccess a.id = some a → a.stage = .walk d →
    a.va.toNat % 65536 + a.op.size ≤ 65536 → answerWaits s a = false → lowerUnjudged s a = false → pageAttr s a a.va ≠ some 2 →
    translate s (s.partN a.cell) d (s.casid a.cell) a.va.toNat a.op.needsRd a.op.needsWr false = (x, u) →
    u.flight = s.flight → u.phys = s.phys → u.cells = s.cells → u.commons = s.commons →
    (∀ pa key r, x = .ok pa key 0 → isSystem pa = false → a.poison = some r →
      ∃ t, exec (.translationWalk a.id) s = .next t ∧ SameBytes s t ∧ Replied t a (.register r)) ∧
    (∀ pa key, x = .ok pa key 0 → isSystem pa = false → a.poison = none →
      ∃ t b, exec (.translationWalk a.id) s = .next t ∧ SameBytes s t ∧ t.findAccess a.id = some b ∧
        b = { a with pa := pa, key := key, pa2 := 0, key2 := 0, attr := b.attr, stage := b.stage, entered := b.entered } ∧ b.attr % 4 = 0 ∧
        ∃ h, b.stage = .slice h ∧ (a.op.isLoad = true ∨ a.op.isStore = true → h = dieOf a.cell) ∧
          (a.op.isLoad = false → a.op.isStore = false → h = homeDie u pa)) ∧
    (x = .denied → ∃ t, exec (.translationWalk a.id) s = .next t ∧ SameBytes s t ∧ Replied t a (.page a.op.kind.detail a.va)) ∧
    (∀ sid gen pc dst oldF cons counts k, x = .demand → a.src = .slot sid gen pc dst oldF cons counts →
      resolveSlot u sid gen = some k → (u.slot k).status = .live →
      ∃ t, exec (.translationWalk a.id) s = .next t ∧ SameBytes s t ∧ (t.slot k).park = some .fault ∧ (t.slot k).pc = pc ∧
        ∃ f ∈ t.faults, f.part = u.partN a.cell ∧ f.asid = u.casid a.cell ∧ f.va.toNat / 65536 = a.va.toNat / 65536)

/-- R101, R102, R127, R131: a store at its die's slice is done: at its line's home it is in memory, nothing else of memory has
changed and the slice's stamp is one higher; elsewhere its own slice's stamp is one higher, it waits to be forwarded, and the
forward puts it into memory at the home. A load whose line is there gets memory's bytes; one whose line is not takes a miss
register, and the line's arrival sends it on. A write acknowledged by memory leaves the address filter.
It rests on the model's own choices and readings too, notes/assumptions/58.md. -/
def Obligations.SliceAccesses : Prop :=
  (∀ (s : State) (a : Access) (n v : Nat), AtSlice s a n → a.op = .store n v → Memory.wf s.phys = true →
    decrypts s (a.pa / 128) a.key = true → isSystem a.pa = false ∨ s.linkUp = true →
    (lineHome s a = dieOf a.cell → ∃ t, exec (.sliceWriteSerialise a.id) s = .next t ∧ Replied t a .done ∧
      PhysStored s t a.pa n v ∧ t.cells = s.cells ∧ t.commons = s.commons ∧
      t.stampCtr (sliceNo (dieOf a.cell) (a.pa / 128)) = s.stampCtr (sliceNo (dieOf a.cell) (a.pa / 128)) + 1#64) ∧
    (lineHome s a ≠ dieOf a.cell →
      replicaOf s (dieOf a.cell) (a.pa / 128) a.key ≠ none ∨ (∀ f ∈ s.forwards, f.die ≠ dieOf a.cell) →
      sliceLoad s (dieOf a.cell) (a.pa / 128) < Config.sliceLines →
      ∃ t f, exec (.sliceWriteSerialise a.id) s = .next t ∧ Replied t a .done ∧ SameBytes s t ∧
      t.stampCtr (sliceNo (dieOf a.cell) (a.pa / 128)) = s.stampCtr (sliceNo (dieOf a.cell) (a.pa / 128)) + 1#64 ∧
      t.forwards = s.forwards ++ [f] ∧ f.die = dieOf a.cell ∧ f.home = lineHome s a ∧ f.pa = a.pa ∧ f.n = n ∧
      f.v = v % 2 ^ (8 * n) ∧ Due t (.remoteWriteForward (dieOf a.cell) (lineHome s a)))) ∧
  (∀ (s : State) (d h : Nat) (f : Forward), s.forwards.find? (fun g => g.die = d && g.home = h) = some f →
    Memory.wf s.phys = true → decrypts s (f.pa / 128) f.key = true →
    ∃ t, exec (.remoteWriteForward d h) s = .next t ∧ PhysStored s t f.pa f.n f.v ∧ t.forwards = s.forwards.erase f ∧
      t.slots = s.slots) ∧
  (∀ (s : State) (a : Access) (n : Nat) (e : Bool), AtSlice s a n → a.op = .load n e → lineHome s a = dieOf a.cell →
    replicaOf s (dieOf a.cell) (a.pa / 128) a.key = none → LineReads s a.pa n a.key →
    (∀ f ∈ s.forwards, f.die ≠ dieOf a.cell) →
    let line := a.pa / 128
    ((lineStamp s (dieOf a.cell) line).isSome = true → ∃ t, exec (.sliceReadMiss a.id) s = .next t ∧ SameBytes s t ∧
      Replied t a (.value (Memory.readN s.phys a.pa n))) ∧
    ((lineStamp s (dieOf a.cell) line).isSome = false → mergeable s (dieOf a.cell) line = false →
      missesAt s (dieOf a.cell) line < Config.missRegisters →
      ∃ t, exec (.sliceReadMiss a.id) s = .next t ∧ SameBytes s t ∧
        t.findAccess a.id = some { a with stage := .missed (dieOf a.cell), attr := a.attr ||| 8 } ∧
        (∃ m ∈ t.misses, m.die = dieOf a.cell ∧ m.line = line) ∧ Due t (.lineFilledFromMemory (dieOf a.cell) line))) ∧
  (∀ (s : State) (d line : Nat) (m : Miss), s.misses.find? (fun m => m.die = d && m.line = line) = some m →
    ∃ t, exec (.lineFilledFromMemory d line) s = .next t ∧
      ((homeDie s (128 * line) = d ∧ sliceLoad s d line < Config.sliceLines) ∨ (∀ f ∈ s.forwards, f.die ≠ d) → SameBytes s t ∧
        t.misses = s.misses.erase m) ∧
      (homeDie s (128 * line) = d → (lineStamp t d line).isSome = true) ∧
      ∀ a ∈ s.flight, a.stage = .missed d → (touched a).any (fun q => q.1 = line) = true →
        ∀ b ∈ t.flight, b.id = a.id → b.stage = .slice d) ∧
  (∀ (s : State) (d line : Nat), exec (.memoryWriteAcknowledged d line) s = .next { s with filter := s.filter.erase (d, line) })

/-- R103, R109, R132, R133, R283, R286, R287: an atomic at its line's home gets the old value and writes its result; `line.rd`
gets the line and its stamp; `line.cst` of one line writes it and answers 0 where the stamp is the expected one, else writes
nothing and answers 1; a host's write is in memory, a host's read gives what is there, or nothing from memory in error; the oldest
fault record is written at its queue's tail, which goes on by 1; FQDONE lets the accesses of an answered record issue again or
traps them, and does nothing where the queue lies in host memory while the link is down (R216). -/
def Obligations.HomeOperations : Prop :=
  (∀ (s : State) (a : Access) (d : Nat), s.findAccess a.id = some a → a.stage = .slice d → mustWait s a = false → a.attr % 4 = 0 →
    missing s a d = none → behindOlder s a d = false → (∀ f ∈ s.forwards, f.die ≠ dieOf a.cell ∨ f.pa / 128 ≠ a.pa / 128) →
    isSystem a.pa = false ∨ s.linkUp = true → Memory.wf s.phys = true → decrypts s (a.pa / 128) a.key = true →
    (∀ f n v, a.op = .amo f n v → v < 2 ^ (8 * n) → a.pa % 128 + n ≤ 128 → physErr s a.pa n = false →
      let old := Memory.readN s.phys a.pa n
      ∃ t, exec (.sliceAtomic a.id) s = .next t ∧ Replied t a (.value old) ∧ PhysStored s t a.pa n (amoOf n old v f)) ∧
    (∀ n e w, a.op = .cas n e w → a.pa % 128 + n ≤ 128 → physErr s a.pa n = false →
      let old := Memory.readN s.phys a.pa n
      ∃ t, exec (.sliceAtomic a.id) s = .next t ∧ Replied t a (.value old) ∧
        (old = e → PhysStored s t a.pa n w) ∧ (old ≠ e → t.phys = s.phys)) ∧
    (∀ c, a.op = .lineRd → physErr s a.pa 128 = false → lineStamp s (homeDie s a.pa) (a.pa / 128) = some c →
      ∃ t, exec (.sliceAtomic a.id) s = .next t ∧ t.phys = s.phys ∧
        Replied t a (.value (Memory.readN s.phys a.pa 128 + 2 ^ 1024 * c.toNat))) ∧
    (∀ data stamps, a.op = .lineCst 1 data stamps → a.pa % 128 = 0 →
      (lineStamp s (homeDie s a.pa) (a.pa / 128) = some (stamps.setWidth 64) →
        ∃ t, exec (.sliceAtomic a.id) s = .next t ∧ Replied t a (.value 0) ∧ PhysStored s t a.pa 128 data.toNat) ∧
      (lineStamp s (homeDie s a.pa) (a.pa / 128) ≠ some (stamps.setWidth 64) →
        ∃ t, exec (.sliceAtomic a.id) s = .next t ∧ Replied t a (.value 1) ∧ t.phys = s.phys))) ∧
  (∀ (s : State) (pa n : Nat) (v : Word), 0 < n → n ≤ 8 → pa % 128 + n ≤ 128 → s.linkUp = true → isBacked pa = true →
    Memory.wf s.phys = true → decrypts s (pa / 128) (keyByPa s pa) = true →
    (∃ t, exec (.hostCxlAccess true pa n v) s = .next t ∧ PhysStored s t pa n v.toNat ∧ t.slots = s.slots) ∧
    (physErr s pa n = true → exec (.hostCxlAccess false pa n v) s = .next { s with hostValue := none }) ∧
    (physErr s pa n = false → ∃ t, exec (.hostCxlAccess false pa n v) s = .next t ∧ SameBytes s t ∧ t.slots = s.slots ∧
      t.hostValue = some (BitVec.ofNat 64 (Memory.readN s.phys pa n)))) ∧
  (∀ (s : State) (p : Nat) (f : FaultRec), s.faults.find? (fun f => f.part = p && f.index.isNone) = some f → fqEnabled s p = true →
    (fqTail s p + 65536 - fqHead s p) % 65536 < fqSize s p → Memory.wf s.phys = true →
    let pa := fqBase s p + 32 * (fqTail s p % fqSize s p)
    isSystem pa = false ∨ s.linkUp = true → ∃ t, exec (.faultRecordWrite p) s = .next t ∧
      Memory.readN t.phys pa 32 = f.va.toNat + 2 ^ 64 * (f.asid % 2 ^ 13 + 2 ^ 13 * (f.kind % 8) + 2 ^ 16 * (f.source % 2 ^ 16)) +
        2 ^ 128 * f.at_.toNat ∧
      fqTail t p = (fqTail s p + 1) % 65536 ∧ { f with index := some (fqTail s p) } ∈ t.faults) ∧
  (∀ (s : State) (b : Writer) (p : Nat) (v : Word) (f : FaultRec) (a : Access) (sid k : Nat) (gen : BitVec 8) (pc : Word),
    reaches s b = true →
    s.faults.find? (fun f => f.part = p && f.index = some (bits v 15 0) && f.answer.isNone) = some f → f.waits = [] →
    s.flight = [a] → a.stage = .faulted → a.key = f.asid → a.pa / 65536 = f.va.toNat / 65536 → s.partN a.cell = p →
    a.src = .slot sid gen pc none true [] false → (s.slot sid).park = some .fault → (s.slot sid).status = .live →
    (∀ q ∈ s.slots, q.2.park = some .fault → q.1 = sid) →
    let pa := fqBase s p + 32 * (bits v 15 0 % fqSize s p) + 0x18
    (isSystem pa = true → s.linkUp = false → exec (.fqdoneWrite b p v) s = .next s) ∧ (isSystem pa = false ∨ s.linkUp = true →
    physReadRaw s pa 8 = (k, s) →
    (k = 1 → ∃ t, exec (.fqdoneWrite b p v) s = .next t ∧ t.slot sid = { s.slot sid with park := none } ∧ t.flight = [] ∧
      f ∉ t.faults) ∧
    (k = 2 → ∃ t, exec (.fqdoneWrite b p v) s = .next t ∧ t.flight = [] ∧ f ∉ t.faults ∧ (t.slot sid).tepc = (s.slot sid).pc ∧
      (t.slot sid).tcause = BitVec.ofNat 64 (cPage + 256 * a.op.kind.detail + 0x10000) ∧ (t.slot sid).tval = BitVec.ofNat 64 a.pa) ∧
    (k ≠ 1 → k ≠ 2 → exec (.fqdoneWrite b p v) s = .next s)))

/-! ## Launches, records, tasks -/

/-- R140, R142: an engine with room takes the next entry of the queue whose turn it is, and LQHEAD goes on by 1: a launch whose
graph is sound runs, with records to be placed; one whose entry cannot be read ends at once, without a completion word.
R21, R31, R145, R147, R148: the next record of the node that has been ready longest goes to the inbox of its cell, at its level's
end, once it has been written and the cell has room; a continuation goes to the cell with the fewest records; a record that has
waited longer than its partition's limit rises by one level with a new entry time.
It rests on the model's own choices and readings too, notes/assumptions/75.md and notes/assumptions/76.md. -/
def Obligations.LaunchesAndRecords : Prop :=
  ((∀ (s : State) (p q pa : Nat), NextEntry s p q pa → isBacked pa = false →
    ∃ t, exec (.launchRead p) s = .next t ∧ t.launches = [] ∧ SameBytes s t ∧ lqHead t p q = (lqHead s p q + 1) % 65536 ∧
      Due t (.launchRead p)) ∧
  (∀ (s v : State) (p q pa w : Nat) (header done : Word) (ns : List Node), NextEntry s p q pa → isBacked pa = true →
    (isSystem pa = true → s.linkUp = true) → physErr s pa 64 = false →
    physReadRaw (selfInvalidate s (s.lowDie p)) pa 64 = (w, selfInvalidate s (s.lowDie p)) → EntryFine w header done →
    openGraph (takeEntry s p) (graphAgent (takeEntry s p) p ((takeEntry s p).asidLo p) false (.launchRead p) s.nextId) header =
      (.nodes ns, v) →
    v.launches = (takeEntry s p).launches → lqHead v p q = lqHead (takeEntry s p) p q → (∃ n ∈ ns, n.deps = 0 ∧ n.ready = none ∧
      n.complete = false) →
    ∃ t, exec (.launchRead p) s = .next t ∧ Due t (.recordPlace p) ∧ lqHead t p q = (lqHead s p q + 1) % 65536 ∧
      ∃ l, t.launches = [l] ∧ l.part = p ∧ l.done = done ∧ l.phase = .running ∧ l.cut = false ∧ l.nodes.length = ns.length ∧
        ∀ (i : Nat) (n m : Node), ns[i]? = some n → l.nodes[i]? = some m →
          m = { n with ready := m.ready } ∧ (n.deps = 0 → m.ready.isSome = true))) ∧
  ((∀ (s u : State) (p li ni c : Nat) (l : Launch) (n : Node) (rest : List (Nat × Nat)), s.held = [] →
    (s.fabricOf (s.lowDie p)).step = none →
    readyOrder s p = (li, ni) :: rest → s.launches[li]? = some l → l.nodes[ni]? = some n → n.written = false →
    writeVirt s (graphAgent s p (s.asidLo p) true (.recordPlace p) (n.ready.getD 0)) (n.recs + BitVec.ofNat 64 (64 * n.placed)) 64
      (recordBytes n n.placed) = (.done, u) →
    u.held = [] → n.flags.getLsbD 3 = true → u.cellAt p (n.placed % u.cellCount p) = some c → c < 960 →
    let prio := n.flags.toNat % 4
    let inbox := (u.cell c).inbox
    inbox.length = 4 → (getAt [] inbox prio).length < 16 →
    ∃ t, exec (.recordPlace p) s = .next t ∧ Due t (.recordPlace p) ∧
      getAt [] (t.cell c).inbox prio =
        getAt [] inbox prio ++ [{ record := n.recs + BitVec.ofNat 64 (64 * n.placed), entered := u.gts }] ∧
      ∀ lv, lv ≠ prio → getAt [] (t.cell c).inbox lv = getAt [] inbox lv) ∧
  (∀ (s u : State) (p c v : Nat) (k : Nat × Nat × Word), (s.fabricOf (s.lowDie p)).step = none →
    s.conts.find? (fun c => c.1 = p && !contParked s p c) = some k →
    readVirt s (graphAgent s p k.2.1 false (.continuationPlace p) k.2.2.toNat) (k.2.2 + 0x1C#64) 4 = (.val v, u) → u.conts = s.conts →
    leastLoaded u p (v % 4) = some c → (u.cell c).inbox.length = 4 →
    ∃ t, exec (.continuationPlace p) s = .next t ∧ t.conts = s.conts.erase k ∧
      getAt [] (t.cell c).inbox (v % 4) = getAt [] (u.cell c).inbox (v % 4) ++ [{ record := k.2.2, entered := u.gts }]) ∧
  (∀ (s : State) (cell p : Nat) (e : InboxEntry) (top : List InboxEntry), s.partOf cell = some p → s.ageLimit p ≠ 0 →
    (s.cell cell).inbox = [[e], [], [], top] →
    let old := s.ageLimit p < s.gts.toNat - e.entered.toNat
    ∃ t, exec (.agePromotion cell) s = .next t ∧ SameBytes s t ∧ t.slots = s.slots ∧
      (old → (t.cell cell).inbox = [[], [{ record := e.record, entered := s.gts }], [], top]) ∧
      (¬old → (t.cell cell).inbox = (s.cell cell).inbox)))

/-- R149, R159, R160: a spill that can be written leaves its slot with final status 4 and its record with the graph engine;
without a save area the slot goes on. A restore gives the slot what its image holds: PC, CSRs, and each saved scalar register.
It rests on the model's own choices and readings too, notes/assumptions/50.md and notes/assumptions/53.md. -/
def Obligations.SpillAndRestore : Prop :=
  (∀ (s : State) (sid : Nat) (b : Bool) (s1 s2 s3 s4 : State) (ms mv : Nat), (s.slot sid).status = .spilling b →
    Unburdened s sid → clockStop (s.cell (cellOfSlot sid)) = none →
    let x := s.slot sid
    let s0 := (withdraw s sid).modSlot sid withoutCapture
    let g := punty s0 sid (.puntySpill sid)
    s0.slot sid = x → spillReady s0 sid = true → x.save ≠ 0#64 → puntyElsewhere s0 sid = false →
    putRecordState (s0.modCell (cellOfSlot sid) (fun c => { c with puntyAt := some sid })) g x 2 = (false, s1) →
      saveMasks s1 g x x.pc = ((ms, mv), s2) →
    let img := imageRuns x (claimedAccs s1 sid x.aown) x.pc ms mv
    writeVirt s2 g x.save (runsLength img) (joinRuns img) = (.done, s3) →
    putRecordState (flushDie s3 g.die) g x 1 = (false, s4) → (flushDie s4 g.die).slot sid = x →
    ∃ t, exec (.puntySpill sid) s = .next t ∧ (t.slot sid).status = .ended .suspended 0#32 ∧ (t.slot sid).aown = 0#64 ∧
      (t.cell (cellOfSlot sid)).puntyAt = none ∧ (∃ c ∈ t.conts, c.2.2 = recordAddr x) ∧ ∃ p, Due t (.continuationPlace p)) ∧
  (∀ (s : State) (sid : Nat) (b : Bool), (s.slot sid).status = .spilling b → Unburdened s sid →
    clockStop (s.cell (cellOfSlot sid)) = none → (s.slot sid).save ≠ 0#64 → puntyElsewhere s sid = true →
    ∃ t, exec (.puntySpill sid) s = .next t ∧ (t.slot sid).status = .spilling b ∧ Due t (.puntySpill sid) ∧ SameBytes s t) ∧
  (∀ (s : State) (sid : Nat), (s.slot sid).status = .spilling false → Unburdened s sid →
    clockStop (s.cell (cellOfSlot sid)) = none → (s.slot sid).save = 0#64 →
    ∃ t, exec (.puntySpill sid) s = .next t ∧ t.slot sid = { s.slot sid with status := .live } ∧ SameBytes s t) ∧
  (∀ (s s1 s2 s3 : State) (sid h img : Nat), (s.slot sid).status = .restoring → clockStop (s.cell (cellOfSlot sid)) = none →
    let x := s.slot sid
    let g := punty s sid (.puntyRestore sid)
    let word (v i : Nat) : Nat := v / 2 ^ (64 * i) % 2 ^ 64
    readVirt (selfInvalidate s g.die) g x.save 0x100 = (.val h, s1) → word h 8 = 0 → word img 8 = 0 → word img 13 = word h 13 →
      word img 14 = word h 14 →
    readVirt s1 g x.save (accsAt (word h 13) (word h 14 % 2 ^ 32)) = (.val img, s2) → putRecordState s2 g x 0 = (false, s3) →
    ∃ t, exec (.puntyRestore sid) s = .next t ∧
      let y := t.slot sid
      y.status = .live ∧ y.pc.toNat = word img 0 / 4 * 4 ∧ y.vfmt.toNat = word img 1 % 64 ∧ y.rmode.toNat = word img 2 % 8 ∧
      y.fflags.toNat = word img 3 % 32 ∧ y.greq.toNat = word img 4 % 4 ∧ y.cvmask.toNat = word img 5 / 2 * 2 ∧
      y.colr.toNat = word img 6 % 64 ∧ y.parklim.toNat = word img 7 % 2 ^ 32 ∧ y.tvec.toNat = word img 9 / 4 * 4 ∧
      y.tcause.toNat = word img 10 % 2 ^ 18 ∧ y.tepc.toNat = word img 11 ∧ y.tval.toNat = word img 12 ∧ y.unack = 0#64 ∧
        y.gen = x.gen ∧ y.tid = x.tid ∧
      ∀ r, 0 < r → r < x.ns → r < 64 → (word img 13).testBit r = true →
        (y.sval r).toNat = img / 2 ^ (8 * (0x100 + 8 * below (word img 13) r)) % 2 ^ 64 ∧ y.sF r = (word img 15).testBit r)

/-- R161, R162, R205: a slot that may be sent leaves with its registers, its old place suspended with a forwarding entry, its
target held under a generation one higher; at its arrival the target runs with the registers that were sent, under its own
generation; a forwarding entry loses V at the end of its life; a slot that has been removed too long moves to a free one, else is
spilled, else is restored and exempt until its exemption ends; while it is still being filled its time stays due. -/
def Obligations.MigrationsAndRemovals : Prop :=
  (∀ (s u v : State) (sid target i ms mv : Nat) (b : Bool), (s.slot sid).status = .moving target b → Unburdened s sid →
    clockStop (s.cell (cellOfSlot sid)) = none →
    let x := s.slot sid
    let s0 := (withdraw s sid).modSlot sid withoutCapture
    s0.slot sid = x → s0.slot target = s.slot target → canHold s0 target x.ns x.nv = true → puntyElsewhere s0 sid = false →
    moveReady s0 sid = true →
    freeFwd s0 (coreOf sid) = some i →
    putRecordState s0 (punty s0 sid (.migrationSend sid)) x 2 = (false, u) → u.slot sid = x →
    saveMasks (leaveDie u sid target) (punty u sid (.migrationSend sid)) x x.pc = ((ms, mv), v) →
    (∀ j, v.slot j = s0.slot j) → (v.core (coreOf sid)).fwd = (s0.core (coreOf sid)).fwd →
    isGaffer target = false →
    ∃ t, exec (.migrationSend sid) s = .next t ∧ (t.slot sid).status = .ended .suspended 0#32 ∧
      (t.slot target).status = .restoring ∧ (t.slot target).gen = (s.slot target).gen + 1#8 ∧
      (∃ c ∈ t.contexts, c.slot = contextSlot x ms mv ∧ c.slot.pc = x.pc ∧
        (∀ r, ms.testBit r = true → c.slot.sval r = x.sval r ∧ c.slot.sF r = x.sF r) ∧ c.osid = sid ∧ c.target = target ∧
          Due t (.migrationArrival c.id)) ∧
      ∃ f, (t.core (coreOf sid)).fwd[i]? = some f ∧ f.oslot = sid % 16 ∧ f.ogen = x.gen ∧ f.target = target ∧
        f.tgen = (s.slot target).gen + 1#8) ∧
  (∀ (s u : State) (c : Context), s.contexts.find? (fun q => q.id = c.id) = some c → accsFree s c.target c.slot.aown = true →
    (s.fabricOf (dieOf (cellOfSlot c.target))).step = none → clockStop (s.cell (cellOfSlot c.target)) = none →
    putRecordState s (punty s c.target (.migrationArrival c.id)) c.slot 0 = (false, u) → u.slot c.target = s.slot c.target →
    ∃ t, exec (.migrationArrival c.id) s = .next t ∧ (∀ q ∈ t.contexts, q.id ≠ c.id) ∧
      let y := t.slot c.target
      y.status = .live ∧ y.pc = c.slot.pc ∧ y.sreg = c.slot.sreg ∧ y.vreg = c.slot.vreg ∧ y.preg = c.slot.preg ∧
        y.sfull = c.slot.sfull ∧ y.gen = (s.slot c.target).gen ∧ y.tid = (s.slot c.target).tid ∧ y.park = none) ∧
  (∀ (s : State) (cell core n fc : Nat) (f : Fwd), (s.core (4 * cell + core)).fwd[n]? = some f → f.expires = fc →
    fc ≤ s.fcyc (dieOf ((4 * cell + core) / 4)) →
    ∃ t, exec (.forwardExpiry cell core n fc) s = .next t ∧
      (t.core (4 * cell + core)).fwd[n]? = some { f with expires := 0 } ∧ t.slots = s.slots ∧ SameBytes s t) ∧
  (∀ (s : State) (sid : Nat) (w : Word), (s.slot sid).removedAt = some w → (s.slot sid).status = .live →
    (s.gts.toNat < w.toNat + Config.removalBound →
      ∃ t, exec (.removalTimeout sid) s = .next t ∧ t.slot sid = s.slot sid ∧ SameBytes s t) ∧
    (w.toNat + Config.removalBound ≤ s.gts.toNat → clockStop (s.cell (cellOfSlot sid)) = none →
    (∀ target, freeTarget s (s.partN (cellOfSlot sid)) sid = some target →
      coreOf target ≠ coreOf sid ∧ s.holds (s.partN (cellOfSlot sid)) (cellOfSlot target) = true ∧
      ∃ t, exec (.removalTimeout sid) s = .next t ∧ t.slot sid = { s.slot sid with status := .moving target true } ∧
        Due t (.migrationSend sid) ∧ SameBytes s t) ∧
    (freeTarget s (s.partN (cellOfSlot sid)) sid = none → (s.slot sid).save ≠ 0#64 →
      ∃ t, exec (.removalTimeout sid) s = .next t ∧ t.slot sid = { s.slot sid with status := .spilling true } ∧
        Due t (.puntySpill sid) ∧ SameBytes s t) ∧
    (freeTarget s (s.partN (cellOfSlot sid)) sid = none → (s.slot sid).save = 0#64 →
      ∃ t, exec (.removalTimeout sid) s = .next t ∧ (t.slot sid).removedAt = none ∧ (t.slot sid).status = .live ∧
        (t.slot sid).exemptUntil = some (s.gts + BitVec.ofNat 64 Config.removalBound) ∧ SameBytes s t))) ∧
  (∀ (s : State) (sid : Nat) (w : Word), (s.slot sid).removedAt = some w → (s.slot sid).status = .restoring →
    ∃ t, exec (.removalTimeout sid) s = .next t ∧ t.slots = s.slots ∧ Turn.later (.removal sid) ∈ t.work) ∧
  (∀ (s : State) (sid : Nat) (w : Word), (s.slot sid).exemptUntil = some w → w.toNat ≤ s.gts.toNat →
    ∃ t, exec (.exemptionLapse sid) s = .next t ∧ (t.slot sid).exemptUntil = none ∧ SameBytes s t)

/-! ## Gears, clocks, power -/

/-- R196-R198, R201, R207: a cell in glory without a request starts to count its hold time, a request ends the count, a cell in
lehr with a request stops its clock at the next tick for a hop up; once the hold time is over, with the slope budget's answer, it
stops for the hop down; 320 ns after the stop the hop ends in the new gear, with the pair rewritten.
R179, R188-R191, R201, R204, R210-R212: a clock step ends at its time with the pair rewritten at the new frequency and the
removals as the cell's depth says; a die's fabric is evaluated at most once per 1 ms; a droop raises DROOPS up to 255 and begins a
stretch of at most 100 ns, unless one is in progress, and sets LATCH where the clock has stopped; its recovery ends the stretch,
and the first tick by which a stretch has ended rewrites the pair with the same frequency, the cycles of the stretch counted at
half the rate.
It rests on the model's own choices and readings too, notes/assumptions/14.md. -/
def Obligations.GearsAndClocks : Prop :=
  ((∀ (s : State) (cell : Nat), clockStop (s.cell cell) = none → Settled s cell →
    let g := (s.cell cell).gearState
    (g = .glory → ¬Wants s cell → ∃ t, exec (.gearEvaluate cell) s = .next t ∧ SameBytes s t ∧ t.slots = s.slots ∧
      (t.cell cell).gearState = .pendingFall s.gts ∧ (t.cell cell).gear.getLsbD 2 = false ∧
      Turn.later (.lhold cell (Config.slopeAnswer s.freeCtr)) ∈ t.work) ∧
    (∀ w, g = .pendingFall w → Wants s cell → ∃ t, exec (.gearEvaluate cell) s = .next t ∧ SameBytes s t ∧ t.slots = s.slots ∧
      (t.cell cell).gearState = .glory ∧ (t.cell cell).gear.getLsbD 2 = true) ∧
    (g = .lehr → Wants s cell → ∃ t, exec (.gearEvaluate cell) s = .next t ∧ SameBytes s t ∧ t.slots = s.slots ∧
      (t.cell cell).gearState = .hopUp (BitVec.ofNat 64 (nextTick s)) ∧ (t.cell cell).gear.getLsbD 1 = true ∧ Due t (.hopEnd cell)) ∧
    (g = .lehr → ¬Wants s cell → ∃ t, exec (.gearEvaluate cell) s = .next t ∧ SameBytes s t ∧ (t.cell cell).gearState = .lehr) ∧
    (∀ w, g = .pendingFall w → ¬Wants s cell → w.toNat + Config.lhold ≤ s.gts.toNat →
      (∃ t, exec (.lholdExpiry cell true) s = .next t ∧ (t.cell cell).gearState = .hopDown (BitVec.ofNat 64 (nextTick s)) ∧
        (t.cell cell).gear.getLsbD 1 = true ∧ Due t (.hopEnd cell) ∧ SameBytes s t) ∧
      ∃ t, exec (.lholdExpiry cell false) s = .next t ∧ (t.cell cell).gearState = .pendingFall w)) ∧
  (∀ (s : State) (cell : Nat) (w : Word) (up : Bool), (s.cell cell).gearState = (if up then .hopUp w else .hopDown w) →
    w.toNat + Config.hopTime ≤ s.gts.toNat →
    let f := if up then 24 + 2 * ((s.cell cell).oppt.toNat % 16) else 6 + (s.cell cell).oppt.toNat / 16 % 16
    ∃ t, exec (.hopEnd cell) s = .next t ∧ SameBytes s t ∧ DepthStands s t cell ∧
      (t.cell cell).gearState = (if up then .glory else .lehr) ∧ (t.cell cell).gear.getLsbD 0 = up ∧
      (t.cell cell).gear.getLsbD 1 = false ∧ PairIs s t (cellPair cell) (w.toNat + Config.hopTime) (s.ccyc cell) f)) ∧
  ((∀ (s : State) (cell f : Nat) (w : Word), (s.cell cell).droop.step = some (w, f) → w.toNat ≤ s.gts.toNat →
    ∃ t, exec (.clockStepEnd false cell) s = .next t ∧ SameBytes s t ∧ DepthStands s t cell ∧ (t.cell cell).droop.step = none ∧
      PairIs s t (cellPair cell) w.toNat (s.ccyc cell) f) ∧
  (∀ (s : State) (d f : Nat) (w : Word), (s.fabricOf d).step = some (w, f) → w.toNat ≤ s.gts.toNat →
    ∃ t, exec (.clockStepEnd true d) s = .next t ∧ SameBytes s t ∧ t.slots = s.slots ∧ (t.fabricOf d).step = none ∧
      PairIs s t (fabricPair d) w.toNat (s.fcyc d) f) ∧
  (∀ (s : State) (d : Nat), (s.fabricOf d).step = none →
    ((∃ q ∈ (s.fabricOf d).recent, s.gts.toNat < q.1.toNat + 1000000) → exec (.fabricOpEval d) s = .next s) ∧
    ((∀ q ∈ (s.fabricOf d).recent, q.1.toNat + 1000000 ≤ s.gts.toNat) → s.slots = [] →
      ((s.reg (fabricPair d + 0x10)).toNat % 256 = 20 →
        ∃ t, exec (.fabricOpEval d) s = .next t ∧ (t.fabricOf d).recent = [(s.gts, none)] ∧ (t.fabricOf d).step = none) ∧
      ((s.reg (fabricPair d + 0x10)).toNat % 256 ≠ 20 →
        ∃ t, exec (.fabricOpEval d) s = .next t ∧ (t.fabricOf d).step = some (BitVec.ofNat 64 (nextTick s + 80), 20) ∧
          Due t (.clockStepEnd true d)))) ∧
  (∀ (s : State) (cell : Nat), clockStop (s.cell cell) = none → (s.cell cell).droop.recent = [] →
    ∃ t, exec (.droop cell) s = .next t ∧ SameBytes s t ∧ t.slots = s.slots ∧
      ((s.cell cell).droop.stretch = [] → (t.cell cell).droop.stretch = [(s.gts, s.gts + 100#64)]) ∧
      ((∃ q ∈ (s.cell cell).droop.stretch, q.1.toNat ≤ s.gts.toNat ∧ s.gts.toNat < q.2.toNat) →
        (t.cell cell).droop.stretch = (s.cell cell).droop.stretch) ∧
      (t.reg (powerOff cell + 0x18)).toNat % 256 = min 255 ((s.reg (powerOff cell + 0x18)).toNat % 256 + 1) ∧
      (t.reg (powerOff cell + 0x18)).getLsbD 8 = (s.reg (powerOff cell + 0x18)).getLsbD 8) ∧
  (∀ (s : State) (cell u : Nat), clockStop (s.cell cell) = some u → (s.cell cell).droop.recent = [] →
    ∃ t, exec (.droop cell) s = .next t ∧ SameBytes s t ∧ t.slots = s.slots ∧
      (t.reg (powerOff cell + 0x18)).toNat % 256 = min 255 ((s.reg (powerOff cell + 0x18)).toNat % 256 + 1) ∧
      ((t.reg (powerOff cell + 0x18)).getLsbD 8 = true ↔
        (s.reg (powerOff cell + 0x18)).getLsbD 8 = true ∨ u ≤ s.gts.toNat)) ∧
  (∀ (s : State) (cell : Nat) (w e : Word), (s.cell cell).droop.stretch = [(w, e)] → clockStop (s.cell cell) = none →
    let pair := cellPair cell
    let g0 := (s.reg pair).toNat
    let f := (s.reg (pair + 0x10)).toNat % 256
    (w.toNat ≤ s.gts.toNat → s.gts.toNat < e.toNat →
      ∃ t, exec (.droopRecovery cell) s = .next t ∧ SameBytes s t ∧ t.slots = s.slots ∧
        (s.gts.toNat % 10 = 0 → (t.cell cell).droop.stretch = [] ∧ PairIs s t pair s.gts.toNat (s.ccyc cell) f) ∧
        (s.gts.toNat % 10 ≠ 0 → (t.cell cell).droop.stretch = [(w, s.gts)] ∧ t.regs = s.regs)) ∧
    (g0 ≤ w.toNat → w.toNat ≤ e.toNat →
      let tick := (e.toNat + 9) / 10 * 10
      tick ≤ s.gts.toNat →
      let t := settleStretch s cell
      (t.cell cell).droop.stretch = [] ∧
        PairIs s t pair tick ((s.reg (pair + 8)).toNat + (tick - g0 - (e.toNat - w.toNat) / 2) * f / 10) f)))

/-- R204, R206, R208, R209, R213: a sample gives PMEAS the mean of the last 100 samples and the current; the window in which
ballast alone lifts the mean above the cap is an overdraw window, in which no depth changes, and from the next one the cap wins
until the mean has come down to it; else with the mean above the cap the cell of the highest measured power, ties to the lowest
logical cell, goes one deeper, and no cell by more than one; with the mean below 95 % of the cap one cell is relieved by one, in
the reverse order; else no depth changes. A cell's depth removes its highest servitor slots that are not exempt. AGEMON takes the
sampled slack and keeps the least.
It rests on the model's own choices and readings too, notes/assumptions/14.md. -/
def Obligations.PowerSamples : Prop :=
  ∀ (s : State) (w a ballast deepen : Nat) (cells : List CellSample), (∀ x ∈ cells, x.cell < 960) →
    let all := s.samples ++ [w]
    let kept := all.drop (all.length - 100)
    let mean := kept.sum / kept.length
    let cap := min 6000 ((s.reg 0x40130000).toNat % 65536)
    let depth (t : State) (c : Nat) : Nat := (t.reg (powerOff c)).toNat % 16
    let slope := cap < mean ∧ (kept.sum - ballast) / kept.length ≤ cap ∧ s.capWins = false
    let among (x : CellSample) : Prop := x ∈ cells ∧ (s.partOf x.cell).isSome = true
    ∃ t, exec (.powerSample w a ballast deepen cells) s = .next t ∧ SameBytes s t ∧ t.samples = kept ∧
      (t.capWins = true ↔ cap < mean ∧ (slope ∨ s.capWins = true)) ∧
      (slope → t.reg 0x40130008 = BitVec.ofNat 64 (min 0xFFFF mean + 65536 * min 0xFFFF a + 2 ^ 32)) ∧
      (¬slope → t.reg 0x40130008 = BitVec.ofNat 64 (min 0xFFFF mean + 65536 * min 0xFFFF a)) ∧
      (slope ∨ mean ≤ cap ∧ 95 * cap ≤ 100 * mean → ∀ c < 960, depth t c = depth s c) ∧
      (cap < mean → ∀ c < 960, depth t c = depth s c ∨ depth t c = depth s c + 1) ∧
      (¬slope → cap < mean → ∀ x, among x → depth s x.cell < 15 →
        (∀ y, among y → depth s y.cell < 15 → y ≠ x → Hotter s x y) →
        depth t x.cell = depth s x.cell + 1 ∧
          (deepen = 0 → (∀ c < 960, c ≠ x.cell → depth t c = depth s c) ∧
            (clockStop (s.cell x.cell) = none → DepthStands s t x.cell))) ∧
      (100 * mean < 95 * cap → mean ≤ cap → ∀ x, among x → depth s x.cell ≠ 0 →
        (∀ y, among y → depth s y.cell ≠ 0 → y ≠ x → Hotter s y x) →
        depth t x.cell = depth s x.cell - 1 ∧ (∀ c < 960, c ≠ x.cell → depth t c = depth s c) ∧
          (clockStop (s.cell x.cell) = none → DepthStands s t x.cell)) ∧
      ∀ x, cells = [x] → (t.reg (powerOff x.cell + 0x10)).toNat % 65536 = min 0xFFFF x.slack ∧
        (t.reg (powerOff x.cell + 0x10)).toNat / 65536 % 65536 = min (min 0xFFFF x.slack) ((s.reg (powerOff x.cell + 0x10)).toNat
          / 65536 % 65536)

/-! ## Privileged registers -/

/-- R106, R140, R166-R168, R178, R206, R213, R215, R216, R219: what a write of each of these registers leaves: the bits that the
register's table makes RW take the value's, the others stay; LQTAIL, LQBASE and LQSIZE take nothing where R140 forbids it, ASIDTB
and CASID nothing from a writer without the right; BRET with REQ begins a retirement; CEIL has its cell evaluated, AGEMON's CLR
restores WORST. What the host writes through BAR0 takes nothing while the link is down.
It rests on the model's own choices and readings too, notes/assumptions/13.md and notes/assumptions/19.md. -/
def Obligations.RegisterWrites : Prop :=
  (∀ (s : State) (b : Writer) (p q : Nat) (v : Word), reaches s b = true → p < 16 → q < 8 →
    let room := (v.toNat % 65536 + 65536 - lqHead s p q) % 65536 ≤ lqLen s p q
    (lqDev s p q = false → room → ∃ t, exec (.lqtailWrite b p q v) s = .next t ∧ lqTail t p q = v.toNat % 65536 ∧
      Due t (.launchRead p)) ∧
    (lqDev s p q = true ∨ ¬room → exec (.lqtailWrite b p q v) s = .next s) ∧
    (lqEnabled s p q = false → ∃ t, exec (.lqsizeWrite b p q true v) s = .next t ∧
      lqBase t p q = (v &&& ~~~63#64 ||| s.reg (lqOff p q) &&& 63#64).toNat) ∧
    (lqEnabled s p q = true → exec (.lqsizeWrite b p q true v) s = .next s) ∧
    (lqEnabled s p q = false ∨ v &&& 0x3F#64 = s.reg (lqOff p q + 8) &&& 0x2F#64 →
      ∃ t, exec (.lqsizeWrite b p q false v) s = .next t ∧
        t.reg (lqOff p q + 8) = v &&& 0x3F#64 ||| s.reg (lqOff p q + 8) &&& ~~~0x3F#64) ∧
    (lqEnabled s p q = true → v &&& 0x3F#64 ≠ s.reg (lqOff p q + 8) &&& 0x2F#64 → exec (.lqsizeWrite b p q false v) s = .next s)) ∧
  (∀ (s : State) (b : Writer) (d g k : Nat) (v : Word), reaches s b = true → d < 4 →
    bits v 3 0 = g → bits v 9 4 = k → v.getLsbD 10 = true →
    (remapState s d g k ≠ 0 → ∃ t, exec (.bretWrite b d v) s = .next t ∧ SameBytes s t ∧
      t.reg (dieBase d + 0x5008) = s.reg (dieBase d + 0x5008) ||| 4#64) ∧
    (remapState s d g k = 0 → (s.reg (dieBase d + 0x5008)).getLsbD 0 = false → s.holes = [] → freeSpare s d g ≠ none →
      ∃ t, exec (.bretWrite b d v) s = .next t ∧ SameBytes s t ∧ remapState t d g k = 1 ∧
        (t.reg (dieBase d + 0x5008)).getLsbD 0 = true ∧ bits (t.reg (dieBase d + 0x5008)) 14 3 = 0) ∧
    (remapState s d g k = 0 → (s.reg (dieBase d + 0x5008)).getLsbD 0 = false → s.holes = [] → freeSpare s d g = none →
      ∃ t, exec (.bretWrite b d v) s = .next t ∧ SameBytes s t ∧ (t.reg (dieBase d + 0x5008)).getLsbD 1 = true ∧
        t.holes = [(d, g, k)])) ∧
  (∀ (s : State) (b : Writer) (n : Nat) (v : Word), reaches s b = true → n < 4096 →
    ∃ t, exec (.optableWrite b n v) s = .next t ∧ SameBytes s t ∧
    let off := 0x40200000 + 16 * n
    (v.getLsbD 33 = true → t.reg off = v &&& 0x3FFFFFFFFFFF#64 ||| s.reg off &&& ~~~0x3FFFFFFFFFFF#64) ∧
    (v.getLsbD 33 = false → t.reg off = v &&& 0x3FFFFFFFF#64 ||| s.reg off &&& ~~~0x3FFFFFFFF#64)) ∧
  (∀ (s : State) (b : Writer) (d : Nat) (v : Word), reaches s b = true → d < 4 →
    (writerOnDie b s d = true → ∃ t, exec (.asidtbWrite b d v) s = .next t ∧ SameBytes s t ∧
      t.reg (dieBase d + 0xB000) = v &&& 0xFFFFFFFFF0001#64 ||| s.reg (dieBase d + 0xB000) &&& ~~~0xFFFFFFFFF0001#64) ∧
    (writerOnDie b s d = false → exec (.asidtbWrite b d v) s = .next s)) ∧
  (∀ (s : State) (b : Writer) (cell : Nat) (v : Word), reaches s b = true → cell < 960 →
    let fits := ∃ p, s.partOf cell = some p ∧ s.asidLo p ≤ v.toNat % 8192 ∧ v.toNat % 8192 ≤ s.asidHi p ∧ (b = .host ∨ b = .part p)
    (fits → ∃ t, exec (.casidWrite b cell v) s = .next t ∧ SameBytes s t ∧ t.casid cell = v.toNat % 8192) ∧
    (¬fits → exec (.casidWrite b cell v) s = .next s)) ∧
  (∀ (s : State) (b : Writer) (p : Nat) (v : Word), reaches s b = true → p < 16 →
    ∃ t, exec (.pctlWrite b p v) s = .next t ∧ SameBytes s t ∧
    t.stopped p = v.getLsbD 0 ∧ t.ageLimit p = 1000 * (v.toNat / 256 % 65536) ∧ Due t (.launchRead p)) ∧
  (∀ (s : State) (b : Writer) (cell : Nat) (v : Word), reaches s b = true → cell < 960 →
    (∃ t, exec (.ceilWrite b cell v) s = .next t ∧ SameBytes s t ∧
      t.reg (powerOff cell + 8) = v &&& 0xFF#64 ||| s.reg (powerOff cell + 8) &&& ~~~0xFF#64 ∧ Due t (.gearEvaluate cell)) ∧
    (v.getLsbD 32 = true → ∃ t, exec (.agemonClr b cell v) s = .next t ∧ SameBytes s t ∧
      t.reg (powerOff cell + 0x10) = s.reg (powerOff cell + 0x10) ||| 0xFFFF0000#64) ∧
    (v.getLsbD 32 = false → exec (.agemonClr b cell v) s = .next s)) ∧
  (∀ (s : State) (b : Writer) (v : Word), reaches s b = true → ∃ t, exec (.prailWrite b v) s = .next t ∧ SameBytes s t ∧
    t.reg 0x40130010 = v &&& 0xFFFF#64 ||| s.reg 0x40130010 &&& ~~~0xFFFF#64) ∧
  (∀ (s : State) (p q d n c off : Nat) (base : Bool) (v : Word), s.linkUp = false →
    ∀ i ∈ [Instr.lqtailWrite .host p q v, .lqsizeWrite .host p q base v, .bretWrite .host d v, .optableWrite .host n v,
        .asidtbWrite .host d v, .casidWrite .host c v, .pctlWrite .host p v, .ceilWrite .host c v, .agemonClr .host c v,
        .prailWrite .host v, .fqdoneWrite .host p v, .keyDiscard .host n v, .registerWrite .host off v],
      exec i s = .next s)

/-- R3, R112, R181, R183, R184, R194, R379: a write of a privileged register by its offset: a partition entry and an interleave
descriptor take nothing while committed, or named by a committed entry, else their RW bits; a performance count takes 48 bits; OVF
is cleared by writing 1; the discard of a key takes PRESENT away and makes what the key had encrypted unreadable, and no line read
or written under it stays in a cache; an offset that names no register takes nothing.
It rests on the model's own choices and readings too, notes/assumptions/13.md, notes/assumptions/19.md and
notes/assumptions/46.md. -/
def Obligations.PrivilegedWrites : Prop :=
  (∀ (s : State) (b : Writer) (p w : Nat) (v : Word), reaches s b = true → p < 16 → w < 20 →
    let off := 0x40100000 + 0x100 * p + 8 * w
    (s.committed p = true → exec (.registerWrite b off v) s = .next s) ∧
    (s.committed p = false → ∃ t, exec (.registerWrite b off v) s = .next t ∧ SameBytes s t ∧
      (w = 0 → t.reg off = v &&& 0x3FFFFFFFFFFFFF03#64 ||| s.reg off &&& 0xC0000000000000FC#64) ∧
      (w = 1 → t.reg off = v &&& 0xFFFFFF#64 ||| s.reg off &&& ~~~0xFFFFFF#64) ∧
      (w = 2 → t.reg off = v) ∧ (w = 3 → t.reg off = s.reg off) ∧ (4 ≤ w → w % 4 ≠ 3 → t.reg off = v) ∧
      (4 ≤ w → w % 4 = 3 → t.reg off = v &&& 0xFFFFFFFFFFFF#64 ||| s.reg off &&& ~~~0xFFFFFFFFFFFF#64) ∧
      ∀ o, o ≠ off → t.reg o = s.reg o)) ∧
  (∀ (s : State) (b : Writer) (n w : Nat) (v : Word), reaches s b = true → n < 16 → w < 4 →
    let off := 0x40110000 + 0x20 * n + 8 * w
    ((∃ p < 16, s.committed p = true ∧ s.ilv p = n) → exec (.registerWrite b off v) s = .next s) ∧
    ((∀ p < 16, s.committed p = true → s.ilv p ≠ n) → ∃ t, exec (.registerWrite b off v) s = .next t ∧ SameBytes s t ∧
      (w = 0 → t.reg off = v &&& 0xFFFF#64 ||| s.reg off &&& ~~~0xFFFF#64) ∧
      (w = 2 → t.reg off = v &&& 0xFFFFFFFFFFFFF#64 ||| s.reg off &&& ~~~0xFFFFFFFFFFFFF#64) ∧
      (w = 1 ∨ w = 3 → t.reg off = v) ∧ ∀ o, o ≠ off → t.reg o = s.reg o)) ∧
  (∀ (s : State) (b : Writer) (d n : Nat) (v : Word), reaches s b = true → d < 4 → n < 8 →
    let off := dieBase d + 0x20000 + 8 * n
    ∃ t, exec (.registerWrite b off v) s = .next t ∧ SameBytes s t ∧ (t.reg off).toNat % 256 = v.toNat % 256 ∧
      (t.reg off).getLsbD 8 = ((s.reg off).getLsbD 8 && !v.getLsbD 8) ∧ ∀ o, o ≠ off → t.reg o = s.reg o) ∧
  (∀ (s : State) (b : Writer) (d n : Nat) (v : Word), reaches s b = true → d < 4 → n < 8 →
    ∃ t, exec (.registerWrite b (dieBase d + 0x20040 + 8 * n) v) s = .next t ∧
      (t.reg (dieBase d + 0x20040 + 8 * n)).toNat % 2 ^ 48 = v.toNat % 2 ^ 48) ∧
  (∀ (s : State) (b : Writer) (off : Nat) (v : Word), 0x50000000 ≤ off → exec (.registerWrite b off v) s = .next s) ∧
  (∀ (s : State) (b : Writer) (n : Nat) (v : Word), reaches s b = true → n < 256 →
    let owner := (s.reg (keyReg n)).toNat / 4 % 16
    (v.getLsbD 1 = true → (b = .host ∨ b = .part owner) → (∀ f ∈ s.forwards, f.key ≠ n) → s.material n ≤ s.nextId →
      s.keyPresent n = true ∨ (FMap.find? s.keyMat n).isSome = true →
      ∃ t, exec (.keyDiscard b n v) s = .next t ∧ SameBytes s t ∧ t.keyPresent n = false ∧ t.material n ≠ s.material n ∧
        (∀ line, isSystem (128 * line) = false → FMap.find? s.lineKey line = some (s.material n) → decrypts t line n = false) ∧
        (∀ l ∈ t.lines, l.key ≠ n) ∧ ∀ r ∈ t.replicas, r.key ≠ n) ∧
    (v.getLsbD 1 = false ∨ (b ≠ .host ∧ b ≠ .part owner) → exec (.keyDiscard b n v) s = .next s))

/-! ## A slot's own steps; the package -/

/-- R4, R80, R83, R281: a deferred trap is taken with DEFER set; a park that ends by itself ends, and the slot issues the same
instruction again; the instruction whose request was refused issues again from its start, and its request goes to its owner again,
unless a deferred trap is to be taken first: then the request is withdrawn.
R150, R151, R153, R316: a task that has stopped and owes nothing gets its final status, its claims go, and the join word that its
argument names counts it: the low half falls by 1, and a count of 0 fills the word; a grant lets the gaffers that wait for
registers try again; a kill stops its slot, unless the slot has a final status or another generation.
It rests on the model's own choices and readings too, notes/assumptions/33.md and notes/assumptions/49.md. -/
def Obligations.SlotStepsAndEnds : Prop :=
  ((∀ (s : State) (d : Deferred), (here s).deferred = some d → d.cause < 256 → d.detail < 256 →
    ∃ t, exec .deferredTrap s = .next t ∧ SameBytes s t ∧ OtherSlots s t ∧ (here t).deferred = none ∧
      (here t).tcause = BitVec.ofNat 64 (d.cause + 256 * d.detail + 0x30000) ∧ (here t).tepc = (here s).pc ∧
      (here t).tval = d.tval ∧
      ((here s).tcause.getLsbD 16 = false → (here s).tvec ≠ 0#64 → (here t).pc = (here s).tvec &&& ~~~3#64 ∧
        (here t).status = (here s).status)) ∧
  (∀ (s : State) (p : Park), (here s).park = some p →
    (p = .mqueue ∨ p = .cqueue ∨ p = .lock ∨ p = .ring ∨ p = .commons ∨ p = .launch ∨ p = .fork ∨ p = .vqueue →
      ∃ t, exec .parkResume s = .next t ∧ here t = { here s with park := none } ∧ OtherSlots s t ∧ SameBytes s t) ∧
    (p = .fault ∨ p = .wfi ∨ p = .unack ∨ p = .pool ∨ p = .refused ∨ (∃ w, p = .barrier w) → exec .parkResume s = .next s)) ∧
  (∀ (s : State) (a : Access) (sid : Nat) (gen : BitVec 8) (pc : Word) (dst : Option Nat) (f counts : Bool) (cons : List Nat),
    (here s).park = some .refused → s.flight.find? (fun b => b.stage = .held && b.slotOf s = some s.cur) = some a →
    a.src = .slot sid gen pc dst f cons counts →
    ((here s).deferred ≠ none → ∃ t, exec .refusedRetry s = .next t ∧ here t = { here s with park := none } ∧
      (∀ b ∈ t.flight, b.id ≠ a.id) ∧ SameBytes s t) ∧
    ((here s).deferred = none → (counts = true → (here s).unack ≠ 0xFFFF#64) →
      let issued (t : State) : Prop := (here t).park = none ∧ (here t).pc = (here s).pc + 4#64 ∧ (here t).await = some a.id ∧
        (here t).unack = (if counts then (here s).unack + 1#64 else (here s).unack) ∧ (∀ d, dst = some d → d < 64 → d ≠ 0 →
          (here t).sF d = false) ∧
        SameBytes s t
      (∀ o, spaceOf s a.cell a.va = .own o → ∃ t b n, exec .refusedRetry s = .next t ∧ issued t ∧ t.findAccess a.id = some b ∧
        b.stage = .wheel a.cell (a.core % 4) ∧ b.op = a.op ∧ b.va = a.va ∧ Due t (.localPairing a.cell (a.core % 4) n)) ∧
      (∀ c o, spaceOf s a.cell a.va = .remote c o → ∃ t b, exec .refusedRetry s = .next t ∧ issued t ∧ t.findAccess a.id = some b ∧
        b.stage = .lattice c ∧ b.op = a.op ∧ b.va = a.va ∧ Due t (.remoteAccessArrival a.id)))) ∧
  (∀ (s : State) (m : Message), (here s).park = some .refused → (∀ b ∈ s.flight, b.stage ≠ .held) → (here s).deferred = none →
    s.messages.find? (fun q => q.sid = s.cur && decide (q.answer = some Verdict.refused)) = some m →
    ∃ t, exec .refusedRetry s = .next t ∧ (here t).park = none ∧ (here t).pc = (here s).pc + 4#64 ∧ (here t).await = some m.id ∧
      (∀ q ∈ t.messages, q.id = m.id → q.answer = none) ∧ Due t (.messageArrival m.id) ∧ SameBytes s t)) ∧
  ((∀ (s u : State) (sid v : Nat) (f : Final) (info : BitVec 32), (s.slot sid).status = .ending f info →
    (s.slot sid).deferred = none → endWaits s sid f = false → clockStop (s.cell (cellOfSlot sid)) = none →
    let s' := s.setSlot sid (s.slot sid)
    readVirt s' { part := s.partN (cellOfSlot sid), die := dieOf (cellOfSlot sid), asid := s.casid (cellOfSlot sid), kind := 0
                  source := globalPos (coreOf sid), again := .event (.taskEnd sid) } (s.slot sid).targ 8 = (.val v, u) →
    (∀ j, u.slot j = s.slot j) →
    (v = 0 → ∃ t, exec (.taskEnd sid) s = .next t ∧ (t.slot sid).status = .ended f info ∧ (t.slot sid).aown = 0#64 ∧
      (t.slot sid).gen = (s.slot sid).gen) ∧
    (∀ c o, f = .ok → v < 2 ^ 64 → v / 2 ^ 48 = 0xFF01 → v % 8 = 0 → o = v % 2 ^ 48 % 0x200000 →
      u.cellAt (s.partN (cellOfSlot sid)) (v % 2 ^ 48 / 0x200000) = some c → PlainAt u c o 8 →
      let w := localRead u c o 8
      w % 2 ^ 32 ≠ 0 → w < 2 ^ 63 →
      ∃ t, exec (.taskEnd sid) s = .next t ∧ (t.slot sid).status = .ended .ok info ∧ localRead t c o 8 = w - 1 ∧
        fullAt t c o = (if w % 2 ^ 32 = 1 then true else fullAt u c o))) ∧
  (∀ (s : State) (cell : Nat), ∃ t, exec (.poolGrant cell) s = .next t ∧ SameBytes s t ∧
    (∀ w ∈ (s.cell cell).startWait, (t.slot w.gaffer).park ≠ some .pool) ∧
    ∀ j, (∀ w ∈ (s.cell cell).startWait, w.gaffer ≠ j) → t.slot j = s.slot j) ∧
  (∀ (s : State) (g : BitVec 8), (here s).killReq = some g →
    ((here s).gen ≠ g ∨ (here s).isLive = false →
      ∃ t, exec .killEffect s = .next t ∧ here t = { here s with killReq := none } ∧ SameBytes s t ∧ OtherSlots s t) ∧
    ((here s).gen = g → (here s).status = .live → (∀ c ∈ s.contexts, c.target ≠ s.cur) →
      ∃ t, exec .killEffect s = .next t ∧ (here t).status = .ending .killed 0#32 ∧ (here t).spend = 0#64 ∧
        (here t).vpend = 0#32 ∧ (here t).ppend = 0#8 ∧ (here t).park = none ∧ Due t (.taskEnd s.cur) ∧ SameBytes s t)))

/-- R84, R214, R216, R222-R224: the link's coming up and going down, a replayed flit, an error in a register, standby, boot with
and without a verified image, and the attestation report.
R19, R187: a die reset empties the die's slots and queues, leaves its commons and all of physical memory, makes its cells' local
memories zero and their frames of zero class, restarts its counters at GTS, and starts the gaffers of the cells that committed
partitions hold; the other dies keep their slots and cells.
It rests on the model's own choices and readings too, notes/assumptions/13.md, notes/assumptions/21.md, notes/assumptions/71.md,
notes/assumptions/73.md, notes/assumptions/74.md and notes/assumptions/78.md. -/
def Obligations.PackageAndReset : Prop :=
  ((∀ (s : State) (n : Nat), n = 8 ∨ n = 16 ∨ n = 32 → ∃ t, exec (.linkUp n) s = .next t ∧ SameBytes s t ∧ t.linkUp = true ∧
    (t.reg 0x40140000).toNat % 64 = n) ∧
  (∀ (s : State), s.linkUp = true → ∃ t, exec .linkDown s = .next t ∧ SameBytes s t ∧ t.linkUp = false ∧
    (t.reg 0x40140000).toNat % 64 = 0 ∧ (t.reg 0x40140000).getLsbD 7 = true) ∧
  (∀ (s : State), s.linkUp = true → ∃ t, exec .flitReplay s = .next t ∧ SameBytes s t ∧
    (t.reg 0x40140000).toNat / 256 % 65536 = min 0xFFFF ((s.reg 0x40140000).toNat / 256 % 65536 + 1)) ∧
  (∀ (s : State) (sid r : Nat), r < 64 → ∃ t, exec (.uncorrectableError (.sreg sid r)) s = .next t ∧
    (t.slot sid).serr.getLsbD r = true ∧ (t.slot sid).sreg = (s.slot sid).sreg ∧ (∀ j, j ≠ sid → t.slot j = s.slot j) ∧
    SameBytes s t) ∧
  (∀ (s : State) (cell w : Nat), ∃ t, exec (.uncorrectableError (.loc cell w)) s = .next t ∧ .loc cell w ∈ t.errs ∧ t.slots = s.slots ∧
    SameBytes s t) ∧
  (∀ (s : State), exec .standby s = .next { s with powered := false }) ∧
  (∀ (s : State) (time : Word) (svn : BitVec 8) (digest : List Word) (map : List (Nat × Word)),
    s.powered = false ∨ bits (s.reg 0x40160000) 2 1 = 0 →
    (∃ t, exec (.powerUpBoot false time svn digest map) s = .next t ∧ t.powered = true ∧ t.slots = [] ∧ t.cells = [] ∧
      t.reg 0x40160000 = BitVec.ofNat 64 (4 + 65536 * Config.fusedMinimum.toNat) ∧
      (∀ p < 16, t.committed p = false)) ∧
    (Config.fusedMinimum.toNat ≤ svn.toNat → ∃ t, exec (.powerUpBoot true time svn digest []) s = .next t ∧ t.powered = true ∧
      t.gts = time ∧ t.reg 0x40160000 = BitVec.ofNat 64 (2 + 256 * svn.toNat + 65536 * Config.fusedMinimum.toNat) ∧
      ∀ i < 6, t.reg (0x40160010 + 8 * i) = getAt 0#64 digest i)) ∧
  (∀ (s : State) (time : Word) (svn : BitVec 8) (digest : List Word), (s.reg 0x40160000).getLsbD 2 = true → s.linkUp = true →
    (∀ p < 16, s.partValid p = false) →
    (Config.fusedMinimum.toNat ≤ svn.toNat → ∃ t, exec (.hostImageSupply true time svn digest []) s = .next t ∧ t.gts = time ∧
      t.reg 0x40160000 = BitVec.ofNat 64 (3 + 256 * svn.toNat + 65536 * Config.fusedMinimum.toNat)) ∧
    exec (.hostImageSupply false time svn digest []) s = .next s) ∧
  (∀ (s : State) (nonce : List Byte), ∃ t, exec (.attestationReport nonce) s = .next t ∧ SameBytes s t ∧ t.slots = s.slots ∧
    t.report.length = 48 + 8 + 2560 + 48 + 96 ∧ ∀ i < 48, getAt 0#8 t.report (2616 + i) = getAt 0#8 nonce i)) ∧
  (∀ (s : State) (d : Nat), d < 4 → ∃ t, exec (.dieReset d) s = .next t ∧ t.phys = s.phys ∧ t.commonsOf d = s.commonsOf d ∧
    (∀ c, c / 240 ≠ d → t.cell c = s.cell c) ∧
    (∀ c, c / 240 = d → (t.cell c).mem = [] ∧ ∀ f, (Loc.entry (t.cell c) f).cls = .zero) ∧
    (∀ sid, sid / 64 / 240 ≠ d → t.slot sid = s.slot sid) ∧
    (∀ sid, sid / 64 / 240 = d → (∀ p < 16, s.committed p = false) → t.slot sid = Slot.init) ∧
    (∀ p c k, p < 16 → s.committed p = true → c < 960 → c / 240 = d → c ∈ s.partCells p → (∀ q < 16, q ≠ p →
      s.committed q = true → c ∉ s.partCells q) →
      k < 4 → let x := t.slot (16 * (4 * c + k))
      x.status = .live ∧ x.pc = Config.runtimeEntry ∧ x.ns = 32 ∧ x.nv = 0 ∧ x.gen = 0#8 ∧ x.colr = BitVec.ofNat 64 (s.colLo p)) ∧
    (∀ core, core / 4 / 240 = d → (∀ p < 16, s.committed p = false) → t.core core = Core.init) ∧
    t.reg (dieBase d + 0x6000) = s.gts ∧ t.reg (dieBase d + 0x6008) = 0#64 ∧
    t.reg (dieBase d + 0x2000) = 0#64 ∧ t.reg (dieBase d + 0x2008) = 0#64 ∧ t.gts = s.gts)

/-! ## Encoding, decoding, steps, memory -/

/-- R225-R244: every instruction that the encodings allow, with every value of its operands, is read back from the word that they
give it, and the same of every command. -/
def Obligations.DecodeEncode : Prop :=
  (∀ (i : Instr) (w : BitVec 32), i.legality = none → encode i = some w → decode w = .ok i) ∧
  (∀ (i : Instr) (c : CmdWord), decodeCommand c = some i → encodeCommand i = some c)

/-- R225-R244: a word that is an instruction is the word of that instruction alone: no bit of it is passed over, and no reserved
value of a field is taken. -/
def Obligations.EncodeDecode : Prop :=
  ∀ (i : Instr) (w : BitVec 32), decode w = .ok i → encode i = some w ∧ i.legality = none

/-- R226-R239, R243: words written out from the spec's encodings, one of each layout, are the instructions that they stand for; a
word of an unused major opcode, one with a zero field that is not zero, and one with a reserved format source are rejected, each
by its name. -/
def Obligations.DecodeWords : Prop :=
  decode 0b000001_000011_000001_000010_1_0_000000#32 = .ok (.add 3#6 1#6 2#6 true false) ∧
  decode 0b000010_000100_000101_0_1111111111111#32 = .ok (.addi 4#6 5#6 false 0x1FFF#13) ∧
  decode 0b001001_000111_10000000000000000001#32 = .ok (.lui 7#6 0x80001#20) ∧
  decode 0b001100_000001_000010_001_11111111110#32 = .ok (.bNe 1#6 2#6 0x7FE#11) ∧
  decode 0b001101_00000000000000000000000011#32 = .ok (.j 3#26) ∧
  decode 0b010000_000110_000001_11_0_00000000010#32 = .ok (.ld 6#6 1#6 3#2 false 2#11) ∧
  decode 0b010011_000010_000011_1_0000_1_1_0_011_000#32 = .ok (.amoAdd 2#6 3#6 true true true false 3#3) ∧
  decode 0b100000_00001_00010_00011_000_00_000000#32 = .ok (.vadd 0#3 1#5 2#5 3#5 0#3 0#2) ∧
  decode 0b111110_000101_000000_00000000000001#32 = .ok (.csrr 5#6 1#14) ∧
  decode 0b000000_00000000000000000000000000#32 = .error .encoding ∧
  decode 0b111111_00000000000000000000000011#32 = .ok .eret ∧
  decode 0x246FFFFF#32 = .ok (.lui 6#6 0xFFFFF#20) ∧
  decode 0b001010_000111_10000000000000000001#32 = .ok (.pcrel 7#6 0x80001#20) ∧
  decode 0b001111_000001_00000000000001_000000#32 = .error .encoding ∧
  decode 0b100000_00001_00010_00011_000_11_000000#32 = .error .format

/-- R14, R85, R108, R225: at the turn of a slot that issues, whose PC's word is mapped for fetching, reads without an error and
decodes to an instruction, a step is that instruction's meaning; a word that is no instruction traps ILLEGAL with its DETAIL and
the word (R81, R243), and a PC that is not canonical, or in the upper half, traps PAGE or ACCESS (R85, R86), once the slot's
earlier vector instructions are complete; at the turn of an engine it is the meaning of the command at the head of its queue, and
at another agent's turn that agent's step, a timer's among them; one that replays what was parked waits while an older one of its
replay queue has yet to be replayed (R158). Time has passed before (a choice of the model, notes/assumptions/1.md and 2.md). -/
def Obligations.StepRunsDecoded : Prop :=
  (∀ (s u v : State) (sid pa key attr w : Nat) (i : Instr) (rest : List Turn), s.powered = true → s.agenda = .issue sid :: rest →
    let p := { turnState s (.issue sid) rest with cur := sid }
    let x := s.slot sid
    Issues p sid → canonical x.pc = true → x.pc.getLsbD 56 = false →
    translate p (p.partN (sid / 64)) (dieOf (sid / 64)) (p.casid (sid / 64)) x.pc.toNat false false true = (.ok pa key attr, u) →
    physErr u pa 4 = false → physRead (countSlice u (dieOf (sid / 64)) (lineOf pa) key attr) pa 4 key = (w, v) →
      (v.slot sid).cap = none → decode (BitVec.ofNat 32 w) = .ok i →
    step s = exec i v) ∧
  (∀ (s u v : State) (sid pa key attr w : Nat) (e : DecodeError) (rest : List Turn), s.powered = true → s.agenda = .issue sid :: rest →
    let p := { turnState s (.issue sid) rest with cur := sid }
    let x := s.slot sid
    Issues p sid → canonical x.pc = true → x.pc.getLsbD 56 = false →
    translate p (p.partN (sid / 64)) (dieOf (sid / 64)) (p.casid (sid / 64)) x.pc.toNat false false true = (.ok pa key attr, u) →
    physErr u pa 4 = false → physRead (countSlice u (dieOf (sid / 64)) (lineOf pa) key attr) pa 4 key = (w, v) →
      vecOpen v sid = false → decode (BitVec.ofNat 32 w) = .error e →
    ∃ t, step s = .next t ∧
      TakesTrap { v with cur := sid } t 1 (match e with | .encoding => 0 | .group => 1 | .format => 2) (BitVec.ofNat 64 (w % 2 ^ 32))) ∧
  (∀ (s : State) (sid : Nat) (rest : List Turn), s.powered = true → s.agenda = .issue sid :: rest →
    let p := { turnState s (.issue sid) rest with cur := sid }
    let x := s.slot sid
    Issues p sid → vecOpen p sid = false →
    (canonical x.pc = false → ∃ t, step s = .next t ∧ TakesTrap p t 8 2 x.pc) ∧
    (canonical x.pc = true → x.pc.getLsbD 56 = true → ∃ t, step s = .next t ∧ TakesTrap p t 9 0 x.pc)) ∧
  (∀ (s : State) (core : Nat) (c : Cmd) (q : List Cmd) (i : Instr) (rest : List Turn), s.powered = true → s.agenda = .copy core :: rest →
    (s.core core).cq = c :: q → decodeCommand c.word = some i → step s = exec i { turnState s (.copy core) rest with cur := 16 * core }) ∧
  (∀ (s : State) (cell core : Nat) (c : Cmd) (i : Instr) (rest : List Turn), s.powered = true → s.agenda = .matrix cell :: rest →
    matrixPick (turnState s (.matrix cell) rest) cell = some (core, c) → decodeCommand c.word = some i →
    step s = exec i { turnState s (.matrix cell) rest with cur := 16 * core }) ∧
  (∀ (s : State) (core : Nat) (cp : Bool) (w : CmdWord) (i : Instr) (rest : List Turn), s.powered = true →
    s.agenda = .control core cp :: rest → controlWord (turnState s (.control core cp) rest) core cp = some w → decodeCommand w = some i →
    step s = exec i { turnState s (.control core cp) rest with cur := 16 * core + cp.toNat }) ∧
  (∀ (s : State) (i : Instr) (rest : List Turn), s.powered = true → s.agenda = .event i :: rest →
    (replayBehind (chosen s rest) (.event i) = false → step s = exec i (turnState s (.event i) rest)) ∧
    (replayBehind (chosen s rest) (.event i) = true → step s = .next ((chosen s rest).push [.event i]))) ∧
  (∀ (s : State) (l : Later) (rest : List Turn), s.powered = true → s.agenda = .later l :: rest →
    (replayBehind (chosen s rest) (.later l) = false → step s = .next (runLater (turnState s (.later l) rest) l)) ∧
    (replayBehind (chosen s rest) (.later l) = true → step s = .next ((chosen s rest).push [.later l])))

/-- R19, R54, R70-R79, R89, R163, R169, R178, R181, R187, R194, R197, R213, R219, R301: right after reset no slot holds a task,
GTS is nothing yet counted (the model's choice, notes/assumptions/5.md), every word of every cell is full and every frame of class
zero, the registers of cells, dies and package stand at the values that the spec gives, and every memory is in canonical form.
It rests on the model's own choices and readings too, notes/assumptions/3.md. -/
def Obligations.ResetState : Prop :=
  Safety.MemoryCanonical State.reset ∧
  (∀ sid, (State.reset.slot sid).status = .empty ∧ (State.reset.slot sid).gen = 0#8) ∧
  (∀ c, (State.reset.cell c).gear = 5#64 ∧ (State.reset.cell c).gearState = .glory ∧ (State.reset.cell c).oppt = 0x48#64 ∧
    (State.reset.cell c).tdctl = 3#64 ∧ (State.reset.cell c).mwt = 0xE4E4E4E4#64 ∧
    (∀ o, Loc.full (State.reset.cell c) o = true) ∧ (∀ f, (Loc.entry (State.reset.cell c) f).cls = .zero) ∧
    ∀ n, ((State.reset.cell c).accOf n).data = 0#32768 ∧ ((State.reset.cell c).accOf n).lock = false) ∧
  (∀ p < 16, State.reset.committed p = false ∧ State.reset.partValid p = false ∧ State.reset.stopped p = false ∧
    State.reset.ageLimit p = 100000) ∧
  (∀ d < 4, State.reset.reg (dieBase d + 0x2000) = 0#64 ∧ State.reset.reg (dieBase d + 0x400) = 0x3F0F#64 ∧
    State.reset.reg (dieBase d + 0x6010) = 20#64) ∧
  (∀ c < 960, State.reset.reg (powerOff c + 8) = 0x68#64 ∧ State.reset.reg (powerOff c + 0x10) = 0xFFFFFFFF#64 ∧
    State.reset.reg (cellPair c + 0x10) = 40#64) ∧
  State.reset.reg 0x40130000 = 6000#64

/-- Every step from a state whose memories are in canonical form leaves them so: equal memories stay equal data (the form is the
model's, notes/assumptions/4.md). -/
def Obligations.StepKeepsMemory : Prop :=
  ∀ (s t : State), Safety.MemoryCanonical s → step s = .next t → Safety.MemoryCanonical t
end

