-- ==== Sys2Proof/Laws/Map.lean ====
section
/-! SUPPORT. Finite maps and byte memories: what is read after a write, and that every memory operation keeps the canonical
form. -/

namespace Sys2Proof.Machine

namespace FMap

variable {V : Type}

@[simp] theorem find?_nil (a : Nat) : FMap.find? ([] : FMap V) a = none := rfl

theorem find?_cons (k : Nat) (v : V) (m : FMap V) (a : Nat) :
    FMap.find? ((k, v) :: m) a = if a = k then some v else FMap.find? m a := rfl

/-- What is put at a key is found there, whatever the list. -/
@[simp] theorem find?_put_same (m : FMap V) (a : Nat) (v : V) : FMap.find? (FMap.put m a v) a = some v := by
  induction m with
  | nil => simp [put, find?]
  | cons q m ih =>
    obtain ⟨k, w⟩ := q
    simp only [put]
    split
    · simp [find?]
    · split
      · simp [find?]
      · simp [find?_cons, *]

/-- A put at one key leaves every other key as it was. -/
theorem find?_put_ne (m : FMap V) {a b : Nat} (v : V) (h : b ≠ a) : FMap.find? (FMap.put m a v) b = FMap.find? m b := by
  induction m with
  | nil => simp [put, find?, h]
  | cons q m ih =>
    obtain ⟨k, w⟩ := q
    simp only [put]
    split
    · simp [find?_cons, h]
    · split
      · rename_i e
        subst e
        simp [find?_cons, h]
      · simp [find?_cons, ih]

@[simp] theorem get_put_same (d : V) (m : FMap V) (a : Nat) (v : V) : FMap.get d (FMap.put m a v) a = v := by
  simp [get]

theorem get_put_ne (d : V) (m : FMap V) {a b : Nat} (v : V) (h : b ≠ a) :
    FMap.get d (FMap.put m a v) b = FMap.get d m b := by
  simp [get, find?_put_ne m v h]

/-- Keys that rise from a bound rise from every lower bound. -/
theorem risingFrom_mono {m : FMap V} {n k : Nat} (h : k ≤ n) (hm : risingFrom n m = true) : risingFrom k m = true := by
  cases m with
  | nil => rfl
  | cons q m =>
    obtain ⟨a, v⟩ := q
    simp only [risingFrom, Bool.and_eq_true, decide_eq_true_eq] at hm ⊢
    exact ⟨by omega, hm.2⟩

theorem risingFrom_put {m : FMap V} {n a : Nat} (v : V) (hm : risingFrom n m = true) (h : n ≤ a) :
    risingFrom n (put m a v) = true := by
  induction m generalizing n with
  | nil => simp [put, risingFrom, h]
  | cons q m ih =>
    obtain ⟨k, w⟩ := q
    simp only [risingFrom, Bool.and_eq_true, decide_eq_true_eq] at hm
    simp only [put]
    split
    · rename_i e
      simp only [risingFrom, Bool.and_eq_true, decide_eq_true_eq]
      exact ⟨h, by omega, hm.2⟩
    · split
      · rename_i e
        subst e
        simp only [risingFrom, Bool.and_eq_true, decide_eq_true_eq]
        exact ⟨h, hm.2⟩
      · rename_i e f
        simp only [risingFrom, Bool.and_eq_true, decide_eq_true_eq]
        exact ⟨hm.1, ih hm.2 (by omega)⟩

theorem risingFrom_del {m : FMap V} {n : Nat} (a : Nat) (hm : risingFrom n m = true) : risingFrom n (del m a) = true := by
  induction m generalizing n with
  | nil => rfl
  | cons q m ih =>
    obtain ⟨k, w⟩ := q
    simp only [risingFrom, Bool.and_eq_true, decide_eq_true_eq] at hm
    simp only [del]
    split
    · exact risingFrom_mono (by omega) hm.2
    · simp only [risingFrom, Bool.and_eq_true, decide_eq_true_eq]
      exact ⟨hm.1, ih hm.2⟩

theorem risingFrom_filter {m : FMap V} {n : Nat} (p : Nat × V → Bool) (hm : risingFrom n m = true) :
    risingFrom n (m.filter p) = true := by
  induction m generalizing n with
  | nil => rfl
  | cons q m ih =>
    obtain ⟨k, w⟩ := q
    simp only [risingFrom, Bool.and_eq_true, decide_eq_true_eq] at hm
    simp only [List.filter]
    split
    · simp only [risingFrom, Bool.and_eq_true, decide_eq_true_eq]
      exact ⟨hm.1, ih hm.2⟩
    · exact risingFrom_mono (by omega) (ih hm.2)

/-- Below the bound nothing is listed. -/
theorem find?_below {m : FMap V} {n a : Nat} (hm : risingFrom n m = true) (h : a < n) : FMap.find? m a = none := by
  induction m generalizing n with
  | nil => rfl
  | cons q m ih =>
    obtain ⟨k, w⟩ := q
    simp only [risingFrom, Bool.and_eq_true, decide_eq_true_eq] at hm
    rw [find?_cons, if_neg (by omega)]
    exact ih hm.2 (by omega)

theorem find?_del_same {m : FMap V} {n : Nat} (a : Nat) (hm : risingFrom n m = true) : FMap.find? (del m a) a = none := by
  induction m generalizing n with
  | nil => rfl
  | cons q m ih =>
    obtain ⟨k, w⟩ := q
    simp only [risingFrom, Bool.and_eq_true, decide_eq_true_eq] at hm
    simp only [del]
    split
    · rename_i e
      exact find?_below hm.2 (by omega)
    · rename_i e
      rw [find?_cons, if_neg e]
      exact ih hm.2

theorem find?_del_ne (m : FMap V) {a b : Nat} (h : b ≠ a) : FMap.find? (del m a) b = FMap.find? m b := by
  induction m with
  | nil => rfl
  | cons q m ih =>
    obtain ⟨k, w⟩ := q
    simp only [del]
    split
    · rename_i e
      subst e
      rw [find?_cons, if_neg h]
    · rw [find?_cons, find?_cons, ih]

/-- A put lists nothing that was not listed or put. -/
theorem mem_put {m : FMap V} {a : Nat} {v : V} {q : Nat × V} (h : q ∈ put m a v) : q = (a, v) ∨ q ∈ m := by
  induction m with
  | nil => simpa [put] using h
  | cons r m ih =>
    obtain ⟨k, w⟩ := r
    simp only [put] at h
    split at h
    · simp only [List.mem_cons] at h ⊢
      exact h
    · split at h
      · simp only [List.mem_cons] at h ⊢
        rcases h with h | h
        · exact .inl h
        · exact .inr (.inr h)
      · simp only [List.mem_cons] at h ⊢
        rcases h with h | h
        · exact .inr (.inl h)
        · rcases ih h with h | h
          · exact .inl h
          · exact .inr (.inr h)

end FMap

namespace Memory

theorem hasZero_put {m : Memory} {a : Nat} {b : Byte} (hm : hasZero m = false) (hb : b ≠ 0#8) :
    hasZero (FMap.put m a b) = false := by
  induction m with
  | nil => simp [FMap.put, hasZero, hb]
  | cons q m ih =>
    obtain ⟨k, w⟩ := q
    simp only [hasZero, Bool.or_eq_false_iff] at hm
    simp only [FMap.put]
    split
    · simp [hasZero, hb, hm]
    · split
      · simp [hasZero, hb, hm]
      · simp [hasZero, hm, ih hm.2]

theorem hasZero_del {m : Memory} (a : Nat) (hm : hasZero m = false) : hasZero (FMap.del m a) = false := by
  induction m with
  | nil => rfl
  | cons q m ih =>
    obtain ⟨k, w⟩ := q
    simp only [hasZero, Bool.or_eq_false_iff] at hm
    simp only [FMap.del]
    split
    · exact hm.2
    · simp [hasZero, hm, ih hm.2]

theorem hasZero_filter {m : Memory} (p : Host.Cell → Bool) (hm : hasZero m = false) : hasZero (m.filter p) = false := by
  induction m with
  | nil => rfl
  | cons q m ih =>
    obtain ⟨k, w⟩ := q
    simp only [hasZero, Bool.or_eq_false_iff] at hm
    simp only [List.filter]
    split
    · simp [hasZero, hm, ih hm.2]
    · exact ih hm.2

@[simp] theorem wf_nil : wf [] = true := rfl

theorem wf_iff (m : Memory) : wf m = true ↔ FMap.risingFrom 0 m = true ∧ hasZero m = false := by
  simp [wf, FMap.wf]

/-- A write of one byte keeps the canonical form. -/
theorem wf_write {m : Memory} (a : Nat) (b : Byte) (h : wf m = true) : wf (write m a b) = true := by
  rw [wf_iff] at h ⊢
  unfold write
  split
  · exact ⟨FMap.risingFrom_del a h.1, hasZero_del a h.2⟩
  · rename_i hb
    exact ⟨FMap.risingFrom_put b h.1 (Nat.zero_le a), hasZero_put h.2 hb⟩

/-- So does a write of n bytes. -/
theorem wf_writeN {m : Memory} (a n v : Nat) (h : wf m = true) : wf (writeN m a n v) = true := by
  induction n generalizing m a v with
  | zero => exact h
  | succ n ih => exact ih _ _ (wf_write a _ h)

theorem wf_filter {m : Memory} (p : Host.Cell → Bool) (h : wf m = true) : wf (m.filter p) = true := by
  rw [wf_iff] at h ⊢
  exact ⟨FMap.risingFrom_filter p h.1, hasZero_filter p h.2⟩

/-- So does the clearing of a run. -/
theorem wf_clear {m : Memory} (lo hi : Nat) (h : wf m = true) : wf (clear m lo hi) = true := wf_filter _ h

/-- The byte written is the byte read. -/
theorem read_write_same {m : Memory} (a : Nat) (b : Byte) (h : wf m = true) : read (write m a b) a = b := by
  rw [wf_iff] at h
  unfold read write
  split
  · rename_i hb
    simp [FMap.get, FMap.find?_del_same a h.1, hb]
  · simp

/-- A write leaves every other byte alone. -/
theorem read_write_ne (m : Memory) {a c : Nat} (b : Byte) (h : c ≠ a) : read (write m a b) c = read m c := by
  unfold read write
  split
  · simp [FMap.get, FMap.find?_del_ne m h]
  · exact FMap.get_put_ne _ _ _ h

/-- A write of n bytes leaves the bytes outside them alone. -/
theorem read_writeN_outside (m : Memory) {a n c : Nat} (v : Nat) (h : c < a ∨ a + n ≤ c) :
    read (writeN m a n v) c = read m c := by
  induction n generalizing m a v with
  | zero => rfl
  | succ n ih =>
    simp only [writeN]
    rw [ih _ _ (by omega), read_write_ne _ _ (by omega)]

theorem readN_congr {m k : Memory} {a n : Nat} (h : ∀ c, a ≤ c → c < a + n → read m c = read k c) :
    readN m a n = readN k a n := by
  induction n generalizing a with
  | zero => rfl
  | succ n ih =>
    simp only [readN]
    rw [h a (by omega) (by omega), ih (fun c h1 h2 => h c (by omega) (by omega))]

/-- The number written is the number read, modulo its width. -/
theorem readN_writeN {m : Memory} (a n v : Nat) (h : wf m = true) : readN (writeN m a n v) a n = v % 2 ^ (8 * n) := by
  induction n generalizing m a v with
  | zero => simp [readN, Nat.mod_one]
  | succ n ih =>
    simp only [readN, writeN]
    rw [ih _ _ (wf_write a _ h), read_writeN_outside _ _ (by omega), read_write_same a _ h]
    have e : 2 ^ (8 * (n + 1)) = 256 * 2 ^ (8 * n) := by
      rw [Nat.mul_add, Nat.pow_add]; norm_num [Nat.mul_comm]
    rw [e, Nat.mod_mul]
    simp

/-- A read outside the bytes written is as before. -/
theorem readN_writeN_apart (m : Memory) {a n b k : Nat} (v : Nat) (h : b + k ≤ a ∨ a + n ≤ b) :
    readN (writeN m a n v) b k = readN m b k :=
  readN_congr (fun _ _ _ => read_writeN_outside m v (by omega))

end Memory

end Sys2Proof.Machine
end

