-- ==== Sys2Proof/Laws/State.lean ====
section
/-! SUPPORT. What each update of the state leaves alone, and what is read back after it: one lemma for each field and update. -/

namespace Sys2Proof.Machine

namespace State

/-! ## Reading back -/

@[simp] theorem slot_setSlot_same (s : State) (i : Nat) (x : Slot) : (s.setSlot i x).slot i = x := FMap.get_put_same _ _ _ _
theorem slot_setSlot_ne (s : State) {i j : Nat} (x : Slot) (h : j ≠ i) : (s.setSlot i x).slot j = s.slot j :=
  FMap.get_put_ne _ _ _ h
@[simp] theorem core_setCore_same (s : State) (i : Nat) (x : Core) : (s.setCore i x).core i = x := FMap.get_put_same _ _ _ _
theorem core_setCore_ne (s : State) {i j : Nat} (x : Core) (h : j ≠ i) : (s.setCore i x).core j = s.core j :=
  FMap.get_put_ne _ _ _ h
@[simp] theorem cell_setCell_same (s : State) (i : Nat) (x : Cell) : (s.setCell i x).cell i = x := FMap.get_put_same _ _ _ _
theorem cell_setCell_ne (s : State) {i j : Nat} (x : Cell) (h : j ≠ i) : (s.setCell i x).cell j = s.cell j :=
  FMap.get_put_ne _ _ _ h
@[simp] theorem reg_setReg_same (s : State) (off : Nat) (v : Word) : (s.setReg off v).reg off = v := FMap.get_put_same _ _ _ _
theorem reg_setReg_ne (s : State) {off o : Nat} (v : Word) (h : o ≠ off) : (s.setReg off v).reg o = s.reg o :=
  FMap.get_put_ne _ _ _ h

@[simp] theorem modSlot_eq (s : State) (i : Nat) (f : Slot → Slot) : s.modSlot i f = s.setSlot i (f (s.slot i)) := rfl
@[simp] theorem modCore_eq (s : State) (i : Nat) (f : Core → Core) : s.modCore i f = s.setCore i (f (s.core i)) := rfl
@[simp] theorem modCell_eq (s : State) (i : Nat) (f : Cell → Cell) : s.modCell i f = s.setCell i (f (s.cell i)) := rfl

/-! ## `setSlot` -/

@[simp] theorem setSlot_cur (s : State) (i : Nat) (x : Slot) : (s.setSlot i x).cur = s.cur := rfl
@[simp] theorem setSlot_rota (s : State) (i : Nat) (x : Slot) : (s.setSlot i x).rota = s.rota := rfl
@[simp] theorem setSlot_agenda (s : State) (i : Nat) (x : Slot) : (s.setSlot i x).agenda = s.agenda := rfl
@[simp] theorem setSlot_work (s : State) (i : Nat) (x : Slot) : (s.setSlot i x).work = s.work := rfl
@[simp] theorem setSlot_workTurn (s : State) (i : Nat) (x : Slot) : (s.setSlot i x).workTurn = s.workTurn := rfl
@[simp] theorem setSlot_nextId (s : State) (i : Nat) (x : Slot) : (s.setSlot i x).nextId = s.nextId := rfl
@[simp] theorem setSlot_freeCtr (s : State) (i : Nat) (x : Slot) : (s.setSlot i x).freeCtr = s.freeCtr := rfl
@[simp] theorem setSlot_powered (s : State) (i : Nat) (x : Slot) : (s.setSlot i x).powered = s.powered := rfl
@[simp] theorem setSlot_gts (s : State) (i : Nat) (x : Slot) : (s.setSlot i x).gts = s.gts := rfl
@[simp] theorem setSlot_cores (s : State) (i : Nat) (x : Slot) : (s.setSlot i x).cores = s.cores := rfl
@[simp] theorem setSlot_cells (s : State) (i : Nat) (x : Slot) : (s.setSlot i x).cells = s.cells := rfl
@[simp] theorem setSlot_regs (s : State) (i : Nat) (x : Slot) : (s.setSlot i x).regs = s.regs := rfl
@[simp] theorem setSlot_phys (s : State) (i : Nat) (x : Slot) : (s.setSlot i x).phys = s.phys := rfl
@[simp] theorem setSlot_lineKey (s : State) (i : Nat) (x : Slot) : (s.setSlot i x).lineKey = s.lineKey := rfl
@[simp] theorem setSlot_keyMat (s : State) (i : Nat) (x : Slot) : (s.setSlot i x).keyMat = s.keyMat := rfl
@[simp] theorem setSlot_commons (s : State) (i : Nat) (x : Slot) : (s.setSlot i x).commons = s.commons := rfl
@[simp] theorem setSlot_flight (s : State) (i : Nat) (x : Slot) : (s.setSlot i x).flight = s.flight := rfl
@[simp] theorem setSlot_tokens (s : State) (i : Nat) (x : Slot) : (s.setSlot i x).tokens = s.tokens := rfl
@[simp] theorem setSlot_messages (s : State) (i : Nat) (x : Slot) : (s.setSlot i x).messages = s.messages := rfl
@[simp] theorem setSlot_contexts (s : State) (i : Nat) (x : Slot) : (s.setSlot i x).contexts = s.contexts := rfl
@[simp] theorem setSlot_tlb (s : State) (i : Nat) (x : Slot) : (s.setSlot i x).tlb = s.tlb := rfl
@[simp] theorem setSlot_lines (s : State) (i : Nat) (x : Slot) : (s.setSlot i x).lines = s.lines := rfl
@[simp] theorem setSlot_stamps (s : State) (i : Nat) (x : Slot) : (s.setSlot i x).stamps = s.stamps := rfl
@[simp] theorem setSlot_misses (s : State) (i : Nat) (x : Slot) : (s.setSlot i x).misses = s.misses := rfl
@[simp] theorem setSlot_filter (s : State) (i : Nat) (x : Slot) : (s.setSlot i x).filter = s.filter := rfl
@[simp] theorem setSlot_replicas (s : State) (i : Nat) (x : Slot) : (s.setSlot i x).replicas = s.replicas := rfl
@[simp] theorem setSlot_forwards (s : State) (i : Nat) (x : Slot) : (s.setSlot i x).forwards = s.forwards := rfl
@[simp] theorem setSlot_faults (s : State) (i : Nat) (x : Slot) : (s.setSlot i x).faults = s.faults := rfl
@[simp] theorem setSlot_launches (s : State) (i : Nat) (x : Slot) : (s.setSlot i x).launches = s.launches := rfl
@[simp] theorem setSlot_conts (s : State) (i : Nat) (x : Slot) : (s.setSlot i x).conts = s.conts := rfl
@[simp] theorem setSlot_held (s : State) (i : Nat) (x : Slot) : (s.setSlot i x).held = s.held := rfl
@[simp] theorem setSlot_lqNext (s : State) (i : Nat) (x : Slot) : (s.setSlot i x).lqNext = s.lqNext := rfl
@[simp] theorem setSlot_barriers (s : State) (i : Nat) (x : Slot) : (s.setSlot i x).barriers = s.barriers := rfl
@[simp] theorem setSlot_arrivals (s : State) (i : Nat) (x : Slot) : (s.setSlot i x).arrivals = s.arrivals := rfl
@[simp] theorem setSlot_colls (s : State) (i : Nat) (x : Slot) : (s.setSlot i x).colls = s.colls := rfl
@[simp] theorem setSlot_peerSeen (s : State) (i : Nat) (x : Slot) : (s.setSlot i x).peerSeen = s.peerSeen := rfl
@[simp] theorem setSlot_samples (s : State) (i : Nat) (x : Slot) : (s.setSlot i x).samples = s.samples := rfl
@[simp] theorem setSlot_opLru (s : State) (i : Nat) (x : Slot) : (s.setSlot i x).opLru = s.opLru := rfl
@[simp] theorem setSlot_opBest (s : State) (i : Nat) (x : Slot) : (s.setSlot i x).opBest = s.opBest := rfl
@[simp] theorem setSlot_holes (s : State) (i : Nat) (x : Slot) : (s.setSlot i x).holes = s.holes := rfl
@[simp] theorem setSlot_fabric (s : State) (i : Nat) (x : Slot) : (s.setSlot i x).fabric = s.fabric := rfl
@[simp] theorem setSlot_ilvSeen (s : State) (i : Nat) (x : Slot) : (s.setSlot i x).ilvSeen = s.ilvSeen := rfl
@[simp] theorem setSlot_errs (s : State) (i : Nat) (x : Slot) : (s.setSlot i x).errs = s.errs := rfl
@[simp] theorem setSlot_report (s : State) (i : Nat) (x : Slot) : (s.setSlot i x).report = s.report := rfl
@[simp] theorem setSlot_hostValue (s : State) (i : Nat) (x : Slot) : (s.setSlot i x).hostValue = s.hostValue := rfl
@[simp] theorem setSlot_swapAt (s : State) (i : Nat) (x : Slot) : (s.setSlot i x).swapAt = s.swapAt := rfl
@[simp] theorem setSlot_opMark (s : State) (i : Nat) (x : Slot) : (s.setSlot i x).opMark = s.opMark := rfl
@[simp] theorem setSlot_peerOut (s : State) (i : Nat) (x : Slot) : (s.setSlot i x).peerOut = s.peerOut := rfl
@[simp] theorem setSlot_peerSent (s : State) (i : Nat) (x : Slot) : (s.setSlot i x).peerSent = s.peerSent := rfl
@[simp] theorem setSlot_jobs (s : State) (i : Nat) (x : Slot) : (s.setSlot i x).jobs = s.jobs := rfl
@[simp] theorem setSlot_units (s : State) (i : Nat) (x : Slot) : (s.setSlot i x).units = s.units := rfl
@[simp] theorem setSlot_replayed (s : State) (i : Nat) (x : Slot) : (s.setSlot i x).replayed = s.replayed := rfl
@[simp] theorem setSlot_served (s : State) (i : Nat) (x : Slot) : (s.setSlot i x).served = s.served := rfl
@[simp] theorem setSlot_capWins (s : State) (i : Nat) (x : Slot) : (s.setSlot i x).capWins = s.capWins := rfl
@[simp] theorem setSlot_core (s : State) (i : Nat) (x : Slot) (j : Nat) : (s.setSlot i x).core j = s.core j := rfl
@[simp] theorem setSlot_cell (s : State) (i : Nat) (x : Slot) (j : Nat) : (s.setSlot i x).cell j = s.cell j := rfl
@[simp] theorem setSlot_reg (s : State) (i : Nat) (x : Slot) (o : Nat) : (s.setSlot i x).reg o = s.reg o := rfl

/-! ## `setCore` -/

@[simp] theorem setCore_cur (s : State) (i : Nat) (x : Core) : (s.setCore i x).cur = s.cur := rfl
@[simp] theorem setCore_rota (s : State) (i : Nat) (x : Core) : (s.setCore i x).rota = s.rota := rfl
@[simp] theorem setCore_agenda (s : State) (i : Nat) (x : Core) : (s.setCore i x).agenda = s.agenda := rfl
@[simp] theorem setCore_work (s : State) (i : Nat) (x : Core) : (s.setCore i x).work = s.work := rfl
@[simp] theorem setCore_workTurn (s : State) (i : Nat) (x : Core) : (s.setCore i x).workTurn = s.workTurn := rfl
@[simp] theorem setCore_nextId (s : State) (i : Nat) (x : Core) : (s.setCore i x).nextId = s.nextId := rfl
@[simp] theorem setCore_freeCtr (s : State) (i : Nat) (x : Core) : (s.setCore i x).freeCtr = s.freeCtr := rfl
@[simp] theorem setCore_powered (s : State) (i : Nat) (x : Core) : (s.setCore i x).powered = s.powered := rfl
@[simp] theorem setCore_gts (s : State) (i : Nat) (x : Core) : (s.setCore i x).gts = s.gts := rfl
@[simp] theorem setCore_slots (s : State) (i : Nat) (x : Core) : (s.setCore i x).slots = s.slots := rfl
@[simp] theorem setCore_cells (s : State) (i : Nat) (x : Core) : (s.setCore i x).cells = s.cells := rfl
@[simp] theorem setCore_regs (s : State) (i : Nat) (x : Core) : (s.setCore i x).regs = s.regs := rfl
@[simp] theorem setCore_phys (s : State) (i : Nat) (x : Core) : (s.setCore i x).phys = s.phys := rfl
@[simp] theorem setCore_lineKey (s : State) (i : Nat) (x : Core) : (s.setCore i x).lineKey = s.lineKey := rfl
@[simp] theorem setCore_keyMat (s : State) (i : Nat) (x : Core) : (s.setCore i x).keyMat = s.keyMat := rfl
@[simp] theorem setCore_commons (s : State) (i : Nat) (x : Core) : (s.setCore i x).commons = s.commons := rfl
@[simp] theorem setCore_flight (s : State) (i : Nat) (x : Core) : (s.setCore i x).flight = s.flight := rfl
@[simp] theorem setCore_tokens (s : State) (i : Nat) (x : Core) : (s.setCore i x).tokens = s.tokens := rfl
@[simp] theorem setCore_messages (s : State) (i : Nat) (x : Core) : (s.setCore i x).messages = s.messages := rfl
@[simp] theorem setCore_contexts (s : State) (i : Nat) (x : Core) : (s.setCore i x).contexts = s.contexts := rfl
@[simp] theorem setCore_tlb (s : State) (i : Nat) (x : Core) : (s.setCore i x).tlb = s.tlb := rfl
@[simp] theorem setCore_lines (s : State) (i : Nat) (x : Core) : (s.setCore i x).lines = s.lines := rfl
@[simp] theorem setCore_stamps (s : State) (i : Nat) (x : Core) : (s.setCore i x).stamps = s.stamps := rfl
@[simp] theorem setCore_misses (s : State) (i : Nat) (x : Core) : (s.setCore i x).misses = s.misses := rfl
@[simp] theorem setCore_filter (s : State) (i : Nat) (x : Core) : (s.setCore i x).filter = s.filter := rfl
@[simp] theorem setCore_replicas (s : State) (i : Nat) (x : Core) : (s.setCore i x).replicas = s.replicas := rfl
@[simp] theorem setCore_forwards (s : State) (i : Nat) (x : Core) : (s.setCore i x).forwards = s.forwards := rfl
@[simp] theorem setCore_faults (s : State) (i : Nat) (x : Core) : (s.setCore i x).faults = s.faults := rfl
@[simp] theorem setCore_launches (s : State) (i : Nat) (x : Core) : (s.setCore i x).launches = s.launches := rfl
@[simp] theorem setCore_conts (s : State) (i : Nat) (x : Core) : (s.setCore i x).conts = s.conts := rfl
@[simp] theorem setCore_held (s : State) (i : Nat) (x : Core) : (s.setCore i x).held = s.held := rfl
@[simp] theorem setCore_lqNext (s : State) (i : Nat) (x : Core) : (s.setCore i x).lqNext = s.lqNext := rfl
@[simp] theorem setCore_barriers (s : State) (i : Nat) (x : Core) : (s.setCore i x).barriers = s.barriers := rfl
@[simp] theorem setCore_arrivals (s : State) (i : Nat) (x : Core) : (s.setCore i x).arrivals = s.arrivals := rfl
@[simp] theorem setCore_colls (s : State) (i : Nat) (x : Core) : (s.setCore i x).colls = s.colls := rfl
@[simp] theorem setCore_peerSeen (s : State) (i : Nat) (x : Core) : (s.setCore i x).peerSeen = s.peerSeen := rfl
@[simp] theorem setCore_samples (s : State) (i : Nat) (x : Core) : (s.setCore i x).samples = s.samples := rfl
@[simp] theorem setCore_opLru (s : State) (i : Nat) (x : Core) : (s.setCore i x).opLru = s.opLru := rfl
@[simp] theorem setCore_opBest (s : State) (i : Nat) (x : Core) : (s.setCore i x).opBest = s.opBest := rfl
@[simp] theorem setCore_holes (s : State) (i : Nat) (x : Core) : (s.setCore i x).holes = s.holes := rfl
@[simp] theorem setCore_fabric (s : State) (i : Nat) (x : Core) : (s.setCore i x).fabric = s.fabric := rfl
@[simp] theorem setCore_ilvSeen (s : State) (i : Nat) (x : Core) : (s.setCore i x).ilvSeen = s.ilvSeen := rfl
@[simp] theorem setCore_errs (s : State) (i : Nat) (x : Core) : (s.setCore i x).errs = s.errs := rfl
@[simp] theorem setCore_report (s : State) (i : Nat) (x : Core) : (s.setCore i x).report = s.report := rfl
@[simp] theorem setCore_hostValue (s : State) (i : Nat) (x : Core) : (s.setCore i x).hostValue = s.hostValue := rfl
@[simp] theorem setCore_swapAt (s : State) (i : Nat) (x : Core) : (s.setCore i x).swapAt = s.swapAt := rfl
@[simp] theorem setCore_opMark (s : State) (i : Nat) (x : Core) : (s.setCore i x).opMark = s.opMark := rfl
@[simp] theorem setCore_peerOut (s : State) (i : Nat) (x : Core) : (s.setCore i x).peerOut = s.peerOut := rfl
@[simp] theorem setCore_peerSent (s : State) (i : Nat) (x : Core) : (s.setCore i x).peerSent = s.peerSent := rfl
@[simp] theorem setCore_jobs (s : State) (i : Nat) (x : Core) : (s.setCore i x).jobs = s.jobs := rfl
@[simp] theorem setCore_units (s : State) (i : Nat) (x : Core) : (s.setCore i x).units = s.units := rfl
@[simp] theorem setCore_replayed (s : State) (i : Nat) (x : Core) : (s.setCore i x).replayed = s.replayed := rfl
@[simp] theorem setCore_served (s : State) (i : Nat) (x : Core) : (s.setCore i x).served = s.served := rfl
@[simp] theorem setCore_capWins (s : State) (i : Nat) (x : Core) : (s.setCore i x).capWins = s.capWins := rfl
@[simp] theorem setCore_slot (s : State) (i : Nat) (x : Core) (j : Nat) : (s.setCore i x).slot j = s.slot j := rfl
@[simp] theorem setCore_cell (s : State) (i : Nat) (x : Core) (j : Nat) : (s.setCore i x).cell j = s.cell j := rfl
@[simp] theorem setCore_reg (s : State) (i : Nat) (x : Core) (o : Nat) : (s.setCore i x).reg o = s.reg o := rfl

/-! ## `setCell` -/

@[simp] theorem setCell_cur (s : State) (i : Nat) (x : Cell) : (s.setCell i x).cur = s.cur := rfl
@[simp] theorem setCell_rota (s : State) (i : Nat) (x : Cell) : (s.setCell i x).rota = s.rota := rfl
@[simp] theorem setCell_agenda (s : State) (i : Nat) (x : Cell) : (s.setCell i x).agenda = s.agenda := rfl
@[simp] theorem setCell_work (s : State) (i : Nat) (x : Cell) : (s.setCell i x).work = s.work := rfl
@[simp] theorem setCell_workTurn (s : State) (i : Nat) (x : Cell) : (s.setCell i x).workTurn = s.workTurn := rfl
@[simp] theorem setCell_nextId (s : State) (i : Nat) (x : Cell) : (s.setCell i x).nextId = s.nextId := rfl
@[simp] theorem setCell_freeCtr (s : State) (i : Nat) (x : Cell) : (s.setCell i x).freeCtr = s.freeCtr := rfl
@[simp] theorem setCell_powered (s : State) (i : Nat) (x : Cell) : (s.setCell i x).powered = s.powered := rfl
@[simp] theorem setCell_gts (s : State) (i : Nat) (x : Cell) : (s.setCell i x).gts = s.gts := rfl
@[simp] theorem setCell_slots (s : State) (i : Nat) (x : Cell) : (s.setCell i x).slots = s.slots := rfl
@[simp] theorem setCell_cores (s : State) (i : Nat) (x : Cell) : (s.setCell i x).cores = s.cores := rfl
@[simp] theorem setCell_regs (s : State) (i : Nat) (x : Cell) : (s.setCell i x).regs = s.regs := rfl
@[simp] theorem setCell_phys (s : State) (i : Nat) (x : Cell) : (s.setCell i x).phys = s.phys := rfl
@[simp] theorem setCell_lineKey (s : State) (i : Nat) (x : Cell) : (s.setCell i x).lineKey = s.lineKey := rfl
@[simp] theorem setCell_keyMat (s : State) (i : Nat) (x : Cell) : (s.setCell i x).keyMat = s.keyMat := rfl
@[simp] theorem setCell_commons (s : State) (i : Nat) (x : Cell) : (s.setCell i x).commons = s.commons := rfl
@[simp] theorem setCell_flight (s : State) (i : Nat) (x : Cell) : (s.setCell i x).flight = s.flight := rfl
@[simp] theorem setCell_tokens (s : State) (i : Nat) (x : Cell) : (s.setCell i x).tokens = s.tokens := rfl
@[simp] theorem setCell_messages (s : State) (i : Nat) (x : Cell) : (s.setCell i x).messages = s.messages := rfl
@[simp] theorem setCell_contexts (s : State) (i : Nat) (x : Cell) : (s.setCell i x).contexts = s.contexts := rfl
@[simp] theorem setCell_tlb (s : State) (i : Nat) (x : Cell) : (s.setCell i x).tlb = s.tlb := rfl
@[simp] theorem setCell_lines (s : State) (i : Nat) (x : Cell) : (s.setCell i x).lines = s.lines := rfl
@[simp] theorem setCell_stamps (s : State) (i : Nat) (x : Cell) : (s.setCell i x).stamps = s.stamps := rfl
@[simp] theorem setCell_misses (s : State) (i : Nat) (x : Cell) : (s.setCell i x).misses = s.misses := rfl
@[simp] theorem setCell_filter (s : State) (i : Nat) (x : Cell) : (s.setCell i x).filter = s.filter := rfl
@[simp] theorem setCell_replicas (s : State) (i : Nat) (x : Cell) : (s.setCell i x).replicas = s.replicas := rfl
@[simp] theorem setCell_forwards (s : State) (i : Nat) (x : Cell) : (s.setCell i x).forwards = s.forwards := rfl
@[simp] theorem setCell_faults (s : State) (i : Nat) (x : Cell) : (s.setCell i x).faults = s.faults := rfl
@[simp] theorem setCell_launches (s : State) (i : Nat) (x : Cell) : (s.setCell i x).launches = s.launches := rfl
@[simp] theorem setCell_conts (s : State) (i : Nat) (x : Cell) : (s.setCell i x).conts = s.conts := rfl
@[simp] theorem setCell_held (s : State) (i : Nat) (x : Cell) : (s.setCell i x).held = s.held := rfl
@[simp] theorem setCell_lqNext (s : State) (i : Nat) (x : Cell) : (s.setCell i x).lqNext = s.lqNext := rfl
@[simp] theorem setCell_barriers (s : State) (i : Nat) (x : Cell) : (s.setCell i x).barriers = s.barriers := rfl
@[simp] theorem setCell_arrivals (s : State) (i : Nat) (x : Cell) : (s.setCell i x).arrivals = s.arrivals := rfl
@[simp] theorem setCell_colls (s : State) (i : Nat) (x : Cell) : (s.setCell i x).colls = s.colls := rfl
@[simp] theorem setCell_peerSeen (s : State) (i : Nat) (x : Cell) : (s.setCell i x).peerSeen = s.peerSeen := rfl
@[simp] theorem setCell_samples (s : State) (i : Nat) (x : Cell) : (s.setCell i x).samples = s.samples := rfl
@[simp] theorem setCell_opLru (s : State) (i : Nat) (x : Cell) : (s.setCell i x).opLru = s.opLru := rfl
@[simp] theorem setCell_opBest (s : State) (i : Nat) (x : Cell) : (s.setCell i x).opBest = s.opBest := rfl
@[simp] theorem setCell_holes (s : State) (i : Nat) (x : Cell) : (s.setCell i x).holes = s.holes := rfl
@[simp] theorem setCell_fabric (s : State) (i : Nat) (x : Cell) : (s.setCell i x).fabric = s.fabric := rfl
@[simp] theorem setCell_ilvSeen (s : State) (i : Nat) (x : Cell) : (s.setCell i x).ilvSeen = s.ilvSeen := rfl
@[simp] theorem setCell_errs (s : State) (i : Nat) (x : Cell) : (s.setCell i x).errs = s.errs := rfl
@[simp] theorem setCell_report (s : State) (i : Nat) (x : Cell) : (s.setCell i x).report = s.report := rfl
@[simp] theorem setCell_hostValue (s : State) (i : Nat) (x : Cell) : (s.setCell i x).hostValue = s.hostValue := rfl
@[simp] theorem setCell_swapAt (s : State) (i : Nat) (x : Cell) : (s.setCell i x).swapAt = s.swapAt := rfl
@[simp] theorem setCell_opMark (s : State) (i : Nat) (x : Cell) : (s.setCell i x).opMark = s.opMark := rfl
@[simp] theorem setCell_peerOut (s : State) (i : Nat) (x : Cell) : (s.setCell i x).peerOut = s.peerOut := rfl
@[simp] theorem setCell_peerSent (s : State) (i : Nat) (x : Cell) : (s.setCell i x).peerSent = s.peerSent := rfl
@[simp] theorem setCell_jobs (s : State) (i : Nat) (x : Cell) : (s.setCell i x).jobs = s.jobs := rfl
@[simp] theorem setCell_units (s : State) (i : Nat) (x : Cell) : (s.setCell i x).units = s.units := rfl
@[simp] theorem setCell_replayed (s : State) (i : Nat) (x : Cell) : (s.setCell i x).replayed = s.replayed := rfl
@[simp] theorem setCell_served (s : State) (i : Nat) (x : Cell) : (s.setCell i x).served = s.served := rfl
@[simp] theorem setCell_capWins (s : State) (i : Nat) (x : Cell) : (s.setCell i x).capWins = s.capWins := rfl
@[simp] theorem setCell_slot (s : State) (i : Nat) (x : Cell) (j : Nat) : (s.setCell i x).slot j = s.slot j := rfl
@[simp] theorem setCell_core (s : State) (i : Nat) (x : Cell) (j : Nat) : (s.setCell i x).core j = s.core j := rfl
@[simp] theorem setCell_reg (s : State) (i : Nat) (x : Cell) (o : Nat) : (s.setCell i x).reg o = s.reg o := rfl

/-! ## `setReg` -/

@[simp] theorem setReg_cur (s : State) (off : Nat) (v : Word) : (s.setReg off v).cur = s.cur := rfl
@[simp] theorem setReg_rota (s : State) (off : Nat) (v : Word) : (s.setReg off v).rota = s.rota := rfl
@[simp] theorem setReg_agenda (s : State) (off : Nat) (v : Word) : (s.setReg off v).agenda = s.agenda := rfl
@[simp] theorem setReg_work (s : State) (off : Nat) (v : Word) : (s.setReg off v).work = s.work := rfl
@[simp] theorem setReg_workTurn (s : State) (off : Nat) (v : Word) : (s.setReg off v).workTurn = s.workTurn := rfl
@[simp] theorem setReg_nextId (s : State) (off : Nat) (v : Word) : (s.setReg off v).nextId = s.nextId := rfl
@[simp] theorem setReg_freeCtr (s : State) (off : Nat) (v : Word) : (s.setReg off v).freeCtr = s.freeCtr := rfl
@[simp] theorem setReg_powered (s : State) (off : Nat) (v : Word) : (s.setReg off v).powered = s.powered := rfl
@[simp] theorem setReg_gts (s : State) (off : Nat) (v : Word) : (s.setReg off v).gts = s.gts := rfl
@[simp] theorem setReg_slots (s : State) (off : Nat) (v : Word) : (s.setReg off v).slots = s.slots := rfl
@[simp] theorem setReg_cores (s : State) (off : Nat) (v : Word) : (s.setReg off v).cores = s.cores := rfl
@[simp] theorem setReg_cells (s : State) (off : Nat) (v : Word) : (s.setReg off v).cells = s.cells := rfl
@[simp] theorem setReg_phys (s : State) (off : Nat) (v : Word) : (s.setReg off v).phys = s.phys := rfl
@[simp] theorem setReg_lineKey (s : State) (off : Nat) (v : Word) : (s.setReg off v).lineKey = s.lineKey := rfl
@[simp] theorem setReg_keyMat (s : State) (off : Nat) (v : Word) : (s.setReg off v).keyMat = s.keyMat := rfl
@[simp] theorem setReg_commons (s : State) (off : Nat) (v : Word) : (s.setReg off v).commons = s.commons := rfl
@[simp] theorem setReg_flight (s : State) (off : Nat) (v : Word) : (s.setReg off v).flight = s.flight := rfl
@[simp] theorem setReg_tokens (s : State) (off : Nat) (v : Word) : (s.setReg off v).tokens = s.tokens := rfl
@[simp] theorem setReg_messages (s : State) (off : Nat) (v : Word) : (s.setReg off v).messages = s.messages := rfl
@[simp] theorem setReg_contexts (s : State) (off : Nat) (v : Word) : (s.setReg off v).contexts = s.contexts := rfl
@[simp] theorem setReg_tlb (s : State) (off : Nat) (v : Word) : (s.setReg off v).tlb = s.tlb := rfl
@[simp] theorem setReg_lines (s : State) (off : Nat) (v : Word) : (s.setReg off v).lines = s.lines := rfl
@[simp] theorem setReg_stamps (s : State) (off : Nat) (v : Word) : (s.setReg off v).stamps = s.stamps := rfl
@[simp] theorem setReg_misses (s : State) (off : Nat) (v : Word) : (s.setReg off v).misses = s.misses := rfl
@[simp] theorem setReg_filter (s : State) (off : Nat) (v : Word) : (s.setReg off v).filter = s.filter := rfl
@[simp] theorem setReg_replicas (s : State) (off : Nat) (v : Word) : (s.setReg off v).replicas = s.replicas := rfl
@[simp] theorem setReg_forwards (s : State) (off : Nat) (v : Word) : (s.setReg off v).forwards = s.forwards := rfl
@[simp] theorem setReg_faults (s : State) (off : Nat) (v : Word) : (s.setReg off v).faults = s.faults := rfl
@[simp] theorem setReg_launches (s : State) (off : Nat) (v : Word) : (s.setReg off v).launches = s.launches := rfl
@[simp] theorem setReg_conts (s : State) (off : Nat) (v : Word) : (s.setReg off v).conts = s.conts := rfl
@[simp] theorem setReg_held (s : State) (off : Nat) (v : Word) : (s.setReg off v).held = s.held := rfl
@[simp] theorem setReg_lqNext (s : State) (off : Nat) (v : Word) : (s.setReg off v).lqNext = s.lqNext := rfl
@[simp] theorem setReg_barriers (s : State) (off : Nat) (v : Word) : (s.setReg off v).barriers = s.barriers := rfl
@[simp] theorem setReg_arrivals (s : State) (off : Nat) (v : Word) : (s.setReg off v).arrivals = s.arrivals := rfl
@[simp] theorem setReg_colls (s : State) (off : Nat) (v : Word) : (s.setReg off v).colls = s.colls := rfl
@[simp] theorem setReg_peerSeen (s : State) (off : Nat) (v : Word) : (s.setReg off v).peerSeen = s.peerSeen := rfl
@[simp] theorem setReg_samples (s : State) (off : Nat) (v : Word) : (s.setReg off v).samples = s.samples := rfl
@[simp] theorem setReg_opLru (s : State) (off : Nat) (v : Word) : (s.setReg off v).opLru = s.opLru := rfl
@[simp] theorem setReg_opBest (s : State) (off : Nat) (v : Word) : (s.setReg off v).opBest = s.opBest := rfl
@[simp] theorem setReg_holes (s : State) (off : Nat) (v : Word) : (s.setReg off v).holes = s.holes := rfl
@[simp] theorem setReg_fabric (s : State) (off : Nat) (v : Word) : (s.setReg off v).fabric = s.fabric := rfl
@[simp] theorem setReg_ilvSeen (s : State) (off : Nat) (v : Word) : (s.setReg off v).ilvSeen = s.ilvSeen := rfl
@[simp] theorem setReg_errs (s : State) (off : Nat) (v : Word) : (s.setReg off v).errs = s.errs := rfl
@[simp] theorem setReg_report (s : State) (off : Nat) (v : Word) : (s.setReg off v).report = s.report := rfl
@[simp] theorem setReg_hostValue (s : State) (off : Nat) (v : Word) : (s.setReg off v).hostValue = s.hostValue := rfl
@[simp] theorem setReg_swapAt (s : State) (off : Nat) (v : Word) : (s.setReg off v).swapAt = s.swapAt := rfl
@[simp] theorem setReg_opMark (s : State) (off : Nat) (v : Word) : (s.setReg off v).opMark = s.opMark := rfl
@[simp] theorem setReg_peerOut (s : State) (off : Nat) (v : Word) : (s.setReg off v).peerOut = s.peerOut := rfl
@[simp] theorem setReg_peerSent (s : State) (off : Nat) (v : Word) : (s.setReg off v).peerSent = s.peerSent := rfl
@[simp] theorem setReg_jobs (s : State) (off : Nat) (v : Word) : (s.setReg off v).jobs = s.jobs := rfl
@[simp] theorem setReg_units (s : State) (off : Nat) (v : Word) : (s.setReg off v).units = s.units := rfl
@[simp] theorem setReg_replayed (s : State) (off : Nat) (v : Word) : (s.setReg off v).replayed = s.replayed := rfl
@[simp] theorem setReg_served (s : State) (off : Nat) (v : Word) : (s.setReg off v).served = s.served := rfl
@[simp] theorem setReg_capWins (s : State) (off : Nat) (v : Word) : (s.setReg off v).capWins = s.capWins := rfl
@[simp] theorem setReg_slot (s : State) (off : Nat) (v : Word) (j : Nat) : (s.setReg off v).slot j = s.slot j := rfl
@[simp] theorem setReg_core (s : State) (off : Nat) (v : Word) (j : Nat) : (s.setReg off v).core j = s.core j := rfl
@[simp] theorem setReg_cell (s : State) (off : Nat) (v : Word) (j : Nat) : (s.setReg off v).cell j = s.cell j := rfl

/-! ## `push` -/

@[simp] theorem push_cur (s : State) (ts : List Turn) : (s.push ts).cur = s.cur := rfl
@[simp] theorem push_rota (s : State) (ts : List Turn) : (s.push ts).rota = s.rota := rfl
@[simp] theorem push_agenda (s : State) (ts : List Turn) : (s.push ts).agenda = s.agenda := rfl
@[simp] theorem push_workTurn (s : State) (ts : List Turn) : (s.push ts).workTurn = s.workTurn := rfl
@[simp] theorem push_nextId (s : State) (ts : List Turn) : (s.push ts).nextId = s.nextId := rfl
@[simp] theorem push_freeCtr (s : State) (ts : List Turn) : (s.push ts).freeCtr = s.freeCtr := rfl
@[simp] theorem push_powered (s : State) (ts : List Turn) : (s.push ts).powered = s.powered := rfl
@[simp] theorem push_gts (s : State) (ts : List Turn) : (s.push ts).gts = s.gts := rfl
@[simp] theorem push_slots (s : State) (ts : List Turn) : (s.push ts).slots = s.slots := rfl
@[simp] theorem push_cores (s : State) (ts : List Turn) : (s.push ts).cores = s.cores := rfl
@[simp] theorem push_cells (s : State) (ts : List Turn) : (s.push ts).cells = s.cells := rfl
@[simp] theorem push_regs (s : State) (ts : List Turn) : (s.push ts).regs = s.regs := rfl
@[simp] theorem push_phys (s : State) (ts : List Turn) : (s.push ts).phys = s.phys := rfl
@[simp] theorem push_lineKey (s : State) (ts : List Turn) : (s.push ts).lineKey = s.lineKey := rfl
@[simp] theorem push_keyMat (s : State) (ts : List Turn) : (s.push ts).keyMat = s.keyMat := rfl
@[simp] theorem push_commons (s : State) (ts : List Turn) : (s.push ts).commons = s.commons := rfl
@[simp] theorem push_flight (s : State) (ts : List Turn) : (s.push ts).flight = s.flight := rfl
@[simp] theorem push_tokens (s : State) (ts : List Turn) : (s.push ts).tokens = s.tokens := rfl
@[simp] theorem push_messages (s : State) (ts : List Turn) : (s.push ts).messages = s.messages := rfl
@[simp] theorem push_contexts (s : State) (ts : List Turn) : (s.push ts).contexts = s.contexts := rfl
@[simp] theorem push_tlb (s : State) (ts : List Turn) : (s.push ts).tlb = s.tlb := rfl
@[simp] theorem push_lines (s : State) (ts : List Turn) : (s.push ts).lines = s.lines := rfl
@[simp] theorem push_stamps (s : State) (ts : List Turn) : (s.push ts).stamps = s.stamps := rfl
@[simp] theorem push_misses (s : State) (ts : List Turn) : (s.push ts).misses = s.misses := rfl
@[simp] theorem push_filter (s : State) (ts : List Turn) : (s.push ts).filter = s.filter := rfl
@[simp] theorem push_replicas (s : State) (ts : List Turn) : (s.push ts).replicas = s.replicas := rfl
@[simp] theorem push_forwards (s : State) (ts : List Turn) : (s.push ts).forwards = s.forwards := rfl
@[simp] theorem push_faults (s : State) (ts : List Turn) : (s.push ts).faults = s.faults := rfl
@[simp] theorem push_launches (s : State) (ts : List Turn) : (s.push ts).launches = s.launches := rfl
@[simp] theorem push_conts (s : State) (ts : List Turn) : (s.push ts).conts = s.conts := rfl
@[simp] theorem push_held (s : State) (ts : List Turn) : (s.push ts).held = s.held := rfl
@[simp] theorem push_lqNext (s : State) (ts : List Turn) : (s.push ts).lqNext = s.lqNext := rfl
@[simp] theorem push_barriers (s : State) (ts : List Turn) : (s.push ts).barriers = s.barriers := rfl
@[simp] theorem push_arrivals (s : State) (ts : List Turn) : (s.push ts).arrivals = s.arrivals := rfl
@[simp] theorem push_colls (s : State) (ts : List Turn) : (s.push ts).colls = s.colls := rfl
@[simp] theorem push_peerSeen (s : State) (ts : List Turn) : (s.push ts).peerSeen = s.peerSeen := rfl
@[simp] theorem push_samples (s : State) (ts : List Turn) : (s.push ts).samples = s.samples := rfl
@[simp] theorem push_opLru (s : State) (ts : List Turn) : (s.push ts).opLru = s.opLru := rfl
@[simp] theorem push_opBest (s : State) (ts : List Turn) : (s.push ts).opBest = s.opBest := rfl
@[simp] theorem push_holes (s : State) (ts : List Turn) : (s.push ts).holes = s.holes := rfl
@[simp] theorem push_fabric (s : State) (ts : List Turn) : (s.push ts).fabric = s.fabric := rfl
@[simp] theorem push_ilvSeen (s : State) (ts : List Turn) : (s.push ts).ilvSeen = s.ilvSeen := rfl
@[simp] theorem push_errs (s : State) (ts : List Turn) : (s.push ts).errs = s.errs := rfl
@[simp] theorem push_report (s : State) (ts : List Turn) : (s.push ts).report = s.report := rfl
@[simp] theorem push_hostValue (s : State) (ts : List Turn) : (s.push ts).hostValue = s.hostValue := rfl
@[simp] theorem push_swapAt (s : State) (ts : List Turn) : (s.push ts).swapAt = s.swapAt := rfl
@[simp] theorem push_opMark (s : State) (ts : List Turn) : (s.push ts).opMark = s.opMark := rfl
@[simp] theorem push_peerOut (s : State) (ts : List Turn) : (s.push ts).peerOut = s.peerOut := rfl
@[simp] theorem push_peerSent (s : State) (ts : List Turn) : (s.push ts).peerSent = s.peerSent := rfl
@[simp] theorem push_jobs (s : State) (ts : List Turn) : (s.push ts).jobs = s.jobs := rfl
@[simp] theorem push_units (s : State) (ts : List Turn) : (s.push ts).units = s.units := rfl
@[simp] theorem push_replayed (s : State) (ts : List Turn) : (s.push ts).replayed = s.replayed := rfl
@[simp] theorem push_served (s : State) (ts : List Turn) : (s.push ts).served = s.served := rfl
@[simp] theorem push_capWins (s : State) (ts : List Turn) : (s.push ts).capWins = s.capWins := rfl
@[simp] theorem push_slot (s : State) (ts : List Turn) (j : Nat) : (s.push ts).slot j = s.slot j := rfl
@[simp] theorem push_core (s : State) (ts : List Turn) (j : Nat) : (s.push ts).core j = s.core j := rfl
@[simp] theorem push_cell (s : State) (ts : List Turn) (j : Nat) : (s.push ts).cell j = s.cell j := rfl
@[simp] theorem push_reg (s : State) (ts : List Turn) (o : Nat) : (s.push ts).reg o = s.reg o := rfl

/-! ## `pushE` -/

@[simp] theorem pushE_cur (s : State) (i : Instr) : (s.pushE i).cur = s.cur := rfl
@[simp] theorem pushE_rota (s : State) (i : Instr) : (s.pushE i).rota = s.rota := rfl
@[simp] theorem pushE_agenda (s : State) (i : Instr) : (s.pushE i).agenda = s.agenda := rfl
@[simp] theorem pushE_workTurn (s : State) (i : Instr) : (s.pushE i).workTurn = s.workTurn := rfl
@[simp] theorem pushE_nextId (s : State) (i : Instr) : (s.pushE i).nextId = s.nextId := rfl
@[simp] theorem pushE_freeCtr (s : State) (i : Instr) : (s.pushE i).freeCtr = s.freeCtr := rfl
@[simp] theorem pushE_powered (s : State) (i : Instr) : (s.pushE i).powered = s.powered := rfl
@[simp] theorem pushE_gts (s : State) (i : Instr) : (s.pushE i).gts = s.gts := rfl
@[simp] theorem pushE_slots (s : State) (i : Instr) : (s.pushE i).slots = s.slots := rfl
@[simp] theorem pushE_cores (s : State) (i : Instr) : (s.pushE i).cores = s.cores := rfl
@[simp] theorem pushE_cells (s : State) (i : Instr) : (s.pushE i).cells = s.cells := rfl
@[simp] theorem pushE_regs (s : State) (i : Instr) : (s.pushE i).regs = s.regs := rfl
@[simp] theorem pushE_phys (s : State) (i : Instr) : (s.pushE i).phys = s.phys := rfl
@[simp] theorem pushE_lineKey (s : State) (i : Instr) : (s.pushE i).lineKey = s.lineKey := rfl
@[simp] theorem pushE_keyMat (s : State) (i : Instr) : (s.pushE i).keyMat = s.keyMat := rfl
@[simp] theorem pushE_commons (s : State) (i : Instr) : (s.pushE i).commons = s.commons := rfl
@[simp] theorem pushE_flight (s : State) (i : Instr) : (s.pushE i).flight = s.flight := rfl
@[simp] theorem pushE_tokens (s : State) (i : Instr) : (s.pushE i).tokens = s.tokens := rfl
@[simp] theorem pushE_messages (s : State) (i : Instr) : (s.pushE i).messages = s.messages := rfl
@[simp] theorem pushE_contexts (s : State) (i : Instr) : (s.pushE i).contexts = s.contexts := rfl
@[simp] theorem pushE_tlb (s : State) (i : Instr) : (s.pushE i).tlb = s.tlb := rfl
@[simp] theorem pushE_lines (s : State) (i : Instr) : (s.pushE i).lines = s.lines := rfl
@[simp] theorem pushE_stamps (s : State) (i : Instr) : (s.pushE i).stamps = s.stamps := rfl
@[simp] theorem pushE_misses (s : State) (i : Instr) : (s.pushE i).misses = s.misses := rfl
@[simp] theorem pushE_filter (s : State) (i : Instr) : (s.pushE i).filter = s.filter := rfl
@[simp] theorem pushE_replicas (s : State) (i : Instr) : (s.pushE i).replicas = s.replicas := rfl
@[simp] theorem pushE_forwards (s : State) (i : Instr) : (s.pushE i).forwards = s.forwards := rfl
@[simp] theorem pushE_faults (s : State) (i : Instr) : (s.pushE i).faults = s.faults := rfl
@[simp] theorem pushE_launches (s : State) (i : Instr) : (s.pushE i).launches = s.launches := rfl
@[simp] theorem pushE_conts (s : State) (i : Instr) : (s.pushE i).conts = s.conts := rfl
@[simp] theorem pushE_held (s : State) (i : Instr) : (s.pushE i).held = s.held := rfl
@[simp] theorem pushE_lqNext (s : State) (i : Instr) : (s.pushE i).lqNext = s.lqNext := rfl
@[simp] theorem pushE_barriers (s : State) (i : Instr) : (s.pushE i).barriers = s.barriers := rfl
@[simp] theorem pushE_arrivals (s : State) (i : Instr) : (s.pushE i).arrivals = s.arrivals := rfl
@[simp] theorem pushE_colls (s : State) (i : Instr) : (s.pushE i).colls = s.colls := rfl
@[simp] theorem pushE_peerSeen (s : State) (i : Instr) : (s.pushE i).peerSeen = s.peerSeen := rfl
@[simp] theorem pushE_samples (s : State) (i : Instr) : (s.pushE i).samples = s.samples := rfl
@[simp] theorem pushE_opLru (s : State) (i : Instr) : (s.pushE i).opLru = s.opLru := rfl
@[simp] theorem pushE_opBest (s : State) (i : Instr) : (s.pushE i).opBest = s.opBest := rfl
@[simp] theorem pushE_holes (s : State) (i : Instr) : (s.pushE i).holes = s.holes := rfl
@[simp] theorem pushE_fabric (s : State) (i : Instr) : (s.pushE i).fabric = s.fabric := rfl
@[simp] theorem pushE_ilvSeen (s : State) (i : Instr) : (s.pushE i).ilvSeen = s.ilvSeen := rfl
@[simp] theorem pushE_errs (s : State) (i : Instr) : (s.pushE i).errs = s.errs := rfl
@[simp] theorem pushE_report (s : State) (i : Instr) : (s.pushE i).report = s.report := rfl
@[simp] theorem pushE_hostValue (s : State) (i : Instr) : (s.pushE i).hostValue = s.hostValue := rfl
@[simp] theorem pushE_swapAt (s : State) (i : Instr) : (s.pushE i).swapAt = s.swapAt := rfl
@[simp] theorem pushE_opMark (s : State) (i : Instr) : (s.pushE i).opMark = s.opMark := rfl
@[simp] theorem pushE_peerOut (s : State) (i : Instr) : (s.pushE i).peerOut = s.peerOut := rfl
@[simp] theorem pushE_peerSent (s : State) (i : Instr) : (s.pushE i).peerSent = s.peerSent := rfl
@[simp] theorem pushE_jobs (s : State) (i : Instr) : (s.pushE i).jobs = s.jobs := rfl
@[simp] theorem pushE_units (s : State) (i : Instr) : (s.pushE i).units = s.units := rfl
@[simp] theorem pushE_replayed (s : State) (i : Instr) : (s.pushE i).replayed = s.replayed := rfl
@[simp] theorem pushE_served (s : State) (i : Instr) : (s.pushE i).served = s.served := rfl
@[simp] theorem pushE_capWins (s : State) (i : Instr) : (s.pushE i).capWins = s.capWins := rfl
@[simp] theorem pushE_slot (s : State) (i : Instr) (j : Nat) : (s.pushE i).slot j = s.slot j := rfl
@[simp] theorem pushE_core (s : State) (i : Instr) (j : Nat) : (s.pushE i).core j = s.core j := rfl
@[simp] theorem pushE_cell (s : State) (i : Instr) (j : Nat) : (s.pushE i).cell j = s.cell j := rfl
@[simp] theorem pushE_reg (s : State) (i : Instr) (o : Nat) : (s.pushE i).reg o = s.reg o := rfl

/-! ## `setAccess` -/

@[simp] theorem setAccess_cur (s : State) (a : Access) : (s.setAccess a).cur = s.cur := rfl
@[simp] theorem setAccess_rota (s : State) (a : Access) : (s.setAccess a).rota = s.rota := rfl
@[simp] theorem setAccess_agenda (s : State) (a : Access) : (s.setAccess a).agenda = s.agenda := rfl
@[simp] theorem setAccess_work (s : State) (a : Access) : (s.setAccess a).work = s.work := rfl
@[simp] theorem setAccess_workTurn (s : State) (a : Access) : (s.setAccess a).workTurn = s.workTurn := rfl
@[simp] theorem setAccess_nextId (s : State) (a : Access) : (s.setAccess a).nextId = s.nextId := rfl
@[simp] theorem setAccess_freeCtr (s : State) (a : Access) : (s.setAccess a).freeCtr = s.freeCtr := rfl
@[simp] theorem setAccess_powered (s : State) (a : Access) : (s.setAccess a).powered = s.powered := rfl
@[simp] theorem setAccess_gts (s : State) (a : Access) : (s.setAccess a).gts = s.gts := rfl
@[simp] theorem setAccess_slots (s : State) (a : Access) : (s.setAccess a).slots = s.slots := rfl
@[simp] theorem setAccess_cores (s : State) (a : Access) : (s.setAccess a).cores = s.cores := rfl
@[simp] theorem setAccess_cells (s : State) (a : Access) : (s.setAccess a).cells = s.cells := rfl
@[simp] theorem setAccess_regs (s : State) (a : Access) : (s.setAccess a).regs = s.regs := rfl
@[simp] theorem setAccess_phys (s : State) (a : Access) : (s.setAccess a).phys = s.phys := rfl
@[simp] theorem setAccess_lineKey (s : State) (a : Access) : (s.setAccess a).lineKey = s.lineKey := rfl
@[simp] theorem setAccess_keyMat (s : State) (a : Access) : (s.setAccess a).keyMat = s.keyMat := rfl
@[simp] theorem setAccess_commons (s : State) (a : Access) : (s.setAccess a).commons = s.commons := rfl
@[simp] theorem setAccess_tokens (s : State) (a : Access) : (s.setAccess a).tokens = s.tokens := rfl
@[simp] theorem setAccess_messages (s : State) (a : Access) : (s.setAccess a).messages = s.messages := rfl
@[simp] theorem setAccess_contexts (s : State) (a : Access) : (s.setAccess a).contexts = s.contexts := rfl
@[simp] theorem setAccess_tlb (s : State) (a : Access) : (s.setAccess a).tlb = s.tlb := rfl
@[simp] theorem setAccess_lines (s : State) (a : Access) : (s.setAccess a).lines = s.lines := rfl
@[simp] theorem setAccess_stamps (s : State) (a : Access) : (s.setAccess a).stamps = s.stamps := rfl
@[simp] theorem setAccess_misses (s : State) (a : Access) : (s.setAccess a).misses = s.misses := rfl
@[simp] theorem setAccess_filter (s : State) (a : Access) : (s.setAccess a).filter = s.filter := rfl
@[simp] theorem setAccess_replicas (s : State) (a : Access) : (s.setAccess a).replicas = s.replicas := rfl
@[simp] theorem setAccess_forwards (s : State) (a : Access) : (s.setAccess a).forwards = s.forwards := rfl
@[simp] theorem setAccess_faults (s : State) (a : Access) : (s.setAccess a).faults = s.faults := rfl
@[simp] theorem setAccess_launches (s : State) (a : Access) : (s.setAccess a).launches = s.launches := rfl
@[simp] theorem setAccess_conts (s : State) (a : Access) : (s.setAccess a).conts = s.conts := rfl
@[simp] theorem setAccess_held (s : State) (a : Access) : (s.setAccess a).held = s.held := rfl
@[simp] theorem setAccess_lqNext (s : State) (a : Access) : (s.setAccess a).lqNext = s.lqNext := rfl
@[simp] theorem setAccess_barriers (s : State) (a : Access) : (s.setAccess a).barriers = s.barriers := rfl
@[simp] theorem setAccess_arrivals (s : State) (a : Access) : (s.setAccess a).arrivals = s.arrivals := rfl
@[simp] theorem setAccess_colls (s : State) (a : Access) : (s.setAccess a).colls = s.colls := rfl
@[simp] theorem setAccess_peerSeen (s : State) (a : Access) : (s.setAccess a).peerSeen = s.peerSeen := rfl
@[simp] theorem setAccess_samples (s : State) (a : Access) : (s.setAccess a).samples = s.samples := rfl
@[simp] theorem setAccess_opLru (s : State) (a : Access) : (s.setAccess a).opLru = s.opLru := rfl
@[simp] theorem setAccess_opBest (s : State) (a : Access) : (s.setAccess a).opBest = s.opBest := rfl
@[simp] theorem setAccess_holes (s : State) (a : Access) : (s.setAccess a).holes = s.holes := rfl
@[simp] theorem setAccess_fabric (s : State) (a : Access) : (s.setAccess a).fabric = s.fabric := rfl
@[simp] theorem setAccess_ilvSeen (s : State) (a : Access) : (s.setAccess a).ilvSeen = s.ilvSeen := rfl
@[simp] theorem setAccess_errs (s : State) (a : Access) : (s.setAccess a).errs = s.errs := rfl
@[simp] theorem setAccess_report (s : State) (a : Access) : (s.setAccess a).report = s.report := rfl
@[simp] theorem setAccess_hostValue (s : State) (a : Access) : (s.setAccess a).hostValue = s.hostValue := rfl
@[simp] theorem setAccess_swapAt (s : State) (a : Access) : (s.setAccess a).swapAt = s.swapAt := rfl
@[simp] theorem setAccess_opMark (s : State) (a : Access) : (s.setAccess a).opMark = s.opMark := rfl
@[simp] theorem setAccess_peerOut (s : State) (a : Access) : (s.setAccess a).peerOut = s.peerOut := rfl
@[simp] theorem setAccess_peerSent (s : State) (a : Access) : (s.setAccess a).peerSent = s.peerSent := rfl
@[simp] theorem setAccess_jobs (s : State) (a : Access) : (s.setAccess a).jobs = s.jobs := rfl
@[simp] theorem setAccess_units (s : State) (a : Access) : (s.setAccess a).units = s.units := rfl
@[simp] theorem setAccess_replayed (s : State) (a : Access) : (s.setAccess a).replayed = s.replayed := rfl
@[simp] theorem setAccess_served (s : State) (a : Access) : (s.setAccess a).served = s.served := rfl
@[simp] theorem setAccess_capWins (s : State) (a : Access) : (s.setAccess a).capWins = s.capWins := rfl
@[simp] theorem setAccess_slot (s : State) (a : Access) (j : Nat) : (s.setAccess a).slot j = s.slot j := rfl
@[simp] theorem setAccess_core (s : State) (a : Access) (j : Nat) : (s.setAccess a).core j = s.core j := rfl
@[simp] theorem setAccess_cell (s : State) (a : Access) (j : Nat) : (s.setAccess a).cell j = s.cell j := rfl
@[simp] theorem setAccess_reg (s : State) (a : Access) (o : Nat) : (s.setAccess a).reg o = s.reg o := rfl

/-! ## `dropAccess` -/

@[simp] theorem dropAccess_cur (s : State) (n : Nat) : (s.dropAccess n).cur = s.cur := rfl
@[simp] theorem dropAccess_rota (s : State) (n : Nat) : (s.dropAccess n).rota = s.rota := rfl
@[simp] theorem dropAccess_agenda (s : State) (n : Nat) : (s.dropAccess n).agenda = s.agenda := rfl
@[simp] theorem dropAccess_work (s : State) (n : Nat) : (s.dropAccess n).work = s.work := rfl
@[simp] theorem dropAccess_workTurn (s : State) (n : Nat) : (s.dropAccess n).workTurn = s.workTurn := rfl
@[simp] theorem dropAccess_nextId (s : State) (n : Nat) : (s.dropAccess n).nextId = s.nextId := rfl
@[simp] theorem dropAccess_freeCtr (s : State) (n : Nat) : (s.dropAccess n).freeCtr = s.freeCtr := rfl
@[simp] theorem dropAccess_powered (s : State) (n : Nat) : (s.dropAccess n).powered = s.powered := rfl
@[simp] theorem dropAccess_gts (s : State) (n : Nat) : (s.dropAccess n).gts = s.gts := rfl
@[simp] theorem dropAccess_slots (s : State) (n : Nat) : (s.dropAccess n).slots = s.slots := rfl
@[simp] theorem dropAccess_cores (s : State) (n : Nat) : (s.dropAccess n).cores = s.cores := rfl
@[simp] theorem dropAccess_cells (s : State) (n : Nat) : (s.dropAccess n).cells = s.cells := rfl
@[simp] theorem dropAccess_regs (s : State) (n : Nat) : (s.dropAccess n).regs = s.regs := rfl
@[simp] theorem dropAccess_phys (s : State) (n : Nat) : (s.dropAccess n).phys = s.phys := rfl
@[simp] theorem dropAccess_lineKey (s : State) (n : Nat) : (s.dropAccess n).lineKey = s.lineKey := rfl
@[simp] theorem dropAccess_keyMat (s : State) (n : Nat) : (s.dropAccess n).keyMat = s.keyMat := rfl
@[simp] theorem dropAccess_commons (s : State) (n : Nat) : (s.dropAccess n).commons = s.commons := rfl
@[simp] theorem dropAccess_tokens (s : State) (n : Nat) : (s.dropAccess n).tokens = s.tokens := rfl
@[simp] theorem dropAccess_messages (s : State) (n : Nat) : (s.dropAccess n).messages = s.messages := rfl
@[simp] theorem dropAccess_contexts (s : State) (n : Nat) : (s.dropAccess n).contexts = s.contexts := rfl
@[simp] theorem dropAccess_tlb (s : State) (n : Nat) : (s.dropAccess n).tlb = s.tlb := rfl
@[simp] theorem dropAccess_lines (s : State) (n : Nat) : (s.dropAccess n).lines = s.lines := rfl
@[simp] theorem dropAccess_stamps (s : State) (n : Nat) : (s.dropAccess n).stamps = s.stamps := rfl
@[simp] theorem dropAccess_misses (s : State) (n : Nat) : (s.dropAccess n).misses = s.misses := rfl
@[simp] theorem dropAccess_filter (s : State) (n : Nat) : (s.dropAccess n).filter = s.filter := rfl
@[simp] theorem dropAccess_replicas (s : State) (n : Nat) : (s.dropAccess n).replicas = s.replicas := rfl
@[simp] theorem dropAccess_forwards (s : State) (n : Nat) : (s.dropAccess n).forwards = s.forwards := rfl
@[simp] theorem dropAccess_faults (s : State) (n : Nat) : (s.dropAccess n).faults = s.faults := rfl
@[simp] theorem dropAccess_launches (s : State) (n : Nat) : (s.dropAccess n).launches = s.launches := rfl
@[simp] theorem dropAccess_conts (s : State) (n : Nat) : (s.dropAccess n).conts = s.conts := rfl
@[simp] theorem dropAccess_held (s : State) (n : Nat) : (s.dropAccess n).held = s.held := rfl
@[simp] theorem dropAccess_lqNext (s : State) (n : Nat) : (s.dropAccess n).lqNext = s.lqNext := rfl
@[simp] theorem dropAccess_barriers (s : State) (n : Nat) : (s.dropAccess n).barriers = s.barriers := rfl
@[simp] theorem dropAccess_arrivals (s : State) (n : Nat) : (s.dropAccess n).arrivals = s.arrivals := rfl
@[simp] theorem dropAccess_colls (s : State) (n : Nat) : (s.dropAccess n).colls = s.colls := rfl
@[simp] theorem dropAccess_peerSeen (s : State) (n : Nat) : (s.dropAccess n).peerSeen = s.peerSeen := rfl
@[simp] theorem dropAccess_samples (s : State) (n : Nat) : (s.dropAccess n).samples = s.samples := rfl
@[simp] theorem dropAccess_opLru (s : State) (n : Nat) : (s.dropAccess n).opLru = s.opLru := rfl
@[simp] theorem dropAccess_opBest (s : State) (n : Nat) : (s.dropAccess n).opBest = s.opBest := rfl
@[simp] theorem dropAccess_holes (s : State) (n : Nat) : (s.dropAccess n).holes = s.holes := rfl
@[simp] theorem dropAccess_fabric (s : State) (n : Nat) : (s.dropAccess n).fabric = s.fabric := rfl
@[simp] theorem dropAccess_ilvSeen (s : State) (n : Nat) : (s.dropAccess n).ilvSeen = s.ilvSeen := rfl
@[simp] theorem dropAccess_errs (s : State) (n : Nat) : (s.dropAccess n).errs = s.errs := rfl
@[simp] theorem dropAccess_report (s : State) (n : Nat) : (s.dropAccess n).report = s.report := rfl
@[simp] theorem dropAccess_hostValue (s : State) (n : Nat) : (s.dropAccess n).hostValue = s.hostValue := rfl
@[simp] theorem dropAccess_swapAt (s : State) (n : Nat) : (s.dropAccess n).swapAt = s.swapAt := rfl
@[simp] theorem dropAccess_opMark (s : State) (n : Nat) : (s.dropAccess n).opMark = s.opMark := rfl
@[simp] theorem dropAccess_peerOut (s : State) (n : Nat) : (s.dropAccess n).peerOut = s.peerOut := rfl
@[simp] theorem dropAccess_peerSent (s : State) (n : Nat) : (s.dropAccess n).peerSent = s.peerSent := rfl
@[simp] theorem dropAccess_jobs (s : State) (n : Nat) : (s.dropAccess n).jobs = s.jobs := rfl
@[simp] theorem dropAccess_units (s : State) (n : Nat) : (s.dropAccess n).units = s.units := rfl
@[simp] theorem dropAccess_replayed (s : State) (n : Nat) : (s.dropAccess n).replayed = s.replayed := rfl
@[simp] theorem dropAccess_served (s : State) (n : Nat) : (s.dropAccess n).served = s.served := rfl
@[simp] theorem dropAccess_capWins (s : State) (n : Nat) : (s.dropAccess n).capWins = s.capWins := rfl
@[simp] theorem dropAccess_slot (s : State) (n : Nat) (j : Nat) : (s.dropAccess n).slot j = s.slot j := rfl
@[simp] theorem dropAccess_core (s : State) (n : Nat) (j : Nat) : (s.dropAccess n).core j = s.core j := rfl
@[simp] theorem dropAccess_cell (s : State) (n : Nat) (j : Nat) : (s.dropAccess n).cell j = s.cell j := rfl
@[simp] theorem dropAccess_reg (s : State) (n : Nat) (o : Nat) : (s.dropAccess n).reg o = s.reg o := rfl

/-! ## `launch` -/

@[simp] theorem launch_cur (s : State) (a : Access) : (s.launch a).cur = s.cur := rfl
@[simp] theorem launch_rota (s : State) (a : Access) : (s.launch a).rota = s.rota := rfl
@[simp] theorem launch_agenda (s : State) (a : Access) : (s.launch a).agenda = s.agenda := rfl
@[simp] theorem launch_work (s : State) (a : Access) : (s.launch a).work = s.work := rfl
@[simp] theorem launch_workTurn (s : State) (a : Access) : (s.launch a).workTurn = s.workTurn := rfl
@[simp] theorem launch_freeCtr (s : State) (a : Access) : (s.launch a).freeCtr = s.freeCtr := rfl
@[simp] theorem launch_powered (s : State) (a : Access) : (s.launch a).powered = s.powered := rfl
@[simp] theorem launch_gts (s : State) (a : Access) : (s.launch a).gts = s.gts := rfl
@[simp] theorem launch_slots (s : State) (a : Access) : (s.launch a).slots = s.slots := rfl
@[simp] theorem launch_cores (s : State) (a : Access) : (s.launch a).cores = s.cores := rfl
@[simp] theorem launch_cells (s : State) (a : Access) : (s.launch a).cells = s.cells := rfl
@[simp] theorem launch_regs (s : State) (a : Access) : (s.launch a).regs = s.regs := rfl
@[simp] theorem launch_phys (s : State) (a : Access) : (s.launch a).phys = s.phys := rfl
@[simp] theorem launch_lineKey (s : State) (a : Access) : (s.launch a).lineKey = s.lineKey := rfl
@[simp] theorem launch_keyMat (s : State) (a : Access) : (s.launch a).keyMat = s.keyMat := rfl
@[simp] theorem launch_commons (s : State) (a : Access) : (s.launch a).commons = s.commons := rfl
@[simp] theorem launch_tokens (s : State) (a : Access) : (s.launch a).tokens = s.tokens := rfl
@[simp] theorem launch_messages (s : State) (a : Access) : (s.launch a).messages = s.messages := rfl
@[simp] theorem launch_contexts (s : State) (a : Access) : (s.launch a).contexts = s.contexts := rfl
@[simp] theorem launch_tlb (s : State) (a : Access) : (s.launch a).tlb = s.tlb := rfl
@[simp] theorem launch_lines (s : State) (a : Access) : (s.launch a).lines = s.lines := rfl
@[simp] theorem launch_stamps (s : State) (a : Access) : (s.launch a).stamps = s.stamps := rfl
@[simp] theorem launch_misses (s : State) (a : Access) : (s.launch a).misses = s.misses := rfl
@[simp] theorem launch_filter (s : State) (a : Access) : (s.launch a).filter = s.filter := rfl
@[simp] theorem launch_replicas (s : State) (a : Access) : (s.launch a).replicas = s.replicas := rfl
@[simp] theorem launch_forwards (s : State) (a : Access) : (s.launch a).forwards = s.forwards := rfl
@[simp] theorem launch_faults (s : State) (a : Access) : (s.launch a).faults = s.faults := rfl
@[simp] theorem launch_launches (s : State) (a : Access) : (s.launch a).launches = s.launches := rfl
@[simp] theorem launch_conts (s : State) (a : Access) : (s.launch a).conts = s.conts := rfl
@[simp] theorem launch_held (s : State) (a : Access) : (s.launch a).held = s.held := rfl
@[simp] theorem launch_lqNext (s : State) (a : Access) : (s.launch a).lqNext = s.lqNext := rfl
@[simp] theorem launch_barriers (s : State) (a : Access) : (s.launch a).barriers = s.barriers := rfl
@[simp] theorem launch_arrivals (s : State) (a : Access) : (s.launch a).arrivals = s.arrivals := rfl
@[simp] theorem launch_colls (s : State) (a : Access) : (s.launch a).colls = s.colls := rfl
@[simp] theorem launch_peerSeen (s : State) (a : Access) : (s.launch a).peerSeen = s.peerSeen := rfl
@[simp] theorem launch_samples (s : State) (a : Access) : (s.launch a).samples = s.samples := rfl
@[simp] theorem launch_opLru (s : State) (a : Access) : (s.launch a).opLru = s.opLru := rfl
@[simp] theorem launch_opBest (s : State) (a : Access) : (s.launch a).opBest = s.opBest := rfl
@[simp] theorem launch_holes (s : State) (a : Access) : (s.launch a).holes = s.holes := rfl
@[simp] theorem launch_fabric (s : State) (a : Access) : (s.launch a).fabric = s.fabric := rfl
@[simp] theorem launch_ilvSeen (s : State) (a : Access) : (s.launch a).ilvSeen = s.ilvSeen := rfl
@[simp] theorem launch_errs (s : State) (a : Access) : (s.launch a).errs = s.errs := rfl
@[simp] theorem launch_report (s : State) (a : Access) : (s.launch a).report = s.report := rfl
@[simp] theorem launch_hostValue (s : State) (a : Access) : (s.launch a).hostValue = s.hostValue := rfl
@[simp] theorem launch_swapAt (s : State) (a : Access) : (s.launch a).swapAt = s.swapAt := rfl
@[simp] theorem launch_opMark (s : State) (a : Access) : (s.launch a).opMark = s.opMark := rfl
@[simp] theorem launch_peerOut (s : State) (a : Access) : (s.launch a).peerOut = s.peerOut := rfl
@[simp] theorem launch_peerSent (s : State) (a : Access) : (s.launch a).peerSent = s.peerSent := rfl
@[simp] theorem launch_jobs (s : State) (a : Access) : (s.launch a).jobs = s.jobs := rfl
@[simp] theorem launch_units (s : State) (a : Access) : (s.launch a).units = s.units := rfl
@[simp] theorem launch_replayed (s : State) (a : Access) : (s.launch a).replayed = s.replayed := rfl
@[simp] theorem launch_served (s : State) (a : Access) : (s.launch a).served = s.served := rfl
@[simp] theorem launch_capWins (s : State) (a : Access) : (s.launch a).capWins = s.capWins := rfl
@[simp] theorem launch_slot (s : State) (a : Access) (j : Nat) : (s.launch a).slot j = s.slot j := rfl
@[simp] theorem launch_core (s : State) (a : Access) (j : Nat) : (s.launch a).core j = s.core j := rfl
@[simp] theorem launch_cell (s : State) (a : Access) (j : Nat) : (s.launch a).cell j = s.cell j := rfl
@[simp] theorem launch_reg (s : State) (a : Access) (o : Nat) : (s.launch a).reg o = s.reg o := rfl

/-! ## `setBarrier` -/

@[simp] theorem setBarrier_cur (s : State) (p b : Nat) (x : Barrier) : (s.setBarrier p b x).cur = s.cur := rfl
@[simp] theorem setBarrier_rota (s : State) (p b : Nat) (x : Barrier) : (s.setBarrier p b x).rota = s.rota := rfl
@[simp] theorem setBarrier_agenda (s : State) (p b : Nat) (x : Barrier) : (s.setBarrier p b x).agenda = s.agenda := rfl
@[simp] theorem setBarrier_work (s : State) (p b : Nat) (x : Barrier) : (s.setBarrier p b x).work = s.work := rfl
@[simp] theorem setBarrier_workTurn (s : State) (p b : Nat) (x : Barrier) : (s.setBarrier p b x).workTurn = s.workTurn := rfl
@[simp] theorem setBarrier_nextId (s : State) (p b : Nat) (x : Barrier) : (s.setBarrier p b x).nextId = s.nextId := rfl
@[simp] theorem setBarrier_freeCtr (s : State) (p b : Nat) (x : Barrier) : (s.setBarrier p b x).freeCtr = s.freeCtr := rfl
@[simp] theorem setBarrier_powered (s : State) (p b : Nat) (x : Barrier) : (s.setBarrier p b x).powered = s.powered := rfl
@[simp] theorem setBarrier_gts (s : State) (p b : Nat) (x : Barrier) : (s.setBarrier p b x).gts = s.gts := rfl
@[simp] theorem setBarrier_slots (s : State) (p b : Nat) (x : Barrier) : (s.setBarrier p b x).slots = s.slots := rfl
@[simp] theorem setBarrier_cores (s : State) (p b : Nat) (x : Barrier) : (s.setBarrier p b x).cores = s.cores := rfl
@[simp] theorem setBarrier_cells (s : State) (p b : Nat) (x : Barrier) : (s.setBarrier p b x).cells = s.cells := rfl
@[simp] theorem setBarrier_regs (s : State) (p b : Nat) (x : Barrier) : (s.setBarrier p b x).regs = s.regs := rfl
@[simp] theorem setBarrier_phys (s : State) (p b : Nat) (x : Barrier) : (s.setBarrier p b x).phys = s.phys := rfl
@[simp] theorem setBarrier_lineKey (s : State) (p b : Nat) (x : Barrier) : (s.setBarrier p b x).lineKey = s.lineKey := rfl
@[simp] theorem setBarrier_keyMat (s : State) (p b : Nat) (x : Barrier) : (s.setBarrier p b x).keyMat = s.keyMat := rfl
@[simp] theorem setBarrier_commons (s : State) (p b : Nat) (x : Barrier) : (s.setBarrier p b x).commons = s.commons := rfl
@[simp] theorem setBarrier_flight (s : State) (p b : Nat) (x : Barrier) : (s.setBarrier p b x).flight = s.flight := rfl
@[simp] theorem setBarrier_tokens (s : State) (p b : Nat) (x : Barrier) : (s.setBarrier p b x).tokens = s.tokens := rfl
@[simp] theorem setBarrier_messages (s : State) (p b : Nat) (x : Barrier) : (s.setBarrier p b x).messages = s.messages := rfl
@[simp] theorem setBarrier_contexts (s : State) (p b : Nat) (x : Barrier) : (s.setBarrier p b x).contexts = s.contexts := rfl
@[simp] theorem setBarrier_tlb (s : State) (p b : Nat) (x : Barrier) : (s.setBarrier p b x).tlb = s.tlb := rfl
@[simp] theorem setBarrier_lines (s : State) (p b : Nat) (x : Barrier) : (s.setBarrier p b x).lines = s.lines := rfl
@[simp] theorem setBarrier_stamps (s : State) (p b : Nat) (x : Barrier) : (s.setBarrier p b x).stamps = s.stamps := rfl
@[simp] theorem setBarrier_misses (s : State) (p b : Nat) (x : Barrier) : (s.setBarrier p b x).misses = s.misses := rfl
@[simp] theorem setBarrier_filter (s : State) (p b : Nat) (x : Barrier) : (s.setBarrier p b x).filter = s.filter := rfl
@[simp] theorem setBarrier_replicas (s : State) (p b : Nat) (x : Barrier) : (s.setBarrier p b x).replicas = s.replicas := rfl
@[simp] theorem setBarrier_forwards (s : State) (p b : Nat) (x : Barrier) : (s.setBarrier p b x).forwards = s.forwards := rfl
@[simp] theorem setBarrier_faults (s : State) (p b : Nat) (x : Barrier) : (s.setBarrier p b x).faults = s.faults := rfl
@[simp] theorem setBarrier_launches (s : State) (p b : Nat) (x : Barrier) : (s.setBarrier p b x).launches = s.launches := rfl
@[simp] theorem setBarrier_conts (s : State) (p b : Nat) (x : Barrier) : (s.setBarrier p b x).conts = s.conts := rfl
@[simp] theorem setBarrier_held (s : State) (p b : Nat) (x : Barrier) : (s.setBarrier p b x).held = s.held := rfl
@[simp] theorem setBarrier_lqNext (s : State) (p b : Nat) (x : Barrier) : (s.setBarrier p b x).lqNext = s.lqNext := rfl
@[simp] theorem setBarrier_arrivals (s : State) (p b : Nat) (x : Barrier) : (s.setBarrier p b x).arrivals = s.arrivals := rfl
@[simp] theorem setBarrier_colls (s : State) (p b : Nat) (x : Barrier) : (s.setBarrier p b x).colls = s.colls := rfl
@[simp] theorem setBarrier_peerSeen (s : State) (p b : Nat) (x : Barrier) : (s.setBarrier p b x).peerSeen = s.peerSeen := rfl
@[simp] theorem setBarrier_samples (s : State) (p b : Nat) (x : Barrier) : (s.setBarrier p b x).samples = s.samples := rfl
@[simp] theorem setBarrier_opLru (s : State) (p b : Nat) (x : Barrier) : (s.setBarrier p b x).opLru = s.opLru := rfl
@[simp] theorem setBarrier_opBest (s : State) (p b : Nat) (x : Barrier) : (s.setBarrier p b x).opBest = s.opBest := rfl
@[simp] theorem setBarrier_holes (s : State) (p b : Nat) (x : Barrier) : (s.setBarrier p b x).holes = s.holes := rfl
@[simp] theorem setBarrier_fabric (s : State) (p b : Nat) (x : Barrier) : (s.setBarrier p b x).fabric = s.fabric := rfl
@[simp] theorem setBarrier_ilvSeen (s : State) (p b : Nat) (x : Barrier) : (s.setBarrier p b x).ilvSeen = s.ilvSeen := rfl
@[simp] theorem setBarrier_errs (s : State) (p b : Nat) (x : Barrier) : (s.setBarrier p b x).errs = s.errs := rfl
@[simp] theorem setBarrier_report (s : State) (p b : Nat) (x : Barrier) : (s.setBarrier p b x).report = s.report := rfl
@[simp] theorem setBarrier_hostValue (s : State) (p b : Nat) (x : Barrier) : (s.setBarrier p b x).hostValue = s.hostValue := rfl
@[simp] theorem setBarrier_swapAt (s : State) (p b : Nat) (x : Barrier) : (s.setBarrier p b x).swapAt = s.swapAt := rfl
@[simp] theorem setBarrier_opMark (s : State) (p b : Nat) (x : Barrier) : (s.setBarrier p b x).opMark = s.opMark := rfl
@[simp] theorem setBarrier_peerOut (s : State) (p b : Nat) (x : Barrier) : (s.setBarrier p b x).peerOut = s.peerOut := rfl
@[simp] theorem setBarrier_peerSent (s : State) (p b : Nat) (x : Barrier) : (s.setBarrier p b x).peerSent = s.peerSent := rfl
@[simp] theorem setBarrier_jobs (s : State) (p b : Nat) (x : Barrier) : (s.setBarrier p b x).jobs = s.jobs := rfl
@[simp] theorem setBarrier_units (s : State) (p b : Nat) (x : Barrier) : (s.setBarrier p b x).units = s.units := rfl
@[simp] theorem setBarrier_replayed (s : State) (p b : Nat) (x : Barrier) : (s.setBarrier p b x).replayed = s.replayed := rfl
@[simp] theorem setBarrier_served (s : State) (p b : Nat) (x : Barrier) : (s.setBarrier p b x).served = s.served := rfl
@[simp] theorem setBarrier_capWins (s : State) (p b : Nat) (x : Barrier) : (s.setBarrier p b x).capWins = s.capWins := rfl
@[simp] theorem setBarrier_slot (s : State) (p b : Nat) (x : Barrier) (j : Nat) : (s.setBarrier p b x).slot j = s.slot j := rfl
@[simp] theorem setBarrier_core (s : State) (p b : Nat) (x : Barrier) (j : Nat) : (s.setBarrier p b x).core j = s.core j := rfl
@[simp] theorem setBarrier_cell (s : State) (p b : Nat) (x : Barrier) (j : Nat) : (s.setBarrier p b x).cell j = s.cell j := rfl
@[simp] theorem setBarrier_reg (s : State) (p b : Nat) (x : Barrier) (o : Nat) : (s.setBarrier p b x).reg o = s.reg o := rfl

@[simp] theorem pushE_work (s : State) (i : Instr) : (s.pushE i).work = s.work ++ [.event i] := rfl
@[simp] theorem push_work (s : State) (ts : List Turn) : (s.push ts).work = s.work ++ ts := rfl

end State

end Sys2Proof.Machine
end

