-- ==== Sys2Proof/Laws/Slot.lean ====
section
/-! SUPPORT. What each update of a slot leaves alone: one lemma for each field and update; and what a register reads as after a
write. -/

namespace Sys2Proof.Machine

namespace Slot

/-! ## `take` -/

@[simp] theorem take_status (x : Slot) (r : Nat) (b : Bool) : (x.take r b).status = x.status := by
  unfold take; split <;> rfl
@[simp] theorem take_gen (x : Slot) (r : Nat) (b : Bool) : (x.take r b).gen = x.gen := by
  unfold take; split <;> rfl
@[simp] theorem take_pc (x : Slot) (r : Nat) (b : Bool) : (x.take r b).pc = x.pc := by
  unfold take; split <;> rfl
@[simp] theorem take_ns (x : Slot) (r : Nat) (b : Bool) : (x.take r b).ns = x.ns := by
  unfold take; split <;> rfl
@[simp] theorem take_nv (x : Slot) (r : Nat) (b : Bool) : (x.take r b).nv = x.nv := by
  unfold take; split <;> rfl
@[simp] theorem take_sreg (x : Slot) (r : Nat) (b : Bool) : (x.take r b).sreg = x.sreg := by
  unfold take; split <;> rfl
@[simp] theorem take_vreg (x : Slot) (r : Nat) (b : Bool) : (x.take r b).vreg = x.vreg := by
  unfold take; split <;> rfl
@[simp] theorem take_preg (x : Slot) (r : Nat) (b : Bool) : (x.take r b).preg = x.preg := by
  unfold take; split <;> rfl
@[simp] theorem take_spend (x : Slot) (r : Nat) (b : Bool) : (x.take r b).spend = x.spend := by
  unfold take; split <;> rfl
@[simp] theorem take_serr (x : Slot) (r : Nat) (b : Bool) : (x.take r b).serr = x.serr := by
  unfold take; split <;> rfl
@[simp] theorem take_vfull (x : Slot) (r : Nat) (b : Bool) : (x.take r b).vfull = x.vfull := by
  unfold take; split <;> rfl
@[simp] theorem take_vpend (x : Slot) (r : Nat) (b : Bool) : (x.take r b).vpend = x.vpend := by
  unfold take; split <;> rfl
@[simp] theorem take_vdead (x : Slot) (r : Nat) (b : Bool) : (x.take r b).vdead = x.vdead := by
  unfold take; split <;> rfl
@[simp] theorem take_verr (x : Slot) (r : Nat) (b : Bool) : (x.take r b).verr = x.verr := by
  unfold take; split <;> rfl
@[simp] theorem take_pfull (x : Slot) (r : Nat) (b : Bool) : (x.take r b).pfull = x.pfull := by
  unfold take; split <;> rfl
@[simp] theorem take_ppend (x : Slot) (r : Nat) (b : Bool) : (x.take r b).ppend = x.ppend := by
  unfold take; split <;> rfl
@[simp] theorem take_perr (x : Slot) (r : Nat) (b : Bool) : (x.take r b).perr = x.perr := by
  unfold take; split <;> rfl
@[simp] theorem take_phase (x : Slot) (r : Nat) (b : Bool) : (x.take r b).phase = x.phase := by
  unfold take; split <;> rfl
@[simp] theorem take_tid (x : Slot) (r : Nat) (b : Bool) : (x.take r b).tid = x.tid := by
  unfold take; split <;> rfl
@[simp] theorem take_tix (x : Slot) (r : Nat) (b : Bool) : (x.take r b).tix = x.tix := by
  unfold take; split <;> rfl
@[simp] theorem take_tiy (x : Slot) (r : Nat) (b : Bool) : (x.take r b).tiy = x.tiy := by
  unfold take; split <;> rfl
@[simp] theorem take_tiz (x : Slot) (r : Nat) (b : Bool) : (x.take r b).tiz = x.tiz := by
  unfold take; split <;> rfl
@[simp] theorem take_targ (x : Slot) (r : Nat) (b : Bool) : (x.take r b).targ = x.targ := by
  unfold take; split <;> rfl
@[simp] theorem take_tfmt (x : Slot) (r : Nat) (b : Bool) : (x.take r b).tfmt = x.tfmt := by
  unfold take; split <;> rfl
@[simp] theorem take_tsca (x : Slot) (r : Nat) (b : Bool) : (x.take r b).tsca = x.tsca := by
  unfold take; split <;> rfl
@[simp] theorem take_tscb (x : Slot) (r : Nat) (b : Bool) : (x.take r b).tscb = x.tscb := by
  unfold take; split <;> rfl
@[simp] theorem take_tkey (x : Slot) (r : Nat) (b : Bool) : (x.take r b).tkey = x.tkey := by
  unfold take; split <;> rfl
@[simp] theorem take_vfmt (x : Slot) (r : Nat) (b : Bool) : (x.take r b).vfmt = x.vfmt := by
  unfold take; split <;> rfl
@[simp] theorem take_rmode (x : Slot) (r : Nat) (b : Bool) : (x.take r b).rmode = x.rmode := by
  unfold take; split <;> rfl
@[simp] theorem take_fflags (x : Slot) (r : Nat) (b : Bool) : (x.take r b).fflags = x.fflags := by
  unfold take; split <;> rfl
@[simp] theorem take_greq (x : Slot) (r : Nat) (b : Bool) : (x.take r b).greq = x.greq := by
  unfold take; split <;> rfl
@[simp] theorem take_cvmask (x : Slot) (r : Nat) (b : Bool) : (x.take r b).cvmask = x.cvmask := by
  unfold take; split <;> rfl
@[simp] theorem take_colr (x : Slot) (r : Nat) (b : Bool) : (x.take r b).colr = x.colr := by
  unfold take; split <;> rfl
@[simp] theorem take_parklim (x : Slot) (r : Nat) (b : Bool) : (x.take r b).parklim = x.parklim := by
  unfold take; split <;> rfl
@[simp] theorem take_unack (x : Slot) (r : Nat) (b : Bool) : (x.take r b).unack = x.unack := by
  unfold take; split <;> rfl
@[simp] theorem take_aown (x : Slot) (r : Nat) (b : Bool) : (x.take r b).aown = x.aown := by
  unfold take; split <;> rfl
@[simp] theorem take_tvec (x : Slot) (r : Nat) (b : Bool) : (x.take r b).tvec = x.tvec := by
  unfold take; split <;> rfl
@[simp] theorem take_tcause (x : Slot) (r : Nat) (b : Bool) : (x.take r b).tcause = x.tcause := by
  unfold take; split <;> rfl
@[simp] theorem take_tepc (x : Slot) (r : Nat) (b : Bool) : (x.take r b).tepc = x.tepc := by
  unfold take; split <;> rfl
@[simp] theorem take_tval (x : Slot) (r : Nat) (b : Bool) : (x.take r b).tval = x.tval := by
  unfold take; split <;> rfl
@[simp] theorem take_save (x : Slot) (r : Nat) (b : Bool) : (x.take r b).save = x.save := by
  unfold take; split <;> rfl
@[simp] theorem take_park (x : Slot) (r : Nat) (b : Bool) : (x.take r b).park = x.park := by
  unfold take; split <;> rfl
@[simp] theorem take_tries (x : Slot) (r : Nat) (b : Bool) : (x.take r b).tries = x.tries := by
  unfold take; split <;> rfl
@[simp] theorem take_await (x : Slot) (r : Nat) (b : Bool) : (x.take r b).await = x.await := by
  unfold take; split <;> rfl
@[simp] theorem take_killReq (x : Slot) (r : Nat) (b : Bool) : (x.take r b).killReq = x.killReq := by
  unfold take; split <;> rfl
@[simp] theorem take_deferred (x : Slot) (r : Nat) (b : Bool) : (x.take r b).deferred = x.deferred := by
  unfold take; split <;> rfl
@[simp] theorem take_cap (x : Slot) (r : Nat) (b : Bool) : (x.take r b).cap = x.cap := by
  unfold take; split <;> rfl
@[simp] theorem take_replay (x : Slot) (r : Nat) (b : Bool) : (x.take r b).replay = x.replay := by
  unfold take; split <;> rfl
@[simp] theorem take_fork (x : Slot) (r : Nat) (b : Bool) : (x.take r b).fork = x.fork := by
  unfold take; split <;> rfl
@[simp] theorem take_opIdx (x : Slot) (r : Nat) (b : Bool) : (x.take r b).opIdx = x.opIdx := by
  unfold take; split <;> rfl
@[simp] theorem take_removedAt (x : Slot) (r : Nat) (b : Bool) : (x.take r b).removedAt = x.removedAt := by
  unfold take; split <;> rfl
@[simp] theorem take_exemptUntil (x : Slot) (r : Nat) (b : Bool) : (x.take r b).exemptUntil = x.exemptUntil := by
  unfold take; split <;> rfl
@[simp] theorem take_shoot (x : Slot) (r : Nat) (b : Bool) : (x.take r b).shoot = x.shoot := by
  unfold take; split <;> rfl

/-! ## `putS` -/

@[simp] theorem putS_status (x : Slot) (r : Nat) (v : Word) : (x.putS r v).status = x.status := by
  unfold putS; split <;> rfl
@[simp] theorem putS_gen (x : Slot) (r : Nat) (v : Word) : (x.putS r v).gen = x.gen := by
  unfold putS; split <;> rfl
@[simp] theorem putS_pc (x : Slot) (r : Nat) (v : Word) : (x.putS r v).pc = x.pc := by
  unfold putS; split <;> rfl
@[simp] theorem putS_ns (x : Slot) (r : Nat) (v : Word) : (x.putS r v).ns = x.ns := by
  unfold putS; split <;> rfl
@[simp] theorem putS_nv (x : Slot) (r : Nat) (v : Word) : (x.putS r v).nv = x.nv := by
  unfold putS; split <;> rfl
@[simp] theorem putS_vreg (x : Slot) (r : Nat) (v : Word) : (x.putS r v).vreg = x.vreg := by
  unfold putS; split <;> rfl
@[simp] theorem putS_preg (x : Slot) (r : Nat) (v : Word) : (x.putS r v).preg = x.preg := by
  unfold putS; split <;> rfl
@[simp] theorem putS_spend (x : Slot) (r : Nat) (v : Word) : (x.putS r v).spend = x.spend := by
  unfold putS; split <;> rfl
@[simp] theorem putS_vfull (x : Slot) (r : Nat) (v : Word) : (x.putS r v).vfull = x.vfull := by
  unfold putS; split <;> rfl
@[simp] theorem putS_vpend (x : Slot) (r : Nat) (v : Word) : (x.putS r v).vpend = x.vpend := by
  unfold putS; split <;> rfl
@[simp] theorem putS_vdead (x : Slot) (r : Nat) (v : Word) : (x.putS r v).vdead = x.vdead := by
  unfold putS; split <;> rfl
@[simp] theorem putS_verr (x : Slot) (r : Nat) (v : Word) : (x.putS r v).verr = x.verr := by
  unfold putS; split <;> rfl
@[simp] theorem putS_pfull (x : Slot) (r : Nat) (v : Word) : (x.putS r v).pfull = x.pfull := by
  unfold putS; split <;> rfl
@[simp] theorem putS_ppend (x : Slot) (r : Nat) (v : Word) : (x.putS r v).ppend = x.ppend := by
  unfold putS; split <;> rfl
@[simp] theorem putS_perr (x : Slot) (r : Nat) (v : Word) : (x.putS r v).perr = x.perr := by
  unfold putS; split <;> rfl
@[simp] theorem putS_phase (x : Slot) (r : Nat) (v : Word) : (x.putS r v).phase = x.phase := by
  unfold putS; split <;> rfl
@[simp] theorem putS_tid (x : Slot) (r : Nat) (v : Word) : (x.putS r v).tid = x.tid := by
  unfold putS; split <;> rfl
@[simp] theorem putS_tix (x : Slot) (r : Nat) (v : Word) : (x.putS r v).tix = x.tix := by
  unfold putS; split <;> rfl
@[simp] theorem putS_tiy (x : Slot) (r : Nat) (v : Word) : (x.putS r v).tiy = x.tiy := by
  unfold putS; split <;> rfl
@[simp] theorem putS_tiz (x : Slot) (r : Nat) (v : Word) : (x.putS r v).tiz = x.tiz := by
  unfold putS; split <;> rfl
@[simp] theorem putS_targ (x : Slot) (r : Nat) (v : Word) : (x.putS r v).targ = x.targ := by
  unfold putS; split <;> rfl
@[simp] theorem putS_tfmt (x : Slot) (r : Nat) (v : Word) : (x.putS r v).tfmt = x.tfmt := by
  unfold putS; split <;> rfl
@[simp] theorem putS_tsca (x : Slot) (r : Nat) (v : Word) : (x.putS r v).tsca = x.tsca := by
  unfold putS; split <;> rfl
@[simp] theorem putS_tscb (x : Slot) (r : Nat) (v : Word) : (x.putS r v).tscb = x.tscb := by
  unfold putS; split <;> rfl
@[simp] theorem putS_tkey (x : Slot) (r : Nat) (v : Word) : (x.putS r v).tkey = x.tkey := by
  unfold putS; split <;> rfl
@[simp] theorem putS_vfmt (x : Slot) (r : Nat) (v : Word) : (x.putS r v).vfmt = x.vfmt := by
  unfold putS; split <;> rfl
@[simp] theorem putS_rmode (x : Slot) (r : Nat) (v : Word) : (x.putS r v).rmode = x.rmode := by
  unfold putS; split <;> rfl
@[simp] theorem putS_fflags (x : Slot) (r : Nat) (v : Word) : (x.putS r v).fflags = x.fflags := by
  unfold putS; split <;> rfl
@[simp] theorem putS_greq (x : Slot) (r : Nat) (v : Word) : (x.putS r v).greq = x.greq := by
  unfold putS; split <;> rfl
@[simp] theorem putS_cvmask (x : Slot) (r : Nat) (v : Word) : (x.putS r v).cvmask = x.cvmask := by
  unfold putS; split <;> rfl
@[simp] theorem putS_colr (x : Slot) (r : Nat) (v : Word) : (x.putS r v).colr = x.colr := by
  unfold putS; split <;> rfl
@[simp] theorem putS_parklim (x : Slot) (r : Nat) (v : Word) : (x.putS r v).parklim = x.parklim := by
  unfold putS; split <;> rfl
@[simp] theorem putS_unack (x : Slot) (r : Nat) (v : Word) : (x.putS r v).unack = x.unack := by
  unfold putS; split <;> rfl
@[simp] theorem putS_aown (x : Slot) (r : Nat) (v : Word) : (x.putS r v).aown = x.aown := by
  unfold putS; split <;> rfl
@[simp] theorem putS_tvec (x : Slot) (r : Nat) (v : Word) : (x.putS r v).tvec = x.tvec := by
  unfold putS; split <;> rfl
@[simp] theorem putS_tcause (x : Slot) (r : Nat) (v : Word) : (x.putS r v).tcause = x.tcause := by
  unfold putS; split <;> rfl
@[simp] theorem putS_tepc (x : Slot) (r : Nat) (v : Word) : (x.putS r v).tepc = x.tepc := by
  unfold putS; split <;> rfl
@[simp] theorem putS_tval (x : Slot) (r : Nat) (v : Word) : (x.putS r v).tval = x.tval := by
  unfold putS; split <;> rfl
@[simp] theorem putS_save (x : Slot) (r : Nat) (v : Word) : (x.putS r v).save = x.save := by
  unfold putS; split <;> rfl
@[simp] theorem putS_park (x : Slot) (r : Nat) (v : Word) : (x.putS r v).park = x.park := by
  unfold putS; split <;> rfl
@[simp] theorem putS_tries (x : Slot) (r : Nat) (v : Word) : (x.putS r v).tries = x.tries := by
  unfold putS; split <;> rfl
@[simp] theorem putS_await (x : Slot) (r : Nat) (v : Word) : (x.putS r v).await = x.await := by
  unfold putS; split <;> rfl
@[simp] theorem putS_killReq (x : Slot) (r : Nat) (v : Word) : (x.putS r v).killReq = x.killReq := by
  unfold putS; split <;> rfl
@[simp] theorem putS_deferred (x : Slot) (r : Nat) (v : Word) : (x.putS r v).deferred = x.deferred := by
  unfold putS; split <;> rfl
@[simp] theorem putS_cap (x : Slot) (r : Nat) (v : Word) : (x.putS r v).cap = x.cap := by
  unfold putS; split <;> rfl
@[simp] theorem putS_replay (x : Slot) (r : Nat) (v : Word) : (x.putS r v).replay = x.replay := by
  unfold putS; split <;> rfl
@[simp] theorem putS_fork (x : Slot) (r : Nat) (v : Word) : (x.putS r v).fork = x.fork := by
  unfold putS; split <;> rfl
@[simp] theorem putS_opIdx (x : Slot) (r : Nat) (v : Word) : (x.putS r v).opIdx = x.opIdx := by
  unfold putS; split <;> rfl
@[simp] theorem putS_removedAt (x : Slot) (r : Nat) (v : Word) : (x.putS r v).removedAt = x.removedAt := by
  unfold putS; split <;> rfl
@[simp] theorem putS_exemptUntil (x : Slot) (r : Nat) (v : Word) : (x.putS r v).exemptUntil = x.exemptUntil := by
  unfold putS; split <;> rfl
@[simp] theorem putS_shoot (x : Slot) (r : Nat) (v : Word) : (x.putS r v).shoot = x.shoot := by
  unfold putS; split <;> rfl

/-! ## `fillS` -/

@[simp] theorem fillS_status (x : Slot) (r : Nat) (v : Word) : (x.fillS r v).status = x.status := by
  unfold fillS putS; split <;> rfl
@[simp] theorem fillS_gen (x : Slot) (r : Nat) (v : Word) : (x.fillS r v).gen = x.gen := by
  unfold fillS putS; split <;> rfl
@[simp] theorem fillS_pc (x : Slot) (r : Nat) (v : Word) : (x.fillS r v).pc = x.pc := by
  unfold fillS putS; split <;> rfl
@[simp] theorem fillS_ns (x : Slot) (r : Nat) (v : Word) : (x.fillS r v).ns = x.ns := by
  unfold fillS putS; split <;> rfl
@[simp] theorem fillS_nv (x : Slot) (r : Nat) (v : Word) : (x.fillS r v).nv = x.nv := by
  unfold fillS putS; split <;> rfl
@[simp] theorem fillS_vreg (x : Slot) (r : Nat) (v : Word) : (x.fillS r v).vreg = x.vreg := by
  unfold fillS putS; split <;> rfl
@[simp] theorem fillS_preg (x : Slot) (r : Nat) (v : Word) : (x.fillS r v).preg = x.preg := by
  unfold fillS putS; split <;> rfl
@[simp] theorem fillS_vfull (x : Slot) (r : Nat) (v : Word) : (x.fillS r v).vfull = x.vfull := by
  unfold fillS putS; split <;> rfl
@[simp] theorem fillS_vpend (x : Slot) (r : Nat) (v : Word) : (x.fillS r v).vpend = x.vpend := by
  unfold fillS putS; split <;> rfl
@[simp] theorem fillS_vdead (x : Slot) (r : Nat) (v : Word) : (x.fillS r v).vdead = x.vdead := by
  unfold fillS putS; split <;> rfl
@[simp] theorem fillS_verr (x : Slot) (r : Nat) (v : Word) : (x.fillS r v).verr = x.verr := by
  unfold fillS putS; split <;> rfl
@[simp] theorem fillS_pfull (x : Slot) (r : Nat) (v : Word) : (x.fillS r v).pfull = x.pfull := by
  unfold fillS putS; split <;> rfl
@[simp] theorem fillS_ppend (x : Slot) (r : Nat) (v : Word) : (x.fillS r v).ppend = x.ppend := by
  unfold fillS putS; split <;> rfl
@[simp] theorem fillS_perr (x : Slot) (r : Nat) (v : Word) : (x.fillS r v).perr = x.perr := by
  unfold fillS putS; split <;> rfl
@[simp] theorem fillS_phase (x : Slot) (r : Nat) (v : Word) : (x.fillS r v).phase = x.phase := by
  unfold fillS putS; split <;> rfl
@[simp] theorem fillS_tid (x : Slot) (r : Nat) (v : Word) : (x.fillS r v).tid = x.tid := by
  unfold fillS putS; split <;> rfl
@[simp] theorem fillS_tix (x : Slot) (r : Nat) (v : Word) : (x.fillS r v).tix = x.tix := by
  unfold fillS putS; split <;> rfl
@[simp] theorem fillS_tiy (x : Slot) (r : Nat) (v : Word) : (x.fillS r v).tiy = x.tiy := by
  unfold fillS putS; split <;> rfl
@[simp] theorem fillS_tiz (x : Slot) (r : Nat) (v : Word) : (x.fillS r v).tiz = x.tiz := by
  unfold fillS putS; split <;> rfl
@[simp] theorem fillS_targ (x : Slot) (r : Nat) (v : Word) : (x.fillS r v).targ = x.targ := by
  unfold fillS putS; split <;> rfl
@[simp] theorem fillS_tfmt (x : Slot) (r : Nat) (v : Word) : (x.fillS r v).tfmt = x.tfmt := by
  unfold fillS putS; split <;> rfl
@[simp] theorem fillS_tsca (x : Slot) (r : Nat) (v : Word) : (x.fillS r v).tsca = x.tsca := by
  unfold fillS putS; split <;> rfl
@[simp] theorem fillS_tscb (x : Slot) (r : Nat) (v : Word) : (x.fillS r v).tscb = x.tscb := by
  unfold fillS putS; split <;> rfl
@[simp] theorem fillS_tkey (x : Slot) (r : Nat) (v : Word) : (x.fillS r v).tkey = x.tkey := by
  unfold fillS putS; split <;> rfl
@[simp] theorem fillS_vfmt (x : Slot) (r : Nat) (v : Word) : (x.fillS r v).vfmt = x.vfmt := by
  unfold fillS putS; split <;> rfl
@[simp] theorem fillS_rmode (x : Slot) (r : Nat) (v : Word) : (x.fillS r v).rmode = x.rmode := by
  unfold fillS putS; split <;> rfl
@[simp] theorem fillS_fflags (x : Slot) (r : Nat) (v : Word) : (x.fillS r v).fflags = x.fflags := by
  unfold fillS putS; split <;> rfl
@[simp] theorem fillS_greq (x : Slot) (r : Nat) (v : Word) : (x.fillS r v).greq = x.greq := by
  unfold fillS putS; split <;> rfl
@[simp] theorem fillS_cvmask (x : Slot) (r : Nat) (v : Word) : (x.fillS r v).cvmask = x.cvmask := by
  unfold fillS putS; split <;> rfl
@[simp] theorem fillS_colr (x : Slot) (r : Nat) (v : Word) : (x.fillS r v).colr = x.colr := by
  unfold fillS putS; split <;> rfl
@[simp] theorem fillS_parklim (x : Slot) (r : Nat) (v : Word) : (x.fillS r v).parklim = x.parklim := by
  unfold fillS putS; split <;> rfl
@[simp] theorem fillS_unack (x : Slot) (r : Nat) (v : Word) : (x.fillS r v).unack = x.unack := by
  unfold fillS putS; split <;> rfl
@[simp] theorem fillS_aown (x : Slot) (r : Nat) (v : Word) : (x.fillS r v).aown = x.aown := by
  unfold fillS putS; split <;> rfl
@[simp] theorem fillS_tvec (x : Slot) (r : Nat) (v : Word) : (x.fillS r v).tvec = x.tvec := by
  unfold fillS putS; split <;> rfl
@[simp] theorem fillS_tcause (x : Slot) (r : Nat) (v : Word) : (x.fillS r v).tcause = x.tcause := by
  unfold fillS putS; split <;> rfl
@[simp] theorem fillS_tepc (x : Slot) (r : Nat) (v : Word) : (x.fillS r v).tepc = x.tepc := by
  unfold fillS putS; split <;> rfl
@[simp] theorem fillS_tval (x : Slot) (r : Nat) (v : Word) : (x.fillS r v).tval = x.tval := by
  unfold fillS putS; split <;> rfl
@[simp] theorem fillS_save (x : Slot) (r : Nat) (v : Word) : (x.fillS r v).save = x.save := by
  unfold fillS putS; split <;> rfl
@[simp] theorem fillS_park (x : Slot) (r : Nat) (v : Word) : (x.fillS r v).park = x.park := by
  unfold fillS putS; split <;> rfl
@[simp] theorem fillS_tries (x : Slot) (r : Nat) (v : Word) : (x.fillS r v).tries = x.tries := by
  unfold fillS putS; split <;> rfl
@[simp] theorem fillS_await (x : Slot) (r : Nat) (v : Word) : (x.fillS r v).await = x.await := by
  unfold fillS putS; split <;> rfl
@[simp] theorem fillS_killReq (x : Slot) (r : Nat) (v : Word) : (x.fillS r v).killReq = x.killReq := by
  unfold fillS putS; split <;> rfl
@[simp] theorem fillS_deferred (x : Slot) (r : Nat) (v : Word) : (x.fillS r v).deferred = x.deferred := by
  unfold fillS putS; split <;> rfl
@[simp] theorem fillS_cap (x : Slot) (r : Nat) (v : Word) : (x.fillS r v).cap = x.cap := by
  unfold fillS putS; split <;> rfl
@[simp] theorem fillS_replay (x : Slot) (r : Nat) (v : Word) : (x.fillS r v).replay = x.replay := by
  unfold fillS putS; split <;> rfl
@[simp] theorem fillS_fork (x : Slot) (r : Nat) (v : Word) : (x.fillS r v).fork = x.fork := by
  unfold fillS putS; split <;> rfl
@[simp] theorem fillS_opIdx (x : Slot) (r : Nat) (v : Word) : (x.fillS r v).opIdx = x.opIdx := by
  unfold fillS putS; split <;> rfl
@[simp] theorem fillS_removedAt (x : Slot) (r : Nat) (v : Word) : (x.fillS r v).removedAt = x.removedAt := by
  unfold fillS putS; split <;> rfl
@[simp] theorem fillS_exemptUntil (x : Slot) (r : Nat) (v : Word) : (x.fillS r v).exemptUntil = x.exemptUntil := by
  unfold fillS putS; split <;> rfl
@[simp] theorem fillS_shoot (x : Slot) (r : Nat) (v : Word) : (x.fillS r v).shoot = x.shoot := by
  unfold fillS putS; split <;> rfl

/-! ## `oweS` -/

@[simp] theorem oweS_status (x : Slot) (r : Nat) : (x.oweS r).status = x.status := by
  unfold oweS; split <;> rfl
@[simp] theorem oweS_gen (x : Slot) (r : Nat) : (x.oweS r).gen = x.gen := by
  unfold oweS; split <;> rfl
@[simp] theorem oweS_pc (x : Slot) (r : Nat) : (x.oweS r).pc = x.pc := by
  unfold oweS; split <;> rfl
@[simp] theorem oweS_ns (x : Slot) (r : Nat) : (x.oweS r).ns = x.ns := by
  unfold oweS; split <;> rfl
@[simp] theorem oweS_nv (x : Slot) (r : Nat) : (x.oweS r).nv = x.nv := by
  unfold oweS; split <;> rfl
@[simp] theorem oweS_sreg (x : Slot) (r : Nat) : (x.oweS r).sreg = x.sreg := by
  unfold oweS; split <;> rfl
@[simp] theorem oweS_vreg (x : Slot) (r : Nat) : (x.oweS r).vreg = x.vreg := by
  unfold oweS; split <;> rfl
@[simp] theorem oweS_preg (x : Slot) (r : Nat) : (x.oweS r).preg = x.preg := by
  unfold oweS; split <;> rfl
@[simp] theorem oweS_sdead (x : Slot) (r : Nat) : (x.oweS r).sdead = x.sdead := by
  unfold oweS; split <;> rfl
@[simp] theorem oweS_serr (x : Slot) (r : Nat) : (x.oweS r).serr = x.serr := by
  unfold oweS; split <;> rfl
@[simp] theorem oweS_vfull (x : Slot) (r : Nat) : (x.oweS r).vfull = x.vfull := by
  unfold oweS; split <;> rfl
@[simp] theorem oweS_vpend (x : Slot) (r : Nat) : (x.oweS r).vpend = x.vpend := by
  unfold oweS; split <;> rfl
@[simp] theorem oweS_vdead (x : Slot) (r : Nat) : (x.oweS r).vdead = x.vdead := by
  unfold oweS; split <;> rfl
@[simp] theorem oweS_verr (x : Slot) (r : Nat) : (x.oweS r).verr = x.verr := by
  unfold oweS; split <;> rfl
@[simp] theorem oweS_pfull (x : Slot) (r : Nat) : (x.oweS r).pfull = x.pfull := by
  unfold oweS; split <;> rfl
@[simp] theorem oweS_ppend (x : Slot) (r : Nat) : (x.oweS r).ppend = x.ppend := by
  unfold oweS; split <;> rfl
@[simp] theorem oweS_perr (x : Slot) (r : Nat) : (x.oweS r).perr = x.perr := by
  unfold oweS; split <;> rfl
@[simp] theorem oweS_phase (x : Slot) (r : Nat) : (x.oweS r).phase = x.phase := by
  unfold oweS; split <;> rfl
@[simp] theorem oweS_tid (x : Slot) (r : Nat) : (x.oweS r).tid = x.tid := by
  unfold oweS; split <;> rfl
@[simp] theorem oweS_tix (x : Slot) (r : Nat) : (x.oweS r).tix = x.tix := by
  unfold oweS; split <;> rfl
@[simp] theorem oweS_tiy (x : Slot) (r : Nat) : (x.oweS r).tiy = x.tiy := by
  unfold oweS; split <;> rfl
@[simp] theorem oweS_tiz (x : Slot) (r : Nat) : (x.oweS r).tiz = x.tiz := by
  unfold oweS; split <;> rfl
@[simp] theorem oweS_targ (x : Slot) (r : Nat) : (x.oweS r).targ = x.targ := by
  unfold oweS; split <;> rfl
@[simp] theorem oweS_tfmt (x : Slot) (r : Nat) : (x.oweS r).tfmt = x.tfmt := by
  unfold oweS; split <;> rfl
@[simp] theorem oweS_tsca (x : Slot) (r : Nat) : (x.oweS r).tsca = x.tsca := by
  unfold oweS; split <;> rfl
@[simp] theorem oweS_tscb (x : Slot) (r : Nat) : (x.oweS r).tscb = x.tscb := by
  unfold oweS; split <;> rfl
@[simp] theorem oweS_tkey (x : Slot) (r : Nat) : (x.oweS r).tkey = x.tkey := by
  unfold oweS; split <;> rfl
@[simp] theorem oweS_vfmt (x : Slot) (r : Nat) : (x.oweS r).vfmt = x.vfmt := by
  unfold oweS; split <;> rfl
@[simp] theorem oweS_rmode (x : Slot) (r : Nat) : (x.oweS r).rmode = x.rmode := by
  unfold oweS; split <;> rfl
@[simp] theorem oweS_fflags (x : Slot) (r : Nat) : (x.oweS r).fflags = x.fflags := by
  unfold oweS; split <;> rfl
@[simp] theorem oweS_greq (x : Slot) (r : Nat) : (x.oweS r).greq = x.greq := by
  unfold oweS; split <;> rfl
@[simp] theorem oweS_cvmask (x : Slot) (r : Nat) : (x.oweS r).cvmask = x.cvmask := by
  unfold oweS; split <;> rfl
@[simp] theorem oweS_colr (x : Slot) (r : Nat) : (x.oweS r).colr = x.colr := by
  unfold oweS; split <;> rfl
@[simp] theorem oweS_parklim (x : Slot) (r : Nat) : (x.oweS r).parklim = x.parklim := by
  unfold oweS; split <;> rfl
@[simp] theorem oweS_unack (x : Slot) (r : Nat) : (x.oweS r).unack = x.unack := by
  unfold oweS; split <;> rfl
@[simp] theorem oweS_aown (x : Slot) (r : Nat) : (x.oweS r).aown = x.aown := by
  unfold oweS; split <;> rfl
@[simp] theorem oweS_tvec (x : Slot) (r : Nat) : (x.oweS r).tvec = x.tvec := by
  unfold oweS; split <;> rfl
@[simp] theorem oweS_tcause (x : Slot) (r : Nat) : (x.oweS r).tcause = x.tcause := by
  unfold oweS; split <;> rfl
@[simp] theorem oweS_tepc (x : Slot) (r : Nat) : (x.oweS r).tepc = x.tepc := by
  unfold oweS; split <;> rfl
@[simp] theorem oweS_tval (x : Slot) (r : Nat) : (x.oweS r).tval = x.tval := by
  unfold oweS; split <;> rfl
@[simp] theorem oweS_save (x : Slot) (r : Nat) : (x.oweS r).save = x.save := by
  unfold oweS; split <;> rfl
@[simp] theorem oweS_park (x : Slot) (r : Nat) : (x.oweS r).park = x.park := by
  unfold oweS; split <;> rfl
@[simp] theorem oweS_tries (x : Slot) (r : Nat) : (x.oweS r).tries = x.tries := by
  unfold oweS; split <;> rfl
@[simp] theorem oweS_await (x : Slot) (r : Nat) : (x.oweS r).await = x.await := by
  unfold oweS; split <;> rfl
@[simp] theorem oweS_killReq (x : Slot) (r : Nat) : (x.oweS r).killReq = x.killReq := by
  unfold oweS; split <;> rfl
@[simp] theorem oweS_deferred (x : Slot) (r : Nat) : (x.oweS r).deferred = x.deferred := by
  unfold oweS; split <;> rfl
@[simp] theorem oweS_cap (x : Slot) (r : Nat) : (x.oweS r).cap = x.cap := by
  unfold oweS; split <;> rfl
@[simp] theorem oweS_replay (x : Slot) (r : Nat) : (x.oweS r).replay = x.replay := by
  unfold oweS; split <;> rfl
@[simp] theorem oweS_fork (x : Slot) (r : Nat) : (x.oweS r).fork = x.fork := by
  unfold oweS; split <;> rfl
@[simp] theorem oweS_opIdx (x : Slot) (r : Nat) : (x.oweS r).opIdx = x.opIdx := by
  unfold oweS; split <;> rfl
@[simp] theorem oweS_removedAt (x : Slot) (r : Nat) : (x.oweS r).removedAt = x.removedAt := by
  unfold oweS; split <;> rfl
@[simp] theorem oweS_exemptUntil (x : Slot) (r : Nat) : (x.oweS r).exemptUntil = x.exemptUntil := by
  unfold oweS; split <;> rfl
@[simp] theorem oweS_shoot (x : Slot) (r : Nat) : (x.oweS r).shoot = x.shoot := by
  unfold oweS; split <;> rfl

/-! ## `putV` -/

@[simp] theorem putV_status (x : Slot) (r : Nat) (v : VReg) : (x.putV r v).status = x.status := rfl
@[simp] theorem putV_gen (x : Slot) (r : Nat) (v : VReg) : (x.putV r v).gen = x.gen := rfl
@[simp] theorem putV_pc (x : Slot) (r : Nat) (v : VReg) : (x.putV r v).pc = x.pc := rfl
@[simp] theorem putV_ns (x : Slot) (r : Nat) (v : VReg) : (x.putV r v).ns = x.ns := rfl
@[simp] theorem putV_nv (x : Slot) (r : Nat) (v : VReg) : (x.putV r v).nv = x.nv := rfl
@[simp] theorem putV_sreg (x : Slot) (r : Nat) (v : VReg) : (x.putV r v).sreg = x.sreg := rfl
@[simp] theorem putV_preg (x : Slot) (r : Nat) (v : VReg) : (x.putV r v).preg = x.preg := rfl
@[simp] theorem putV_sfull (x : Slot) (r : Nat) (v : VReg) : (x.putV r v).sfull = x.sfull := rfl
@[simp] theorem putV_spend (x : Slot) (r : Nat) (v : VReg) : (x.putV r v).spend = x.spend := rfl
@[simp] theorem putV_sdead (x : Slot) (r : Nat) (v : VReg) : (x.putV r v).sdead = x.sdead := rfl
@[simp] theorem putV_serr (x : Slot) (r : Nat) (v : VReg) : (x.putV r v).serr = x.serr := rfl
@[simp] theorem putV_vpend (x : Slot) (r : Nat) (v : VReg) : (x.putV r v).vpend = x.vpend := rfl
@[simp] theorem putV_pfull (x : Slot) (r : Nat) (v : VReg) : (x.putV r v).pfull = x.pfull := rfl
@[simp] theorem putV_ppend (x : Slot) (r : Nat) (v : VReg) : (x.putV r v).ppend = x.ppend := rfl
@[simp] theorem putV_perr (x : Slot) (r : Nat) (v : VReg) : (x.putV r v).perr = x.perr := rfl
@[simp] theorem putV_phase (x : Slot) (r : Nat) (v : VReg) : (x.putV r v).phase = x.phase := rfl
@[simp] theorem putV_tid (x : Slot) (r : Nat) (v : VReg) : (x.putV r v).tid = x.tid := rfl
@[simp] theorem putV_tix (x : Slot) (r : Nat) (v : VReg) : (x.putV r v).tix = x.tix := rfl
@[simp] theorem putV_tiy (x : Slot) (r : Nat) (v : VReg) : (x.putV r v).tiy = x.tiy := rfl
@[simp] theorem putV_tiz (x : Slot) (r : Nat) (v : VReg) : (x.putV r v).tiz = x.tiz := rfl
@[simp] theorem putV_targ (x : Slot) (r : Nat) (v : VReg) : (x.putV r v).targ = x.targ := rfl
@[simp] theorem putV_tfmt (x : Slot) (r : Nat) (v : VReg) : (x.putV r v).tfmt = x.tfmt := rfl
@[simp] theorem putV_tsca (x : Slot) (r : Nat) (v : VReg) : (x.putV r v).tsca = x.tsca := rfl
@[simp] theorem putV_tscb (x : Slot) (r : Nat) (v : VReg) : (x.putV r v).tscb = x.tscb := rfl
@[simp] theorem putV_tkey (x : Slot) (r : Nat) (v : VReg) : (x.putV r v).tkey = x.tkey := rfl
@[simp] theorem putV_vfmt (x : Slot) (r : Nat) (v : VReg) : (x.putV r v).vfmt = x.vfmt := rfl
@[simp] theorem putV_rmode (x : Slot) (r : Nat) (v : VReg) : (x.putV r v).rmode = x.rmode := rfl
@[simp] theorem putV_fflags (x : Slot) (r : Nat) (v : VReg) : (x.putV r v).fflags = x.fflags := rfl
@[simp] theorem putV_greq (x : Slot) (r : Nat) (v : VReg) : (x.putV r v).greq = x.greq := rfl
@[simp] theorem putV_cvmask (x : Slot) (r : Nat) (v : VReg) : (x.putV r v).cvmask = x.cvmask := rfl
@[simp] theorem putV_colr (x : Slot) (r : Nat) (v : VReg) : (x.putV r v).colr = x.colr := rfl
@[simp] theorem putV_parklim (x : Slot) (r : Nat) (v : VReg) : (x.putV r v).parklim = x.parklim := rfl
@[simp] theorem putV_unack (x : Slot) (r : Nat) (v : VReg) : (x.putV r v).unack = x.unack := rfl
@[simp] theorem putV_aown (x : Slot) (r : Nat) (v : VReg) : (x.putV r v).aown = x.aown := rfl
@[simp] theorem putV_tvec (x : Slot) (r : Nat) (v : VReg) : (x.putV r v).tvec = x.tvec := rfl
@[simp] theorem putV_tcause (x : Slot) (r : Nat) (v : VReg) : (x.putV r v).tcause = x.tcause := rfl
@[simp] theorem putV_tepc (x : Slot) (r : Nat) (v : VReg) : (x.putV r v).tepc = x.tepc := rfl
@[simp] theorem putV_tval (x : Slot) (r : Nat) (v : VReg) : (x.putV r v).tval = x.tval := rfl
@[simp] theorem putV_save (x : Slot) (r : Nat) (v : VReg) : (x.putV r v).save = x.save := rfl
@[simp] theorem putV_park (x : Slot) (r : Nat) (v : VReg) : (x.putV r v).park = x.park := rfl
@[simp] theorem putV_tries (x : Slot) (r : Nat) (v : VReg) : (x.putV r v).tries = x.tries := rfl
@[simp] theorem putV_await (x : Slot) (r : Nat) (v : VReg) : (x.putV r v).await = x.await := rfl
@[simp] theorem putV_killReq (x : Slot) (r : Nat) (v : VReg) : (x.putV r v).killReq = x.killReq := rfl
@[simp] theorem putV_deferred (x : Slot) (r : Nat) (v : VReg) : (x.putV r v).deferred = x.deferred := rfl
@[simp] theorem putV_cap (x : Slot) (r : Nat) (v : VReg) : (x.putV r v).cap = x.cap := rfl
@[simp] theorem putV_replay (x : Slot) (r : Nat) (v : VReg) : (x.putV r v).replay = x.replay := rfl
@[simp] theorem putV_fork (x : Slot) (r : Nat) (v : VReg) : (x.putV r v).fork = x.fork := rfl
@[simp] theorem putV_opIdx (x : Slot) (r : Nat) (v : VReg) : (x.putV r v).opIdx = x.opIdx := rfl
@[simp] theorem putV_removedAt (x : Slot) (r : Nat) (v : VReg) : (x.putV r v).removedAt = x.removedAt := rfl
@[simp] theorem putV_exemptUntil (x : Slot) (r : Nat) (v : VReg) : (x.putV r v).exemptUntil = x.exemptUntil := rfl
@[simp] theorem putV_shoot (x : Slot) (r : Nat) (v : VReg) : (x.putV r v).shoot = x.shoot := rfl

/-! ## `fillV` -/

@[simp] theorem fillV_status (x : Slot) (r : Nat) (v : VReg) : (x.fillV r v).status = x.status := rfl
@[simp] theorem fillV_gen (x : Slot) (r : Nat) (v : VReg) : (x.fillV r v).gen = x.gen := rfl
@[simp] theorem fillV_pc (x : Slot) (r : Nat) (v : VReg) : (x.fillV r v).pc = x.pc := rfl
@[simp] theorem fillV_ns (x : Slot) (r : Nat) (v : VReg) : (x.fillV r v).ns = x.ns := rfl
@[simp] theorem fillV_nv (x : Slot) (r : Nat) (v : VReg) : (x.fillV r v).nv = x.nv := rfl
@[simp] theorem fillV_sreg (x : Slot) (r : Nat) (v : VReg) : (x.fillV r v).sreg = x.sreg := rfl
@[simp] theorem fillV_preg (x : Slot) (r : Nat) (v : VReg) : (x.fillV r v).preg = x.preg := rfl
@[simp] theorem fillV_sfull (x : Slot) (r : Nat) (v : VReg) : (x.fillV r v).sfull = x.sfull := rfl
@[simp] theorem fillV_spend (x : Slot) (r : Nat) (v : VReg) : (x.fillV r v).spend = x.spend := rfl
@[simp] theorem fillV_sdead (x : Slot) (r : Nat) (v : VReg) : (x.fillV r v).sdead = x.sdead := rfl
@[simp] theorem fillV_serr (x : Slot) (r : Nat) (v : VReg) : (x.fillV r v).serr = x.serr := rfl
@[simp] theorem fillV_pfull (x : Slot) (r : Nat) (v : VReg) : (x.fillV r v).pfull = x.pfull := rfl
@[simp] theorem fillV_ppend (x : Slot) (r : Nat) (v : VReg) : (x.fillV r v).ppend = x.ppend := rfl
@[simp] theorem fillV_perr (x : Slot) (r : Nat) (v : VReg) : (x.fillV r v).perr = x.perr := rfl
@[simp] theorem fillV_phase (x : Slot) (r : Nat) (v : VReg) : (x.fillV r v).phase = x.phase := rfl
@[simp] theorem fillV_tid (x : Slot) (r : Nat) (v : VReg) : (x.fillV r v).tid = x.tid := rfl
@[simp] theorem fillV_tix (x : Slot) (r : Nat) (v : VReg) : (x.fillV r v).tix = x.tix := rfl
@[simp] theorem fillV_tiy (x : Slot) (r : Nat) (v : VReg) : (x.fillV r v).tiy = x.tiy := rfl
@[simp] theorem fillV_tiz (x : Slot) (r : Nat) (v : VReg) : (x.fillV r v).tiz = x.tiz := rfl
@[simp] theorem fillV_targ (x : Slot) (r : Nat) (v : VReg) : (x.fillV r v).targ = x.targ := rfl
@[simp] theorem fillV_tfmt (x : Slot) (r : Nat) (v : VReg) : (x.fillV r v).tfmt = x.tfmt := rfl
@[simp] theorem fillV_tsca (x : Slot) (r : Nat) (v : VReg) : (x.fillV r v).tsca = x.tsca := rfl
@[simp] theorem fillV_tscb (x : Slot) (r : Nat) (v : VReg) : (x.fillV r v).tscb = x.tscb := rfl
@[simp] theorem fillV_tkey (x : Slot) (r : Nat) (v : VReg) : (x.fillV r v).tkey = x.tkey := rfl
@[simp] theorem fillV_vfmt (x : Slot) (r : Nat) (v : VReg) : (x.fillV r v).vfmt = x.vfmt := rfl
@[simp] theorem fillV_rmode (x : Slot) (r : Nat) (v : VReg) : (x.fillV r v).rmode = x.rmode := rfl
@[simp] theorem fillV_fflags (x : Slot) (r : Nat) (v : VReg) : (x.fillV r v).fflags = x.fflags := rfl
@[simp] theorem fillV_greq (x : Slot) (r : Nat) (v : VReg) : (x.fillV r v).greq = x.greq := rfl
@[simp] theorem fillV_cvmask (x : Slot) (r : Nat) (v : VReg) : (x.fillV r v).cvmask = x.cvmask := rfl
@[simp] theorem fillV_colr (x : Slot) (r : Nat) (v : VReg) : (x.fillV r v).colr = x.colr := rfl
@[simp] theorem fillV_parklim (x : Slot) (r : Nat) (v : VReg) : (x.fillV r v).parklim = x.parklim := rfl
@[simp] theorem fillV_unack (x : Slot) (r : Nat) (v : VReg) : (x.fillV r v).unack = x.unack := rfl
@[simp] theorem fillV_aown (x : Slot) (r : Nat) (v : VReg) : (x.fillV r v).aown = x.aown := rfl
@[simp] theorem fillV_tvec (x : Slot) (r : Nat) (v : VReg) : (x.fillV r v).tvec = x.tvec := rfl
@[simp] theorem fillV_tcause (x : Slot) (r : Nat) (v : VReg) : (x.fillV r v).tcause = x.tcause := rfl
@[simp] theorem fillV_tepc (x : Slot) (r : Nat) (v : VReg) : (x.fillV r v).tepc = x.tepc := rfl
@[simp] theorem fillV_tval (x : Slot) (r : Nat) (v : VReg) : (x.fillV r v).tval = x.tval := rfl
@[simp] theorem fillV_save (x : Slot) (r : Nat) (v : VReg) : (x.fillV r v).save = x.save := rfl
@[simp] theorem fillV_park (x : Slot) (r : Nat) (v : VReg) : (x.fillV r v).park = x.park := rfl
@[simp] theorem fillV_tries (x : Slot) (r : Nat) (v : VReg) : (x.fillV r v).tries = x.tries := rfl
@[simp] theorem fillV_await (x : Slot) (r : Nat) (v : VReg) : (x.fillV r v).await = x.await := rfl
@[simp] theorem fillV_killReq (x : Slot) (r : Nat) (v : VReg) : (x.fillV r v).killReq = x.killReq := rfl
@[simp] theorem fillV_deferred (x : Slot) (r : Nat) (v : VReg) : (x.fillV r v).deferred = x.deferred := rfl
@[simp] theorem fillV_cap (x : Slot) (r : Nat) (v : VReg) : (x.fillV r v).cap = x.cap := rfl
@[simp] theorem fillV_replay (x : Slot) (r : Nat) (v : VReg) : (x.fillV r v).replay = x.replay := rfl
@[simp] theorem fillV_fork (x : Slot) (r : Nat) (v : VReg) : (x.fillV r v).fork = x.fork := rfl
@[simp] theorem fillV_opIdx (x : Slot) (r : Nat) (v : VReg) : (x.fillV r v).opIdx = x.opIdx := rfl
@[simp] theorem fillV_removedAt (x : Slot) (r : Nat) (v : VReg) : (x.fillV r v).removedAt = x.removedAt := rfl
@[simp] theorem fillV_exemptUntil (x : Slot) (r : Nat) (v : VReg) : (x.fillV r v).exemptUntil = x.exemptUntil := rfl
@[simp] theorem fillV_shoot (x : Slot) (r : Nat) (v : VReg) : (x.fillV r v).shoot = x.shoot := rfl

/-! ## `oweV` -/

@[simp] theorem oweV_status (x : Slot) (r : Nat) : (x.oweV r).status = x.status := rfl
@[simp] theorem oweV_gen (x : Slot) (r : Nat) : (x.oweV r).gen = x.gen := rfl
@[simp] theorem oweV_pc (x : Slot) (r : Nat) : (x.oweV r).pc = x.pc := rfl
@[simp] theorem oweV_ns (x : Slot) (r : Nat) : (x.oweV r).ns = x.ns := rfl
@[simp] theorem oweV_nv (x : Slot) (r : Nat) : (x.oweV r).nv = x.nv := rfl
@[simp] theorem oweV_sreg (x : Slot) (r : Nat) : (x.oweV r).sreg = x.sreg := rfl
@[simp] theorem oweV_vreg (x : Slot) (r : Nat) : (x.oweV r).vreg = x.vreg := rfl
@[simp] theorem oweV_preg (x : Slot) (r : Nat) : (x.oweV r).preg = x.preg := rfl
@[simp] theorem oweV_sfull (x : Slot) (r : Nat) : (x.oweV r).sfull = x.sfull := rfl
@[simp] theorem oweV_spend (x : Slot) (r : Nat) : (x.oweV r).spend = x.spend := rfl
@[simp] theorem oweV_sdead (x : Slot) (r : Nat) : (x.oweV r).sdead = x.sdead := rfl
@[simp] theorem oweV_serr (x : Slot) (r : Nat) : (x.oweV r).serr = x.serr := rfl
@[simp] theorem oweV_vdead (x : Slot) (r : Nat) : (x.oweV r).vdead = x.vdead := rfl
@[simp] theorem oweV_verr (x : Slot) (r : Nat) : (x.oweV r).verr = x.verr := rfl
@[simp] theorem oweV_pfull (x : Slot) (r : Nat) : (x.oweV r).pfull = x.pfull := rfl
@[simp] theorem oweV_ppend (x : Slot) (r : Nat) : (x.oweV r).ppend = x.ppend := rfl
@[simp] theorem oweV_perr (x : Slot) (r : Nat) : (x.oweV r).perr = x.perr := rfl
@[simp] theorem oweV_phase (x : Slot) (r : Nat) : (x.oweV r).phase = x.phase := rfl
@[simp] theorem oweV_tid (x : Slot) (r : Nat) : (x.oweV r).tid = x.tid := rfl
@[simp] theorem oweV_tix (x : Slot) (r : Nat) : (x.oweV r).tix = x.tix := rfl
@[simp] theorem oweV_tiy (x : Slot) (r : Nat) : (x.oweV r).tiy = x.tiy := rfl
@[simp] theorem oweV_tiz (x : Slot) (r : Nat) : (x.oweV r).tiz = x.tiz := rfl
@[simp] theorem oweV_targ (x : Slot) (r : Nat) : (x.oweV r).targ = x.targ := rfl
@[simp] theorem oweV_tfmt (x : Slot) (r : Nat) : (x.oweV r).tfmt = x.tfmt := rfl
@[simp] theorem oweV_tsca (x : Slot) (r : Nat) : (x.oweV r).tsca = x.tsca := rfl
@[simp] theorem oweV_tscb (x : Slot) (r : Nat) : (x.oweV r).tscb = x.tscb := rfl
@[simp] theorem oweV_tkey (x : Slot) (r : Nat) : (x.oweV r).tkey = x.tkey := rfl
@[simp] theorem oweV_vfmt (x : Slot) (r : Nat) : (x.oweV r).vfmt = x.vfmt := rfl
@[simp] theorem oweV_rmode (x : Slot) (r : Nat) : (x.oweV r).rmode = x.rmode := rfl
@[simp] theorem oweV_fflags (x : Slot) (r : Nat) : (x.oweV r).fflags = x.fflags := rfl
@[simp] theorem oweV_greq (x : Slot) (r : Nat) : (x.oweV r).greq = x.greq := rfl
@[simp] theorem oweV_cvmask (x : Slot) (r : Nat) : (x.oweV r).cvmask = x.cvmask := rfl
@[simp] theorem oweV_colr (x : Slot) (r : Nat) : (x.oweV r).colr = x.colr := rfl
@[simp] theorem oweV_parklim (x : Slot) (r : Nat) : (x.oweV r).parklim = x.parklim := rfl
@[simp] theorem oweV_unack (x : Slot) (r : Nat) : (x.oweV r).unack = x.unack := rfl
@[simp] theorem oweV_aown (x : Slot) (r : Nat) : (x.oweV r).aown = x.aown := rfl
@[simp] theorem oweV_tvec (x : Slot) (r : Nat) : (x.oweV r).tvec = x.tvec := rfl
@[simp] theorem oweV_tcause (x : Slot) (r : Nat) : (x.oweV r).tcause = x.tcause := rfl
@[simp] theorem oweV_tepc (x : Slot) (r : Nat) : (x.oweV r).tepc = x.tepc := rfl
@[simp] theorem oweV_tval (x : Slot) (r : Nat) : (x.oweV r).tval = x.tval := rfl
@[simp] theorem oweV_save (x : Slot) (r : Nat) : (x.oweV r).save = x.save := rfl
@[simp] theorem oweV_park (x : Slot) (r : Nat) : (x.oweV r).park = x.park := rfl
@[simp] theorem oweV_tries (x : Slot) (r : Nat) : (x.oweV r).tries = x.tries := rfl
@[simp] theorem oweV_await (x : Slot) (r : Nat) : (x.oweV r).await = x.await := rfl
@[simp] theorem oweV_killReq (x : Slot) (r : Nat) : (x.oweV r).killReq = x.killReq := rfl
@[simp] theorem oweV_deferred (x : Slot) (r : Nat) : (x.oweV r).deferred = x.deferred := rfl
@[simp] theorem oweV_cap (x : Slot) (r : Nat) : (x.oweV r).cap = x.cap := rfl
@[simp] theorem oweV_replay (x : Slot) (r : Nat) : (x.oweV r).replay = x.replay := rfl
@[simp] theorem oweV_fork (x : Slot) (r : Nat) : (x.oweV r).fork = x.fork := rfl
@[simp] theorem oweV_opIdx (x : Slot) (r : Nat) : (x.oweV r).opIdx = x.opIdx := rfl
@[simp] theorem oweV_removedAt (x : Slot) (r : Nat) : (x.oweV r).removedAt = x.removedAt := rfl
@[simp] theorem oweV_exemptUntil (x : Slot) (r : Nat) : (x.oweV r).exemptUntil = x.exemptUntil := rfl
@[simp] theorem oweV_shoot (x : Slot) (r : Nat) : (x.oweV r).shoot = x.shoot := rfl

/-! ## `next` -/

@[simp] theorem next_status (x : Slot) : x.next.status = x.status := rfl
@[simp] theorem next_gen (x : Slot) : x.next.gen = x.gen := rfl
@[simp] theorem next_ns (x : Slot) : x.next.ns = x.ns := rfl
@[simp] theorem next_nv (x : Slot) : x.next.nv = x.nv := rfl
@[simp] theorem next_sreg (x : Slot) : x.next.sreg = x.sreg := rfl
@[simp] theorem next_vreg (x : Slot) : x.next.vreg = x.vreg := rfl
@[simp] theorem next_preg (x : Slot) : x.next.preg = x.preg := rfl
@[simp] theorem next_sfull (x : Slot) : x.next.sfull = x.sfull := rfl
@[simp] theorem next_spend (x : Slot) : x.next.spend = x.spend := rfl
@[simp] theorem next_sdead (x : Slot) : x.next.sdead = x.sdead := rfl
@[simp] theorem next_serr (x : Slot) : x.next.serr = x.serr := rfl
@[simp] theorem next_vfull (x : Slot) : x.next.vfull = x.vfull := rfl
@[simp] theorem next_vpend (x : Slot) : x.next.vpend = x.vpend := rfl
@[simp] theorem next_vdead (x : Slot) : x.next.vdead = x.vdead := rfl
@[simp] theorem next_verr (x : Slot) : x.next.verr = x.verr := rfl
@[simp] theorem next_pfull (x : Slot) : x.next.pfull = x.pfull := rfl
@[simp] theorem next_ppend (x : Slot) : x.next.ppend = x.ppend := rfl
@[simp] theorem next_perr (x : Slot) : x.next.perr = x.perr := rfl
@[simp] theorem next_phase (x : Slot) : x.next.phase = x.phase := rfl
@[simp] theorem next_tid (x : Slot) : x.next.tid = x.tid := rfl
@[simp] theorem next_tix (x : Slot) : x.next.tix = x.tix := rfl
@[simp] theorem next_tiy (x : Slot) : x.next.tiy = x.tiy := rfl
@[simp] theorem next_tiz (x : Slot) : x.next.tiz = x.tiz := rfl
@[simp] theorem next_targ (x : Slot) : x.next.targ = x.targ := rfl
@[simp] theorem next_tfmt (x : Slot) : x.next.tfmt = x.tfmt := rfl
@[simp] theorem next_tsca (x : Slot) : x.next.tsca = x.tsca := rfl
@[simp] theorem next_tscb (x : Slot) : x.next.tscb = x.tscb := rfl
@[simp] theorem next_tkey (x : Slot) : x.next.tkey = x.tkey := rfl
@[simp] theorem next_vfmt (x : Slot) : x.next.vfmt = x.vfmt := rfl
@[simp] theorem next_rmode (x : Slot) : x.next.rmode = x.rmode := rfl
@[simp] theorem next_fflags (x : Slot) : x.next.fflags = x.fflags := rfl
@[simp] theorem next_greq (x : Slot) : x.next.greq = x.greq := rfl
@[simp] theorem next_cvmask (x : Slot) : x.next.cvmask = x.cvmask := rfl
@[simp] theorem next_colr (x : Slot) : x.next.colr = x.colr := rfl
@[simp] theorem next_parklim (x : Slot) : x.next.parklim = x.parklim := rfl
@[simp] theorem next_unack (x : Slot) : x.next.unack = x.unack := rfl
@[simp] theorem next_aown (x : Slot) : x.next.aown = x.aown := rfl
@[simp] theorem next_tvec (x : Slot) : x.next.tvec = x.tvec := rfl
@[simp] theorem next_tcause (x : Slot) : x.next.tcause = x.tcause := rfl
@[simp] theorem next_tepc (x : Slot) : x.next.tepc = x.tepc := rfl
@[simp] theorem next_tval (x : Slot) : x.next.tval = x.tval := rfl
@[simp] theorem next_save (x : Slot) : x.next.save = x.save := rfl
@[simp] theorem next_park (x : Slot) : x.next.park = x.park := rfl
@[simp] theorem next_tries (x : Slot) : x.next.tries = x.tries := rfl
@[simp] theorem next_await (x : Slot) : x.next.await = x.await := rfl
@[simp] theorem next_killReq (x : Slot) : x.next.killReq = x.killReq := rfl
@[simp] theorem next_deferred (x : Slot) : x.next.deferred = x.deferred := rfl
@[simp] theorem next_cap (x : Slot) : x.next.cap = x.cap := rfl
@[simp] theorem next_replay (x : Slot) : x.next.replay = x.replay := rfl
@[simp] theorem next_fork (x : Slot) : x.next.fork = x.fork := rfl
@[simp] theorem next_opIdx (x : Slot) : x.next.opIdx = x.opIdx := rfl
@[simp] theorem next_removedAt (x : Slot) : x.next.removedAt = x.removedAt := rfl
@[simp] theorem next_exemptUntil (x : Slot) : x.next.exemptUntil = x.exemptUntil := rfl
@[simp] theorem next_shoot (x : Slot) : x.next.shoot = x.shoot := rfl

@[simp] theorem next_pc (x : Slot) : x.next.pc = x.pc + 4#64 := rfl
@[simp] theorem next_sval (x : Slot) (r : Nat) : x.next.sval r = x.sval r := rfl
@[simp] theorem next_sF (x : Slot) (r : Nat) : x.next.sF r = x.sF r := rfl
@[simp] theorem next_sP (x : Slot) (r : Nat) : x.next.sP r = x.sP r := rfl

/-! ## Register zero (R61, R67) -/

@[simp] theorem sval_zero (x : Slot) : x.sval 0 = 0#64 := by simp [sval]
@[simp] theorem sF_zero (x : Slot) : x.sF 0 = true := by simp [sF]
@[simp] theorem sP_zero (x : Slot) : x.sP 0 = false := by simp [sP]
@[simp] theorem putS_zero (x : Slot) (v : Word) : x.putS 0 v = x := by simp [putS]
@[simp] theorem fillS_zero (x : Slot) (v : Word) : x.fillS 0 v = x := by simp [fillS]
@[simp] theorem oweS_zero (x : Slot) : x.oweS 0 = x := by simp [oweS]
@[simp] theorem take_false (x : Slot) (r : Nat) : x.take r false = x := by simp [take]
@[simp] theorem take_zero (x : Slot) (b : Bool) : x.take 0 b = x := by simp [take]

/-! ## Single bits -/

theorem getLsbD_setBit_same {w : Nat} (x : BitVec w) {i : Nat} (b : Bool) (h : i < w) : (setBit x i b).getLsbD i = b := by
  cases b <;> simp [setBit, h]

theorem getLsbD_setBit_ne {w : Nat} (x : BitVec w) {i j : Nat} (b : Bool) (h : j ≠ i) :
    (setBit x i b).getLsbD j = x.getLsbD j := by
  by_cases hj : j < w
  · cases b
    · simp only [setBit, Bool.false_eq_true, if_false, BitVec.getLsbD_and, BitVec.getLsbD_not, BitVec.getLsbD_shiftLeft]
      by_cases hi : j < i
      · simp [hj, hi]
      · have : ¬ (j - i = 0) := by omega
        simp [hj, hi, BitVec.getLsbD_one, this]
    · simp only [setBit, if_true, BitVec.getLsbD_or, BitVec.getLsbD_shiftLeft]
      by_cases hi : j < i
      · simp [hi]
      · have : ¬ (j - i = 0) := by omega
        simp [hi, BitVec.getLsbD_one, this]
  · simp [BitVec.getLsbD_of_ge _ _ (Nat.le_of_not_lt hj)]

/-! ## Writes of scalar registers -/

theorem sval_putS_same (x : Slot) {r : Nat} (v : Word) (h : r ≠ 0) (hr : r < 64) : (x.putS r v).sval r = v := by
  simp [putS, sval, h, getLsbD_setBit_same _ _ hr]

theorem sF_putS_same (x : Slot) {r : Nat} (v : Word) (hr : r < 64) : (x.putS r v).sF r = true := by
  by_cases h : r = 0
  · subst h; simp
  · simp [putS, sF, h, getLsbD_setBit_same _ _ hr]

theorem sval_putS_ne (x : Slot) {r k : Nat} (v : Word) (h : k ≠ r) : (x.putS r v).sval k = x.sval k := by
  unfold putS
  split
  · rfl
  · simp [sval, getLsbD_setBit_ne _ _ h, FMap.get_put_ne _ _ _ h]

theorem sF_putS_ne (x : Slot) {r k : Nat} (v : Word) (h : k ≠ r) : (x.putS r v).sF k = x.sF k := by
  unfold putS
  split
  · rfl
  · simp [sF, getLsbD_setBit_ne _ _ h]

theorem sval_take_ne (x : Slot) {r k : Nat} (b : Bool) (h : k ≠ r) : (x.take r b).sval k = x.sval k := by
  unfold take
  split
  · simp [sval, getLsbD_setBit_ne _ _ h]
  · rfl

/-! ## Writes of vector registers -/

theorem vval_putV_same (x : Slot) {r : Nat} (v : VReg) (hr : r < 32) : (x.putV r v).vval r = v := by
  simp [putV, vval, getLsbD_setBit_same _ _ hr]

theorem vval_putV_ne (x : Slot) {r k : Nat} (v : VReg) (h : k ≠ r) : (x.putV r v).vval k = x.vval k := by
  simp [putV, vval, getLsbD_setBit_ne _ _ h, FMap.get_put_ne _ _ _ h]

end Slot

end Sys2Proof.Machine
end

