-- ==== Sys2Proof/Laws/Memory.lean ====
section
/-! SUPPORT. Every operation over a cell's local memory, a die's commons and physical memory keeps the canonical form. -/

namespace Sys2Proof.Machine

/-! ## Local memory -/

namespace Loc

@[simp] theorem setEntry_mem (c : Cell) (f : Nat) (e : DirEntry) : (setEntry c f e).mem = c.mem := rfl

theorem wf_raw {c : Cell} (o : Nat) (bs : List Byte) (h : Memory.wf c.mem = true) : Memory.wf (raw c o bs).mem = true := by
  induction bs generalizing c o with
  | nil => exact h
  | cons b bs ih => exact ih _ (Memory.wf_write _ _ h)

theorem wf_reclass {c : Cell} (f : Nat) (h : Memory.wf c.mem = true) : Memory.wf (reclass c f).mem = true := by
  unfold reclass
  generalize 1024 = k
  dsimp only
  split
  · exact h
  · split
    · exact h
    · exact Memory.wf_writeN _ _ _ h

theorem wf_setFmt {c : Cell} (f code : Nat) (h : Memory.wf c.mem = true) : Memory.wf (setFmt c f code).mem = true :=
  wf_reclass f h

theorem wf_zeroFrame {c : Cell} (f : Nat) (h : Memory.wf c.mem = true) : Memory.wf (zeroFrame c f).mem = true :=
  Memory.wf_clear _ _ h

theorem wf_partialAt {c : Cell} (o : Nat) (bs : List Byte) (h : Memory.wf c.mem = true) :
    Memory.wf (partialAt c o bs).mem = true := by
  unfold partialAt
  dsimp only
  split
  · exact wf_raw _ _ h
  · split
    · exact h
    · exact wf_raw _ _ h

theorem wf_locWrite {c : Cell} (o : Nat) (bs : List Byte) (h : Memory.wf c.mem = true) : Memory.wf (write c o bs).mem = true :=
  wf_partialAt _ _ h

theorem wf_writeUnits {c : Cell} (o n : Nat) (bs : List Byte) (h : Memory.wf c.mem = true) :
    Memory.wf (writeUnits c o n bs).mem = true := by
  induction n generalizing c o bs with
  | zero => exact h
  | succ n ih => exact ih _ _ (wf_locWrite _ _ h)

theorem wf_writeFrame {c : Cell} (f : Nat) (fmt : Option Nat) (v : Nat) (h : Memory.wf c.mem = true) :
    Memory.wf (writeFrame c f fmt v).mem = true := by
  unfold writeFrame
  generalize 1024 = k
  cases fmt with
  | none => exact wf_reclass _ (Memory.wf_writeN _ _ _ h)
  | some code => exact wf_setFmt _ _ (Memory.wf_writeN _ _ _ h)

@[simp] theorem setFull_mem (c : Cell) (o : Nat) (b : Bool) : (setFull c o b).mem = c.mem := rfl

end Loc

/-! ## The state -/

/-- The canonical form looks at the three memories alone. -/
theorem canonical_of_eq {s t : State} (h : Safety.MemoryCanonical s) (hp : t.phys = s.phys) (hc : t.cells = s.cells)
    (hm : t.commons = s.commons) : Safety.MemoryCanonical t := by
  unfold Safety.MemoryCanonical at *
  rw [hp, hc, hm]
  exact h

theorem canonical_cell {s : State} (h : Safety.MemoryCanonical s) (n : Nat) : Memory.wf (s.cell n).mem = true := by
  have key : ∀ m : FMap Cell, (∀ q ∈ m, Memory.wf q.2.mem = true) → Memory.wf (FMap.get Cell.init m n).mem = true := by
    intro m hm
    induction m with
    | nil => rfl
    | cons q m ih =>
      obtain ⟨k, c⟩ := q
      simp only [FMap.get, FMap.find?_cons]
      split
      · exact hm (k, c) List.mem_cons_self
      · exact ih (fun q hq => hm q (List.mem_cons_of_mem _ hq))
  exact key s.cells h.2.1

theorem canonical_commonsOf {s : State} (h : Safety.MemoryCanonical s) (d : Nat) : Memory.wf (s.commonsOf d) = true := by
  have key : ∀ m : FMap Memory, (∀ q ∈ m, Memory.wf q.2 = true) → Memory.wf (FMap.get [] m d) = true := by
    intro m hm
    induction m with
    | nil => rfl
    | cons q m ih =>
      obtain ⟨k, c⟩ := q
      simp only [FMap.get, FMap.find?_cons]
      split
      · exact hm (k, c) List.mem_cons_self
      · exact ih (fun q hq => hm q (List.mem_cons_of_mem _ hq))
  exact key s.commons h.2.2

/-- A cell with a canonical memory may be put back. -/
theorem canonical_setCell {s : State} (h : Safety.MemoryCanonical s) (n : Nat) {c : Cell} (hc : Memory.wf c.mem = true) :
    Safety.MemoryCanonical (s.setCell n c) := by
  refine ⟨h.1, fun q hq => ?_, h.2.2⟩
  rcases FMap.mem_put hq with e | e
  · rw [e]; exact hc
  · exact h.2.1 q e

theorem canonical_modCell {s : State} (h : Safety.MemoryCanonical s) (n : Nat) {f : Cell → Cell}
    (hf : Memory.wf (f (s.cell n)).mem = true) : Safety.MemoryCanonical (s.modCell n f) := canonical_setCell h n hf

theorem forgetRows_cells (s : State) (cell o : Nat) : (forgetRows s cell o).cells = s.cells := by
  unfold forgetRows; dsimp only; split <;> rfl

theorem canonical_forgetRows {s : State} (h : Safety.MemoryCanonical s) (cell o : Nat) :
    Safety.MemoryCanonical (forgetRows s cell o) := by
  unfold forgetRows; dsimp only; split
  · exact h
  · exact canonical_of_eq h rfl rfl rfl

theorem canonical_localWrite {s : State} (h : Safety.MemoryCanonical s) (cell o n v : Nat) :
    Safety.MemoryCanonical (localWrite s cell o n v) :=
  canonical_of_eq (canonical_modCell (canonical_forgetRows h cell o) cell (f := fun c => Loc.write c o (toBytes n v))
    (Loc.wf_locWrite o (toBytes n v) (canonical_cell (canonical_forgetRows h cell o) cell))) rfl rfl rfl

/-- An access at a cell's local memory keeps the form. -/
theorem canonical_performLocal {s : State} (h : Safety.MemoryCanonical s) (cell o : Nat) (op : MemOp) :
    Safety.MemoryCanonical (performLocal s cell o op).2 := by
  have full : ∀ {t : State}, Safety.MemoryCanonical t → ∀ b, Safety.MemoryCanonical (setWordFull t cell o b) :=
    fun ht b => canonical_modCell ht cell (by simpa using canonical_cell ht cell)
  have wr : ∀ n v, Safety.MemoryCanonical (localWrite s cell o n v) := canonical_localWrite h cell o
  have forget : ∀ {t : State}, Safety.MemoryCanonical t → Safety.MemoryCanonical (forgetJoin t cell o) :=
    fun ht => canonical_modCell ht cell (canonical_cell ht cell)
  have at_ : ∀ v, Safety.MemoryCanonical (localWrite s cell o 8 v) := wr 8
  unfold performLocal
  dsimp only
  split
  · exact h
  · cases op
    case sts v => dsimp only; split <;> first | exact h | exact forget (full (at_ v) true)
    case fefill v => exact forget (full (at_ v) true)
    case feempty => exact forget (full h false)
    case lds => dsimp only; (repeat' split) <;> first | exact h | exact forget (full h false)
    all_goals (dsimp only; (repeat' split) <;> first | exact h | exact wr _ _)

theorem canonical_commonsWrite {s : State} (h : Safety.MemoryCanonical s) (d : Nat) (pl : Nat × Nat × Nat) (byte n v : Nat) :
    Safety.MemoryCanonical (commonsWrite s d pl byte n v) := by
  refine ⟨h.1, h.2.1, fun q hq => ?_⟩
  unfold commonsWrite at hq
  dsimp only at hq
  rcases FMap.mem_put hq with e | e
  · rw [e]
    dsimp only
    split
    · split
      · exact Memory.wf_writeN _ _ _ (Memory.wf_writeN _ _ _ (canonical_commonsOf h d))
      · exact Memory.wf_writeN _ _ _ (canonical_commonsOf h d)
    · exact Memory.wf_writeN _ _ _ (canonical_commonsOf h d)
  · exact h.2.2 q e

/-! ## Physical memory -/

theorem canonical_physReadLine {s : State} (h : Safety.MemoryCanonical s) (pa n key : Nat) :
    Safety.MemoryCanonical (physReadLine s pa n key).2 := by
  unfold physReadLine
  split
  · exact h
  · exact canonical_of_eq h rfl rfl rfl

theorem canonical_physWriteLine {s : State} (h : Safety.MemoryCanonical s) (pa n v key : Nat) :
    Safety.MemoryCanonical (physWriteLine s pa n v key) := by
  unfold physWriteLine
  dsimp only
  split
  · exact ⟨Memory.wf_writeN _ _ _ h.1, h.2.1, h.2.2⟩
  · exact ⟨Memory.wf_writeN _ _ _ (Memory.wf_writeN _ _ _ h.1), h.2.1, h.2.2⟩

theorem canonical_homeWrite {s : State} (h : Safety.MemoryCanonical s) (pa n v key : Nat) (w : Option Nat) :
    Safety.MemoryCanonical (homeWrite s pa n v key w) :=
  canonical_of_eq (canonical_physWriteLine (canonical_of_eq h rfl rfl rfl : Safety.MemoryCanonical (serialise s _ _ _)) pa n v key)
    rfl rfl rfl

theorem canonical_foldl {α : Type} {f : State → α → State} (hf : ∀ s a, Safety.MemoryCanonical s → Safety.MemoryCanonical (f s a))
    (l : List α) {s : State} (h : Safety.MemoryCanonical s) : Safety.MemoryCanonical (l.foldl f s) := by
  induction l generalizing s with
  | nil => exact h
  | cons a l ih => exact ih (hf _ _ h)

/-- Counting changes registers alone. -/
theorem canonical_count {s : State} (h : Safety.MemoryCanonical s) (base ev k : Nat) : Safety.MemoryCanonical (count s base ev k) :=
  canonical_foldl (fun s n hs => by
    unfold bump; dsimp only; split
    · split <;> exact canonical_of_eq hs rfl rfl rfl
    · exact hs) _ h

theorem canonical_writeMiss {s : State} (h : Safety.MemoryCanonical s) (d line key : Nat) :
    Safety.MemoryCanonical (writeMiss s d line key) := by
  unfold writeMiss; split
  · exact canonical_of_eq h rfl rfl rfl
  · exact h

theorem canonical_cachedWrite {s : State} (h : Safety.MemoryCanonical s) (pa n v key : Nat) (w : Option Nat) :
    Safety.MemoryCanonical (cachedWrite s pa n v key w) := 
  canonical_homeWrite (canonical_writeMiss (canonical_count h _ _ _) _ _ _) _ _ _ _ _

theorem canonical_performForward {s : State} (h : Safety.MemoryCanonical s) (f : Forward) :
    Safety.MemoryCanonical (performForward s f) := canonical_cachedWrite h _ _ _ _ _

theorem canonical_flushLine {s : State} (h : Safety.MemoryCanonical s) (d line : Nat) : Safety.MemoryCanonical (flushLine s d line) := by
  unfold flushLine
  exact canonical_foldl (fun _ f hs => canonical_performForward hs f) _ (canonical_of_eq h rfl rfl rfl)

theorem canonical_flushDie {s : State} (h : Safety.MemoryCanonical s) (d : Nat) : Safety.MemoryCanonical (flushDie s d) := by
  unfold flushDie
  exact canonical_foldl (fun _ f hs => canonical_performForward hs f) _ (canonical_of_eq h rfl rfl rfl)

theorem canonical_dropReplica {s : State} (h : Safety.MemoryCanonical s) (d line : Nat) :
    Safety.MemoryCanonical (dropReplica s d line) := canonical_of_eq (canonical_flushLine h d line) rfl rfl rfl

/-- Room in a slice is made without a change of memory, but for forwards that go home. -/
theorem canonical_makeRoom {s : State} (h : Safety.MemoryCanonical s) (d line : Nat) : Safety.MemoryCanonical (makeRoom s d line) := by
  unfold makeRoom
  split
  · exact h
  · split
    · exact canonical_of_eq h rfl rfl rfl
    · split
      · exact canonical_of_eq (canonical_dropReplica h d _) rfl rfl rfl
      · exact h

theorem canonical_serialise {s : State} (h : Safety.MemoryCanonical s) (d line key : Nat) :
    Safety.MemoryCanonical (serialise s d line key) := canonical_of_eq h rfl rfl rfl

theorem canonical_replicaData {s : State} (h : Safety.MemoryCanonical s) (d line key : Nat) :
    Safety.MemoryCanonical (replicaData s d line key).2 := by
  unfold replicaData
  split
  · exact h
  · exact canonical_physReadLine (canonical_flushLine h _ _) _ _ _

theorem canonical_putReplica {s : State} (h : Safety.MemoryCanonical s) (keep : Bool) (r : Replica) :
    Safety.MemoryCanonical (putReplica s keep r) := by
  have hr : Safety.MemoryCanonical (removeReplica s r.die r.line) := canonical_of_eq h rfl rfl rfl
  unfold putReplica
  dsimp only
  split
  · exact canonical_of_eq (canonical_makeRoom hr r.die r.line) rfl rfl rfl
  · exact hr

theorem canonical_noteForward {s : State} (h : Safety.MemoryCanonical s) (f : Forward) : Safety.MemoryCanonical (noteForward s f) :=
  canonical_of_eq h rfl rfl rfl

theorem canonical_sliceWrite {s : State} (h : Safety.MemoryCanonical s) (d pa n v key attr : Nat) (w : Option Nat) :
    Safety.MemoryCanonical (sliceWrite s d pa n v key attr w) := by
  have slice : Safety.MemoryCanonical (countSlice s d (lineOf pa) key attr) := by
    unfold countSlice; split <;> exact canonical_count h _ _ _
  unfold sliceWrite
  dsimp only
  split
  · exact canonical_homeWrite (canonical_dropReplica slice _ _) _ _ _ _ _
  · split
    · exact canonical_cachedWrite h _ _ _ _ _
    · exact canonical_noteForward (canonical_putReplica (canonical_replicaData
        (canonical_serialise (canonical_writeMiss (canonical_count h _ _ _) _ _ _) _ _ _) _ _ _) _ _) _

theorem canonical_engineWrite {s : State} (h : Safety.MemoryCanonical s) (d pa n v key attr : Nat) :
    Safety.MemoryCanonical (engineWrite s d pa n v key attr) := by
  unfold engineWrite
  refine canonical_foldl (fun s i hs => ?_) _ h
  dsimp only
  generalize (if i = 0 then pa else (pa / 128 + i) * 128) = lo
  split
  · exact canonical_sliceWrite hs _ _ _ _ _ _ _
  · exact hs

theorem canonical_hostWrite {s : State} (h : Safety.MemoryCanonical s) (pa n v : Nat) :
    Safety.MemoryCanonical (hostWrite s pa n v) := by
  unfold hostWrite
  refine canonical_foldl (fun s i hs => ?_) _ h
  dsimp only
  generalize (if i = 0 then pa else (pa / 128 + i) * 128) = lo
  split
  · exact canonical_cachedWrite hs _ _ _ _ _
  · exact hs

/-- The state after reset is in canonical form. -/
theorem canonical_reset : Memory.wf State.reset.phys = true := rfl

end Sys2Proof.Machine
end

