-- ==== Sys2Proof/Laws/Ops.lean ====
section
/-! SUPPORT. What each shared operation of the thread instructions can do, said once: performance counting, traps, the issue of
an instruction, register reads and the scalar forms built on them. -/

namespace Sys2Proof.Machine

/-! ## Counting an event changes performance registers alone -/

theorem bump_eq (s : State) (base ev k n : Nat) :
    bump s base ev k n = s ∨ ∃ m, bump s base ev k n = { s with regs := m } := by
  unfold bump
  dsimp only
  split
  · split
    · exact .inr ⟨_, rfl⟩
    · exact .inr ⟨_, rfl⟩
  · exact .inl rfl

/-- Counting leaves everything but the register file of the privileged aperture. -/
theorem count_eq (s : State) (base ev k : Nat) : ∃ m, count s base ev k = { s with regs := m } := by
  unfold count
  generalize List.range 8 = l
  induction l generalizing s with
  | nil => exact ⟨s.regs, rfl⟩
  | cons n l ih =>
    obtain ⟨m, hm⟩ := ih (bump s base ev k n)
    rcases bump_eq s base ev k n with e | ⟨m', e⟩
    · exact ⟨m, by simpa [e] using hm⟩
    · exact ⟨m, by simpa [e] using hm⟩

theorem count_field {α : Type} (f : State → α) (hf : ∀ (s : State) (m : FMap Word), f { s with regs := m } = f s)
    (s : State) (base ev k : Nat) : f (count s base ev k) = f s := by
  obtain ⟨m, h⟩ := count_eq s base ev k
  rw [h, hf]

@[simp] theorem count_slots (s : State) (b e k : Nat) : (count s b e k).slots = s.slots := count_field (·.slots) (fun _ _ => rfl) ..
@[simp] theorem count_cores (s : State) (b e k : Nat) : (count s b e k).cores = s.cores := count_field (·.cores) (fun _ _ => rfl) ..
@[simp] theorem count_cells (s : State) (b e k : Nat) : (count s b e k).cells = s.cells := count_field (·.cells) (fun _ _ => rfl) ..
@[simp] theorem count_phys (s : State) (b e k : Nat) : (count s b e k).phys = s.phys := count_field (·.phys) (fun _ _ => rfl) ..
@[simp] theorem count_commons (s : State) (b e k : Nat) : (count s b e k).commons = s.commons :=
  count_field (·.commons) (fun _ _ => rfl) ..
@[simp] theorem count_cur (s : State) (b e k : Nat) : (count s b e k).cur = s.cur := count_field (·.cur) (fun _ _ => rfl) ..
@[simp] theorem count_work (s : State) (b e k : Nat) : (count s b e k).work = s.work := count_field (·.work) (fun _ _ => rfl) ..
@[simp] theorem count_flight (s : State) (b e k : Nat) : (count s b e k).flight = s.flight :=
  count_field (·.flight) (fun _ _ => rfl) ..
@[simp] theorem count_slot (s : State) (b e k i : Nat) : (count s b e k).slot i = s.slot i :=
  count_field (·.slot i) (fun _ _ => rfl) ..
@[simp] theorem count_core (s : State) (b e k i : Nat) : (count s b e k).core i = s.core i :=
  count_field (·.core i) (fun _ _ => rfl) ..
@[simp] theorem count_cell (s : State) (b e k i : Nat) : (count s b e k).cell i = s.cell i :=
  count_field (·.cell i) (fun _ _ => rfl) ..

/-! ## The issue of an instruction -/

@[simp] theorem finish_ok (s t : State) : finish s (.ok t) = .next (count t (cellPerf (cellOfSlot s.cur)) 2 1) := rfl
@[simp] theorem finish_trap (s : State) (c d : Nat) (v : Word) :
    finish s (.error (.trap c d v)) = .next (trapNow s s.cur c d v) := rfl
@[simp] theorem finish_stall (s : State) :
    finish s (.error .stall) = .next (count s (cellPerf (cellOfSlot s.cur)) 8 1) := rfl
@[simp] theorem finish_hold (s : State) : finish s (.error .hold) = .next s := rfl
@[simp] theorem finish_park (s : State) (p : Park) : finish s (.error (.park p)) = .next (parkSlot s s.cur p) := rfl

/-- The issue of an instruction always ends in a next state, in one of five ways. -/
theorem finish_cases (s : State) (r : Res) :
    (∃ t, r = .ok t ∧ finish s r = .next (count t (cellPerf (cellOfSlot s.cur)) 2 1)) ∨
    (∃ c d v, r = .error (.trap c d v) ∧ finish s r = .next (trapNow s s.cur c d v)) ∨
    (r = .error .stall ∧ finish s r = .next (count s (cellPerf (cellOfSlot s.cur)) 8 1)) ∨
    (r = .error .hold ∧ finish s r = .next s) ∨
    (∃ p, r = .error (.park p) ∧ finish s r = .next (parkSlot s s.cur p)) := by
  rcases r with (⟨c, d, v⟩ | _ | _ | p) | t
  · exact .inr (.inl ⟨c, d, v, rfl, rfl⟩)
  · exact .inr (.inr (.inl ⟨rfl, rfl⟩))
  · exact .inr (.inr (.inr (.inl ⟨rfl, rfl⟩)))
  · exact .inr (.inr (.inr (.inr ⟨p, rfl, rfl⟩)))
  · exact .inl ⟨t, rfl, rfl⟩

theorem finish_next (s : State) (r : Res) : ∃ t, finish s r = .next t := by
  rcases finish_cases s r with ⟨t, -, h⟩ | ⟨c, d, v, -, h⟩ | ⟨-, h⟩ | ⟨-, h⟩ | ⟨p, -, h⟩ <;> exact ⟨_, h⟩

@[simp] theorem guardH_ok {b : Bool} {h : Halt} {u : Unit} : guardH b h = .ok u ↔ b = true := by
  unfold guardH
  cases b <;> simp

theorem guardH_true (h : Halt) : guardH true h = .ok () := rfl
theorem guardH_false (h : Halt) : guardH false h = .error h := rfl

/-! ## Traps -/

@[simp] theorem takeTrap_slot_ne (s : State) {sid i : Nat} (c d : Nat) (v : Word) (b : Bool) (h : i ≠ sid) :
    (takeTrap s sid c d v b).slot i = s.slot i := by
  unfold takeTrap
  dsimp only
  split
  · exact State.slot_setSlot_ne _ _ h
  · exact State.slot_setSlot_ne _ _ h

@[simp] theorem takeTrap_slot_same (s : State) (sid c d : Nat) (v : Word) (b : Bool) :
    (takeTrap s sid c d v b).slot sid = trapSlot (s.slot sid) c d v b := by
  unfold takeTrap
  dsimp only
  split
  · exact State.slot_setSlot_same _ _ _
  · exact State.slot_setSlot_same _ _ _

/-- A trap changes the slot and, unhandled, gives an event; nothing else. -/
theorem takeTrap_cases (s : State) (sid c d : Nat) (v : Word) (b : Bool) :
    takeTrap s sid c d v b = s.setSlot sid (trapSlot (s.slot sid) c d v b) ∨
    takeTrap s sid c d v b = (s.setSlot sid (trapSlot (s.slot sid) c d v b)).pushE (.taskEnd sid) := by
  unfold takeTrap
  dsimp only
  split
  · exact .inl rfl
  · exact .inr rfl

@[simp] theorem takeTrap_cells (s : State) (sid c d : Nat) (v : Word) (b : Bool) : (takeTrap s sid c d v b).cells = s.cells := by
  rcases takeTrap_cases s sid c d v b with h | h <;> rw [h] <;> rfl
@[simp] theorem takeTrap_phys (s : State) (sid c d : Nat) (v : Word) (b : Bool) : (takeTrap s sid c d v b).phys = s.phys := by
  rcases takeTrap_cases s sid c d v b with h | h <;> rw [h] <;> rfl
@[simp] theorem takeTrap_commons (s : State) (sid c d : Nat) (v : Word) (b : Bool) :
    (takeTrap s sid c d v b).commons = s.commons := by
  rcases takeTrap_cases s sid c d v b with h | h <;> rw [h] <;> rfl

theorem trapNow_cases (s : State) (sid c d : Nat) (v : Word) :
    (vecOpen s sid = true ∧ trapNow s sid c d v = s) ∨
    (vecOpen s sid = false ∧ trapNow s sid c d v = takeTrap s sid c d v false) := by
  unfold trapNow
  split <;> simp_all

/-- The trap record and the PC of a trap (R80). -/
theorem trapSlot_record (x : Slot) (c d : Nat) (v : Word) (b : Bool) :
    (trapSlot x c d v b).tcause = wrap64 (c + 256 * d + 2 ^ 16 + 2 ^ 17 * b.toNat) ∧ (trapSlot x c d v b).tepc = x.pc ∧
    (trapSlot x c d v b).tval = v := by
  unfold trapSlot
  dsimp only
  split <;> exact ⟨rfl, rfl, rfl⟩

theorem trapSlot_handled {x : Slot} (h : hact x = false) (hv : x.tvec ≠ 0#64) (c d : Nat) (v : Word) (b : Bool) :
    (trapSlot x c d v b).pc = x.tvec &&& ~~~3#64 ∧ (trapSlot x c d v b).status = x.status := by
  unfold trapSlot
  simp [h, hv]

theorem trapSlot_unhandled {x : Slot} (h : hact x = true ∨ x.tvec = 0#64) (c d : Nat) (v : Word) (b : Bool) :
    (trapSlot x c d v b).status = .ending .trapped (BitVec.ofNat 32 c) ∧ (trapSlot x c d v b).pc = x.pc := by
  unfold trapSlot
  rcases h with h | h <;> simp [h]

/-! ## The canonical form of memory -/

theorem canonical_setSlot {s : State} (h : Safety.MemoryCanonical s) (i : Nat) (x : Slot) : Safety.MemoryCanonical (s.setSlot i x) :=
  canonical_of_eq h rfl rfl rfl

theorem canonical_setCore {s : State} (h : Safety.MemoryCanonical s) (i : Nat) (x : Core) : Safety.MemoryCanonical (s.setCore i x) :=
  canonical_of_eq h rfl rfl rfl

theorem canonical_setReg {s : State} (h : Safety.MemoryCanonical s) (o : Nat) (v : Word) : Safety.MemoryCanonical (s.setReg o v) :=
  canonical_of_eq h rfl rfl rfl

theorem canonical_pushE {s : State} (h : Safety.MemoryCanonical s) (i : Instr) : Safety.MemoryCanonical (s.pushE i) :=
  canonical_of_eq h rfl rfl rfl

theorem canonical_takeTrap {s : State} (h : Safety.MemoryCanonical s) (sid c d : Nat) (v : Word) (b : Bool) :
    Safety.MemoryCanonical (takeTrap s sid c d v b) := canonical_of_eq h (by simp) (by simp) (by simp)

theorem canonical_trapNow {s : State} (h : Safety.MemoryCanonical s) (sid c d : Nat) (v : Word) :
    Safety.MemoryCanonical (trapNow s sid c d v) := by
  rcases trapNow_cases s sid c d v with ⟨-, e⟩ | ⟨-, e⟩ <;> rw [e]
  · exact h
  · exact canonical_takeTrap h ..

/-- The issue of an instruction keeps the form if its completion does. -/
theorem canonical_finish {s t : State} {r : Res} (h : Safety.MemoryCanonical s)
    (hr : ∀ u, r = .ok u → Safety.MemoryCanonical u) (ht : finish s r = .next t) : Safety.MemoryCanonical t := by
  rcases finish_cases s r with ⟨u, e, f⟩ | ⟨c, d, v, -, f⟩ | ⟨-, f⟩ | ⟨-, f⟩ | ⟨p, -, f⟩ <;> rw [f] at ht <;>
    injection ht with ht <;> rw [← ht]
  · exact canonical_count (hr u e) ..
  · exact canonical_trapNow h ..
  · exact canonical_count h ..
  · exact h
  · exact canonical_of_eq h rfl rfl rfl

/-! ## Sequencing -/

theorem res_bind_ok {α β : Type} {x : Except Halt α} {f : α → Except Halt β} {b : β} (h : x >>= f = .ok b) :
    ∃ a, x = .ok a ∧ f a = .ok b := by
  cases x with
  | error e => cases h
  | ok a => exact ⟨a, rfl, h⟩

@[simp] theorem res_ok_bind {α β : Type} (a : α) (f : α → Except Halt β) : (Except.ok a >>= f) = f a := rfl
@[simp] theorem res_error_bind {α β : Type} (e : Halt) (f : α → Except Halt β) : (Except.error e >>= f) = .error e := rfl

theorem writeS_ok {x y : Slot} {d : Nat} {v : Word} : writeS x d v = .ok y ↔ x.sP d = false ∧ y = x.putS d v := by
  unfold writeS
  cases x.sP d
  · exact ⟨fun h => ⟨rfl, (Except.ok.inj h).symm⟩, fun h => congrArg Except.ok h.2.symm⟩
  · exact ⟨fun h => absurd h (fun e => nomatch e), fun h => absurd h.1 (fun e => nomatch e)⟩

/-- What a scalar operation on two registers does when it completes (R257). -/
theorem alu2_ok {f : Word → Word → Word} {d a b : BitVec 6} {m n : Bool} {s t : State} (h : alu2 f d a b m n s = .ok t) :
    ∃ r, read2 (s.slot s.cur) a.toNat m b.toNat n = .ok r ∧ r.2.2.sP d.toNat = false ∧
      t = s.setSlot s.cur (r.2.2.putS d.toNat (f r.1 r.2.1)).next := by
  unfold alu2 at h
  obtain ⟨-, -, h⟩ := res_bind_ok h
  obtain ⟨r, hr, h⟩ := res_bind_ok h
  obtain ⟨y, hy, h⟩ := res_bind_ok h
  rw [writeS_ok] at hy
  obtain ⟨hp, rfl⟩ := hy
  exact ⟨r, hr, hp, (Except.ok.inj h).symm⟩

/-- What a scalar operation on one register does when it completes (R260, R261). -/
theorem alu1_ok {f : Word → Word} {d a : BitVec 6} {m : Bool} {s t : State} (h : alu1 f d a m s = .ok t) :
    ∃ r, read1 (s.slot s.cur) a.toNat m = .ok r ∧ r.2.sP d.toNat = false ∧
      t = s.setSlot s.cur (r.2.putS d.toNat (f r.1)).next := by
  unfold alu1 at h
  obtain ⟨-, -, h⟩ := res_bind_ok h
  obtain ⟨r, hr, h⟩ := res_bind_ok h
  obtain ⟨y, hy, h⟩ := res_bind_ok h
  rw [writeS_ok] at hy
  obtain ⟨hp, rfl⟩ := hy
  exact ⟨r, hr, hp, (Except.ok.inj h).symm⟩

/-- What a value without operands does when it completes (R263). -/
theorem alu0_ok {v : Slot → Word} {d : BitVec 6} {s t : State} (h : alu0 v d s = .ok t) :
    (s.slot s.cur).sP d.toNat = false ∧ t = s.setSlot s.cur ((s.slot s.cur).putS d.toNat (v (s.slot s.cur))).next := by
  unfold alu0 at h
  obtain ⟨-, -, h⟩ := res_bind_ok h
  obtain ⟨y, hy, h⟩ := res_bind_ok h
  rw [writeS_ok] at hy
  obtain ⟨hp, rfl⟩ := hy
  exact ⟨hp, (Except.ok.inj h).symm⟩

theorem canonical_alu2 {f : Word → Word → Word} {d a b : BitVec 6} {m n : Bool} {s t : State}
    (hs : Safety.MemoryCanonical s) (h : alu2 f d a b m n s = .ok t) : Safety.MemoryCanonical t := by
  obtain ⟨r, -, -, rfl⟩ := alu2_ok h
  exact canonical_setSlot hs ..

theorem canonical_alu1 {f : Word → Word} {d a : BitVec 6} {m : Bool} {s t : State}
    (hs : Safety.MemoryCanonical s) (h : alu1 f d a m s = .ok t) : Safety.MemoryCanonical t := by
  obtain ⟨r, -, -, rfl⟩ := alu1_ok h
  exact canonical_setSlot hs ..

/-! ## Accesses in flight -/

@[simp] theorem launch_flight (s : State) (a : Access) : (s.launch a).flight = s.flight ++ [{ a with id := s.nextId, entered := s.nextId }] := rfl
@[simp] theorem launch_slots (s : State) (a : Access) : (s.launch a).slots = s.slots := rfl
@[simp] theorem setAccess_slots (s : State) (a : Access) : (s.setAccess a).slots = s.slots := rfl
@[simp] theorem dropAccess_slots (s : State) (i : Nat) : (s.dropAccess i).slots = s.slots := rfl

theorem canonical_launch {s : State} (h : Safety.MemoryCanonical s) (a : Access) : Safety.MemoryCanonical (s.launch a) :=
  canonical_of_eq h rfl rfl rfl
theorem canonical_setAccess {s : State} (h : Safety.MemoryCanonical s) (a : Access) : Safety.MemoryCanonical (s.setAccess a) :=
  canonical_of_eq h rfl rfl rfl
theorem canonical_dropAccess {s : State} (h : Safety.MemoryCanonical s) (i : Nat) : Safety.MemoryCanonical (s.dropAccess i) :=
  canonical_of_eq h rfl rfl rfl
theorem canonical_reply {s : State} (h : Safety.MemoryCanonical s) (a : Access) (r : Reply) : Safety.MemoryCanonical (reply s a r) :=
  canonical_of_eq h rfl rfl rfl
theorem canonical_acknowledge {s : State} (h : Safety.MemoryCanonical s) (sid : Nat) (g : BitVec 8) :
    Safety.MemoryCanonical (acknowledge s sid g) := canonical_of_eq h rfl rfl rfl

theorem canonical_demandFault {s : State} (h : Safety.MemoryCanonical s) (p asid kind source : Nat) (va : Word) :
    Safety.MemoryCanonical (demandFault s p asid kind source va) := by
  unfold demandFault
  dsimp only
  have hc := canonical_count h (diePerf (sourceDie source)) 8 1
  generalize count s (diePerf (sourceDie source)) 8 1 = u at hc ⊢
  split
  · exact hc
  · exact canonical_of_eq hc rfl rfl rfl

end Sys2Proof.Machine
end

