-- ==== Sys2Proof/Laws/PerInstr.lean ====
section
/-! SUPPORT. What holds of every instruction as syntax, one lemma for each constructor: an instruction is written as a 32-bit word
or as a 256-bit command or as neither, never as both; and only a 32-bit word has fields that its encoding checks (R225, R240,
R242). -/

namespace Sys2Proof.Laws.OneForm

/-- No instruction has two written forms, and one without a 32-bit word has no field checks at decode. -/
def Statement (i : Instr) : Prop := (encode i = none ∨ encodeCommand i = none) ∧ (encode i = none → i.legality = none)

/-- The form of a thread instruction. -/
theorem of_word {i : Instr} {w : BitVec 32} (h : encode i = some w) (k : encodeCommand i = none) : Statement i :=
  ⟨.inr k, fun e => by rw [h] at e; cases e⟩

/-- The form of a command, and of a step of another agent. -/
theorem of_none {i : Instr} (h : encode i = none) (k : i.legality = none) : Statement i := ⟨.inl h, fun _ => k⟩

theorem add (d a b : BitVec 6) (m n : Bool) : Statement (.add d a b m n) := of_word rfl rfl
theorem sub (d a b : BitVec 6) (m n : Bool) : Statement (.sub d a b m n) := of_word rfl rfl
theorem mul (d a b : BitVec 6) (m n : Bool) : Statement (.mul d a b m n) := of_word rfl rfl
theorem mulh (d a b : BitVec 6) (m n : Bool) : Statement (.mulh d a b m n) := of_word rfl rfl
theorem mulhu (d a b : BitVec 6) (m n : Bool) : Statement (.mulhu d a b m n) := of_word rfl rfl
theorem div (d a b : BitVec 6) (m n : Bool) : Statement (.div d a b m n) := of_word rfl rfl
theorem divu (d a b : BitVec 6) (m n : Bool) : Statement (.divu d a b m n) := of_word rfl rfl
theorem rem (d a b : BitVec 6) (m n : Bool) : Statement (.rem d a b m n) := of_word rfl rfl
theorem remu (d a b : BitVec 6) (m n : Bool) : Statement (.remu d a b m n) := of_word rfl rfl
theorem and (d a b : BitVec 6) (m n : Bool) : Statement (.and d a b m n) := of_word rfl rfl
theorem or (d a b : BitVec 6) (m n : Bool) : Statement (.or d a b m n) := of_word rfl rfl
theorem xor (d a b : BitVec 6) (m n : Bool) : Statement (.xor d a b m n) := of_word rfl rfl
theorem andn (d a b : BitVec 6) (m n : Bool) : Statement (.andn d a b m n) := of_word rfl rfl
theorem orn (d a b : BitVec 6) (m n : Bool) : Statement (.orn d a b m n) := of_word rfl rfl
theorem shl (d a b : BitVec 6) (m n : Bool) : Statement (.shl d a b m n) := of_word rfl rfl
theorem shr (d a b : BitVec 6) (m n : Bool) : Statement (.shr d a b m n) := of_word rfl rfl
theorem sar (d a b : BitVec 6) (m n : Bool) : Statement (.sar d a b m n) := of_word rfl rfl
theorem rol (d a b : BitVec 6) (m n : Bool) : Statement (.rol d a b m n) := of_word rfl rfl
theorem min (d a b : BitVec 6) (m n : Bool) : Statement (.min d a b m n) := of_word rfl rfl
theorem max (d a b : BitVec 6) (m n : Bool) : Statement (.max d a b m n) := of_word rfl rfl
theorem minu (d a b : BitVec 6) (m n : Bool) : Statement (.minu d a b m n) := of_word rfl rfl
theorem maxu (d a b : BitVec 6) (m n : Bool) : Statement (.maxu d a b m n) := of_word rfl rfl
theorem slt (d a b : BitVec 6) (m n : Bool) : Statement (.slt d a b m n) := of_word rfl rfl
theorem sltu (d a b : BitVec 6) (m n : Bool) : Statement (.sltu d a b m n) := of_word rfl rfl
theorem seq (d a b : BitVec 6) (m n : Bool) : Statement (.seq d a b m n) := of_word rfl rfl
theorem sne (d a b : BitVec 6) (m n : Bool) : Statement (.sne d a b m n) := of_word rfl rfl
theorem clz (d a : BitVec 6) (m : Bool) : Statement (.clz d a m) := of_word rfl rfl
theorem ctz (d a : BitVec 6) (m : Bool) : Statement (.ctz d a m) := of_word rfl rfl
theorem popc (d a : BitVec 6) (m : Bool) : Statement (.popc d a m) := of_word rfl rfl
theorem sext (d a w : BitVec 6) (m : Bool) : Statement (.sext d a w m) := of_word rfl rfl
theorem zext (d a w : BitVec 6) (m : Bool) : Statement (.zext d a w m) := of_word rfl rfl
theorem bswap (d a : BitVec 6) (m : Bool) : Statement (.bswap d a m) := of_word rfl rfl
theorem addi (d a : BitVec 6) (m : Bool) (i : BitVec 13) : Statement (.addi d a m i) := of_word rfl rfl
theorem andi (d a : BitVec 6) (m : Bool) (i : BitVec 13) : Statement (.andi d a m i) := of_word rfl rfl
theorem ori (d a : BitVec 6) (m : Bool) (i : BitVec 13) : Statement (.ori d a m i) := of_word rfl rfl
theorem xori (d a : BitVec 6) (m : Bool) (i : BitVec 13) : Statement (.xori d a m i) := of_word rfl rfl
theorem slti (d a : BitVec 6) (m : Bool) (i : BitVec 13) : Statement (.slti d a m i) := of_word rfl rfl
theorem sltui (d a : BitVec 6) (m : Bool) (i : BitVec 13) : Statement (.sltui d a m i) := of_word rfl rfl
theorem shli (d a : BitVec 6) (m : Bool) (h : BitVec 6) : Statement (.shli d a m h) := of_word rfl rfl
theorem shri (d a : BitVec 6) (m : Bool) (h : BitVec 6) : Statement (.shri d a m h) := of_word rfl rfl
theorem sari (d a : BitVec 6) (m : Bool) (h : BitVec 6) : Statement (.sari d a m h) := of_word rfl rfl
theorem lui (d : BitVec 6) (i : BitVec 20) : Statement (.lui d i) := of_word rfl rfl
theorem pcrel (d : BitVec 6) (i : BitVec 20) : Statement (.pcrel d i) := of_word rfl rfl
theorem lea (d b : BitVec 6) (z : BitVec 2) (y : Bool) (o : BitVec 11) : Statement (.lea d b z y o) := of_word rfl rfl
theorem bEq (a b : BitVec 6) (o : BitVec 11) : Statement (.bEq a b o) := of_word rfl rfl
theorem bNe (a b : BitVec 6) (o : BitVec 11) : Statement (.bNe a b o) := of_word rfl rfl
theorem bLt (a b : BitVec 6) (o : BitVec 11) : Statement (.bLt a b o) := of_word rfl rfl
theorem bGe (a b : BitVec 6) (o : BitVec 11) : Statement (.bGe a b o) := of_word rfl rfl
theorem bLtu (a b : BitVec 6) (o : BitVec 11) : Statement (.bLtu a b o) := of_word rfl rfl
theorem bGeu (a b : BitVec 6) (o : BitVec 11) : Statement (.bGeu a b o) := of_word rfl rfl
theorem j (o : BitVec 26) : Statement (.j o) := of_word rfl rfl
theorem jal (o : BitVec 26) : Statement (.jal o) := of_word rfl rfl
theorem jalr (d a : BitVec 6) : Statement (.jalr d a) := of_word rfl rfl
theorem ret (a : BitVec 6) : Statement (.ret a) := of_word rfl rfl
theorem call (o : BitVec 20) : Statement (.call o) := of_word rfl rfl
theorem loop (a : BitVec 6) (o : BitVec 14) : Statement (.loop a o) := of_word rfl rfl
theorem ld (d b : BitVec 6) (z : BitVec 2) (y : Bool) (o : BitVec 11) : Statement (.ld d b z y o) := of_word rfl rfl
theorem st (d b : BitVec 6) (z : BitVec 2) (y : Bool) (o : BitVec 11) : Statement (.st d b z y o) := of_word rfl rfl
theorem ldS (d b : BitVec 6) (z : BitVec 2) (y e : Bool) : Statement (.ldS d b z y e) := of_word rfl rfl
theorem ldAcq (d b : BitVec 6) (z : BitVec 2) (y : Bool) (s : BitVec 3) (e : Bool) : Statement (.ldAcq d b z y s e) := of_word rfl rfl
theorem stRel (d b : BitVec 6) (z : BitVec 2) (y : Bool) (s : BitVec 3) : Statement (.stRel d b z y s) := of_word rfl rfl
theorem lds (d b : BitVec 6) (y : Bool) : Statement (.lds d b y) := of_word rfl rfl
theorem sts (d b : BitVec 6) (y : Bool) : Statement (.sts d b y) := of_word rfl rfl
theorem ldw (d b : BitVec 6) (y : Bool) : Statement (.ldw d b y) := of_word rfl rfl
theorem fefill (d b : BitVec 6) (y : Bool) : Statement (.fefill d b y) := of_word rfl rfl
theorem feempty (b : BitVec 6) (y : Bool) : Statement (.feempty b y) := of_word rfl rfl
theorem feq (d b : BitVec 6) (y : Bool) : Statement (.feq d b y) := of_word rfl rfl
theorem amoAdd (d a : BitVec 6) (m z q r : Bool) (s : BitVec 3) : Statement (.amoAdd d a m z q r s) := of_word rfl rfl
theorem amoAnd (d a : BitVec 6) (m z q r : Bool) (s : BitVec 3) : Statement (.amoAnd d a m z q r s) := of_word rfl rfl
theorem amoOr (d a : BitVec 6) (m z q r : Bool) (s : BitVec 3) : Statement (.amoOr d a m z q r s) := of_word rfl rfl
theorem amoXor (d a : BitVec 6) (m z q r : Bool) (s : BitVec 3) : Statement (.amoXor d a m z q r s) := of_word rfl rfl
theorem amoMin (d a : BitVec 6) (m z q r : Bool) (s : BitVec 3) : Statement (.amoMin d a m z q r s) := of_word rfl rfl
theorem amoMax (d a : BitVec 6) (m z q r : Bool) (s : BitVec 3) : Statement (.amoMax d a m z q r s) := of_word rfl rfl
theorem amoMinu (d a : BitVec 6) (m z q r : Bool) (s : BitVec 3) : Statement (.amoMinu d a m z q r s) := of_word rfl rfl
theorem amoMaxu (d a : BitVec 6) (m z q r : Bool) (s : BitVec 3) : Statement (.amoMaxu d a m z q r s) := of_word rfl rfl
theorem amoSwap (d a : BitVec 6) (m z q r : Bool) (s : BitVec 3) : Statement (.amoSwap d a m z q r s) := of_word rfl rfl
theorem amoFadd (d a : BitVec 6) (m q r : Bool) (s : BitVec 3) : Statement (.amoFadd d a m q r s) := of_word rfl rfl
theorem cas (d a b : BitVec 6) (z q r : Bool) (s : BitVec 3) : Statement (.cas d a b z q r s) := of_word rfl rfl
theorem lineRd (d : BitVec 5) (a : BitVec 6) (q : Bool) (s : BitVec 3) : Statement (.lineRd d a q s) := of_word rfl rfl
theorem lineCst (d a b : BitVec 6) (n : BitVec 2) (r : Bool) (s : BitVec 3) : Statement (.lineCst d a b n r s) := of_word rfl rfl
theorem blkRd (d a b : BitVec 6) (t : Bool) (s : BitVec 3) : Statement (.blkRd d a b t s) := of_word rfl rfl
theorem blkWr (d a b : BitVec 6) (t : Bool) (s : BitVec 3) : Statement (.blkWr d a b t s) := of_word rfl rfl
theorem fence (k : BitVec 2) (s : BitVec 3) : Statement (.fence k s) := of_word rfl rfl
theorem cinv (a : BitVec 6) : Statement (.cinv a) := of_word rfl rfl
theorem cwb (a : BitVec 6) : Statement (.cwb a) := of_word rfl rfl
theorem pref (a : BitVec 6) : Statement (.pref a) := of_word rfl rfl
theorem prefW (a : BitVec 6) : Statement (.prefW a) := of_word rfl rfl
theorem send (a b : BitVec 6) (m n : Bool) : Statement (.send a b m n) := of_word rfl rfl
theorem sendV (a : BitVec 6) (b : BitVec 5) (m n : Bool) : Statement (.sendV a b m n) := of_word rfl rfl
theorem sendP (a : BitVec 6) (b : BitVec 3) (m n : Bool) : Statement (.sendP a b m n) := of_word rfl rfl
theorem take (d : BitVec 6) : Statement (.take d) := of_word rfl rfl
theorem start (a b : BitVec 6) (m n : Bool) : Statement (.start a b m n) := of_word rfl rfl
theorem reap (d a : BitVec 6) (m : Bool) : Statement (.reap d a m) := of_word rfl rfl
theorem kill (a b : BitVec 6) (m n : Bool) : Statement (.kill a b m n) := of_word rfl rfl
theorem yield : Statement (.yield) := of_word rfl rfl
theorem retire (a : BitVec 6) (m : Bool) : Statement (.retire a m) := of_word rfl rfl
theorem migrate (a : BitVec 6) (m : Bool) : Statement (.migrate a m) := of_word rfl rfl
theorem lnch (a b : BitVec 6) (m n : Bool) : Statement (.lnch a b m n) := of_word rfl rfl
theorem enqM (a : BitVec 6) (m : Bool) : Statement (.enqM a m) := of_word rfl rfl
theorem enqC (a : BitVec 6) (m : Bool) : Statement (.enqC a m) := of_word rfl rfl
theorem fork (d a b : BitVec 6) (m n : Bool) : Statement (.fork d a b m n) := of_word rfl rfl
theorem rdv (d : BitVec 6) : Statement (.rdv d) := of_word rfl rfl
theorem accrd (d : BitVec 5) (c k : BitVec 3) : Statement (.accrd d c k) := of_word rfl rfl
theorem accwr (d : BitVec 5) (c k : BitVec 3) : Statement (.accwr d c k) := of_word rfl rfl
theorem barInit (a b : BitVec 6) (m n : Bool) : Statement (.barInit a b m n) := of_word rfl rfl
theorem barArr (a : BitVec 6) (m : Bool) : Statement (.barArr a m) := of_word rfl rfl
theorem barWait (a : BitVec 6) (m : Bool) : Statement (.barWait a m) := of_word rfl rfl
theorem barWaitDrop (a : BitVec 6) (m : Bool) : Statement (.barWaitDrop a m) := of_word rfl rfl
theorem tdq (d a : BitVec 6) (m : Bool) : Statement (.tdq d a m) := of_word rfl rfl
theorem tdset (a b : BitVec 6) (m n : Bool) : Statement (.tdset a b m n) := of_word rfl rfl
theorem tdzero (a b : BitVec 6) (m n : Bool) : Statement (.tdzero a b m n) := of_word rfl rfl
theorem pub (a : BitVec 6) (s : BitVec 3) (m : Bool) : Statement (.pub a s m) := of_word rfl rfl
theorem gear (i : BitVec 13) : Statement (.gear i) := of_word rfl rfl
theorem ophint (i : BitVec 13) : Statement (.ophint i) := of_word rfl rfl
theorem vadd (r : BitVec 3) (d a b : BitVec 5) (p : BitVec 3) (f : BitVec 2) : Statement (.vadd r d a b p f) := of_word rfl rfl
theorem vsub (r : BitVec 3) (d a b : BitVec 5) (p : BitVec 3) (f : BitVec 2) : Statement (.vsub r d a b p f) := of_word rfl rfl
theorem vmul (r : BitVec 3) (d a b : BitVec 5) (p : BitVec 3) (f : BitVec 2) : Statement (.vmul r d a b p f) := of_word rfl rfl
theorem vfma (r : BitVec 3) (d a b : BitVec 5) (p : BitVec 3) (f : BitVec 2) : Statement (.vfma r d a b p f) := of_word rfl rfl
theorem vfms (r : BitVec 3) (d a b : BitVec 5) (p : BitVec 3) (f : BitVec 2) : Statement (.vfms r d a b p f) := of_word rfl rfl
theorem vdiv (r : BitVec 3) (d a b : BitVec 5) (p : BitVec 3) (f : BitVec 2) : Statement (.vdiv r d a b p f) := of_word rfl rfl
theorem vsqrt (r : BitVec 3) (d a : BitVec 5) (p : BitVec 3) (f : BitVec 2) : Statement (.vsqrt r d a p f) := of_word rfl rfl
theorem vrcp (r : BitVec 3) (d a : BitVec 5) (p : BitVec 3) (f : BitVec 2) : Statement (.vrcp r d a p f) := of_word rfl rfl
theorem vrsqrt (r : BitVec 3) (d a : BitVec 5) (p : BitVec 3) (f : BitVec 2) : Statement (.vrsqrt r d a p f) := of_word rfl rfl
theorem vsum (r : BitVec 3) (d a : BitVec 5) (p : BitVec 3) (f : BitVec 2) : Statement (.vsum r d a p f) := of_word rfl rfl
theorem vdot (r : BitVec 3) (d a b : BitVec 5) (p : BitVec 3) (f : BitVec 2) : Statement (.vdot r d a b p f) := of_word rfl rfl
theorem vcvt (r : BitVec 3) (d a c : BitVec 5) (p : BitVec 3) (f : BitVec 2) : Statement (.vcvt r d a c p f) := of_word rfl rfl
theorem vcvtSat (r : BitVec 3) (d a c : BitVec 5) (p : BitVec 3) (f : BitVec 2) : Statement (.vcvtSat r d a c p f) := of_word rfl rfl
theorem vwiden (r : BitVec 3) (d a c : BitVec 5) (f : BitVec 2) : Statement (.vwiden r d a c f) := of_word rfl rfl
theorem vnarrow (r : BitVec 3) (d a c : BitVec 5) (f : BitVec 2) : Statement (.vnarrow r d a c f) := of_word rfl rfl
theorem vnarrowSat (r : BitVec 3) (d a c : BitVec 5) (f : BitVec 2) : Statement (.vnarrowSat r d a c f) := of_word rfl rfl
theorem vqnt (r : BitVec 3) (d a c : BitVec 5) (f : BitVec 2) : Statement (.vqnt r d a c f) := of_word rfl rfl
theorem vscale (r : BitVec 3) (d a b : BitVec 5) (p : BitVec 3) (f : BitVec 2) : Statement (.vscale r d a b p f) := of_word rfl rfl
theorem vmin (d a b : BitVec 5) (p : BitVec 3) (f : BitVec 2) : Statement (.vmin d a b p f) := of_word rfl rfl
theorem vmax (d a b : BitVec 5) (p : BitVec 3) (f : BitVec 2) : Statement (.vmax d a b p f) := of_word rfl rfl
theorem vabs (d a : BitVec 5) (p : BitVec 3) (f : BitVec 2) : Statement (.vabs d a p f) := of_word rfl rfl
theorem vneg (d a : BitVec 5) (p : BitVec 3) (f : BitVec 2) : Statement (.vneg d a p f) := of_word rfl rfl
theorem vmaxr (d a : BitVec 5) (p : BitVec 3) (f : BitVec 2) : Statement (.vmaxr d a p f) := of_word rfl rfl
theorem vminr (d a : BitVec 5) (p : BitVec 3) (f : BitVec 2) : Statement (.vminr d a p f) := of_word rfl rfl
theorem vexp2 (d a : BitVec 5) (p : BitVec 3) (f : BitVec 2) : Statement (.vexp2 d a p f) := of_word rfl rfl
theorem vlog2 (d a : BitVec 5) (p : BitVec 3) (f : BitVec 2) : Statement (.vlog2 d a p f) := of_word rfl rfl
theorem vexp (d a : BitVec 5) (p : BitVec 3) (f : BitVec 2) : Statement (.vexp d a p f) := of_word rfl rfl
theorem vlog (d a : BitVec 5) (p : BitVec 3) (f : BitVec 2) : Statement (.vlog d a p f) := of_word rfl rfl
theorem vtanh (d a : BitVec 5) (p : BitVec 3) (f : BitVec 2) : Statement (.vtanh d a p f) := of_word rfl rfl
theorem vsigm (d a : BitVec 5) (p : BitVec 3) (f : BitVec 2) : Statement (.vsigm d a p f) := of_word rfl rfl
theorem vcmp (d : BitVec 3) (a b : BitVec 5) (p : BitVec 3) (f : BitVec 2) (c : BitVec 3) : Statement (.vcmp d a b p f c) := of_word rfl rfl
theorem vsel (d a b : BitVec 5) (p : BitVec 3) (f : BitVec 2) : Statement (.vsel d a b p f) := of_word rfl rfl
theorem vand (d a b : BitVec 5) (p : BitVec 3) (f : BitVec 2) : Statement (.vand d a b p f) := of_word rfl rfl
theorem vor (d a b : BitVec 5) (p : BitVec 3) (f : BitVec 2) : Statement (.vor d a b p f) := of_word rfl rfl
theorem vxor (d a b : BitVec 5) (p : BitVec 3) (f : BitVec 2) : Statement (.vxor d a b p f) := of_word rfl rfl
theorem vnot (d a : BitVec 5) (p : BitVec 3) (f : BitVec 2) : Statement (.vnot d a p f) := of_word rfl rfl
theorem vshl (d a b : BitVec 5) (p : BitVec 3) (f : BitVec 2) : Statement (.vshl d a b p f) := of_word rfl rfl
theorem vshr (d a b : BitVec 5) (p : BitVec 3) (f : BitVec 2) : Statement (.vshr d a b p f) := of_word rfl rfl
theorem vsar (d a b : BitVec 5) (p : BitVec 3) (f : BitVec 2) : Statement (.vsar d a b p f) := of_word rfl rfl
theorem vperm (d a b : BitVec 5) (p : BitVec 3) (f : BitVec 2) : Statement (.vperm d a b p f) := of_word rfl rfl
theorem vbcast (d a : BitVec 5) (p : BitVec 3) (f : BitVec 2) : Statement (.vbcast d a p f) := of_word rfl rfl
theorem vext (d a b : BitVec 5) (f : BitVec 2) : Statement (.vext d a b f) := of_word rfl rfl
theorem vins (d a b : BitVec 5) (f : BitVec 2) : Statement (.vins d a b f) := of_word rfl rfl
theorem vloop (a : BitVec 5) : Statement (.vloop a) := of_word rfl rfl
theorem vend : Statement (.vend) := of_word rfl rfl
theorem pand (d a b : BitVec 3) : Statement (.pand d a b) := of_word rfl rfl
theorem por (d a b : BitVec 3) : Statement (.por d a b) := of_word rfl rfl
theorem pxor (d a b : BitVec 3) : Statement (.pxor d a b) := of_word rfl rfl
theorem pnot (d a : BitVec 3) : Statement (.pnot d a) := of_word rfl rfl
theorem pcnt (d : BitVec 5) (a : BitVec 3) : Statement (.pcnt d a) := of_word rfl rfl
theorem pfirst (d : BitVec 5) (a : BitVec 3) : Statement (.pfirst d a) := of_word rfl rfl
theorem vld (d a b : BitVec 5) : Statement (.vld d a b) := of_word rfl rfl
theorem vst (d a b : BitVec 5) : Statement (.vst d a b) := of_word rfl rfl
theorem vlds (d a b : BitVec 5) (p : BitVec 3) (f : BitVec 2) : Statement (.vlds d a b p f) := of_word rfl rfl
theorem vgath (d a b : BitVec 5) (p : BitVec 3) (f : BitVec 2) : Statement (.vgath d a b p f) := of_word rfl rfl
theorem vscat (d a b : BitVec 5) (p : BitVec 3) (f : BitVec 2) : Statement (.vscat d a b p f) := of_word rfl rfl
theorem csrr (d : BitVec 6) (c : BitVec 14) : Statement (.csrr d c) := of_word rfl rfl
theorem csrw (d a : BitVec 6) (c : BitVec 12) : Statement (.csrw d a c) := of_word rfl rfl
theorem csrs (d a : BitVec 6) (c : BitVec 12) : Statement (.csrs d a c) := of_word rfl rfl
theorem csrc (d a : BitVec 6) (c : BitVec 12) : Statement (.csrc d a c) := of_word rfl rfl
theorem trap (i : BitVec 12) : Statement (.trap i) := of_word rfl rfl
theorem brk (i : BitVec 12) : Statement (.brk i) := of_word rfl rfl
theorem eret : Statement (.eret) := of_word rfl rfl
theorem wfi : Statement (.wfi) := of_word rfl rfl
theorem tlbsd (a : BitVec 6) : Statement (.tlbsd a) := of_word rfl rfl
theorem wheelLoad (a : BitVec 6) : Statement (.wheelLoad a) := of_word rfl rfl
theorem wheelArm : Statement (.wheelArm) := of_word rfl rfl
theorem wheelSwap : Statement (.wheelSwap) := of_word rfl rfl
theorem partQuery (d a : BitVec 6) : Statement (.partQuery d a) := of_word rfl rfl
theorem partQuiesce (d a : BitVec 6) : Statement (.partQuiesce d a) := of_word rfl rfl
theorem partCommit (d a : BitVec 6) : Statement (.partCommit d a) := of_word rfl rfl
theorem mma (w : CmdWord) : Statement (.mma w) := of_none rfl rfl
theorem mmz (w : CmdWord) : Statement (.mmz w) := of_none rfl rfl
theorem accld (w : CmdWord) : Statement (.accld w) := of_none rfl rfl
theorem accst (w : CmdWord) : Statement (.accst w) := of_none rfl rfl
theorem accclr (w : CmdWord) : Statement (.accclr w) := of_none rfl rfl
theorem copy (w : CmdWord) : Statement (.copy w) := of_none rfl rfl
theorem copyRingAppend (w : CmdWord) : Statement (.copyRingAppend w) := of_none rfl rfl
theorem copyRed (w : CmdWord) : Statement (.copyRed w) := of_none rfl rfl
theorem copyMc (w : CmdWord) : Statement (.copyMc w) := of_none rfl rfl
theorem fill (w : CmdWord) : Statement (.fill w) := of_none rfl rfl
theorem gath (w : CmdWord) : Statement (.gath w) := of_none rfl rfl
theorem scat (w : CmdWord) : Statement (.scat w) := of_none rfl rfl
theorem coll (w : CmdWord) : Statement (.coll w) := of_none rfl rfl
theorem pubc (w : CmdWord) : Statement (.pubc w) := of_none rfl rfl
theorem tclass (w : CmdWord) : Statement (.tclass w) := of_none rfl rfl
theorem seqJmp (w : CmdWord) : Statement (.seqJmp w) := of_none rfl rfl
theorem seqLoop (w : CmdWord) : Statement (.seqLoop w) := of_none rfl rfl
theorem seqWaitOwn (w : CmdWord) : Statement (.seqWaitOwn w) := of_none rfl rfl
theorem seqWaitSig (w : CmdWord) : Statement (.seqWaitSig w) := of_none rfl rfl
theorem seqSig (w : CmdWord) : Statement (.seqSig w) := of_none rfl rfl
theorem seqEnd (w : CmdWord) : Statement (.seqEnd w) := of_none rfl rfl
theorem sequencerFetch (cell core : Nat) (copyProg : Bool) : Statement (.sequencerFetch cell core copyProg) := of_none rfl rfl
theorem forkedVectorIssue (cell core : Nat) : Statement (.forkedVectorIssue cell core) := of_none rfl rfl
theorem vectorStart (cell t : Nat) : Statement (.vectorStart cell t) := of_none rfl rfl
theorem vectorComplete (cell core n : Nat) : Statement (.vectorComplete cell core n) := of_none rfl rfl
theorem loopBufferReplay (sid : Nat) : Statement (.loopBufferReplay sid) := of_none rfl rfl
theorem matrixUpdate (cell : Nat) : Statement (.matrixUpdate cell) := of_none rfl rfl
theorem deferredTrap : Statement (.deferredTrap) := of_none rfl rfl
theorem parkResume : Statement (.parkResume) := of_none rfl rfl
theorem refusedRetry : Statement (.refusedRetry) := of_none rfl rfl
theorem localPairing (cell pos t : Nat) : Statement (.localPairing cell pos t) := of_none rfl rfl
theorem loadReturn (id : Nat) : Statement (.loadReturn id) := of_none rfl rfl
theorem tokenFill (id : Nat) : Statement (.tokenFill id) := of_none rfl rfl
theorem acknowledgement (id : Nat) : Statement (.acknowledgement id) := of_none rfl rfl
theorem commonsQueueEntry (id : Nat) : Statement (.commonsQueueEntry id) := of_none rfl rfl
theorem commonsPairing (die pos t : Nat) : Statement (.commonsPairing die pos t) := of_none rfl rfl
theorem turnBoundary (die fcyc : Nat) : Statement (.turnBoundary die fcyc) := of_none rfl rfl
theorem remoteAccessArrival (id : Nat) : Statement (.remoteAccessArrival id) := of_none rfl rfl
theorem messageArrival (id : Nat) : Statement (.messageArrival id) := of_none rfl rfl
theorem messageResponse (id : Nat) : Statement (.messageResponse id) := of_none rfl rfl
theorem translationWalk (id : Nat) : Statement (.translationWalk id) := of_none rfl rfl
theorem faultRecordWrite (p : Nat) : Statement (.faultRecordWrite p) := of_none rfl rfl
theorem fqdoneWrite (by_ : Writer) (p : Nat) (v : Word) : Statement (.fqdoneWrite by_ p v) := of_none rfl rfl
theorem sliceWriteSerialise (id : Nat) : Statement (.sliceWriteSerialise id) := of_none rfl rfl
theorem sliceReadMiss (id : Nat) : Statement (.sliceReadMiss id) := of_none rfl rfl
theorem sliceAtomic (id : Nat) : Statement (.sliceAtomic id) := of_none rfl rfl
theorem remoteWriteForward (die home : Nat) : Statement (.remoteWriteForward die home) := of_none rfl rfl
theorem hostCxlAccess (write : Bool) (pa n : Nat) (v : Word) : Statement (.hostCxlAccess write pa n v) := of_none rfl rfl
theorem lqtailWrite (by_ : Writer) (p q : Nat) (v : Word) : Statement (.lqtailWrite by_ p q v) := of_none rfl rfl
theorem lqsizeWrite (by_ : Writer) (p q : Nat) (base : Bool) (v : Word) : Statement (.lqsizeWrite by_ p q base v) := of_none rfl rfl
theorem launchRead (p : Nat) : Statement (.launchRead p) := of_none rfl rfl
theorem recordPlace (p : Nat) : Statement (.recordPlace p) := of_none rfl rfl
theorem continuationPlace (p : Nat) : Statement (.continuationPlace p) := of_none rfl rfl
theorem agePromotion (cell : Nat) : Statement (.agePromotion cell) := of_none rfl rfl
theorem poolGrant (cell : Nat) : Statement (.poolGrant cell) := of_none rfl rfl
theorem taskEnd (sid : Nat) : Statement (.taskEnd sid) := of_none rfl rfl
theorem killEffect : Statement (.killEffect) := of_none rfl rfl
theorem puntySpill (sid : Nat) : Statement (.puntySpill sid) := of_none rfl rfl
theorem migrationSend (sid : Nat) : Statement (.migrationSend sid) := of_none rfl rfl
theorem migrationArrival (id : Nat) : Statement (.migrationArrival id) := of_none rfl rfl
theorem forwardExpiry (cell core n fc : Nat) : Statement (.forwardExpiry cell core n fc) := of_none rfl rfl
theorem ringReserve (cell serial : Nat) : Statement (.ringReserve cell serial) := of_none rfl rfl
theorem ringLanding (cell serial n : Nat) (scale : Bool) : Statement (.ringLanding cell serial n scale) := of_none rfl rfl
theorem copyChunk (cell serial chunk : Nat) : Statement (.copyChunk cell serial chunk) := of_none rfl rfl
theorem reducePieceApply (cell serial chunk piece : Nat) : Statement (.reducePieceApply cell serial chunk piece) := of_none rfl rfl
theorem collArrival (cell serial : Nat) : Statement (.collArrival cell serial) := of_none rfl rfl
theorem collResultWrite (die col rid : Nat) : Statement (.collResultWrite die col rid) := of_none rfl rfl
theorem peerChunkReceive (peer srcCell serial chunk : Nat) (addr : BitVec 128) (udp : BitVec 16) (rpart : Nat) (va : Word) (red : Nat) (bytes : List Byte) : Statement (.peerChunkReceive peer srcCell serial chunk addr udp rpart va red bytes) := of_none rfl rfl
theorem peerAckReceive (cell serial chunk : Nat) (status : Word) (bytes : List Byte) : Statement (.peerAckReceive cell serial chunk status bytes) := of_none rfl rfl
theorem peerRetransmitTimeout (cell serial chunk : Nat) : Statement (.peerRetransmitTimeout cell serial chunk) := of_none rfl rfl
theorem barrierArrival (p bar : Nat) : Statement (.barrierArrival p bar) := of_none rfl rfl
theorem barrierRelease (p bar : Nat) : Statement (.barrierRelease p bar) := of_none rfl rfl
theorem gearEvaluate (cell : Nat) : Statement (.gearEvaluate cell) := of_none rfl rfl
theorem lholdExpiry (cell : Nat) (budget : Bool) : Statement (.lholdExpiry cell budget) := of_none rfl rfl
theorem hopEnd (cell : Nat) : Statement (.hopEnd cell) := of_none rfl rfl
theorem clockStepEnd (fabric : Bool) (n : Nat) : Statement (.clockStepEnd fabric n) := of_none rfl rfl
theorem powerSample (watts amps ballast deepen : Nat) (cells : List CellSample) : Statement (.powerSample watts amps ballast deepen cells) := of_none rfl rfl
theorem removalTimeout (sid : Nat) : Statement (.removalTimeout sid) := of_none rfl rfl
theorem exemptionLapse (sid : Nat) : Statement (.exemptionLapse sid) := of_none rfl rfl
theorem fabricOpEval (die : Nat) : Statement (.fabricOpEval die) := of_none rfl rfl
theorem droop (cell : Nat) : Statement (.droop cell) := of_none rfl rfl
theorem droopRecovery (cell : Nat) : Statement (.droopRecovery cell) := of_none rfl rfl
theorem bretWrite (by_ : Writer) (die : Nat) (v : Word) : Statement (.bretWrite by_ die v) := of_none rfl rfl
theorem optableWrite (by_ : Writer) (n : Nat) (v : Word) : Statement (.optableWrite by_ n v) := of_none rfl rfl
theorem keyDiscard (by_ : Writer) (n : Nat) (v : Word) : Statement (.keyDiscard by_ n v) := of_none rfl rfl
theorem asidtbWrite (by_ : Writer) (die : Nat) (v : Word) : Statement (.asidtbWrite by_ die v) := of_none rfl rfl
theorem casidWrite (by_ : Writer) (cell : Nat) (v : Word) : Statement (.casidWrite by_ cell v) := of_none rfl rfl
theorem pctlWrite (by_ : Writer) (p : Nat) (v : Word) : Statement (.pctlWrite by_ p v) := of_none rfl rfl
theorem ceilWrite (by_ : Writer) (cell : Nat) (v : Word) : Statement (.ceilWrite by_ cell v) := of_none rfl rfl
theorem prailWrite (by_ : Writer) (v : Word) : Statement (.prailWrite by_ v) := of_none rfl rfl
theorem agemonClr (by_ : Writer) (cell : Nat) (v : Word) : Statement (.agemonClr by_ cell v) := of_none rfl rfl
theorem registerWrite (by_ : Writer) (off : Nat) (v : Word) : Statement (.registerWrite by_ off v) := of_none rfl rfl
theorem linkDown : Statement (.linkDown) := of_none rfl rfl
theorem linkUp (width : Nat) : Statement (.linkUp width) := of_none rfl rfl
theorem dieReset (die : Nat) : Statement (.dieReset die) := of_none rfl rfl
theorem powerUpBoot (a : Bool) (b : Word) (c : BitVec 8) (d : List Word) (e : List (Nat × Word)) : Statement (.powerUpBoot a b c d e) := of_none rfl rfl
theorem hostImageSupply (a : Bool) (b : Word) (c : BitVec 8) (d : List Word) (e : List (Nat × Word)) : Statement (.hostImageSupply a b c d e) := of_none rfl rfl
theorem puntyRestore (sid : Nat) : Statement (.puntyRestore sid) := of_none rfl rfl
theorem lineFilledFromMemory (die line : Nat) : Statement (.lineFilledFromMemory die line) := of_none rfl rfl
theorem memoryWriteAcknowledged (die line : Nat) : Statement (.memoryWriteAcknowledged die line) := of_none rfl rfl
theorem uncorrectableError (site : ErrSite) : Statement (.uncorrectableError site) := of_none rfl rfl
theorem attestationReport (nonce : List Byte) : Statement (.attestationReport nonce) := of_none rfl rfl
theorem standby : Statement (.standby) := of_none rfl rfl
theorem flitReplay : Statement (.flitReplay) := of_none rfl rfl

end Sys2Proof.Laws.OneForm
end

