-- ==== Sys2Proof/Tests/Slice0.lean ====
section
/-! SUPPORT. The model's own tests: ill-formed terms, words written out from the encodings, single steps with results worked out
from the rules, and for every statement with hypotheses a state and operands that meet them all. -/

namespace Sys2Proof.Tests

set_option Elab.async false

open Sys2Proof Sys2Proof.Machine Sys2Proof.Claims

/-! ## A small machine -/

/-- A register of a small machine. -/
def partRegs : FMap Word :=
  [ (0xB000, 0x0000000000010001#64), (0x40100000, 0x3F000C0001400007#64)
  , (0x40100008, 0x0000000000000040#64), (0x40100010, 0x000000000000000F#64)
  , (0x40100020, 0x0000000000000003#64), (0x40110000, 0x0000000000000001#64), (0x40110008, 0x0000004800000000#64)
  , (0x40120000, 0x0000000000000001#64), (0x40140000, 0x0000000000000050#64) ]

/-- Partition 0 is committed with SYS and holds cells 0 and 1 of die 0, bank groups 0 to 3, ASIDs 0 to 10, key slots 0 to 3 and all
colours; the first 64 KiB of the lower half map to physical address 0, readable, writable, executable; slot 1 of core 0 is a
servitor that runs, slot 0 its gaffer. -/
def slot0 : Slot :=
  { Slot.init with
    status := .live, gen := 3#8, pc := 0x1000#64, ns := 64, nv := 32, tvec := 0x2000#64, parklim := 4096#64
    sreg := [(1, 7#64), (2, 9#64), (3, 0x800#64), (4, 0xFF00000000000400#64)] }

def small : State :=
  { State.reset with
    cur := 1
    slots := [(0, slot0), (1, slot0)]
    regs := partRegs
    tlb := [{ die := 0, asid := none, va := 0, size := 65536, pte := 0x1F#64 }] }

theorem test_small_partition : small.partOf 0 = some 0 ∧ small.partN 0 = 0 ∧ small.levelY 0 = true ∧ small.levelY 1 = false := by
  decide +kernel
theorem test_small_page :
    (translate small 0 0 0 0x1000 true true true).1 = .ok 0x1000 0 0 ∧ homeDie small 0x1000 = 0 := by decide +kernel


/-! ## Witnesses: each statement's hypotheses can be met -/

theorem slot_of_slots {s u : State} (h : u.slots = s.slots) : ∀ j, u.slot j = s.slot j := fun j => by
  unfold State.slot
  rw [h]

theorem pair_of {α β : Type} {x : α × β} {a : α} (h : x.1 = a) : x = (a, x.2) := by rw [← h]

/-- A triple from two of its parts. -/
theorem triple_of {α β γ : Type} {x : α × β × γ} {a : α} {b : β} (h : x.1 = a) (k : x.2.1 = b) :
    x = (a, b, x.2.2) := by rw [← h, ← k]

/-- Whether an outcome is a next state. -/
def isNext (o : Out) : Bool := match o with | .next _ => true | _ => false

theorem next_of {o : Out} (h : isNext o = true) : ∃ t, o = .next t := by
  cases o with
  | next t => exact ⟨t, rfl⟩
  | fault f => cases h
  | refused r => cases h

/-- The small machine with another slot 1. -/
def smallWith (f : Slot → Slot) : State := small.modSlot 1 f

/-- The small machine, its gaffer issuing. -/
def gaffer : State := { small with cur := 0 }

theorem witness_TwoRegisterResults : ∃ (s : State) (i : Instr) (d a b : BitVec 6) (m n : Bool) (f : Word → Word → Word),
    aluTwo i = some (d, a, b, m, n, f) ∧ Writable (here s) d ∧ Readable (here s) a ∧ Readable (here s) b :=
  ⟨small, .add 63#6 1#6 2#6 true false, _, _, _, _, _, _, rfl, by and_intros <;> decide +kernel, by and_intros <;> decide +kernel,
    by and_intros <;> decide +kernel⟩

theorem witness_OneRegisterResults :
    (∃ (s : State) (i : Instr) (d a : BitVec 6) (m : Bool) (f : Word → Word),
      aluOne i = some (d, a, m, f) ∧ i.legality = none ∧ Writable (here s) d ∧ Readable (here s) a) ∧
    ∃ (s : State) (i : Instr) (d : BitVec 6) (f : Word → Word), aluNone i = some (d, f) ∧ Writable (here s) d :=
  ⟨⟨small, .sext 63#6 1#6 2#6 true, _, _, _, _, rfl, by decide +kernel, by and_intros <;> decide +kernel,
    by and_intros <;> decide +kernel⟩, small, .pcrel 63#6 0x80000#20, _, _, rfl, by and_intros <;> decide +kernel⟩

theorem witness_BranchResults :
    (∃ (s : State) (i : Instr) (a b : BitVec 6) (o : BitVec 11) (c : Word → Word → Prop), branchOf i = some (a, b, o, c) ∧
      Readable (here s) a ∧ Readable (here s) b ∧ c ((here s).sval a.toNat) ((here s).sval b.toNat)) ∧
    ∃ (s : State) (i : Instr) (a b : BitVec 6) (o : BitVec 11) (c : Word → Word → Prop), branchOf i = some (a, b, o, c) ∧
      Readable (here s) a ∧ Readable (here s) b ∧ ¬c ((here s).sval a.toNat) ((here s).sval b.toNat) :=
  ⟨⟨small, .bLt 1#6 2#6 0x7FF#11, _, _, _, _, rfl, by and_intros <;> decide +kernel, by and_intros <;> decide +kernel,
    by decide +kernel⟩, small, .bGeu 1#6 2#6 1#11, _, _, _, _, rfl, by and_intros <;> decide +kernel,
    by and_intros <;> decide +kernel, by decide +kernel⟩

theorem mayMark_small : MayMark (here small) :=
  .inr ⟨fun r hr _ => by interval_cases r <;> decide +kernel, fun r hr _ => by interval_cases r <;> decide +kernel⟩

theorem witness_JumpsAndCalls :
    (∃ s : State, Writable (here s) 1#6) ∧
    (∃ (s : State) (d a : BitVec 6), Writable (here s) d ∧ Readable (here s) a ∧ ((here s).sval a.toNat) &&& 3#64 = 0#64) ∧
    (∀ k : Nat, k < 3 → ∃ (s : State) (a : BitVec 6), Readable (here s) a ∧ (here s).sP a.toNat = false ∧
      (here s).sval a.toNat = BitVec.ofNat 64 k) ∧
    (∃ (s : State) (a : BitVec 6), Readable (here s) a ∧ ((here s).sval a.toNat) &&& 3#64 = 0#64 ∧ MayMark (here s)) ∧
    (∃ s : State, Writable (here s) 1#6 ∧ MayMark (here s)) ∧ ∃ s : State, (here s).tid.getLsbD 60 = true ∧ MayMark (here s) := by
  refine ⟨⟨small, by and_intros <;> decide +kernel⟩,
    ⟨small, 1#6, 3#6, by and_intros <;> decide +kernel, by and_intros <;> decide +kernel, by decide +kernel⟩, fun k hk => ?_,
    ⟨small, 3#6, by and_intros <;> decide +kernel, by decide +kernel, mayMark_small⟩,
    ⟨small, by and_intros <;> decide +kernel, mayMark_small⟩,
    smallWith (fun x => { x with tid := 0x1000000000000000#64, cvmask := 2#64 }), by decide +kernel, .inl (by decide +kernel)⟩
  refine ⟨smallWith (fun x => { x with sreg := [(1, BitVec.ofNat 64 k)] }), 1#6, ?_, ?_, ?_⟩ <;> interval_cases k <;>
    (try and_intros) <;> decide +kernel

theorem witness_ScalarFrameAndStalls : ∃ (s t : State) (i : Instr), (aluTwo i).isSome ∧ exec i s = .next t := by
  obtain ⟨t, h⟩ := next_of (o := exec (.add 1#6 2#6 3#6 false true) small) (by decide +kernel)
  exact ⟨small, t, _, rfl, h⟩

theorem witness_ScalarFrameAndStalls_zero : ∃ (s : State) (i : Instr) (a b : BitVec 6) (f : Word → Word → Word),
    aluTwo i = some (0#6, a, b, false, false, f) ∧ 0 < (here s).ns ∧ Readable (here s) a ∧ Readable (here s) b :=
  ⟨small, .mul 0#6 1#6 0#6 false false, _, _, _, rfl, by decide +kernel, by and_intros <;> decide +kernel,
    by and_intros <;> decide +kernel⟩

theorem witness_ScalarFrameAndStalls_stalls :
    (∃ (s : State) (i : Instr) (d a b : BitVec 6) (m n : Bool) (f : Word → Word → Word), aluTwo i = some (d, a, b, m, n, f) ∧
      d.toNat < (here s).ns ∧ a.toNat < (here s).ns ∧ b.toNat < (here s).ns ∧ (here s).sF a.toNat = false) ∧
    ∃ s : State, vecOpen s s.cur = false ∧
      (∃ (i : Instr) (d a b : BitVec 6) (m n : Bool) (f : Word → Word → Word), aluTwo i = some (d, a, b, m, n, f) ∧
        (here s).ns ≤ d.toNat) ∧
      (∃ (i : Instr) (d a b : BitVec 6) (m n : Bool) (f : Word → Word → Word), aluTwo i = some (d, a, b, m, n, f) ∧
        d.toNat < (here s).ns ∧ (here s).ns ≤ a.toNat) ∧
      ∃ (i : Instr) (d a b : BitVec 6) (m n : Bool) (f : Word → Word → Word), aluTwo i = some (d, a, b, m, n, f) ∧
        d.toNat < (here s).ns ∧ a.toNat < (here s).ns ∧ (here s).ns ≤ b.toNat :=
  ⟨⟨smallWith (fun x => { x with sfull := 1#64 }), .sub 1#6 2#6 0#6 false false, _, _, _, _, _, _, rfl, by decide +kernel,
    by decide +kernel, by decide +kernel, by decide +kernel⟩,
   smallWith (fun x => { x with ns := 4 }), by decide +kernel,
   ⟨.sub 4#6 3#6 3#6 false false, _, _, _, _, _, _, rfl, by decide +kernel⟩,
   ⟨.sub 3#6 4#6 3#6 false false, _, _, _, _, _, _, rfl, by decide +kernel, by decide +kernel⟩,
   .sub 3#6 3#6 4#6 false false, _, _, _, _, _, _, rfl, by decide +kernel, by decide +kernel, by decide +kernel⟩

theorem witness_SlotTraps :
    (∃ s : State, vecOpen s s.cur = false ∧ (here s).tepc &&& 3#64 = 0#64) ∧
    (∃ s : State, (here s).tepc &&& 3#64 ≠ 0#64 ∧ vecOpen s s.cur = false) ∧
    ∃ (s : State) (d a : BitVec 6), Writable (here s) d ∧ Readable (here s) a ∧ vecOpen s s.cur = false ∧
      ((here s).sval a.toNat) &&& 3#64 ≠ 0#64 :=
  ⟨⟨small, by decide +kernel⟩, ⟨smallWith (fun x => { x with tepc := 2#64 }), by decide +kernel⟩,
   small, 63#6, 1#6, by and_intros <;> decide +kernel, by and_intros <;> decide +kernel, by decide +kernel, by decide +kernel⟩

theorem witness_CsrReadsAndRefusals :
    (∀ n : Nat, n = 0x00 ∨ n = 0x12 ∨ n = 0x120 ∨ n = 0x13F ∨ n = 0x228 - 1 ∨ n = 0x234 →
      ∃ (s : State) (d : BitVec 6) (v : Word), csrValue s s.cur n = some v ∧
        (0x120 ≤ n ∧ n < 0x140 → s.levelY s.cur = true) ∧ Writable (here s) d ∧ (n = 0x12 → vectorBusy s s.cur = false)) ∧
    (∃ (s : State) (c : BitVec 14), vecOpen s s.cur = false ∧ csrValue s s.cur c.toNat = none) ∧
    (∃ (s : State) (c : BitVec 14), vecOpen s s.cur = false ∧ 0x120 ≤ c.toNat ∧ c.toNat < 0x140 ∧ s.levelY s.cur = false) ∧
    (∃ (s : State) (i : Instr) (n : Nat) (d a : BitVec 6) (f : Word → Word → Word), csrOf i = some (n, d, a, f) ∧ vecOpen s s.cur = false ∧
      csrValue s s.cur n = none) ∧
    (∃ (s : State) (i : Instr) (n : Nat) (d a : BitVec 6) (f : Word → Word → Word), csrOf i = some (n, d, a, f) ∧ vecOpen s s.cur = false ∧
      ((0x220 ≤ n ∧ n < 0x228) ∨ n = 0x233 ∨ n = 0x234) ∧ isGaffer s.cur = false) ∧
    ∃ (s : State) (i : Instr) (n : Nat) (d a : BitVec 6) (f : Word → Word → Word), csrOf i = some (n, d, a, f) ∧ vecOpen s s.cur = false ∧
      0x120 ≤ n ∧ n < 0x140 ∧ s.levelY s.cur = false := by
  refine ⟨fun n hn => ⟨gaffer, 63#6, (csrValue gaffer 0 n).getD 0#64, ?_⟩, ⟨small, 0xFFF#14, by decide +kernel⟩,
    ⟨small, 0x13F#14, by decide +kernel⟩, ⟨small, .csrc 1#6 2#6 0xFFF#12, 0xFFF, 1#6, 2#6, _, rfl, by decide +kernel⟩,
    ⟨small, .csrs 1#6 2#6 0x227#12, 0x227, 1#6, 2#6, _, rfl, by decide +kernel⟩,
    small, .csrw 1#6 2#6 0x120#12, 0x120, 1#6, 2#6, _, rfl, by decide +kernel⟩
  rcases hn with rfl | rfl | rfl | rfl | rfl | rfl <;> and_intros <;> decide +kernel

/-- What the clauses of CsrWrites ask of a write of CSR n. -/
def MayWriteCsr (s : State) (i : Instr) (n : Nat) (d a : BitVec 6) (f : Word → Word → Word) (old : Word) : Prop :=
  csrOf i = some (n, d, a, f) ∧ csrValue s s.cur n = some old ∧ (0x120 ≤ n ∧ n < 0x140 → s.levelY s.cur = true) ∧
    ((0x220 ≤ n ∧ n < 0x228) ∨ n = 0x233 ∨ n = 0x234 → isGaffer s.cur = true) ∧ Writable (here s) d ∧ Readable (here s) a ∧
    (n = 0x12 → vectorBusy s s.cur = false)

theorem witness_CsrWrites : ∀ n : Nat, n = 0x10 ∨ n = 0x12 ∨ n = 0x120 ∨ n = 0x200 ∨ n = 0x21F ∨ n = 0x220 ∨ n = 0x227 ∨ n = 0x234 →
    ∃ (s : State) (i : Instr) (d a : BitVec 6) (f : Word → Word → Word) (old : Word),
      MayWriteCsr s i n d a f old ∧ csrFree s n (f old ((here s).sval a.toNat)) := by
  intro n hn
  refine ⟨gaffer, .csrs 63#6 1#6 (BitVec.ofNat 12 n), 63#6, 1#6, fun old v => old ||| v, (csrValue gaffer 0 n).getD 0#64, ?_⟩
  rcases hn with rfl | rfl | rfl | rfl | rfl | rfl | rfl | rfl <;> refine ⟨⟨rfl, ?_⟩, ?_⟩ <;> and_intros <;>
    first | decide +kernel | exact fun h => absurd h (by decide)

/-- A slot that holds a1, with s1 as given, beside one that holds a0 and a7. -/
def claimant (v : Word) : State :=
  (smallWith (fun x => { x.putS 1 v with aown := 2#64 })).setSlot 2 { Slot.init with aown := 0x81#64 }

/-- A matrix command of slot 1 on a1 and ring 0, in its core's queue. -/
def usesA1 : Cmd := { word := ⟨0x100000001#64, 0x1F0#64, 0, 0⟩, sid := 1, gen := 3#8, fc := 0, forked := false }
def inUse (v : Word) : State := (claimant v).setCore 0 { Core.init with mq := [usesA1] }

theorem witness_CsrWrites_engines :
    (∃ (s : State) (i : Instr) (d a : BitVec 6) (f : Word → Word → Word) (old : Word), MayWriteCsr s i 0x18 d a f old ∧
      csrFree s 0x18 (f old ((here s).sval a.toNat)) ∧ f old ((here s).sval a.toNat) = 6#64) ∧
    (∀ k : Nat, k = 0 ∨ k = 7 → ∃ (s : State) (i : Instr) (d a : BitVec 6) (f : Word → Word → Word) (old : Word),
      MayWriteCsr s i 0x18 d a f old ∧ HeldBy s (f old ((here s).sval a.toNat)) k ∧
      (∀ j < k, ¬HeldBy s (f old ((here s).sval a.toNat)) j) ∧ vecOpen s s.cur = false) ∧
    (∃ (s : State) (i : Instr) (d a : BitVec 6) (f : Word → Word → Word) (old : Word),
      MayWriteCsr s i 0x18 d a f old ∧ (∀ j < 8, ¬HeldBy s (f old ((here s).sval a.toNat)) j) ∧
      Drops s (f old ((here s).sval a.toNat)) 1) ∧
    ∃ (s : State) (i : Instr) (d a : BitVec 6) (f : Word → Word → Word) (old : Word),
      MayWriteCsr s i 0x200 d a f old ∧ ringBusy s (home s) 0 = true := by
  refine ⟨⟨claimant 6#64, .csrw 63#6 1#6 0x18#12, 63#6, 1#6, fun _ v => v, 2#64, ⟨rfl, ?_⟩, ?_, by decide +kernel⟩, fun k hk => ?_,
    ⟨inUse 4#64, .csrw 63#6 1#6 0x18#12, 63#6, 1#6, fun _ v => v, 2#64, ⟨rfl, ?_⟩, ?_, ?_⟩,
    inUse 4#64, .csrw 63#6 1#6 0x200#12, 63#6, 1#6, fun _ v => v, 0#64, ⟨rfl, ?_⟩, ?_⟩
  case refine_3 =>
    rcases hk with rfl | rfl
    · refine ⟨claimant 0x83#64, .csrw 63#6 1#6 0x18#12, 63#6, 1#6, fun _ v => v, 2#64, ⟨rfl, ?_⟩, ?_, ?_, ?_⟩ <;> and_intros <;> (try delta HeldBy) <;> decide +kernel
    · refine ⟨claimant 0x82#64, .csrw 63#6 1#6 0x18#12, 63#6, 1#6, fun _ v => v, 2#64, ⟨rfl, ?_⟩, ?_, ?_, ?_⟩ <;> and_intros <;> (try delta HeldBy) <;> decide +kernel
  all_goals and_intros <;> (try delta HeldBy) <;> (try delta Drops) <;> decide +kernel

/-! ### Memory -/

/-- No address of the lower half lies in the commons. -/
theorem not_commons {s : State} {c : Nat} {va : Word} {sp : Space} (h : spaceOf s c va = sp) (hs : ∀ o, sp ≠ .commons o) (o : Nat) :
    spaceOf s c va ≠ .commons o := by
  rw [h]
  exact hs o

theorem witness_MemoryIssue :
    (∃ (s : State) (i : Instr) (r : MemReq), memOf (here s) i = some r ∧ Readable (here s) r.base ∧ (∀ d ∈ r.data, Readable (here s) d) ∧
      (∀ d, r.dst = some d → Writable (here s) d) ∧ Admitted s (r.ea ((here s).sval r.base.toNat)) r.op r.plain ∧
      Unhindered s (r.ea ((here s).sval r.base.toNat)) r.op) ∧
    ∃ (s : State) (i : Instr) (r : MemReq), memOf (here s) i = some r ∧ Readable (here s) r.base ∧ (∀ d ∈ r.data, Readable (here s) d) ∧
      (∀ d, r.dst = some d → Writable (here s) d) ∧ Admitted s (r.ea ((here s).sval r.base.toNat)) r.op r.plain ∧
      Unhindered s (r.ea ((here s).sval r.base.toNat)) r.op ∧ r.op.counts = true ∧ r.data ≠ [] := by
  have hl : ∀ o, spaceOf small (home small) 0x7FF#64 ≠ .commons o :=
    not_commons (show _ = Space.lower by decide +kernel) (fun _ e => nomatch e)
  have hs : ∀ o, spaceOf small (home small) 0xFF00000000000400#64 ≠ .commons o :=
    not_commons (show _ = Space.own 0x400 by decide +kernel) (fun _ e => nomatch e)
  refine ⟨⟨small, .ld 63#6 3#6 0#2 true 0x7FF#11, _, rfl, by and_intros <;> decide +kernel, (fun d h => nomatch h), ?_, ?_, ?_⟩,
    small, .sts 1#6 4#6 false, _, rfl, by and_intros <;> decide +kernel, ?_, (fun d h => nomatch h), ?_, ?_, by decide +kernel,
    by decide +kernel⟩
  · rintro d h
    cases h
    and_intros <;> decide +kernel
  · exact ⟨by decide +kernel, by decide +kernel, by decide +kernel, by decide +kernel, fun o h => absurd h (hl o)⟩
  · exact ⟨by decide +kernel, fun o h => absurd h (hl o), by decide +kernel⟩
  · intro d h
    rw [List.mem_singleton.mp h]
    and_intros <;> decide +kernel
  · exact ⟨by decide +kernel, by decide +kernel, by decide +kernel, by decide +kernel, fun o h => absurd h (hs o)⟩
  · exact ⟨by decide +kernel, fun o h => absurd h (hs o), by decide +kernel⟩

theorem witness_MemoryTraps :
    ∃ (s : State) (i : Instr) (r : MemReq), memOf (here s) i = some r ∧ Readable (here s) r.base ∧ (∀ d ∈ r.data, Readable (here s) d) ∧
      (∀ d, r.dst = some d → Writable (here s) d) ∧ vecOpen s s.cur = false ∧
      ((∃ b : Word, inPriv b = true ∧ canonical b = true ∧ s.levelY s.cur = false) ∧
       (∃ b : Word, inPriv b = false ∧ b.toNat % r.op.align ≠ 0 ∧ canonical b = true ∧ b.getLsbD 56 = true) ∧
       (∃ b : Word, inPriv b = false ∧ b.toNat % r.op.align = 0 ∧ canonical b = false) ∧
       ∃ b : Word, inPriv b = false ∧ b.toNat % r.op.align = 0 ∧ canonical b = true ∧
         r.op.allowedIn (spaceOf s (home s) b) = false) :=
  ⟨small, .ld 63#6 3#6 3#2 true 0#11, _, rfl, by and_intros <;> decide +kernel, (fun d h => nomatch h),
    fun d h => by cases h; and_intros <;> decide +kernel, by decide +kernel,
    ⟨0xFF03000000000000#64, by decide +kernel⟩, ⟨0xFF00000000000001#64, by decide +kernel⟩, ⟨0x0200000000000000#64, by decide +kernel⟩,
    0xFF00000000200000#64, by decide +kernel⟩

theorem admitted_lower {s : State} {va : Word} {op : MemOp} (hc : canonical va = true) (hp : inPriv va = false)
    (ha : va.toNat % op.align = 0) (hs : spaceOf s (home s) va = .lower) (ho : op.allowedIn .lower = true) (b : Bool) :
    Admitted s va op b :=
  ⟨hc, fun h => absurd (h.symm.trans hp) (by decide), .inl ha, hs ▸ ho, fun o h => absurd (hs.symm.trans h) (fun e => nomatch e)⟩

theorem unhindered_lower {s : State} {va : Word} {op : MemOp} (hu : (here s).unack ≠ 0xFFFF#64) (hs : spaceOf s (home s) va = .lower)
    (hv : vecPending s s.cur va op.size = false) : Unhindered s va op :=
  ⟨fun _ => hu, fun _ h => absurd (hs.symm.trans h) (fun e => nomatch e), hv⟩

/-- Slot 1 with block addresses: s1 a commons run, s2 a local run, s3 a count of 2. -/
def blocky : State :=
  smallWith (fun x => { x with sreg := [(1, 0xFF0200000007FFC0#64), (2, 0xFF000000001FFF80#64), (3, 2#64)] })

theorem witness_LineAndBlockIssue :
    (∃ (s : State) (d : BitVec 5) (a : BitVec 6), Readable (here s) a ∧ d.toNat < (here s).nv ∧ (here s).vP d.toNat = false ∧
      vecReader s s.cur [d.toNat] = false ∧ Admitted s ((here s).sval a.toNat) .lineRd false ∧
      Unhindered s ((here s).sval a.toNat) .lineRd) ∧
    (∃ (s : State) (d a b : BitVec 6) (n : BitVec 2), b.toNat % 2 = 0 ∧ Readable (here s) a ∧ Writable (here s) d ∧
      b.toNat + 1 < (here s).nv ∧ (∀ k, k = b.toNat ∨ k = b.toNat + 1 → (here s).vF k = true ∧ (here s).verr.getLsbD k = false) ∧
      let op := MemOp.lineCst (n.toNat + 1) ((here s).vval b.toNat) ((here s).vval (b.toNat + 1))
      Admitted s ((here s).sval a.toNat) op false ∧ Unhindered s ((here s).sval a.toNat) op) ∧
    ∀ wr t0 : Bool, ∃ (s : State) (d a b : BitVec 6), d ≠ 0#6 ∧ Writable (here s) d ∧ Readable (here s) d ∧ Readable (here s) a ∧
      Readable (here s) b ∧ (here s).sval d.toNat ≠ 0#64 ∧
      BlockRuns s ((here s).sval a.toNat) ((here s).sval b.toNat) ((here s).sval d.toNat).toNat ∧
      (wr = true → (here s).unack ≠ 0xFFFF#64) ∧ (s.core (coreOf s.cur)).blocks.length < 4 ∧
      (t0 = true → ((here s).sval d.toNat).toNat ≤ 64 * groupCount s (home s)) := by
  refine ⟨⟨small, 31#5, 3#6, by and_intros <;> decide +kernel, by decide +kernel, by decide +kernel, by decide +kernel,
      admitted_lower (by decide +kernel) (by decide +kernel) (by decide +kernel) (by decide +kernel) (by decide +kernel) _,
      unhindered_lower (by decide +kernel) (by decide +kernel) (by decide +kernel)⟩,
    ⟨small, 63#6, 3#6, 30#6, 3#2, by decide +kernel, by and_intros <;> decide +kernel, by and_intros <;> decide +kernel,
      by decide +kernel, ?_,
      admitted_lower (by decide +kernel) (by decide +kernel) (by decide +kernel) (by decide +kernel) (by decide +kernel) _,
      unhindered_lower (by decide +kernel) (by decide +kernel) (by decide +kernel)⟩,
    fun wr t0 => ⟨blocky, 3#6, 1#6, 2#6, ?_⟩⟩
  · rintro k (rfl | rfl) <;> decide +kernel
  · cases wr <;> cases t0 <;> and_intros <;> decide +kernel

theorem leadsTo_small (rd wr : Bool) (h : (xlateCell small 0 0x800#64 rd wr).1 = .ok 0x800 0 0) :
    LeadsTo small ((here small).sval 3) rd wr 0x800 0 0 (xlateCell small 0 0x800#64 rd wr).2 :=
  pair_of h

/-- A store of slot 1 to address 0x800 that is still at the translation unit. -/
def storing : State :=
  { small with flight := [{ newAccess 1 (.slot 1 3#8 0x1000#64 none false [] true) (.store 8 1) 0x800#64 false false 0 with stage := .walk 0 }], nextId := 1 }

theorem witness_FencesAndCaches :
    (∃ (s : State) (k : BitVec 2) (sc : BitVec 3), ¬((sc = 0#3 ∧ (vectorOpen s s.cur = true ∨ scalarPending s s.cur = true)) ∨
      (sc ≠ 0#3 ∧ (readsOpen s s.cur = true ∨
        (k.getLsbD 1 = true ∧ (writesOpen s s.cur = true ∨ 4 ≤ sc.toNat ∧ forwardsOpen s (dieOf (home s)) = true)))))) ∧
    (∃ (s : State) (k : BitVec 2) (sc : BitVec 3), sc ≠ 0#3 ∧ k.getLsbD 1 = true ∧ 4 ≤ sc.toNat ∧
      forwardsOpen s (dieOf (home s)) = true) ∧
    (∃ (s : State) (a : BitVec 6), Readable (here s) a ∧ LineQuiet s ((here s).sval a.toNat) ∧
      ∀ f ∈ s.forwards, f.die ≠ dieOf (home s)) ∧
    (∃ (s u t : State) (a : BitVec 6) (pa key attr : Nat), Readable (here s) a ∧
      LeadsTo s ((here s).sval a.toNat) false false pa key attr u ∧ exec (.cinv a) s = .next t) ∧
    (∃ (s : State) (a : BitVec 6), Readable (here s) a ∧ ¬LineQuiet s ((here s).sval a.toNat)) ∧
    (∃ (s u t : State) (a : BitVec 6) (pa key attr : Nat), Readable (here s) a ∧ LineQuiet s ((here s).sval a.toNat) ∧
      LeadsTo s ((here s).sval a.toNat) false false pa key attr u ∧ exec (.cwb a) s = .next t) ∧
    (∃ (s u t : State) (a : BitVec 6) (pa key : Nat), Readable (here s) a ∧
      LeadsTo s ((here s).sval a.toNat) false false pa key 0 u ∧ physErr u (pa / 128 * 128) 128 = false ∧
      CanMiss u (dieOf (home s)) (pa / 128) ∧ exec (.prefW a) s = .next t) ∧
    ∃ (s u t : State) (a : BitVec 6) (pa key : Nat), Readable (here s) a ∧
      LeadsTo s ((here s).sval a.toNat) true false pa key 0 u ∧ physErr u (pa / 128 * 128) 128 = false ∧
      CanMiss u (dieOf (home s)) (pa / 128) ∧ exec (.pref a) s = .next t := by
  have hn : xlateCell small 0 0x800#64 false false = (.ok 0x800 0 0, (xlateCell small 0 0x800#64 false false).2) :=
    pair_of (by decide +kernel)
  have hr : xlateCell small 0 0x800#64 true false = (.ok 0x800 0 0, (xlateCell small 0 0x800#64 true false).2) :=
    pair_of (by decide +kernel)
  have rd : Readable (here small) 3#6 := by and_intros <;> decide +kernel
  have quiet : LineQuiet small ((here small).sval 3) := fun _ _ => by and_intros <;> decide +kernel
  refine ⟨⟨small, 3#2, 7#3, by decide +kernel⟩,
    ⟨{ small with forwards := [{ die := 0, home := 1, pa := 0, n := 1, v := 1, key := 0, sid := some 1 }] }, 2#2, 4#3, by decide +kernel⟩,
    ⟨small, 3#6, rd, quiet, by decide +kernel⟩, ?_, ⟨storing, 3#6, by and_intros <;> decide +kernel, fun h => ?_⟩, ?_, ?_, ?_⟩
  · obtain ⟨t, h⟩ := next_of (o := exec (.cinv 3#6) small) (by decide +kernel)
    exact ⟨small, _, t, 3#6, _, _, _, rd, hn, h⟩
  · exact absurd (h (by decide +kernel) (by decide +kernel)).1 (by decide +kernel)
  · obtain ⟨t, h⟩ := next_of (o := exec (.cwb 3#6) small) (by decide +kernel)
    exact ⟨small, _, t, 3#6, _, _, _, rd, quiet, hn, h⟩
  · obtain ⟨t, h⟩ := next_of (o := exec (.prefW 3#6) small) (by decide +kernel)
    exact ⟨small, _, t, 3#6, _, _, rd, hn, by decide +kernel, .inl (by decide +kernel), h⟩
  · obtain ⟨t, h⟩ := next_of (o := exec (.pref 3#6) small) (by decide +kernel)
    exact ⟨small, _, t, 3#6, _, _, rd, hr, by decide +kernel, .inl (by decide +kernel), h⟩

/-! ### Messages and threads -/

/-- A message from slot 0 to register r of slot 1 of core 0 of cell 0. -/
def msgTo (r : Nat) : Message :=
  { id := 0, sid := 0, gen := 3#8, pc := 0x1000#64, kind := 0, target := BitVec.ofNat 64 (0xC00040 + r), tcell := 0, value := 5#4096
    cons := [], poison := none, answer := none }

def withMsg (m : Message) (f : Slot → Slot) : State := { smallWith f with messages := [m], nextId := 1 }

theorem witness_Messages :
    (∃ (s : State) (a b : BitVec 6) (c : Nat), Readable (here s) a ∧ Readable (here s) b ∧ Names s ((here s).sval a.toNat) 64 c ∧
      (here s).unack ≠ 0xFFFF#64) ∧
    (∃ (s : State) (a : BitVec 6) (b : BitVec 5) (n : Bool) (c : Nat), Readable (here s) a ∧ b.toNat < (here s).nv ∧
      (here s).vF b.toNat = true ∧ (here s).verr.getLsbD b.toNat = false ∧ (n = true → vecReader s s.cur [b.toNat] = false) ∧
      Names s ((here s).sval a.toNat) 32 c ∧ (here s).unack ≠ 0xFFFF#64) ∧
    (∃ (s : State) (a : BitVec 6) (b : BitVec 3) (n : Bool) (c : Nat), Readable (here s) a ∧ (here s).pF b.toNat = true ∧
      (b = 0#3 ∨ (here s).perr.getLsbD b.toNat = false) ∧ (n = true → predReader s s.cur b.toNat = false) ∧
      Names s ((here s).sval a.toNat) 8 c ∧ (here s).unack ≠ 0xFFFF#64) ∧
    (∃ (s : State) (m : Message) (k : Nat), JudgedAs s m k ∧ m.kind = 0 ∧ (s.slot k).ns ≤ bits m.target 5 0) ∧
    (∃ (s : State) (m : Message) (k : Nat), JudgedAs s m k ∧ m.kind = 0 ∧ bits m.target 5 0 < (s.slot k).ns ∧ bits m.target 5 0 ≠ 0 ∧
      (s.slot k).sF (bits m.target 5 0) = true) ∧
    (∃ (s : State) (m : Message) (k : Nat), JudgedAs s m k ∧ m.kind = 0 ∧ m.poison ≠ none ∧ bits m.target 5 0 < (s.slot k).ns ∧
      bits m.target 5 0 ≠ 0 ∧ (s.slot k).sF (bits m.target 5 0) = false ∧ (s.slot k).sP (bits m.target 5 0) = false) ∧
    (∃ (s : State) (m : Message) (k : Nat), JudgedAs s m k ∧ m.kind = 0 ∧ m.poison ≠ none ∧ bits m.target 5 0 = 0 ∧ 0 < (s.slot k).ns) ∧
    (∃ (s : State) (m : Message) (k : Nat), JudgedAs s m k ∧ m.kind = 0 ∧ m.poison = none ∧ bits m.target 5 0 < (s.slot k).ns ∧
      bits m.target 5 0 ≠ 0 ∧ (s.slot k).sF (bits m.target 5 0) = false ∧ (s.slot k).sP (bits m.target 5 0) = false) ∧
    (∃ (s : State) (m : Message) (k : Nat), JudgedAs s m k ∧ m.kind = 0 ∧ m.poison = none ∧ bits m.target 5 0 = 0 ∧ 0 < (s.slot k).ns) ∧
    (∀ full poison : Bool, ∃ (s : State) (m : Message) (k : Nat), JudgedAs s m k ∧ m.kind = 1 ∧ m.poison.isSome = poison ∧
      bits m.target 5 0 < (s.slot k).nv ∧ bits m.target 5 0 = 31 ∧ (s.slot k).vF 31 = full ∧ (s.slot k).vP 31 = false) ∧
    (∃ (s : State) (m : Message) (k : Nat), JudgedAs s m k ∧ m.kind = 1 ∧ (s.slot k).nv ≤ bits m.target 5 0) ∧
    (∀ full poison : Bool, ∃ (s : State) (m : Message) (k : Nat), JudgedAs s m k ∧ m.kind = 2 ∧ m.poison.isSome = poison ∧
      bits m.target 5 0 = 7 ∧ (s.slot k).pF 7 = full ∧ (s.slot k).pP 7 = false) ∧
    (∀ r : Nat, r = 0 ∨ r = 8 → ∃ (s : State) (m : Message) (k : Nat), JudgedAs s m k ∧ m.kind = 2 ∧ m.poison = none ∧
      bits m.target 5 0 = r) ∧
    (∃ (s : State) (m : Message), s.messages.find? (fun q => q.id = m.id && q.answer.isNone) = some m ∧
      clockStop (s.cell m.tcell) = none ∧ (s.fabricOf (dieOf m.tcell)).step = none ∧
      resolveSlot s (16 * (4 * m.tcell + bits m.target 11 10) + bits m.target 9 6) (m.target.extractLsb' 22 8) = none) ∧
    (∃ (s : State) (m : Message), Returning s m .accepted) ∧
    (∃ (s : State) (m : Message), Returning s m .nacked ∧ (s.slot m.sid).status = .live) ∧
    (∃ (s : State) (m : Message) (r : Nat), Returning s m .broken ∧ m.poison = some r ∧ (s.slot m.sid).status = .live) ∧
    (∃ (s : State) (m : Message), Returning s m .refused ∧ (s.slot m.sid).status = .live ∧ (s.slot m.sid).parklim.toNat % 2 ^ 32 ≠ 0 ∧
      (s.slot m.sid).tries + 1 = (s.slot m.sid).parklim.toNat % 2 ^ 32) ∧
    ∃ (s : State) (m : Message), Returning s m .refused ∧ (s.slot m.sid).status = .live ∧
      (s.slot m.sid).tries + 1 ≠ (s.slot m.sid).parklim.toNat % 2 ^ 32 := by
  let f : Slot → Slot := fun x => { x with sreg := [(1, 0xC01040#64)] }
  refine ⟨⟨smallWith f, 1#6, 1#6, 1, ?_⟩, ⟨smallWith f, 1#6, 31#5, true, 1, ?_⟩, ⟨smallWith f, 1#6, 7#3, true, 1, ?_⟩,
    ⟨withMsg (msgTo 4) (fun x => { x with ns := 4 }), msgTo 4, 1, ?_⟩, ⟨withMsg (msgTo 63) id, msgTo 63, 1, ?_⟩,
    ⟨withMsg { msgTo 63 with poison := some 5 } (fun x => { x with sfull := 0#64 }), { msgTo 63 with poison := some 5 }, 1, ?_⟩,
    ⟨withMsg { msgTo 0 with poison := some 5 } id, { msgTo 0 with poison := some 5 }, 1, ?_⟩,
    ⟨withMsg (msgTo 63) (fun x => { x with sfull := 0#64 }), msgTo 63, 1, ?_⟩, ⟨withMsg (msgTo 0) id, msgTo 0, 1, ?_⟩,
    fun full poison => ⟨withMsg { msgTo 31 with kind := 1, poison := if poison then some 5 else none }
      (fun x => { x with vfull := if full then x.vfull else 0#32 }),
      { msgTo 31 with kind := 1, poison := if poison then some 5 else none }, 1, ?_⟩,
    ⟨withMsg { msgTo 31 with kind := 1 } (fun x => { x with nv := 31 }), { msgTo 31 with kind := 1 }, 1, ?_⟩,
    fun full poison => ⟨withMsg { msgTo 7 with kind := 2, poison := if poison then some 5 else none }
      (fun x => { x with pfull := if full then x.pfull else 0#8 }),
      { msgTo 7 with kind := 2, poison := if poison then some 5 else none }, 1, ?_⟩,
    fun r h => ⟨withMsg { msgTo r with kind := 2 } id, { msgTo r with kind := 2 }, 1, ?_⟩,
    ⟨withMsg (msgTo 0) (fun x => { x with gen := 4#8 }), msgTo 0, ?_⟩,
    ⟨withMsg { msgTo 1 with answer := some .accepted } id, { msgTo 1 with answer := some .accepted }, ?_⟩,
    ⟨withMsg { msgTo 1 with answer := some .nacked } id, { msgTo 1 with answer := some .nacked }, ?_⟩,
    ⟨withMsg { msgTo 1 with poison := some 5, answer := some .broken } id, { msgTo 1 with poison := some 5, answer := some .broken }, 5, ?_⟩,
    ⟨(withMsg { msgTo 1 with answer := some .refused } id).modSlot 0 (fun x => { x with tries := 4095 }),
      { msgTo 1 with answer := some .refused }, ?_⟩,
    withMsg { msgTo 1 with answer := some .refused } id, { msgTo 1 with answer := some .refused }, ?_⟩
  case refine_10 => cases full <;> cases poison <;> and_intros <;> decide +kernel
  case refine_12 => cases full <;> cases poison <;> and_intros <;> decide +kernel
  case refine_13 => rcases h with rfl | rfl <;> and_intros <;> decide +kernel
  all_goals and_intros <;> decide +kernel

theorem witness_TakeAndReap :
    (∃ (s : State) (d : BitVec 6), isGaffer s.cur = true ∧ Writable (here s) d ∧ ∀ p < 4, getAt [] (s.cell (home s)).inbox p = []) ∧
    (∀ p < 4, ∃ (s : State) (d : BitVec 6) (e : InboxEntry) (rest : List InboxEntry), isGaffer s.cur = true ∧ Writable (here s) d ∧
      getAt [] (s.cell (home s)).inbox p = e :: rest ∧ ∀ q < 4, p < q → getAt [] (s.cell (home s)).inbox q = []) ∧
    (∃ (s : State) (d a : BitVec 6), isGaffer s.cur = true ∧ Writable (here s) d ∧ Readable (here s) a ∧
      ((here s).sval a.toNat).toNat < 16 ∧ ∀ k < 16, (s.slot (s.cur + k)).hasFinal = false) ∧
    ∀ k : Nat, k = 1 ∨ k = 15 → ∃ (s : State) (d a : BitVec 6), isGaffer s.cur = true ∧ Writable (here s) d ∧ Readable (here s) a ∧
      ((here s).sval a.toNat).toNat = 0 ∧ (s.slot (s.cur + k)).hasFinal = true ∧ ∀ j < k, 1 ≤ j → (s.slot (s.cur + j)).hasFinal = false := by
  let e : InboxEntry := { record := 0x4000#64, entered := 9#64 }
  refine ⟨⟨gaffer, 63#6, by decide +kernel, by and_intros <;> decide +kernel, by decide +kernel⟩,
    fun p hp => ⟨gaffer.modCell 0 (fun c => { c with inbox := setAt c.inbox p [e, e] }), 63#6, e, [e], ?_⟩,
    ⟨gaffer, 63#6, 1#6, by decide +kernel, by and_intros <;> decide +kernel, by and_intros <;> decide +kernel, by decide +kernel,
      by decide +kernel⟩,
    fun k hk => ⟨{ gaffer with slots := [(0, slot0), (k, { slot0 with status := .ended .failed 5#32 })] }, 63#6, 5#6, ?_⟩⟩
  · interval_cases p <;> and_intros <;> decide +kernel
  · rcases hk with rfl | rfl <;> and_intros <;> decide +kernel

/-- A record at address 0x800: PC 0x40, every other field 0. -/
def recorded : State := { gaffer with slots := [(0, slot0)], phys := [(0x800, 0x40#8)] }

theorem witness_StartResults : ∀ room : Bool, ∃ (s : State) (a b : BitVec 6) (v k : Nat), isGaffer s.cur = true ∧ Readable (here s) a ∧
    Readable (here s) b ∧ k = ((here s).sval a.toNat).toNat ∧ 1 ≤ k ∧ k < 16 ∧ (s.slot (s.cur + k)).status = .empty ∧
    RecordAt s ((here s).sval b.toNat) v ∧ RecordSound v ∧ rec32 v 14 % 4 < 2 ∧
    (room = true ↔ aheadFor (s.cell (home s)) s.cur = false ∧ vectorUsed s (home s) + recV v ≤ 256 ∧
      scalarUsed s (coreOf s.cur) + recS v ≤ 512) := by
  have key : ∀ s : State, (xlateCell s 0 0x800#64 true false).1 = .ok 0x800 0 0 →
      physErr (xlateCell s 0 0x800#64 true false).2 0x800 64 = false →
      (engineRead (xlateCell s 0 0x800#64 true false).2 0 0x800 64 0 0).1 = 0x40 → home s = 0 → BytesQuiet s 0x800#64 64 →
      RecordAt s 0x800#64 0x40 := by
    intro s h p e hh quiet
    refine ⟨by decide, by decide, quiet, 0x800, 0, 0, (xlateCell s 0 0x800#64 true false).2, ?_, p, ?_⟩
    · rw [LeadsTo, hh]
      exact pair_of h
    · rw [hh]
      exact e.symm
  intro room
  cases room
  · refine ⟨recorded.modCell 0 (fun c => { c with startWait := [{ gaffer := 16, vec := true }] }), 1#6, 3#6, 0x40, 7, ?_, ?_, ?_, ?_,
      ?_, ?_, ?_, key _ ?_ ?_ ?_ ?_ ?_, ?_, ?_, ?_⟩ <;> (try and_intros) <;> decide +kernel
  · refine ⟨recorded, 1#6, 3#6, 0x40, 7, ?_, ?_, ?_, ?_, ?_, ?_, ?_, key _ ?_ ?_ ?_ ?_ ?_, ?_, ?_, ?_⟩ <;>
      (try and_intros) <;> decide +kernel

theorem witness_ThreadRequests :
    (∀ l : Bool, ∃ (s : State) (a b : BitVec 6), isGaffer s.cur = true ∧ Readable (here s) a ∧ Readable (here s) b ∧
      1 ≤ ((here s).sval a.toNat).toNat ∧ ((here s).sval a.toNat).toNat < 16 ∧ ((here s).sval b.toNat).toNat < 256 ∧
      (s.slot (s.cur + ((here s).sval a.toNat).toNat)).isLive = l ∧
      (s.slot (s.cur + ((here s).sval a.toNat).toNat)).gen = ((here s).sval b.toNat).setWidth 8) ∧
    (∃ (s : State) (a : BitVec 6), isGaffer s.cur = false ∧ Readable (here s) a) ∧
    ∃ (s : State) (a : BitVec 6) (c : Nat), isGaffer s.cur = false ∧ Readable (here s) a ∧ Names s ((here s).sval a.toNat) 1 c ∧
      bits ((here s).sval a.toNat) 63 22 = 0 ∧ bits ((here s).sval a.toNat) 9 6 ≠ 0 ∧
      4 * c + bits ((here s).sval a.toNat) 11 10 ≠ coreOf s.cur := by
  refine ⟨fun l => ?_, ⟨small, 63#6, by decide +kernel, by and_intros <;> decide +kernel⟩,
    smallWith (fun x => { x with sreg := [(1, 0x1C40#64)] }), 1#6, 1, by and_intros <;> decide +kernel⟩
  cases l
  · exact ⟨{ gaffer with slots := [(0, { slot0 with sreg := [(1, 15#64)] })] }, 1#6, 2#6, by and_intros <;> decide +kernel⟩
  · exact ⟨{ gaffer with slots := [(0, { slot0 with sreg := [(1, 1#64), (2, 3#64)] }), (1, slot0)] }, 1#6, 2#6,
      by and_intros <;> decide +kernel⟩

/-! ### Engines, barriers, directory -/

/-- Slot 1 with accumulator 0 claimed and a command in s4 to s7. -/
def enqueuing (w : CmdWord) : State :=
  smallWith (fun x => { x with aown := 1#64, sreg := [(4, w.w0), (5, w.w1), (6, w.w2), (7, w.w3)] })

theorem witness_EngineQueues : ∀ q : Nat, q < 2 → ∀ tok : Bool, ∃ (s : State) (a : BitVec 6), a.toNat % 4 = 0 ∧
    (∀ k < 4, Readable (here s) (a + BitVec.ofNat 6 k)) ∧ Cmd.queueOf (wordFrom (here s) a.toNat) = some q ∧
    Cmd.word0Ok (wordFrom (here s) a.toNat) = true ∧ TokenFree s (wordFrom (here s) a.toNat) ∧
    (q = 0 → (here s).aown.getLsbD (Cmd.acc (wordFrom (here s) a.toNat)) = true) ∧
    released s s.cur s.nextId (if q = 0 then 2 else 2 + Cmd.scope (wordFrom (here s) a.toNat)) = true ∧
    (q = 0 → (s.core (coreOf s.cur)).mq.length < 16) ∧ (q = 1 → (s.core (coreOf s.cur)).cq.length < 16) ∧
    (tok = true ↔ Cmd.noTok (wordFrom (here s) a.toNat) = false ∧ Cmd.treg (wordFrom (here s) a.toNat) ≠ 0) := by
  intro q hq tok
  cases tok
  · refine ⟨enqueuing ⟨if q = 0 then 0x100000000A#64 else 0x1000000010#64, 0, 0, 0⟩, 4#6, ?_⟩
    interval_cases q <;> refine ⟨?_, fun k hk => by interval_cases k <;> and_intros <;> decide +kernel, ?_, ?_, .inl ?_, ?_, ?_, ?_, ?_, ?_⟩ <;>
      decide +kernel
  · refine ⟨enqueuing ⟨if q = 0 then 0x30FC400000A#64 else 0x30FC4000010#64, 0, 0, 0⟩, 4#6, ?_⟩
    interval_cases q <;> refine ⟨?_, fun k hk => by interval_cases k <;> and_intros <;> decide +kernel, ?_, ?_, .inr ?_, ?_, ?_, ?_, ?_, ?_⟩ <;>
      decide +kernel

theorem witness_ForkAndRendezvous :
    (∃ (s : State) (d a b : BitVec 6), Readable (here s) d ∧ Readable (here s) a ∧ Readable (here s) b ∧ (here s).fork = none ∧
      released s s.cur s.nextId 4 = true ∧ (d ≠ 0#6 ∧ ((here s).sval d.toNat).toNat % 32 = 0 ∧ (s.core (coreOf s.cur)).seqM = none) ∧
      (a ≠ 0#6 ∧ ((here s).sval a.toNat).toNat % 32 = 0 ∧ (s.core (coreOf s.cur)).seqC = none) ∧
      (b ≠ 0#6 ∧ ((here s).sval b.toNat).toNat % 4 = 0 ∧ (s.core (coreOf s.cur)).seqV = none)) ∧
    (∃ (s : State) (d : BitVec 6), Writable (here s) d ∧ (here s).fork = none) ∧
    (∃ (s : State) (d : BitVec 6) (f : ForkRec), Writable (here s) d ∧ (here s).fork = some f ∧ f.mst ≠ 15 ∧ f.cst ≠ 15 ∧ f.vst ≠ 15) ∧
    ∃ (s : State) (d : BitVec 6) (f : ForkRec), Writable (here s) d ∧ (here s).fork = some f ∧ f.vst = 15 := by
  let f : ForkRec := { mst := 1, cst := 14, vst := 0, mfail := 0, cfail := 7, vfail := 0, cause := 0, sigs := [0, 0, 0, 0] }
  refine ⟨⟨small, 3#6, 3#6, 3#6, ?_⟩, ⟨small, 63#6, ?_⟩, ⟨smallWith (fun x => { x with fork := some f }), 63#6, f, ?_⟩,
    smallWith (fun x => { x with fork := some { f with vst := 15 } }), 63#6, { f with vst := 15 }, ?_⟩ <;> and_intros <;> decide +kernel

theorem accFree_of {s : State} {c : BitVec 3} (h : (here s).aown.getLsbD c.toNat = true) (hq : (s.core (coreOf s.cur)).mq = [])
    (hl : (accAt s c).lock = false) (hf : forkNames s (coreOf s.cur) c.toNat = false) : AccFree s c :=
  ⟨h, (fun e he => by rw [hq] at he; cases he), hl, hf⟩

theorem witness_AccumulatorRows :
    (∃ (s : State) (d : BitVec 5) (c k : BitVec 3), d.toNat < (here s).nv ∧ (here s).vP d.toNat = false ∧
      vecReader s s.cur [d.toNat] = false ∧ AccFree s c ∧ (accAt s c).err.getLsbD k.toNat = false) ∧
    (∃ (s : State) (d : BitVec 5) (c : BitVec 3), d.toNat < (here s).nv ∧ (here s).vF d.toNat = true ∧
      (here s).verr.getLsbD d.toNat = false ∧ AccFree s c) ∧
    ∃ (s : State) (d : BitVec 5) (c : BitVec 3), d.toNat < (here s).nv ∧ (here s).aown.getLsbD c.toNat = false ∧
      vecOpen s s.cur = false := by
  let s := smallWith (fun x => { x with aown := 0x80#64 })
  have h : AccFree s 7#3 := accFree_of (by decide +kernel) (by decide +kernel) (by decide +kernel) (by decide +kernel)
  exact ⟨⟨s, 31#5, 7#3, 7#3, by decide +kernel, by decide +kernel, by decide +kernel, h, by decide +kernel⟩,
    ⟨s, 31#5, 7#3, by decide +kernel, by decide +kernel, by decide +kernel, h⟩, small, 31#5, 7#3, by decide +kernel⟩

/-- Barrier 63 of partition 0 with 2 members at its last phase, 0xFFFF; s1 its word with a phase. -/
def barred (phase m count : Nat) (release : Option Nat) : State :=
  (({ smallWith (fun x => { x with sreg := [(1, BitVec.ofNat 64 (63 + 65536 * phase)), (2, 0xFFFF#64)] }) with
      arrivals := [{ part := 0, bar := 63, src := none, source := 0 }], gts := 0xFFFF#64 }).setBarrier 0 63
    { m := m, phase := 0xFFFF, count := count, stamp := 5, release := release, next := 1, nextStamp := 9, source := 0, nextSource := 0 }).modCell 0
      (fun c => { c with bars := [(63, 0xFFFF)] })

theorem witness_Barriers :
    (∃ (s : State) (a b : BitVec 6), Readable (here s) a ∧ Readable (here s) b ∧ BarWord ((here s).sval a.toNat) ∧
      phaseOf ((here s).sval a.toNat) = 0 ∧ ((here s).sval b.toNat).toNat < 65536 ∧
      (s.barrier (part s) (barOf ((here s).sval a.toNat))).count = 0 ∧
      (s.barrier (part s) (barOf ((here s).sval a.toNat))).release = none) ∧
    (∃ (s : State) (a : BitVec 6), Readable (here s) a ∧ BarWord ((here s).sval a.toNat) ∧
      (s.barrier (part s) (barOf ((here s).sval a.toNat))).m ≠ 0 ∧
      phaseOf ((here s).sval a.toNat) = FMap.get 0 (s.cell (home s)).bars (barOf ((here s).sval a.toNat))) ∧
    (∃ (s : State) (a : BitVec 6), Readable (here s) a ∧ BarWord ((here s).sval a.toNat) ∧
      (s.barrier (part s) (barOf ((here s).sval a.toNat))).m ≠ 0 ∧ Passed s (home s) ((here s).sval a.toNat)) ∧
    (∃ (s : State) (a : BitVec 6), Readable (here s) a ∧ BarWord ((here s).sval a.toNat) ∧
      (s.barrier (part s) (barOf ((here s).sval a.toNat))).m ≠ 0 ∧
      ((FMap.get 0 (s.cell (home s)).bars (barOf ((here s).sval a.toNat)) + 65536 - phaseOf ((here s).sval a.toNat)) % 65536 = 32768)) ∧
    (∀ last : Bool, ∃ (s : State) (p b : Nat) (x : Arrival), s.arrivals.find? (fun a => a.part = p && a.bar = b && arrivalReady s a) = some x ∧
      (s.barrier p b).m ≠ 0 ∧ (s.barrier p b).release = none ∧ (last = true ↔ (s.barrier p b).m ≤ (s.barrier p b).count + 1)) ∧
    ∃ (s : State) (p b r : Nat), (s.barrier p b).release = some r ∧ r ≤ s.gts.toNat := by
  refine ⟨⟨barred 0 2 0 none, 1#6, 2#6, ?_⟩, ⟨barred 0xFFFF 2 0 none, 1#6, ?_⟩, ⟨barred 0x8000 2 0 none, 1#6, ?_⟩,
    ⟨barred 0x7FFF 2 0 none, 1#6, ?_⟩, fun last => ?_, ⟨barred 0 2 2 (some 0xFFFF), 0, 63, 0xFFFF, ?_⟩⟩
  any_goals and_intros <;> decide +kernel
  cases last
  · exact ⟨barred 0 2 0 none, 0, 63, { part := 0, bar := 63, src := none, source := 0 }, by and_intros <;> decide +kernel⟩
  · exact ⟨barred 0 2 1 none, 0, 63, { part := 0, bar := 63, src := none, source := 0 }, by and_intros <;> decide +kernel⟩

/-- Slot 1 with a directory address in s1 and a number in s2. -/
def tiled (v w : Word) : State := smallWith (fun x => { x with sreg := [(1, v), (2, w)] })

/-- s1 holds a pair word that flips. -/
def PubWord (s : State) : Prop :=
  Readable (here s) 1#6 ∧ bits ((here s).sval 1) 9 0 = 0 ∧ bits ((here s).sval 1) 62 32 = 0 ∧
    bits ((here s).sval 1) 20 10 + 2 * (bits ((here s).sval 1) 31 21 + 1) ≤ 2048 ∧ ((here s).sval 1).getLsbD 63 = false
/-- It clashes with the cell's entries. -/
def PubClash (s : State) : Prop :=
  let es := (s.cell (home s)).pairs
  let f := bits ((here s).sval 1) 20 10
  let k := bits ((here s).sval 1) 31 21 + 1
  let own := es.find? (fun e => decide (e.first = f))
  (∃ e, own = some e ∧ e.n ≠ k) ∨ (∃ e ∈ es, e.first ≠ f ∧ e.first < f + 2 * k ∧ f < e.first + 2 * e.n) ∨
    (own = none ∧ 8 ≤ es.length)

theorem witness_TileDirectory :
    (∃ (s : State) (d a : BitVec 6), Writable (here s) d ∧ Readable (here s) a ∧ OwnAddr ((here s).sval a.toNat) ∧
      (Loc.entry (s.cell (home s)) (frameAt s ((here s).sval a.toNat))).err = false) ∧
    (∃ (s : State) (a b : BitVec 6), Readable (here s) a ∧ Readable (here s) b ∧ OwnAddr ((here s).sval a.toNat) ∧
      ((here s).sval b.toNat).toNat < 31 ∧ (elemOf ((here s).sval b.toNat).toNat).isSome = true ∧
      Quiet s (bits ((here s).sval a.toNat) 47 0 / 1024) 1 ∧
      localErr s (home s) (bits ((here s).sval a.toNat) 47 0 / 1024 * 1024) 1024 = false) ∧
    (∃ (s : State) (a b : BitVec 6), Readable (here s) a ∧ Readable (here s) b ∧ OwnAddr ((here s).sval a.toNat) ∧
      bits ((here s).sval a.toNat) 47 0 % 1024 = 0 ∧ ((here s).sval b.toNat).toNat < 4096 ∧
      bits ((here s).sval a.toNat) 47 0 / 1024 + ((here s).sval b.toNat).toNat ≤ 2048 ∧
      Quiet s (bits ((here s).sval a.toNat) 47 0 / 1024) ((here s).sval b.toNat).toNat) ∧
    (∃ (s : State) (a : BitVec 6), Readable (here s) a ∧ bits ((here s).sval a.toNat) 9 0 = 0 ∧ bits ((here s).sval a.toNat) 62 32 = 0 ∧
      bits ((here s).sval a.toNat) 20 10 + 2 * (bits ((here s).sval a.toNat) 31 21 + 1) ≤ 2048 ∧
      ((here s).sval a.toNat).getLsbD 63 = true) ∧
    (∀ n : Nat, n = 1 ∨ n = 2 → ∃ s : State, PubWord s ∧ ¬PubClash s ∧ released s s.cur s.nextId 3 = true ∧
      Quiet s (bits ((here s).sval 1) 20 10) (2 * (bits ((here s).sval 1) 31 21 + 1)) ∧ (s.cell (home s)).pairs.length = n ∧
      (n = 2 ↔ ((s.cell (home s)).pairs.find? (fun e => decide (e.first = bits ((here s).sval 1) 20 10))) ≠ none)) ∧
    (∃ s : State, PubWord s ∧ ¬PubClash s ∧ ¬Quiet s (bits ((here s).sval 1) 20 10) (2 * (bits ((here s).sval 1) 31 21 + 1))) ∧
    ∃ s : State, PubWord s ∧ PubClash s ∧ vecOpen s s.cur = false := by
  let e : PairEntry := { first := 2044, n := 1, flip := true }
  let own : PairEntry := { first := 2046, n := 1, flip := true }
  refine ⟨⟨tiled 0xFF000000001FFFFF#64 0#64, 63#6, 1#6, ?_⟩, ⟨tiled 0xFF000000001FFFFF#64 0#64, 1#6, 2#6, ?_⟩,
    ⟨tiled 0xFF000000001FF800#64 2#64, 1#6, 2#6, ?_⟩, ⟨tiled 0x80000000001FF800#64 0#64, 1#6, ?_⟩, fun n hn => ?_,
    ⟨{ tiled 0x00000000001FF800#64 0#64 with flight := [{ newAccess 1 (.slot 1 3#8 0x1000#64 none false [] true) (.store 8 1)
        0xFF000000001FFFF8#64 false false 0 with stage := .wheel 0 4 }] }, ?_⟩,
    (tiled 0x00000000001FF800#64 0#64).modCell 0 (fun c => { c with pairs := [{ e with n := 2 }] }), ?_⟩
  case refine_5 =>
    rcases hn with rfl | rfl
    · refine ⟨(tiled 0x00000000001FF800#64 0#64).modCell 0 (fun c => { c with pairs := [e] }), ?_⟩
      delta PubWord PubClash
      and_intros <;> decide +kernel
    · refine ⟨(tiled 0x00000000001FF800#64 0#64).modCell 0 (fun c => { c with pairs := [e, own] }), ?_⟩
      delta PubWord PubClash
      and_intros <;> decide +kernel
  case refine_6 =>
    refine ⟨by delta PubWord; and_intros <;> decide +kernel, by delta PubClash; decide +kernel, fun h => ?_⟩
    exact absurd h.1 (by decide +kernel)
  case refine_7 =>
    exact ⟨by delta PubWord; and_intros <;> decide +kernel, .inr (.inl ⟨{ e with n := 2 }, by decide +kernel⟩), by decide +kernel⟩
  all_goals and_intros <;> decide +kernel

/-! ### The vector unit -/

/-- A vector addition of v2 and v3 into v1 in format F32, a load of v4 from the address in s4. -/
def vAdd : Instr := .vadd 0#3 1#5 2#5 3#5 0#3 1#2
def vLoad : Instr := .vld 4#5 4#5 0#5

theorem witness_VectorIssue :
    (∀ i : Instr, i = vAdd ∨ i = vLoad → ∃ (s : State) (el : Elem) (sc : Bool) (m : Rnd), isVector i = true ∧ (here s).cap = none ∧
      replayOpen s s.cur = false ∧ programOpen s s.cur = false ∧ MayEnter s s.cur i el sc m) ∧
    ∃ (s : State) (i : Instr) (el : Elem) (sc : Bool) (m : Rnd) (l : Loop), isVector i = true ∧ (here s).cap = some l ∧
      Formed (here s) i el sc m := by
  refine ⟨fun i hi => ⟨small, .float fF32, false, .rn, ?_⟩,
    smallWith (fun x => { x with cap := some { count := 2, body := [] } }), vAdd, .float fF32, false, .rn, { count := 2, body := [] }, ?_⟩
  · rcases hi with rfl | rfl <;> and_intros <;> decide +kernel
  · and_intros <;> decide +kernel

/-- The vector queue of core 0 with one entry of slot 1. -/
def queued (i : Instr) : State :=
  small.setCore 0 { Core.init with vq := [{
    vid := 0, sid := 1, gen := 3#8, item := { instr := i, pc := 0x1000#64, x := 0xFF00000000000400#64, y := 0#64, vfmt := 0x20#64, rmode := 0#64 }
    oldF := true, forked := false, replayed := false, order := 0, poison := none }] }

def entryOf (i : Instr) : VEntry :=
  { vid := 0, sid := 1, gen := 3#8, item := { instr := i, pc := 0x1000#64, x := 0xFF00000000000400#64, y := 0#64, vfmt := 0x20#64, rmode := 0#64 }
    oldF := true, forked := false, replayed := false, order := 0, poison := none }

/-- The same with another VFMT. -/
def entryAs (i : Instr) (vfmt : Word) : VEntry :=
  { entryOf i with item := { instr := i, pc := 0x1000#64, x := 0xFF00000000000400#64, y := 0#64, vfmt := vfmt, rmode := 0#64 } }

def queuedAs (i : Instr) (vfmt : Word) : State := small.setCore 0 { Core.init with vq := [entryAs i vfmt] }

theorem witness_VectorLanes :
    (∀ i : Instr, i = .vand 1#5 2#5 3#5 0#3 0#2 ∨ i = .vnot 1#5 2#5 0#3 0#2 ∨ i = .vsar 1#5 2#5 3#5 7#3 0#2 →
      ∃ (s : State) (cell t : Nat) (e : VEntry) (el : Elem) (sc : Bool) (m : Rnd) (d a b : BitVec 5)
      (p : BitVec 3) (f : Nat → Nat → Nat), Starts s cell t e el sc m ∧ bitOp el.width e.item.instr = some (d, a, b, p, f) ∧
        e.item.instr = i) ∧
    (∀ i : Instr, i = .vfma 0#3 1#5 2#5 3#5 0#3 0#2 ∨ i = .vneg 1#5 2#5 0#3 0#2 →
      ∃ (s : State) (cell t : Nat) (e : VEntry) (g : Bool) (w : Nat) (sc : Bool) (m : Rnd) (d a b : BitVec 5) (p : BitVec 3)
      (f : Int → Int → Int → Int), Starts s cell t e (.int g w) sc m ∧ intOp e.item.instr = some (d, a, b, p, f) ∧
        e.item.instr = i) ∧
    (∀ i : Instr, i = .vfms 1#3 1#5 2#5 3#5 0#3 1#2 ∨ i = .vrsqrt 4#3 1#5 2#5 0#3 1#2 →
      ∃ (s : State) (cell t : Nat) (e : VEntry) (f : FloatFmt) (sc : Bool) (m : Rnd) (d a b : BitVec 5) (p : BitVec 3)
      (g : Fp → Fp → Fp → Ex), Starts s cell t e (.float f) sc m ∧ floatOp m e.item.instr = some (d, a, b, p, g) ∧
        e.item.instr = i) := by
  refine ⟨fun i hi => ?_, fun i hi => ?_, fun i hi => ?_⟩
  · have h : Starts (queuedAs i 9#64) 0 0 (entryAs i 9#64) (.int true 8) false .rn := by
      rcases hi with rfl | rfl | rfl <;> and_intros <;> decide +kernel
    rcases hi with rfl | rfl | rfl <;> exact ⟨_, 0, 0, _, _, _, _, _, _, _, _, _, h, rfl, rfl⟩
  · have h : Starts (queuedAs i 9#64) 0 0 (entryAs i 9#64) (.int true 8) false .rn := by
      rcases hi with rfl | rfl <;> and_intros <;> decide +kernel
    rcases hi with rfl | rfl <;> exact ⟨_, 0, 0, _, _, _, _, _, _, _, _, _, _, h, rfl, rfl⟩
  · rcases hi with rfl | rfl
    · have h : Starts (queuedAs (.vfms 1#3 1#5 2#5 3#5 0#3 1#2) 9#64) 0 0 (entryAs (.vfms 1#3 1#5 2#5 3#5 0#3 1#2) 9#64) (.float fF32) false .rz := by
        and_intros <;> decide +kernel
      exact ⟨_, 0, 0, _, _, _, _, _, _, _, _, _, h, rfl, rfl⟩
    · have h : Starts (queuedAs (.vrsqrt 4#3 1#5 2#5 0#3 1#2) 9#64) 0 0 (entryAs (.vrsqrt 4#3 1#5 2#5 0#3 1#2) 9#64) (.float fF32) false .rna := by
        and_intros <;> decide +kernel
      exact ⟨_, 0, 0, _, _, _, _, _, _, _, _, _, h, rfl, rfl⟩

theorem witness_VectorMoves :
    (∀ i : Instr, i = .vsel 1#5 2#5 3#5 7#3 0#2 ∨ i = .vbcast 1#5 4#5 0#3 0#2 ∨ i = .vperm 1#5 2#5 4#5 0#3 0#2 ∨
        i = .vext 1#5 2#5 3#5 0#2 ∨ i = .vins 1#5 2#5 3#5 0#2 →
      ∃ (s : State) (cell t : Nat) (e : VEntry) (el : Elem) (sc : Bool) (m : Rnd), Starts s cell t e el sc m ∧ e.item.instr = i) ∧
    (∀ i : Instr, i = .pand 1#3 2#3 0#3 ∨ i = .pnot 0#3 7#3 ∨ i = .pfirst 1#5 7#3 →
      ∃ (s : State) (cell t : Nat) (e : VEntry) (el : Elem) (sc : Bool) (m : Rnd) (pw : List (Nat × PReg)) (sw : List (Nat × Word)),
        Starts s cell t e el sc m ∧ predOp (s.slot e.sid) e.item.instr = some (pw, sw) ∧ e.item.instr = i) ∧
    ∃ (s : State) (cell t : Nat) (e : VEntry) (g : Bool) (w : Nat) (sc : Bool) (m : Rnd) (d : BitVec 3) (a b : BitVec 5) (p : BitVec 3)
      (f : BitVec 2) (c : BitVec 3), Starts s cell t e (.int g w) sc m ∧ e.item.instr = .vcmp d a b p f c := by
  refine ⟨fun i hi => ?_, fun i hi => ?_, ?_⟩
  · have h : Starts (queuedAs i 9#64) 0 0 (entryAs i 9#64) (.int true 8) false .rn := by
      rcases hi with rfl | rfl | rfl | rfl | rfl <;> and_intros <;> decide +kernel
    exact ⟨_, 0, 0, _, _, _, _, h, rfl⟩
  · have h : Starts (queuedAs i 9#64) 0 0 (entryAs i 9#64) (.float fF32) false .rn := by
      rcases hi with rfl | rfl | rfl <;> and_intros <;> decide +kernel
    rcases hi with rfl | rfl | rfl <;> exact ⟨_, 0, 0, _, _, _, _, _, _, h, rfl, rfl⟩
  · have h : Starts (queuedAs (.vcmp 0#3 1#5 2#5 0#3 0#2 6#3) 9#64) 0 0 (entryAs (.vcmp 0#3 1#5 2#5 0#3 0#2 6#3) 9#64) (.int true 8)
        false .rn := by and_intros <;> decide +kernel
    exact ⟨_, 0, 0, _, _, _, _, _, _, _, _, _, _, _, h, rfl⟩

theorem witness_VectorResults :
    (∀ i : Instr, i = .vmin 1#5 2#5 3#5 7#3 0#2 ∨ i = .vneg 1#5 2#5 7#3 0#2 ∨ i = .vscale 0#3 1#5 2#5 3#5 7#3 0#2 →
      ∃ (s : State) (cell t : Nat) (e : VEntry) (f : FloatFmt) (sc : Bool) (m : Rnd) (d a b : BitVec 5) (p : BitVec 3)
        (g : Nat → Nat → Nat → Nat × FlagBits), Starts s cell t e (.float f) sc m ∧
        floatBits f m e.item.instr = some (d, a, b, p, g) ∧ e.item.instr = i) ∧
    (∃ (s : State) (cell t : Nat) (e : VEntry) (f : FloatFmt) (sc : Bool) (m : Rnd) (d : BitVec 3) (a b : BitVec 5) (p : BitVec 3)
      (g : BitVec 2) (c : BitVec 3), Starts s cell t e (.float f) sc m ∧ e.item.instr = .vcmp d a b p g c) ∧
    (∀ i : Instr, i = .vcvt 0#3 1#5 2#5 12#5 7#3 3#2 ∨ i = .vcvtSat 0#3 1#5 2#5 13#5 7#3 3#2 ∨ i = .vnarrow 0#3 1#5 2#5 0#5 2#2 ∨
        i = .vnarrowSat 0#3 1#5 4#5 9#5 3#2 ∨ i = .vqnt 0#3 2#5 4#5 6#5 3#2 →
      ∃ (s : State) (cell t : Nat) (e : VEntry) (el dst : Elem) (sc : Bool) (m : Rnd), Starts s cell t e el sc m ∧ e.item.instr = i ∧
        ∃ c : BitVec 5, elemOf (dstCode 3#2 c) = some dst) ∧
    (∃ (s : State) (cell t : Nat) (e : VEntry) (el dst : Elem) (sc : Bool) (m : Rnd) (q : BitVec 3) (d a c : BitVec 5) (f : BitVec 2),
      Starts s cell t e el sc m ∧ e.item.instr = .vwiden q d a c f ∧ elemOf (dstCode f c) = some dst) ∧
    (∀ i : Instr, i = .vsum 0#3 1#5 2#5 7#3 0#2 ∨ i = .vmaxr 1#5 2#5 7#3 0#2 ∨ i = .vdot 0#3 1#5 2#5 3#5 7#3 0#2 → ∀ int : Bool,
      ∃ (s : State) (cell t : Nat) (e : VEntry) (el : Elem) (sc : Bool) (m : Rnd), Starts s cell t e el sc m ∧ e.item.instr = i ∧
        (int = true → el = .int true 8) ∧ (int = false → el = .float fF32)) ∧
    (∀ i : Instr, i = .vexp2 1#5 2#5 7#3 1#2 ∨ i = .vlog 1#5 2#5 7#3 1#2 →
      ∃ (s : State) (cell t : Nat) (e : VEntry) (f : FloatFmt) (sc : Bool) (m : Rnd) (d a : BitVec 5) (p : BitVec 3) (fn : Special.Fn),
        Starts s cell t e (.float f) sc m ∧ specialOf e.item.instr = some (d, a, p, fn) ∧ e.item.instr = i) := by
  refine ⟨fun i hi => ?_, ?_, fun i hi => ?_, ?_, fun i hi int => ?_, fun i hi => ?_⟩
  · have h : Starts (queuedAs i 0#64) 0 0 (entryAs i 0#64) (.float fF32) false .rn := by
      rcases hi with rfl | rfl | rfl <;> and_intros <;> decide +kernel
    rcases hi with rfl | rfl | rfl <;> exact ⟨_, 0, 0, _, _, _, _, _, _, _, _, _, h, rfl, rfl⟩
  · have h : Starts (queuedAs (.vcmp 0#3 1#5 2#5 0#3 0#2 6#3) 2#64) 0 0 (entryAs (.vcmp 0#3 1#5 2#5 0#3 0#2 6#3) 2#64) (.float fF16)
        false .rn := by and_intros <;> decide +kernel
    exact ⟨_, 0, 0, _, _, _, _, _, _, _, _, _, _, h, rfl⟩
  · have h : Starts (queuedAs i 0#64) 0 0 (entryAs i 0#64) (.float fF32) false .rn := by
      rcases hi with rfl | rfl | rfl | rfl | rfl <;> and_intros <;> decide +kernel
    exact ⟨_, 0, 0, _, _, .float fBF16, _, _, h, rfl, 1#5, rfl⟩
  · have h : Starts (queuedAs (.vwiden 0#3 2#5 4#5 0#5 1#2) 1#64) 0 0 (entryAs (.vwiden 0#3 2#5 4#5 0#5 1#2) 1#64) (.float fBF16)
        false .rn := by and_intros <;> decide +kernel
    exact ⟨_, 0, 0, _, _, _, _, _, _, _, _, _, _, h, rfl, rfl⟩
  · cases int
    · have h : Starts (queuedAs i 0#64) 0 0 (entryAs i 0#64) (.float fF32) false .rn := by
        rcases hi with rfl | rfl | rfl <;> and_intros <;> decide +kernel
      exact ⟨_, 0, 0, _, _, _, _, h, rfl, nofun, fun _ => rfl⟩
    · have h : Starts (queuedAs i 9#64) 0 0 (entryAs i 9#64) (.int true 8) false .rn := by
        rcases hi with rfl | rfl | rfl <;> and_intros <;> decide +kernel
      exact ⟨_, 0, 0, _, _, _, _, h, rfl, fun _ => rfl, nofun⟩
  · have h : Starts (queuedAs i 9#64) 0 0 (entryAs i 9#64) (.float fF32) false .rn := by
      rcases hi with rfl | rfl <;> and_intros <;> decide +kernel
    rcases hi with rfl | rfl <;> exact ⟨_, 0, 0, _, _, _, _, _, _, _, _, h, rfl, rfl⟩

/-- A running vector instruction of slot 1 that has its result. -/
def vRun0 : VRun :=
  { vid := 4, sid := 1, gen := 3#8, pc := 0x1000#64, oldF := true, forked := false, replayed := false, vw := [(31, 1#4096)], pw := [], sw := []
    flags := 0x10#5, err := false, memory := false, store := false, owed := 0 }

theorem witness_VectorEvents :
    (∀ i : Instr, i = vAdd ∨ i = vLoad → ∃ (s : State) (cell t : Nat) (e : VEntry) (el : Elem) (sc : Bool) (m : Rnd),
      Starts s cell t e el sc m ∧ e.item.instr = i ∧
      (isVecMem e.item.instr = true → e.poison = none ∧
        (e.replayed = true ∨ unitChecks s e.sid e.item.instr (e.item.units (s.slot e.sid)) = .ok ()))) ∧
    ∃ (s : State) (cell core : Nat) (r : VRun) (d : BitVec 5) (v : VReg), s.vrunOf (4 * cell + core) r.vid = some r ∧ r.owed = 0 ∧
      clockStop (s.cell cell) = none ∧ r.vw = [(d.toNat, v)] ∧ r.pw = [] ∧ r.sw = [] ∧ r.err = false ∧ r.store = false ∧
      r.forked = false ∧ (s.slot r.sid).gen = r.gen ∧ (s.slot r.sid).isLive = true := by
  refine ⟨fun i hi => ?_, small.setCore 3 { Core.init with vrun := [vRun0] }, 0, 3, vRun0, 31#5, 1#4096, ?_⟩
  · rcases hi with rfl | rfl
    · exact ⟨queued vAdd, 0, 0, entryOf _, .float fF32, false, .rn, by and_intros <;> decide +kernel, rfl, fun _ => ⟨rfl, .inr rfl⟩⟩
    · exact ⟨queued vLoad, 0, 0, entryOf _, .float fF32, false, .rn, by and_intros <;> decide +kernel, rfl,
        fun _ => ⟨rfl, .inr (by decide +kernel)⟩⟩
  · and_intros <;> decide +kernel

/-- An aligned address of the lower half or of a local memory takes an operation that is allowed there. -/
theorem admitted_plain (s : State) (ea : Word) (op : MemOp)
    (h : (canonical ea && !inPriv ea && decide (ea.toNat % op.align = 0) && op.allowedIn (spaceOf s (home s) ea) &&
      (match spaceOf s (home s) ea with | .commons _ => false | _ => true)) = true) : Admitted s ea op false := by
  simp only [Bool.and_eq_true, Bool.not_eq_true', decide_eq_true_eq] at h
  obtain ⟨⟨⟨⟨hc, hp⟩, ha⟩, hs⟩, hn⟩ := h
  refine ⟨hc, fun k => by simp [hp] at k, .inl ha, hs, fun o ho => ?_⟩
  simp [ho] at hn

theorem witness_VectorCompletes :
    (∀ i : Instr, i = vAdd ∨ i = .pand 1#3 1#3 2#3 ∨ i = .vext 5#5 31#5 0#5 1#2 →
      ∃ (s : State) (el : Elem) (sc : Bool) (m : Rnd) (k : Nat), isVector i = true ∧ isVecMem i = false ∧ InOrder s i el sc m ∧
        k / 2 % 4 = coreOf s.cur % 4) ∧
    (∀ i : Instr, i = vLoad ∨ i = .vscat 4#5 4#5 5#5 0#3 1#2 →
      ∃ (s : State) (el : Elem) (sc : Bool) (m : Rnd) (k : Nat), isVector i = true ∧ isVecMem i = true ∧ InOrder s i el sc m ∧
        k / 2 % 4 = coreOf s.cur % 4 ∧ (isVecStore i = true → (here s).unack ≠ 0xFFFF#64) ∧
        (∀ b ∈ s.flight, ∀ sid gen pc dst oldF cons counts, b.src = .slot sid gen pc dst oldF cons counts → sid ≠ s.cur) ∧
        ∀ w ∈ (itemOf (here s) i (vForm i el sc)).units (here s), Admitted s w.va (unitOp (isVecStore i) 0 w) false) := by
  have none : small.flight = [] := rfl
  refine ⟨fun i hi => ⟨small, .float fF32, false, .rn, 0, ?_⟩, fun i hi => ⟨small, .float fF32, false, .rn, 0, ?_⟩⟩
  · rcases hi with rfl | rfl | rfl <;> and_intros <;> decide +kernel
  · have units : ((itemOf (here small) i (vForm i (.float fF32) false)).units (here small)).all (fun w =>
        canonical w.va && !inPriv w.va && decide (w.va.toNat % (unitOp (isVecStore i) 0 w).align = 0) &&
        (unitOp (isVecStore i) 0 w).allowedIn (spaceOf small (home small) w.va) &&
        (match spaceOf small (home small) w.va with | .commons _ => false | _ => true)) = true := by
      rcases hi with rfl | rfl <;> decide +kernel
    have ready : isVector i = true ∧ isVecMem i = true ∧ InOrder small i (.float fF32) false .rn := by
      rcases hi with rfl | rfl <;> and_intros <;> decide +kernel
    exact ⟨ready.1, ready.2.1, ready.2.2, by decide +kernel, fun _ => by decide +kernel, fun b hb => by simp [none] at hb,
      fun w hw => admitted_plain _ _ _ (List.all_eq_true.1 units w hw)⟩

/-- A captured load of 512 bytes at the end of the local memory. -/
def lastLoad : VItem :=
  { instr := vLoad, pc := 0x1000#64, x := 0xFF000000001FFC00#64, y := 0x200#64, vfmt := 0#64, rmode := 0#64 }

def replayed : Replay := { body := [lastLoad], count := 2, order := 0, k := 1, j := 0 }

theorem witness_LoopBuffer :
    (∃ (s : State) (a : BitVec 5), Readable (here s) (a.setWidth 6) ∧ replayOpen s s.cur = false ∧ programOpen s s.cur = false) ∧
    (∃ (s : State) (l : Loop), (here s).cap = some l ∧ (l.count = 0 ∨ l.body = []) ∧ ∀ it ∈ l.body, isVecBlock it.instr = false) ∧
    (∃ (s : State) (l : Loop), (here s).cap = some l ∧ l.count ≠ 0 ∧ l.body ≠ [] ∧
      ∀ it ∈ l.body, isVecBlock it.instr = true ∧ ∀ k < l.count, (it.addr k).toNat % 64 = 0 ∧ bits (it.addr k) 63 48 = 0xFF00 ∧
        bits (it.addr k) 47 0 + 512 ≤ 0x200000) ∧
    ∃ (s : State) (sid : Nat) (r : Replay) (it : VItem) (el : Elem) (sc : Bool) (m : Rnd), (s.slot sid).replay = some r ∧
      clockStop (s.cell (cellOfSlot sid)) = none ∧ r.item = some it ∧ vecFormat it.instr it.vfmt it.rmode = some (el, sc, m) ∧
      (vForm it.instr el sc).owed (s.slot sid) = false ∧ formWaits s sid (vForm it.instr el sc) = false ∧
      (s.core (coreOf sid)).vq.length < 8 ∧ (isVecStore it.instr = true → (s.slot sid).unack ≠ 0xFFFF#64) := by
  refine ⟨⟨small, 31#5, ?_⟩, ⟨smallWith (fun x => { x with cap := some { count := 0, body := [] } }), { count := 0, body := [] }, ?_⟩,
    ⟨smallWith (fun x => { x with cap := some { count := 2, body := [lastLoad] } }), { count := 2, body := [lastLoad] }, ?_⟩,
    smallWith (fun x => { x with replay := some replayed }), 1, replayed, { lastLoad with x := lastLoad.addr 1 }, .float fF32, false, .rn, ?_⟩ <;>
    and_intros <;> decide +kernel

/-- Slot 1 with a forked vector program at 0x40 whose first word, at 0x40, is w. -/
def programmed (w : Word) : State :=
  { ((smallWith (fun x => { x with fork := some { mst := 0, cst := 0, vst := 15, mfail := 0, cfail := 0, vfail := 0, cause := 0, sigs := [0, 0, 0, 0] } })).setCore
      0 { Core.init with seqV := some { sid := 1, gen := 3#8, base := 0x40#64, next := 0, await := none } }) with
    phys := Memory.writeN [] 0x40 4 w.toNat }

theorem witness_VectorPrograms : ∀ w : Word, w = 0#64 ∨ w = 0x80221840#64 →
    ∃ (s u : State) (cell core v : Nat) (q : SeqV), (s.core (4 * cell + core)).seqV = some q ∧ clockStop (s.cell cell) = none ∧
      (s.slot q.sid).gen = q.gen ∧ (s.slot q.sid).isLive = true ∧ q.await = none ∧ q.ending = none ∧ (s.slot q.sid).removedAt = none ∧
      (s.slot q.sid).cap = none ∧ replayOpen s q.sid = false ∧
      readVirt s (progAgent s (4 * cell + core) 2 true (.forkedVectorIssue cell core)) (q.base + BitVec.ofNat 64 (4 * q.next)) 4 = (.val v, u) ∧
      v = w.toNat ∧ (v = 0 → programPending u (4 * cell + core) = false ∧ ∃ f, (s.slot q.sid).fork = some f) := by
  intro w hw
  refine ⟨programmed w, _, 0, 0, w.toNat, { sid := 1, gen := 3#8, base := 0x40#64, next := 0, await := none }, ?_, ?_, ?_, ?_, ?_, ?_, ?_, ?_, ?_,
    pair_of ?_, rfl, fun _ => ⟨?_, _, rfl⟩⟩ <;> rcases hw with rfl | rfl <;> decide +kernel

/-- The word of the vector addition is an instruction that may enter the queue. -/
theorem witness_VectorPrograms_enter : ∃ (u : State) (i : Instr) (w : BitVec 32) (el : Elem) (sc : Bool) (m : Rnd), vectorMajor w = true ∧
    decode w = .ok i ∧ isVector i = true ∧ MayEnter u 1 i el sc m :=
  ⟨small, vAdd, 0b100000_00001_00010_00011_000_01_000000#32, .float fF32, false, .rn, by decide +kernel, rfl, by decide +kernel,
    by and_intros <;> decide +kernel⟩

/-! ### System control -/

/-- Bytes within one page that translate and read without an error are fetched. -/
theorem fetches_of {s u w : State} {va : Word} {n pa key attr v : Nat} (hn : n ≠ 0) (hp : pageBytes va n = n)
    (hx : xlateCell s (cellOfSlot s.cur) va true false = (.ok pa key attr, u)) (he : physErr u pa n = false)
    (hr : engineRead u (dieOf (cellOfSlot s.cur)) pa n key attr = (v, w)) (hc : u.cur = s.cur)
    (hb : BytesQuiet s va n) : Fetches s va n v w := by
  intro pre k
  unfold readIssue
  rw [show bytesQuiet s va n = .ok () by simp [bytesQuiet, guardH, hb.1, hb.2]]
  show readIssueFuel pre (n / 65536 + 2) s va n 0 0 k = k v w
  obtain ⟨f, hf⟩ : ∃ f, n / 65536 + 2 = f + 1 + 1 := ⟨n / 65536, rfl⟩
  rw [hf, readIssueFuel, if_neg hn, hx]
  simp only [hp, he, Bool.false_eq_true, if_false]
  rw [hc, hr]
  simp only [readIssueFuel, Nat.sub_self, if_true]
  simp

/-- The gaffer with an image or a descriptor at 0x800. -/
def loading (bytes : Memory) : State := { gaffer with phys := bytes }

/-- The gaffer with the inactive set B equal to set A. -/
def copied : State :=
  (List.range 129).foldl (fun s i => s.setReg (0x1000 + 8 * i) (s.reg (8 * i))) gaffer

/-- An access under way when a shoot-down begins. -/
def shotAt : Access := newAccess 0 (.blk 0 0 0) (.load 8 false) 0x800#64 false false 0

theorem witness_SystemTables :
    (∃ (s u : State) (a : BitVec 6) (v : Nat) (k : Shoot), (here s).shoot = none ∧ s.levelY s.cur = true ∧ Readable (here s) a ∧ LowerEight ((here s).sval a.toNat) ∧
      Fetches s ((here s).sval a.toNat) 24 v u ∧ u.cur = s.cur ∧ (∀ j, u.slot j = s.slot j) ∧ shootOf u (part s) v = some k ∧
      part u = part s ∧ shootOpen u k = []) ∧
    (∃ (s : State) (k : Shoot), shootOpen s k ≠ [] ∧ s.levelY s.cur = true) ∧
    (∀ l : Bool, ∃ (s : State) (k : Shoot) (ids : List Nat), (here s).shoot = some (k, ids) ∧ (l = true ↔ ∃ b ∈ s.flight, b.id ∈ ids)) ∧
    (∃ (s u : State) (a : BitVec 6) (v : Nat), s.levelY s.cur = true ∧ Readable (here s) a ∧ LowerEight ((here s).sval a.toNat) ∧
      Fetches s ((here s).sval a.toNat) 1032 v u ∧ u.cur = s.cur ∧ (∀ j, u.slot j = s.slot j) ∧ (wctl u).getLsbD 1 = false) ∧
    (∀ ok : Bool, ∃ s : State, s.levelY s.cur = true ∧ armOk s (dieOf (home s)) (inactiveSet s (dieOf (home s))) = ok) ∧
    ∀ armed : Bool, ∃ s : State, s.levelY s.cur = true ∧ (wctl s).getLsbD 1 = armed := by
  refine ⟨⟨gaffer, (engineRead (xlateCell gaffer 0 0x800#64 true false).2 0 0x800 24 0 0).2, 3#6, 0, ⟨0, 0, 0, 0, 2 ^ 56⟩, by decide +kernel, by decide +kernel,
      by and_intros <;> decide +kernel, by and_intros <;> decide +kernel, ?_, by decide +kernel, slot_of_slots (by decide +kernel),
      by decide +kernel, by decide +kernel, by decide +kernel⟩,
    ⟨{ gaffer with flight := [{ shotAt with stage := .slice 0 }] }, ⟨0, 0, 0, 0, 2 ^ 56⟩, by decide +kernel, by decide +kernel⟩,
    fun l => ⟨{ gaffer with slots := [(0, { slot0 with shoot := some (⟨0, 0, 0, 0, 2 ^ 56⟩, if l then [0] else []) })], flight := [shotAt] },
      ⟨0, 0, 0, 0, 2 ^ 56⟩, if l then [0] else [], ?_, ?_⟩,
    ⟨gaffer, (engineRead (xlateCell gaffer 0 0x800#64 true false).2 0 0x800 1032 0 0).2, 3#6, 0, by decide +kernel,
      by and_intros <;> decide +kernel, by and_intros <;> decide +kernel, ?_, by decide +kernel, slot_of_slots (by decide +kernel),
      by decide +kernel⟩, fun ok => ?_, fun armed => ?_⟩
  · exact fetches_of (pa := 0x800) (key := 0) (attr := 0) (by decide) (by decide +kernel) (pair_of (by decide +kernel)) (by decide +kernel)
      (pair_of (by decide +kernel)) (by decide +kernel) (by and_intros <;> decide +kernel)
  · cases l <;> decide +kernel
  · cases l <;> decide +kernel
  · exact fetches_of (pa := 0x800) (key := 0) (attr := 0) (by decide) (by decide +kernel) (pair_of (by decide +kernel)) (by decide +kernel)
      (pair_of (by decide +kernel)) (by decide +kernel) (by and_intros <;> decide +kernel)
  · cases ok
    · exact ⟨gaffer, by decide +kernel⟩
    · exact ⟨copied, by decide +kernel⟩
  · cases armed
    · exact ⟨gaffer, by decide +kernel⟩
    · exact ⟨gaffer.setReg 0x2000 2#64, by decide +kernel⟩

/-- The gaffer with a partition mask in s1, partition 1's word 0, and the phases of partition 0 set. -/
def masked (m w : Word) : State :=
  { (gaffer.setReg 0x40100100 w).setReg 0x40100008 0x1#64 with slots := [(0, { slot0 with sreg := [(1, m)] })] }

theorem witness_PartitionControl :
    (∃ (s : State) (d a : BitVec 6), PartForm s d a ∧ ∀ p < 16, Named s a p → busyBits s p = 0) ∧
    (∃ (s : State) (d a : BitVec 6) (p : Nat), PartForm s d a ∧ Named s a p ∧ busyBits s p ≠ 0 ∧
      ∀ q < p, Named s a q → busyBits s q = 0) ∧
    (∃ (s : State) (d a : BitVec 6), PartForm s d a ∧ (∀ p < 16, Named s a p → p ≠ part s ∧ s.holds p (home s) = false ∧ busyBits s p = 0) ∧
      Named s a 15) ∧
    (∃ (s : State) (d a : BitVec 6), PartForm s d a ∧ (here s).sval a.toNat ≠ 0#64 ∧ Named s a (part s)) ∧
    (∃ (s : State) (d a : BitVec 6), PartForm s d a ∧ (here s).sval a.toNat ≠ 0#64 ∧ ¬Named s a (part s) ∧
      (Named s a 1 ∧ s.committed 1 = true ∧ s.quiesced 1 = false)) ∧
    ∀ ok : Bool, ∃ (s : State) (d a : BitVec 6), PartForm s d a ∧ (here s).sval a.toNat ≠ 0#64 ∧ ¬Named s a (part s) ∧
      (∀ p < 16, Named s a p → s.committed p = true → s.quiesced p = true) ∧ commitOk s (namedParts ((here s).sval a.toNat)) = ok := by
  have form : ∀ m w, (m = 0x8002#64 ∨ m = 3#64 ∨ m = 1#64 ∨ m = 2#64) → (w = 0#64 ∨ w = 4#64 ∨ w = 0x100200001#64) →
      PartForm (masked m w) 63#6 1#6 := by
    rintro m w (rfl | rfl | rfl | rfl) (rfl | rfl | rfl) <;> and_intros <;> decide +kernel
  have idle : ∀ p < 16, ((here (masked 0x8002#64 0#64)).sval 1).getLsbD p = true → p ≠ 0 ∧ busyBits (masked 0x8002#64 0#64) p = 0 ∧
      (masked 0x8002#64 0#64).holds p 0 = false := by decide +kernel
  have idle2 : ∀ w, w = 0#64 ∨ w = 0x100200001#64 → ∀ p < 16, ((here (masked 2#64 w)).sval 1).getLsbD p = true →
      (masked 2#64 w).committed p = true → (masked 2#64 w).quiesced p = true := by
    rintro w (rfl | rfl) <;> decide +kernel
  refine ⟨⟨masked 0x8002#64 0#64, 63#6, 1#6, form _ _ (by decide) (by decide), fun p hp hn => (idle p hp hn.2).2.1⟩,
    ⟨{ masked 3#64 0#64 with conts := [(0, 0, 0#64)] }, 63#6, 1#6, 0, form 3#64 0#64 (by decide) (by decide),
      by and_intros <;> decide +kernel, by decide +kernel, fun q hq => absurd hq (Nat.not_lt_zero q)⟩,
    ⟨masked 0x8002#64 0#64, 63#6, 1#6, form _ _ (by decide) (by decide),
      fun p hp hn => ⟨fun e => (idle p hp hn.2).1 (e.trans (by decide +kernel)), (idle p hp hn.2).2.2, (idle p hp hn.2).2.1⟩,
      by and_intros <;> decide +kernel⟩,
    ⟨masked 1#64 0#64, 63#6, 1#6, form _ _ (by decide) (by decide), by decide +kernel, by and_intros <;> decide +kernel⟩,
    ⟨masked 2#64 4#64, 63#6, 1#6, form _ _ (by decide) (by decide), by decide +kernel, fun h => absurd h.2 (by decide +kernel),
      by and_intros <;> decide +kernel⟩, fun ok => ?_⟩
  cases ok
  · exact ⟨masked 2#64 0x100200001#64, 63#6, 1#6, form _ _ (by decide) (by decide), by decide +kernel,
      fun h => absurd h.2 (by decide +kernel), fun p hp hn => idle2 _ (by decide) p hp hn.2, by decide +kernel⟩
  · exact ⟨masked 2#64 0#64, 63#6, 1#6, form _ _ (by decide) (by decide), by decide +kernel,
      fun h => absurd h.2 (by decide +kernel), fun p hp hn => idle2 _ (by decide) p hp hn.2, by decide +kernel⟩

theorem witness_PartitionControl_quiesce :
    (∃ (s : State) (d a : BitVec 6), PartForm s d a ∧ (here s).sval a.toNat ≠ 0#64 ∧ Named s a (part s)) ∧
    ∃ (s : State) (d a : BitVec 6) (p : Nat), PartForm s d a ∧ (here s).sval a.toNat ≠ 0#64 ∧ ¬Named s a (part s) ∧ Named s a p ∧
      busyBits s p ≠ 0 ∧ ∀ q < p, Named s a q → busyBits s q = 0 := by
  refine ⟨⟨masked 1#64 0#64, 63#6, 1#6, ?_, by decide +kernel, by and_intros <;> decide +kernel⟩,
    { masked 2#64 0#64 with conts := [(1, 0, 0#64)] }, 63#6, 1#6, 1, ?_, by decide +kernel, fun h => absurd h.2 (by decide +kernel),
    by and_intros <;> decide +kernel, by decide +kernel, fun q hq h => ?_⟩
  · and_intros <;> decide +kernel
  · and_intros <;> decide +kernel
  · obtain rfl : q = 0 := by omega
    exact absurd h.2 (by decide +kernel)

/-! ### The matrix unit and forked programs -/

/-- Core 0 of cell 0 with a command of slot 1 at the head of its matrix queue. -/
def cmdOf (w : CmdWord) : Cmd := { word := w, sid := 1, gen := 3#8, fc := 0, forked := false }
def matrixQ (w : CmdWord) : State := small.setCore 0 { Core.init with mq := [cmdOf w] }

/-- Rings 0 and 15 with one slot of one frame and one entry. -/
def ringed (w : CmdWord) : State :=
  (matrixQ w).modCell 0 (fun c => { c with q := [(0, 0x0000000800000000#64), (15, 0x00000008000007FF#64)] })

theorem witness_MatrixCommands :
    (∃ (s : State) (c : Cmd) (rest : List Cmd), MatrixHead s c rest ∧ MatrixRuns s c ∧ opc c.word = 0x0A) ∧
    (∃ (s : State) (c : Cmd) (rest : List Cmd) (el : Elem), MatrixHead s c rest ∧ MatrixRuns s c ∧ elemOf (bits c.word.w1 25 21) = some el ∧
      ∀ u < 2 * el.width, localErr s (hereCore s / 4) (bits c.word.w1 20 0 + 64 * u) 64 = false) ∧
    (∃ (s : State) (c : Cmd) (rest : List Cmd) (el : Elem) (mode : Rnd), MatrixHead s c rest ∧ MatrixRuns s c ∧ opc c.word = 0x09 ∧
      elemOf (if c.word.w0.getLsbD 9 then c.fc else bits c.word.w1 25 21) = some el ∧ rndOf (bits c.word.w0 12 10) = some mode ∧
      ((s.cell (hereCore s / 4)).accOf (cmdAcc s c.word)).err = 0#8 ∧
      ∀ u < 2 * el.width, entryErr s (hereCore s / 4) (bits c.word.w1 20 0 + 64 * u) = false) ∧
    ∀ zero : Bool, ∃ (s : State) (c : Cmd) (rest : List Cmd) (i : Instr), MatrixHead s c rest ∧ MatrixRuns s c ∧
      i = (if zero then .mmz c.word else .mma c.word) ∧
      Ring.mismatch (s.cell (hereCore s / 4)) (bits c.word.w1 3 0) = false ∧
      Ring.mismatch (s.cell (hereCore s / 4)) (bits c.word.w1 7 4) = false ∧
      (zero = true ∨ ((s.cell (hereCore s / 4)).accOf (cmdAcc s c.word)).err = 0#8) := by
  refine ⟨⟨matrixQ ⟨0x100000000A#64, 0x700#64, 0, 0⟩, cmdOf ⟨0x100000000A#64, 0x700#64, 0, 0⟩, [], ?_⟩,
    ⟨matrixQ ⟨0x1000000008#64, 0x1C1FF000#64, 0, 0⟩, cmdOf ⟨0x1000000008#64, 0x1C1FF000#64, 0, 0⟩, [], .float fF32, ?_⟩,
    ⟨matrixQ ⟨0x1000000009#64, 0x1C1FF000#64, 0, 0⟩, cmdOf ⟨0x1000000009#64, 0x1C1FF000#64, 0, 0⟩, [], .float fF32, .rn, ?_⟩,
    fun zero => ⟨ringed ⟨if zero then 0x1000000002#64 else 0x1000000001#64, 0x00000000010403F0#64, 0, 0⟩,
      cmdOf ⟨if zero then 0x1000000002#64 else 0x1000000001#64, 0x00000000010403F0#64, 0, 0⟩, [],
      if zero then .mmz ⟨0x1000000002#64, 0x00000000010403F0#64, 0, 0⟩ else .mma ⟨0x1000000001#64, 0x00000000010403F0#64, 0, 0⟩, ?_⟩⟩
  any_goals (and_intros <;> decide +kernel)
  cases zero <;> refine ⟨?_, ?_, rfl, ?_, ?_, ?_⟩ <;> (try and_intros) <;> decide +kernel

/-- A matrix operation of core 1 that pops rings 0 and 15. -/
def mRun0 : MRun :=
  { cmd := cmdOf ⟨0x100000001#64, 0xF0#64, 0, 0⟩, core := 1, accNo := 8, data := 0#32768, flags := 0#5, raised := 0#5, popA := some 0
    popB := some 15, row := 0, zero := false, ents := [], todo := [], gotA := [], gotB := [], bad := false }

/-- The same with some units of its operands still to be read. -/
def mRunOf (todo : List MUnit) : MRun := { mRun0 with todo := todo }

/-- A read of 64 bytes at the start of cell 0's local memory, of a job, not yet at the copy port. -/
def portUnit (job : Nat) : PortUnit := { id := 8, job := job, spot := ⟨false, 0, 0, 64, 0⟩, act := .read, entered := none }

/-- The job of a tile of core 0 all of whose units are served. -/
def tileJob (w : Bool) (fail : Option Nat) : PortJob :=
  { id := 7, cell := 0, turn := .later (.tile 7), cmd := some (0, cmdOf ⟨0x1000000008#64, 0x1C1FF000#64, 0, 0⟩), writing := w, fail := fail }

theorem witness_MatrixEvents :
    (∀ n : Nat, n = 0 ∨ n = 1 ∨ n = 3 → ∃ (s : State) (c : Cmd) (rest : List Cmd) (i : Instr), MatrixHead s c rest ∧ isMatrix i c.word ∧
      matrixFail s (hereCore s) c = some n) ∧
    (∀ last : Bool, ∃ (s : State) (cell pos k : Nat) (r : MRun) (u : MUnit), (s.cell cell).mrun = some r ∧ clockStop (s.cell cell) = none ∧
      6 ≤ pos ∧ pos < 14 ∧ (r.todo.filter (fun x => x.b = decide (10 ≤ pos))).find?
        (fun x => realOff s cell x.off / 64 % 16 = (pos + k) % 16) = some u ∧ localErr s cell u.off u.n = false ∧ r.bad = false ∧
      (last = true ↔ (r.read u (localRead s cell u.off u.n) false).todo = [])) ∧
    (∀ w : Bool, ∀ fail : Option Nat, fail = none ∨ fail = some 5 → ∃ (s : State) (j : PortJob) (core : Nat) (c : Cmd) (el : Elem),
      s.jobs.find? (fun x => x.id = j.id) = some j ∧ j.cmd = some (core, c) ∧ (∀ u ∈ s.units, u.job ≠ j.id) ∧ j.writing = w ∧
      j.fail = fail ∧ elemOf (bits c.word.w1 25 21) = some el) ∧
    ∃ (s : State) (cell : Nat) (r : MRun), (s.cell cell).mrun = some r ∧ clockStop (s.cell cell) = none ∧ r.todo = [] ∧ r.bad = false ∧
      r.popA = some 0 ∧ r.popB ≠ some 0 := by
  let a : MUnit := { b := false, ix := 0, off := 0, n := 64 }
  let b : MUnit := { b := true, ix := 0, off := 0x400, n := 64 }
  refine ⟨fun n hn => ?_, fun last => ⟨small.modCell 0 (fun c => { c with mrun := some (mRunOf (if last then [b] else [a, b])) }), 0, 13, 3,
      mRunOf (if last then [b] else [a, b]), b, by cases last <;> and_intros <;> decide +kernel⟩,
    fun w fail hf => ⟨{ small with jobs := [tileJob w fail], units := [portUnit 1] },
      tileJob w fail, 0, cmdOf ⟨0x1000000008#64, 0x1C1FF000#64, 0, 0⟩, .float fF32, by rcases hf with rfl | rfl <;> cases w <;> and_intros <;> decide +kernel⟩,
    small.modCell 959 (fun c => { c with mrun := some mRun0 }), 959, mRun0, by and_intros <;> decide +kernel⟩
  rcases hn with rfl | rfl | rfl
  · exact ⟨matrixQ ⟨0x100000010A#64, 0, 0, 0⟩, cmdOf ⟨0x100000010A#64, 0, 0, 0⟩, [], .accclr _, by and_intros <;> decide +kernel,
      .inr (.inr (.inr (.inr rfl))), by decide +kernel⟩
  · exact ⟨matrixQ ⟨0x100000000A#64, 1#64, 0, 0⟩, cmdOf ⟨0x100000000A#64, 1#64, 0, 0⟩, [], .accclr _, by and_intros <;> decide +kernel,
      .inr (.inr (.inr (.inr rfl))), by decide +kernel⟩
  · exact ⟨matrixQ ⟨0x100000000A#64, 0, 0, 1#64⟩, cmdOf ⟨0x100000000A#64, 0, 0, 1#64⟩, [], .accclr _, by and_intros <;> decide +kernel,
      .inr (.inr (.inr (.inr rfl))), by decide +kernel⟩

/-- A program of slot 1 on core 0's matrix sequencer, at word 4, with a command in hand. -/
def seqOf0 (w : Option CmdWord) (ending : Option Nat) (owed : Nat) : Seq :=
  { sid := 1, gen := 3#8, base := 0x40#64, next := 4, loops := [], colr := 0#64, owed := owed, word := w, ending := ending }
def fork0 : ForkRec := { mst := 15, cst := 15, vst := 0, mfail := 0, cfail := 0, vfail := 0, cause := 0, sigs := [0, 0, 0, 2] }
def sequenced (q : Seq) : State :=
  { (smallWith (fun x => { x with fork := some fork0, aown := 1#64 })).setCore 0 { Core.init with seqM := some q } with cur := 0 }

theorem hereCore_sequenced (q : Seq) : hereCore (sequenced q) = 0 := by
  show 0 / 16 = 0
  decide

theorem carries_of (q : Seq) (w : CmdWord) (hw : q.word = some w) (hc : (sequenced q).seqOf 0 false = some q) :
    Carries (sequenced q) false q w :=
  ⟨by rw [hereCore_sequenced]; exact hc, hw, by rw [hereCore_sequenced]; rfl, rfl⟩

/-- The program in a loop on register 1 whose body is words 4 and 5. -/
def seqIn (w : CmdWord) : Seq :=
  { seqOf0 (some w) none 0 with loops := [{ idx := 1, first := 4, body := 2, count := 3, i := 0, s1 := 0, s2 := 0 }] }

/-- What a sequencer command is carried out in. -/
def carried (w : CmdWord) (owed : Nat) : Seq := seqOf0 (some w) none owed
theorem carries0 (w : CmdWord) (owed : Nat) (hc : (sequenced (carried w owed)).seqOf 0 false = some (carried w owed)) :
    Carries (sequenced (carried w owed)) false (carried w owed) w := carries_of _ w rfl hc

theorem inBody_none (w : CmdWord) (owed k n : Nat) : InBody (carried w owed) k n := fun _ _ h => nomatch h
theorem inBody_in (w : CmdWord) (k n : Nat) (h : (k + 2 ^ 59 - 4) % 2 ^ 59 + n ≤ 2) : InBody (seqIn w) k n := by
  intro l ls e
  obtain ⟨rfl, -⟩ := List.cons.inj e
  exact h
theorem not_inBody_in (w : CmdWord) (k n : Nat) (h : ¬ (k + 2 ^ 59 - 4) % 2 ^ 59 + n ≤ 2) : ¬ InBody (seqIn w) k n :=
  by
    intro e
    have e' := e _ _ rfl
    dsimp only at e'
    omega

theorem witness_Sequencers_jump :
    (∃ (s : State) (q : Seq) (w : CmdWord) (k : Nat), Carries s false q w ∧ k = (((q.next : Int) - 1 + (w.w1.setWidth 32).toInt) % (2 ^ 59 : Nat)).toNat ∧
      bits w.w1 63 32 = 0 ∧ w.w2 = 0#64 ∧ w.w3 = 0#64 ∧ k = 2 ^ 59 - 1 ∧ InBody q k 1) ∧
    (∀ f : Word, f = 1#64 ∨ f = 3#64 → ∃ (s : State) (q : Seq) (w : CmdWord) (k : Nat), Carries s false q w ∧
      k = (((q.next : Int) - 1 + (w.w1.setWidth 32).toInt) % (2 ^ 59 : Nat)).toNat ∧
      bits w.w1 63 32 = 0 ∧ w.w2 = 0#64 ∧ w.w3 = 0#64 ∧ (InBody q k 1 ↔ f = 1#64) ∧ q.loops ≠ []) := by
  refine ⟨⟨_, _, ⟨0x1000000020#64, 0xFFFFFFFC#64, 0, 0⟩, 2 ^ 59 - 1, carries0 _ 0 rfl, by decide +kernel, by decide +kernel, rfl, rfl, rfl,
    inBody_none _ _ _ _⟩, fun f hf => ?_⟩
  rcases hf with rfl | rfl
  · exact ⟨_, seqIn _, ⟨0x1000000020#64, 1#64, 0, 0⟩, 4, carries_of _ _ rfl rfl, by decide +kernel, by decide +kernel, rfl, rfl,
      iff_of_true (inBody_in _ _ _ (by decide +kernel)) rfl, by decide⟩
  · exact ⟨_, seqIn _, ⟨0x1000000020#64, 3#64, 0, 0⟩, 6, carries_of _ _ rfl rfl, by decide +kernel, by decide +kernel, rfl, rfl,
      iff_of_false (not_inBody_in _ _ _ (by decide +kernel)) (by decide), by decide⟩

theorem witness_Sequencers_loop :
    (∀ n : Nat, n = 0 ∨ n = 0xFFFFFFFF → ∃ (s : State) (q : Seq) (w : CmdWord), Carries s false q w ∧ bits w.w1 35 34 = 0 ∧
      bits w.w1 63 48 = 0 ∧ bits w.w1 47 36 ≠ 0 ∧ InBody q q.next (bits w.w1 47 36) ∧ (∀ l ∈ q.loops, l.idx ≠ bits w.w1 33 32) ∧
      q.loops ≠ [] ∧ bits w.w1 31 0 = n) ∧
    (∃ (s : State) (q : Seq) (w : CmdWord), Carries s false q w ∧ bits w.w1 35 34 = 0 ∧ bits w.w1 63 48 = 0 ∧ bits w.w1 47 36 ≠ 0 ∧
      ¬ InBody q q.next (bits w.w1 47 36)) ∧
    ∃ (s : State) (q : Seq) (w : CmdWord), Carries s false q w ∧ bits w.w1 35 34 = 0 ∧ bits w.w1 63 48 = 0 ∧ bits w.w1 47 36 ≠ 0 ∧
      ∃ l ∈ q.loops, l.idx = bits w.w1 33 32 := by
  refine ⟨fun n hn => ?_, ⟨_, seqIn _, ⟨0x1000000021#64, 0x3000000001#64, 1, 2⟩, carries_of _ _ rfl rfl, by decide +kernel, by decide +kernel,
      by decide +kernel, not_inBody_in _ _ _ (by decide +kernel)⟩,
    _, seqIn _, ⟨0x1000000021#64, 0x1100000001#64, 1, 2⟩, carries_of _ _ rfl rfl, by decide +kernel, by decide +kernel, by decide +kernel,
    by decide +kernel⟩
  rcases hn with rfl | rfl
  · exact ⟨_, seqIn _, ⟨0x1000000021#64, 0x2000000000#64, 1, 2⟩, carries_of _ _ rfl rfl, by decide +kernel, by decide +kernel,
      by decide +kernel, inBody_in _ _ _ (by decide +kernel), by decide +kernel, by decide, by decide +kernel⟩
  · exact ⟨_, seqIn _, ⟨0x1000000021#64, 0x12FFFFFFFF#64, 1, 2⟩, carries_of _ _ rfl rfl, by decide +kernel, by decide +kernel,
      by decide +kernel, inBody_in _ _ _ (by decide +kernel), by decide +kernel, by decide, by decide +kernel⟩

theorem witness_Sequencers :
    (∀ n : Nat, n = 0 ∨ n = 1 → ∃ (s : State) (q : Seq) (w : CmdWord), Carries s false q w ∧ bits w.w1 63 2 = 0 ∧ w.w2 = 0#64 ∧
      w.w3 = 0#64 ∧ q.owed = n) ∧
    (∀ n : Nat, n = 0 ∨ n = 1 → ∃ (s : State) (q : Seq) (w : CmdWord) (f : ForkRec), Carries s false q w ∧ w.w1 = 0#64 ∧ w.w2 = 0#64 ∧
      w.w3 = 0#64 ∧ q.owed = n ∧ (s.slot q.sid).fork = some f ∧ (s.slot q.sid).gen = q.gen) ∧
    (∀ n : Nat, n = 2 ∨ n = 3 → ∃ (s : State) (q : Seq) (w : CmdWord) (f : ForkRec), Carries s false q w ∧ bits w.w1 63 3 = 0 ∧
      bits w.w2 63 32 = 0 ∧ w.w3 = 0#64 ∧ (s.slot q.sid).fork = some f ∧ getAt 0 f.sigs (bits w.w1 1 0) = 2 ∧ bits w.w2 31 0 = n) ∧
    (∀ n : Nat, n = 0 ∨ n = 1 → ∃ (s : State) (q : Seq) (w : CmdWord) (f : ForkRec), Carries s false q w ∧ bits w.w1 63 2 = 0 ∧
      w.w2 = 0#64 ∧ w.w3 = 0#64 ∧ q.owed = n ∧ (s.slot q.sid).fork = some f ∧ bits w.w1 1 0 = 3) ∧
    (∃ (s : State) (cell core : Nat) (cp : Bool) (q : Seq) (n : Nat) (f : ForkRec), s.seqOf (4 * cell + core) cp = some q ∧
      q.ending = some n ∧ q.word = none ∧ q.owed = 0 ∧ clockStop (s.cell cell) = none ∧ (s.slot q.sid).gen = q.gen ∧
      (s.slot q.sid).isLive = true ∧ (s.slot q.sid).fork = some f) ∧
    ∃ (s : State) (q : Seq) (w : CmdWord) (i : Instr), Carries s false q w ∧ seqWrong i w := by
  refine ⟨fun n hn => ?_, fun n hn => ?_, fun n hn => ?_, fun n hn => ?_,
    ⟨sequenced (seqOf0 none (some 2) 0), 0, 0, false, seqOf0 none (some 2) 0, 2, fork0, by and_intros <;> decide +kernel⟩,
    _, _, ⟨0x1000000020#64, 0x100000000#64, 0, 0⟩, .seqJmp _, carries0 _ 0 rfl, .inl ⟨rfl, .inl (by decide +kernel)⟩⟩
  · rcases hn with rfl | rfl
    · exact ⟨_, _, ⟨0x1000000022#64, 3#64, 0, 0⟩, carries0 _ 0 rfl, by decide +kernel, rfl, rfl, rfl⟩
    · exact ⟨_, _, ⟨0x1000000022#64, 0, 0, 0⟩, carries0 _ 1 rfl, by decide +kernel, rfl, rfl, rfl⟩
  · rcases hn with rfl | rfl
    · exact ⟨_, _, ⟨0x1000000024#64, 0, 0, 0⟩, fork0, carries0 _ 0 rfl, rfl, rfl, rfl, rfl, rfl, rfl⟩
    · exact ⟨_, _, ⟨0x1000000024#64, 0, 0, 0⟩, fork0, carries0 _ 1 rfl, rfl, rfl, rfl, rfl, rfl, rfl⟩
  · rcases hn with rfl | rfl
    · exact ⟨_, _, ⟨0x1000000022#64, 3#64, 2#64, 0⟩, fork0, carries0 _ 0 rfl, by decide +kernel, by decide +kernel, rfl, rfl,
        by decide +kernel, by decide +kernel⟩
    · exact ⟨_, _, ⟨0x1000000022#64, 3#64, 3#64, 0⟩, fork0, carries0 _ 0 rfl, by decide +kernel, by decide +kernel, rfl, rfl,
        by decide +kernel, by decide +kernel⟩
  · rcases hn with rfl | rfl
    · exact ⟨_, _, ⟨0x1000000023#64, 3#64, 0, 0⟩, fork0, carries0 _ 0 rfl, by decide +kernel, rfl, rfl, rfl, rfl, by decide +kernel⟩
    · exact ⟨_, _, ⟨0x1000000023#64, 3#64, 0, 0⟩, fork0, carries0 _ 1 rfl, by decide +kernel, rfl, rfl, rfl, rfl, by decide +kernel⟩

/-- The state in which a fetch reads, and what it reads. -/
def fetchBase (s : State) (cp : Bool) (q : Seq) : State := setIndex (setSeq s 0 cp (some q.turned)) 0 cp q.turned.loops
def fetched (mem : Memory) : State := { sequenced (seqOf0 none none 0) with phys := mem }

theorem mayFetch_of (mem : Memory) (w : CmdWord)
    (hj : (judgeBytes (fetchBase (fetched mem) false (seqOf0 none none 0)) 0
      (progAgent (fetchBase (fetched mem) false (seqOf0 none none 0)) 0 0 false (.sequencerFetch 0 0 false)) false false 0xC0#64 32).1 = .fine)
    (hv : (fetchBytes (judgeBytes (fetchBase (fetched mem) false (seqOf0 none none 0)) 0
      (progAgent (fetchBase (fetched mem) false (seqOf0 none none 0)) 0 0 false (.sequencerFetch 0 0 false)) false false 0xC0#64 32).2 0
      (progAgent (fetchBase (fetched mem) false (seqOf0 none none 0)) 0 0 false (.sequencerFetch 0 0 false)) [] 0xC0#64 32).1 =
        w.w0.toNat + 2 ^ 64 * w.w1.toNat)
    (hw : w = ⟨BitVec.ofNat 64 (w.w0.toNat + 2 ^ 64 * w.w1.toNat), BitVec.ofNat 64 ((w.w0.toNat + 2 ^ 64 * w.w1.toNat) / 2 ^ 64),
      BitVec.ofNat 64 ((w.w0.toNat + 2 ^ 64 * w.w1.toNat) / 2 ^ 128), BitVec.ofNat 64 ((w.w0.toNat + 2 ^ 64 * w.w1.toNat) / 2 ^ 192)⟩) :
    ∃ u, MayFetch (fetched mem) u 0 0 false (seqOf0 none none 0) w :=
  ⟨_, rfl, rfl, rfl, rfl, rfl, rfl, _, _, pair_of hj, pair_of hv, hw⟩

theorem witness_Sequencers_fetch :
    (∃ (s u : State) (cell core : Nat) (cp : Bool) (q : Seq) (w : CmdWord), core < 4 ∧ MayFetch s u cell core cp q w ∧ Cmd.queueOf w = some 2 ∧
      seqWord0Ok w = true) ∧
    ∃ (s u : State) (cell core : Nat) (cp : Bool) (q : Seq) (w : CmdWord), core < 4 ∧ MayFetch s u cell core cp q w ∧
      Cmd.queueOf w ≠ some 2 ∧ cmdOk (if cp then 1 else 0) (adjusted q.turned w) = true ∧ Cmd.noTok w = true := by
  obtain ⟨u, hu⟩ := mayFetch_of [(0xC0, 0x24#8), (0xC4, 0x10#8)] ⟨0x1000000024#64, 0, 0, 0⟩ (by decide +kernel) (by decide +kernel)
    (by decide +kernel)
  obtain ⟨v, hv⟩ := mayFetch_of [(0xC0, 0x0A#8), (0xC4, 0x10#8)] ⟨0x100000000A#64, 0, 0, 0⟩ (by decide +kernel) (by decide +kernel)
    (by decide +kernel)
  exact ⟨⟨_, u, 0, 0, false, _, _, by decide, hu, by decide +kernel, by decide +kernel⟩,
    _, v, 0, 0, false, _, _, by decide, hv, by decide +kernel, by decide +kernel, by decide +kernel⟩

/-! ### Copies -/

def copyWord (w0 w1 w2 w3 : Word) : Cmd := { word := ⟨w0, w1, w2, w3⟩, sid := 1, gen := 3#8, fc := 0, forked := false }
def copyQ (c : Cmd) : State := small.setCore 0 { Core.init with cq := [c] }
/-- What the checks of the head of the copy queue come to. -/
def headChecks (s : State) (c : Cmd) : Planned × State := checked (taken s c []) (hereCore s / 4) (newCopy s.nextId (hereCore s) c) []
/-- Their kind: 0 to 4 in flight, a bad field, nothing to do, a fault, reads first. -/
def planKind : Planned → Nat
  | .go _ => 0
  | .bad _ => 1
  | .zero => 2
  | .fault _ => 3
  | .reads _ => 4
  | _ => 5
def goSerial : Planned → Nat
  | .go r => r.serial
  | _ => 0

/-- A copy of cell 0 that the checks have begun with, and its job. -/
def planning (c : Cmd) : CopyRun := newCopy 7 0 c
def planJob (fail : Option Nat) : PortJob :=
  { id := 9, cell := 0, turn := .event (.copyChunk 0 7 0), serial := some 7, got := [(0, 64)], fail := fail }

theorem witness_CopyCommands :
    (∀ k < 5, ∃ (s : State) (c : Cmd) (i : Instr), CopyHead s c [] ∧ isCopyCmd i c.word ∧
      planKind (headChecks s c).1 = k ∧
      (k = 0 → goSerial (headChecks s c).1 = s.nextId ∧ ∃ q ∈ ((headChecks s c).2.cell (hereCore s / 4)).copies, q.serial = s.nextId)) ∧
    ∀ f : Option Nat, f = none ∨ f = some 5 → ∃ (s : State) (cell : Nat) (r : CopyRun) (j : PortJob), Copying s cell r ∧ r.phase = .plan ∧
      s.jobOf cell (.event (.copyChunk cell r.serial 0)) = some j ∧ jobOpen s j.id = false ∧ j.fail = f := by
  let own (w0 w3 : Word) : Cmd := copyWord w0 0xFF00000000000000#64 0xFF00000000001000#64 w3
  let c (k : Nat) : Cmd :=
    match k with
    | 0 => own 0x1000000010#64 64#64
    | 1 => own 0x1000000710#64 64#64
    | 2 => own 0x1000000010#64 0#64
    | 3 => own 0x1000008010#64 0x20000#64
    | _ => own 0x1000008010#64 0xFF00000000002000#64
  refine ⟨fun k hk => ⟨copyQ (c k), c k, .copy (c k).word, ?_⟩, fun f hf => ⟨{ small.modCell 0 (fun x => { x with copies := [planning (c 4)] }) with
      jobs := [planJob f] }, 0, planning (c 4), planJob f, ?_⟩⟩
  · refine ⟨?_, .inl rfl, ?_⟩
    · interval_cases k <;> and_intros <;> decide +kernel
    · interval_cases k <;> refine ⟨by decide +kernel, fun h => ?_⟩ <;> first | exact absurd h (by decide) | decide +kernel
  · rcases hf with rfl | rfl <;> and_intros <;> decide +kernel

/-- A running copy of n bytes of cell 0, numbered 7. -/
def moving (w0 src dst : Word) (n : Nat) : CopyRun :=
  { newCopy 7 0 (copyWord w0 src dst (BitVec.ofNat 64 n)) with
    phase := .running, geom := Geom.inline (BitVec.ofNat 64 n), chunks := (n + 4095) / 4096 }
def running (n : Nat) (dst : Word) : CopyRun := moving 0x1000000010#64 0xFF00000000000000#64 dst n
def copying (r : CopyRun) : State := small.modCell 0 (fun c => { c with copies := [r] })
/-- The same with a page table whose first page is yet to be brought. -/
def demanding (r : CopyRun) : State := { copying r with phys := Memory.writeN (Memory.writeN [] 0x10000 8 0x20001) 0x20000 8 2 }
/-- The same with a job of chunk 0 whose units are served. -/
def served (w : Bool) (f : Option Nat) : PortJob :=
  { id := 9, cell := 0, turn := .event (.copyChunk 0 7 0), serial := some 7, writing := w, got := [(0x7F8000000000000040, 7)], fail := f }
def copyingWith (r : CopyRun) (w : Bool) (f : Option Nat) : State := { copying r with jobs := [served w f] }

theorem plainCopy_of {r : CopyRun} (h1 : r.phase = .running ∧ Cp.peerOn r.geom.attr = false ∧ Cp.isRed r.cmd.word = false)
    (h2 : Cp.isMc r.cmd.word = false ∧ r.ring = none ∧ opc r.cmd.word ≠ 0x19 ∧ r.fail = none ∧ r.acks = [] ∧ r.owed = [] ∧ r.parked = []) :
    PlainCopy r := ⟨h1.1, h1.2.1, h1.2.2, h2⟩

theorem witness_CopyChunks_judged :
    (∃ (s u : State) (cell : Nat) (r : CopyRun), MayRun s cell r r.next ∧ s.jobOf cell (.event (.copyChunk cell r.serial r.next)) = none ∧
      chunkReads s cell r r.next ≠ [] ∧ chunkJudged cell r r.next (setCopy s cell r) = (.fine, u)) ∧
    (∃ (s u : State) (cell code : Nat) (r : CopyRun), MayRun s cell r r.next ∧ s.jobOf cell (.event (.copyChunk cell r.serial r.next)) = none ∧
      chunkJudged cell r r.next (setCopy s cell r) = (.bad code, u) ∧ u.copyOf cell r.serial = some r ∧ copyWorks u cell r = false) ∧
    ∃ (s u : State) (cell : Nat) (r : CopyRun), MayRun s cell r r.next ∧ s.jobOf cell (.event (.copyChunk cell r.serial r.next)) = none ∧
      chunkJudged cell r r.next (setCopy s cell r) = (.parked, u) ∧ u.copyOf cell r.serial = some r ∧ r.next + 1 < r.chunks := by
  have may : ∀ r : CopyRun, r = running 64 0xFF00000000010000#64 ∨ r = running 64 0xFF01000000200000#64 → MayRun (copying r) 0 r r.next := by
    rintro r (rfl | rfl) <;> exact ⟨by and_intros <;> decide +kernel,
      plainCopy_of (by and_intros <;> decide +kernel) (by and_intros <;> decide +kernel), by decide +kernel, by decide +kernel, by decide +kernel⟩
  refine ⟨⟨_, _, 0, _, may _ (.inl rfl), by decide +kernel, by decide +kernel, pair_of (by decide +kernel)⟩,
    ⟨_, _, 0, 7, _, may _ (.inr rfl), by decide +kernel, pair_of (by decide +kernel), by decide +kernel, by decide +kernel⟩,
    demanding (moving 0x1000000010#64 0x20000#64 0x800#64 4097), _, 0, moving 0x1000000010#64 0x20000#64 0x800#64 4097,
    ⟨by and_intros <;> decide +kernel, plainCopy_of (by and_intros <;> decide +kernel) (by and_intros <;> decide +kernel), by decide +kernel,
      by decide +kernel, by decide +kernel⟩, by decide +kernel, pair_of (by decide +kernel), by decide +kernel, by decide +kernel⟩

/-- Copies whose next chunk moves: from memory into the own cell, from memory to memory in two chunks and in one, a fill of memory;
and from the own cell to memory, with what its job has read. -/
def readyRun (k : Nat) : CopyRun :=
  match k with
  | 0 => moving 0x1000000010#64 0x800#64 0xFF00000000010000#64 64
  | 1 => moving 0x1000000010#64 0x800#64 0x4000#64 4097
  | 2 => moving 0x1000000010#64 0x800#64 0x4000#64 64
  | 3 => moving 0x1000000013#64 0x5A#64 0x4000#64 64
  | _ => moving 0x1000000010#64 0xFF00000000000000#64 0x4000#64 64
def readyIn (k : Nat) : State := if k < 4 then copying (readyRun k) else copyingWith (readyRun k) false none
def readyGot (k : Nat) : FMap Nat := if k < 4 then [] else [(0x7F8000000000000040, 7)]
def readyOut (k : Nat) : State :=
  (chunkJudged 0 (readyRun k) 0 (if k < 4 then setCopy (readyIn k) 0 (readyRun k) else dropJob (setCopy (readyIn k) 0 (readyRun k)) 9)).2

theorem chunkReady_of (k : Nat) (hk : k < 5) : ChunkReady (readyIn k) (readyOut k) 0 (readyRun k) (readyGot k) := by
  refine ⟨?_, ?_, ?_⟩
  · interval_cases k <;> exact ⟨by and_intros <;> decide +kernel,
      plainCopy_of (by and_intros <;> decide +kernel) (by and_intros <;> decide +kernel), by decide +kernel, by decide +kernel, by decide +kernel⟩
  · interval_cases k <;> decide +kernel
  · interval_cases k
    · exact .inl ⟨rfl, by decide +kernel, by decide +kernel, pair_of (by decide +kernel)⟩
    · exact .inl ⟨rfl, by decide +kernel, by decide +kernel, pair_of (by decide +kernel)⟩
    · exact .inl ⟨rfl, by decide +kernel, by decide +kernel, pair_of (by decide +kernel)⟩
    · exact .inl ⟨rfl, by decide +kernel, by decide +kernel, pair_of (by decide +kernel)⟩
    exact .inr ⟨served false none, by decide +kernel, by decide +kernel, rfl, rfl, rfl, pair_of (by decide +kernel)⟩

theorem witness_CopyChunks :
    (∀ k : Nat, k < 3 → ∃ (s u : State) (cell : Nat) (r : CopyRun) (got : FMap Nat), ChunkReady s u cell r got ∧
      let m := moveSegs u cell (issuing u cell r) (.event (.copyChunk cell r.serial r.next)) got none (chunkSegs r.cmd.word r.geom r.next)
      (m.1 = [] ↔ k ≠ 0) ∧ (r.next + 1 < r.chunks ↔ k = 1) ∧ copyWorks u cell r = false) ∧
    (∀ f : Option Nat, f = none ∨ f = some 5 → ∃ (s : State) (cell n : Nat) (r : CopyRun) (j : PortJob), MayRun s cell r n ∧
      TurnServed s cell (.event (.copyChunk cell r.serial n)) true f j ∧ copyWorks (dropJob s j.id) cell r = false ∧ r.next = r.chunks) ∧
    (∀ k : Nat, k = 0 ∨ k = 2 ∨ k = 3 ∨ k = 4 → ∃ (s u x : State) (cell V : Nat) (r : CopyRun) (got : FMap Nat) (q : Seg),
      ChunkReady s u cell r got ∧ chunkSegs r.cmd.word r.geom r.next = [q] ∧ Cp.xf r.cmd.word ≠ 1 ∧
      segBytes u cell (portAgent u cell false (.event (.copyChunk cell r.serial r.next))) (issuing u cell r) got q none = (V, x) ∧
      let dst := r.cmd.word.w2 + BitVec.ofInt 64 q.off
      (k = 0 → spaceOf x cell dst ≠ .lower ∧ ∃ p, spotsOf x cell dst q.nd = [p]) ∧
      (k ≠ 0 → spaceOf x cell dst = .lower ∧ 0 < q.nd ∧ dst.toNat % 65536 + q.nd ≤ 65536 ∧ Memory.wf x.phys = true ∧
        ∃ pa y, translate x (u.partN cell) (dieOf cell) (u.casid cell) dst.toNat false true false = (.ok pa 0 0, y) ∧ pa % 128 + q.nd ≤ 128 ∧
          homeDie y pa = dieOf cell ∧ decrypts y (pa / 128) 0 = true ∧ Memory.wf y.phys = true) ∧
      (k = 3 ↔ Cp.isFill r.cmd.word = true) ∧
      (k = 4 → ∃ p, spotsOf u cell q.src q.ns = [p] ∧ bytesBefore [p] = q.ns ∧ ∃ b, FMap.find? got p.key = some b ∧ b < 2 ^ (8 * p.n)) ∧
      (k < 3 → spaceOf u cell q.src = .lower ∧ 0 < q.ns ∧ q.src.toNat % 65536 + q.ns ≤ 65536 ∧ u.replicas = [] ∧ u.forwards = [] ∧
        ∃ pa y, translate u (u.partN cell) (dieOf cell) (u.casid cell) q.src.toNat true false false = (.ok pa 0 0, y) ∧
          pa % 128 + q.ns ≤ 128 ∧ y.replicas = [] ∧ y.forwards = [] ∧ decrypts y (pa / 128) 0 = true)) := by
  refine ⟨fun k hk => ⟨_, _, 0, _, _, chunkReady_of k (by omega), ?_⟩, fun f hf => ?_, fun k hk => ?_⟩
  · interval_cases k <;> decide +kernel
  · let r : CopyRun := { readyRun 0 with next := 1 }
    refine ⟨copyingWith r true f, 0, 0, r, served true f, ?_, ?_, ?_, rfl⟩
    · rcases hf with rfl | rfl <;> exact ⟨by and_intros <;> decide +kernel,
        plainCopy_of (by and_intros <;> decide +kernel) (by and_intros <;> decide +kernel), by decide +kernel, by decide +kernel, by decide +kernel⟩
    · rcases hf with rfl | rfl <;> and_intros <;> decide +kernel
    · rcases hf with rfl | rfl <;> decide +kernel
  · have hk' : k < 5 := by omega
    have hs : ∃ q, chunkSegs (readyRun k).cmd.word (readyRun k).geom (readyRun k).next = [q] := by
      rcases hk with rfl | rfl | rfl | rfl <;> exact ⟨_, rfl⟩
    obtain ⟨q, hq⟩ := hs
    refine ⟨_, _, _, 0, _, _, _, q, chunkReady_of k hk', hq, ?_, rfl, ?_⟩
    · rcases hk with rfl | rfl | rfl | rfl <;> decide +kernel
    · obtain rfl := List.singleton_inj.mp (hq.symm.trans (show _ = [((chunkSegs (readyRun k).cmd.word (readyRun k).geom (readyRun k).next).headD ⟨0, 0, 0, 0, 0⟩)] by
        rw [hq]; rfl))
      rcases hk with rfl | rfl | rfl | rfl
      · refine ⟨fun _ => ⟨by decide +kernel, _, rfl⟩, fun h => absurd rfl h, by decide +kernel, fun h => absurd h (by decide), fun _ => ⟨?_, ?_, ?_, ?_, ?_, 0x800, _, pair_of ?_, ?_⟩⟩ <;>
          decide +kernel
      · refine ⟨fun h => absurd h (by decide), fun _ => ⟨?_, ?_, ?_, ?_, 0x4000, _, pair_of ?_, ?_⟩, by decide +kernel,
          fun h => absurd h (by decide), fun _ => ⟨?_, ?_, ?_, ?_, ?_, 0x800, _, pair_of ?_, ?_⟩⟩ <;> decide +kernel
      · refine ⟨fun h => absurd h (by decide), fun _ => ⟨?_, ?_, ?_, ?_, 0x4000, _, pair_of ?_, ?_⟩, by decide +kernel,
          fun h => absurd h (by decide), fun h => absurd h (by decide)⟩ <;> decide +kernel
      · refine ⟨fun h => absurd h (by decide), fun _ => ⟨?_, ?_, ?_, ?_, 0x4000, _, pair_of ?_, ?_⟩, by decide +kernel,
          fun _ => ⟨_, rfl, ?_, 7, ?_⟩, fun h => absurd h (by decide)⟩ <;> decide +kernel

theorem witness_RingAppends :
    (∃ (s : State) (cell : Nat) (r : CopyRun), Copying s cell r ∧ r.phase = .reserve ∧
      appendBehind (s.cell cell) r (bits r.geom.attr 35 32) = false ∧
      Ring.cnt (Ring.word (s.cell cell) (bits r.geom.attr 35 32)) + ((s.cell cell).ringOf (bits r.geom.attr 35 32)).reserved +
        appendSlots (s.cell cell) r.cmd.word r.geom ≤ Ring.nslots (Ring.word (s.cell cell) (bits r.geom.attr 35 32))) ∧
    (∃ (s : State) (cell n : Nat) (r : CopyRun) (z : RingRun), Copying s cell r ∧ r.phase = .running ∧ r.ring = some z ∧ r.next < r.chunks ∧
      (n, false) ∉ r.landings ∧ slotOf (s.cell cell) z n =
        (Ring.head (Ring.word (s.cell cell) z.q) + Ring.cnt (Ring.word (s.cell cell) z.q)) % Ring.nslots (Ring.word (s.cell cell) z.q) ∧
      ((s.cell cell).ringOf z.q).reserved ≠ 0 ∧ FMap.find? ((s.cell cell).ringOf z.q).scaleLanded (slotOf (s.cell cell) z n) ≠ none ∧
      Ring.cnt (Ring.word (s.cell cell) z.q) + ((s.cell cell).ringOf z.q).reserved ≤ Ring.nslots (Ring.word (s.cell cell) z.q)) ∧
    (∃ (s : State) (cell n : Nat) (r : CopyRun) (z : RingRun), Copying s cell r ∧ r.phase = .running ∧ r.ring = some z ∧ r.next < r.chunks ∧
      (n, true) ∉ r.landings ∧ r.cmd.word.w2 = 0#64 ∧ s.jobOf cell (.event (.ringLanding cell r.serial n true)) = none ∧
      entryErr s cell (Ring.strip (s.cell cell) z.q (slotOf (s.cell cell) z n) % localSize) = false) ∧
    ∃ (s : State) (cell n : Nat) (r : CopyRun) (z : RingRun) (j : PortJob), Copying s cell r ∧ r.phase = .running ∧ r.ring = some z ∧
      r.next < r.chunks ∧ (n, true) ∉ r.landings ∧ r.cmd.word.w2 = 0#64 ∧ TurnServed s cell (.event (.ringLanding cell r.serial n true)) true none j ∧
      slotOf (s.cell cell) z n =
        (Ring.head (Ring.word (s.cell cell) z.q) + Ring.cnt (Ring.word (s.cell cell) z.q)) % Ring.nslots (Ring.word (s.cell cell) z.q) ∧
      ((s.cell cell).ringOf z.q).reserved ≠ 0 ∧ FMap.find? ((s.cell cell).ringOf z.q).dataLanded (slotOf (s.cell cell) z n) ≠ none ∧
      Ring.cnt (Ring.word (s.cell cell) z.q) + ((s.cell cell).ringOf z.q).reserved ≤ Ring.nslots (Ring.word (s.cell cell) z.q) := by
  let j : PortJob := { served true none with turn := .event (.ringLanding 0 7 0 true) }
  let z : RingRun := { q := 15, first := 0, seq := 255, k := 2 }
  let geom : Geom := Geom.inline 0xF00000800#64
  let r0 : CopyRun := { newCopy 7 0 (copyWord 0x1000002010#64 0xFF00000000000000#64 0#64 0xF00000800#64) with geom := geom, phase := .reserve }
  let r1 : CopyRun := { r0 with phase := .running, ring := some z, chunks := 1 }
  let ring (s : State) (h : RingHidden) : State := s.modCell 0 (fun c => { c with q := [(15, 0x0000000000000800#64)], rings := [(15, h)] })
  refine ⟨⟨ring (copying r0) RingHidden.init, 0, r0, ?_⟩,
    ⟨ring (copying r1) { RingHidden.init with reserved := 2, scaleLanded := [(0, 255#8)] }, 0, 0, r1, z, ?_⟩,
    ⟨ring (copying r1) { RingHidden.init with reserved := 2 }, 0, 1, r1, z, ?_⟩,
    { ring (copying r1) { RingHidden.init with reserved := 2, dataLanded := [(0, 255#8)] } with jobs := [j] }, 0, 0, r1, z, j, ?_⟩ <;> and_intros <;> decide +kernel

/-- A reducing copy of 512 bytes of F32 values from the cell, whose one piece is owed. -/
def reducingTo (dst attr : Word) : CopyRun :=
  { newCopy 7 0 (copyWord 0x1000001811#64 0xFF00000000000000#64 dst attr) with
    phase := .running, geom := Geom.inline attr, chunks := 1 }
def reducing (attr : Word) : CopyRun := reducingTo 0xFF00000000010000#64 attr

/-- A piece of a reducing chunk that is owed, and what it reads and is judged by. -/
def PieceOwed (s : State) (cell : Nat) (r : CopyRun) (n k : Nat) : Prop :=
  Copying s cell r ∧ (n, k) ∉ r.applied ∧ (n, k) ∈ r.owed ∧ r.next < r.chunks ∧
    replayFull s cell (.event (.reducePieceApply cell r.serial n k)) = false
def pieceReads (s : State) (cell : Nat) (r : CopyRun) (n k : Nat) : List Spot :=
  (pieceSegs s cell r n k).flatMap (fun q => spotsOf s cell q.src q.ns)
def pieceJudged (cell : Nat) (r : CopyRun) (n k : Nat) (v : State) : Judged × State :=
  judgeSegs v cell r (.event (.reducePieceApply cell r.serial n k)) true true (pieceSegs v cell r n k)

/-- A full instance of column 0 of die 0 whose first contributor is copy 7 of cell 0; the step that writes its result, and what is left
to write. -/
def collTurn : Turn := .event (.collResultWrite 0 0 63)
def collAgent (s : State) : Agent := { portAgent s 0 true collTurn with who := 0 }
def CollEnds (s : State) (c : Coll) : Prop :=
  s.colls.filter (fun c => c.die = 0 && c.col = 0 && c.rid = 63 && c.parts.length = c.n) = [c] ∧
    c.parts.find? (fun q => q.1 = 0) = some (0, (0, 7), [0#32]) ∧ clockStop (s.cell 0) = none
def collLeft (c : Coll) : List (Word × Nat) :=
  ((List.range c.count).map (fun m => (c.dst + BitVec.ofNat 64 (4 * m), getAt 0 (collResult c).1 m))).drop c.written

def coll0 (n : Nat) (parts : List (Nat × (Nat × Nat) × List (BitVec 32))) : Coll :=
  { part := 0, die := 0, col := 0, rid := 63, n := n, count := 1, dst := 0xFF00000000010000#64, written := 0, parts := parts }
def waiting (w3 : Word) : CopyRun :=
  { newCopy 7 0 (copyWord 0x1000000216#64 0xFF00000000000000#64 0xFF00000000010000#64 w3) with phase := .waiting, chunks := 1, contrib := [0#32] }

theorem witness_Reductions :
    (∃ (s : State) (cell n k : Nat) (r : CopyRun), s.copyOf cell r.serial = some r ∧ (n, k) ∈ r.applied) ∧
    (∃ (s u : State) (cell : Nat) (r : CopyRun), PieceOwed s cell r 0 0 ∧ s.jobOf cell (.event (.reducePieceApply cell r.serial 0 0)) = none ∧
      pieceReads s cell r 0 0 ≠ [] ∧ pieceJudged cell r 0 0 s = (.fine, u)) ∧
    (∀ local_ : Bool, ∃ (s u : State) (cell : Nat) (r : CopyRun) (got : FMap Nat), PieceOwed s cell r 0 0 ∧
      TurnReady s cell (.event (.reducePieceApply cell r.serial 0 0)) (pieceReads s cell r 0 0) (pieceJudged cell r 0 0) u got ∧
      u.copyOf cell r.serial = some r ∧
      ((moveSegs u cell r (.event (.reducePieceApply cell r.serial 0 0)) got none (pieceSegs s cell r 0 0)).1 ≠ [] ↔ local_ = true)) ∧
    (∃ (s : State) (cell : Nat) (r : CopyRun) (j : PortJob), PieceOwed s cell r 0 0 ∧
      TurnServed s cell (.event (.reducePieceApply cell r.serial 0 0)) true none j) ∧
    (∃ (s : State) (cell : Nat) (r : CopyRun), Copying s cell r ∧ r.phase = .waiting ∧ opc r.cmd.word = 0x16 ∧
      s.colls.find? (collMatch s cell r.cmd.word) = none ∧ bits r.cmd.word.w3 19 16 ≤ bits r.cmd.word.w3 23 20) ∧
    (∃ (s : State) (cell : Nat) (r : CopyRun) (c : Coll), Copying s cell r ∧ r.phase = .waiting ∧ opc r.cmd.word = 0x16 ∧
      s.colls.find? (collMatch s cell r.cmd.word) = some c ∧ (∀ q ∈ c.parts, q.1 ≠ bits r.cmd.word.w3 19 16) ∧ c.parts.length ≠ c.n ∧
      c.dst = r.cmd.word.w2 ∧ c.count = bits r.cmd.word.w3 9 0 ∧ c.n = bits r.cmd.word.w3 23 20 + 1 ∧ bits r.cmd.word.w3 19 16 < c.n) ∧
    (∃ (s u : State) (k : Nat) (c : Coll), CollEnds s c ∧ regionOf s 0 c.dst = .lower ∧ replayFull s 0 collTurn = false ∧
      writeResult 0 (collAgent s) (collLeft c) 0 s = (.fine, k, u)) ∧
    (∃ (s u : State) (c : Coll) (e : Word × Nat) (es : List (Word × Nat)), CollEnds s c ∧ regionOf s 0 c.dst ≠ .lower ∧
      s.jobOf 0 collTurn = none ∧ collLeft c = e :: es ∧
      judgeRun s 0 (collAgent s) true false (((s.copyOf 0 7).map (·.owe)).getD []) e.1 4 .fine = (.fine, u) ∧
      (elemsFine 0 (collAgent s) (((s.copyOf 0 7).map (·.owe)).getD []) (collLeft c) u).flatMap
        (fun e => (storeBytes u 0 (collAgent s) e.1 4 e.2).1) ≠ []) ∧
    ∃ (s : State) (c : Coll) (j : PortJob), CollEnds s c ∧ regionOf s 0 c.dst ≠ .lower ∧ TurnServed s 0 collTurn true none j ∧
      c.written = c.count ∧ s.colls.find? (sameColl c) = some c := by
  let a : CopyRun := { reducing 0x80#64 with applied := [(0, 0)] }
  let b : CopyRun := { reducing 0x80#64 with owed := [(0, 0)] }
  let low : CopyRun := { reducingTo 0x4000#64 0x80#64 with owed := [(0, 0)] }
  let pj (w : Bool) : PortJob := { served w none with turn := .event (.reducePieceApply 0 7 0 0) }
  let full : Coll := coll0 2 [(1, (0, 7), [0#32]), (0, (0, 7), [0#32])]
  let lowFull : Coll := { full with dst := 0x4000#64 }
  let cj : PortJob := { served true none with turn := collTurn }
  refine ⟨⟨copying a, 0, 0, 0, a, by and_intros <;> decide +kernel⟩,
    ⟨copying b, _, 0, b, by and_intros <;> decide +kernel, by decide +kernel, by decide +kernel, pair_of (by decide +kernel)⟩,
    fun local_ => ?_, ⟨{ copying b with jobs := [pj true] }, 0, b, pj true, by and_intros <;> decide +kernel, by and_intros <;> decide +kernel⟩,
    ⟨copying (waiting 0xFFFC01#64), 0, waiting 0xFFFC01#64, by and_intros <;> decide +kernel⟩,
    ⟨{ copying (waiting 0xFEFC01#64) with colls := [coll0 16 [(0, (0, 6), [0#32])]] }, 0, waiting 0xFEFC01#64,
      coll0 16 [(0, (0, 6), [0#32])], by and_intros <;> decide +kernel⟩,
    ⟨{ copying (waiting 0x11FC01#64) with colls := [lowFull] }, _, 1, lowFull, by and_intros <;> decide +kernel, by decide +kernel,
      by decide +kernel, triple_of (by decide +kernel) (by decide +kernel)⟩,
    ⟨{ copying (waiting 0x11FC01#64) with colls := [full] }, _, full, _, _, by and_intros <;> decide +kernel, by decide +kernel,
      by decide +kernel, rfl, pair_of (by decide +kernel), by decide +kernel⟩,
    { copying (waiting 0x11FC01#64) with colls := [{ full with written := 1 }], jobs := [cj] }, { full with written := 1 }, cj,
    by and_intros <;> decide +kernel, by decide +kernel, by and_intros <;> decide +kernel, rfl, by decide +kernel⟩
  cases local_
  · exact ⟨{ copying low with jobs := [pj false] }, _, 0, low, _, by and_intros <;> decide +kernel,
      .inr ⟨pj false, by decide +kernel, by decide +kernel, rfl, rfl, rfl, pair_of (by decide +kernel)⟩, by decide +kernel, by decide +kernel⟩
  · exact ⟨{ copying b with jobs := [pj false] }, _, 0, b, _, by and_intros <;> decide +kernel,
      .inr ⟨pj false, by decide +kernel, by decide +kernel, rfl, rfl, rfl, pair_of (by decide +kernel)⟩, by decide +kernel, by decide +kernel⟩

/-- A copy to a peer whose chunk 0 awaits its acknowledgement. -/
def sending (tries : Nat) : CopyRun :=
  { running 64 0x800#64 with geom := Geom.inline 0x200000000000040#64, acks := [0], next := 0, attempts := if tries = 0 then [] else [(0, tries)] }

/-- A copy from memory to a peer whose chunk 0 is yet to go. -/
def toPeer0 : CopyRun := { moving 0x1000000010#64 0x800#64 0x800#64 64 with geom := Geom.inline 0x200000000000040#64 }

/-- Entry 255 of the peer table admits the peer at address 1, port 2, partition 15; a chunk from it has been applied. -/
def peered : State :=
  { (((small.setReg 0x40151FE0 0x8000000000000000#64).setReg 0x40151FE8 1#64).setReg 0x40151FF8 0xF0002#64) with peerSeen := [((1, 2, 3, 4), 0x10#5)] }

theorem witness_PeerTransport :
    (∃ (s : State) (cell n : Nat) (r : CopyRun), s.copyOf cell r.serial = some r ∧ n ∈ r.acks ∧ r.next < r.chunks ∧ fromPeer r = false ∧
      answerOpen s cell r.serial n (.later (.peerAck cell r.serial n 0#64 [])) = false) ∧
    (∀ c : Word, c = 5#64 ∨ c = 0x1F08#64 → ∃ (s : State) (cell n : Nat) (r : CopyRun), s.copyOf cell r.serial = some r ∧ r.phase = .running ∧ r.acks = [n] ∧ r.parked = [] ∧
      r.owed = [] ∧ r.ring = none ∧ r.fail = none ∧ bits c 7 0 ≠ 0 ∧ copyWorks s cell r = false ∧
      answerOpen s cell r.serial n (.later (.peerAck cell r.serial n c [])) = false) ∧
    (∀ k : Nat, k = 15 ∨ k = 16 → ∃ (s : State) (cell n : Nat) (r : CopyRun), s.copyOf cell r.serial = some r ∧ n ∈ r.acks ∧
      r.phase = .running ∧ r.parked = [] ∧ r.owed = [] ∧ r.ring = none ∧ r.fail = none ∧ FMap.get 0 r.attempts n = k ∧ copyWorks s cell r = false) ∧
    (∃ (s u : State) (cell : Nat) (r : CopyRun), Copying s cell r ∧ r.phase = .running ∧ r.next < r.chunks ∧
      Cp.peerOn r.geom.attr = true ∧ Cp.isMc r.cmd.word = false ∧ opc r.cmd.word ≠ 0x19 ∧ scatBehind s cell r r.next = false ∧
      replayFull s cell (.event (.copyChunk cell r.serial r.next)) = false ∧
      TurnReady (setCopy s cell r) cell (.event (.copyChunk cell r.serial r.next)) [] (fun v => judgeSegs v cell r
        (.event (.copyChunk cell r.serial r.next)) true false (chunkSegs r.cmd.word r.geom r.next)) u [] ∧
      u.copyOf cell r.serial = some r ∧ (!Cp.isFill r.cmd.word && !fromPeer r) = true ∧
      (chunkSegs r.cmd.word r.geom r.next ++ chunkTail r.cmd.word r.geom r.next).flatMap (fun q => spotsOf s cell q.src q.ns) = []) ∧
    (∃ (s : State) (rpart n : Nat) (addr : BitVec 128) (udp : BitVec 16), admitting s addr udp rpart = some n ∧
      s.asidHi rpart < bits (s.peerWord n 3) 36 24) ∧
    (∃ (s : State) (peer src serial chunk rpart n : Nat) (addr : BitVec 128) (udp : BitVec 16) (f : FlagBits), admitting s addr udp rpart = some n ∧
      s.asidLo rpart ≤ bits (s.peerWord n 3) 36 24 ∧ bits (s.peerWord n 3) 36 24 ≤ s.asidHi rpart ∧
      s.peerSeen.find? (fun q => decide (q.1 = (peer, src, serial, chunk))) = some ((peer, src, serial, chunk), f)) ∧
    (∃ (s u : State) (peer src serial chunk rpart n : Nat) (addr : BitVec 128) (udp : BitVec 16) (va : Word) (bs : List Byte),
      admitting s addr udp rpart = some n ∧ s.asidLo rpart ≤ bits (s.peerWord n 3) 36 24 ∧
      bits (s.peerWord n 3) 36 24 ≤ s.asidHi rpart ∧
      let g := peerAgent s n rpart true (.later (.peerChunk peer src serial chunk addr udp rpart va 0 bs))
      (s.fabricOf g.die).step = none ∧ peersParked s < 32 ∧ (∀ q ∈ s.peerSeen, q.1 ≠ (peer, src, serial, chunk)) ∧
      peerPages g true false (bs.length / 65536 + 2) s va bs.length = (.fine, u)) ∧
    (∃ (s u t : State) (peer src serial chunk rpart red n v : Nat) (addr : BitVec 128) (udp : BitVec 16) (va : Word) (bs : List Byte),
      admitting s addr udp rpart = some n ∧ s.asidLo rpart ≤ bits (s.peerWord n 3) 36 24 ∧
      bits (s.peerWord n 3) 36 24 ≤ s.asidHi rpart ∧ 5 ≤ red ∧
      let g := peerAgent s n rpart false (.later (.peerChunk peer src serial chunk addr udp rpart va red bs))
      (s.fabricOf g.die).step = none ∧ peersParked s < 32 ∧
      peerPages g false false ((red - 5) / 65536 + 2) s va (red - 5) = (.fine, u) ∧ readVirt u g va (red - 5) = (.val v, t)) ∧
    ∃ (s : State) (rpart : Nat) (addr : BitVec 128) (udp : BitVec 16), admitting s addr udp rpart = none := by
  refine ⟨⟨copying (sending 0), 0, 0, sending 0, by and_intros <;> decide +kernel⟩,
    fun c hc => ⟨copying (sending 0), 0, 0, sending 0, ?_⟩, fun k hk => ⟨copying (sending k), 0, 0, sending k, ?_⟩,
    ⟨copying toPeer0, _, 0, toPeer0, by and_intros <;> decide +kernel, rfl, by decide +kernel, by decide +kernel, by decide +kernel,
      by decide +kernel, by decide +kernel, by decide +kernel, .inl ⟨rfl, by decide +kernel, rfl, pair_of (by decide +kernel)⟩,
      by decide +kernel, by decide +kernel, by decide +kernel⟩,
    ⟨peered.setReg 0x40151FF8 0x10F0002#64, 15, 255, 1#128, 2#16, by decide +kernel, by decide +kernel⟩,
    ⟨peered, 1, 2, 3, 4, 15, 255, 1#128, 2#16, 0x10#5, by decide +kernel, by decide +kernel, by decide +kernel, by decide +kernel⟩,
    ⟨peered, _, 1, 2, 3, 5, 15, 255, 1#128, 2#16, 0x800#64, [], by decide +kernel, by decide +kernel, by decide +kernel,
      by decide +kernel, by decide +kernel, by decide +kernel, pair_of (by decide +kernel)⟩,
    ⟨peered, _, _, 1, 2, 3, 5, 15, 5, 255, 0, 1#128, 2#16, 0x800#64, [], by decide +kernel, by decide +kernel, by decide +kernel,
      by decide, by decide +kernel, by decide +kernel, pair_of (by decide +kernel), pair_of (by decide +kernel)⟩, small, 15, 1#128, 2#16, by decide +kernel⟩
  · rcases hc with rfl | rfl <;> and_intros <;> decide +kernel
  · rcases hk with rfl | rfl <;> and_intros <;> decide +kernel

/-! ### Accesses on their way -/

/-- An access of slot 1 in flight, numbered 5. -/
def acc5 (op : MemOp) (va : Word) (dst : Option Nat) (st : Stage) : Access :=
  { id := 5, cell := 0, core := 0, src := .slot 1 3#8 0x1000#64 dst true [] op.counts, op := op, va := va, acq := false, rel := false, scope := 0
    pa := va.toNat, key := 0, pa2 := 0, key2 := 0, attr := 0, stage := st, entered := 0, poison := none }
def flying (a : Access) : State := { small with flight := [a], nextId := 6 }

/-- Frame 2047 of cell 0 of class general, so that its last words hold what is stored to them. -/
def general (s : State) : State :=
  s.modCell 0 (fun c => { c with dir := [(2047, { DirEntry.init with cls := .general })] })

theorem witness_LocalPairings : ∀ op : MemOp, op ∈ [MemOp.load 8 true, .store 8 1, .lds, .ldw, .sts 1, .fefill 1, .feempty, .feq,
      .amo .add 8 1, .cas 8 0 1] →
    ∃ (s : State) (cell pos t : Nat) (a : Access), Meets s cell pos t a ∧ a.op = op ∧ PlainAt s cell (bits a.va 20 0) a.op.size := by
  intro op hop
  have key : Meets (general (flying (acc5 op 0xFF000000001FFFF8#64 none (.wheel 0 0)))) 0 0 15
      (acc5 op 0xFF000000001FFFF8#64 none (.wheel 0 0)) := by
    refine ⟨⟨by rfl, .inl (by decide), ?_, fun h => absurd h (by decide)⟩, (fun _ _ _ h => nomatch h), rfl⟩
    fin_cases hop <;> decide +kernel
  refine ⟨_, 0, 0, 15, _, key, rfl, ?_⟩
  fin_cases hop <;> and_intros <;> decide +kernel

/-- Unit 3 of a block that starts at unit 0 of the local memory. -/
def blockOf3 (wr : Bool) : Blk :=
  { bid := 3, sid := 1, gen := 3#8, wr := wr, atomic := false, scope := 0, entered := some 4, cunit := 0, lunit := 32752, count := 4, dreg := 1,
    reservedAt := none, todo := [3], landing := 1, landed := [], snap := [], code := 0, unit := 0 }
def blockAcc (op : MemOp) : Access := { acc5 op 0xFF000000001FFCC0#64 none (.wheel 0 0) with src := .blk 0 3 3 }
def blocking (wr : Bool) (op : MemOp) : State :=
  (flying (blockAcc op)).modCore 0 (fun c => { c with blocks := [blockOf3 wr] })

theorem none_served {α : Type} {o : Option α} {P : α → Prop} (h : o = none) : ∀ a, o = some a → P a :=
  fun _ ha => nomatch h.symm.trans ha

/-- A unit of a job that stands at cell 0's copy port, for bank 12. -/
def localUnit (w : Bool) : PortUnit :=
  { portUnit 7 with spot := ⟨false, 0, 2096896, 64, 0⟩, entered := some 4, act := if w then .write 5 else .read }

theorem witness_LocalPairings_units :
    (∀ w : Bool, ∃ (s : State) (cell pos t : Nat) (u : PortUnit) (j : PortJob), ServesUnit s cell pos t u ∧
      s.jobs.find? (fun k => k.id = u.job) = some j ∧ (∀ v ∈ s.units, v.job = j.id → v.id = u.id) ∧
      localErr s cell u.spot.off u.spot.n = false ∧ u.act = (if w then .write 5 else .read) ∧ InFrame s cell u.spot.off u.spot.n ∧
      j.serial = none ∧ FMap.find? j.owe (2048 * cell + u.spot.off / 1024) = none) ∧
    ∀ wr : Bool, ∃ (s : State) (cell pos t core bid i : Nat) (a : Access) (b : Blk), ServesNow s cell pos t a ∧ a.src = .blk core bid i ∧
      a.cell = cell ∧ s.blkOf core bid = some b ∧ b.wr = wr ∧ a.op = (if wr then .load 64 false else .store 64 5) ∧
      (wholeFrames b).contains ((b.lunit + i) / 16) = false ∧ InFrame s cell (bits a.va 20 0) 64 ∧
      entryErr s cell (bits a.va 20 0) = false ∧ localErr s cell (bits a.va 20 0) 64 = false := by
  refine ⟨fun w => ?_, fun wr => ?_⟩
  · refine ⟨{ small with
      units := [localUnit w],
      jobs := [tileJob w none] }.modCell 0 (fun c => { c with dir := [(2047, { DirEntry.init with cls := .general })] }),
      0, 14, 14, localUnit w, tileJob w none, ⟨?_, by decide, ?_, ?_⟩, ?_⟩
    · cases w <;> decide +kernel
    · cases w <;> decide +kernel
    · exact none_served (by cases w <;> decide +kernel)
    · cases w <;> and_intros <;> decide +kernel
  · cases wr
    · refine ⟨general (blocking false (.store 64 5)), 0, 0, 3, 0, 3, 3, blockAcc (.store 64 5), blockOf3 false,
        ⟨by decide +kernel, .inl (by decide), by decide +kernel, fun h => absurd h (by decide)⟩, ?_⟩
      and_intros <;> decide +kernel
    · refine ⟨general (blocking true (.load 64 false)), 0, 0, 3, 0, 3, 3, blockAcc (.load 64 false), blockOf3 true,
        ⟨by decide +kernel, .inl (by decide), by decide +kernel, fun h => absurd h (by decide)⟩, ?_⟩
      and_intros <;> decide +kernel

/-- Slot 1 waits for access 5. -/
def awaiting (a : Access) : State := (flying a).modSlot 1 (fun x => { x with await := some 5, unack := 1#64 })

/-- Launch queue 7 of partition 0, enabled and DEV, 2 entries at 0x4000, filled from index 0xFFFF. -/
def lqueued : State :=
  (((({ gaffer with slots := [(0, slot0)] }.setReg 0x401901C0 0x4000#64).setReg 0x401901C8 0x31#64).setReg 0x401901D0 0xFFFF#64).setReg
    0x401901D8 0xFFFF#64)

theorem witness_AnswersAndLaunches :
    (∀ ok : Bool, ∃ (s : State) (a : Access) (cell : Nat), s.findAccess a.id = some a ∧ a.stage = .lattice cell ∧
      clockStop (s.cell cell) = none ∧ (s.fabricOf (dieOf cell)).step = none ∧ (windowRefusal (s.cell cell) (bits a.va 20 0) a.op.size a.op.rights).isNone = ok) ∧
    (∃ (s : State) (a : Access) (k d v n : Nat) (pc : Word) (e : Bool), ComesHome s a (.value v) k pc (some d) false ∧ a.op = .load n e ∧
      0 < d ∧ d < 64) ∧
    (∃ (s : State) (a : Access) (k : Nat) (pc : Word), ComesHome s a .done k pc none true ∧ homeEvent a = .acknowledgement a.id ∧
      (s.slot k).unack ≠ 0#64) ∧
    (∃ (s : State) (a : Access) (k c d : Nat) (pc v : Word) (dst : Option Nat) (counts : Bool) (r : Reply), ComesHome s a r k pc dst counts ∧
      replyTrap a r = some (c, d, v) ∧ (s.slot k).await = some a.id ∧ vecOpen s k = false) ∧
    (∃ (s : State) (k : Token), s.tokens.find? (fun t => t.id = k.id) = some k ∧ clockStop (s.cell (k.core / 4)) = none ∧ k.tok = true ∧
      k.blk = false ∧ k.copy = none ∧ 0 < k.reg ∧ (s.slot (16 * k.core + k.slot)).isLive = true ∧ (s.slot (16 * k.core + k.slot)).gen = k.gen ∧
      (s.slot (16 * k.core + k.slot)).sP k.reg = true) ∧
    ∃ (s u : State) (a b : BitVec 6) (v q : Nat), Readable (here s) a ∧ Readable (here s) b ∧ q = ((here s).sval a.toNat).toNat ∧ q < 8 ∧
      ((here s).sval b.toNat).toNat % 64 = 0 ∧ bits ((here s).sval b.toNat) 63 56 = 0 ∧ Fetches s ((here s).sval b.toNat) 64 v u ∧
      u.cur = s.cur ∧ (∀ j, u.slot j = s.slot j) ∧ Memory.wf u.phys = true ∧ part u = part s ∧
      lqEnabled u (part s) q = true ∧ lqDev u (part s) q = true ∧ released u u.cur u.nextId 4 = true ∧
      lqCount u (part s) q (lqTail u (part s) q) < lqLen u (part s) q ∧
      isBacked (lqBase u (part s) q + 64 * (lqTail u (part s) q % lqLen u (part s) q)) = true ∧
      isSystem (lqBase u (part s) q + 64 * (lqTail u (part s) q % lqLen u (part s) q)) = false := by
  let remote := acc5 (.load 8 false) 0xFF01000000200000#64 (some 63) (.lattice 1)
  let load := acc5 (.load 4 true) 0x800#64 (some 63) (.reply (.value 5))
  let store := acc5 (.store 4 7) 0x800#64 none (.reply .done)
  let bad := acc5 (.store 4 7) 0x800#64 none (.reply .machine)
  let tok : Token := { id := 0, core := 0, slot := 1, reg := 63, gen := 3#8, status := 3#64, tok := true, bar := none, blk := false, copy := none, scope := 0 }
  have home5 : ∀ (a : Access) (r : Reply) (dst : Option Nat) (c : Bool), (awaiting a).findAccess a.id = some a → a.stage = .reply r →
      clockStop ((awaiting a).cell 0) = none → a.src = .slot 1 3#8 0x1000#64 dst true [] c →
      resolveSlot (awaiting a) 1 3#8 = some 1 → ((awaiting a).slot 1).status = .live → ComesHome (awaiting a) a r 1 0x1000#64 dst c :=
    fun a r dst c h1 h2 h3 h4 h5 h6 => ⟨h1, h2, h3, rfl, ⟨1, 3#8, true, [], h4, h5⟩, h6⟩
  refine ⟨fun ok => ?_, ⟨awaiting load, load, 1, 63, 5, 4, 0x1000#64, true,
      home5 _ _ _ _ (by decide +kernel) rfl (by decide +kernel) rfl (by decide +kernel) (by decide +kernel), rfl, by decide, by decide⟩,
    ⟨awaiting store, store, 1, 0x1000#64,
      home5 _ _ _ _ (by decide +kernel) rfl (by decide +kernel) rfl (by decide +kernel) (by decide +kernel), rfl, by decide +kernel⟩,
    ⟨awaiting bad, bad, 1, 14, 0, 0x1000#64, 0x800#64, none, true, .machine,
      home5 _ _ _ _ (by decide +kernel) rfl (by decide +kernel) rfl (by decide +kernel) (by decide +kernel), rfl, by decide +kernel,
      by decide +kernel⟩,
    ⟨{ smallWith (fun x => { x with spend := 0x8000000000000000#64 }) with tokens := [tok] }, tok, by and_intros <;> decide +kernel⟩,
    ⟨lqueued, (engineRead (xlateCell lqueued 0 0x800#64 true false).2 0 0x800 64 0 0).2, 1#6, 3#6, 0, 7, by and_intros <;> decide +kernel,
      by and_intros <;> decide +kernel, by decide +kernel, by decide, by decide +kernel, by decide +kernel, ?_, by decide +kernel,
      slot_of_slots (by decide +kernel), by decide +kernel, by decide +kernel, by decide +kernel, by decide +kernel, by decide +kernel,
      by decide +kernel, by decide +kernel, by decide +kernel⟩⟩
  · cases ok
    · exact ⟨flying remote, remote, 1, by and_intros <;> decide +kernel⟩
    · exact ⟨(flying remote).modCell 1 (fun c => { c with win := [(7, 0x47FFF8000#64)] }), remote, 1, by and_intros <;> decide +kernel⟩
  · exact fetches_of (pa := 0x800) (key := 0) (attr := 0) (by decide) (by decide +kernel) (pair_of (by decide +kernel)) (by decide +kernel)
      (pair_of (by decide +kernel)) (by decide +kernel) (by and_intros <;> decide +kernel)

/-- A block of core 0 whose unit 0 waits in the commons queue, and a unit of a job that waits at cell 0's port lane. -/
def commonsBlk (wr : Bool) : Blk := { blockOf3 wr with todo := [0], snap := if wr then [(0, 5)] else [] }
def withBlk (wr : Bool) : State := small.modCore 0 (fun c => { c with blocks := [commonsBlk wr] })
def laneUnit (w : Bool) : PortUnit :=
  { portUnit 7 with spot := ⟨true, 0, 0, 64, 0⟩, entered := some 4, act := if w then .write 5 else .read }
def atLane (w : Bool) : State := { small with units := [laneUnit w], jobs := [tileJob false none] }

theorem witness_CommonsEvents :
    (∀ n : Nat, n = 0 ∨ n = Config.commonsQueue → ∃ (s : State) (a : Access) (d pos : Nat), s.findAccess a.id = some a ∧ a.stage = .crossing d pos ∧
      (s.fabricOf d).step = none ∧ (s.flight.filter (fun b => decide (b.stage = Stage.commons d pos))).length = n ∧ lowerCrosses s a = false) ∧
    (∃ (s : State) (a : Access) (d pos : Nat), s.findAccess a.id = some a ∧ a.stage = .crossing d pos ∧ (s.fabricOf d).step = none ∧
      lowerCrosses s a = true) ∧
    (∀ hole : Bool, ∃ (s : State) (d pos c : Nat) (a : Access),
      chooseService s d pos (pairedBank s d pos c).1 (pairedBank s d pos c).2 = .plain a ∧ dieOf a.cell = d ∧ copyingBank s d = none ∧
      (s.fabricOf d).step = none ∧ (placeOf s a.cell (bits a.va 47 0)).1 < 16 ∧ (placeOf s a.cell (bits a.va 47 0)).2.1 < 64 ∧
      isHole s d (placeOf s a.cell (bits a.va 47 0)).1 (placeOf s a.cell (bits a.va 47 0)).2.1 = hole) ∧
    (∃ (s : State) (d pos c : Nat) (a : Access) (n : Nat) (e : Bool),
      chooseService s d pos (pairedBank s d pos c).1 (pairedBank s d pos c).2 = .plain a ∧ a.op = .load n e ∧
      dieOf a.cell = d ∧ copyingBank s d = none ∧ (s.fabricOf d).step = none ∧ (placeOf s a.cell (bits a.va 47 0)).1 < 16 ∧
      (placeOf s a.cell (bits a.va 47 0)).2.1 < 64 ∧ isHole s d (placeOf s a.cell (bits a.va 47 0)).1 (placeOf s a.cell (bits a.va 47 0)).2.1 = false ∧
      commonsErr s d (placeOf s a.cell (bits a.va 47 0)) (bits a.va 47 0 % 64) n = false) ∧
    (∃ (s : State) (d pos c : Nat) (a : Access) (n v : Nat),
      chooseService s d pos (pairedBank s d pos c).1 (pairedBank s d pos c).2 = .plain a ∧ a.op = .store n v ∧
      dieOf a.cell = d ∧ copyingBank s d = none ∧ (s.fabricOf d).step = none ∧ (placeOf s a.cell (bits a.va 47 0)).1 < 16 ∧
      (placeOf s a.cell (bits a.va 47 0)).2.1 < 64 ∧ isHole s d (placeOf s a.cell (bits a.va 47 0)).1 (placeOf s a.cell (bits a.va 47 0)).2.1 = false ∧
      remapState s d (placeOf s a.cell (bits a.va 47 0)).1 (placeOf s a.cell (bits a.va 47 0)).2.1 = 0 ∧ Memory.wf (s.commonsOf d) = true) ∧
    (∀ wr : Bool, ∃ (s : State) (d pos c i v : Nat) (b : Blk),
      chooseService s d pos (pairedBank s d pos c).1 (pairedBank s d pos c).2 = .unit b i ∧
      s.blkOf (960 * d + pos) b.bid = some b ∧ b.atomic = false ∧ copyingBank s d = none ∧ (s.fabricOf d).step = none ∧
      PlaceServes s d (blkPlace s (960 * d + pos) b i) ∧ b.wr = wr ∧ (wr = true → FMap.find? b.snap i = some v) ∧
      (∀ a ∈ s.flight, a.src = .blk (960 * d + pos) b.bid i → a.op.isLoad = false) ∧
      commonsErr s d (blkPlace s (960 * d + pos) b i) 0 64 = false) ∧
    (∀ w : Bool, ∃ (s : State) (d pos c : Nat) (u : PortUnit) (j : PortJob),
      chooseService s d pos (pairedBank s d pos c).1 (pairedBank s d pos c).2 = .lane u ∧ s.jobs.find? (fun k => k.id = u.job) = some j ∧
      copyingBank s d = none ∧ (s.fabricOf d).step = none ∧ PlaceServes s d (commonsPlace s (s.partN u.spot.cell) d u.spot.off) ∧
      u.act = (if w then .write 5 else .read) ∧
      commonsErr s d (commonsPlace s (s.partN u.spot.cell) d u.spot.off) (u.spot.off % 64) u.spot.n = false) ∧
    (∃ (s : State) (d pos c : Nat), chooseService s d pos (pairedBank s d pos c).1 (pairedBank s d pos c).2 = .nothing ∧
      copyingBank s d ≠ some (pairedBank s d pos c) ∧ (s.fabricOf d).step = none) ∧
    (∃ (s : State) (d f : Nat), s.fcyc d < f) ∧
    ∀ sw late : Bool, ∃ (s : State) (d f : Nat), f ≤ s.fcyc d ∧ isBoundary s d f = true ∧ atomicCores s d = [] ∧ copyingBank s d = none ∧
      (∀ h ∈ s.holes, h.1 ≠ d) ∧ (s.reg (dieBase d + 0x2000)).getLsbD 2 = sw ∧
      (late = false → ∀ k, FMap.find? s.swapAt d = some k → k ≤ f) ∧ (late = true → ∃ k, FMap.find? s.swapAt d = some k ∧ f < k) := by
  let at_ (op : MemOp) (st : Stage) : Access := acc5 op 0xFF02000000000038#64 none st
  let load := at_ (.load 8 false) (.commons 0 0)
  let store := at_ (.store 8 1) (.commons 0 0)
  let cross := at_ (.load 8 false) (.crossing 0 0)
  let other : Access := { load with id := 4 }
  let below : Access := { cross with id := 4, src := .vec 0 9 0 0 }
  let above : Access := { cross with src := .vec 0 9 1 0 }
  refine ⟨fun n hn => ?_, ⟨{ flying above with flight := [below, above] }, above, 0, 0, by and_intros <;> decide +kernel⟩,
    fun hole => ?_, ⟨flying load, 0, 0, 0, load, 8, false, by and_intros <;> decide +kernel⟩,
    ⟨flying store, 0, 0, 0, store, 8, 1, by and_intros <;> decide +kernel⟩, fun wr => ?_, fun w => ?_, ⟨small, 0, 0, 0, by and_intros <;> decide +kernel⟩,
    ⟨small, 3, 1, by decide +kernel⟩, fun sw late => ?_⟩
  · rcases hn with rfl | rfl
    · exact ⟨flying cross, cross, 0, 0, by and_intros <;> decide +kernel⟩
    · exact ⟨{ small with flight := cross :: List.replicate Config.commonsQueue other }, cross, 0, 0, by and_intros <;> decide +kernel⟩
  · cases hole
    · exact ⟨flying load, 0, 0, 0, load, by and_intros <;> decide +kernel⟩
    · exact ⟨(flying load).setReg 0x3000 0x100#64, 0, 0, 0, load, by and_intros <;> decide +kernel⟩
  · cases wr
    · exact ⟨withBlk false, 0, 0, 0, 0, 0, commonsBlk false, by and_intros <;> decide +kernel⟩
    · exact ⟨withBlk true, 0, 0, 0, 0, 5, commonsBlk true, by and_intros <;> decide +kernel⟩
  · cases w
    · exact ⟨atLane false, 0, 960, 1, laneUnit false, tileJob false none, by and_intros <;> decide +kernel⟩
    · exact ⟨atLane true, 0, 960, 1, laneUnit true, tileJob false none, by and_intros <;> decide +kernel⟩
  · have none_ : ∀ (s : State), s.swapAt = [] → ∀ k, FMap.find? s.swapAt 3 = some k → k ≤ 0 := by
      intro s h k hk; rw [h] at hk; exact nomatch hk
    cases sw <;> cases late
    · exact ⟨small, 3, 0, by decide +kernel, by decide +kernel, by decide +kernel, by decide +kernel, by decide +kernel, by decide +kernel,
        fun _ => none_ _ rfl, (fun h => nomatch h)⟩
    · exact ⟨{ small with swapAt := [(3, 1)] }, 3, 0, by decide +kernel, by decide +kernel, by decide +kernel, by decide +kernel,
        by decide +kernel, by decide +kernel, (fun h => nomatch h), fun _ => ⟨1, rfl, by decide⟩⟩
    · exact ⟨small.setReg 0x30002000 6#64, 3, 0, by decide +kernel, by decide +kernel, by decide +kernel, by decide +kernel, by decide +kernel,
        by decide +kernel, fun _ => none_ _ rfl, (fun h => nomatch h)⟩
    · exact ⟨({ small with swapAt := [(3, 1)] } : State).setReg 0x30002000 6#64, 3, 0, by decide +kernel, by decide +kernel,
        by decide +kernel, by decide +kernel, by decide +kernel, by decide +kernel, (fun h => nomatch h), fun _ => ⟨1, rfl, by decide⟩⟩

/-! ### The lower half -/

/-- A page table whose entry for the page at 0x10000 asks for a demand fault. -/
def demandingOf (a : Access) : State :=
  { (flying a).setReg 0xB000 0x10001#64 with phys := [(0x10000, 1#8), (0x10002, 2#8), (0x20000, 2#8)] }

theorem witness_TranslationWalks : ∀ x : Nat, x < 4 → ∃ (s u : State) (a : Access) (d : Nat) (y : Xlate), s.findAccess a.id = some a ∧
    a.stage = .walk d ∧ a.va.toNat % 65536 + a.op.size ≤ 65536 ∧ answerWaits s a = false ∧ lowerUnjudged s a = false ∧ pageAttr s a a.va ≠ some 2 ∧
    translate s (s.partN a.cell) d (s.casid a.cell) a.va.toNat a.op.needsRd a.op.needsWr false = (y, u) ∧
    u.flight = s.flight ∧ u.phys = s.phys ∧ u.cells = s.cells ∧ u.commons = s.commons ∧
    (x = 0 → ∃ pa key, y = .ok pa key 0 ∧ isSystem pa = false ∧ a.poison = none) ∧
    (x = 3 → ∃ pa key, y = .ok pa key 0 ∧ isSystem pa = false ∧ a.poison = some 9) ∧ (x = 1 → y = .denied) ∧
    (x = 2 → y = .demand ∧ resolveSlot u 1 3#8 = some 1 ∧ (u.slot 1).status = .live) := by
  let a := acc5 (.load 8 false) 0xFFF8#64 (some 63) (.walk 0)
  let b := acc5 (.load 8 false) 0x10000#64 (some 63) (.walk 0)
  intro x hx
  interval_cases x
  · refine ⟨flying a, _, a, 0, .ok 0xFFF8 0 0, by decide +kernel, rfl, by decide +kernel, by decide +kernel, by decide +kernel, by decide +kernel,
      pair_of (by decide +kernel), by decide +kernel, by decide +kernel, by decide +kernel, by decide +kernel,
      fun _ => ⟨_, _, rfl, by decide +kernel, rfl⟩, (fun h => absurd h (by decide)), by decide, by decide⟩
  · refine ⟨flying b, _, b, 0, .denied, by decide +kernel, rfl, by decide +kernel, by decide +kernel, by decide +kernel, by decide +kernel,
      pair_of (by decide +kernel), by decide +kernel, by decide +kernel, by decide +kernel, by decide +kernel, (fun h => absurd h (by decide)),
      (fun h => absurd h (by decide)), (fun _ => rfl), by decide⟩
  · refine ⟨demandingOf b, _, b, 0, .demand, by decide +kernel, rfl, by decide +kernel, by decide +kernel, by decide +kernel, by decide +kernel,
      pair_of (by decide +kernel), by decide +kernel, by decide +kernel, by decide +kernel, by decide +kernel, (fun h => absurd h (by decide)),
      (fun h => absurd h (by decide)), by decide, fun _ => ⟨rfl, by decide +kernel, by decide +kernel⟩⟩
  · refine ⟨flying { a with poison := some 9 }, _, { a with poison := some 9 }, 0, .ok 0xFFF8 0 0, by decide +kernel, rfl, by decide +kernel,
      by decide +kernel, by decide +kernel, by decide +kernel, pair_of (by decide +kernel), by decide +kernel, by decide +kernel,
      by decide +kernel, by decide +kernel, (fun h => absurd h (by decide)), fun _ => ⟨_, _, rfl, by decide +kernel, rfl⟩, by decide, by decide⟩

/-- Partition 0's memory with homes on die 1. -/
def remoteHomed (s : State) : State := s.setReg 0x40110000 8#64

theorem witness_SliceAccesses :
    (∀ far : Bool, ∃ (s : State) (a : Access) (n v : Nat), AtSlice s a n ∧ a.op = .store n v ∧ Memory.wf s.phys = true ∧
      decrypts s (a.pa / 128) a.key = true ∧ (far = true ↔ lineHome s a ≠ dieOf a.cell) ∧ (isSystem a.pa = false ∨ s.linkUp = true) ∧
      (replicaOf s (dieOf a.cell) (a.pa / 128) a.key ≠ none ∨ ∀ f ∈ s.forwards, f.die ≠ dieOf a.cell) ∧
      sliceLoad s (dieOf a.cell) (a.pa / 128) < Config.sliceLines) ∧
    (∃ (s : State) (d h : Nat) (f : Forward), s.forwards.find? (fun g => g.die = d && g.home = h) = some f ∧ Memory.wf s.phys = true ∧
      decrypts s (f.pa / 128) f.key = true) ∧
    (∀ hit : Bool, ∃ (s : State) (a : Access) (n : Nat) (e : Bool), AtSlice s a n ∧ a.op = .load n e ∧ lineHome s a = dieOf a.cell ∧
      replicaOf s (dieOf a.cell) (a.pa / 128) a.key = none ∧ LineReads s a.pa n a.key ∧
      (lineStamp s (dieOf a.cell) (a.pa / 128)).isSome = hit ∧ mergeable s (dieOf a.cell) (a.pa / 128) = false ∧
      missesAt s (dieOf a.cell) (a.pa / 128) < Config.missRegisters ∧ ∀ f ∈ s.forwards, f.die ≠ dieOf a.cell) ∧
    ∃ (s : State) (d line : Nat) (m : Miss), s.misses.find? (fun m => m.die = d && m.line = line) = some m := by
  let st := acc5 (.store 8 1) 0x878#64 none (.slice 0)
  let ld := acc5 (.load 8 false) 0x878#64 (some 63) (.slice 0)
  let f : Forward := { die := 0, home := 1, pa := 0x878, n := 8, v := 1, key := 0, sid := none }
  let m : Miss := { die := 0, line := 16, key := 0, closed := false }
  refine ⟨fun far => ?_, ⟨{ small with forwards := [f] }, 0, 1, f, by and_intros <;> decide +kernel⟩, fun hit => ?_,
    { small with misses := [m] }, 0, 16, m, by decide +kernel⟩
  · cases far
    · exact ⟨flying st, st, 8, 1, by and_intros <;> decide +kernel, rfl, by decide +kernel, by decide +kernel, by decide +kernel,
        .inl (by decide +kernel), .inr (fun f h => nomatch h), by decide +kernel⟩
    · exact ⟨remoteHomed (flying st), st, 8, 1, by and_intros <;> decide +kernel, rfl, by decide +kernel, by decide +kernel, by decide +kernel,
        .inl (by decide +kernel), .inr (fun f h => nomatch h), by decide +kernel⟩
  · cases hit
    · exact ⟨flying ld, ld, 8, false, by and_intros <;> decide +kernel, rfl, by and_intros <;> decide +kernel⟩
    · exact ⟨{ flying ld with lines := [⟨0, 16, 0, 9#64⟩] }, ld, 8, false, by and_intros <;> decide +kernel, rfl,
        by and_intros <;> decide +kernel⟩

/-- Slot 1 parked on a demand fault of its load at 0x10000, recorded at index 0xFFFF of a queue of one record at 0x400, or in host memory
while the link is down. -/
def faulting (k : Nat) : State :=
  { ((((flying { acc5 (.load 8 false) 0x10000#64 none .faulted with src := .slot 1 3#8 0x1000#64 none true [] false }).modSlot 1
      (fun x => { x with park := some .fault })).setReg 0x40180000 (if k = 4 then 0x8000000000000#64 else 0x400#64)).setReg 0x40140000
      (if k = 4 then 0#64 else 0x50#64)).setReg 0x40180008 0x10#64 with
    faults := [{ part := 0, asid := 0, va := 0x10000#64, kind := 0, source := 0, at_ := 0#64, index := some 0xFFFF, answer := none, waits := [] }]
    phys := Memory.writeN [] 0x418 8 k }

theorem witness_HomeOperations :
    (∀ op : MemOp, op = .amo .add 8 1 ∨ op = .cas 4 0 1 ∨ op = .lineRd ∨ op = .lineCst 1 0#4096 9#4096 ∨ op = .lineCst 1 0#4096 8#4096 →
      ∃ (s : State) (a : Access) (d : Nat), s.findAccess a.id = some a ∧ a.op = op ∧ a.stage = .slice d ∧ mustWait s a = false ∧ a.attr % 4 = 0 ∧
        missing s a d = none ∧ behindOlder s a d = false ∧ (∀ f ∈ s.forwards, f.die ≠ dieOf a.cell ∨ f.pa / 128 ≠ a.pa / 128) ∧
        (isSystem a.pa = false ∨ s.linkUp = true) ∧ Memory.wf s.phys = true ∧ decrypts s (a.pa / 128) a.key = true ∧ a.pa % 128 = 0 ∧
        physErr s a.pa 128 = false ∧ lineStamp s (homeDie s a.pa) (a.pa / 128) = some 9#64) ∧
    (∀ bad : Bool, ∃ (s : State) (pa n : Nat), physErr s pa n = bad ∧ 0 < n ∧ n ≤ 8 ∧ pa % 128 + n ≤ 128 ∧ s.linkUp = true ∧ isBacked pa = true ∧ Memory.wf s.phys = true ∧
      decrypts s (pa / 128) (keyByPa s pa) = true) ∧
    (∃ (s : State) (p : Nat) (f : FaultRec), s.faults.find? (fun f => f.part = p && f.index.isNone) = some f ∧ fqEnabled s p = true ∧
      (fqTail s p + 65536 - fqHead s p) % 65536 < fqSize s p ∧ Memory.wf s.phys = true ∧
      (isSystem (fqBase s p + 32 * (fqTail s p % fqSize s p)) = false ∨ s.linkUp = true)) ∧
    ∀ (k : Nat) (b : Writer), k < 5 → (k < 4 ∧ b = .host) ∨ b = .part 0 → ∃ (s : State) (p : Nat) (v : Word) (f : FaultRec) (a : Access) (sid : Nat),
      reaches s b = true ∧ s.faults.find? (fun f => f.part = p && f.index = some (bits v 15 0) && f.answer.isNone) = some f ∧ f.waits = [] ∧ s.flight = [a] ∧
      a.stage = .faulted ∧ a.key = f.asid ∧ a.pa / 65536 = f.va.toNat / 65536 ∧ s.partN a.cell = p ∧
      a.src = .slot sid 3#8 0x1000#64 none true [] false ∧ (s.slot sid).park = some .fault ∧ (s.slot sid).status = .live ∧
      (∀ q ∈ s.slots, q.2.park = some .fault → q.1 = sid) ∧
      (k < 4 → isSystem (fqBase s p + 32 * (bits v 15 0 % fqSize s p) + 0x18) = false ∧
        physReadRaw s (fqBase s p + 32 * (bits v 15 0 % fqSize s p) + 0x18) 8 = (k, s)) ∧
      (k = 4 → isSystem (fqBase s p + 32 * (bits v 15 0 % fqSize s p) + 0x18) = true ∧ s.linkUp = false) := by
  refine ⟨fun op hop => ⟨{ flying (acc5 op 0x880#64 (some 63) (.slice 0)) with lines := [⟨0, 17, 0, 9#64⟩] },
      acc5 op 0x880#64 (some 63) (.slice 0), 0, ?_⟩, fun bad => ?_,
    ⟨{ (small.setReg 0x40180000 0x400#64).setReg 0x40180008 0x10#64 with faults := (faulting 0).faults.map (fun f => { f with index := none }) },
      0, _, rfl, by and_intros <;> decide +kernel⟩, fun k b hk hb => ?_⟩
  · rcases hop with rfl | rfl | rfl | rfl | rfl <;> and_intros <;> decide +kernel
  · cases bad
    · exact ⟨small, 0x87F, 1, by and_intros <;> decide +kernel⟩
    · exact ⟨{ small with errs := [.phys 0x10F] }, 0x87F, 1, by and_intros <;> decide +kernel⟩
  · refine ⟨faulting k, 0, 0xFFFF#64, _, _, 1, ?_, rfl, rfl, rfl, rfl, rfl, by decide +kernel, ?_, rfl, ?_, ?_, ?_, fun h => ⟨?_, Prod.ext ?_ ?_⟩,
      fun h => ?_⟩ <;>
      first | (rcases hb with ⟨hk, rfl⟩ | rfl <;> interval_cases k <;> first | decide +kernel | exact absurd h (by decide))

/-! ### Launches, records, tasks -/

/-- Launch queue 7 of partition 0, enabled, 2 entries at an address, filled from index 0xFFFF; an entry with its header at 0x200,
whose table of one node stands at 0x280. -/
def launching (base : Word) : State :=
  { ((((small.setReg 0x401901C0 base).setReg 0x401901C8 0x11#64).setReg 0x401901D0 0xFFFF#64).setReg 0x401901D8 0#64) with
    phys := Memory.writeN (Memory.writeN (Memory.writeN [] 0x4040 16 (0x200 + 2 ^ 64 * 0x300)) 0x200 16 (1 + 2 ^ 64 * 0x280)) 0x280 96
      (0x1000 + 2 ^ 128 * (1 + 2 ^ 32 + 2 ^ 64) + 2 ^ (8 * 0x38) * 0x1000) }

def nodesOf (o : Opened) : List Node := match o with | .nodes l => l | _ => []

theorem witness_LaunchesAndRecords_read :
    (∃ (s : State) (p q pa : Nat), NextEntry s p q pa ∧ isBacked pa = false) ∧
    ∃ (s v : State) (p q pa w : Nat) (header done : Word) (ns : List Node), NextEntry s p q pa ∧ isBacked pa = true ∧ (isSystem pa = true → s.linkUp = true) ∧
      physErr s pa 64 = false ∧ physReadRaw (selfInvalidate s (s.lowDie p)) pa 64 = (w, selfInvalidate s (s.lowDie p)) ∧ EntryFine w header done ∧
      openGraph (takeEntry s p) (graphAgent (takeEntry s p) p ((takeEntry s p).asidLo p) false (.launchRead p) s.nextId) header = (.nodes ns, v) ∧
      v.launches = (takeEntry s p).launches ∧ lqHead v p q = lqHead (takeEntry s p) p q ∧ ∃ n ∈ ns, n.deps = 0 ∧ n.ready = none ∧ n.complete = false := by
  refine ⟨⟨launching 0x020000000000#64, 0, 7, 0x020000000040, by and_intros <;> decide +kernel⟩,
    ⟨launching 0x4000#64, (openGraph (takeEntry (launching 0x4000#64) 0) (graphAgent (takeEntry (launching 0x4000#64) 0) 0
      ((takeEntry (launching 0x4000#64) 0).asidLo 0) false (.launchRead 0) (launching 0x4000#64).nextId) 0x200#64).2, 0, 7, 0x4040,
      0x200 + 2 ^ 64 * 0x300, 0x200#64, 0x300#64,
      nodesOf (openGraph (takeEntry (launching 0x4000#64) 0) (graphAgent (takeEntry (launching 0x4000#64) 0) 0
      ((takeEntry (launching 0x4000#64) 0).asidLo 0) false (.launchRead 0) (launching 0x4000#64).nextId) 0x200#64).1, by and_intros <;> decide +kernel,
      by decide +kernel, by decide +kernel, by decide +kernel, Prod.ext (by decide +kernel) (by decide +kernel), by and_intros <;> decide +kernel, pair_of (by decide +kernel),
      by decide +kernel, by decide +kernel, by decide +kernel⟩⟩

/-- A node whose one record is to be placed on its cell at level 3. -/
def node0 : Node :=
  { pc := 0x40#64, arg := 0#64, x := 1, y := 1, z := 1, flags := 0xB#32, fmt := 0#32, key := 0#32, sca := 0#64, scb := 0#64, recs := 0x1000#64
    saves := 0#64, deps := 0, succ := [], stop := false, ready := some 1, placed := 0, written := false, retired := 0, failed := 0
    complete := false }
def placing : State := { small with launches := [{ part := 0, done := 0#64, phase := .running, nodes := [node0], cut := false }] }

theorem witness_LaunchesAndRecords_place :
    (∃ (s u : State) (p li ni c : Nat) (l : Launch) (n : Node) (rest : List (Nat × Nat)), s.held = [] ∧
      (s.fabricOf (s.lowDie p)).step = none ∧ readyOrder s p = (li, ni) :: rest ∧
      s.launches[li]? = some l ∧ l.nodes[ni]? = some n ∧ n.written = false ∧
      writeVirt s (graphAgent s p (s.asidLo p) true (.recordPlace p) (n.ready.getD 0)) (n.recs + BitVec.ofNat 64 (64 * n.placed)) 64
        (recordBytes n n.placed) = (.done, u) ∧
      u.held = [] ∧ n.flags.getLsbD 3 = true ∧ u.cellAt p (n.placed % u.cellCount p) = some c ∧ c < 960 ∧ (u.cell c).inbox.length = 4 ∧
      (getAt [] (u.cell c).inbox (n.flags.toNat % 4)).length < 16) ∧
    (∃ (s u : State) (p c v : Nat) (k : Nat × Nat × Word), (s.fabricOf (s.lowDie p)).step = none ∧
      s.conts.find? (fun c => c.1 = p && !contParked s p c) = some k ∧
      readVirt s (graphAgent s p k.2.1 false (.continuationPlace p) k.2.2.toNat) (k.2.2 + 0x1C#64) 4 = (.val v, u) ∧ u.conts = s.conts ∧
      leastLoaded u p (v % 4) = some c ∧ (u.cell c).inbox.length = 4) ∧
    ∀ d : Nat, d = 100000 ∨ d = 100001 → ∃ (s : State) (cell p : Nat) (e : InboxEntry) (top : List InboxEntry), s.partOf cell = some p ∧
      s.ageLimit p ≠ 0 ∧ (s.cell cell).inbox = [[e], [], [], top] ∧ s.gts.toNat - e.entered.toNat = d ∧
      (s.ageLimit p < s.gts.toNat - e.entered.toNat ↔ d = 100001) := by
  let e : InboxEntry := { record := 0x1000#64, entered := 5#64 }
  refine ⟨⟨placing, (writeVirt placing (graphAgent placing 0 0 true (.recordPlace 0) 1) 0x1000#64 64 (recordBytes node0 0)).2, 0, 0, 0, 0, _, node0, [],
      by decide +kernel, by decide +kernel, by decide +kernel, rfl, rfl, rfl, pair_of (by decide +kernel), by decide +kernel, by decide +kernel, by decide +kernel,
      by decide, by decide +kernel, by decide +kernel⟩,
    ⟨{ small with conts := [(0, 0, 0x1000#64)] },
      (readVirt { small with conts := [(0, 0, 0x1000#64)] } (graphAgent small 0 0 false (.continuationPlace 0) 0x1000) 0x101C#64 4).2, 0, 0, 0,
      (0, 0, 0x1000#64), by decide +kernel, by decide +kernel, pair_of (by decide +kernel), by decide +kernel, by decide +kernel, by decide +kernel⟩,
    fun d hd => ⟨{ small.modCell 1 (fun c => { c with inbox := [[e], [], [], [e]] }) with gts := BitVec.ofNat 64 (d + 5) }, 1, 0, e, [e], ?_⟩⟩
  rcases hd with rfl | rfl <;> and_intros <;> decide +kernel

/-- Slot 1 with its record at 0x900 and its save area at 0x1000, in a status. -/
def leaving (st : Status) : State :=
  smallWith (fun x => { x with status := st, tid := 0x2400#64, save := 0x1000#64 })

def spill1 : State := leaving (.spilling false)
def spillA : Agent := punty spill1 1 (.puntySpill 1)
def spillX : Slot := spill1.slot 1
def spillP : State := spill1.modCell (cellOfSlot 1) (fun c => { c with puntyAt := some 1 })
def spill2 : State := (putRecordState spillP spillA spillX 2).2
def spill3 : State := (saveMasks spill2 spillA spillX spillX.pc).2
def spillM : Nat × Nat := (saveMasks spill2 spillA spillX spillX.pc).1
def spillI : List (Nat × Nat) := imageRuns spillX (claimedAccs spill2 1 spillX.aown) spillX.pc spillM.1 spillM.2
def spill4 : State := (writeVirt spill3 spillA spillX.save (runsLength spillI) (joinRuns spillI)).2
def spill5 : State := (putRecordState (flushDie spill4 spillA.die) spillA spillX 1).2

theorem witness_spill : (withdraw spill1 1).modSlot 1 withoutCapture = spill1 ∧ spillReady spill1 1 = true ∧
    (putRecordState spillP spillA spillX 2).1 = false ∧
    (writeVirt spill3 spillA spillX.save (runsLength spillI) (joinRuns spillI)).1 = .done ∧
    (putRecordState (flushDie spill4 spillA.die) spillA spillX 1).1 = false ∧ (flushDie spill5 spillA.die).slot 1 = spillX := by
  and_intros <;> decide +kernel

theorem unpair (x : (Nat × Nat) × State) : x = ((x.1.1, x.1.2), x.2) := by cases x; rfl

theorem witness_SpillAndRestore :
    (∃ (s : State) (sid : Nat) (b : Bool) (s1 s2 s3 s4 : State) (ms mv : Nat), (s.slot sid).status = .spilling b ∧ Unburdened s sid ∧
      clockStop (s.cell (cellOfSlot sid)) = none ∧ ((withdraw s sid).modSlot sid withoutCapture).slot sid = s.slot sid ∧ spillReady ((withdraw s sid).modSlot sid withoutCapture) sid = true ∧
      (s.slot sid).save ≠ 0#64 ∧ puntyElsewhere ((withdraw s sid).modSlot sid withoutCapture) sid = false ∧
      putRecordState (((withdraw s sid).modSlot sid withoutCapture).modCell (cellOfSlot sid) (fun c => { c with puntyAt := some sid }))
        (punty ((withdraw s sid).modSlot sid withoutCapture) sid (.puntySpill sid)) (s.slot sid) 2 = (false, s1) ∧
      saveMasks s1 (punty ((withdraw s sid).modSlot sid withoutCapture) sid (.puntySpill sid)) (s.slot sid) (s.slot sid).pc = ((ms, mv), s2) ∧
      writeVirt s2 (punty ((withdraw s sid).modSlot sid withoutCapture) sid (.puntySpill sid)) (s.slot sid).save
        (runsLength (imageRuns (s.slot sid) (claimedAccs s1 sid (s.slot sid).aown) (s.slot sid).pc ms mv))
        (joinRuns (imageRuns (s.slot sid) (claimedAccs s1 sid (s.slot sid).aown) (s.slot sid).pc ms mv)) = (.done, s3) ∧
      putRecordState (flushDie s3 (punty ((withdraw s sid).modSlot sid withoutCapture) sid (.puntySpill sid)).die)
        (punty ((withdraw s sid).modSlot sid withoutCapture) sid (.puntySpill sid)) (s.slot sid) 1 = (false, s4) ∧
      (flushDie s4 (punty ((withdraw s sid).modSlot sid withoutCapture) sid (.puntySpill sid)).die).slot sid = s.slot sid) ∧
    (∃ (s : State) (sid : Nat) (b : Bool), (s.slot sid).status = .spilling b ∧ Unburdened s sid ∧ clockStop (s.cell (cellOfSlot sid)) = none ∧
      (s.slot sid).save ≠ 0#64 ∧ puntyElsewhere s sid = true) ∧
    (∃ (s : State) (sid : Nat), (s.slot sid).status = .spilling false ∧ Unburdened s sid ∧ clockStop (s.cell (cellOfSlot sid)) = none ∧
      (s.slot sid).save = 0#64) ∧
    ∃ (s s1 s2 s3 : State) (sid h img : Nat), (s.slot sid).status = .restoring ∧
      clockStop (s.cell (cellOfSlot sid)) = none ∧
      readVirt (selfInvalidate s (punty s sid (.puntyRestore sid)).die) (punty s sid (.puntyRestore sid)) (s.slot sid).save 0x100 = (.val h, s1) ∧ h / 2 ^ 512 % 2 ^ 64 = 0 ∧
      img / 2 ^ 512 % 2 ^ 64 = 0 ∧ img / 2 ^ (64 * 13) % 2 ^ 64 = h / 2 ^ (64 * 13) % 2 ^ 64 ∧
      img / 2 ^ (64 * 14) % 2 ^ 64 = h / 2 ^ (64 * 14) % 2 ^ 64 ∧
      readVirt s1 (punty s sid (.puntyRestore sid)) (s.slot sid).save
        (accsAt (h / 2 ^ (64 * 13) % 2 ^ 64) (h / 2 ^ (64 * 14) % 2 ^ 64 % 2 ^ 32)) = (.val img, s2) ∧
      putRecordState s2 (punty s sid (.puntyRestore sid)) (s.slot sid) 0 = (false, s3) := by
  refine ⟨⟨spill1, 1, false, spill2, spill3, spill4, spill5, spillM.1, spillM.2, by decide +kernel, by and_intros <;> decide +kernel, ?_⟩,
    ⟨spill1.modCell 0 (fun c => { c with puntyAt := some 66 }), 1, false, by decide +kernel, by and_intros <;> decide +kernel, by decide +kernel,
      by decide +kernel, by decide +kernel⟩,
    ⟨smallWith (fun x => { x with status := .spilling false }), 1, by decide +kernel, by and_intros <;> decide +kernel, by decide +kernel,
      by decide +kernel⟩,
    ⟨leaving .restoring, _, _, _, 1, 0, 0, by decide +kernel, by decide +kernel, pair_of (by decide +kernel), by rw [Nat.zero_div]; rfl, by rw [Nat.zero_div]; rfl, rfl, rfl,
      pair_of (by decide +kernel), pair_of (by decide +kernel)⟩⟩
  rw [witness_spill.1]
  exact ⟨by decide +kernel, rfl, witness_spill.2.1, by decide +kernel, by decide +kernel, pair_of witness_spill.2.2.1, unpair _, pair_of witness_spill.2.2.2.1,
    pair_of witness_spill.2.2.2.2.1, witness_spill.2.2.2.2.2⟩

/-! ### Migrations, removals -/

def move1 : State := leaving (.moving 66 false)
def moveA : Agent := punty move1 1 (.migrationSend 1)
def move2 : State := (putRecordState move1 moveA (move1.slot 1) 2).2
def moveA2 : Agent := punty move2 1 (.migrationSend 1)
def moveM : Nat × Nat := (saveMasks (leaveDie move2 1 66) moveA2 (move1.slot 1) (move1.slot 1).pc).1
def move3 : State := (saveMasks (leaveDie move2 1 66) moveA2 (move1.slot 1) (move1.slot 1).pc).2

/-- A context on its way to slot 66, which has been taken for it. -/
def context0 : Context :=
  { id := 5, slot := (leaving (.moving 66 false)).slot 1, accs := [], osid := 1, target := 66, byPower := false }
def arriving : State :=
  { (leaving .empty).modSlot 66 (fun x => { x with status := .restoring, gen := 1#8 }) with contexts := [context0] }
def arrived : State := (putRecordState arriving (punty arriving 66 (.migrationArrival 5)) context0.slot 0).2

def fwd0 : Fwd := { oslot := 1, ogen := 3#8, target := 66, tgen := 1#8, expires := 0 }

/-- Slot 1 removed by power management, its removal at its bound. -/
def removed (save : Word) : State :=
  { smallWith (fun x => { x with removedAt := some 7#64, save := save }) with gts := 50007#64 }

theorem witness_MigrationsAndRemovals :
    (∃ (s u v : State) (sid target i ms mv : Nat) (b : Bool), (s.slot sid).status = .moving target b ∧ Unburdened s sid ∧
      clockStop (s.cell (cellOfSlot sid)) = none ∧
      let x := s.slot sid
      let s0 := (withdraw s sid).modSlot sid withoutCapture
      s0.slot sid = x ∧ s0.slot target = s.slot target ∧ canHold s0 target x.ns x.nv = true ∧ puntyElsewhere s0 sid = false ∧ moveReady s0 sid = true ∧
      freeFwd s0 (coreOf sid) = some i ∧
      putRecordState s0 (punty s0 sid (.migrationSend sid)) x 2 = (false, u) ∧ u.slot sid = x ∧
      saveMasks (leaveDie u sid target) (punty u sid (.migrationSend sid)) x x.pc = ((ms, mv), v) ∧ (∀ j, v.slot j = s0.slot j) ∧
      (v.core (coreOf sid)).fwd = (s0.core (coreOf sid)).fwd ∧ isGaffer target = false) ∧
    (∃ (s u : State) (c : Context), s.contexts.find? (fun q => q.id = c.id) = some c ∧ accsFree s c.target c.slot.aown = true ∧
      (s.fabricOf (dieOf (cellOfSlot c.target))).step = none ∧ clockStop (s.cell (cellOfSlot c.target)) = none ∧ putRecordState s (punty s c.target (.migrationArrival c.id)) c.slot 0 = (false, u) ∧ u.slot c.target = s.slot c.target) ∧
    (∃ (s : State) (cell core n fc : Nat) (f : Fwd), (s.core (4 * cell + core)).fwd[n]? = some f ∧ f.expires = fc ∧
      fc ≤ s.fcyc (dieOf ((4 * cell + core) / 4))) ∧
    (∃ (s : State) (sid : Nat) (w : Word), (s.slot sid).removedAt = some w ∧ (s.slot sid).status = .live ∧
      s.gts.toNat < w.toNat + Config.removalBound) ∧
    (∃ (s : State) (sid : Nat) (w : Word) (target : Nat), (s.slot sid).removedAt = some w ∧ (s.slot sid).status = .live ∧
      w.toNat + Config.removalBound ≤ s.gts.toNat ∧ clockStop (s.cell (cellOfSlot sid)) = none ∧
      freeTarget s (s.partN (cellOfSlot sid)) sid = some target) ∧
    (∀ v : Word, v = 0#64 ∨ v = 64#64 → ∃ (s : State) (sid : Nat) (w : Word), (s.slot sid).removedAt = some w ∧
      (s.slot sid).status = .live ∧ w.toNat + Config.removalBound ≤ s.gts.toNat ∧ clockStop (s.cell (cellOfSlot sid)) = none ∧ (s.slot sid).save = v ∧
      freeTarget s (s.partN (cellOfSlot sid)) sid = none) ∧
    (∃ (s : State) (sid : Nat) (w : Word), (s.slot sid).removedAt = some w ∧ (s.slot sid).status = .restoring) ∧
    ∃ (s : State) (sid : Nat) (w : Word), (s.slot sid).exemptUntil = some w ∧ w.toNat ≤ s.gts.toNat := by
  refine ⟨⟨move1, move2, move3, 1, 66, 0, moveM.1, moveM.2, false, by decide +kernel, by and_intros <;> decide +kernel, by decide +kernel, ?_⟩,
    ⟨arriving, arrived, context0, by decide +kernel, by decide +kernel, by decide +kernel, by decide +kernel, pair_of (by decide +kernel), by decide +kernel⟩,
    ⟨small.setCore 4 { Core.init with fwd := [fwd0] }, 1, 0, 0, 0, fwd0, by and_intros <;> decide +kernel⟩,
    ⟨{ removed 0#64 with gts := 50006#64 }, 1, 7#64, by and_intros <;> decide +kernel⟩,
    ⟨removed 0#64, 1, 7#64, 16 * 1 + 1, by and_intros <;> decide +kernel⟩, fun v hv => ?_,
    ⟨smallWith (fun x => { x with removedAt := some 7#64, status := .restoring }), 1, 7#64, by and_intros <;> decide +kernel⟩,
    ⟨smallWith (fun x => { x with exemptUntil := some 0#64 }), 1, 0#64, by and_intros <;> decide +kernel⟩⟩
  · have h : (withdraw move1 1).modSlot 1 withoutCapture = move1 := by decide +kernel
    rw [h]
    exact ⟨rfl, rfl, by decide +kernel, by decide +kernel, by decide +kernel, by decide +kernel, pair_of (by decide +kernel),
      by decide +kernel, unpair _, slot_of_slots (by decide +kernel), by decide +kernel, by decide +kernel⟩
  · refine ⟨{ removed v with slots := (List.range 128).map (fun j => (j, { (removed v).slot 1 with status := .live })) }, 1, 7#64, ?_⟩
    rcases hv with rfl | rfl <;> and_intros <;> decide +kernel

/-! ### Gears, clocks, power -/

theorem settled_of {s : State} {cell : Nat} (hg : wantedGidx s cell = bits (s.cell cell).oppt 3 0)
    (hl : wantedLidx s cell = bits (s.cell cell).oppt 7 4) : Settled s cell := by
  intro t h1 h2 h3 h4
  have hc : contributions t cell = contributions s cell := by
    simp only [contributions, liveSlots, h1]
    congr 1
    funext q
    cases q.2.opIdx <;> simp [opWord, State.reg, h2]
  have hb : inGlory (t.cell cell) = inGlory (s.cell cell) := h4
  have e1 : wantedGidx t cell = wantedGidx s cell := by unfold wantedGidx gloryCeil State.reg; dsimp only; rw [hc, h2, h3, hb]
  have e2 : wantedLidx t cell = wantedLidx s cell := by unfold wantedLidx lehrCeil State.reg; dsimp only; rw [hc, h2, h3, hb]
  exact ⟨e1.trans hg, e2.trans hl⟩

/-- Cell 1, its slots asking for glory or not, its gear in a state. -/
def geared (g : GearState) (v : Word) (asks : Bool) : State :=
  { (smallWith (fun x => x)).modCell 1 (fun c => { c with gearState := g, gear := v }) with
    slots := [(65, { slot0 with greq := if asks then 1#64 else 0#64 })], gts := 100000#64 }

/-- Cell 1 with its stretches, at a time. -/
def stretched (l : List (Word × Word)) (t : Word) : State :=
  { small.modCell 1 (fun c => { c with droop := { c.droop with stretch := l } }) with gts := t }

theorem witness_GearsAndClocks :
    (∀ asks : Bool, ∀ g : GearState, g = .glory ∨ g = .pendingFall 0#64 ∨ g = .lehr → ∃ (s : State) (cell : Nat),
      clockStop (s.cell cell) = none ∧ Settled s cell ∧ (s.cell cell).gearState = g ∧ (Wants s cell ↔ asks = true) ∧
      (0 : Nat) + Config.lhold ≤ s.gts.toNat) ∧
    (∀ up : Bool, ∃ (s : State) (cell : Nat) (w : Word), (s.cell cell).gearState = (if up then .hopUp w else .hopDown w) ∧
      w.toNat + Config.hopTime ≤ s.gts.toNat) ∧
    (∃ (s : State) (cell f : Nat) (w : Word), (s.cell cell).droop.step = some (w, f) ∧ w.toNat ≤ s.gts.toNat) ∧
    (∃ (s : State) (d f : Nat) (w : Word), (s.fabricOf d).step = some (w, f) ∧ w.toNat ≤ s.gts.toNat) ∧
    (∀ now : Bool, ∃ (s : State) (d : Nat), (s.fabricOf d).step = none ∧ ∃ q ∈ (s.fabricOf d).recent,
      (now = true ↔ s.gts.toNat < q.1.toNat + 1000000) ∧ (now = false → s.slots = [] ∧
        ∀ q ∈ (s.fabricOf d).recent, q.1.toNat + 1000000 ≤ s.gts.toNat)) ∧
    (∀ n : Nat, n = 20 ∨ n = 12 → ∃ (s : State) (d : Nat), (s.fabricOf d).step = none ∧ (s.fabricOf d).recent = [] ∧ s.slots = [] ∧
      (s.reg (fabricPair d + 0x10)).toNat % 256 = n) ∧
    (∀ on : Bool, ∃ (s : State) (cell : Nat), clockStop (s.cell cell) = none ∧ (s.cell cell).droop.recent = [] ∧
      (s.reg (powerOff cell + 0x18)).toNat % 256 = 255 ∧ (on = false → (s.cell cell).droop.stretch = []) ∧
      (on = true → ∃ q ∈ (s.cell cell).droop.stretch, q.1.toNat ≤ s.gts.toNat ∧ s.gts.toNat < q.2.toNat)) ∧
    (∀ late : Bool, ∃ (s : State) (cell u : Nat), clockStop (s.cell cell) = some u ∧ (s.cell cell).droop.recent = [] ∧
      (s.reg (powerOff cell + 0x18)).getLsbD 8 = false ∧ (u ≤ s.gts.toNat ↔ late = true)) ∧
    (∀ r : Nat, r = 0 ∨ r = 9 → ∃ (s : State) (cell : Nat) (w e : Word), (s.cell cell).droop.stretch = [(w, e)] ∧
      clockStop (s.cell cell) = none ∧ w.toNat ≤ s.gts.toNat ∧ s.gts.toNat < e.toNat ∧ s.gts.toNat % 10 = r) ∧
    ∃ (s : State) (cell : Nat) (w e : Word), (s.cell cell).droop.stretch = [(w, e)] ∧ clockStop (s.cell cell) = none ∧
      (s.reg (cellPair cell)).toNat ≤ w.toNat ∧ w.toNat ≤ e.toNat ∧ (e.toNat + 9) / 10 * 10 ≤ s.gts.toNat := by
  refine ⟨fun asks g hg => ⟨geared g 5#64 asks, 1, ?_⟩, fun up => ?_, ?_, ?_, fun now => ?_, fun n hn => ?_, fun on => ?_, fun late => ?_, fun r hr => ?_, ?_⟩
  · have hs : Settled (geared g 5#64 asks) 1 := by
      refine settled_of ?_ ?_ <;> cases asks <;> rcases hg with rfl | rfl | rfl <;> decide +kernel
    refine ⟨?_, hs, ?_, ?_, ?_⟩
    · rcases hg with rfl | rfl | rfl <;> cases asks <;> decide +kernel
    · rcases hg with rfl | rfl | rfl <;> cases asks <;> decide +kernel
    · unfold Wants
      rcases hg with rfl | rfl | rfl <;> cases asks <;> decide +kernel
    · rcases hg with rfl | rfl | rfl <;> cases asks <;> decide +kernel
  · exact ⟨geared (if up then .hopUp 5#64 else .hopDown 5#64) 7#64 true, 1, 5#64, by cases up <;> decide +kernel, by cases up <;> decide +kernel⟩
  · exact ⟨small.modCell 1 (fun c => { c with droop := { c.droop with step := some (0#64, 30) } }), 1, 30, 0#64, by decide +kernel, by decide +kernel⟩
  · exact ⟨{ small with fabric := [(0, { small.fabricOf 0 with step := some (0#64, 20) })] }, 0, 20, 0#64, by decide +kernel, by decide +kernel⟩
  · refine ⟨{ small with slots := [], gts := (if now then 999999#64 else 1000000#64), fabric := [(0, { (small.fabricOf 0) with recent := [(0#64, none)] })] }, 0, ?_⟩
    cases now <;> decide +kernel
  · refine ⟨{ small.setReg (fabricPair 0 + 0x10) (BitVec.ofNat 64 n) with slots := [] }, 0, ?_⟩
    rcases hn with rfl | rfl <;> decide +kernel
  · refine ⟨(stretched (if on then [(0#64, 100#64)] else []) 99#64).setReg (powerOff 1 + 0x18) 0x1FF#64, 1, ?_⟩
    cases on <;> decide +kernel
  · refine ⟨{ geared (.hopUp 110#64) 7#64 true with gts := if late then 110#64 else 109#64 }, 1, 110, ?_⟩
    cases late <;> decide +kernel
  · refine ⟨stretched [(0#64, 100#64)] (if r = 0 then 90#64 else 99#64), 1, 0#64, 100#64, ?_⟩
    rcases hr with rfl | rfl <;> decide +kernel
  · exact ⟨stretched [(5#64, 105#64)] 110#64, 1, 5#64, 105#64, by decide +kernel⟩

/-! ### Power samples, registers -/

/-- Two cells of partition 0, sampled with the same power. -/
def sampledCells : List CellSample := [{ cell := 0, watts := 7, slack := 9, ballast := 0 }, { cell := 1, watts := 7, slack := 9, ballast := 0 }]

theorem witness_PowerSamples : ∀ (w b : Nat) (one won : Bool), w = 6000 ∨ w = 6001 ∨ w = 5700 ∨ w = 5699 → b = 0 ∨ b = 100 →
    ∃ (s : State) (cells : List CellSample) (x z : CellSample), (∀ x ∈ cells, x.cell < 960) ∧ (one = true → cells = [x]) ∧
    let all := s.samples ++ [w]
    let kept := all.drop (all.length - 100)
    let mean := kept.sum / kept.length
    let cap := min 6000 ((s.reg 0x40130000).toNat % 65536)
    let depth (t : State) (c : Nat) : Nat := (t.reg (powerOff c)).toNat % 16
    (cap < mean ∧ (kept.sum - b) / kept.length ≤ cap ∧ s.capWins = false ↔ w = 6001 ∧ b = 100 ∧ won = false) ∧
    (cap < mean ↔ w = 6001) ∧ (100 * mean < 95 * cap ↔ w = 5699) ∧ (mean ≤ cap ∧ 95 * cap ≤ 100 * mean ↔ w = 6000 ∨ w = 5700) ∧
    (x ∈ cells ∧ (s.partOf x.cell).isSome = true ∧ depth s x.cell < 15 ∧ ∀ y ∈ cells, y ≠ x → Hotter s x y) ∧
    (z ∈ cells ∧ (s.partOf z.cell).isSome = true ∧ depth s z.cell ≠ 0 ∧ ∀ y ∈ cells, y ≠ z → Hotter s y z) ∧
    (∀ y ∈ cells, clockStop (s.cell y.cell) = none) ∧ ∀ k < 4, ∀ j < 16, (s.slot (64 * 959 + 16 * k + j)).exemptUntil = none := by
  intro w b one won hw hb
  refine ⟨(({ small with samples := List.replicate 100 w, capWins := won } : State).setReg (powerOff 0) 14#64).setReg (powerOff 1) 1#64,
    if one then sampledCells.take 1 else sampledCells, { cell := 0, watts := 7, slack := 9, ballast := 0 },
    if one then { cell := 0, watts := 7, slack := 9, ballast := 0 } else { cell := 1, watts := 7, slack := 9, ballast := 0 }, ?_⟩
  unfold Hotter
  rcases hw with rfl | rfl | rfl | rfl <;> rcases hb with rfl | rfl <;> cases one <;> cases won <;> decide +kernel

/-- Launch queue 7 of partition 15 with its SIZE register. -/
def lqSized (w : Word) : State := small.setReg (lqOff 15 7 + 8) w

/-- With the host link up every writer reaches the device. -/
theorem reaches_all {s : State} (h : s.linkUp = true) (b : Writer) : reaches s b = true := by cases b <;> simp [reaches, h]

theorem witness_RegisterWrites :
    (∃ s : State, s.linkUp = false) ∧
    (∃ (s : State) (p q : Nat) (v : Word), s.linkUp = true ∧ p < 16 ∧ q < 8 ∧ lqDev s p q = false ∧
      (v.toNat % 65536 + 65536 - lqHead s p q) % 65536 ≤ lqLen s p q) ∧
    (∃ (s : State) (p q : Nat) (v : Word), s.linkUp = true ∧ p < 16 ∧ q < 8 ∧ (lqDev s p q = true ∨
      ¬(v.toNat % 65536 + 65536 - lqHead s p q) % 65536 ≤ lqLen s p q)) ∧
    (∀ en : Bool, ∃ (s : State) (p q : Nat) (v : Word), s.linkUp = true ∧ p < 16 ∧ q < 8 ∧ lqEnabled s p q = en ∧
      v &&& 0x3F#64 = s.reg (lqOff p q + 8) &&& 0x2F#64) ∧
    (∃ (s : State) (p q : Nat) (v : Word), s.linkUp = true ∧ p < 16 ∧ q < 8 ∧ lqEnabled s p q = true ∧
      v &&& 0x3F#64 ≠ s.reg (lqOff p q + 8) &&& 0x2F#64) ∧
    (∀ x : Nat, x = 0 ∨ x = 1 ∨ x = 2 → ∃ (s : State) (d g k : Nat) (v : Word), s.linkUp = true ∧ d < 4 ∧ bits v 3 0 = g ∧ bits v 9 4 = k ∧ v.getLsbD 10 = true ∧
      (x = 0 → remapState s d g k ≠ 0) ∧ (x ≠ 0 → remapState s d g k = 0 ∧ (s.reg (dieBase d + 0x5008)).getLsbD 0 = false ∧
        s.holes = []) ∧ (x = 1 → freeSpare s d g ≠ none) ∧ (x = 2 → freeSpare s d g = none)) ∧
    (∀ f : Bool, ∃ (s : State) (v : Word), s.linkUp = true ∧ v.getLsbD 33 = f) ∧
    (∀ on : Bool, ∃ (s : State) (b : Writer) (d : Nat), s.linkUp = true ∧ d < 4 ∧ writerOnDie b s d = on) ∧
    (∀ fit : Bool, ∃ (s : State) (b : Writer) (cell : Nat) (v : Word), s.linkUp = true ∧ cell < 960 ∧
      ((∃ p, s.partOf cell = some p ∧ s.asidLo p ≤ v.toNat % 8192 ∧ v.toNat % 8192 ≤ s.asidHi p ∧ (b = .host ∨ b = .part p)) ↔
        fit = true)) ∧
    ∀ clr : Bool, ∃ (s : State) (v : Word), s.linkUp = true ∧ v.getLsbD 32 = clr := by
  refine ⟨⟨small.setReg 0x40140000 0#64, by decide +kernel⟩,
    ⟨lqSized 0x1F#64, 15, 7, 0x8000#64, by decide +kernel⟩, ⟨lqSized 0x3F#64, 15, 7, 0x8001#64, by decide +kernel⟩, fun en => ?_,
    ⟨lqSized 0x1F#64, 15, 7, 0xE#64, by decide +kernel⟩, fun x hx => ?_, fun f => ?_, fun on => ?_, fun fit => ?_, fun clr => ?_⟩
  · cases en
    · exact ⟨lqSized 0xF#64, 15, 7, 0xF#64, by decide +kernel⟩
    · exact ⟨lqSized 0x1F#64, 15, 7, 0xF#64, by decide +kernel⟩
  · rcases hx with rfl | rfl | rfl
    · exact ⟨small.setReg (remapOff 3 15 63) 0xC0#64, 3, 15, 63, 0x7FF#64, by decide +kernel⟩
    · exact ⟨small, 3, 15, 63, 0x7FF#64, by decide +kernel⟩
    · exact ⟨(((small.setReg (remapOff 3 15 0) 0xC0#64).setReg (remapOff 3 15 1) 0xC1#64).setReg (remapOff 3 15 2) 0xC2#64).setReg
        (remapOff 3 15 3) 0xC3#64, 3, 15, 63, 0x7FF#64, by decide +kernel⟩
  · exact ⟨small, if f then 2#64 ^ 33 else 0#64, by cases f <;> decide +kernel⟩
  · exact ⟨small, .part 0, if on then 0 else 1, by cases on <;> decide +kernel⟩
  · cases fit
    · exact ⟨small, .host, 959, 0#64, by decide +kernel, by decide +kernel, by
        have h : small.partOf 959 = none := by decide +kernel
        simp [h]⟩
    · refine ⟨small, .part 0, 1, 10#64, by decide +kernel, by decide +kernel, iff_of_true ⟨0, by decide +kernel, by decide +kernel, by decide +kernel, .inr rfl⟩ rfl⟩
  · exact ⟨small, if clr then 2#64 ^ 32 else 0#64, by cases clr <;> decide +kernel⟩

theorem witness_PrivilegedWrites :
    (∀ c : Bool, ∃ (s : State) (p w : Nat), s.linkUp = true ∧ p < 16 ∧ w < 20 ∧ s.committed p = c) ∧
    (∀ c : Bool, ∃ (s : State) (n w : Nat), s.linkUp = true ∧ n < 16 ∧ w < 4 ∧ (c = true ↔ ∃ p < 16, s.committed p = true ∧ s.ilv p = n)) ∧
    (∃ off : Nat, 0x50000000 ≤ off) ∧
    (∃ (s : State) (b : Writer) (n : Nat) (v : Word), s.linkUp = true ∧ n < 256 ∧ v.getLsbD 1 = true ∧ b = .part ((s.reg (keyReg n)).toNat / 4 % 16) ∧
      (∀ f ∈ s.forwards, f.key ≠ n) ∧ s.material n ≤ s.nextId ∧
      (s.keyPresent n = true ∨ (FMap.find? s.keyMat n).isSome = true) ∧ ∃ line, isSystem (128 * line) = false ∧ FMap.find? s.lineKey line = some (s.material n)) ∧
    ∃ (s : State) (b : Writer) (n : Nat) (v : Word), s.linkUp = true ∧ n < 256 ∧ (v.getLsbD 1 = false ∨ (b ≠ .host ∧ b ≠ .part ((s.reg (keyReg n)).toNat / 4 % 16))) :=
  ⟨fun c => ⟨small, if c then 0 else 15, 19, by cases c <;> decide +kernel⟩,
    fun c => ⟨small, if c then 0 else 15, 3, by cases c <;> decide +kernel⟩, ⟨0x50000000, Nat.le_refl _⟩,
    ⟨{ small with lineKey := [(16, 5)], keyMat := [(255, 5)], nextId := 5 }, .part 0, 255, 2#64, by decide +kernel, by decide +kernel, by decide +kernel,
      by decide +kernel, by decide +kernel, by decide +kernel, by decide +kernel, 16, by decide +kernel⟩,
    ⟨small, .part 1, 255, 2#64, by decide +kernel⟩⟩

/-! ### A slot's own steps, the package -/

/-- Slot 1 with a task that has stopped; its argument record names the join word at 0xFF01000000000038. -/
def stopped (f : Final) (w : Nat) : State :=
  { (smallWith (fun x => { x with status := .ending f 0#32, targ := 0x800#64 })).modCell 0 (fun c => { c with
      mem := Memory.writeN [] 0x38 8 w, dir := [(0, { DirEntry.init with cls := .general })] }) with
    phys := Memory.writeN [] 0x800 8 0xFF01000000000038 }
def stoppedAgent (s : State) : Agent :=
  { part := s.partN (cellOfSlot 1), die := dieOf (cellOfSlot 1), asid := s.casid (cellOfSlot 1), kind := 0, source := globalPos (coreOf 1)
    again := .event (.taskEnd 1) }

theorem witness_SlotStepsAndEnds :
    (∃ (s : State) (d : Deferred), (here s).deferred = some d ∧ d.cause < 256 ∧ d.detail < 256 ∧ (here s).tcause.getLsbD 16 = false ∧
      (here s).tvec ≠ 0#64) ∧
    (∀ p : Park, p ∈ [Park.mqueue, .cqueue, .lock, .ring, .commons, .launch, .fork, .vqueue, .fault, .wfi, .unack, .pool, .refused,
      .barrier 0#64] → ∃ s : State, (here s).park = some p) ∧
    (∃ (s : State) (a : Access) (sid : Nat) (gen : BitVec 8) (pc : Word) (dst : Option Nat) (f counts : Bool) (cons : List Nat),
      (here s).park = some .refused ∧ s.flight.find? (fun b => b.stage = .held && b.slotOf s = some s.cur) = some a ∧
      a.src = .slot sid gen pc dst f cons counts ∧ (here s).deferred ≠ none) ∧
    (∀ far counts : Bool, ∃ (s : State) (a : Access) (sid : Nat) (gen : BitVec 8) (pc : Word) (dst : Option Nat) (f : Bool) (cons : List Nat),
      (here s).park = some .refused ∧ s.flight.find? (fun b => b.stage = .held && b.slotOf s = some s.cur) = some a ∧
      a.src = .slot sid gen pc dst f cons counts ∧ (here s).deferred = none ∧ (counts = true → (here s).unack ≠ 0xFFFF#64) ∧
      (if far then ∃ c o, spaceOf s a.cell a.va = .remote c o else ∃ o, spaceOf s a.cell a.va = .own o)) ∧
    (∃ (s : State) (m : Message), (here s).park = some .refused ∧ (∀ b ∈ s.flight, b.stage ≠ .held) ∧ (here s).deferred = none ∧
      s.messages.find? (fun q => q.sid = s.cur && decide (q.answer = some Verdict.refused)) = some m) ∧
    (∃ (s u : State) (sid : Nat) (f : Final) (info : BitVec 32), (s.slot sid).status = .ending f info ∧ (s.slot sid).deferred = none ∧
      endWaits s sid f = false ∧ clockStop (s.cell (cellOfSlot sid)) = none ∧
      readVirt (s.setSlot sid (s.slot sid)) { part := s.partN (cellOfSlot sid), die := dieOf (cellOfSlot sid), asid := s.casid (cellOfSlot sid)
                                              kind := 0, source := globalPos (coreOf sid), again := .event (.taskEnd sid) } (s.slot sid).targ 8 = (.val 0, u) ∧
      ∀ j, u.slot j = s.slot j) ∧
    (∀ n : Nat, n = 1 ∨ n = 2 → ∃ (s u : State) (sid v o c : Nat) (info : BitVec 32), (s.slot sid).status = .ending .ok info ∧
      (s.slot sid).deferred = none ∧ endWaits s sid .ok = false ∧ clockStop (s.cell (cellOfSlot sid)) = none ∧
      readVirt (s.setSlot sid (s.slot sid)) { part := s.partN (cellOfSlot sid), die := dieOf (cellOfSlot sid), asid := s.casid (cellOfSlot sid)
                                              kind := 0, source := globalPos (coreOf sid), again := .event (.taskEnd sid) } (s.slot sid).targ 8 = (.val v, u) ∧
      (∀ j, u.slot j = s.slot j) ∧ v < 2 ^ 64 ∧ v / 2 ^ 48 = 0xFF01 ∧ v % 8 = 0 ∧ o = v % 2 ^ 48 % 0x200000 ∧
      u.cellAt (s.partN (cellOfSlot sid)) (v % 2 ^ 48 / 0x200000) = some c ∧ PlainAt u c o 8 ∧ localRead u c o 8 % 2 ^ 32 = n ∧
      localRead u c o 8 < 2 ^ 63) ∧
    (∃ (s : State) (cell : Nat) (w : StartWait), w ∈ (s.cell cell).startWait) ∧
    (∃ (s : State) (g : BitVec 8), (here s).killReq = some g ∧ (here s).gen ≠ g) ∧
    ∃ (s : State) (g : BitVec 8), (here s).killReq = some g ∧ (here s).gen = g ∧ (here s).status = .live ∧ ∀ c ∈ s.contexts, c.target ≠ s.cur := by
  let held (counts : Bool) (va : Word) : Access := acc5 (if counts then .store 8 1 else .load 8 false) va (if counts then none else some 63) .held
  let waits (counts : Bool) (va : Word) (d : Option Deferred) : State :=
    (flying (held counts va)).modSlot 1 (fun x => { x with park := some .refused, deferred := d })
  refine ⟨⟨smallWith (fun x => { x with deferred := some { cause := 255, detail := 255, tval := 1#64 } }), _, rfl, by decide +kernel⟩,
    fun p _ => ⟨smallWith (fun x => { x with park := some p }), rfl⟩,
    ⟨waits false 0xFF00000000000038#64 (some { cause := 14, detail := 0, tval := 0#64 }), held false 0xFF00000000000038#64, 1, 3#8, 0x1000#64, some 63,
      true, false, [], by and_intros <;> decide +kernel⟩, fun far counts => ?_,
    ⟨withMsg { msgTo 3 with sid := 1, answer := some .refused } (fun x => { x with park := some .refused }),
      { msgTo 3 with sid := 1, answer := some .refused }, by and_intros <;> decide +kernel⟩, ?_, fun n hn => ?_,
    ⟨small.modCell 1 (fun c => { c with startWait := [{ gaffer := 64, vec := false }] }), 1, { gaffer := 64, vec := false }, by
      decide +kernel⟩,
    ⟨smallWith (fun x => { x with killReq := some 255#8 }), 255#8, by and_intros <;> decide +kernel⟩,
    ⟨smallWith (fun x => { x with killReq := some 3#8 }), 3#8, by and_intros <;> decide +kernel⟩⟩
  · refine ⟨waits counts (if far then 0xFF01000000200038#64 else 0xFF00000000000038#64) none,
      held counts (if far then 0xFF01000000200038#64 else 0xFF00000000000038#64), 1, 3#8, 0x1000#64, if counts then none else some 63, true, [], ?_⟩
    cases far
    · exact ⟨by cases counts <;> decide +kernel, by cases counts <;> decide +kernel, by cases counts <;> decide +kernel,
        by cases counts <;> decide +kernel, by cases counts <;> decide +kernel, 0x38, by cases counts <;> decide +kernel⟩
    · exact ⟨by cases counts <;> decide +kernel, by cases counts <;> decide +kernel, by cases counts <;> decide +kernel,
        by cases counts <;> decide +kernel, by cases counts <;> decide +kernel, 1, 0x38, by cases counts <;> decide +kernel⟩
  · exact ⟨{ stopped .killed 1 with phys := [] }, _, 1, .killed, 0#32, by decide +kernel, by decide +kernel, by decide +kernel, by decide +kernel,
      pair_of (by decide +kernel), slot_of_slots (by decide +kernel)⟩
  · refine ⟨stopped .ok n, (readVirt ((stopped .ok n).setSlot 1 ((stopped .ok n).slot 1)) (stoppedAgent (stopped .ok n)) 0x800#64 8).2, 1,
      0xFF01000000000038, 0x38, 0, 0#32, rfl, rfl, ?_, ?_, pair_of ?_, slot_of_slots ?_, by decide +kernel, by decide +kernel,
      by decide +kernel, by decide +kernel, ?_, ?_, ?_, ?_⟩ <;> rcases hn with rfl | rfl
    all_goals first
      | decide +kernel
      | (and_intros <;> decide +kernel)

theorem witness_PackageAndReset :
    (∀ up : Bool, ∃ s : State, s.linkUp = up) ∧
    (∃ s : State, s.powered = false) ∧ (∃ s : State, s.powered = true ∧ bits (s.reg 0x40160000) 2 1 = 0) ∧
    (∃ svn : BitVec 8, Config.fusedMinimum.toNat ≤ svn.toNat) ∧
    (∃ (s : State) (svn : BitVec 8), (s.reg 0x40160000).getLsbD 2 = true ∧ s.linkUp = true ∧ (∀ p < 16, s.partValid p = false) ∧
      Config.fusedMinimum.toNat ≤ svn.toNat) ∧
    (∀ d : Nat, d < 4 → ∃ sid core : Nat, sid / 64 / 240 = d ∧ core / 4 / 240 = d) ∧
    (∃ (s : State) (d p c : Nat), d < 4 ∧ p < 16 ∧ s.committed p = true ∧ c < 960 ∧ c / 240 = d ∧ c ∈ s.partCells p ∧
      ∀ q < 16, q ≠ p → s.committed q = true → c ∉ s.partCells q) ∧
    ∃ s : State, ∀ p < 16, s.committed p = false := by
  refine ⟨fun up => ⟨small.setReg 0x40140000 (if up then 0x50#64 else 0x80#64), by cases up <;> decide +kernel⟩, ⟨{ small with powered := false }, rfl⟩, ⟨small, by decide +kernel⟩,
    ⟨255#8, Nat.le_of_lt_succ (BitVec.isLt _)⟩,
    ⟨(State.reset.setReg 0x40160000 4#64).setReg 0x40140000 0x50#64, 255#8, by decide +kernel, by decide +kernel, by decide +kernel, Nat.le_of_lt_succ (BitVec.isLt _)⟩,
    fun d _ => ⟨64 * (240 * d) + 15359, 4 * (240 * d) + 959, by omega⟩,
    ⟨small, 0, 0, 1, by decide +kernel⟩, ⟨State.reset, by decide +kernel⟩⟩

/-! ### Encoding, decoding, steps -/

theorem witness_DecodeEncode : ∃ (i : Instr) (w : BitVec 32), i.legality = none ∧ encode i = some w ∧ decode w = .ok i :=
  ⟨.add 63#6 1#6 62#6 true false, 0b000001_111111_000001_111110_1_0_000000#32, by decide +kernel⟩

theorem witness_DecodeEncode_command : ∃ (i : Instr) (c : CmdWord), decodeCommand c = some i ∧ encodeCommand i = some c :=
  ⟨.accclr ⟨0x100000000A#64, 0x700#64, 0#64, 0#64⟩, ⟨0x100000000A#64, 0x700#64, 0#64, 0#64⟩, by decide +kernel⟩

theorem witness_EncodeDecode : ∃ (i : Instr) (w : BitVec 32), decode w = .ok i :=
  ⟨.add 63#6 1#6 62#6 true false, 0b000001_111111_000001_111110_1_0_000000#32, by decide +kernel⟩

/-- The turn of an agent comes next. -/
def turnOf (t : Turn) (s : State) : State := { s with agenda := [t] }

theorem witness_StepRunsDecoded_thread : ∃ (s u v : State) (sid pa key attr w : Nat) (i : Instr) (rest : List Turn), s.powered = true ∧
    s.agenda = .issue sid :: rest ∧
    let p := { turnState s (.issue sid) rest with cur := sid }
    let x := s.slot sid
    Issues p sid ∧ canonical x.pc = true ∧ x.pc.getLsbD 56 = false ∧
    translate p (p.partN (sid / 64)) (dieOf (sid / 64)) (p.casid (sid / 64)) x.pc.toNat false false true = (.ok pa key attr, u) ∧
    physErr u pa 4 = false ∧ physRead (countSlice u (dieOf (sid / 64)) (lineOf pa) key attr) pa 4 key = (w, v) ∧ (v.slot sid).cap = none ∧ decode (BitVec.ofNat 32 w) = .ok i := by
  refine ⟨turnOf (.issue 1) { small with phys := Memory.writeN [] 0x1000 4 0b000001_000011_000001_000010_1_0_000000 }, _, _, 1, 0x1000, 0, 0,
    0b000001_000011_000001_000010_1_0_000000, .add 3#6 1#6 2#6 true false, [], rfl, rfl, ?_, by decide +kernel, by decide +kernel,
    pair_of (by decide +kernel), by decide +kernel, pair_of (by decide +kernel), by decide +kernel, by decide +kernel⟩
  and_intros <;> decide +kernel

theorem witness_StepRunsDecoded_traps :
    (∃ (s u v : State) (sid pa key attr w : Nat) (e : DecodeError) (rest : List Turn), s.powered = true ∧ s.agenda = .issue sid :: rest ∧
      let p := { turnState s (.issue sid) rest with cur := sid }
      let x := s.slot sid
      Issues p sid ∧ canonical x.pc = true ∧ x.pc.getLsbD 56 = false ∧
      translate p (p.partN (sid / 64)) (dieOf (sid / 64)) (p.casid (sid / 64)) x.pc.toNat false false true = (.ok pa key attr, u) ∧
      physErr u pa 4 = false ∧ physRead (countSlice u (dieOf (sid / 64)) (lineOf pa) key attr) pa 4 key = (w, v) ∧ vecOpen v sid = false ∧ decode (BitVec.ofNat 32 w) = .error e) ∧
    (∃ (s : State) (sid : Nat) (rest : List Turn), s.powered = true ∧ s.agenda = .issue sid :: rest ∧
      Issues { turnState s (.issue sid) rest with cur := sid } sid ∧ vecOpen { turnState s (.issue sid) rest with cur := sid } sid = false ∧
      canonical (s.slot sid).pc = false) ∧
    ∃ (s : State) (sid : Nat) (rest : List Turn), s.powered = true ∧ s.agenda = .issue sid :: rest ∧
      Issues { turnState s (.issue sid) rest with cur := sid } sid ∧ vecOpen { turnState s (.issue sid) rest with cur := sid } sid = false ∧
      canonical (s.slot sid).pc = true ∧ (s.slot sid).pc.getLsbD 56 = true := by
  refine ⟨⟨turnOf (.issue 1) { small with phys := Memory.writeN [] 0x1000 4 0b001100_000001_000010_110_00000000000 }, _, _, 1, 0x1000, 0, 0,
      0b001100_000001_000010_110_00000000000, .encoding, [], rfl, rfl, ?_, by decide +kernel, by decide +kernel,
      pair_of (by decide +kernel), by decide +kernel, pair_of (by decide +kernel), by decide +kernel, by decide +kernel⟩,
    ⟨turnOf (.issue 1) (smallWith (fun x => { x with pc := 0x0100000000000000#64 })), 1, [], rfl, rfl, ?_, by decide +kernel, by decide +kernel⟩,
    turnOf (.issue 1) (smallWith (fun x => { x with pc := 0xFF00000000000400#64 })), 1, [], rfl, rfl, ?_, by decide +kernel, by decide +kernel,
      by decide +kernel⟩ <;> and_intros <;> decide +kernel

/-- A record that has been answered with 1, on which two chunks and an acknowledgement of a copy wait, the later ones behind the
first or not. -/
def replaying (behind : Bool) : State :=
  { small with
    faults := [{
      part := 0, asid := 0, va := 0x10000#64, kind := 2, source := 0, at_ := 0#64, index := some 0, answer := some 1
      waits := (if behind then [(.event (.copyChunk 0 7 0), 0)] else []) ++
        [(.event (.copyChunk (if behind then 0 else 1) 7 1), 0), (.later (.peerAck 0 7 1 0#64 []), 0)] }] }

theorem witness_StepRunsDecoded_engines :
    (∃ (s : State) (core : Nat) (c : Cmd) (q : List Cmd) (i : Instr) (rest : List Turn), s.powered = true ∧ s.agenda = .copy core :: rest ∧
      (s.core core).cq = c :: q ∧ decodeCommand c.word = some i) ∧
    (∃ (s : State) (cell core : Nat) (c : Cmd) (i : Instr) (rest : List Turn), s.powered = true ∧ s.agenda = .matrix cell :: rest ∧
      matrixPick (turnState s (.matrix cell) rest) cell = some (core, c) ∧ decodeCommand c.word = some i) ∧
    (∀ cp : Bool, ∃ (s : State) (core : Nat) (w : CmdWord) (i : Instr) (rest : List Turn), s.powered = true ∧
      s.agenda = .control core cp :: rest ∧ controlWord (turnState s (.control core cp) rest) core cp = some w ∧ decodeCommand w = some i) ∧
    (∀ b : Bool, ∃ (s : State) (i : Instr) (rest : List Turn), s.powered = true ∧ s.agenda = .event i :: rest ∧
      replayBehind (chosen s rest) (.event i) = b) ∧
    ∀ b : Bool, ∃ (s : State) (l : Later) (rest : List Turn), s.powered = true ∧ s.agenda = .later l :: rest ∧
      replayBehind (chosen s rest) (.later l) = b := by
  let w : CmdWord := ⟨0x100000000A#64, 0x700#64, 0, 0⟩
  refine ⟨⟨turnOf (.copy 0) (copyQ (copyWord 0x10 0 0 0)), 0, copyWord 0x10 0 0 0, [], .copy (copyWord 0x10 0 0 0).word, [], rfl, rfl, by decide +kernel, by decide +kernel⟩,
    ⟨turnOf (.matrix 0) (matrixQ w), 0, 0, cmdOf w, .accclr w, [], rfl, rfl, by decide +kernel, by decide +kernel⟩,
    fun cp => ⟨turnOf (.control 0 cp) ((sequenced (seqOf0 (some w) none 0)).modCore 0 (fun c => { c with seqC := c.seqM })), 0, w, .accclr w, [],
      rfl, rfl, by cases cp <;> decide +kernel, by decide +kernel⟩,
    fun b => ⟨turnOf (.event (.copyChunk 0 7 1)) (replaying b), .copyChunk 0 7 1, [], rfl, rfl, by cases b <;> decide +kernel⟩,
    fun b => ⟨turnOf (.later (.peerAck 0 7 1 0#64 [])) (replaying b), .peerAck 0 7 1 0#64 [], [], rfl, rfl, by cases b <;> decide +kernel⟩⟩

theorem witness_StepKeepsMemory : ∃ s t : State, Safety.MemoryCanonical s ∧ step s = .next t := by
  have h : Safety.MemoryCanonical (turnOf (.event (.linkUp 8)) { small with phys := Memory.writeN [] 0x800 8 0x0102030405060708 }) := by and_intros <;> decide +kernel
  obtain ⟨t, ht⟩ := next_of (o := step (turnOf (.event (.linkUp 8)) { small with phys := Memory.writeN [] 0x800 8 0x0102030405060708 })) (by decide +kernel)
  exact ⟨_, t, h, ht⟩

/-! ### Decoding: a word of every thread instruction, its fields from the left as the layouts of R226-R239 give them -/

/-- Every word of a list is decoded to the instruction beside it, and the encoder gives the word back. -/
def reads (l : List (BitVec 32 × Instr)) : Bool := l.all (fun q => decode q.1 == .ok q.2 && encode q.2 == some q.1)

theorem test_words_alu_0 : reads -- R226, R229
  [ (0b000001_101011_010101_110010_0_1_000000#32, .add 0x2B#6 0x15#6 0x32#6 false true)
  , (0b000001_101011_010101_110010_1_0_000001#32, .sub 0x2B#6 0x15#6 0x32#6 true false)
  , (0b000001_101011_010101_110010_0_1_000010#32, .mul 0x2B#6 0x15#6 0x32#6 false true)
  , (0b000001_101011_010101_110010_1_0_000011#32, .mulh 0x2B#6 0x15#6 0x32#6 true false)
  , (0b000001_101011_010101_110010_0_1_000100#32, .mulhu 0x2B#6 0x15#6 0x32#6 false true)
  , (0b000001_101011_010101_110010_1_0_000101#32, .div 0x2B#6 0x15#6 0x32#6 true false)
  , (0b000001_101011_010101_110010_0_1_000110#32, .divu 0x2B#6 0x15#6 0x32#6 false true)
  , (0b000001_101011_010101_110010_1_0_000111#32, .rem 0x2B#6 0x15#6 0x32#6 true false)
  , (0b000001_101011_010101_110010_0_1_001000#32, .remu 0x2B#6 0x15#6 0x32#6 false true)
  , (0b000001_101011_010101_110010_1_0_001001#32, .and 0x2B#6 0x15#6 0x32#6 true false)
  , (0b000001_101011_010101_110010_0_1_001010#32, .or 0x2B#6 0x15#6 0x32#6 false true)
  , (0b000001_101011_010101_110010_1_0_001011#32, .xor 0x2B#6 0x15#6 0x32#6 true false)
  , (0b000001_101011_010101_110010_0_1_001100#32, .andn 0x2B#6 0x15#6 0x32#6 false true)
  , (0b000001_101011_010101_110010_1_0_001101#32, .orn 0x2B#6 0x15#6 0x32#6 true false)
  , (0b000001_101011_010101_110010_0_1_001110#32, .shl 0x2B#6 0x15#6 0x32#6 false true)
  , (0b000001_101011_010101_110010_1_0_001111#32, .shr 0x2B#6 0x15#6 0x32#6 true false) ] = true := by decide +kernel

theorem test_words_alu_1 : reads -- R226, R229
  [ (0b000001_101011_010101_110010_0_1_010000#32, .sar 0x2B#6 0x15#6 0x32#6 false true)
  , (0b000001_101011_010101_110010_1_0_010001#32, .rol 0x2B#6 0x15#6 0x32#6 true false)
  , (0b000001_101011_010101_110010_0_1_010010#32, .min 0x2B#6 0x15#6 0x32#6 false true)
  , (0b000001_101011_010101_110010_1_0_010011#32, .max 0x2B#6 0x15#6 0x32#6 true false)
  , (0b000001_101011_010101_110010_0_1_010100#32, .minu 0x2B#6 0x15#6 0x32#6 false true)
  , (0b000001_101011_010101_110010_1_0_010101#32, .maxu 0x2B#6 0x15#6 0x32#6 true false)
  , (0b000001_101011_010101_110010_0_1_010110#32, .slt 0x2B#6 0x15#6 0x32#6 false true)
  , (0b000001_101011_010101_110010_1_0_010111#32, .sltu 0x2B#6 0x15#6 0x32#6 true false)
  , (0b000001_101011_010101_110010_0_1_011000#32, .seq 0x2B#6 0x15#6 0x32#6 false true)
  , (0b000001_101011_010101_110010_1_0_011001#32, .sne 0x2B#6 0x15#6 0x32#6 true false)
  , (0b000001_101011_010101_000000_1_0_011010#32, .clz 0x2B#6 0x15#6 true)
  , (0b000001_101011_010101_000000_1_0_011011#32, .ctz 0x2B#6 0x15#6 true)
  , (0b000001_101011_010101_000000_1_0_011100#32, .popc 0x2B#6 0x15#6 true)
  , (0b000001_101011_010101_000000_1_0_011111#32, .bswap 0x2B#6 0x15#6 true)
  , (0b000001_101011_010101_000010_1_0_011101#32, .sext 0x2B#6 0x15#6 2#6 true)
  , (0b000001_101011_010101_000001_1_0_011110#32, .zext 0x2B#6 0x15#6 1#6 true) ] = true := by decide +kernel

theorem test_words_immediate_branch_0 : reads -- R226, R230, R231
  [ (0b000010_101011_010101_0_1000000000001#32, .addi 0x2B#6 0x15#6 false 0x1001#13)
  , (0b000011_101011_010101_1_1000000000010#32, .andi 0x2B#6 0x15#6 true 0x1002#13)
  , (0b000100_101011_010101_0_1000000000011#32, .ori 0x2B#6 0x15#6 false 0x1003#13)
  , (0b000101_101011_010101_1_1000000000100#32, .xori 0x2B#6 0x15#6 true 0x1004#13)
  , (0b000110_101011_010101_0_1000000000101#32, .slti 0x2B#6 0x15#6 false 0x1005#13)
  , (0b000111_101011_010101_1_1000000000110#32, .sltui 0x2B#6 0x15#6 true 0x1006#13)
  , (0b001000_101011_010101_1_00_00000_110101#32, .shli 0x2B#6 0x15#6 true 0x35#6)
  , (0b001000_101011_010101_1_01_00000_110101#32, .shri 0x2B#6 0x15#6 true 0x35#6)
  , (0b001000_101011_010101_1_10_00000_110101#32, .sari 0x2B#6 0x15#6 true 0x35#6)
  , (0b001001_101011_10000000000000000001#32, .lui 0x2B#6 0x80001#20)
  , (0b001010_101011_10000000000000000001#32, .pcrel 0x2B#6 0x80001#20)
  , (0b001011_101011_010101_10_1_10000000001#32, .lea 0x2B#6 0x15#6 2#2 true 0x401#11)
  , (0b001100_101011_010101_000_10000000001#32, .bEq 0x2B#6 0x15#6 0x401#11)
  , (0b001100_101011_010101_001_10000000001#32, .bNe 0x2B#6 0x15#6 0x401#11)
  , (0b001100_101011_010101_010_10000000001#32, .bLt 0x2B#6 0x15#6 0x401#11)
  , (0b001100_101011_010101_011_10000000001#32, .bGe 0x2B#6 0x15#6 0x401#11) ] = true := by decide +kernel

theorem test_words_immediate_branch_1 : reads -- R226, R230, R231
  [ (0b001100_101011_010101_100_10000000001#32, .bLtu 0x2B#6 0x15#6 0x401#11)
  , (0b001100_101011_010101_101_10000000001#32, .bGeu 0x2B#6 0x15#6 0x401#11)
  , (0b001101_10000000000000000000000001#32, .j 0x2000001#26)
  , (0b001110_10000000000000000000000001#32, .jal 0x2000001#26)
  , (0b001111_101011_010101_00000000_000000#32, .jalr 0x2B#6 0x15#6)
  , (0b001111_000000_010101_00000000_000001#32, .ret 0x15#6)
  , (0b001111_10000000000000000001_000010#32, .call 0x80001#20)
  , (0b001111_101011_10000000000001_000011#32, .loop 0x2B#6 0x2001#14) ] = true := by decide +kernel

theorem test_words_memory_0 : reads -- R226, R232-R235
  [ (0b010000_101011_010101_01_1_10000000001#32, .ld 0x2B#6 0x15#6 1#2 true 0x401#11)
  , (0b010001_101011_010101_01_1_10000000001#32, .st 0x2B#6 0x15#6 1#2 true 0x401#11)
  , (0b010010_101011_010101_10_1_0000_000_1_000#32, .ldS 0x2B#6 0x15#6 2#2 true true)
  , (0b010010_101011_010101_11_0_0000_000_0_000#32, .ldS 0x2B#6 0x15#6 3#2 false false)
  , (0b010010_101011_010101_01_0_0001_101_1_000#32, .ldAcq 0x2B#6 0x15#6 1#2 false 5#3 true)
  , (0b010010_101011_010101_11_1_0010_100_0_000#32, .stRel 0x2B#6 0x15#6 3#2 true 4#3)
  , (0b010010_101011_010101_11_1_0011_000_0_000#32, .lds 0x2B#6 0x15#6 true)
  , (0b010010_101011_010101_11_1_0100_000_0_000#32, .sts 0x2B#6 0x15#6 true)
  , (0b010010_101011_010101_11_1_0101_000_0_000#32, .ldw 0x2B#6 0x15#6 true)
  , (0b010010_101011_010101_11_1_0110_000_0_000#32, .fefill 0x2B#6 0x15#6 true)
  , (0b010010_000000_010101_11_1_0111_000_0_000#32, .feempty 0x15#6 true)
  , (0b010010_101011_010101_11_0_1000_000_0_000#32, .feq 0x2B#6 0x15#6 false)
  , (0b010011_101011_010101_1_0000_0_1_0_011_000#32, .amoAdd 0x2B#6 0x15#6 true false true false 3#3)
  , (0b010011_101011_010101_1_0001_1_1_0_011_000#32, .amoAnd 0x2B#6 0x15#6 true true true false 3#3)
  , (0b010011_101011_010101_1_0010_0_1_0_011_000#32, .amoOr 0x2B#6 0x15#6 true false true false 3#3)
  , (0b010011_101011_010101_1_0011_1_1_0_011_000#32, .amoXor 0x2B#6 0x15#6 true true true false 3#3) ] = true := by decide +kernel

theorem test_words_memory_1 : reads -- R226, R232-R235
  [ (0b010011_101011_010101_1_0100_0_1_0_011_000#32, .amoMin 0x2B#6 0x15#6 true false true false 3#3)
  , (0b010011_101011_010101_1_0101_1_1_0_011_000#32, .amoMax 0x2B#6 0x15#6 true true true false 3#3)
  , (0b010011_101011_010101_1_0110_0_1_0_011_000#32, .amoMinu 0x2B#6 0x15#6 true false true false 3#3)
  , (0b010011_101011_010101_1_0111_1_1_0_011_000#32, .amoMaxu 0x2B#6 0x15#6 true true true false 3#3)
  , (0b010011_101011_010101_1_1000_0_1_0_011_000#32, .amoSwap 0x2B#6 0x15#6 true false true false 3#3)
  , (0b010011_101011_010101_0_1001_0_0_1_100_000#32, .amoFadd 0x2B#6 0x15#6 false false true 4#3)
  , (0b010100_101011_010101_110010_00_1_0_1_101#32, .cas 0x2B#6 0x15#6 0x32#6 true false true 5#3)
  , (0b010100_0_11011_010101_000000_01_0_0_1_010#32, .lineRd 0x1B#5 0x15#6 true 2#3)
  , (0b010100_101011_010101_011010_10_11_1_001#32, .lineCst 0x2B#6 0x15#6 0x1A#6 3#2 true 1#3)
  , (0b010101_101011_010101_110010_0_1_100_000#32, .blkRd 0x2B#6 0x15#6 0x32#6 true 4#3)
  , (0b010101_101011_010101_110010_1_1_100_000#32, .blkWr 0x2B#6 0x15#6 0x32#6 true 4#3)
  , (0b010110_000000_000000_000000_000_11_101#32, .fence 3#2 5#3)
  , (0b010110_000000_010101_000000_001_00_000#32, .cinv 0x15#6)
  , (0b010110_000000_010101_000000_010_00_000#32, .cwb 0x15#6)
  , (0b010110_000000_010101_000000_011_00_000#32, .pref 0x15#6)
  , (0b010110_000000_010101_000000_011_01_000#32, .prefW 0x15#6) ] = true := by decide +kernel

theorem test_words_threads_engines_0 : reads -- R226, R236
  [ (0b010111_000000_010101_110010_1_0_000000#32, .send 0x15#6 0x32#6 true false)
  , (0b010111_000000_010101_011011_0_1_000001#32, .sendV 0x15#6 0x1B#5 false true)
  , (0b010111_000000_010101_000101_1_1_000010#32, .sendP 0x15#6 5#3 true true)
  , (0b011000_101011_000000_000000_0_0_000000#32, .take 0x2B#6)
  , (0b011000_000000_010101_110010_1_0_000001#32, .start 0x15#6 0x32#6 true false)
  , (0b011000_101011_010101_000000_1_0_000010#32, .reap 0x2B#6 0x15#6 true)
  , (0b011000_000000_010101_110010_0_1_000011#32, .kill 0x15#6 0x32#6 false true)
  , (0b011000_000000_000000_000000_0_0_000100#32, .yield)
  , (0b011000_000000_010101_000000_1_0_000101#32, .retire 0x15#6 true)
  , (0b011000_000000_010101_000000_1_0_000110#32, .migrate 0x15#6 true)
  , (0b011000_000000_010101_110010_0_1_000111#32, .lnch 0x15#6 0x32#6 false true)
  , (0b011001_000000_010100_000000_1_0_000000#32, .enqM 0x14#6 true)
  , (0b011001_000000_010100_000000_0_0_000001#32, .enqC 0x14#6 false)
  , (0b011001_101011_010101_110010_1_0_000010#32, .fork 0x2B#6 0x15#6 0x32#6 true false)
  , (0b011001_101011_000000_000000_0_0_000011#32, .rdv 0x2B#6)
  , (0b011010_0_11011_110_011_00000000_000000#32, .accrd 0x1B#5 6#3 3#3) ] = true := by decide +kernel

theorem test_words_threads_engines_1 : reads -- R226, R236
  [ (0b011010_0_11011_110_011_00000000_000001#32, .accwr 0x1B#5 6#3 3#3)
  , (0b011011_000000_010101_110010_1_0_000000#32, .barInit 0x15#6 0x32#6 true false)
  , (0b011011_000000_010101_000000_1_0_000001#32, .barArr 0x15#6 true)
  , (0b011011_000000_010101_000000_1_0_000010#32, .barWait 0x15#6 true)
  , (0b011011_000000_010101_000000_0_0_000011#32, .barWaitDrop 0x15#6 false)
  , (0b011100_101011_010101_000000_1_0_000000#32, .tdq 0x2B#6 0x15#6 true)
  , (0b011100_000000_010101_110010_1_0_000001#32, .tdset 0x15#6 0x32#6 true false)
  , (0b011100_000000_010101_110010_0_1_000010#32, .tdzero 0x15#6 0x32#6 false true)
  , (0b011100_000000_010101_000101_1_0_000011#32, .pub 0x15#6 5#3 true)
  , (0b011101_000000_0000000_0000000000001#32, .gear 1#13)
  , (0b011101_000001_0000000_0000011111111#32, .ophint 255#13) ] = true := by decide +kernel

theorem test_words_csr_system : reads -- R226, R237
  [ (0b111110_101011_000000_10001000000001#32, .csrr 0x2B#6 0x2201#14)
  , (0b111111_101011_010101_01_100000000001#32, .csrw 0x2B#6 0x15#6 0x801#12)
  , (0b111111_101011_010101_10_100000000001#32, .csrs 0x2B#6 0x15#6 0x801#12)
  , (0b111111_101011_010101_11_100000000001#32, .csrc 0x2B#6 0x15#6 0x801#12)
  , (0b111111_100000000001_00_000000000001#32, .trap 0x801#12)
  , (0b111111_100000000001_00_000000000010#32, .brk 0x801#12)
  , (0b111111_000000_000000_00_000000000011#32, .eret)
  , (0b111111_000000_000000_00_000000000100#32, .wfi)
  , (0b111111_000000_010101_00_000000000101#32, .tlbsd 0x15#6)
  , (0b111111_000000_010101_00_000000000110#32, .wheelLoad 0x15#6)
  , (0b111111_000000_000000_00_000000000111#32, .wheelArm)
  , (0b111111_000000_000000_00_000000001000#32, .wheelSwap)
  , (0b111111_101011_010101_00_000000001001#32, .partQuery 0x2B#6 0x15#6)
  , (0b111111_101011_010101_00_000000001010#32, .partQuiesce 0x2B#6 0x15#6)
  , (0b111111_101011_010101_00_000000001011#32, .partCommit 0x2B#6 0x15#6) ] = true := by decide +kernel

theorem test_words_vector_rounding_0 : reads -- R238, R239, R327, R332-R337
  [ (0b100000_11001_01110_10011_101_00_000000#32, .vadd 0#3 0x19#5 0x0E#5 0x13#5 5#3 0#2)
  , (0b100001_11001_01110_10011_101_01_000001#32, .vsub 1#3 0x19#5 0x0E#5 0x13#5 5#3 1#2)
  , (0b100010_11001_01110_10011_101_10_000010#32, .vmul 2#3 0x19#5 0x0E#5 0x13#5 5#3 2#2)
  , (0b100011_11001_01110_10011_101_00_000011#32, .vfma 3#3 0x19#5 0x0E#5 0x13#5 5#3 0#2)
  , (0b100100_11001_01110_10011_101_01_000100#32, .vfms 4#3 0x19#5 0x0E#5 0x13#5 5#3 1#2)
  , (0b100101_11001_01110_10011_101_10_000101#32, .vdiv 5#3 0x19#5 0x0E#5 0x13#5 5#3 2#2)
  , (0b100000_11001_01110_00000_101_10_000110#32, .vsqrt 0#3 0x19#5 0x0E#5 5#3 2#2)
  , (0b100001_11001_01110_00000_101_10_000111#32, .vrcp 1#3 0x19#5 0x0E#5 5#3 2#2)
  , (0b100010_11001_01110_00000_101_10_001000#32, .vrsqrt 2#3 0x19#5 0x0E#5 5#3 2#2)
  , (0b100011_11001_01110_00000_101_10_001001#32, .vsum 3#3 0x19#5 0x0E#5 5#3 2#2)
  , (0b100101_11001_01110_10011_101_01_001010#32, .vdot 5#3 0x19#5 0x0E#5 0x13#5 5#3 1#2)
  , (0b100001_11001_01110_10011_101_11_010000#32, .vcvt 1#3 0x19#5 0x0E#5 0x13#5 5#3 3#2)
  , (0b100001_11001_01110_10011_101_11_010001#32, .vcvtSat 1#3 0x19#5 0x0E#5 0x13#5 5#3 3#2)
  , (0b100010_11001_01110_10011_000_11_010010#32, .vwiden 2#3 0x19#5 0x0E#5 0x13#5 3#2)
  , (0b100010_11001_01110_10011_000_11_010011#32, .vnarrow 2#3 0x19#5 0x0E#5 0x13#5 3#2)
  , (0b100010_11001_01110_10011_000_11_010100#32, .vnarrowSat 2#3 0x19#5 0x0E#5 0x13#5 3#2) ] = true := by decide +kernel

theorem test_words_vector_rounding_1 : reads -- R238, R239, R327, R332-R337
  [ (0b100010_11001_01110_10011_000_11_010101#32, .vqnt 2#3 0x19#5 0x0E#5 0x13#5 3#2)
  , (0b100100_11001_01110_10011_101_10_010110#32, .vscale 4#3 0x19#5 0x0E#5 0x13#5 5#3 2#2) ] = true := by decide +kernel

theorem test_words_vector_other_0 : reads -- R238-R240, R328-R346
  [ (0b100110_11001_01110_10011_101_01_000000#32, .vmin 0x19#5 0x0E#5 0x13#5 5#3 1#2)
  , (0b100110_11001_01110_10011_101_10_000001#32, .vmax 0x19#5 0x0E#5 0x13#5 5#3 2#2)
  , (0b100110_11001_01110_00000_101_00_000010#32, .vabs 0x19#5 0x0E#5 5#3 0#2)
  , (0b100110_11001_01110_00000_101_01_000011#32, .vneg 0x19#5 0x0E#5 5#3 1#2)
  , (0b100110_11001_01110_00000_101_10_000100#32, .vmaxr 0x19#5 0x0E#5 5#3 2#2)
  , (0b100110_11001_01110_00000_101_00_000101#32, .vminr 0x19#5 0x0E#5 5#3 0#2)
  , (0b100110_11001_01110_00000_101_00_001000#32, .vexp2 0x19#5 0x0E#5 5#3 0#2)
  , (0b100110_11001_01110_00000_101_01_001001#32, .vlog2 0x19#5 0x0E#5 5#3 1#2)
  , (0b100110_11001_01110_00000_101_10_001010#32, .vexp 0x19#5 0x0E#5 5#3 2#2)
  , (0b100110_11001_01110_00000_101_00_001011#32, .vlog 0x19#5 0x0E#5 5#3 0#2)
  , (0b100110_11001_01110_00000_101_01_001100#32, .vtanh 0x19#5 0x0E#5 5#3 1#2)
  , (0b100110_11001_01110_00000_101_10_001101#32, .vsigm 0x19#5 0x0E#5 5#3 2#2)
  , (0b100110_00110_01110_10011_101_01_010110#32, .vcmp 6#3 0x0E#5 0x13#5 5#3 1#2 6#3)
  , (0b100110_11001_01110_10011_101_00_011000#32, .vsel 0x19#5 0x0E#5 0x13#5 5#3 0#2)
  , (0b100110_11001_01110_10011_101_00_100000#32, .vand 0x19#5 0x0E#5 0x13#5 5#3 0#2)
  , (0b100110_11001_01110_10011_101_01_100001#32, .vor 0x19#5 0x0E#5 0x13#5 5#3 1#2) ] = true := by decide +kernel

theorem test_words_vector_other_1 : reads -- R238-R240, R328-R346
  [ (0b100110_11001_01110_10011_101_10_100010#32, .vxor 0x19#5 0x0E#5 0x13#5 5#3 2#2)
  , (0b100110_11001_01110_00000_101_00_100011#32, .vnot 0x19#5 0x0E#5 5#3 0#2)
  , (0b100110_11001_01110_10011_101_01_100100#32, .vshl 0x19#5 0x0E#5 0x13#5 5#3 1#2)
  , (0b100110_11001_01110_10011_101_10_100101#32, .vshr 0x19#5 0x0E#5 0x13#5 5#3 2#2)
  , (0b100110_11001_01110_10011_101_00_100110#32, .vsar 0x19#5 0x0E#5 0x13#5 5#3 0#2)
  , (0b100111_11001_01110_10011_101_10_000000#32, .vperm 0x19#5 0x0E#5 0x13#5 5#3 2#2)
  , (0b100111_11001_01110_00000_101_01_000001#32, .vbcast 0x19#5 0x0E#5 5#3 1#2)
  , (0b100111_11001_01110_10011_000_01_000010#32, .vext 0x19#5 0x0E#5 0x13#5 1#2)
  , (0b100111_11001_01110_10011_000_10_000011#32, .vins 0x19#5 0x0E#5 0x13#5 2#2)
  , (0b100111_00000_01110_00000_000_00_001000#32, .vloop 0x0E#5)
  , (0b100111_00000_00000_00000_000_00_001001#32, .vend)
  , (0b100111_00110_00101_00011_000_00_010000#32, .pand 6#3 5#3 3#3)
  , (0b100111_00110_00101_00011_000_00_010001#32, .por 6#3 5#3 3#3)
  , (0b100111_00110_00101_00011_000_00_010010#32, .pxor 6#3 5#3 3#3)
  , (0b100111_00110_00101_00000_000_00_010011#32, .pnot 6#3 5#3)
  , (0b100111_11001_00101_00000_000_00_010100#32, .pcnt 0x19#5 5#3) ] = true := by decide +kernel

theorem test_words_vector_other_2 : reads -- R238-R240, R328-R346
  [ (0b100111_11001_00101_00000_000_00_010101#32, .pfirst 0x19#5 5#3)
  , (0b101000_11001_01110_10011_000_00_000000#32, .vld 0x19#5 0x0E#5 0x13#5)
  , (0b101000_11001_01110_10011_000_00_000001#32, .vst 0x19#5 0x0E#5 0x13#5)
  , (0b101000_11001_01110_10011_101_01_000010#32, .vlds 0x19#5 0x0E#5 0x13#5 5#3 1#2)
  , (0b101000_11001_01110_10011_101_01_000011#32, .vgath 0x19#5 0x0E#5 0x13#5 5#3 1#2)
  , (0b101000_11001_01110_10011_101_01_000100#32, .vscat 0x19#5 0x0E#5 0x13#5 5#3 1#2) ] = true := by decide +kernel

/-! ### Ill-formed terms: each check refuses one -/

theorem test_wf_width : Instr.legality (.sext 1#6 2#6 3#6 false) = some .encoding := by decide
theorem test_wf_signed_double : Instr.legality (.ldS 1#6 2#6 3#2 false true) = some .encoding := by decide
theorem test_wf_acquire_signed_double : Instr.legality (.ldAcq 1#6 2#6 3#2 false 0#3 true) = some .encoding := by decide
theorem test_wf_scope : Instr.legality (.stRel 1#6 2#6 3#2 false 6#3) = some .encoding := by decide
theorem test_wf_scope_without_order : Instr.legality (.amoAdd 1#6 2#6 false true false false 1#3) = some .encoding := by decide
theorem test_wf_amo_scope : Instr.legality (.cas 1#6 2#6 3#6 true true true 7#3) = some .encoding := by decide
theorem test_wf_pair : Instr.legality (.lineCst 1#6 2#6 3#6 0#2 false 0#3) = some .group := by decide
theorem test_wf_vector_register : Instr.legality (.lineCst 1#6 2#6 32#6 0#2 false 0#3) = some .encoding := by decide
theorem test_wf_fence_kind : Instr.legality (.fence 0#2 5#3) = some .encoding := by decide
theorem test_wf_quad : Instr.legality (.enqM 6#6 false) = some .group := by decide
theorem test_wf_gear : Instr.legality (.gear 2#13) = some .encoding := by decide
theorem test_wf_phase : Instr.legality (.ophint 256#13) = some .encoding := by decide
theorem test_wf_format_source : Instr.legality (.vmin 1#5 2#5 3#5 0#3 3#2) = some .format := by decide
theorem test_wf_rounding_group : Instr.legality (.vadd 6#3 1#5 2#5 3#5 0#3 0#2) = some .encoding := by decide
theorem test_wf_rounding_format : Instr.legality (.vadd 0#3 1#5 2#5 3#5 0#3 3#2) = some .format := by decide
theorem test_wf_condition : Instr.legality (.vcmp 1#3 2#5 3#5 0#3 0#2 7#3) = some .encoding := by decide
theorem test_wf_conversion_source : Instr.legality (.vcvt 0#3 1#5 2#5 8#5 0#3 0#2) = some .format := by decide
theorem test_wf_conversion_code : Instr.legality (.vqnt 0#3 1#5 2#5 1#5 3#2) = some .encoding := by decide
theorem test_wf_conversion_vb : Instr.legality (.vwiden 0#3 1#5 2#5 8#5 1#2) = some .encoding := by decide
theorem test_wf_conversion_group : Instr.legality (.vnarrow 7#3 1#5 2#5 8#5 3#2) = some .encoding := by decide
theorem test_wf_all_ones : Instr.legality (.csrc 63#6 63#6 0xFFF#12) = some .encoding := by decide

/-! ### Words that are no instruction (R243), the spec's worked encodings, command words -/

/-- Words that trap ILLEGAL with a DETAIL: unused majors, a reserved function, a sync bit on an unread register, bit 5 of a vector
register, a scope where none may stand, the words of all zeros and all ones; a misaligned quad; reserved format sources. -/
def refused : List (BitVec 32 × DecodeError) :=
  [ (0x00000000#32, .encoding), (0xFFFFFFFF#32, .encoding), (0b011110_00000000000000000000000000#32, .encoding)
  , (0b101001_00000000000000000000000000#32, .encoding), (0b111101_00000000000000000000000000#32, .encoding)
  , (0b000001_000001_000010_000011_0_0_100000#32, .encoding), (0b000001_000001_000010_000000_0_1_011010#32, .encoding)
  , (0b000001_000001_000010_000011_0_0_011010#32, .encoding), (0b010100_100001_000010_000000_01_0_0_0_000#32, .encoding)
  , (0b010010_000001_000010_11_0_0011_001_0_000#32, .encoding), (0b010100_000001_000010_000011_11_000000#32, .encoding)
  , (0b001000_000001_000010_0_11_00000_000001#32, .encoding), (0b001100_000001_000010_110_00000000001#32, .encoding)
  , (0b111111_000000_000000_00_000000001100#32, .encoding), (0b011001_000000_000010_000000_0_0_000000#32, .group)
  , (0b100110_00001_00010_00011_000_11_000000#32, .format), (0b100000_00001_00010_00000_000_00_010000#32, .format) ]

theorem test_refused_words : refused.all (fun q => decode q.1 == .error q.2) = true := by decide +kernel

/-- The worked encodings of spec/11_encodings.md and spec/16_ref_vector.md. -/
theorem test_worked_words : reads
  [ (0x04310580#32, .add 3#6 4#6 5#6 true false), (0x40712010#32, .ld 7#6 4#6 2#2 false 16#11), (0x30500FFE#32, .bNe 5#6 0#6 0x7FE#11)
  , (0x80400800#32, .vadd 0#3 2#5 0#5 1#5 0#3 0#2), (0x94400800#32, .vadd 5#3 2#5 0#5 1#5 0#3 0#2), (0xF8300010#32, .csrr 3#6 0x10#14)
  , (0x4C5101A0#32, .amoAdd 5#6 4#6 false true true false 4#3), (0x80611003#32, .vfma 0#3 3#5 1#5 2#5 0#3 0#2)
  , (0x84C42845#32, .vdiv 1#3 6#5 4#5 5#5 0#3 1#2), (0x94830009#32, .vsum 5#3 4#5 3#5 0#3 0#2), (0x98E60308#32, .vexp2 7#5 6#5 3#3 0#2)
  , (0x98400912#32, .vcmp 2#3 0#5 1#5 1#3 0#2 2#3), (0x99042A18#32, .vsel 8#5 4#5 5#5 2#3 0#2), (0x84A460D0#32, .vcvt 1#3 5#5 4#5 12#5 0#3 3#2)
  , (0x810440D5#32, .vqnt 0#3 8#5 4#5 8#5 3#2), (0x9C260001#32, .vbcast 1#5 6#5 0#3 0#2), (0x9D220014#32, .pcnt 9#5 2#3)
  , (0x9C070008#32, .vloop 7#5), (0x9C000009#32, .vend), (0xA0442800#32, .vld 2#5 4#5 5#5), (0xA0644003#32, .vgath 3#5 4#5 8#5 0#3 0#2) ]
  = true := by decide +kernel

/-- The opcode of a command word is the low byte of its word 0 (R240, R241); 0x17 is reserved; a copy whose ATTR bits 13:11 are
4 appends to a ring, and seq.wait waits for its own tokens or for a signal (R367, R374). -/
theorem test_command_words :
    let c (w0 w1 : Word) : CmdWord := ⟨w0, w1, 0, 0⟩
    [ (c 0x01 0, Instr.mma (c 0x01 0)), (c 0x02 0, .mmz (c 0x02 0)), (c 0x08 0, .accld (c 0x08 0)), (c 0x09 0, .accst (c 0x09 0))
    , (c 0x0A 0, .accclr (c 0x0A 0)), (c 0x10 0, .copy (c 0x10 0)), (c 0x2010 0, .copyRingAppend (c 0x2010 0)), (c 0x11 0, .copyRed (c 0x11 0))
    , (c 0x12 0, .copyMc (c 0x12 0)), (c 0x13 0, .fill (c 0x13 0)), (c 0x14 0, .gath (c 0x14 0)), (c 0x15 0, .scat (c 0x15 0))
    , (c 0x16 0, .coll (c 0x16 0)), (c 0x18 0, .pubc (c 0x18 0)), (c 0x19 0, .tclass (c 0x19 0)), (c 0x20 0, .seqJmp (c 0x20 0))
    , (c 0x21 0, .seqLoop (c 0x21 0)), (c 0x22 0, .seqWaitOwn (c 0x22 0)), (c 0x22 4, .seqWaitSig (c 0x22 4)), (c 0x23 0, .seqSig (c 0x23 0))
    , (c 0x24 0, .seqEnd (c 0x24 0)) ].all (fun q => decodeCommand q.1 == some q.2) = true ∧ decodeCommand (c 0x17 0) = none := by
  decide +kernel

/-! ### The instruction placed for a step is the one that the step runs -/

/-- A placed word's next step adds: s3 of the slot that issues. -/
theorem test_placed_thread : (match step (State.reset.withFetchWord 32 0b000010_000011_000000_0_0000000000101) with
    | .next t => (here t).sval 3 == 5#64
    | _ => false) = true := by decide +kernel

/-- A placed accclr is the next command of a matrix unit. -/
theorem test_placed_command : (nextInstr (State.reset.withFetchWord 256 (0x100000000A + 2 ^ 64 * 0x700))).1 =
    some (.accclr ⟨0x100000000A#64, 0x700#64, 0#64, 0#64⟩) := by decide +kernel

/-! ### Single steps: results worked out from the rules -/

/-- Whether an outcome is a next state of which something holds. -/
def gives (o : Out) (p : State → Bool) : Bool := match o with | .next t => p t | _ => false

/-- Slot 1 with two register values. -/
def two (a b : Word) : State := smallWith (fun x => { x with sreg := [(1, a), (2, b)] })

/-- R257: the sum wraps. -/
theorem test_add : gives (exec (.add 1#6 1#6 2#6 false false) (two 0xFFFFFFFFFFFFFFFF#64 3#64)) (fun t => (here t).sval 1 == 2#64) = true := by
  decide +kernel
/-- R257: the high half of (-1) * 3 is all ones. -/
theorem test_mulh : gives (exec (.mulh 3#6 1#6 2#6 false false) (two 0xFFFFFFFFFFFFFFFF#64 3#64))
    (fun t => (here t).sval 3 == 0xFFFFFFFFFFFFFFFF#64) = true := by decide +kernel
/-- R258: -7 / 2 is -3, the remainder -1; a divisor of 0 gives all ones and the dividend. -/
theorem test_div : gives (exec (.div 3#6 1#6 2#6 false false) (two 0xFFFFFFFFFFFFFFF9#64 2#64))
    (fun t => (here t).sval 3 == 0xFFFFFFFFFFFFFFFD#64) = true := by decide +kernel
theorem test_rem : gives (exec (.rem 3#6 1#6 2#6 false false) (two 0xFFFFFFFFFFFFFFF9#64 2#64))
    (fun t => (here t).sval 3 == 0xFFFFFFFFFFFFFFFF#64) = true := by decide +kernel
theorem test_divu_zero : gives (exec (.divu 3#6 1#6 2#6 false false) (two 7#64 0#64)) (fun t => (here t).sval 3 == 0xFFFFFFFFFFFFFFFF#64) = true := by
  decide +kernel
theorem test_remu_zero : gives (exec (.remu 3#6 1#6 2#6 false false) (two 7#64 0#64)) (fun t => (here t).sval 3 == 7#64) = true := by
  decide +kernel
/-- R257: sar keeps the sign; R231, R266: a branch backwards by two words. -/
theorem test_sar : gives (exec (.sar 3#6 1#6 2#6 false false) (two 0x8000000000000000#64 63#64))
    (fun t => (here t).sval 3 == 0xFFFFFFFFFFFFFFFF#64) = true := by decide +kernel
theorem test_branch : gives (exec (.bLt 1#6 2#6 0x7FE#11) (two 0xFFFFFFFFFFFFFFFF#64 0#64)) (fun t => (here t).pc == 0xFF8#64) = true := by
  decide +kernel
theorem test_branch_unsigned : gives (exec (.bLtu 1#6 2#6 0x7FE#11) (two 0xFFFFFFFFFFFFFFFF#64 0#64)) (fun t => (here t).pc == 0x1004#64) = true := by
  decide +kernel
/-- R65: a sync-read of s1 empties it. -/
theorem test_sync_read : gives (exec (.add 3#6 1#6 2#6 true false) (two 1#64 2#64)) (fun t => !(here t).sF 1 && (here t).sF 2) = true := by
  decide +kernel
/-- R80, R81: an illegal word traps with cause 0; a slot without a handler ends. -/
theorem test_trap_entry : gives (exec (.trap 0x123#12) small) (fun t => (here t).pc == 0x2000#64 && (here t).tepc == 0x1000#64) = true := by
  decide +kernel
theorem test_trap_unhandled : gives (exec (.trap 0x123#12) (smallWith (fun x => { x with tvec := 0#64 })))
    (fun t => (match (here t).status with | .ending .trapped _ => true | _ => false)) = true := by decide +kernel

end Sys2Proof.Tests
end

section
/-! O60: every step keeps the memories in canonical form. One lemma for each function of the model that answers a state, in the
order of the model's files; a function that only passes its state on needs none. -/

namespace Sys2Proof.Machine
open Safety

/-! ## Rules for the memories' canonical form

`OnOk`, `OnSome` and `NextCanonical` say what holds of the answer of a function that may halt, find nothing or end the run; the
rules below pass the canonical form through sequencing, choices, pairs and folds. -/

/-- `p` holds of the answer, if there is one that does not halt. -/
def OnOk {α : Type} (p : α → Prop) (r : Except Halt α) : Prop := ∀ a, r = .ok a → p a

/-- `p` holds of what is found, if something is. -/
def OnSome {α : Type} (p : α → Prop) (r : Option α) : Prop := ∀ a, r = some a → p a

/-- The next state, if there is one, holds its memories in canonical form. -/
def NextCanonical (o : Host.Outcome State Fault Refusal) : Prop := ∀ t, o = .next t → MemoryCanonical t

theorem onOk_ok {α : Type} {p : α → Prop} {a : α} (h : p a) : OnOk p (.ok a) := fun _ e => Except.ok.inj e ▸ h

theorem onOk_error {α : Type} {p : α → Prop} {e : Halt} : OnOk p (.error e) := fun _ h => nomatch h

theorem onOk_bind {α β : Type} {q : α → Prop} {p : β → Prop} {x : Except Halt α} {f : α → Except Halt β} (hx : OnOk q x)
    (hf : ∀ a, q a → OnOk p (f a)) : OnOk p (x >>= f) := fun _ e => by
  obtain ⟨a, ha, hb⟩ := res_bind_ok e
  exact hf a (hx a ha) _ hb

theorem onOk_after {α β : Type} {p : β → Prop} {x : Except Halt α} {f : α → Except Halt β} (hf : ∀ a, OnOk p (f a)) :
    OnOk p (x >>= f) := fun _ e => by
  obtain ⟨a, -, hb⟩ := res_bind_ok e
  exact hf a _ hb

theorem onSome_some {α : Type} {p : α → Prop} {a : α} (h : p a) : OnSome p (some a) := fun _ e => Option.some.inj e ▸ h

theorem onSome_none {α : Type} {p : α → Prop} : OnSome p none := fun _ h => nomatch h

theorem nextCanonical_next {s : State} (h : MemoryCanonical s) : NextCanonical (.next s) :=
  fun _ e => Host.Outcome.next.inj e ▸ h

theorem nextCanonical_fault {r : Fault} : NextCanonical (.fault r) := fun _ e => nomatch e

theorem nextCanonical_finish {s : State} {r : Res} (h : MemoryCanonical s) (hr : OnOk MemoryCanonical r) :
    NextCanonical (finish s r) := fun _ e => canonical_finish h hr e

theorem canonical_ite {c : Prop} [Decidable c] {s t : State} (hs : MemoryCanonical s) (ht : MemoryCanonical t) :
    MemoryCanonical (if c then s else t) := by
  split
  · exact hs
  · exact ht

theorem canonical_snd {α : Type} {x : α × State} {a : α} {s : State} (e : x = (a, s)) (h : MemoryCanonical x.2) :
    MemoryCanonical s := by
  rw [e] at h
  exact h

theorem canonical_snd_snd {α β : Type} {x : α × β × State} {a : α} {b : β} {s : State} (e : x = (a, b, s))
    (h : MemoryCanonical x.2.2) : MemoryCanonical s := by
  rw [e] at h
  exact h

theorem canonical_pair {α : Type} {a : α} {s : State} (h : MemoryCanonical s) : MemoryCanonical (a, s).2 := h

theorem foldl_keeps {α β : Type} {p : β → Prop} {f : β → α → β} {l : List α} {b : β} (hf : ∀ b a, p b → p (f b a))
    (h : p b) : p (l.foldl f b) := List.foldlRecOn l f h fun b hb a _ => hf b a hb

/-- `canonical_foldl` with every implicit argument first, so that the goal fixes the fold before its step is judged. -/
theorem foldl_canonical {α : Type} {f : State → α → State} {l : List α} {s : State}
    (hf : ∀ s a, MemoryCanonical s → MemoryCanonical (f s a)) (h : MemoryCanonical s) : MemoryCanonical (l.foldl f s) :=
  canonical_foldl hf l h

theorem canonical_foldl_fst {α β : Type} {f : State × β → α → State × β} {l : List α} {q : State × β}
    (hf : ∀ q a, MemoryCanonical q.1 → MemoryCanonical (f q a).1) (h : MemoryCanonical q.1) :
    MemoryCanonical (l.foldl f q).1 := foldl_keeps (p := fun q : State × β => MemoryCanonical q.1) hf h

theorem canonical_foldl_snd {α β : Type} {f : β × State → α → β × State} {l : List α} {q : β × State}
    (hf : ∀ q a, MemoryCanonical q.2 → MemoryCanonical (f q a).2) (h : MemoryCanonical q.2) :
    MemoryCanonical (l.foldl f q).2 := foldl_keeps (p := fun q : β × State => MemoryCanonical q.2) hf h

/-- The canonical form looks at the memories alone: an update of anything else keeps it. -/
theorem canonical_update {s : State} {cur rota agenda work workTurn nextId freeCtr powered gts slots cores regs lineKey keyMat
      flight tokens messages contexts tlb lines stamps misses filter replicas forwards faults launches conts held lqNext barriers
      arrivals colls peerSeen samples capWins opLru opBest holes fabric ilvSeen errs report hostValue swapAt opMark peerOut
      peerSent jobs units replayed served} (h : MemoryCanonical s) :
    MemoryCanonical { s with
      cur := cur, rota := rota, agenda := agenda, work := work, workTurn := workTurn, nextId := nextId, freeCtr := freeCtr,
      powered := powered, gts := gts, slots := slots, cores := cores, regs := regs, lineKey := lineKey, keyMat := keyMat,
      flight := flight, tokens := tokens, messages := messages, contexts := contexts, tlb := tlb, lines := lines,
      stamps := stamps, misses := misses, filter := filter, replicas := replicas, forwards := forwards, faults := faults,
      launches := launches, conts := conts, held := held, lqNext := lqNext, barriers := barriers, arrivals := arrivals,
      colls := colls, peerSeen := peerSeen, samples := samples, capWins := capWins, opLru := opLru, opBest := opBest,
      holes := holes, fabric := fabric, ilvSeen := ilvSeen, errs := errs, report := report, hostValue := hostValue,
      swapAt := swapAt, opMark := opMark, peerOut := peerOut, peerSent := peerSent, jobs := jobs, units := units,
      replayed := replayed, served := served } := h

/-- New bytes in canonical form for a die's commons keep the form of the state. -/
theorem canonical_putCommons {s : State} (h : MemoryCanonical s) (d : Nat) {m : Memory} (hm : Memory.wf m = true) :
    MemoryCanonical { s with commons := FMap.put s.commons d m } := by
  refine ⟨h.1, h.2.1, fun q hq => ?_⟩
  rcases FMap.mem_put hq with rfl | e
  · exact hm
  · exact h.2.2 q e

theorem onOk_alu2 {f : Word → Word → Word} {d a b : BitVec 6} {m n : Bool} {s : State} (h : MemoryCanonical s) :
    OnOk MemoryCanonical (alu2 f d a b m n s) := fun _ e => canonical_alu2 h e

theorem onOk_alu1 {f : Word → Word} {d a : BitVec 6} {m : Bool} {s : State} (h : MemoryCanonical s) :
    OnOk MemoryCanonical (alu1 f d a m s) := fun _ e => canonical_alu1 h e

theorem onOk_alu0 {v : Slot → Word} {d : BitVec 6} {s : State} (h : MemoryCanonical s) :
    OnOk MemoryCanonical (alu0 v d s) := fun _ e => by
  obtain ⟨-, rfl⟩ := alu0_ok e
  exact canonical_setSlot h ..

/-! ### Machine/Priv.lean -/

theorem canonical_rewriteCellPair {s : State} {cell t n f : Nat} (h : MemoryCanonical s) :
    MemoryCanonical (rewriteCellPair s cell t n f) := by
  unfold rewriteCellPair keepHistory rewritePair
  iterate 6 refine canonical_setReg ?_ _ _
  exact h

theorem canonical_settleStretch {s : State} {cell : Nat} (h : MemoryCanonical s) :
    MemoryCanonical (settleStretch s cell) := by
  unfold settleStretch
  split
  · exact canonical_rewriteCellPair (canonical_modCell h _ (canonical_cell h _))
  · exact h

theorem canonical_settleStretches {s : State} (h : MemoryCanonical s) : MemoryCanonical (settleStretches s) :=
  foldl_canonical (fun _ _ h1 => canonical_settleStretch h1) h

theorem canonical_bump {s : State} {base ev k n : Nat} (h : MemoryCanonical s) :
    MemoryCanonical (bump s base ev k n) := by
  unfold bump
  extract_lets _ _ _
  exact canonical_ite (canonical_ite h h) h

theorem canonical_dueOnce {s : State} {l : Later} (h : MemoryCanonical s) : MemoryCanonical (s.dueOnce l) :=
  canonical_ite h h

/-! ### Machine/Phys.lean -/

theorem canonical_physReadFuel {k : Nat} {s : State} {pa n key : Nat} (h : MemoryCanonical s) :
    MemoryCanonical (physReadFuel k s pa n key).2 := by
  induction k generalizing s pa n with
  | zero => exact h
  | succ k ih =>
    unfold physReadFuel
    split
    · exact h
    · exact ih (canonical_physReadLine h _ _ _)

theorem canonical_physRead {s : State} {pa n key : Nat} (h : MemoryCanonical s) :
    MemoryCanonical (physRead s pa n key).2 := canonical_physReadFuel h

theorem canonical_physReadRaw {s : State} {pa n : Nat} (h : MemoryCanonical s) :
    MemoryCanonical (physReadRaw s pa n).2 := canonical_physRead h

theorem canonical_walkFrom {lv : Nat} {s : State} {table va : Nat} (h : MemoryCanonical s) :
    MemoryCanonical (walkFrom lv s table va).2 := by
  induction lv generalizing s table with
  | zero => exact h
  | succ lv ih =>
    unfold walkFrom
    extract_lets ix r pte size n group first back
    have hr : MemoryCanonical r.2 := canonical_physReadRaw h
    clear_value r
    split
    · exact h
    · split
      · exact hr
      · split
        · split <;> exact hr
        · split
          · exact hr
          · exact ih hr

theorem canonical_walk {s : State} {d asid va : Nat} (h : MemoryCanonical s) : MemoryCanonical (walk s d asid va).2 := by
  unfold walk
  extract_lets _ r _
  have hr : MemoryCanonical r.2 := canonical_physReadRaw h
  clear_value r
  split
  · exact h
  · split
    · exact h
    · split
      · exact hr
      · exact canonical_walkFrom hr

theorem canonical_translate {s : State} {p d asid va : Nat} {rd wr ex : Bool} (h : MemoryCanonical s) :
    MemoryCanonical (translate s p d asid va rd wr ex).2 := by
  unfold translate
  extract_lets f
  have hf : ∀ (pa : Nat) (pte : Word) (s : State), MemoryCanonical s → MemoryCanonical (f pa pte s).2 := by
    intro pa pte s h1
    change MemoryCanonical (ite _ _ _ : Xlate × State).2
    split <;> exact h1
  clear_value f
  split
  · exact h
  · split
    · exact hf _ _ _ h
    · split
      next e2 => exact canonical_snd e2 (canonical_walk (canonical_count h _ _ _))
      next e2 => exact canonical_snd e2 (canonical_walk (canonical_count h _ _ _))
      next e2 => exact hf _ _ _ (canonical_update (canonical_snd e2 (canonical_walk (canonical_count h _ _ _))))

theorem canonical_acquired {s : State} {x : Access} (h : MemoryCanonical s) : MemoryCanonical (acquired s x) :=
  canonical_ite h h

theorem canonical_readMiss {s : State} {d line key : Nat} (h : MemoryCanonical s) :
    MemoryCanonical (readMiss s d line key) := canonical_ite h h

theorem canonical_countL2 {s : State} {d line key : Nat} (h : MemoryCanonical s) :
    MemoryCanonical (countL2 s d line key) := canonical_count h _ _ _

theorem canonical_countSlice {s : State} {d line key attr : Nat} (h : MemoryCanonical s) :
    MemoryCanonical (countSlice s d line key attr) := canonical_ite (canonical_countL2 h) (canonical_count h _ _ _)

theorem canonical_install {s : State} {die line key : Nat} (h : MemoryCanonical s) :
    MemoryCanonical (install s die line key) := by
  unfold install
  split
  · exact h
  · exact canonical_update (canonical_makeRoom h _ _)

theorem canonical_addReplica {s : State} {r : Replica} (h : MemoryCanonical s) : MemoryCanonical (addReplica s r) :=
  canonical_update (canonical_makeRoom h _ _)

theorem canonical_homeRead {s : State} {d pa n key attr : Nat} (h : MemoryCanonical s) :
    MemoryCanonical (homeRead s d pa n key attr).2 := by
  unfold homeRead
  extract_lets _ t
  have ht : MemoryCanonical t := canonical_dropReplica (canonical_countSlice h) _ _
  clear_value t
  exact canonical_physReadLine (canonical_ite (canonical_readMiss ht) ht) _ _ _

theorem canonical_sliceWriteAny {s : State} {d pa n v key attr : Nat} {writer : Option Nat} (h : MemoryCanonical s) :
    MemoryCanonical (sliceWriteAny s d pa n v key attr writer) := by
  unfold sliceWriteAny
  extract_lets _ t
  have ht : MemoryCanonical t := canonical_sliceWrite h _ _ _ _ _ _ _
  clear_value t
  exact canonical_ite ht (canonical_sliceWrite ht _ _ _ _ _ _ _)

theorem canonical_sliceRead {s : State} {d pa n key attr : Nat} {fresh : Bool} (h : MemoryCanonical s) :
    MemoryCanonical (sliceRead s d pa n key attr fresh).2 := by
  unfold sliceRead
  extract_lets _
  split
  · exact h
  · exact canonical_physReadLine (canonical_flushLine h _ _) _ _ _

theorem canonical_sliceReadAny {s : State} {d pa n key attr : Nat} {fresh : Bool} (h : MemoryCanonical s) :
    MemoryCanonical (sliceReadAny s d pa n key attr fresh).2 := by
  unfold sliceReadAny
  extract_lets _ r t
  have hr : MemoryCanonical r.2 := canonical_sliceRead h
  have ht : MemoryCanonical t.2 := canonical_sliceRead hr
  clear_value r t
  split
  · exact hr
  · exact ht

theorem canonical_engineLine {s : State} {d pa n key attr : Nat} (h : MemoryCanonical s) :
    MemoryCanonical (engineLine s d pa n key attr).2 := by
  unfold engineLine
  extract_lets _ t
  have ht : MemoryCanonical t := canonical_countSlice h
  clear_value t
  exact canonical_sliceRead (canonical_ite (canonical_readMiss ht) ht)

theorem canonical_engineRead {s : State} {d pa n key attr : Nat} (h : MemoryCanonical s) :
    MemoryCanonical (engineRead s d pa n key attr).2 := by
  unfold engineRead
  extract_lets f
  have hf : ∀ (k : Nat) (s : State) (pa n : Nat), MemoryCanonical s → MemoryCanonical (f k s pa n).2 := by
    refine fun _ _ _ _ h1 => canonical_foldl_snd (fun _ _ h2 => ?_) h1
    extract_lets _ _ r
    have hr : MemoryCanonical r.2 := canonical_engineLine h2
    clear_value r
    split
    · exact hr
    · exact h2
  clear_value f
  exact hf _ _ _ _ h

/-! ### Machine/Ops.lean -/

theorem canonical_xlateCell {s : State} {cell : Nat} {va : Word} {rd wr : Bool} (h : MemoryCanonical s) :
    MemoryCanonical (xlateCell s cell va rd wr).2 := by
  unfold xlateCell
  split
  · exact canonical_translate h
  · exact h

/-! ### Machine/Matrix.lean -/

theorem canonical_cmdToken {s : State} {core : Nat} {w : CmdWord} {status : Word} (h : MemoryCanonical s) :
    MemoryCanonical (cmdToken s core w status) := canonical_ite h h

theorem canonical_seqDone {s : State} {core : Nat} {c : Cmd} (h : MemoryCanonical s) :
    MemoryCanonical (seqDone s core c) := by
  unfold seqDone
  split
  · exact h
  · exact canonical_ite h h

theorem canonical_completeCmd {s : State} {core : Nat} {c : Cmd} {status : Word} (h : MemoryCanonical s) :
    MemoryCanonical (completeCmd s core c status) := canonical_cmdToken (canonical_seqDone h)

theorem canonical_advanceStep {s : State} {cell core : Nat} (h : MemoryCanonical s) :
    MemoryCanonical (advanceStep s cell core) := by
  unfold advanceStep
  refine canonical_modCell h _ ?_
  split <;> exact canonical_cell h _

theorem canonical_discardMatrix {s : State} {sid : Nat} (h : MemoryCanonical s) :
    MemoryCanonical (discardMatrix s sid) := by
  unfold discardMatrix
  extract_lets _ _ _ t1
  have ht1 : MemoryCanonical t1 := canonical_update (foldl_canonical (fun _ _ h1 => canonical_completeCmd h1) h)
  clear_value t1
  split
  · exact canonical_ite ht1 ht1
  · exact ht1

theorem canonical_raiseDeferred {s : State} {core : Nat} {c : Cmd} {cause detail : Nat} {tval : Word}
    (h : MemoryCanonical s) : MemoryCanonical (raiseDeferred s core c cause detail tval) := by
  unfold raiseDeferred
  extract_lets t _
  have ht : MemoryCanonical t := canonical_discardMatrix (canonical_completeCmd h)
  clear_value t
  exact canonical_ite ht ht

theorem canonical_withHead {s : State} {w : CmdWord} {f : Nat → Cmd → State → State} (h : MemoryCanonical s)
    (hf : ∀ (n : Nat) (c : Cmd) (t : State), MemoryCanonical t → MemoryCanonical (f n c t)) :
    NextCanonical (withHead s w f) := by
  unfold withHead
  extract_lets _
  split
  · exact nextCanonical_next h
  · split
    · exact nextCanonical_next h
    · split
      · exact nextCanonical_next (canonical_update (canonical_completeCmd h))
      · split
        · exact nextCanonical_next h
        · exact nextCanonical_next (hf _ _ _ (canonical_advanceStep h))

theorem canonical_startProduct {zero : Bool} {core : Nat} {c : Cmd} {s : State} (h : MemoryCanonical s) :
    MemoryCanonical (startProduct zero core c s) := by
  unfold startProduct
  extract_lets _ _ _ _ _ _ _ _
  split
  · exact canonical_raiseDeferred h
  · split
    · exact canonical_raiseDeferred h
    · split
      · exact canonical_raiseDeferred h
      · exact canonical_update (canonical_modCell h _ (canonical_cell h _))

theorem canonical_readOperand {s : State} {cell pos bank : Nat} (h : MemoryCanonical s) :
    MemoryCanonical (readOperand s cell pos bank) := by
  unfold readOperand
  split
  · exact h
  · extract_lets _ mine
    split
    · extract_lets _ _
      split
      · exact canonical_update (canonical_modCell h _ (canonical_cell h _))
      · exact canonical_modCell h _ (canonical_cell h _)
    · clear_value mine
      split
      · exact h
      · exact h

theorem canonical_finishProduct {cell : Nat} {s : State} (h : MemoryCanonical s) :
    MemoryCanonical (finishProduct cell s) := by
  unfold finishProduct
  split
  · exact h
  next r _ =>
    split
    · exact h
    · split
      · exact canonical_update (canonical_raiseDeferred (canonical_modCell h _ (canonical_cell h _)))
      · extract_lets t t1
        have ht : MemoryCanonical t := canonical_count h _ _ _
        clear_value t
        have ht1 : MemoryCanonical t1 := by
          refine canonical_modCell ht _ ?_
          cases r.popA <;> cases r.popB <;> exact canonical_cell ht _
        exact canonical_update (canonical_completeCmd ht1)

theorem canonical_clearAcc {core : Nat} {c : Cmd} {s : State} (h : MemoryCanonical s) :
    MemoryCanonical (clearAcc core c s) := by
  unfold clearAcc
  extract_lets _ _ t
  have ht : MemoryCanonical t := canonical_modCell h _ (canonical_cell h _)
  clear_value t
  exact canonical_update (canonical_completeCmd ht)

/-! ### Machine/Access.lean -/

theorem canonical_startOwn {s : State} {x : Access} {pos : Nat} (h : MemoryCanonical s) :
    MemoryCanonical (startOwn s x pos) := canonical_ite h h

theorem canonical_startLower {s : State} {sid : Nat} {x : Access} (h : MemoryCanonical s) :
    MemoryCanonical (startLower s sid x) := by
  unfold startLower
  extract_lets _ _
  split
  · exact h
  · exact canonical_ite h h
  · exact h

theorem canonical_startAccess {s : State} {sid : Nat} {x : Access} {sp : Space} {pos : Nat} (h : MemoryCanonical s) :
    MemoryCanonical (startAccess s sid x sp pos) := by
  unfold startAccess
  extract_lets _ _
  split
  · exact canonical_startOwn h
  · exact h
  · exact h
  · exact canonical_startLower h
  · exact h
  · exact h

theorem canonical_issueMem {i : Instr} {regs vregs : List Nat} {base : Nat} {m : Bool} {ea : Word → Word}
    {want : Slot → Except Halt Want} {bad : Slot → Option Nat} {s : State} (h : MemoryCanonical s) :
    OnOk MemoryCanonical (issueMem i regs vregs base m ea want bad s) := by
  unfold issueMem
  extract_lets _ _
  iterate 11 refine onOk_after fun _ => ?_
  exact onOk_ok (canonical_startAccess h)

theorem canonical_trapAccess {s : State} {sid : Nat} {x : Slot} {cause detail : Nat} {tval : Word}
    (h : MemoryCanonical s) : MemoryCanonical (trapAccess s sid x cause detail tval) :=
  canonical_ite (canonical_takeTrap (canonical_update h) _ _ _ _ _) h

theorem canonical_refuseAccess {s : State} {x : Access} {sid : Nat} {pc : Word} {dst : Option Nat} {oldF : Bool}
    {cons : List Nat} {counts : Bool} (h : MemoryCanonical s) :
    MemoryCanonical (refuseAccess s x sid pc dst oldF cons counts) :=
  canonical_ite h (canonical_ite (canonical_trapAccess h) h)

theorem canonical_settleSlot {s : State} {x : Access} {r : Reply} {sid0 : Nat} {gen : BitVec 8} {pc : Word}
    {dst : Option Nat} {oldF : Bool} {cons : List Nat} {counts : Bool} (h : MemoryCanonical s) :
    MemoryCanonical (settleSlot s x r sid0 gen pc dst oldF cons counts) := by
  unfold settleSlot
  split
  · exact h
  · split
    · exact h
    · exact h
    · exact canonical_refuseAccess h
    · split
      · split
        · exact canonical_trapAccess h
        · exact h
      · exact h

theorem canonical_closeVector {s : State} {core st cause : Nat} (h : MemoryCanonical s) :
    MemoryCanonical (closeVector s core st cause) := by
  unfold closeVector
  split <;> exact h

theorem canonical_endVector {s : State} {core st cause : Nat} (h : MemoryCanonical s) :
    MemoryCanonical (endVector s core st cause) := canonical_ite h (canonical_closeVector h)

theorem canonical_vecVerdict {s : State} {core vid : Nat} (h : MemoryCanonical s) :
    MemoryCanonical (vecVerdict s core vid) := by
  unfold vecVerdict
  split
  · exact h
  · exact canonical_ite (canonical_ite h h) h

theorem canonical_vecUnitDone {s : State} {core vid : Nat} {f : VRun → VRun} (h : MemoryCanonical s) :
    MemoryCanonical (vecUnitDone s core vid f) := by
  unfold vecUnitDone
  extract_lets _
  split
  · exact canonical_ite h h
  · exact h

theorem canonical_poisonUnit {s : State} {x : Access} {run : VRun} (h : MemoryCanonical s) :
    MemoryCanonical (poisonUnit s x run) := canonical_ite h h

theorem canonical_settleVec {s : State} {x : Access} {r : Reply} {core vid lo : Nat} (h : MemoryCanonical s) :
    MemoryCanonical (settleVec s x r core vid lo) := by
  unfold settleVec
  extract_lets _
  split
  · exact h
  · split
    · exact canonical_vecUnitDone h
    · exact canonical_vecUnitDone (canonical_poisonUnit h)
    · exact h
    · split
      · exact canonical_vecUnitDone h
      · split
        · split
          · split
            · exact canonical_endVector h
            · exact h
          · exact canonical_vecUnitDone h
        · split
          · split
            · exact canonical_trapAccess h
            · exact h
          · exact canonical_vecUnitDone h

theorem canonical_frameDone {s : State} {core : Nat} {b : Blk} {i : Nat} (h : MemoryCanonical s) :
    MemoryCanonical (frameDone s core b i) := by
  unfold frameDone
  extract_lets _
  split
  · exact canonical_modCell h _ (Loc.wf_reclass _ (canonical_cell h _))
  · exact h

theorem canonical_blkCheck {s : State} {core bid : Nat} (h : MemoryCanonical s) :
    MemoryCanonical (blkCheck s core bid) := by
  unfold blkCheck
  split
  · exact canonical_ite h h
  · exact h

theorem canonical_performUnit {s : State} {x : Access} {core bid i : Nat} (h : MemoryCanonical s) :
    MemoryCanonical (performUnit s x core bid i).2 := by
  unfold performUnit
  split
  · extract_lets _
    split
    · exact canonical_localWrite (canonical_modCell h _ (canonical_cell h _)) _ _ _ _
    · exact canonical_performLocal h _ _ _
  · exact canonical_performLocal h _ _ _

theorem canonical_blkLocal {s : State} {x : Access} {core bid i : Nat} (h : MemoryCanonical s) :
    MemoryCanonical (blkLocal s x core bid i) := by
  unfold blkLocal
  extract_lets r _ _ t2
  have hr : MemoryCanonical r.2 := canonical_performUnit h
  have ht2 : MemoryCanonical t2 := by
    unfold t2
    split
    · exact canonical_ite hr (canonical_frameDone hr)
    · exact hr
  clear_value r t2
  exact canonical_blkCheck ht2

theorem canonical_settle {s : State} {x : Access} {r : Reply} (h : MemoryCanonical s) :
    MemoryCanonical (settle s x r) := by
  unfold settle
  split
  · exact canonical_settleSlot h
  · exact canonical_settleVec h
  · exact h

theorem canonical_whenRunning {s : State} {cell : Nat} {ev : Instr} {t : State} (h : MemoryCanonical s)
    (ht : MemoryCanonical t) : MemoryCanonical (whenRunning s cell ev t) := canonical_ite h ht

theorem canonical_whenFabric {s : State} {d : Nat} {ev : Instr} {t : State} (h : MemoryCanonical s)
    (ht : MemoryCanonical t) : MemoryCanonical (whenFabric s d ev t) := canonical_ite h ht

theorem canonical_whenPort {s : State} {cell : Nat} {l : Landed} {reserved : Bool} {t : State} (h : MemoryCanonical s)
    (ht : MemoryCanonical t) : MemoryCanonical (whenPort s cell l reserved t) := by
  unfold whenPort
  split
  · exact ht
  · exact canonical_ite (canonical_modCell h _ (canonical_cell h _)) h

theorem canonical_drainFifo {s : State} {cell : Nat} (h : MemoryCanonical s) : MemoryCanonical (drainFifo s cell) :=
  canonical_update (canonical_modCell h _ (canonical_cell h _))

theorem canonical_bringHome {s : State} {id : Nat} {ev : Instr} (h : MemoryCanonical s) :
    MemoryCanonical (bringHome s id ev) := by
  unfold bringHome
  split
  · split
    · extract_lets _ t
      have ht : MemoryCanonical t := canonical_whenPort h (canonical_ite h (canonical_settle h))
      clear_value t
      exact canonical_ite h (canonical_ite ht (canonical_whenFabric h ht))
    · exact h
  · exact h

/-! ### Machine/Port.lean -/

theorem canonical_setCopy {s : State} {cell : Nat} {r : CopyRun} (h : MemoryCanonical s) :
    MemoryCanonical (setCopy s cell r) := canonical_modCell h _ (canonical_cell h _)

theorem canonical_putLocal {s : State} {owe : FMap Nat} {fmt : Option Nat} {cell o k v : Nat} (h : MemoryCanonical s) :
    MemoryCanonical (putLocal s owe fmt cell o k v).1 := by
  unfold putLocal
  extract_lets _ _ t
  have ht : MemoryCanonical t := canonical_localWrite (canonical_modCell h _ (canonical_cell h _)) _ _ _ _
  clear_value t
  split
  · exact canonical_localWrite h _ _ _ _
  · split
    · refine canonical_modCell ht _ ?_
      split
      · exact Loc.wf_setFmt _ _ (canonical_cell ht _)
      · exact Loc.wf_reclass _ (canonical_cell ht _)
    · exact ht

theorem canonical_putUnitBytes {s : State} {j : PortJob} {cell o k v : Nat} (h : MemoryCanonical s) :
    MemoryCanonical (putUnitBytes s j cell o k v) := by
  unfold putUnitBytes
  split
  · exact canonical_setCopy (canonical_putLocal h)
  · exact canonical_update (canonical_putLocal h)

theorem canonical_reduceUnit {s : State} {j : PortJob} {cell o n v : Nat} (h : MemoryCanonical s) :
    MemoryCanonical (reduceUnit s j cell o n v) := by
  unfold reduceUnit
  split
  · exact h
  · extract_lets _ _ _ z
    have hz : MemoryCanonical z.1 := canonical_foldl_fst (fun _ _ h1 => canonical_putUnitBytes h1) h
    clear_value z
    split
    · exact canonical_setCopy hz
    · exact hz

theorem canonical_actUnit {s : State} {j : PortJob} {u : PortUnit} (h : MemoryCanonical s) :
    MemoryCanonical (actUnit s j u) := by
  unfold actUnit
  extract_lets _ _ _ _ _
  split
  · exact h
  · split
    · exact canonical_putUnitBytes h
    · exact canonical_ite h (canonical_commonsWrite h _ _ _ _ _)
  · exact canonical_reduceUnit h

theorem canonical_servePort {s : State} {u : PortUnit} (h : MemoryCanonical s) : MemoryCanonical (servePort s u) := by
  unfold servePort
  extract_lets _
  split
  · exact h
  · extract_lets t1
    have ht1 : MemoryCanonical t1 := canonical_actUnit h
    clear_value t1
    exact canonical_ite ht1 ht1

theorem canonical_portWork {s : State} {j : PortJob} {reads : List Spot} {judged : State → Judged × State}
    {stop : Judged → State → State} {move : FMap Nat → State → List (Spot × UnitAct) × State} {finish : State → State}
    (h : MemoryCanonical s) (hjudged : ∀ t, MemoryCanonical t → MemoryCanonical (judged t).2)
    (hstop : ∀ v t, MemoryCanonical t → MemoryCanonical (stop v t))
    (hmove : ∀ got t, MemoryCanonical t → MemoryCanonical (move got t).2)
    (hfinish : ∀ t, MemoryCanonical t → MemoryCanonical (finish t)) :
    MemoryCanonical (portWork s j reads judged stop move finish) := by
  unfold portWork
  extract_lets f
  have hf : ∀ (got : FMap Nat) (s : State), MemoryCanonical s → MemoryCanonical (f got s) := fun got s h1 =>
    canonical_ite (hfinish _ (hmove got s h1)) (foldl_canonical (fun _ _ h2 => h2) (hmove got s h1))
  clear_value f
  split
  · split
    · exact h
    · split
      · split
        · exact hstop _ _ (canonical_update h)
        · exact hfinish _ (canonical_update h)
      · split
        · exact hstop _ _ (canonical_update h)
        · split
          next e4 => exact hf _ _ (canonical_snd e4 (hjudged _ (canonical_update h)))
          next e5 => exact hstop _ _ (canonical_snd e5 (hjudged _ (canonical_update h)))
  · split
    next e1 =>
      split
      · exact hf _ _ (canonical_snd e1 (hjudged _ h))
      · exact foldl_canonical (fun _ _ h1 => h1) (canonical_update (canonical_snd e1 (hjudged _ h)))
    next e2 => exact hstop _ _ (canonical_snd e2 (hjudged _ h))

theorem canonical_loadTile {core : Nat} {c : Cmd} {s : State} (h : MemoryCanonical s) :
    MemoryCanonical (loadTile core c s) := by
  unfold loadTile
  extract_lets _ _ t
  have ht : MemoryCanonical t := canonical_modCell h _ (canonical_cell h _)
  clear_value t
  split
  · exact h
  · exact foldl_canonical (fun _ _ h1 => h1) ht

theorem canonical_tileLoaded {s : State} {core : Nat} {c : Cmd} {j : PortJob} (h : MemoryCanonical s) :
    MemoryCanonical (tileLoaded s core c j) := by
  unfold tileLoaded
  extract_lets _ _
  split
  · exact h
  · extract_lets _ _ _ t
    have ht : MemoryCanonical t := canonical_modCell h _ (canonical_cell h _)
    clear_value t
    exact canonical_update (canonical_completeCmd ht)

theorem canonical_storeTile {core : Nat} {c : Cmd} {s : State} (h : MemoryCanonical s) :
    MemoryCanonical (storeTile core c s) := by
  unfold storeTile
  extract_lets _ _ _ _ _ _
  split
  · split
    · exact canonical_raiseDeferred h
    · split
      · exact canonical_update (canonical_completeCmd h)
      · exact foldl_canonical (fun _ _ h1 => h1) h
  · exact h

theorem canonical_endTile {s : State} {id : Nat} (h : MemoryCanonical s) : MemoryCanonical (endTile s id) := by
  unfold endTile
  split
  · exact h
  · split
    · exact h
    · split
      · exact h
      · split
        · exact canonical_update (canonical_completeCmd h)
        · exact canonical_tileLoaded h

/-! ### Machine/Mem.lean -/

theorem canonical_loadRes {i : Instr} {d b : BitVec 6} {y : Bool} {ea : Word → Word} {n : Nat} {sext acq : Bool}
    {scope : Nat} {plain : Bool} {s : State} (h : MemoryCanonical s) :
    OnOk MemoryCanonical (loadRes i d b y ea n sext acq scope plain s) := canonical_issueMem h

theorem canonical_storeRes {i : Instr} {d b : BitVec 6} {y : Bool} {ea : Word → Word} {n : Nat} {rel : Bool}
    {scope : Nat} {plain : Bool} {s : State} (h : MemoryCanonical s) :
    OnOk MemoryCanonical (storeRes i d b y ea n rel scope plain s) := canonical_issueMem h

theorem canonical_feRes {i : Instr} {regs : List Nat} {reads : List (BitVec 6)} {b : BitVec 6} {y : Bool}
    {dst : Option Nat} {op : Slot → Except Halt MemOp} {acq rel : Bool} {s : State} (h : MemoryCanonical s) :
    OnOk MemoryCanonical (feRes i regs reads b y dst op acq rel s) := canonical_issueMem h

theorem canonical_amoRes {i : Instr} {o : AmoOp} {d va : BitVec 6} {m : Bool} {n : Nat} {acq rel : Bool} {scope : Nat}
    {s : State} (h : MemoryCanonical s) : OnOk MemoryCanonical (amoRes i o d va m n acq rel scope s) :=
  canonical_issueMem h

theorem canonical_execLineCst {d va b : BitVec 6} {n : BitVec 2} {r : Bool} {sc : BitVec 3} {s : State}
    (h : MemoryCanonical s) : NextCanonical (execLineCst d va b n r sc s) := by
  unfold execLineCst
  extract_lets _
  exact nextCanonical_finish h (onOk_after fun _ => canonical_issueMem h)

theorem canonical_enterBlk {s : State} {core : Nat} {b : Blk} (h : MemoryCanonical s) :
    MemoryCanonical (enterBlk s core b) := by
  unfold enterBlk
  extract_lets _ _ _ _ t2 t3 _
  have ht2 : MemoryCanonical t2 := canonical_ite (foldl_canonical (fun _ _ h1 => canonical_startOwn h1) h) h
  have ht3 : MemoryCanonical t3 := canonical_ite ht2 ht2
  clear_value t2 t3
  exact ht3

theorem canonical_blkRes {i : Instr} {wr : Bool} {d va b : BitVec 6} {t : Bool} {sc : BitVec 3} {s : State}
    (h : MemoryCanonical s) : OnOk MemoryCanonical (blkRes i wr d va b t sc s) := by
  unfold blkRes
  extract_lets _ _ _ _ _ _
  iterate 9 refine onOk_after fun _ => ?_
  split
  · exact onOk_ok h
  · refine onOk_after fun _ => onOk_after fun _ => ?_
    split
    · exact onOk_ok h
    · split <;> exact onOk_ok h

theorem canonical_execFence {k : BitVec 2} {sc : BitVec 3} {s : State} (h : MemoryCanonical s) :
    NextCanonical (execFence k sc s) := by
  unfold execFence
  refine nextCanonical_finish h ?_
  extract_lets _ _ _ _ t
  have ht : MemoryCanonical t := canonical_ite h h
  clear_value t
  split
  · exact onOk_after fun _ => onOk_ok h
  · exact onOk_after fun _ => onOk_after fun _ => onOk_ok ht

theorem canonical_maintTarget {s : State} {ea : Word} {rd : Bool} (h : MemoryCanonical s) :
    MemoryCanonical (maintTarget s ea rd).2 := by
  unfold maintTarget
  split
  next e => exact canonical_snd e (canonical_xlateCell h)
  next e1 => exact canonical_snd e1 (canonical_xlateCell h)

theorem canonical_maint {va : BitVec 6} {rd : Bool} {f : Nat → Nat → Nat → Word → State → State} {s : State}
    (hf : ∀ (k m n : Nat) (w : Word) (t : State), MemoryCanonical t → MemoryCanonical (f k m n w t))
    (h : MemoryCanonical s) : OnOk MemoryCanonical (maint va rd f s) := by
  unfold maint
  extract_lets _
  refine onOk_after fun _ => onOk_after fun _ => ?_
  extract_lets r t
  have hr : MemoryCanonical r.2 := canonical_maintTarget h
  have ht : MemoryCanonical t := by
    unfold t
    split
    · exact hf _ _ _ _ _ hr
    · exact hr
  clear_value r t
  exact onOk_ok ht

theorem canonical_execCinv {va : BitVec 6} {s : State} (h : MemoryCanonical s) : NextCanonical (execCinv va s) := by
  unfold execCinv
  exact nextCanonical_finish h (canonical_maint (fun _ _ _ _ _ h1 => canonical_ite
    (canonical_dropReplica (canonical_update h1) _ _) h1) h)

theorem canonical_execCwb {va : BitVec 6} {s : State} (h : MemoryCanonical s) : NextCanonical (execCwb va s) := by
  unfold execCwb
  refine nextCanonical_finish h ?_
  extract_lets _
  iterate 3 refine onOk_after fun _ => ?_
  exact canonical_maint (fun _ _ _ _ _ h1 => canonical_flushLine h1 _ _) h

theorem canonical_bringLine {s : State} {d pa key : Nat} (h : MemoryCanonical s) :
    MemoryCanonical (bringLine s d pa key) := by
  unfold bringLine
  extract_lets _ r
  have hr : MemoryCanonical r.2 := canonical_physReadLine (canonical_dropReplica h _ _) _ _ _
  clear_value r
  split
  · exact canonical_install h
  · split
    · exact h
    · exact canonical_addReplica hr

theorem canonical_prefetchLine {s : State} {d pa key : Nat} (h : MemoryCanonical s) :
    MemoryCanonical (prefetchLine s d pa key) := by
  unfold prefetchLine
  extract_lets _ t
  have ht : MemoryCanonical t := canonical_readMiss h
  clear_value t
  exact canonical_ite ht (canonical_bringLine ht)

theorem canonical_fillL1 {s : State} {core asid : Nat} {va : Word} {pa key : Nat} {wr : Bool} (h : MemoryCanonical s) :
    MemoryCanonical (fillL1 s core asid va pa key wr) := canonical_update (canonical_sliceRead h)

theorem canonical_execPref {va : BitVec 6} {s : State} (h : MemoryCanonical s) : NextCanonical (execPref va s) := by
  unfold execPref
  refine nextCanonical_finish h (canonical_maint (fun _ _ _ _ _ h1 => ?_) h)
  split
  · exact h1
  · exact canonical_fillL1 (canonical_prefetchLine h1)

theorem canonical_execPrefW {va : BitVec 6} {s : State} (h : MemoryCanonical s) : NextCanonical (execPrefW va s) :=
  nextCanonical_finish h (canonical_maint (fun _ _ _ _ _ h1 => canonical_ite h1 (canonical_prefetchLine h1)) h)

/-! ### Machine/Registers.lean -/

theorem canonical_writeAsidtb {s : State} {by_ : Writer} {d : Nat} {v : Word} (h : MemoryCanonical s) :
    MemoryCanonical (writeAsidtb s by_ d v) := canonical_ite h h

theorem canonical_writeCasid {s : State} {by_ : Writer} {cell : Nat} {v : Word} (h : MemoryCanonical s) :
    MemoryCanonical (writeCasid s by_ cell v) := canonical_ite h h

theorem canonical_pushBankPairing {s : State} {d group bank : Nat} (h : MemoryCanonical s) :
    MemoryCanonical (pushBankPairing s d group bank) := by
  unfold pushBankPairing
  extract_lets _
  split <;> exact h

theorem canonical_requestRetire {s : State} {d g b : Nat} (h : MemoryCanonical s) :
    MemoryCanonical (requestRetire s d g b) := by
  unfold requestRetire
  extract_lets _ _ _
  split
  · exact h
  · split
    · exact canonical_pushBankPairing h
    · exact h

theorem canonical_writeBret {s : State} {d : Nat} {v : Word} (h : MemoryCanonical s) :
    MemoryCanonical (writeBret s d v) := canonical_ite (canonical_requestRetire h) h

theorem canonical_writeAgemon {s : State} {cell : Nat} {v : Word} (h : MemoryCanonical s) :
    MemoryCanonical (writeAgemon s cell v) := canonical_ite h h

theorem canonical_writePerf {s : State} {off : Nat} {v : Word} (h : MemoryCanonical s) :
    MemoryCanonical (writePerf s off v) := canonical_ite h (canonical_ite h h)

theorem canonical_writeWheel {s : State} {d o : Nat} {v : Word} (h : MemoryCanonical s) :
    MemoryCanonical (writeWheel s d o v) := by
  unfold writeWheel
  extract_lets _ _
  exact canonical_ite h (canonical_ite h (canonical_ite h (canonical_ite h h)))

theorem canonical_dieWrite {s : State} {by_ : Writer} {d o : Nat} {v : Word} (h : MemoryCanonical s) :
    MemoryCanonical (dieWrite s by_ d o v) :=
  canonical_ite (canonical_writeWheel h) <| canonical_ite h <| canonical_ite (canonical_writeBret h) <|
  canonical_ite h <| canonical_ite (canonical_writeAsidtb h) <| canonical_ite (canonical_writeCasid h) <|
  canonical_ite (canonical_writePerf h) <| canonical_ite (canonical_writePerf h) <| canonical_ite
    (canonical_ite h (canonical_ite (canonical_writeAgemon h) (canonical_ite h h))) h

theorem canonical_discardKey {s : State} {n : Nat} (h : MemoryCanonical s) : MemoryCanonical (discardKey s n) := by
  unfold discardKey
  extract_lets _ _ t1 _ _
  have ht1 : MemoryCanonical t1 := foldl_canonical (fun _ _ h1 => canonical_performForward h1 _) h
  clear_value t1
  exact ht1

theorem canonical_writeKey {s : State} {by_ : Writer} {n : Nat} {v : Word} (h : MemoryCanonical s) :
    MemoryCanonical (writeKey s by_ n v) := canonical_ite (canonical_discardKey h) h

theorem canonical_answerAccess {s : State} {f : FaultRec} {deny : Bool} {x : Access} (h : MemoryCanonical s) :
    MemoryCanonical (answerAccess s f deny x) := by
  unfold answerAccess
  extract_lets _ _
  split
  · extract_lets _
    split
    · exact canonical_takeTrap (canonical_update (canonical_update h)) _ _ _ _ _
    · exact h
  · exact h

theorem canonical_answerFault {s : State} {f : FaultRec} {deny : Bool} (h : MemoryCanonical s) :
    MemoryCanonical (answerFault s f deny) := by
  unfold answerFault
  extract_lets _ t t1 _ _
  have ht : MemoryCanonical t := foldl_canonical (fun _ _ h1 => canonical_answerAccess h1) h
  have ht1 : MemoryCanonical t1 := by
    refine foldl_canonical (fun _ _ h1 => ?_) ht
    extract_lets _
    exact canonical_ite (canonical_takeTrap (canonical_update h1) _ _ _ _ _) h1
  clear_value t t1
  exact ht1

theorem canonical_writeFqdone {s : State} {p : Nat} {v : Word} (h : MemoryCanonical s) :
    MemoryCanonical (writeFqdone s p v) := by
  unfold writeFqdone
  extract_lets _ _ r
  have hr : MemoryCanonical r.2 := canonical_physReadRaw h
  clear_value r
  split
  · exact h
  · split
    · exact h
    · split
      · exact canonical_answerFault hr
      · exact canonical_ite (canonical_answerFault hr) hr

theorem canonical_writeFq {s : State} {p i : Nat} {v : Word} (h : MemoryCanonical s) :
    MemoryCanonical (writeFq s p i v) := by
  unfold writeFq
  split
  · exact h
  · exact h
  · exact h
  · exact canonical_writeFqdone h
  · exact h

theorem canonical_writeLqtail {s : State} {p q : Nat} {v : Word} (h : MemoryCanonical s) :
    MemoryCanonical (writeLqtail s p q v) := canonical_ite h h

theorem canonical_writeLqbase {s : State} {p q : Nat} {v : Word} (h : MemoryCanonical s) :
    MemoryCanonical (writeLqbase s p q v) := canonical_ite h h

theorem canonical_writeLqsize {s : State} {p q : Nat} {v : Word} (h : MemoryCanonical s) :
    MemoryCanonical (writeLqsize s p q v) := canonical_ite h h

theorem canonical_writeLq {s : State} {p q i : Nat} {v : Word} (h : MemoryCanonical s) :
    MemoryCanonical (writeLq s p q i v) := by
  unfold writeLq
  split
  · exact canonical_writeLqbase h
  · exact canonical_writeLqsize h
  · exact canonical_writeLqtail h
  · exact h

theorem canonical_agingDue {s : State} {cell : Nat} (h : MemoryCanonical s) : MemoryCanonical (agingDue s cell) :=
  canonical_ite (canonical_dueOnce h) h

theorem canonical_writePctl {s : State} {p : Nat} {v : Word} (h : MemoryCanonical s) :
    MemoryCanonical (writePctl s p v) := foldl_canonical (fun _ _ h1 => canonical_agingDue h1) h

theorem canonical_writePart {s : State} {p w : Nat} {v : Word} (h : MemoryCanonical s) :
    MemoryCanonical (writePart s p w v) := canonical_ite h h

theorem canonical_writeIlv {s : State} {n w : Nat} {v : Word} (h : MemoryCanonical s) :
    MemoryCanonical (writeIlv s n w v) := canonical_ite h h

theorem canonical_writePeer {s : State} {by_ : Writer} {n w : Nat} {v : Word} (h : MemoryCanonical s) :
    MemoryCanonical (writePeer s by_ n w v) := canonical_ite h h

theorem canonical_pkgWrite {s : State} {by_ : Writer} {o : Nat} {v : Word} (h : MemoryCanonical s) :
    MemoryCanonical (pkgWrite s by_ o v) :=
  canonical_ite (canonical_writePart h) <| canonical_ite (canonical_writeIlv h) <| canonical_ite (canonical_writeKey h) <|
  canonical_ite h <| canonical_ite h <| canonical_ite h <| canonical_ite (canonical_writePeer h) <|
  canonical_ite (canonical_writePctl h) <| canonical_ite (canonical_writeFq h) <| canonical_ite (canonical_writeLq h) <|
  canonical_ite h h

theorem canonical_privWrite {s : State} {by_ : Writer} {off : Nat} {v : Word} (h : MemoryCanonical s) :
    MemoryCanonical (privWrite s by_ off v) :=
  canonical_ite (canonical_dieWrite h) (canonical_ite (canonical_pkgWrite h) h)

theorem canonical_byWriter {s : State} {by_ : Writer} {t : State} (h : MemoryCanonical s) (ht : MemoryCanonical t) :
    NextCanonical (byWriter s by_ t) := nextCanonical_next (canonical_ite ht h)

theorem canonical_execLqsizeWrite {by_ : Writer} {p q : Nat} {base : Bool} {v : Word} {s : State}
    (h : MemoryCanonical s) : NextCanonical (execLqsizeWrite by_ p q base v s) :=
  canonical_byWriter h (canonical_ite (canonical_writeLqbase h) (canonical_writeLqsize h))

/-! ### Machine/Power.lean -/

theorem canonical_opLookup {s : State} {sid : Nat} (h : MemoryCanonical s) : MemoryCanonical (opLookup s sid) := by
  unfold opLookup
  extract_lets _ t t1
  have ht : MemoryCanonical t := canonical_update (canonical_modCell h _ (canonical_cell h _))
  have ht1 : MemoryCanonical t1 := canonical_dueOnce ht
  clear_value t t1
  split
  · exact h
  · split
    · exact ht1
    · split <;> exact ht1

theorem canonical_endPhase {s : State} {sid : Nat} (h : MemoryCanonical s) : MemoryCanonical (endPhase s sid) := by
  unfold endPhase
  extract_lets _ _ _ _
  split
  · exact h
  · extract_lets _ _ _ _ _ _ _
    exact canonical_ite h h

theorem canonical_beginStep {s : State} {cell f : Nat} (h : MemoryCanonical s) : MemoryCanonical (beginStep s cell f) :=
  canonical_update (canonical_modCell h _ (canonical_cell h _))

theorem canonical_retune {s : State} {cell : Nat} (h : MemoryCanonical s) : MemoryCanonical (retune s cell) := by
  unfold retune
  extract_lets _ _ _ _ _ t _
  have ht : MemoryCanonical t := canonical_modCell h _ (canonical_cell h _)
  clear_value t
  split
  · exact canonical_ite (canonical_modCell ht _ (canonical_cell ht _)) ht
  · exact canonical_beginStep ht

theorem canonical_beginHop {s : State} {cell : Nat} {up : Bool} {now : Nat} (h : MemoryCanonical s) :
    MemoryCanonical (beginHop s cell up now) := by
  unfold beginHop
  extract_lets _ t
  have ht : MemoryCanonical t := canonical_modCell h _ (canonical_cell h _)
  clear_value t
  exact canonical_update (canonical_count ht _ _ _)

theorem canonical_askBudget {s : State} {cell : Nat} (h : MemoryCanonical s) : MemoryCanonical (askBudget s cell) := h

theorem canonical_gearEvalAt {s : State} {cell now : Nat} (h : MemoryCanonical s) :
    MemoryCanonical (gearEvalAt s cell now) := by
  unfold gearEvalAt
  split
  · exact h
  · extract_lets want t u
    have ht : MemoryCanonical t := canonical_modCell h _ (canonical_cell h _)
    clear_value t want
    have hu : MemoryCanonical u := by
      unfold u
      generalize (t.cell cell).gearState = g
      cases g with
      | lehr => cases want with
        | false => exact ht
        | true => exact canonical_beginHop ht
      | hopUp stop => exact ht
      | glory => cases want with
        | false => exact canonical_askBudget (canonical_modCell ht _ (canonical_cell ht _))
        | true => exact ht
      | pendingFall since => cases want with
        | false => exact ht
        | true => exact canonical_modCell ht _ (canonical_cell ht _)
      | hopDown stop => exact ht
    exact canonical_ite hu (canonical_retune hu)

theorem canonical_gearEval {s : State} {cell : Nat} (h : MemoryCanonical s) :
    MemoryCanonical (gearEval s cell) := canonical_gearEvalAt h

theorem canonical_execLholdExpiry {cell : Nat} {budget : Bool} {s : State} (h : MemoryCanonical s) :
    NextCanonical (execLholdExpiry cell budget s) := by
  unfold execLholdExpiry
  split
  · extract_lets t
    have ht : MemoryCanonical t := canonical_gearEval h
    clear_value t
    split
    · exact nextCanonical_next (canonical_beginHop ht)
    · refine nextCanonical_next ?_
      split <;> exact ht
  · exact nextCanonical_next h

theorem canonical_setRemoved {s : State} {sid : Nat} {gone : Bool} (h : MemoryCanonical s) :
    MemoryCanonical (setRemoved s sid gone) := by
  unfold setRemoved
  extract_lets _ _
  split
  · exact canonical_ite h (canonical_ite (canonical_dueOnce h) h)
  · exact canonical_ite h h

theorem canonical_applyDepth {s : State} {cell : Nat} (h : MemoryCanonical s) : MemoryCanonical (applyDepth s cell) := by
  unfold applyDepth
  split
  · exact h
  · extract_lets _ _ t
    have ht : MemoryCanonical t :=
      foldl_canonical (fun _ _ h1 => foldl_canonical (fun _ _ h2 => canonical_setRemoved h2) h1) h
    clear_value t
    exact canonical_update (canonical_modCell ht _ (canonical_cell ht _))

theorem canonical_pastStretch {s : State} {cell t : Nat} (h : MemoryCanonical s) :
    MemoryCanonical (pastStretch s cell t) := canonical_modCell h _ (canonical_cell h _)

theorem canonical_clockRuns {s : State} {cell t n f : Nat} (h : MemoryCanonical s) :
    MemoryCanonical (clockRuns s cell t n f) := by
  have hr : MemoryCanonical (pastStretch (rewriteCellPair s cell t n f) cell t) :=
    canonical_pastStretch (canonical_rewriteCellPair h)
  exact canonical_applyDepth (canonical_drainFifo (canonical_update hr))

theorem canonical_endHop {s : State} {cell : Nat} {stop : Word} {up : Bool} (h : MemoryCanonical s) :
    MemoryCanonical (endHop s cell stop up) := canonical_clockRuns (canonical_modCell h _ (canonical_cell h _))

theorem canonical_execHopEnd {cell : Nat} {s : State} (h : MemoryCanonical s) : NextCanonical (execHopEnd cell s) := by
  unfold execHopEnd
  extract_lets f
  have hf : ∀ (stop : Word) (up : Bool), MemoryCanonical (f stop up) := fun _ _ => canonical_ite (canonical_endHop h) h
  clear_value f
  split
  · exact nextCanonical_next (hf _ _)
  · exact nextCanonical_next (hf _ _)
  · exact nextCanonical_next h

theorem canonical_endCellStep {s : State} {cell : Nat} {t : Word} {f : Nat} (h : MemoryCanonical s) :
    MemoryCanonical (endCellStep s cell t f) := canonical_clockRuns (canonical_modCell h _ (canonical_cell h _))

theorem canonical_execClockStepEnd {fabric : Bool} {n : Nat} {s : State} (h : MemoryCanonical s) :
    NextCanonical (execClockStepEnd fabric n s) := by
  unfold execClockStepEnd
  extract_lets _
  split
  · exact nextCanonical_next h
  · split
    · exact nextCanonical_next h
    · exact nextCanonical_next (canonical_ite h (canonical_endCellStep h))

theorem canonical_execFabricOpEval {die : Nat} {s : State} (h : MemoryCanonical s) :
    NextCanonical (execFabricOpEval die s) := by
  unfold execFabricOpEval
  extract_lets _ _ _ _ _ _
  split
  · exact nextCanonical_next h
  · split <;> exact nextCanonical_next h

theorem canonical_execDroop {cell : Nat} {s : State} (h : MemoryCanonical s) : NextCanonical (execDroop cell s) := by
  unfold execDroop
  extract_lets _ _ _ _ _ e _ third _ t1
  have ht1 : MemoryCanonical t1 := canonical_modCell (canonical_update h) _ (canonical_cell h _)
  clear_value t1
  clear_value e third
  split
  · exact nextCanonical_next ht1
  · exact nextCanonical_next ht1

theorem canonical_execDroopRecovery {cell : Nat} {s : State} (h : MemoryCanonical s) :
    NextCanonical (execDroopRecovery cell s) :=
  nextCanonical_next (canonical_settleStretch (canonical_modCell h _ (canonical_cell h _)))

theorem canonical_setDepth {s : State} {cell n : Nat} (h : MemoryCanonical s) : MemoryCanonical (setDepth s cell n) :=
  canonical_applyDepth h

theorem canonical_deepenOne {l : List CellSample} {q : State × List Nat} (hq : MemoryCanonical q.1) :
    MemoryCanonical (deepenOne l q).1 := by
  unfold deepenOne
  split
  · exact canonical_setDepth hq
  · exact hq

theorem canonical_relieveOne {s : State} {l : List CellSample} (h : MemoryCanonical s) :
    MemoryCanonical (relieveOne s l) := by
  unfold relieveOne
  split
  · exact canonical_setDepth h
  · exact h

theorem canonical_noteCell {s : State} {x : CellSample} (h : MemoryCanonical s) : MemoryCanonical (noteCell s x) :=
  canonical_count (canonical_update h) _ _ _

theorem canonical_allowRise {s : State} (h : MemoryCanonical s) :
    MemoryCanonical (allowRise s) := by
  obtain ⟨hp, hc, hm⟩ := h
  refine ⟨hp, ?_, hm⟩
  intro q hq
  obtain ⟨r, hr, rfl⟩ := List.mem_map.mp hq
  exact hc r hr

theorem canonical_execPowerSample {watts amps ballast deepen : Nat} {cells : List CellSample} {s : State}
    (h : MemoryCanonical s) : NextCanonical (execPowerSample watts amps ballast deepen cells s) := by
  unfold execPowerSample
  extract_lets _ _ _ _ _ _ _ t _ t2
  have ht : MemoryCanonical t := foldl_canonical (fun _ _ h1 => canonical_noteCell h1) h
  have ht2 : MemoryCanonical t2 := by
    unfold t2
    split
    · exact ht
    · split
      · exact canonical_foldl_fst (fun _ _ h1 => canonical_deepenOne h1) ht
      · exact canonical_ite (canonical_relieveOne ht) ht
  clear_value t t2
  exact nextCanonical_next (canonical_allowRise ht2)

/-! ### Machine/Engine.lean -/

theorem canonical_agentXlate {s : State} {g : Agent} {va : Word} {rd wr : Bool} (h : MemoryCanonical s) :
    MemoryCanonical (agentXlate s g va rd wr).2 := by
  unfold agentXlate
  split
  · exact h
  · split
    · exact h
    · split
      · exact h
      · split
        next e3 =>
          extract_lets t
          have ht : MemoryCanonical t := canonical_demandFault (canonical_snd e3 (canonical_translate h)) _ _ _ _ _
          clear_value t
          exact ht
        · exact canonical_translate h

theorem canonical_readVirtFuel {k : Nat} {s : State} {g : Agent} {va : Word} {n : Nat} (h : MemoryCanonical s) :
    MemoryCanonical (readVirtFuel k s g va n).2 := by
  induction k generalizing s va n with
  | zero => exact h
  | succ k ih =>
    unfold readVirtFuel
    split
    · exact h
    · split
      next e => exact canonical_snd e (canonical_agentXlate h)
      next e => exact canonical_snd e (canonical_agentXlate h)
      next e =>
        have ht := canonical_snd e (canonical_agentXlate h)
        extract_lets b r
        have hr : MemoryCanonical r.2 := canonical_engineRead ht
        split
        · exact ht
        · split
          next e2 => exact canonical_snd e2 (ih hr)
          · exact ih hr

theorem canonical_readVirt {s : State} {g : Agent} {va : Word} {n : Nat} (h : MemoryCanonical s) :
    MemoryCanonical (readVirt s g va n).2 := canonical_readVirtFuel h

theorem canonical_probeFuel {k : Nat} {s : State} {g : Agent} {va : Word} {n : Nat} (h : MemoryCanonical s) :
    MemoryCanonical (probeFuel k s g va n).2 := by
  induction k generalizing s va n with
  | zero => exact h
  | succ k ih =>
    unfold probeFuel
    split
    · exact h
    · split
      next e => exact canonical_snd e (canonical_agentXlate h)
      next e => exact canonical_snd e (canonical_agentXlate h)
      next e =>
        have ht := canonical_snd e (canonical_agentXlate h)
        split
        · exact ht
        · exact ih ht

theorem canonical_writePagesFuel {k : Nat} {s : State} {g : Agent} {va : Word} {n v : Nat} (h : MemoryCanonical s) :
    MemoryCanonical (writePagesFuel k s g va n v) := by
  induction k generalizing s va n v with
  | zero => exact h
  | succ k ih =>
    unfold writePagesFuel
    split
    · exact h
    · split
      next e => exact ih (canonical_engineWrite (canonical_snd e (canonical_translate h)) _ _ _ _ _ _)
      next e => exact canonical_snd e (canonical_translate h)

theorem canonical_writeVirt {s : State} {g : Agent} {va : Word} {n v : Nat} (h : MemoryCanonical s) :
    MemoryCanonical (writeVirt s g va n v).2 := by
  unfold writeVirt
  split
  next e => exact canonical_writePagesFuel (canonical_snd e (canonical_probeFuel h))
  · exact canonical_probeFuel h

theorem canonical_joinLocal {s : State} {cell o status : Nat} (h : MemoryCanonical s) :
    MemoryCanonical (joinLocal s cell o status) := by
  unfold joinLocal
  split
  · exact h
  · extract_lets _ t
    have ht : MemoryCanonical t := canonical_localWrite h _ _ _ _
    clear_value t
    exact canonical_ite (canonical_modCell ht _ (canonical_cell ht _)) ht

theorem canonical_joinAt {s : State} {g : Agent} {va : Word} {status : Nat} (h : MemoryCanonical s) :
    MemoryCanonical (joinAt s g va status).2 := by
  unfold joinAt
  split
  · exact h
  · split
    · extract_lets _
      split
      · split
        · exact canonical_joinLocal h
        · exact h
      · exact h
    · split
      next e2 => exact canonical_snd e2 (canonical_agentXlate h)
      next e2 => exact canonical_snd e2 (canonical_agentXlate h)
      next e2 =>
        split
        · exact canonical_snd e2 (canonical_agentXlate h)
        · extract_lets r
          have hr : MemoryCanonical r.2 := canonical_homeRead (canonical_snd e2 (canonical_agentXlate h))
          clear_value r
          exact canonical_homeWrite hr _ _ _ _ _

theorem canonical_raiseNode {s : State} {p : Nat} {rec_ : Word} {status : Nat} (h : MemoryCanonical s) :
    MemoryCanonical (raiseNode s p rec_ status) := by
  unfold raiseNode
  split
  · exact h
  · split <;> exact h

theorem canonical_finishTask {s : State} {sid : Nat} {f : Final} {info : BitVec 32} (h : MemoryCanonical s) :
    MemoryCanonical (finishTask s sid f info) := by
  unfold finishTask
  extract_lets _ _ _ _ f1
  have hf1 : ∀ (s : State), MemoryCanonical s → MemoryCanonical (f1 s) :=
    fun _ h1 => canonical_update (canonical_update (canonical_update (canonical_raiseNode (canonical_endPhase h1))))
  clear_value f1
  split
  next e => exact canonical_snd e (canonical_readVirt h)
  next e =>
    split
    next e1 => exact canonical_snd e1 (canonical_joinAt (canonical_snd e (canonical_readVirt h)))
    next e1 => exact hf1 _ (canonical_snd e1 (canonical_joinAt (canonical_snd e (canonical_readVirt h))))
  next e2 => exact hf1 _ (canonical_snd e2 (canonical_readVirt h))

theorem canonical_execTaskEnd {sid : Nat} {s : State} (h : MemoryCanonical s) : NextCanonical (execTaskEnd sid s) := by
  unfold execTaskEnd
  extract_lets _
  split
  · exact nextCanonical_next (canonical_whenRunning h (canonical_ite h (canonical_finishTask h)))
  · exact nextCanonical_next h

theorem canonical_killSlot {s : State} {sid : Nat} (h : MemoryCanonical s) : MemoryCanonical (killSlot s sid) := by
  unfold killSlot
  extract_lets t t1
  have ht : MemoryCanonical t := canonical_update (canonical_update (canonical_update (canonical_discardMatrix h)))
  have ht1 : MemoryCanonical t1 :=
    canonical_update (canonical_update (canonical_update (canonical_update (canonical_discardMatrix h))))
  clear_value t t1
  exact ht1

theorem canonical_execKillEffect {s : State} (h : MemoryCanonical s) : NextCanonical (execKillEffect s) := by
  unfold execKillEffect
  extract_lets _
  split
  · exact nextCanonical_next h
  · split
    · exact nextCanonical_next h
    · split
      · exact nextCanonical_next h
      · exact nextCanonical_next h
      · exact nextCanonical_next (canonical_ite h (canonical_killSlot h))

theorem canonical_leaveWait {s : State} {sid : Nat} (h : MemoryCanonical s) : MemoryCanonical (leaveWait s sid) :=
  canonical_modCell h _ (canonical_cell h _)

theorem canonical_endWait {s : State} {sid : Nat} (h : MemoryCanonical s) : MemoryCanonical (endWait s sid) :=
  canonical_ite (canonical_update (canonical_leaveWait h)) h

theorem canonical_execDeferredTrap {s : State} (h : MemoryCanonical s) : NextCanonical (execDeferredTrap s) := by
  unfold execDeferredTrap
  extract_lets _
  split
  · exact nextCanonical_next h
  · exact nextCanonical_next (canonical_takeTrap (canonical_update (canonical_endWait h)) _ _ _ _ _)

theorem canonical_execParkResume {s : State} (h : MemoryCanonical s) : NextCanonical (execParkResume s) := by
  unfold execParkResume
  extract_lets _
  split
  · exact nextCanonical_next (canonical_ite h h)
  · exact nextCanonical_next h

theorem canonical_resendAccess {s : State} {x : Access} (h : MemoryCanonical s) :
    MemoryCanonical (resendAccess s x) := by
  unfold resendAccess
  extract_lets _
  split
  · split
    · exact h
    · extract_lets _ _ _
      split <;> exact h
  · exact h

theorem canonical_execRefusedRetry {s : State} (h : MemoryCanonical s) : NextCanonical (execRefusedRetry s) := by
  unfold execRefusedRetry
  extract_lets _ _
  split
  · exact nextCanonical_next h
  · split
    · split
      · exact nextCanonical_next h
      · exact nextCanonical_next (canonical_resendAccess h)
    · split <;> exact nextCanonical_next h
    · exact nextCanonical_next h

/-! ### Machine/Threads.lean -/

theorem canonical_parkOnRead {s : State} {va : Word} {n : Nat} (h : MemoryCanonical s) :
    MemoryCanonical (parkOnRead s va n) := by
  unfold parkOnRead
  extract_lets _ _ _ t _
  have ht : MemoryCanonical t := canonical_demandFault h _ _ _ _ _
  clear_value t
  exact ht

theorem canonical_readIssueFuel {pre : Except Halt Unit} {f : Nat} {s : State} {va : Word} {n acc sh : Nat}
    {k : Nat → State → Res} (h : MemoryCanonical s) (hk : ∀ v t, MemoryCanonical t → OnOk MemoryCanonical (k v t)) :
    OnOk MemoryCanonical (readIssueFuel pre f s va n acc sh k) := by
  induction f generalizing s va n acc sh with
  | zero => exact hk _ _ h
  | succ f ih =>
    unfold readIssueFuel
    split
    · exact hk _ _ h
    · split
      · exact onOk_error
      next e => exact onOk_ok (canonical_parkOnRead (canonical_snd e (canonical_xlateCell h)))
      next e =>
        have ht := canonical_snd e (canonical_xlateCell h)
        extract_lets b
        split
        · exact onOk_after fun _ => onOk_error
        · exact ih (canonical_engineRead ht)

theorem canonical_readIssue {pre : Except Halt Unit} {s : State} {va : Word} {n : Nat} {k : Nat → State → Res}
    (h : MemoryCanonical s) (hk : ∀ (n : Nat) (t : State), MemoryCanonical t → OnOk MemoryCanonical (k n t)) :
    OnOk MemoryCanonical (readIssue pre s va n k) := onOk_after fun _ => canonical_readIssueFuel h hk

theorem wf_takeInbox {c : Cell} (h : c.mem.wf = true) : (takeInbox c).2.mem.wf = true := by
  unfold takeInbox
  split
  · exact h
  · split <;> exact h

theorem canonical_execTake {d : BitVec 6} {s : State} (h : MemoryCanonical s) :
    NextCanonical (execTake d s) := by
  unfold execTake
  refine nextCanonical_finish h ?_
  extract_lets x cell r t u
  have hr : r.2.mem.wf = true := wf_takeInbox (canonical_cell h _)
  have hu : MemoryCanonical u := canonical_update (canonical_update (canonical_setCell h _ hr))
  clear_value r t u
  iterate 3 refine onOk_after fun _ => ?_
  exact onOk_ok hu

theorem canonical_joinWait {s : State} {sid : Nat} {vec : Bool} (h : MemoryCanonical s) :
    MemoryCanonical (joinWait s sid vec) := by
  unfold joinWait
  refine canonical_modCell h _ ?_
  split <;> exact canonical_cell h _

theorem canonical_enrol {s : State} {sid : Nat} (h : MemoryCanonical s) : MemoryCanonical (enrol s sid) :=
  canonical_ite h h

theorem canonical_startSlot {s : State} {t : Nat} {rec_ : Word} {r : Record} (h : MemoryCanonical s) :
    MemoryCanonical (startSlot s t rec_ r) := by
  unfold startSlot
  extract_lets _ _ _ _ t1 t2 t3
  have ht1 : MemoryCanonical t1 := canonical_update (canonical_enrol h)
  have ht2 : MemoryCanonical t2 :=
    canonical_opLookup (canonical_update (canonical_update (canonical_update (canonical_enrol h))))
  have ht3 : MemoryCanonical t3 := canonical_ite (canonical_dueOnce ht2) ht2
  clear_value t1 t2 t3
  exact canonical_ite ht3 ht3

theorem canonical_startWith {i : Instr} {t : Nat} {rec_ : Word} {rs : List Nat} {x : Slot} {v : Nat} {s : State}
    (h : MemoryCanonical s) : OnOk MemoryCanonical (startWith i t rec_ rs x v s) := by
  unfold startWith
  extract_lets _ _ _ t1
  have ht1 : MemoryCanonical t1 := canonical_startSlot (canonical_leaveWait h)
  clear_value t1
  refine onOk_after fun _ => onOk_after fun _ => ?_
  split
  · exact onOk_ok (canonical_update (canonical_joinWait h))
  · exact onOk_ok ht1

theorem canonical_startRes {va b : BitVec 6} {m n : Bool} {s : State} (h : MemoryCanonical s) :
    OnOk MemoryCanonical (startRes va b m n s) := by
  unfold startRes
  extract_lets _ _
  iterate 4 refine onOk_after fun _ => ?_
  extract_lets _
  exact onOk_after fun _ => onOk_after fun _ => canonical_readIssue h (fun _ _ h1 => canonical_startWith h1)

theorem canonical_execStart {va b : BitVec 6} {m n : Bool} {s : State} (h : MemoryCanonical s) :
    NextCanonical (execStart va b m n s) := by
  unfold execStart
  split
  · exact nextCanonical_finish (canonical_endWait h) onOk_error
  · exact nextCanonical_finish h (canonical_startRes h)

theorem canonical_execReap {d va : BitVec 6} {m : Bool} {s : State} (h : MemoryCanonical s) :
    NextCanonical (execReap d va m s) := by
  unfold execReap
  extract_lets _ _ _
  refine nextCanonical_finish h (onOk_after fun _ => onOk_after fun _ => onOk_after fun _ => onOk_after fun _ =>
    onOk_after fun _ => ?_)
  extract_lets _
  split <;> exact onOk_after fun _ => onOk_ok h

theorem canonical_execKill {va b : BitVec 6} {m n : Bool} {s : State} (h : MemoryCanonical s) :
    NextCanonical (execKill va b m n s) := by
  unfold execKill
  extract_lets _ _
  exact nextCanonical_finish h (onOk_after fun _ => onOk_after fun _ => onOk_after fun _ => onOk_after fun _ =>
    onOk_after fun _ => onOk_ok (canonical_ite h h))

theorem canonical_execYield {s : State} (h : MemoryCanonical s) : NextCanonical (execYield s) := by
  unfold execYield
  exact nextCanonical_finish h (onOk_after fun _ => onOk_ok h)

theorem canonical_execRetire {va : BitVec 6} {m : Bool} {s : State} (h : MemoryCanonical s) :
    NextCanonical (execRetire va m s) := by
  unfold execRetire
  refine nextCanonical_finish h ?_
  extract_lets _
  iterate 3 refine onOk_after fun _ => ?_
  exact onOk_ok h

theorem canonical_execMigrate {va : BitVec 6} {m : Bool} {s : State} (h : MemoryCanonical s) :
    NextCanonical (execMigrate va m s) := by
  unfold execMigrate
  extract_lets _ _
  refine nextCanonical_finish h (onOk_after fun _ => onOk_after fun _ => onOk_after fun _ => ?_)
  extract_lets _ _
  refine onOk_after fun _ => ?_
  split
  · exact onOk_error
  · exact onOk_after fun _ => onOk_after fun _ => onOk_ok h

theorem canonical_writeHome {s : State} {d pa n v key : Nat} (h : MemoryCanonical s) :
    MemoryCanonical (writeHome s d pa n v key) := canonical_cachedWrite (canonical_dropReplica h _ _) _ _ _ _ _

theorem canonical_execLnch {va b : BitVec 6} {m n : Bool} {s : State} (h : MemoryCanonical s) :
    NextCanonical (execLnch va b m n s) := by
  unfold execLnch
  refine nextCanonical_finish h ?_
  extract_lets _ _
  refine onOk_after fun _ => onOk_after fun _ => ?_
  extract_lets _ _
  refine onOk_after fun _ => canonical_readIssue h (fun _ _ h1 => onOk_after fun _ => onOk_after fun _ => onOk_after
    fun _ => ?_)
  extract_lets _ _ t1 _
  have ht1 : MemoryCanonical t1 := canonical_writeHome h1
  clear_value t1
  exact onOk_after fun _ => onOk_after fun _ => onOk_ok ht1

theorem canonical_sendMsg {i : Instr} {kind lim : Nat} {w : Word} {v : VReg} {cons : List Nat} {bad : Option Nat}
    {y : Slot} {s : State} (h : MemoryCanonical s) : OnOk MemoryCanonical (sendMsg i kind lim w v cons bad y s) := by
  unfold sendMsg
  extract_lets _ _ _ _
  refine onOk_after fun _ => ?_
  split
  · exact onOk_error
  · exact onOk_after fun _ => onOk_ok h

theorem canonical_execSend {va b : BitVec 6} {m n : Bool} {s : State} (h : MemoryCanonical s) :
    NextCanonical (execSend va b m n s) := by
  unfold execSend
  exact nextCanonical_finish h (onOk_after fun _ => onOk_after fun _ => canonical_sendMsg h)

theorem canonical_execSendV {va : BitVec 6} {b : BitVec 5} {m n : Bool} {s : State} (h : MemoryCanonical s) :
    NextCanonical (execSendV va b m n s) := by
  unfold execSendV
  refine nextCanonical_finish h ?_
  extract_lets _
  iterate 5 refine onOk_after fun _ => ?_
  exact canonical_sendMsg h

theorem canonical_execSendP {va : BitVec 6} {b : BitVec 3} {m n : Bool} {s : State} (h : MemoryCanonical s) :
    NextCanonical (execSendP va b m n s) := by
  unfold execSendP
  refine nextCanonical_finish h ?_
  extract_lets _
  iterate 4 refine onOk_after fun _ => ?_
  exact canonical_sendMsg h

theorem canonical_setOpenCopy {s : State} {cell b ph : Nat} (h : MemoryCanonical s) :
    MemoryCanonical (setOpenCopy s cell b ph) := canonical_modCell h _ (canonical_cell h _)

theorem canonical_releaseSlots {s : State} {cell bar : Nat} (h : MemoryCanonical s) :
    MemoryCanonical (releaseSlots s cell bar) := by
  unfold releaseSlots
  refine foldl_canonical (fun _ _ h1 => ?_) h
  extract_lets _ _
  split
  · exact canonical_ite h1 h1
  · exact h1

theorem canonical_execBarInit {va b : BitVec 6} {m n : Bool} {s : State} (h : MemoryCanonical s) :
    NextCanonical (execBarInit va b m n s) := by
  unfold execBarInit
  refine nextCanonical_finish h ?_
  extract_lets _ _ _
  refine onOk_after fun _ => onOk_after fun _ => ?_
  extract_lets _ _ t1
  have ht1 : MemoryCanonical t1 := foldl_canonical (fun _ _ h1 => canonical_releaseSlots (canonical_setOpenCopy h1)) h
  clear_value t1
  iterate 4 refine onOk_after fun _ => ?_
  exact onOk_ok ht1

theorem canonical_execBarArr {va : BitVec 6} {m : Bool} {s : State} (h : MemoryCanonical s) :
    NextCanonical (execBarArr va m s) := by
  unfold execBarArr
  refine nextCanonical_finish h ?_
  extract_lets _ _ _
  refine onOk_after fun _ => onOk_after fun _ => ?_
  extract_lets _ _
  exact onOk_after fun _ => onOk_after fun _ => onOk_ok h

theorem canonical_barWait {va : BitVec 6} {m drop : Bool} {s : State} (h : MemoryCanonical s) :
    OnOk MemoryCanonical (barWait va m drop s) := by
  unfold barWait
  extract_lets _ _
  iterate 4 refine onOk_after fun _ => ?_
  split
  · exact onOk_ok h
  · exact onOk_ok (canonical_ite h h)

theorem canonical_oweToken {s : State} {t : TokenTarget} (h : MemoryCanonical s) : MemoryCanonical (oweToken s t) := by
  unfold oweToken
  split <;> exact h

theorem canonical_appendCmd {s : State} {core queue : Nat} {c : Cmd} (h : MemoryCanonical s) :
    MemoryCanonical (appendCmd s core queue c) := canonical_ite h h

theorem canonical_enqueue {i : Instr} {queue : Nat} {va : BitVec 6} {m : Bool} {s : State} (h : MemoryCanonical s) :
    OnOk MemoryCanonical (enqueue i queue va m s) := by
  unfold enqueue
  extract_lets _ _ _ _
  iterate 6 refine onOk_after fun _ => ?_
  extract_lets _ _ _
  iterate 8 refine onOk_after fun _ => ?_
  exact onOk_ok (canonical_appendCmd (canonical_oweToken h))

theorem canonical_execFork {d va b : BitVec 6} {m n : Bool} {s : State} (h : MemoryCanonical s) :
    NextCanonical (execFork d va b m n s) := by
  unfold execFork
  refine nextCanonical_finish h ?_
  extract_lets _ _ _ _ _ _ _ _ _
  iterate 3 refine onOk_after fun _ => ?_
  extract_lets _ _ _ _ _
  iterate 7 refine onOk_after fun _ => ?_
  exact onOk_ok h

theorem canonical_execRdv {d : BitVec 6} {s : State} (h : MemoryCanonical s) : NextCanonical (execRdv d s) := by
  unfold execRdv
  refine nextCanonical_finish h ?_
  extract_lets _ _
  iterate 3 refine onOk_after fun _ => ?_
  exact onOk_ok h

theorem canonical_execAccrd {d : BitVec 5} {c k : BitVec 3} {s : State} (h : MemoryCanonical s) :
    NextCanonical (execAccrd d c k s) := by
  unfold execAccrd
  refine nextCanonical_finish h ?_
  extract_lets _ _ _
  iterate 6 refine onOk_after fun _ => ?_
  exact onOk_ok h

theorem canonical_execAccwr {d : BitVec 5} {c k : BitVec 3} {s : State} (h : MemoryCanonical s) :
    NextCanonical (execAccwr d c k s) := by
  unfold execAccwr
  refine nextCanonical_finish h ?_
  extract_lets _ _ _
  iterate 5 refine onOk_after fun _ => ?_
  extract_lets t
  have ht : MemoryCanonical t := canonical_modCell h _ (canonical_cell h _)
  clear_value t
  exact onOk_ok ht

/-! ### Machine/Punty.lean -/

theorem canonical_peekFuel {k : Nat} {s : State} {g : Agent} {va : Word} {n : Nat} (h : MemoryCanonical s) :
    MemoryCanonical (peekFuel k s g va n).2 := by
  induction k generalizing s va n with
  | zero => exact h
  | succ k ih =>
    unfold peekFuel
    split
    · exact h
    · split
      · exact h
      · split
        next e =>
          have ht := canonical_snd e (canonical_translate h)
          extract_lets b r
          have hr : MemoryCanonical r.2 := canonical_engineRead ht
          split
          · exact ht
          · split
            next e2 => exact canonical_snd e2 (ih hr)
            · exact ih hr
        next e => exact canonical_snd e (canonical_translate h)

theorem canonical_peek {s : State} {g : Agent} {va : Word} {n : Nat} (h : MemoryCanonical s) :
    MemoryCanonical (peek s g va n).2 := canonical_peekFuel h

theorem canonical_liveEntry {k : Nat} {s : State} {g : Agent} {table : Word} {i : Nat} {prev : Option (Nat × Nat × Nat)}
    {off : Nat} (h : MemoryCanonical s) :
    MemoryCanonical (liveEntry k s g table i prev off).2 := by
  induction k generalizing s i prev with
  | zero => exact h
  | succ k ih =>
    unfold liveEntry
    split
    next e => exact canonical_snd e (canonical_peek h)
    next e =>
      have ht := canonical_snd e (canonical_peek h)
      extract_lets o ends
      clear_value ends
      split
      · exact ht
      · exact ih ht

theorem canonical_liveMasks {s : State} {g : Agent} {rec_ pc : Word} (h : MemoryCanonical s) :
    MemoryCanonical (liveMasks s g rec_ pc).2 := by
  unfold liveMasks
  split
  next e => exact canonical_snd e (canonical_peek h)
  next e =>
    extract_lets _ _
    split
    next e1 => exact canonical_snd e1 (canonical_peek (canonical_snd e (canonical_peek h)))
    next e1 =>
      split
      · exact canonical_snd e1 (canonical_peek (canonical_snd e (canonical_peek h)))
      · split
        next e3 =>
          exact canonical_snd e3 (canonical_liveEntry (canonical_snd e1
            (canonical_peek (canonical_snd e (canonical_peek h)))))
        next e3 =>
          exact canonical_snd e3 (canonical_liveEntry (canonical_snd e1
            (canonical_peek (canonical_snd e (canonical_peek h)))))

theorem canonical_saveMasks {s : State} {g : Agent} {x : Slot} {pc : Word} (h : MemoryCanonical s) :
    MemoryCanonical (saveMasks s g x pc).2 := by
  unfold saveMasks
  extract_lets _
  split
  · split
    next e1 => exact canonical_snd e1 (canonical_liveMasks h)
    next e1 => exact canonical_snd e1 (canonical_liveMasks h)
  · exact h

theorem canonical_putRecordState {s : State} {g : Agent} {x : Slot} {st : Nat} (h : MemoryCanonical s) :
    MemoryCanonical (putRecordState s g x st).2 := by
  unfold putRecordState
  split
  next e => exact canonical_snd e (canonical_writeVirt h)
  next e1 => exact canonical_snd e1 (canonical_writeVirt h)

theorem canonical_withdraw {s : State} {sid : Nat} (h : MemoryCanonical s) : MemoryCanonical (withdraw s sid) := by
  unfold withdraw
  extract_lets _ _
  split
  · exact h
  · exact h
  · split <;> exact h

theorem canonical_takeDeferred {s : State} {sid : Nat} (h : MemoryCanonical s) :
    MemoryCanonical (takeDeferred s sid) := by
  unfold takeDeferred
  extract_lets _
  split
  · exact h
  · extract_lets t
    have ht : MemoryCanonical t := canonical_takeTrap (canonical_update h) _ _ _ _ _
    clear_value t
    exact ht

theorem canonical_exempt {s : State} {sid : Nat} (h : MemoryCanonical s) : MemoryCanonical (exempt s sid) :=
  canonical_applyDepth (canonical_dueOnce h)

theorem canonical_abandonSpill {s : State} {sid : Nat} {byPower : Bool} (h : MemoryCanonical s) :
    MemoryCanonical (abandonSpill s sid byPower) := by
  unfold abandonSpill
  extract_lets t _
  have ht : MemoryCanonical t := canonical_modCell h _ (canonical_cell h _)
  clear_value t
  exact canonical_ite (canonical_exempt ht) ht

theorem canonical_suspended {s : State} {sid : Nat} (h : MemoryCanonical s) : MemoryCanonical (suspended s sid) := by
  unfold suspended
  extract_lets _ _ _ t
  have ht : MemoryCanonical t :=
    canonical_update (canonical_update (canonical_update (canonical_modCell h _ (canonical_cell h _))))
  clear_value t
  exact ht

theorem canonical_spillNow {s : State} {sid : Nat} {byPower : Bool} (h : MemoryCanonical s) :
    MemoryCanonical (spillNow s sid byPower) := by
  unfold spillNow
  extract_lets _ _
  split
  next e => exact canonical_snd e (canonical_putRecordState (canonical_modCell h _ (canonical_cell h _)))
  next e =>
    extract_lets m _
    have hm : MemoryCanonical m.2 :=
      canonical_saveMasks (canonical_snd e (canonical_putRecordState (canonical_modCell h _ (canonical_cell h _))))
    clear_value m
    split
    next e1 => exact canonical_snd e1 (canonical_writeVirt hm)
    next e1 =>
      split
      next e2 => exact canonical_snd e2 (canonical_putRecordState (canonical_snd e1 (canonical_writeVirt hm)))
      next e2 =>
        exact canonical_abandonSpill (canonical_snd e2 (canonical_putRecordState
          (canonical_snd e1 (canonical_writeVirt hm))))
    next e1 =>
      split
      next e2 =>
        exact canonical_snd e2 (canonical_putRecordState (canonical_flushDie
          (canonical_snd e1 (canonical_writeVirt hm)) _))
      next e2 =>
        exact canonical_suspended (canonical_flushDie (canonical_snd e2
          (canonical_putRecordState (canonical_flushDie (canonical_snd e1 (canonical_writeVirt hm)) _))) _)

theorem canonical_whenPunty {s : State} {cell : Nat} {ev : Instr} {t : Host.Outcome State Fault Refusal}
    (h : MemoryCanonical s) (ht : NextCanonical t) : NextCanonical (whenPunty s cell ev t) := by
  unfold whenPunty
  split
  · exact nextCanonical_next h
  · exact ht

theorem canonical_execPuntySpill {sid : Nat} {s : State} (h : MemoryCanonical s) :
    NextCanonical (execPuntySpill sid s) := by
  unfold execPuntySpill
  refine canonical_whenPunty h ?_
  split
  · extract_lets t _
    have ht : MemoryCanonical t := canonical_takeDeferred (canonical_update (canonical_withdraw h))
    clear_value t
    split
    · exact nextCanonical_next ht
    · split
      · exact nextCanonical_next (canonical_abandonSpill ht)
      · split
        · exact nextCanonical_next ht
        · exact nextCanonical_next (canonical_spillNow ht)
  · exact nextCanonical_next h

theorem canonical_putAccs {s : State} {core : Nat} {accs : List (Nat × Acc)} (h : MemoryCanonical s) :
    MemoryCanonical (putAccs s core accs) :=
  canonical_modCell h _ (foldl_keeps (p := fun c : Cell => Memory.wf c.mem = true) (fun _ _ h1 => h1)
    (canonical_cell h _))

theorem canonical_failRestore {s : State} {sid cause : Nat} {va : Word} (h : MemoryCanonical s) :
    MemoryCanonical (failRestore s sid cause va) := canonical_takeTrap (canonical_update h) _ _ _ _ _

theorem canonical_execPuntyRestore {sid : Nat} {s : State} (h : MemoryCanonical s) :
    NextCanonical (execPuntyRestore sid s) := by
  unfold execPuntyRestore
  extract_lets _ _
  refine canonical_whenPunty h ?_
  split
  · exact nextCanonical_next h
  · split
    next e1 => exact nextCanonical_next (canonical_snd e1 (canonical_readVirt h))
    next e1 => exact nextCanonical_next (canonical_failRestore (canonical_snd e1 (canonical_readVirt h)))
    next e1 => exact nextCanonical_next (canonical_failRestore (canonical_snd e1 (canonical_readVirt h)))
    next e1 =>
      extract_lets _ _
      split
      · exact nextCanonical_next (canonical_update (canonical_snd e1 (canonical_readVirt h)))
      · split
        next e3 =>
          exact nextCanonical_next (canonical_snd e3 (canonical_readVirt (canonical_snd e1 (canonical_readVirt h))))
        next e3 =>
          exact nextCanonical_next (canonical_failRestore (canonical_snd e3
            (canonical_readVirt (canonical_snd e1 (canonical_readVirt h)))))
        next e3 =>
          exact nextCanonical_next (canonical_failRestore (canonical_snd e3
            (canonical_readVirt (canonical_snd e1 (canonical_readVirt h)))))
        next e3 =>
          split
          next e4 =>
            exact nextCanonical_next (canonical_snd e4 (canonical_putRecordState
              (canonical_snd e3 (canonical_readVirt (canonical_snd e1 (canonical_readVirt h))))))
          next e4 =>
            extract_lets t _
            have ht : MemoryCanonical t :=
              canonical_putAccs (canonical_snd e4 (canonical_putRecordState
                (canonical_snd e3 (canonical_readVirt (canonical_snd e1 (canonical_readVirt h))))))
            clear_value t
            exact nextCanonical_next ht

theorem canonical_leaveDie {s : State} {sid target : Nat} (h : MemoryCanonical s) :
    MemoryCanonical (leaveDie s sid target) := canonical_ite h (canonical_flushDie h _)

theorem canonical_sendContext {s : State} {sid target i : Nat} {byPower : Bool} (h : MemoryCanonical s) :
    MemoryCanonical (sendContext s sid target i byPower) := by
  unfold sendContext
  extract_lets m _ _ _ _ _ _ _ _ _ _
  have hm : MemoryCanonical m.2 := canonical_saveMasks (canonical_leaveDie h)
  clear_value m
  exact hm

theorem canonical_execMigrationSend {sid : Nat} {s : State} (h : MemoryCanonical s) :
    NextCanonical (execMigrationSend sid s) := by
  unfold execMigrationSend
  refine canonical_whenPunty h ?_
  split
  · extract_lets t _
    have ht : MemoryCanonical t := canonical_takeDeferred (canonical_update (canonical_withdraw h))
    clear_value t
    split
    · exact nextCanonical_next ht
    · split
      · exact nextCanonical_next ht
      · split
        · exact nextCanonical_next ht
        · split
          · exact nextCanonical_next ht
          · split
            next e5 => exact nextCanonical_next (canonical_snd e5 (canonical_putRecordState ht))
            next e5 => exact nextCanonical_next (canonical_sendContext (canonical_snd e5 (canonical_putRecordState ht)))
  · exact nextCanonical_next h

theorem canonical_execMigrationArrival {id : Nat} {s : State} (h : MemoryCanonical s) :
    NextCanonical (execMigrationArrival id s) := by
  unfold execMigrationArrival
  split
  · exact nextCanonical_next h
  · extract_lets _ _ _ _ _
    split
    · exact nextCanonical_next h
    · split
      · exact nextCanonical_next (canonical_whenPort h h)
      · split
        · exact nextCanonical_next h
        · split
          next e4 => exact nextCanonical_next (canonical_snd e4 (canonical_putRecordState h))
          next e4 =>
            extract_lets t1 t2 t3 _
            have ht1 : MemoryCanonical t1 := canonical_update (canonical_snd e4 (canonical_putRecordState h))
            have ht2 : MemoryCanonical t2 := canonical_putAccs ht1
            have ht3 : MemoryCanonical t3 := canonical_ite ht2 ht2
            clear_value t1 t2 t3
            exact nextCanonical_next (canonical_update (canonical_enrol ht3))

theorem canonical_execForwardExpiry {cell core n fc : Nat} {s : State} (h : MemoryCanonical s) :
    NextCanonical (execForwardExpiry cell core n fc s) := by
  unfold execForwardExpiry
  extract_lets _
  split
  · exact nextCanonical_next (canonical_ite h h)
  · exact nextCanonical_next h

theorem canonical_execRemovalTimeout {sid : Nat} {s : State} (h : MemoryCanonical s) :
    NextCanonical (execRemovalTimeout sid s) := by
  unfold execRemovalTimeout
  extract_lets _
  split
  · exact nextCanonical_next h
  · split
    · exact nextCanonical_next h
    · split
      · exact nextCanonical_next (canonical_dueOnce h)
      · split
        · exact nextCanonical_next h
        · split
          · exact nextCanonical_next h
          · exact nextCanonical_next (canonical_exempt h)

theorem canonical_execExemptionLapse {sid : Nat} {s : State} (h : MemoryCanonical s) :
    NextCanonical (execExemptionLapse sid s) := by
  unfold execExemptionLapse
  extract_lets _
  split
  · exact nextCanonical_next h
  · split
    · exact nextCanonical_next (canonical_dueOnce h)
    · exact nextCanonical_next (canonical_applyDepth h)

/-! ### Machine/Answers.lean -/

theorem canonical_fillToken {s : State} {t : Token} (h : MemoryCanonical s) : MemoryCanonical (fillToken s t) :=
  canonical_ite h h

theorem canonical_tokenArrival {s : State} {t : Token} (h : MemoryCanonical s) : MemoryCanonical (tokenArrival s t) := by
  unfold tokenArrival
  split <;> exact h

theorem canonical_dropCopy {s : State} {cell serial : Nat} (h : MemoryCanonical s) :
    MemoryCanonical (dropCopy s cell serial) := canonical_update (canonical_modCell h _ (canonical_cell h _))

theorem canonical_tokenScope {s : State} {t : Token} (h : MemoryCanonical s) : MemoryCanonical (tokenScope s t) := by
  unfold tokenScope
  extract_lets _
  split
  · exact canonical_update (canonical_update (canonical_flushDie h _))
  · exact h

theorem canonical_takeToken {s : State} {t : Token} (h : MemoryCanonical s) : MemoryCanonical (takeToken s t) := by
  unfold takeToken
  extract_lets t1 t2
  have ht1 : MemoryCanonical t1 := canonical_tokenScope h
  have ht2 : MemoryCanonical t2 := canonical_tokenArrival (canonical_fillToken ht1)
  clear_value t1 t2
  split
  · exact canonical_dropCopy ht2
  · exact ht2

theorem canonical_execTokenFill {id : Nat} {s : State} (h : MemoryCanonical s) : NextCanonical (execTokenFill id s) := by
  unfold execTokenFill
  extract_lets _
  split
  · exact nextCanonical_next h
  · extract_lets t
    have ht : MemoryCanonical t := canonical_whenPort h (canonical_takeToken h)
    clear_value t
    exact nextCanonical_next (canonical_ite (canonical_whenFabric h ht) ht)

theorem canonical_deliver {s : State} {m : Message} (h : MemoryCanonical s) : MemoryCanonical (deliver s m) := by
  unfold deliver
  extract_lets _
  split
  · exact h
  · extract_lets _ _ _ _ t
    have ht : MemoryCanonical t := by
      unfold t
      split
      · exact canonical_update (canonical_update (canonical_flushDie h _))
      · exact h
    clear_value t
    exact canonical_ite h ht

theorem canonical_execMessageArrival {id : Nat} {s : State} (h : MemoryCanonical s) :
    NextCanonical (execMessageArrival id s) := by
  unfold execMessageArrival
  extract_lets _
  split
  · exact nextCanonical_next h
  · extract_lets _
    exact nextCanonical_next (canonical_whenFabric h (canonical_whenPort h (canonical_deliver h)))

theorem canonical_failMessage {s : State} {m : Message} {cause detail : Nat} {tval : Word} (h : MemoryCanonical s) :
    MemoryCanonical (failMessage s m cause detail tval) := by
  unfold failMessage
  extract_lets _
  split
  · exact h
  · exact canonical_takeTrap (canonical_update (canonical_update (canonical_update h))) _ _ _ _ _

theorem canonical_respond {s : State} {m : Message} {v : Verdict} (h : MemoryCanonical s) :
    MemoryCanonical (respond s m v) := by
  unfold respond
  extract_lets _ _
  split
  · exact h
  · split
    · exact h
    · exact canonical_failMessage h
    · exact canonical_failMessage h
    · exact canonical_ite h (canonical_ite (canonical_failMessage h) h)

theorem canonical_execMessageResponse {id : Nat} {s : State} (h : MemoryCanonical s) :
    NextCanonical (execMessageResponse id s) := by
  unfold execMessageResponse
  extract_lets _
  split
  · exact nextCanonical_next h
  · split
    · exact nextCanonical_next h
    · extract_lets _
      split
      · exact nextCanonical_next h
      · exact nextCanonical_next (canonical_whenFabric h (canonical_whenPort h (canonical_respond h)))

theorem canonical_execBarrierArrival {p bar : Nat} {s : State} (h : MemoryCanonical s) :
    NextCanonical (execBarrierArrival p bar s) := by
  unfold execBarrierArrival
  extract_lets _
  split
  · exact nextCanonical_next h
  · split
    · exact nextCanonical_next h
    · exact nextCanonical_next (canonical_ite h h)

theorem canonical_hopAtRelease {s : State} {cell t : Nat} (h : MemoryCanonical s) :
    MemoryCanonical (hopAtRelease s cell t) := canonical_ite (canonical_gearEvalAt h) h

theorem canonical_execBarrierRelease {p bar : Nat} {s : State} (h : MemoryCanonical s) :
    NextCanonical (execBarrierRelease p bar s) := by
  unfold execBarrierRelease
  split
  · exact nextCanonical_next h
  · split
    · exact nextCanonical_next h
    · extract_lets _ _ t1
      have ht1 : MemoryCanonical t1 :=
        foldl_canonical (fun _ _ h1 => canonical_hopAtRelease (canonical_releaseSlots (canonical_setOpenCopy h1))) h
      clear_value t1
      exact nextCanonical_next (canonical_ite ht1 ht1)

/-! ### Machine/Control.lean -/

theorem canonical_branch {c : Word → Word → Bool} {va b : BitVec 6} {o : BitVec 11} {s : State}
    (h : MemoryCanonical s) : OnOk MemoryCanonical (branch c va b o s) := by
  unfold branch
  extract_lets _
  iterate 3 refine onOk_after fun _ => ?_
  exact onOk_ok h

theorem canonical_execJal {o : BitVec 26} {s : State} (h : MemoryCanonical s) : NextCanonical (execJal o s) := by
  unfold execJal
  exact nextCanonical_finish h (onOk_after fun _ => onOk_after fun _ => onOk_ok h)

theorem canonical_execJalr {d va : BitVec 6} {s : State} (h : MemoryCanonical s) : NextCanonical (execJalr d va s) := by
  unfold execJalr
  refine nextCanonical_finish h ?_
  extract_lets _
  iterate 5 refine onOk_after fun _ => ?_
  exact onOk_ok h

theorem canonical_execRet {va : BitVec 6} {s : State} (h : MemoryCanonical s) : NextCanonical (execRet va s) := by
  unfold execRet
  refine nextCanonical_finish h ?_
  extract_lets _
  iterate 5 refine onOk_after fun _ => ?_
  exact onOk_ok h

theorem canonical_execCall {o : BitVec 20} {s : State} (h : MemoryCanonical s) : NextCanonical (execCall o s) := by
  unfold execCall
  refine nextCanonical_finish h ?_
  extract_lets _
  iterate 3 refine onOk_after fun _ => ?_
  exact onOk_ok h

theorem canonical_execLoop {va : BitVec 6} {o : BitVec 14} {s : State} (h : MemoryCanonical s) :
    NextCanonical (execLoop va o s) := by
  unfold execLoop
  refine nextCanonical_finish h ?_
  extract_lets _
  refine onOk_after fun _ => onOk_after fun _ => ?_
  split
  · exact onOk_ok h
  · exact onOk_after fun _ => onOk_ok h

/-! ### Machine/Pairings.lean -/

theorem canonical_serveBlk {s : State} {x : Access} {core bid i : Nat} (h : MemoryCanonical s) :
    MemoryCanonical (serveBlk s x core bid i) := by
  unfold serveBlk
  extract_lets t
  have ht : MemoryCanonical t := canonical_blkLocal h
  clear_value t
  split
  · exact canonical_takeToken ht
  · exact ht

theorem canonical_serveLocal {s : State} {cell : Nat} {x : Access} (h : MemoryCanonical s) :
    MemoryCanonical (serveLocal s cell x) := by
  unfold serveLocal
  split
  · exact canonical_serveBlk h
  · split
    · exact h
    · split
      · exact h
      · extract_lets r
        have hr : MemoryCanonical r.2 := canonical_performLocal h _ _ _
        clear_value r
        exact canonical_update (canonical_update (canonical_ite hr (canonical_acquired hr)))

theorem canonical_serveFirst {s : State} {cell : Nat} {x : Option Access} {x1 : Option PortUnit}
    (h : MemoryCanonical s) : OnSome MemoryCanonical (serveFirst s cell x x1) := by
  unfold serveFirst
  split
  · exact onSome_none
  · exact onSome_some (canonical_serveLocal h)
  · exact onSome_some (canonical_servePort h)
  · exact onSome_some (canonical_ite (canonical_serveLocal h) (canonical_servePort h))

theorem canonical_execLocalPairing {cell pos t : Nat} {s : State} (h : MemoryCanonical s) :
    NextCanonical (execLocalPairing cell pos t s) := by
  unfold execLocalPairing
  extract_lets _ _ _
  refine nextCanonical_next (canonical_whenRunning h ?_)
  split
  · exact canonical_readOperand h
  · split
    next e1 => exact (canonical_serveFirst h) _ e1
    · exact canonical_ite h h

theorem canonical_enterPort {s : State} {cell : Nat} {x : Access} (h : MemoryCanonical s) :
    MemoryCanonical (enterPort s cell x) := by
  unfold enterPort
  extract_lets _ _
  split
  · exact h
  · split
    · exact h
    · split <;> exact h

theorem canonical_execRemoteAccessArrival {id : Nat} {s : State} (h : MemoryCanonical s) :
    NextCanonical (execRemoteAccessArrival id s) := by
  unfold execRemoteAccessArrival
  extract_lets _ f
  have hf : ∀ (cell bytes : Nat) (reserved : Bool) (t : State), MemoryCanonical t → MemoryCanonical
      (f cell bytes reserved t) :=
    fun _ _ _ _ h1 => canonical_whenFabric h (canonical_whenPort h h1)
  clear_value f
  split
  · split
    · split
      · exact nextCanonical_next h
      · exact nextCanonical_next (hf _ _ _ _ (canonical_ite (canonical_update h)
          (canonical_update (canonical_update h))))
    · exact nextCanonical_next h
  · split
    · exact nextCanonical_next (hf _ _ _ _ (canonical_enterPort h))
    · exact nextCanonical_next h

theorem canonical_execCommonsQueueEntry {id : Nat} {s : State} (h : MemoryCanonical s) :
    NextCanonical (execCommonsQueueEntry id s) := by
  unfold execCommonsQueueEntry
  extract_lets _
  split
  · split
    · exact nextCanonical_next (canonical_whenFabric h (canonical_ite h (canonical_enterBlk h)))
    · extract_lets _ _
      exact nextCanonical_next (canonical_whenFabric h (canonical_ite h (canonical_ite h h)))
    · exact nextCanonical_next h
  · split
    · extract_lets _ _
      exact nextCanonical_next (canonical_whenFabric h (canonical_ite h h))
    · exact nextCanonical_next h

theorem canonical_countServed {s : State} {d : Nat} (h : MemoryCanonical s) : MemoryCanonical (countServed s d) :=
  canonical_count (canonical_update h) _ _ _

theorem canonical_serveCommons {s : State} {x : Access} (h : MemoryCanonical s) :
    MemoryCanonical (serveCommons s x) := by
  unfold serveCommons
  extract_lets _ _ _ t
  have ht : MemoryCanonical t := canonical_countServed h
  clear_value t
  split
  · exact ht
  · split
    · split
      · exact ht
      · exact canonical_update (canonical_update (canonical_acquired ht))
    · exact canonical_update (canonical_update (canonical_commonsWrite ht _ _ _ _ _))
    · exact ht

theorem canonical_readNow {s : State} {core bid : Nat} {p : Nat → Bool} (h : MemoryCanonical s) :
    MemoryCanonical (readNow s core bid p) := by
  unfold readNow
  refine foldl_canonical (fun _ _ h1 => ?_) h
  split
  · exact canonical_blkLocal h1
  · exact h1

theorem canonical_serveUnit {s : State} {core : Nat} {b : Blk} {i : Nat} (h : MemoryCanonical s) :
    MemoryCanonical (serveUnit s core b i) := by
  unfold serveUnit
  extract_lets _ _ t _ t1 t2
  have ht : MemoryCanonical t := canonical_ite (canonical_readNow h) h
  have ht1 : MemoryCanonical t1 := canonical_update (canonical_countServed ht)
  have ht2 : MemoryCanonical t2 := by
    unfold t2
    split
    · split
      · split
        · exact canonical_update (canonical_update (canonical_countServed ht))
        · exact ht1
      · split
        · exact canonical_update (canonical_update (canonical_update (canonical_update (canonical_countServed ht))))
        · exact ht1
    · split
      · exact canonical_update (canonical_update (canonical_countServed ht))
      · split
        · split
          · exact canonical_commonsWrite ht1 _ _ _ _ _
          · exact ht1
        · split
          · exact canonical_update (canonical_update (canonical_countServed ht))
          · exact canonical_update (canonical_update (canonical_update (canonical_update (canonical_countServed ht))))
  clear_value t t1 t2
  exact canonical_blkCheck ht2

theorem canonical_pairAgain {s : State} {d pos : Nat} (h : MemoryCanonical s) : MemoryCanonical (pairAgain s d pos) := by
  unfold pairAgain
  split <;> exact h

theorem canonical_copyRow {s : State} {d group bank : Nat} (h : MemoryCanonical s) :
    MemoryCanonical (copyRow s d group bank) := by
  unfold copyRow
  extract_lets row src
  split
  · exact h
  · split
    · exact h
    · exact canonical_update (canonical_putCommons h d (Memory.wf_writeN _ _ _ (canonical_commonsOf h d)))

theorem canonical_keepCopying {s : State} {d : Nat} (h : MemoryCanonical s) : MemoryCanonical (keepCopying s d) := by
  unfold keepCopying
  split
  · exact h
  · exact canonical_ite h (canonical_ite h (canonical_pushBankPairing h))

theorem canonical_execCommonsPairing {die pos t : Nat} {s : State} (h : MemoryCanonical s) :
    NextCanonical (execCommonsPairing die pos t s) := by
  unfold execCommonsPairing
  split
  · exact nextCanonical_next h
  · extract_lets _ _ t1
    have ht1 : MemoryCanonical t1 := canonical_ite (canonical_keepCopying (canonical_copyRow h)) h
    clear_value t1
    split
    · refine nextCanonical_next ?_
      split
      · exact canonical_keepCopying (canonical_serveCommons h)
      · exact canonical_serveCommons h
    · extract_lets t2
      have ht2 : MemoryCanonical t2 := canonical_pairAgain (canonical_serveUnit h)
      clear_value t2
      exact nextCanonical_next (canonical_ite (canonical_keepCopying ht2) ht2)
    · extract_lets t2
      have ht2 : MemoryCanonical t2 := canonical_pairAgain (canonical_servePort (canonical_countServed h))
      clear_value t2
      exact nextCanonical_next (canonical_ite (canonical_keepCopying ht2) ht2)
    · exact nextCanonical_next (canonical_pairAgain ht1)

theorem canonical_serveLeft {s : State} {core bid : Nat} (h : MemoryCanonical s) :
    MemoryCanonical (serveLeft s core bid) := by
  unfold serveLeft
  split
  · exact h
  · refine foldl_canonical (fun _ _ h1 => ?_) h
    split
    · exact canonical_serveUnit h1
    · exact h1

theorem canonical_commitBlk {s : State} {core bid : Nat} {written : List (Nat × Nat × Nat)} (h : MemoryCanonical s) :
    MemoryCanonical (commitBlk s core bid written).1 := by
  unfold commitBlk
  split
  · exact h
  · extract_lets _ _ t
    have ht : MemoryCanonical t := foldl_canonical (fun _ _ h1 => canonical_commonsWrite h1 _ _ _ _ _) h
    clear_value t
    split
    · exact h
    · split
      · exact h
      · exact ht

theorem canonical_endTurn {s : State} {d fc : Nat} (h : MemoryCanonical s) : MemoryCanonical (endTurn s d fc) := by
  unfold endTurn
  extract_lets _ r
  have hr : MemoryCanonical r.1 := by
    refine canonical_foldl_fst (fun _ _ h1 => canonical_foldl_fst (fun _ _ h2 => ?_) h1) h
    extract_lets t
    have ht : MemoryCanonical t := canonical_serveLeft (canonical_ite (canonical_readNow h2) h2)
    clear_value t
    split
    · exact canonical_commitBlk ht
    · exact ht
  clear_value r
  exact hr

theorem canonical_swapWheel {s : State} {d fc : Nat} (h : MemoryCanonical s) : MemoryCanonical (swapWheel s d fc) := by
  unfold swapWheel
  extract_lets _ _ _
  exact canonical_ite h h

theorem canonical_flipBanks {s : State} {d : Nat} (h : MemoryCanonical s) : MemoryCanonical (flipBanks s d) := by
  unfold flipBanks
  extract_lets t _
  have ht : MemoryCanonical t := by
    unfold t
    split
    · split
      · split <;> exact h
      · exact h
    · exact h
  clear_value t
  exact foldl_canonical (fun _ _ h1 => h1) ht

theorem canonical_reserve {s : State} {core fc : Nat} {b : Blk} (h : MemoryCanonical s) :
    MemoryCanonical (reserve s core fc b) := by
  unfold reserve
  extract_lets _ _ _
  exact canonical_ite h (canonical_pairAgain h)

theorem canonical_reserveAll {s : State} {d fc : Nat} (h : MemoryCanonical s) : MemoryCanonical (reserveAll s d fc) :=
  foldl_canonical (fun _ _ h1 => foldl_canonical (fun _ _ h2 => canonical_reserve h2) h1) h

theorem canonical_execTurnBoundary {die fcyc : Nat} {s : State} (h : MemoryCanonical s) :
    NextCanonical (execTurnBoundary die fcyc s) := by
  unfold execTurnBoundary
  split
  · exact nextCanonical_next h
  · split
    · exact nextCanonical_next h
    · extract_lets t
      have ht : MemoryCanonical t :=
        canonical_reserveAll (canonical_flipBanks (canonical_swapWheel (canonical_endTurn h)))
      clear_value t
      exact nextCanonical_next (canonical_ite ht ht)

/-! ### Machine/Slices.lean -/

theorem canonical_parkForked {s : State} {core kind : Nat} {va : Word} (h : MemoryCanonical s) :
    MemoryCanonical (parkForked s core kind va) := by
  unfold parkForked
  extract_lets _
  split
  next e => exact canonical_endVector (canonical_snd e (canonical_agentXlate h))
  next e => exact canonical_update (canonical_snd e (canonical_agentXlate h))
  next e => exact canonical_update (canonical_update (canonical_snd e (canonical_agentXlate h)))

theorem canonical_parkOnWalk {s : State} {x : Access} {va : Word} (h : MemoryCanonical s) :
    MemoryCanonical (parkOnWalk s x va) := by
  unfold parkOnWalk
  extract_lets p asid f
  have hf : ∀ (s : State) (sid : Nat) (y : Slot) (pc : Word), MemoryCanonical s → MemoryCanonical (f s sid y pc) := by
    intro s sid y pc h1
    have hd := canonical_demandFault h1 p asid x.op.kind.detail (globalPos x.core) va
    unfold f
    generalize demandFault s p asid _ _ va = t at hd ⊢
    exact hd
  clear_value f
  split
  · split
    · exact h
    · exact canonical_ite (hf _ _ _ _ (canonical_update h)) h
  · split
    · exact h
    · split
      · exact canonical_parkForked h
      · exact canonical_ite (hf _ _ _ _ (canonical_update (canonical_update h))) h
  · exact h

theorem canonical_storeVerdict {s : State} {x : Access} (h : MemoryCanonical s) :
    MemoryCanonical (storeVerdict s x) := by
  unfold storeVerdict
  split
  · exact h
  · split
    · exact h
    · exact canonical_ite h (canonical_vecVerdict h)
    · exact h

theorem canonical_toSlice {s : State} {x : Access} {pa key attr : Nat} {second : Option (Nat × Nat)}
    (h : MemoryCanonical s) : MemoryCanonical (toSlice s x pa key attr second) := by
  unfold toSlice
  split
  · exact h
  · extract_lets _ _ _
    split
    · exact h
    · exact canonical_update (canonical_storeVerdict h)

theorem canonical_execTranslationWalk {id : Nat} {s : State} (h : MemoryCanonical s) :
    NextCanonical (execTranslationWalk id s) := by
  unfold execTranslationWalk
  split
  · exact nextCanonical_next h
  · split
    · split
      · exact nextCanonical_next h
      · split
        · exact nextCanonical_next h
        · extract_lets f _
          have hf : ∀ (s : State) (va : Word), MemoryCanonical s → MemoryCanonical (f s va).2 :=
            fun _ _ h1 => canonical_translate h1
          clear_value f
          split
          next e4 => exact nextCanonical_next (canonical_update (canonical_update (canonical_snd e4 (hf _ _ h))))
          next e4 => exact nextCanonical_next (canonical_parkOnWalk (canonical_snd e4 (hf _ _ h)))
          next e4 =>
            split
            · exact nextCanonical_next (canonical_toSlice (canonical_snd e4 (hf _ _ h)))
            · split
              · exact nextCanonical_next (canonical_update (canonical_update (canonical_snd e4 (hf _ _ h))))
              · split
                · exact nextCanonical_next (canonical_update (canonical_update (canonical_snd e4 (hf _ _ h))))
                · split
                  next e8 =>
                    exact nextCanonical_next (canonical_update (canonical_update
                      (canonical_snd e8 (hf _ _ (canonical_snd e4 (hf _ _ h))))))
                  next e8 =>
                    exact nextCanonical_next (canonical_parkOnWalk
                      (canonical_snd e8 (hf _ _ (canonical_snd e4 (hf _ _ h)))))
                  next e8 =>
                    exact nextCanonical_next (canonical_toSlice (canonical_snd e8
                      (hf _ _ (canonical_snd e4 (hf _ _ h)))))
    · exact nextCanonical_next h

theorem canonical_countMiss {s : State} {d : Nat} {x : Access} (h : MemoryCanonical s) :
    MemoryCanonical (countMiss s d x) := canonical_ite h (canonical_count h _ _ _)

theorem canonical_countHit {s : State} {d : Nat} {x : Access} (h : MemoryCanonical s) :
    MemoryCanonical (countHit s d x) := canonical_ite h (canonical_count h _ _ _)

theorem canonical_readPieces {s : State} {x : Access} (h : MemoryCanonical s) : MemoryCanonical (readPieces s x).2 := by
  unfold readPieces
  extract_lets _ _ r
  have hr : MemoryCanonical r.2.2 :=
    foldl_keeps (p := fun q : Nat × Nat × State => MemoryCanonical q.2.2) (fun _ _ h1 => canonical_sliceReadAny h1) h
  clear_value r
  exact hr

theorem canonical_fillLoad {s : State} {x : Access} (h : MemoryCanonical s) : MemoryCanonical (fillLoad s x) := by
  unfold fillLoad
  split
  · exact h
  · exact foldl_canonical (fun _ _ h1 => foldl_canonical (fun _ _ h2 => canonical_fillL1 h2) h1) h

theorem canonical_serveRead {s : State} {x : Access} {keep : Bool} (h : MemoryCanonical s) :
    MemoryCanonical (serveRead s x keep) := by
  unfold serveRead
  split
  · exact h
  · extract_lets r t
    have hr : MemoryCanonical r.2 := canonical_readPieces h
    have ht : MemoryCanonical t := canonical_acquired hr
    clear_value r t
    exact canonical_update (canonical_update (canonical_ite (canonical_fillLoad ht) ht))

theorem canonical_execSliceReadMiss {id : Nat} {s : State} (h : MemoryCanonical s) :
    NextCanonical (execSliceReadMiss id s) := by
  unfold execSliceReadMiss
  split
  · exact nextCanonical_next h
  · split
    · split
      · exact nextCanonical_next h
      · split
        · exact nextCanonical_next (canonical_serveRead (canonical_count h _ _ _))
        · split
          · exact nextCanonical_next (canonical_serveRead (canonical_countHit h))
          · split
            · exact nextCanonical_next (canonical_update (canonical_countMiss h))
            · split
              · exact nextCanonical_next (canonical_update (canonical_update
                  (canonical_update (canonical_countMiss h))))
              · split
                · exact nextCanonical_next h
                · exact nextCanonical_next (canonical_serveRead (canonical_count h _ _ _))
    · split
      · exact nextCanonical_next h
      · exact nextCanonical_next (canonical_update (canonical_update (canonical_acquired h)))
    · exact nextCanonical_next h

theorem canonical_execLineFilledFromMemory {die line : Nat} {s : State} (h : MemoryCanonical s) :
    NextCanonical (execLineFilledFromMemory die line s) := by
  unfold execLineFilledFromMemory
  split
  · exact nextCanonical_next h
  · extract_lets _ _ t1
    have ht1 : MemoryCanonical t1 := by
      unfold t1
      split
      · exact canonical_install h
      · refine foldl_canonical (fun _ _ h1 => ?_) h
        split
        · exact canonical_bringLine h1
        · exact h1
    clear_value t1
    exact nextCanonical_next (foldl_canonical (fun _ _ h1 => h1) ht1)

theorem canonical_writePieces {s : State} {x : Access} {v : Nat} (h : MemoryCanonical s) :
    MemoryCanonical (writePieces s x v) := by
  unfold writePieces
  extract_lets _ r
  have hr : MemoryCanonical r.1 := canonical_foldl_fst (fun _ _ h1 => canonical_update (canonical_sliceWriteAny h1)) h
  clear_value r
  exact hr

theorem canonical_execSliceWriteSerialise {id : Nat} {s : State} (h : MemoryCanonical s) :
    NextCanonical (execSliceWriteSerialise id s) := by
  unfold execSliceWriteSerialise
  split
  · exact nextCanonical_next h
  · split
    · split
      · exact nextCanonical_next h
      · split
        · exact nextCanonical_next h
        · exact nextCanonical_next (canonical_update (canonical_update (canonical_writePieces h)))
    · split
      · exact nextCanonical_next h
      · exact nextCanonical_next (canonical_update (canonical_update (canonical_privWrite h)))
    · exact nextCanonical_next h

theorem canonical_dropOwn {s : State} {d line : Nat} (h : MemoryCanonical s) : MemoryCanonical (dropOwn s d line) :=
  canonical_update (canonical_dropReplica h _ _)

theorem canonical_performCst {s : State} {x : Access} {n : Nat} {data stamps : VReg} (h : MemoryCanonical s) :
    MemoryCanonical (performCst s x n data stamps).2 := by
  unfold performCst
  extract_lets _ t _
  have ht : MemoryCanonical t := foldl_canonical (fun _ _ h2 => canonical_dropOwn h2) h
  clear_value t
  split
  · exact ht
  · split
    · exact ht
    · exact foldl_canonical (fun _ _ h2 => canonical_homeWrite h2 _ _ _ _ _) ht

theorem canonical_performHome {s : State} {x : Access} (h : MemoryCanonical s) :
    MemoryCanonical (performHome s x).2 := by
  unfold performHome
  extract_lets d f r
  have hf : ∀ (n : Nat) (new : Nat → Option Nat), MemoryCanonical (f n new).2 := by
    intro n new
    unfold f
    split
    · exact h
    · extract_lets r t
      have hr : MemoryCanonical r.2 := canonical_physReadLine (canonical_flushLine h _ _) _ _ _
      clear_value r
      have ht : MemoryCanonical t := by
        unfold t
        split
        · exact canonical_homeWrite hr _ _ _ _ _
        · exact hr
      exact canonical_dropOwn ht
  have hr : MemoryCanonical r.2 := canonical_physReadLine (canonical_flushLine h _ _) _ _ _
  clear_value f r
  split
  · exact hf _ _
  · exact hf _ _
  · split
    · exact h
    · exact canonical_dropOwn hr
  · split
    · exact h
    · exact canonical_performCst h
  · exact h

theorem canonical_execSliceAtomic {id : Nat} {s : State} (h : MemoryCanonical s) :
    NextCanonical (execSliceAtomic id s) := by
  unfold execSliceAtomic
  split
  · exact nextCanonical_next h
  · split
    · exact nextCanonical_next h
    · exact nextCanonical_next h
    · split
      · exact nextCanonical_next h
      · split
        · split
          · exact nextCanonical_next (canonical_update (canonical_countMiss h))
          · split
            · exact nextCanonical_next (canonical_update (canonical_update (canonical_update (canonical_countMiss h))))
            · exact nextCanonical_next h
        · extract_lets r
          have hr : MemoryCanonical r.2 :=
            canonical_performHome (canonical_ite (canonical_countHit h) (canonical_count h _ _ _))
          clear_value r
          exact nextCanonical_next (canonical_update (canonical_update (canonical_acquired hr)))
    · exact nextCanonical_next h

theorem canonical_execRemoteWriteForward {die home : Nat} {s : State} (h : MemoryCanonical s) :
    NextCanonical (execRemoteWriteForward die home s) := by
  unfold execRemoteWriteForward
  split
  · exact nextCanonical_next h
  · exact nextCanonical_next (canonical_performForward (canonical_update h) _)

theorem canonical_execFaultRecordWrite {p : Nat} {s : State} (h : MemoryCanonical s) :
    NextCanonical (execFaultRecordWrite p s) := by
  unfold execFaultRecordWrite
  split
  · exact nextCanonical_next h
  · extract_lets _ _ _ t1 _
    have ht1 : MemoryCanonical t1 := canonical_cachedWrite h _ _ _ _ _
    clear_value t1
    split
    · exact nextCanonical_next h
    · exact nextCanonical_next ht1

theorem canonical_hostRead {s : State} {pa n : Nat} (h : MemoryCanonical s) : MemoryCanonical (hostRead s pa n).2 := by
  unfold hostRead
  refine canonical_foldl_snd (fun _ _ h1 => ?_) h
  extract_lets _ _ r
  have hr : MemoryCanonical r.2 := canonical_physReadLine (canonical_countL2 h1) _ _ _
  clear_value r
  split
  · exact hr
  · exact h1

theorem canonical_execHostCxlAccess {write : Bool} {pa n : Nat} {v : Word} {s : State} (h : MemoryCanonical s) :
    NextCanonical (execHostCxlAccess write pa n v s) := by
  unfold execHostCxlAccess
  split
  · exact nextCanonical_next h
  · split
    · exact nextCanonical_next (canonical_hostWrite h _ _ _)
    · split
      · exact nextCanonical_next h
      · extract_lets r _
        have hr : MemoryCanonical r.2 := canonical_hostRead h
        clear_value r
        exact nextCanonical_next hr

/-! ### Machine/Directory.lean -/

theorem canonical_execTdq {d va : BitVec 6} {m : Bool} {s : State} (h : MemoryCanonical s) :
    NextCanonical (execTdq d va m s) := by
  unfold execTdq
  refine nextCanonical_finish h ?_
  extract_lets _ _
  iterate 3 refine onOk_after fun _ => ?_
  extract_lets _
  iterate 3 refine onOk_after fun _ => ?_
  exact onOk_ok h

theorem canonical_execTdset {va b : BitVec 6} {m n : Bool} {s : State} (h : MemoryCanonical s) :
    NextCanonical (execTdset va b m n s) := by
  unfold execTdset
  refine nextCanonical_finish h ?_
  extract_lets _ _ _
  refine onOk_after fun _ => onOk_after fun _ => ?_
  extract_lets _
  iterate 5 refine onOk_after fun _ => ?_
  extract_lets _
  exact onOk_after fun _ => onOk_ok (canonical_update (canonical_modCell h _ (Loc.wf_setFmt _ _ (canonical_cell h _))))

theorem canonical_zeroAt {s : State} {cell f : Nat} (h : MemoryCanonical s) : MemoryCanonical (zeroAt s cell f) := by
  unfold zeroAt
  extract_lets _ t
  have ht : MemoryCanonical t := canonical_modCell h _ (Loc.wf_zeroFrame _ (canonical_cell h _))
  clear_value t
  exact ht

theorem canonical_execTdzero {va b : BitVec 6} {m n : Bool} {s : State} (h : MemoryCanonical s) :
    NextCanonical (execTdzero va b m n s) := by
  unfold execTdzero
  refine nextCanonical_finish h ?_
  extract_lets _ _
  iterate 4 refine onOk_after fun _ => ?_
  extract_lets _
  iterate 3 refine onOk_after fun _ => ?_
  exact onOk_ok (canonical_update (foldl_canonical (fun _ _ h1 => canonical_zeroAt h1) h))

theorem wf_makePair {c : Cell} {f n : Nat} (h : c.mem.wf = true) : (makePair c f n).mem.wf = true := by
  unfold makePair
  split <;> exact h

theorem wf_flipPair {c : Cell} {f n : Nat} (h : c.mem.wf = true) : (flipPair c f n).mem.wf = true :=
  wf_makePair h

theorem canonical_execPub {va : BitVec 6} {sc : BitVec 3} {m : Bool} {s : State} (h : MemoryCanonical s) :
    NextCanonical (execPub va sc m s) := by
  unfold execPub
  extract_lets _
  split
  · exact nextCanonical_finish h onOk_error
  · split
    · exact nextCanonical_finish h (onOk_ok (canonical_update (canonical_modCell h _ (canonical_cell h _))))
    · extract_lets t
      have ht : MemoryCanonical t := canonical_modCell h _ (wf_makePair (canonical_cell h _))
      clear_value t
      exact nextCanonical_finish ht (onOk_after fun _ => onOk_after fun _ => onOk_ok
        (canonical_update (canonical_modCell ht _ (wf_flipPair (canonical_cell ht _)))))

theorem canonical_execOphint {i : BitVec 13} {s : State} (h : MemoryCanonical s) : NextCanonical (execOphint i s) := by
  unfold execOphint
  refine nextCanonical_finish h (onOk_after fun _ => ?_)
  extract_lets t _
  have ht : MemoryCanonical t := canonical_ite h (canonical_endPhase h)
  clear_value t
  exact onOk_ok (canonical_opLookup ht)

theorem wf_csrCell {n : Nat} {v : Word} {c : Cell} (h : c.mem.wf = true) : (csrCell n v c).mem.wf = true := by
  unfold csrCell
  split
  · exact h
  · split
    · exact h
    · split
      · exact h
      · split
        · exact h
        · split <;> exact h

theorem canonical_csrRes {i : Instr} {n : Nat} {d : BitVec 6} {x : Option (BitVec 6)} {new : Word → Word → Word}
    {s : State} (h : MemoryCanonical s) : OnOk MemoryCanonical (csrRes i n d x new s) := by
  unfold csrRes
  extract_lets _ _
  iterate 5 refine onOk_after fun _ => ?_
  extract_lets _ t t1
  have ht : MemoryCanonical t := canonical_modCell h _ (wf_csrCell (canonical_cell h _))
  have ht1 : MemoryCanonical t1 := canonical_ite ht ht
  clear_value t t1
  refine onOk_after fun _ => ?_
  split
  · exact onOk_ok h
  · exact onOk_after fun _ => onOk_after fun _ => onOk_ok ht1

theorem canonical_execEret {s : State} (h : MemoryCanonical s) : NextCanonical (execEret s) := by
  unfold execEret
  exact nextCanonical_finish h (onOk_after fun _ => onOk_ok h)

/-! ### Machine/System.lean -/

theorem canonical_endShoot {s : State} {k : Shoot} {ids : List Nat} (h : MemoryCanonical s) :
    OnOk MemoryCanonical (endShoot s k ids) := by
  unfold endShoot
  split
  · exact onOk_error
  · exact onOk_ok h

theorem canonical_execTlbsd {va : BitVec 6} {s : State} (h : MemoryCanonical s) : NextCanonical (execTlbsd va s) := by
  unfold execTlbsd
  split
  · exact nextCanonical_finish h (canonical_endShoot h)
  · refine nextCanonical_finish h ?_
    extract_lets _
    iterate 4 refine onOk_after fun _ => ?_
    refine canonical_readIssue h (fun _ _ h1 => ?_)
    split
    · exact onOk_error
    · exact onOk_after fun _ => onOk_ok (canonical_ite h1 h1)

theorem canonical_loadSet {s : State} {set v : Nat} (h : MemoryCanonical s) :
    MemoryCanonical (loadSet s set v) :=
  canonical_setReg (foldl_canonical (fun _ _ h1 => canonical_setReg h1 _ _)
    (foldl_canonical (fun _ _ h1 => canonical_setReg h1 _ _) h)) _ _

theorem canonical_execWheelLoad {va : BitVec 6} {s : State} (h : MemoryCanonical s) :
    NextCanonical (execWheelLoad va s) := by
  unfold execWheelLoad
  refine nextCanonical_finish h ?_
  extract_lets _
  iterate 4 refine onOk_after fun _ => ?_
  refine canonical_readIssue h (fun _ _ h1 => onOk_after fun _ => ?_)
  extract_lets _ t
  have ht : MemoryCanonical t := canonical_ite h1 (canonical_loadSet h1)
  clear_value t
  exact onOk_ok ht

theorem canonical_execWheelArm {s : State} (h : MemoryCanonical s) : NextCanonical (execWheelArm s) := by
  unfold execWheelArm
  exact nextCanonical_finish h (onOk_after fun _ => onOk_ok (canonical_update (canonical_ite h h)))

theorem canonical_execWheelSwap {s : State} (h : MemoryCanonical s) : NextCanonical (execWheelSwap s) := by
  unfold execWheelSwap
  refine nextCanonical_finish h (onOk_after fun _ => ?_)
  extract_lets _ _ _ t2
  have ht2 : MemoryCanonical t2 := canonical_ite h h
  clear_value t2
  exact onOk_ok ht2

theorem canonical_partRes {i : Instr} {d va : BitVec 6} {f : List Nat → State → Except Halt (Word × State)}
    {s : State} (hf : ∀ (l : List Nat) (t : State), MemoryCanonical t → OnOk (fun r => MemoryCanonical r.2) (f l t))
    (h : MemoryCanonical s) : OnOk MemoryCanonical (partRes i d va f s) := by
  unfold partRes
  extract_lets _ f1
  have hf1 : ∀ (r : BitVec 64 × State), MemoryCanonical r.2 → OnOk MemoryCanonical (f1 r) := fun _ h1 => onOk_ok h1
  clear_value f1
  iterate 6 refine onOk_after fun _ => ?_
  split
  · exact onOk_bind (onOk_ok h) hf1
  · exact onOk_bind (hf _ _ h) hf1

theorem canonical_flushPart {s : State} {p : Nat} (h : MemoryCanonical s) : MemoryCanonical (flushPart s p) := by
  unfold flushPart
  extract_lets _ _ t
  have ht : MemoryCanonical t := foldl_canonical (fun _ _ h1 => canonical_performForward h1 _) h
  clear_value t
  exact ht

theorem canonical_quiescePart {s : State} {p : Nat} (h : MemoryCanonical s) : MemoryCanonical (quiescePart s p) := by
  unfold quiescePart
  extract_lets t
  have ht : MemoryCanonical t := canonical_ite (canonical_flushPart (foldl_canonical (fun _ _ h1 => h1) h)) h
  clear_value t
  exact ht

theorem canonical_execPartQuiesce {d va : BitVec 6} {s : State} (h : MemoryCanonical s) :
    NextCanonical (execPartQuiesce d va s) := by
  unfold execPartQuiesce
  refine nextCanonical_finish h (canonical_partRes (fun _ _ h1 => ?_) h)
  split
  · exact onOk_ok h1
  · split
    · exact onOk_ok h1
    · exact onOk_ok (foldl_canonical (fun _ _ h2 => canonical_quiescePart h2) h1)

theorem canonical_commitKey {ps : List Nat} {s : State} {n : Nat} (h : MemoryCanonical s) :
    MemoryCanonical (commitKey ps s n) := by
  unfold commitKey
  extract_lets _ _ t
  have ht : MemoryCanonical t := canonical_discardKey h
  clear_value t
  split
  · split
    · exact h
    · exact ht
  · exact canonical_ite ht h

theorem canonical_scrubBank {s : State} {d g phys : Nat} (h : MemoryCanonical s) :
    MemoryCanonical (scrubBank s d g phys) :=
  canonical_update (canonical_putCommons h d (Memory.wf_clear _ _ (canonical_commonsOf h d)))

theorem canonical_scrubGroup {s : State} {d g : Nat} (h : MemoryCanonical s) : MemoryCanonical (scrubGroup s d g) := by
  unfold scrubGroup
  refine foldl_canonical (fun _ _ h1 => ?_) h
  split
  · exact h1
  · extract_lets t
    have ht : MemoryCanonical t := canonical_scrubBank h1
    clear_value t
    split
    · split
      · exact canonical_scrubBank ht
      · exact ht
    · exact ht

theorem wf_committedCell {c : Cell} : (committedCell c).mem.wf = true := rfl

theorem canonical_startGaffers {p : Nat} {s : State} {cell : Nat} (h : MemoryCanonical s) :
    MemoryCanonical (startGaffers p s cell) := by
  unfold startGaffers
  extract_lets t
  have ht : MemoryCanonical t := foldl_canonical (fun _ _ h1 => canonical_enrol h1) h
  clear_value t
  exact ht

theorem canonical_commitCell {p : Nat} {s : State} {cell : Nat} (h : MemoryCanonical s) :
    MemoryCanonical (commitCell p s cell) := by
  unfold commitCell
  extract_lets t t1 t2 _ _ _ _ t6
  have ht : MemoryCanonical t := canonical_update (canonical_drainFifo h)
  have ht1 : MemoryCanonical t1 := canonical_update (canonical_update (canonical_drainFifo h))
  have ht2 : MemoryCanonical t2 := canonical_modCell ht1 _ wf_committedCell
  have ht6 : MemoryCanonical t6 :=
    canonical_update (canonical_update (canonical_update (foldl_canonical (fun _ _ h1 => h1) ht2)))
  clear_value t t1 t2 t6
  exact canonical_startGaffers ht6

theorem canonical_commitPart {s : State} {p : Nat} (h : MemoryCanonical s) : MemoryCanonical (commitPart s p) := by
  unfold commitPart
  extract_lets _ t _ t2
  have ht : MemoryCanonical t :=
    foldl_canonical (fun _ _ h1 => foldl_canonical (fun _ _ h2 => canonical_scrubGroup h2) h1) h
  have ht2 : MemoryCanonical t2 := foldl_canonical (fun _ _ h1 => canonical_commitCell h1) ht
  clear_value t t2
  exact canonical_ite h ht2

theorem canonical_commitAll {s : State} {ps : List Nat} (h : MemoryCanonical s) : MemoryCanonical (commitAll s ps) := by
  unfold commitAll
  extract_lets t
  have ht : MemoryCanonical t := foldl_canonical (fun _ _ h1 => canonical_commitKey h1) h
  clear_value t
  exact foldl_canonical (fun _ _ h1 => canonical_commitPart h1) ht

theorem canonical_execPartCommit {d va : BitVec 6} {s : State} (h : MemoryCanonical s) :
    NextCanonical (execPartCommit d va s) := by
  unfold execPartCommit
  refine nextCanonical_finish h (canonical_partRes (fun _ _ h1 => ?_) h)
  split
  · exact onOk_ok h1
  · split
    · exact onOk_ok h1
    · split
      · exact onOk_ok h1
      · split
        · exact onOk_error
        · exact onOk_ok (canonical_commitAll h1)

/-! ### Machine/Graph.lean -/

theorem canonical_openNodes {g : Agent} {k : Nat} {s : State} {l : List Nat} (h : MemoryCanonical s) :
    MemoryCanonical (openNodes g k s l).2 := by
  induction l generalizing s with
  | nil => exact h
  | cons v vs ih =>
    unfold openNodes
    extract_lets n
    have hr : MemoryCanonical (if n = 0 then (Got.val 0, s) else readVirt s g (wrap64 (fieldAt v 0x50 8)) (4 * n)).2 := by
      split
      · exact h
      · exact canonical_readVirt h
    clear_value n
    split
    · exact h
    · split
      next e => exact canonical_snd e hr
      next e =>
        have ht := canonical_snd e hr
        extract_lets succ
        split
        · exact ht
        · split
          next e2 => exact canonical_snd e2 (ih ht)
          · exact ih ht
      next e => exact canonical_snd e hr

theorem canonical_openGraph {s : State} {g : Agent} {header : Word} (h : MemoryCanonical s) :
    MemoryCanonical (openGraph s g header).2 := by
  unfold openGraph
  split
  next e => exact canonical_snd e (canonical_readVirt h)
  next e =>
    extract_lets _ _
    split
    · exact canonical_snd e (canonical_readVirt h)
    · split
      next e2 => exact canonical_snd e2 (canonical_readVirt (canonical_snd e (canonical_readVirt h)))
      next e2 =>
        exact canonical_openNodes (canonical_snd e2 (canonical_readVirt (canonical_snd e (canonical_readVirt h))))
      next e4 => exact canonical_snd e4 (canonical_readVirt (canonical_snd e (canonical_readVirt h)))
  next e2 => exact canonical_snd e2 (canonical_readVirt h)

theorem canonical_readEntry {s : State} {pa : Nat} (h : MemoryCanonical s) : MemoryCanonical (readEntry s pa).2 := by
  unfold readEntry
  split
  · exact h
  · exact canonical_physReadRaw h

theorem canonical_takeEntry {s : State} {p : Nat} (h : MemoryCanonical s) : MemoryCanonical (takeEntry s p) := by
  unfold takeEntry
  split
  · exact h
  · split
    · exact h
    · extract_lets _ r _ _
      have hr : MemoryCanonical r.2 := canonical_readEntry h
      clear_value r
      exact hr

theorem canonical_openLaunch {s : State} {p li : Nat} (h : MemoryCanonical s) : MemoryCanonical (openLaunch s p li) := by
  unfold openLaunch
  split
  · exact h
  · split
    · split
      next e2 => exact canonical_snd e2 (canonical_openGraph h)
      next e2 => exact canonical_update (canonical_snd e2 (canonical_openGraph h))
      next e2 =>
        extract_lets t
        have ht : MemoryCanonical t := canonical_update (canonical_snd e2 (canonical_openGraph h))
        clear_value t
        exact ht
    · exact h

theorem canonical_closeLaunch {s : State} {p : Nat} {l : Launch} (h : MemoryCanonical s) :
    MemoryCanonical (closeLaunch s p l).2 := by
  unfold closeLaunch
  split
  · split
    · exact h
    · split
      next e2 => exact canonical_snd e2 (canonical_writeVirt (canonical_flushDie h _))
      next e3 => exact canonical_snd e3 (canonical_writeVirt (canonical_flushDie h _))
  · exact h

theorem canonical_closeLaunches {p : Nat} {s : State} {l : List Launch} (h : MemoryCanonical s) :
    MemoryCanonical (closeLaunches p s l).2 := by
  induction l generalizing s with
  | nil => exact h
  | cons l ls ih =>
    unfold closeLaunches
    split
    · exact ih h
    · split
      next e => exact ih (canonical_snd e (canonical_closeLaunch h))
      next e => exact ih (canonical_snd e (canonical_closeLaunch h))

theorem canonical_execLaunchRead {p : Nat} {s : State} (h : MemoryCanonical s) : NextCanonical (execLaunchRead p s) := by
  unfold execLaunchRead
  split
  · exact nextCanonical_next h
  · extract_lets t t1 _ r _ _
    have ht : MemoryCanonical t := canonical_takeEntry h
    have ht1 : MemoryCanonical t1 := by
      refine foldl_canonical (fun _ _ h1 => ?_) ht
      split
      · exact canonical_ite (canonical_openLaunch h1) h1
      · exact h1
    have hr : MemoryCanonical r.2 := canonical_closeLaunches ht1
    clear_value t t1 r
    exact nextCanonical_next (canonical_ite hr hr)

theorem canonical_deliverRecord {s : State} {cell : Nat} {rec_ : Word} {prio : Nat} (h : MemoryCanonical s) :
    MemoryCanonical (deliverRecord s cell rec_ prio) := by
  unfold deliverRecord
  extract_lets t
  have ht : MemoryCanonical t :=
    canonical_modCell (canonical_flushDie h _) _ (canonical_cell (canonical_flushDie h _) _)
  clear_value t
  exact foldl_canonical (fun _ _ h1 => canonical_ite h1 h1) (canonical_agingDue ht)

theorem canonical_deliverHeld {p : Nat} {s : State} {l : List Held} {blocked : List Nat} (h : MemoryCanonical s) :
    MemoryCanonical (deliverHeld p s l blocked).2 := by
  induction l generalizing s blocked with
  | nil => exact h
  | cons x xs ih =>
    unfold deliverHeld
    split
    · exact ih (canonical_deliverRecord h)
    · exact ih h

theorem canonical_failRecord {s : State} {p li ni : Nat} {l : Launch} {n : Node} (h : MemoryCanonical s) :
    MemoryCanonical (failRecord s p li ni l n).2 := by
  unfold failRecord
  extract_lets _ f
  have hf : ∀ (s : State), MemoryCanonical s → MemoryCanonical (f s).2 := fun _ h1 => h1
  clear_value f
  split
  next e => exact canonical_snd e (canonical_readVirt h)
  next e =>
    split
    next e1 => exact canonical_snd e1 (canonical_joinAt (canonical_snd e (canonical_readVirt h)))
    next e1 => exact hf _ (canonical_snd e1 (canonical_joinAt (canonical_snd e (canonical_readVirt h))))
  next e2 => exact hf _ (canonical_snd e2 (canonical_readVirt h))

theorem canonical_placeRecord {s : State} {p li ni : Nat} {l : Launch} {n : Node} (h : MemoryCanonical s) :
    MemoryCanonical (placeRecord s p li ni l n).2 := by
  unfold placeRecord
  extract_lets k record prio put t next
  have hput : ∀ (m : Node) (s : State), MemoryCanonical s → MemoryCanonical (put m s) := fun _ _ h1 => h1
  have ht : MemoryCanonical t := hput _ _ h
  have hnext : MemoryCanonical (next t) := hput _ _ ht
  clear_value put next t
  split
  · split
    · exact ht
    · split
      · exact canonical_update hnext
      · exact canonical_pair (canonical_deliverRecord hnext)
  · split
    · exact ht
    · exact canonical_pair (canonical_deliverRecord hnext)

theorem canonical_placeNext {s : State} {p li ni : Nat} (h : MemoryCanonical s) :
    MemoryCanonical (placeNext s p li ni).2 := by
  unfold placeNext
  split
  · exact h
  · split
    · exact h
    · split
      · exact canonical_placeRecord h
      · split
        next e3 => exact canonical_snd e3 (canonical_writeVirt h)
        next e3 => exact canonical_placeRecord (canonical_snd e3 (canonical_writeVirt h))
        next e3 =>
          split
          next e4 => exact canonical_snd e4 (canonical_failRecord (canonical_snd e3 (canonical_writeVirt h)))
          next e4 =>
            exact canonical_update (canonical_snd e4 (canonical_failRecord (canonical_snd e3 (canonical_writeVirt h))))

theorem canonical_placeFirst {p : Nat} {s : State} {l : List (Nat × Nat)} (h : MemoryCanonical s) :
    MemoryCanonical (placeFirst p s l).2 := by
  induction l generalizing s with
  | nil => exact h
  | cons q qs ih =>
    unfold placeFirst
    split
    next e => exact ih (canonical_snd e (canonical_placeNext h))
    · exact canonical_placeNext h

theorem canonical_execRecordPlace {p : Nat} {s : State} (h : MemoryCanonical s) :
    NextCanonical (execRecordPlace p s) := by
  unfold execRecordPlace
  split
  · exact nextCanonical_next h
  · extract_lets r _ _ q _ _ _ _ t4
    have hr : MemoryCanonical r.2 := canonical_deliverHeld h
    have hq : MemoryCanonical q.2 := canonical_placeFirst hr
    have ht4 : MemoryCanonical t4 := canonical_ite hq hq
    clear_value r q t4
    exact nextCanonical_next (canonical_ite ht4 ht4)

theorem canonical_placeCont {s : State} {p : Nat} {c : Nat × Nat × Word} (h : MemoryCanonical s) :
    MemoryCanonical (placeCont s p c).2 := by
  unfold placeCont
  extract_lets place
  have hplace : ∀ (s : State) (prio : Nat), MemoryCanonical s → MemoryCanonical (place s prio).2 := by
    intro s prio h1
    unfold place
    split
    · exact h1
    · exact canonical_pair (canonical_deliverRecord h1)
  clear_value place
  split
  next e => exact canonical_snd e (canonical_readVirt h)
  next e => exact hplace _ _ (canonical_snd e (canonical_readVirt h))
  next e => exact hplace _ _ (canonical_snd e (canonical_readVirt h))

theorem canonical_execContinuationPlace {p : Nat} {s : State} (h : MemoryCanonical s) :
    NextCanonical (execContinuationPlace p s) := by
  unfold execContinuationPlace
  split
  · exact nextCanonical_next h
  · split
    · exact nextCanonical_next h
    · split
      next e2 => exact nextCanonical_next (canonical_snd e2 (canonical_placeCont h))
      next e2 =>
        extract_lets t
        have ht : MemoryCanonical t := canonical_update (canonical_snd e2 (canonical_placeCont h))
        clear_value t
        exact nextCanonical_next (canonical_ite ht ht)

theorem wf_promote {now : Word} {c : Cell} {q : Nat × InboxEntry} (h : c.mem.wf = true) :
    (promote now c q).mem.wf = true := by
  unfold promote
  extract_lets _ _ _
  split <;> exact h

theorem canonical_execAgePromotion {cell : Nat} {s : State} (h : MemoryCanonical s) :
    NextCanonical (execAgePromotion cell s) := by
  unfold execAgePromotion
  split
  · exact nextCanonical_next h
  · split
    · exact nextCanonical_next h
    · exact nextCanonical_next (canonical_agingDue (canonical_modCell h _
        (foldl_keeps (p := fun c : Cell => Memory.wf c.mem = true) (fun _ _ h1 => wf_promote h1)
        (canonical_cell h _))))

/-! ### Machine/Copies.lean -/

theorem canonical_portXlate {s : State} {g : Agent} {va : Word} {rd wr : Bool} (h : MemoryCanonical s) :
    MemoryCanonical (portXlate s g va rd wr).2 := by
  unfold portXlate
  split
  · exact h
  · exact canonical_agentXlate h

theorem canonical_judgePage {s : State} {g : Agent} {va : Word} {k : Nat} {wr red late : Bool} (h : MemoryCanonical s) :
    MemoryCanonical (judgePage s g va k wr red late).2 := by
  unfold judgePage
  split
  · exact h
  · extract_lets r
    have hr : MemoryCanonical r.2 := by
      unfold r
      split
      · exact canonical_translate h
      · exact canonical_portXlate h
    clear_value r
    split
    · exact hr
    · exact hr
    · split
      · exact hr
      · split
        · exact hr
        · split <;> exact hr

theorem canonical_judgeFuel {cell : Nat} {g : Agent} {wr red : Bool} {owe : FMap Nat} {f : Nat} {s : State} {va : Word}
    {n : Nat} {acc : Judged} (h : MemoryCanonical s) :
    MemoryCanonical (judgeFuel cell g wr red owe f s va n acc).2 := by
  induction f generalizing s va n acc with
  | zero => exact h
  | succ f ih =>
    unfold judgeFuel
    split
    · exact h
    · extract_lets k go
      have hgo : ∀ (s : State) (k : Nat) (j : Judged), MemoryCanonical s → MemoryCanonical (go s k j).2 := fun _ _ _ h1 => ih h1
      clear_value go
      split
      · exact hgo _ _ _ h
      · exact hgo _ _ _ h
      · exact hgo _ _ _ h
      · exact hgo _ _ _ (canonical_judgePage h)
      · exact hgo _ _ _ h

theorem canonical_judgeRun {s : State} {cell : Nat} {g : Agent} {wr red : Bool} {owe : FMap Nat} {va : Word} {n : Nat}
    {acc : Judged} (h : MemoryCanonical s) : MemoryCanonical (judgeRun s cell g wr red owe va n acc).2 :=
  canonical_judgeFuel h

theorem canonical_judgeBytes {s : State} {cell : Nat} {g : Agent} {wr red : Bool} {va : Word} {n : Nat}
    (h : MemoryCanonical s) : MemoryCanonical (judgeBytes s cell g wr red va n).2 := canonical_judgeRun h

theorem canonical_fetchFuel {cell : Nat} {g : Agent} {got : FMap Nat} {f : Nat} {s : State} {va : Word} {n : Nat}
    (h : MemoryCanonical s) :
    MemoryCanonical (fetchFuel cell g got f s va n).2 := by
  induction f generalizing s va n with
  | zero => exact h
  | succ f ih =>
    unfold fetchFuel
    split
    · exact h
    · extract_lets k go
      have hgo : ∀ (v : Nat) (s : State) (k : Nat), MemoryCanonical s → MemoryCanonical (go v s k).2 := fun _ _ _ h1 => ih h1
      clear_value go
      split
      · exact hgo _ _ _ h
      · exact hgo _ _ _ h
      · exact hgo _ _ _ h
      · split
        next e => exact hgo _ _ _ (canonical_engineRead (canonical_snd e (canonical_translate h)))
        next e => exact hgo _ _ _ (canonical_snd e (canonical_translate h))
      · exact hgo _ _ _ h

theorem canonical_fetchBytes {s : State} {cell : Nat} {g : Agent} {got : FMap Nat} {va : Word} {n : Nat}
    (h : MemoryCanonical s) : MemoryCanonical (fetchBytes s cell g got va n).2 := canonical_fetchFuel h

theorem canonical_storeBytes {s : State} {cell : Nat} {g : Agent} {va : Word} {n v : Nat} (h : MemoryCanonical s) :
    MemoryCanonical (storeBytes s cell g va n v).2 := by
  unfold storeBytes
  split
  · exact canonical_writePagesFuel h
  · exact h

theorem canonical_atScope {s : State} {cell : Nat} {w : CmdWord} (h : MemoryCanonical s) :
    MemoryCanonical (atScope s cell w) := canonical_ite (canonical_flushDie h _) h

theorem canonical_finishCopy {s : State} {cell : Nat} {r : CopyRun} {code info : Nat} {bar : Bool}
    (h : MemoryCanonical s) : MemoryCanonical (finishCopy s cell r code info bar) := by
  unfold finishCopy
  extract_lets _ t t1 _ _
  have ht : MemoryCanonical t := canonical_atScope h
  have ht1 : MemoryCanonical t1 := canonical_seqDone (canonical_setCopy ht)
  clear_value t t1
  exact canonical_ite (canonical_dropCopy ht1) ht1

/-! ### Machine/Transfers.lean -/

theorem canonical_withBytes {s : State} {cell : Nat} {g : Agent} {got : FMap Nat} {va : Word} {n : Nat}
    {f : Nat → State → Planned × State} (h : MemoryCanonical s)
    (hf : ∀ (n : Nat) (t : State), MemoryCanonical t → MemoryCanonical (f n t).2) :
    MemoryCanonical (withBytes s cell g got va n f).2 := by
  unfold withBytes
  split
  next e => exact canonical_snd e (canonical_judgeBytes h)
  next e => exact canonical_snd e (canonical_judgeBytes h)
  next e => exact canonical_snd e (canonical_judgeBytes h)
  next e =>
    extract_lets _ r
    have hr : MemoryCanonical r.2 := canonical_fetchBytes (canonical_snd e (canonical_judgeBytes h))
    clear_value r
    split
    · exact hf _ _ hr
    · exact canonical_snd e (canonical_judgeBytes h)

theorem canonical_peerOutside {s : State} {cell : Nat} {w : CmdWord} {g : Geom} {ag : Agent} (h : MemoryCanonical s) :
    MemoryCanonical (peerOutside s cell w g ag).2 := by
  unfold peerOutside
  split
  · exact h
  · refine canonical_foldl_snd (fun _ _ h1 => ?_) h
    split
    · split
      next e2 => exact canonical_snd e2 (canonical_agentXlate h1)
      next e2 => exact canonical_snd e2 (canonical_agentXlate h1)
      next e2 => exact canonical_snd e2 (canonical_agentXlate h1)
    · exact h1

theorem canonical_planGeom {s : State} {cell : Nat} {r : CopyRun} {ag : Agent} {g : Geom} {sound : Bool}
    (h : MemoryCanonical s) : MemoryCanonical (planGeom s cell r ag g sound).2 := by
  unfold planGeom
  extract_lets _ _ _ _
  split
  · exact h
  · split
    · exact h
    · split
      · exact h
      · split
        · exact h
        · split
          · exact h
          · split
            next e5 => exact canonical_snd e5 (canonical_peerOutside h)
            next e5 => exact canonical_snd e5 (canonical_peerOutside h)
            next e5 =>
              split
              · exact canonical_snd e5 (canonical_peerOutside h)
              · extract_lets _ _
                split <;> exact canonical_snd e5 (canonical_peerOutside h)

theorem canonical_planBox {s : State} {cell : Nat} {r : CopyRun} {g : Agent} {got : FMap Nat} (h : MemoryCanonical s) :
    MemoryCanonical (planBox s cell r g got).2 := by
  unfold planBox
  extract_lets _
  split
  · exact canonical_planGeom h
  · split
    · exact h
    · exact canonical_withBytes h (fun _ _ h1 => canonical_planGeom h1)

theorem canonical_planList {s : State} {cell : Nat} {r : CopyRun} {g : Agent} {got : FMap Nat} (h : MemoryCanonical s) :
    MemoryCanonical (planList s cell r g got).2 := by
  unfold planList
  extract_lets _ _ _ _
  split
  · exact h
  · refine canonical_withBytes h (fun _ _ h1 => ?_)
    extract_lets _
    split
    · exact h1
    · split
      · exact h1
      · split
        · exact h1
        · split
          · exact h1
          · refine canonical_withBytes h1 (fun _ _ h2 => ?_)
            extract_lets _ _ _ _
            split <;> exact h2

theorem canonical_planColl {s : State} {cell : Nat} {r : CopyRun} {g : Agent} {got : FMap Nat} (h : MemoryCanonical s) :
    MemoryCanonical (planColl s cell r g got).2 := by
  unfold planColl
  extract_lets _ _ _
  split
  · exact h
  · split
    · exact h
    · split
      · exact h
      · exact canonical_withBytes h (fun _ _ h1 => h1)

theorem canonical_planOf {s : State} {cell : Nat} {r : CopyRun} {g : Agent} {got : FMap Nat} (h : MemoryCanonical s) :
    MemoryCanonical (planOf s cell r g got).2 := by
  unfold planOf
  extract_lets _
  split
  · exact h
  · split
    · exact canonical_planList h
    · exact canonical_planList h
    · exact canonical_planColl h
    · exact h
    · exact h
    · exact canonical_planBox h

theorem canonical_planWith {s : State} {cell : Nat} {r : CopyRun} {got : FMap Nat} (h : MemoryCanonical s) :
    MemoryCanonical (planWith s cell r got) := by
  unfold planWith
  extract_lets _ _
  split
  next e => exact canonical_finishCopy (canonical_snd e (canonical_planOf h))
  next e => exact canonical_finishCopy (canonical_snd e (canonical_planOf h))
  next e => exact canonical_finishCopy (canonical_snd e (canonical_planOf h))
  next e => exact canonical_snd e (canonical_planOf h)
  next e => exact canonical_update (canonical_snd e (canonical_planOf h))
  next e => exact foldl_canonical (fun _ _ h1 => h1) (canonical_update (canonical_snd e (canonical_planOf h)))
  next e => exact canonical_update (canonical_setCopy (canonical_snd e (canonical_planOf h)))

theorem canonical_planCopy {s : State} {cell : Nat} {r : CopyRun} (h : MemoryCanonical s) :
    MemoryCanonical (planCopy s cell r) := by
  unfold planCopy
  split
  · exact canonical_planWith h
  · split
    · exact h
    · split
      · exact canonical_finishCopy h
      · exact canonical_planWith h

theorem canonical_judgeSegs {s : State} {cell : Nat} {r : CopyRun} {t : Turn} {src dst : Bool} {qs : List Seg}
    (h : MemoryCanonical s) : MemoryCanonical (judgeSegs s cell r t src dst qs).2 := by
  unfold judgeSegs
  extract_lets _ _
  refine canonical_foldl_snd (fun _ _ h1 => ?_) h
  split
  · exact h1
  · extract_lets a
    have ha : MemoryCanonical a.2 := by
      unfold a
      split
      · exact canonical_judgeRun h1
      · exact h1
    clear_value a
    split
    · exact ha
    · exact canonical_foldl_snd (fun _ _ h2 => canonical_judgeRun h2) ha

theorem canonical_reduceAt {s : State} {g : Agent} {r : CopyRun} {va : Word} {n v : Nat} (h : MemoryCanonical s) :
    MemoryCanonical (reduceAt s g r va n v).1 := by
  unfold reduceAt
  split
  next e =>
    extract_lets old _
    have hold : MemoryCanonical old.2 := canonical_homeRead (canonical_snd e (canonical_translate h))
    clear_value old
    exact canonical_homeWrite hold _ _ _ _ _
  next e1 => exact canonical_snd e1 (canonical_translate h)

theorem canonical_reduceSeg {s : State} {cell : Nat} {g : Agent} {r : CopyRun} {q : Seg} {v : Nat}
    (h : MemoryCanonical s) : MemoryCanonical (reduceSeg s cell g r q v).2.1 := by
  unfold reduceSeg
  extract_lets _ _ _ z
  have hz : MemoryCanonical z.1 := canonical_foldl_fst (fun _ _ h1 => canonical_reduceAt h1) h
  clear_value z
  split
  · exact hz
  · exact h

theorem canonical_segBytes {s : State} {cell : Nat} {g : Agent} {r : CopyRun} {got : FMap Nat} {q : Seg}
    {sent : Option Nat} (h : MemoryCanonical s) : MemoryCanonical (segBytes s cell g r got q sent).2 := by
  unfold segBytes
  extract_lets _
  split
  · exact h
  · split
    · exact h
    · exact canonical_fetchBytes h

theorem canonical_moveSegs {s : State} {cell : Nat} {r : CopyRun} {t : Turn} {got : FMap Nat} {sent : Option Nat}
    {qs : List Seg} (h : MemoryCanonical s) : MemoryCanonical (moveSegs s cell r t got sent qs).2.1 := by
  unfold moveSegs
  extract_lets _ _ _ z
  have hz : MemoryCanonical z.1.2.1 := by
    refine foldl_keeps (p := fun q : Moved × Option Nat => MemoryCanonical q.1.2.1) (fun _ _ h1 => ?_) h
    split
    next e =>
      extract_lets v _ t1 _ t2
      have hv : MemoryCanonical v.2 := canonical_segBytes (by rw [e] at h1; exact h1)
      have ht1 : MemoryCanonical t1.2.1 := canonical_reduceSeg hv
      have ht2 : MemoryCanonical t2.2 := canonical_foldl_snd (fun _ _ h2 => canonical_storeBytes h2) hv
      clear_value v t1 t2
      split
      · exact ht1
      · exact ht2
  clear_value z
  exact hz

theorem canonical_sendSegs {s : State} {cell : Nat} {r : CopyRun} {n : Nat} {t : Turn} {got : FMap Nat}
    {qs : List Seg} (h : MemoryCanonical s) : MemoryCanonical (sendSegs s cell r n t got qs).1 := by
  unfold sendSegs
  extract_lets _ z _ _ _
  have hz : MemoryCanonical z.2.1 := by
    unfold z
    split
    · exact h
    · refine foldl_keeps (p := fun q : List Byte × State × CopyRun => MemoryCanonical q.2.1) (fun _ _ h1 => ?_) h
      split
      · extract_lets v _
        have hv : MemoryCanonical v.2 := canonical_segBytes h1
        clear_value v
        split <;> exact hv
  clear_value z
  exact hz

theorem canonical_classifyCopy {s : State} {cell : Nat} {r : CopyRun} (h : MemoryCanonical s) :
    MemoryCanonical (classifyCopy s cell r) := by
  unfold classifyCopy
  split
  · exact h
  · exact foldl_canonical (fun _ _ h1 => canonical_modCell h1 _ (Loc.wf_setFmt _ _ (canonical_cell h1 _))) h

theorem canonical_settleCopy {s : State} {cell : Nat} {r : CopyRun} (h : MemoryCanonical s) :
    MemoryCanonical (settleCopy s cell r) := by
  unfold settleCopy
  extract_lets _
  split
  · split
    · exact canonical_finishCopy h
    · exact canonical_finishCopy (canonical_classifyCopy h)
  · exact canonical_setCopy h

theorem canonical_nextChunk {s : State} {cell : Nat} {r : CopyRun} {n : Nat} (h : MemoryCanonical s) :
    MemoryCanonical (nextChunk s cell r n) := canonical_ite h h

theorem canonical_sendChunk {s : State} {cell : Nat} {r : CopyRun} {n : Nat} {t : Turn} {got : FMap Nat}
    {qs : List Seg} (h : MemoryCanonical s) : MemoryCanonical (sendChunk s cell r n t got qs).2 := by
  unfold sendChunk
  extract_lets _ z _ t1 z1
  have hz : MemoryCanonical z.1 := canonical_sendSegs h
  have ht1 : MemoryCanonical t1 := canonical_setCopy h
  have hz1 : MemoryCanonical z1.2.1 := canonical_moveSegs h
  clear_value z t1 z1
  split
  · exact canonical_nextChunk (canonical_setCopy hz)
  · split
    · exact canonical_nextChunk (foldl_canonical (fun _ _ h1 => h1) ht1)
    · exact canonical_nextChunk (canonical_setCopy hz1)

theorem canonical_slotsArrived {s : State} {cell : Nat} {r : CopyRun} {n : Nat} (h : MemoryCanonical s) :
    MemoryCanonical (slotsArrived s cell r n) := by
  unfold slotsArrived
  split
  · exact foldl_canonical (fun _ _ h1 => h1) h
  · exact h

theorem canonical_chunkDone {cell serial n : Nat} {s : State} (h : MemoryCanonical s) :
    MemoryCanonical (chunkDone cell serial n s) := by
  unfold chunkDone
  split
  · exact h
  · exact canonical_settleCopy (canonical_ite h (canonical_slotsArrived h))

theorem canonical_stopChunk {cell serial n : Nat} {v : Judged} {s : State} (h : MemoryCanonical s) :
    MemoryCanonical (stopChunk cell serial n v s) := by
  unfold stopChunk
  split
  · exact h
  · split
    · exact h
    · exact h
    · exact canonical_nextChunk (canonical_setCopy h)
    · exact canonical_settleCopy h

theorem canonical_runChunk {s : State} {cell : Nat} {r : CopyRun} {n : Nat} (h : MemoryCanonical s) :
    MemoryCanonical (runChunk s cell r n) := by
  unfold runChunk
  extract_lets _ _ _ _ _ _
  split
  · exact h
  · exact canonical_portWork (canonical_setCopy h) (fun _ h1 => canonical_judgeSegs h1)
      (fun _ _ h1 => canonical_stopChunk h1) (fun _ _ h1 => canonical_sendChunk h1) (fun _ h1 => canonical_chunkDone h1)

theorem canonical_runTclass {s : State} {cell : Nat} {r : CopyRun} {i : Nat} (h : MemoryCanonical s) :
    MemoryCanonical (runTclass s cell r i) := by
  unfold runTclass
  extract_lets _ _ _
  refine canonical_portWork h (fun _ h1 => h1) (fun _ _ h1 => ?_)
    (fun _ _ h1 => canonical_modCell h1 _ (Loc.wf_setFmt _ _ (canonical_cell h1 _)))
    (fun _ h1 => canonical_settleCopy (canonical_nextChunk h1))
  split
  · exact canonical_settleCopy h1
  · exact h1

theorem canonical_runPubc {s : State} {cell : Nat} {r : CopyRun} (h : MemoryCanonical s) :
    MemoryCanonical (runPubc s cell r) := by
  unfold runPubc
  extract_lets _ _ _
  split
  · exact h
  · split
    · exact canonical_finishCopy (canonical_modCell h _ (canonical_cell h _))
    · split
      · exact canonical_finishCopy h
      · exact canonical_finishCopy (canonical_modCell (canonical_atScope h) _
          (wf_flipPair (canonical_cell (canonical_atScope h) _)))

theorem canonical_execCopyChunk {cell serial chunk : Nat} {s : State} (h : MemoryCanonical s) :
    NextCanonical (execCopyChunk cell serial chunk s) := by
  unfold execCopyChunk
  split
  · exact nextCanonical_next h
  · refine nextCanonical_next (canonical_whenRunning h ?_)
    split
    · exact canonical_planCopy h
    · split
      · exact h
      · exact canonical_ite (canonical_runTclass h) (canonical_runChunk h)
    · exact canonical_ite (canonical_runPubc h) h
    · exact h

theorem canonical_handOver {w : CmdWord} {s : State} (h : MemoryCanonical s) : NextCanonical (handOver w s) := by
  unfold handOver
  extract_lets _ _ _
  split
  · exact nextCanonical_next h
  · split
    · exact nextCanonical_next h
    · split
      · exact nextCanonical_next h
      · extract_lets _ _ t2 t3
        have ht2 : MemoryCanonical t2 :=
          canonical_modCell (canonical_update (canonical_update h)) _ (canonical_cell h _)
        have ht3 : MemoryCanonical t3 := canonical_ite ht2 ht2
        clear_value t2 t3
        exact nextCanonical_next (canonical_planCopy (canonical_ite (canonical_atScope ht3) ht3))

theorem canonical_execRingReserve {cell serial : Nat} {s : State} (h : MemoryCanonical s) :
    NextCanonical (execRingReserve cell serial s) := by
  unfold execRingReserve
  extract_lets _ _
  split
  · exact nextCanonical_next h
  · extract_lets _ _ _ _ _ _ t _ _ t1
    have ht : MemoryCanonical t := canonical_modCell h _ (canonical_cell h _)
    have ht1 : MemoryCanonical t1 := canonical_update (canonical_setCopy ht)
    clear_value t t1
    exact nextCanonical_next (canonical_whenRunning h (canonical_ite h
      (canonical_ite h (foldl_canonical (fun _ _ h2 => h2) ht1))))

theorem wf_watermark {q n : Nat} {c : Cell} (h : c.mem.wf = true) :
    (watermark q n c).mem.wf = true := by
  induction n generalizing c with
  | zero => exact h
  | succ n ih =>
    unfold watermark
    extract_lets x r slot c1
    split
    · exact ih h
    · exact h

theorem wf_land {c : Cell} {rr : RingRun} {m : Nat} {scale : Bool} (h : c.mem.wf = true) :
    (land c rr m scale).mem.wf = true := wf_watermark h

theorem canonical_landStrip {s : State} {cell : Nat} {r : CopyRun} {rr : RingRun} {m : Nat} {ev : Instr}
    (h : MemoryCanonical s) : MemoryCanonical (landStrip s cell r rr m ev) := by
  unfold landStrip
  extract_lets _ _ _ _ _ _
  split
  · exact h
  · refine canonical_portWork h (fun s1 h1 => ?_) (fun _ s1 h1 => ?_) (fun _ s1 h1 => ?_) (fun s1 h1 => ?_)
    · split
      · exact h1
      · split
        · exact h1
        · exact canonical_judgeBytes h1
    · split
      · exact h1
      · exact h1
      · exact h1
      · exact canonical_settleCopy h1
    · extract_lets v
      have hv : MemoryCanonical v.2 := by
        unfold v
        split
        · exact h1
        · exact canonical_fetchBytes h1
      clear_value v
      exact hv
    · extract_lets t _
      have ht : MemoryCanonical t := canonical_modCell h1 _ (wf_land (canonical_cell h1 _))
      clear_value t
      exact canonical_settleCopy ht

theorem canonical_execRingLanding {cell serial n : Nat} {scale : Bool} {s : State} (h : MemoryCanonical s) :
    NextCanonical (execRingLanding cell serial n scale s) := by
  unfold execRingLanding
  extract_lets _
  split
  · exact nextCanonical_next h
  · split
    · exact nextCanonical_next h
    · refine nextCanonical_next (canonical_whenRunning h ?_)
      split
      · exact h
      · split
        · exact canonical_landStrip h
        · extract_lets t
          have ht : MemoryCanonical t := canonical_update (canonical_modCell h _ (wf_land (canonical_cell h _)))
          clear_value t
          exact canonical_settleCopy ht

theorem canonical_execReducePieceApply {cell serial chunk piece : Nat} {s : State} (h : MemoryCanonical s) :
    NextCanonical (execReducePieceApply cell serial chunk piece s) := by
  unfold execReducePieceApply
  extract_lets _
  split
  · exact nextCanonical_next h
  · split
    · exact nextCanonical_next h
    · extract_lets _ _ _
      refine nextCanonical_next (canonical_whenRunning h ?_)
      split
      · exact h
      · refine canonical_portWork h (fun _ h1 => canonical_judgeSegs h1) (fun _ s1 h1 => ?_) (fun _ s1 h1 => ?_)
          (fun _ h1 => canonical_settleCopy h1)
        · split
          · exact h1
          · exact h1
          · exact h1
          · exact canonical_settleCopy h1
        · exact canonical_setCopy (canonical_moveSegs h1)

theorem canonical_oweResult {s : State} {c : Coll} (h : MemoryCanonical s) : MemoryCanonical (oweResult s c) := by
  unfold oweResult
  split
  · exact h
  · split
    · exact canonical_setCopy h
    · exact h

theorem canonical_execCollArrival {cell serial : Nat} {s : State} (h : MemoryCanonical s) :
    NextCanonical (execCollArrival cell serial s) := by
  unfold execCollArrival
  split
  · exact nextCanonical_next h
  · extract_lets _ _ _ f1 c
    have hf1 : ∀ (s : State) (c : Coll), MemoryCanonical s → MemoryCanonical (f1 s c) :=
      fun _ _ h1 => canonical_ite (canonical_update (canonical_oweResult h1)) h1
    clear_value f1
    split
    · exact nextCanonical_next h
    · split
      · split
        · exact nextCanonical_next (canonical_finishCopy h)
        · exact nextCanonical_next (hf1 _ _ (canonical_update h))
      · split
        · exact nextCanonical_next h
        · split
          · exact nextCanonical_next (canonical_finishCopy h)
          · split
            · exact nextCanonical_next (canonical_finishCopy h)
            · exact nextCanonical_next (hf1 _ _ (canonical_update h))

theorem canonical_writeElem {s : State} {g : Agent} {va : Word} {v : Nat} (h : MemoryCanonical s) :
    MemoryCanonical (writeElem s g va v) := by
  unfold writeElem
  split
  next e =>
    have ht := canonical_snd e (canonical_translate h)
    exact canonical_homeWrite (canonical_dropReplica (canonical_countSlice ht) _ _) _ _ _ _ _
  next e => exact canonical_snd e (canonical_translate h)

theorem canonical_writeResult {cell : Nat} {g : Agent} {l : List (Word × Nat)} {k : Nat} {s : State}
    (h : MemoryCanonical s) :
    MemoryCanonical (writeResult cell g l k s).2.2 := by
  induction l generalizing k s with
  | nil => exact h
  | cons e es ih =>
    unfold writeResult
    split
    next e => exact ih (canonical_writeElem (canonical_snd e (canonical_judgeBytes h)))
    next e => exact canonical_snd e (canonical_judgeBytes h)

theorem canonical_closeColl {s : State} {c : Coll} {code : Nat} (h : MemoryCanonical s) :
    MemoryCanonical (closeColl s c code) := by
  unfold closeColl
  extract_lets _
  refine foldl_canonical (fun _ _ h1 => ?_) h
  split
  · exact canonical_finishCopy h1
  · exact h1

theorem canonical_pushOnce {s : State} {ev : Instr} (h : MemoryCanonical s) : MemoryCanonical (pushOnce s ev) :=
  canonical_ite h h

theorem canonical_runColl {ev : Instr} {s : State} {c : Coll} (h : MemoryCanonical s) :
    MemoryCanonical (runColl ev s c) := by
  unfold runColl
  split
  · exact h
  · extract_lets cell src g stop owe es
    have hstop : ∀ (v : Judged) (s : State), MemoryCanonical s → MemoryCanonical (stop v s) := by
      intro v s h1
      unfold stop
      split
      · exact canonical_pushOnce h1
      · exact canonical_closeColl h1
      · exact h1
    clear_value stop
    split
    · exact canonical_pushOnce h
    · split
      · split
        · exact canonical_pushOnce h
        · split
          next e => exact canonical_closeColl (canonical_snd_snd e (canonical_writeResult h))
          next e => exact hstop _ _ (canonical_update (canonical_snd_snd e (canonical_writeResult h)))
      · refine canonical_portWork h (fun s1 h1 => ?_) hstop (fun _ _ h1 => h1) (fun s1 h1 => ?_)
        · split
          · exact h1
          · exact canonical_judgeRun h1
        · split
          · exact canonical_ite (canonical_closeColl h1) (canonical_pushOnce h1)
          · exact h1

theorem canonical_peerSettle {s : State} {cell : Nat} {r : CopyRun} {chunk : Nat} (h : MemoryCanonical s) :
    MemoryCanonical (peerSettle s cell r chunk) := canonical_settleCopy h

theorem canonical_execPeerAckReceive {cell serial chunk : Nat} {status : Word} {bytes : List Byte} {s : State}
    (h : MemoryCanonical s) : NextCanonical (execPeerAckReceive cell serial chunk status bytes s) := by
  unfold execPeerAckReceive
  split
  · exact nextCanonical_next h
  · extract_lets _ _ _ _
    split
    · exact nextCanonical_next h
    · split
      · exact nextCanonical_next (canonical_peerSettle h)
      · split
        · exact nextCanonical_next (canonical_peerSettle h)
        · refine nextCanonical_next ?_
          split
          · exact h
          · refine canonical_portWork h (fun _ h1 => canonical_judgeSegs h1) (fun _ s1 h1 => ?_) (fun _ s1 h1 => ?_)
              (fun _ h1 => canonical_peerSettle (canonical_slotsArrived h1))
            · split
              · exact h1
              · exact h1
              · exact h1
              · exact canonical_peerSettle h1
            · exact canonical_setCopy (canonical_moveSegs h1)

theorem canonical_execPeerRetransmitTimeout {cell serial chunk : Nat} {s : State} (h : MemoryCanonical s) :
    NextCanonical (execPeerRetransmitTimeout cell serial chunk s) := by
  unfold execPeerRetransmitTimeout
  split
  · exact nextCanonical_next h
  · extract_lets _ _
    split
    · exact nextCanonical_next h
    · split
      · exact nextCanonical_next (canonical_setCopy h)
      · exact nextCanonical_next (canonical_settleCopy h)

theorem canonical_peerPages {g : Agent} {wr red : Bool} {f : Nat} {s : State} {va : Word} {n : Nat} (h : MemoryCanonical s) :
    MemoryCanonical (peerPages g wr red f s va n).2 := by
  induction f generalizing s va n with
  | zero => exact h
  | succ f ih =>
    unfold peerPages
    split
    · exact h
    · split
      · exact h
      · extract_lets k
        split
        · exact h
        · split
          next e =>
            have ht := canonical_snd e (canonical_portXlate h)
            split
            · exact ht
            · split
              · exact ht
              · split
                · exact ht
                · exact ih ht
          next e => exact canonical_snd e (canonical_portXlate h)
          next e => exact canonical_snd e (canonical_portXlate h)

theorem canonical_peerApply {s : State} {g : Agent} {va : Word} {red : Nat} {bytes : List Byte}
    (h : MemoryCanonical s) : MemoryCanonical (peerApply s g va red bytes).1 := by
  unfold peerApply
  split
  · exact canonical_flushDie (canonical_writePagesFuel h) _
  · extract_lets _ _
    refine canonical_foldl_fst (fun _ _ h1 => ?_) h
    extract_lets _
    split
    next e1 =>
      extract_lets old _
      have hold : MemoryCanonical old.2 := canonical_homeRead (canonical_snd e1 (canonical_translate h1))
      clear_value old
      exact canonical_homeWrite hold _ _ _ _ _
    next e2 => exact canonical_snd e2 (canonical_translate h1)

theorem canonical_execPeerChunkReceive {peer srcCell serial chunk : Nat} {addr : BitVec 128} {udp : BitVec 16}
    {rpart : Nat} {va : Word} {red : Nat} {bytes : List Byte} {s : State} (h : MemoryCanonical s) :
    NextCanonical (execPeerChunkReceive peer srcCell serial chunk addr udp rpart va red bytes s) := by
  unfold execPeerChunkReceive
  extract_lets _ f _ _
  have hf : ∀ (s : State) (code : Nat) (f_1 : BitVec 5) (bs : List Byte), MemoryCanonical s → MemoryCanonical
      (f s code f_1 bs) :=
    fun _ _ _ _ h1 => h1
  clear_value f
  split
  · exact nextCanonical_next (hf _ _ _ _ h)
  · extract_lets _
    split
    · exact nextCanonical_next (hf _ _ _ _ h)
    · split
      · exact nextCanonical_next (hf _ _ _ _ h)
      · split
        · exact nextCanonical_next h
        · refine nextCanonical_next ?_
          split
          next e4 =>
            split
            · extract_lets z _
              have hz : MemoryCanonical z.1 := canonical_peerApply (canonical_snd e4 (canonical_peerPages h))
              clear_value z
              exact hf _ _ _ _ (canonical_update hz)
            · split
              next e6 =>
                exact hf _ _ _ _ (canonical_snd e6 (canonical_readVirt (canonical_snd e4 (canonical_peerPages h))))
              next e7 =>
                exact hf _ _ _ _ (canonical_snd e7 (canonical_readVirt (canonical_snd e4 (canonical_peerPages h))))
          next e4 => exact hf _ _ _ _ (canonical_snd e4 (canonical_peerPages h))
          next e4 => exact canonical_update (canonical_snd e4 (canonical_peerPages h))
          next e4 => exact canonical_snd e4 (canonical_peerPages h)

/-! ### Machine/Sequencers.lean -/

theorem canonical_placeWord {s : State} {core : Nat} {cp : Bool} {q : Seq} {w : CmdWord} (h : MemoryCanonical s) :
    MemoryCanonical (placeWord s core cp q w) := by
  unfold placeWord
  extract_lets x queue on w
  split
  · exact h
  · cases tokenTarget s (core / 4) w with
    | none => exact canonical_ite h (canonical_appendCmd (canonical_oweToken h))
    | ok sid reg => exact canonical_ite h (canonical_appendCmd (canonical_oweToken h))
    | owed => exact h
    | bound reg => exact h
    | gone tw => exact h

theorem canonical_fetchedWord {s : State} {core : Nat} {cp : Bool} {q : Seq} {w : CmdWord} (h : MemoryCanonical s) :
    MemoryCanonical (fetchedWord s core cp q w) :=
  canonical_ite (canonical_ite h h) (canonical_placeWord h)

theorem canonical_fetchNext {s : State} {core : Nat} {cp : Bool} {q : Seq} (h : MemoryCanonical s) :
    MemoryCanonical (fetchNext s core cp q) := by
  unfold fetchNext
  extract_lets _ _ _ _ _
  split
  next e => exact canonical_update (canonical_snd e (canonical_judgeBytes h))
  next e => exact canonical_snd e (canonical_judgeBytes h)
  next e => exact canonical_update (canonical_update (canonical_snd e (canonical_judgeBytes h)))
  next e =>
    extract_lets r _
    have hr : MemoryCanonical r.2 := canonical_fetchBytes (canonical_snd e (canonical_judgeBytes h))
    clear_value r
    exact canonical_fetchedWord hr

theorem canonical_execSequencerFetch {cell core : Nat} {copyProg : Bool} {s : State} (h : MemoryCanonical s) :
    NextCanonical (execSequencerFetch cell core copyProg s) := by
  unfold execSequencerFetch
  extract_lets _ _
  split
  · exact nextCanonical_next h
  · extract_lets _
    refine nextCanonical_next (canonical_whenRunning h ?_)
    split
    · exact h
    · split
      · exact h
      · split
        · exact canonical_ite h h
        · exact canonical_fetchNext h

theorem canonical_withSeq {w : CmdWord} {s : State} {f : Nat → Bool → Seq → State → State} (h : MemoryCanonical s)
    (hf : ∀ (n : Nat) (b : Bool) (q : Seq) (t : State), MemoryCanonical t → MemoryCanonical (f n b q t)) :
    NextCanonical (withSeq w s f) := by
  unfold withSeq
  extract_lets _ _
  split
  · split
    · exact nextCanonical_next h
    · split
      · exact nextCanonical_next h
      · exact nextCanonical_next (hf _ _ _ _ h)
  · exact nextCanonical_next h

theorem canonical_seqJmp {w : CmdWord} {core : Nat} {cp : Bool} {q : Seq} {s : State} (h : MemoryCanonical s) :
    MemoryCanonical (seqJmp w core cp q s) := canonical_ite h h

theorem canonical_seqLoop {w : CmdWord} {core : Nat} {cp : Bool} {q : Seq} {s : State} (h : MemoryCanonical s) :
    MemoryCanonical (seqLoop w core cp q s) := by
  unfold seqLoop
  extract_lets _ _ _ _ _
  exact canonical_ite h (canonical_ite h h)

theorem canonical_seqWaitOwn {w : CmdWord} {core : Nat} {cp : Bool} {q : Seq} {s : State} (h : MemoryCanonical s) :
    MemoryCanonical (seqWaitOwn w core cp q s) := canonical_ite h (canonical_ite h h)

theorem canonical_seqWaitSig {w : CmdWord} {core : Nat} {cp : Bool} {q : Seq} {s : State} (h : MemoryCanonical s) :
    MemoryCanonical (seqWaitSig w core cp q s) := canonical_ite h (canonical_ite h h)

theorem canonical_seqSig {w : CmdWord} {core : Nat} {cp : Bool} {q : Seq} {s : State} (h : MemoryCanonical s) :
    MemoryCanonical (seqSig w core cp q s) := canonical_ite h (canonical_ite h h)

theorem canonical_seqEnd {w : CmdWord} {core : Nat} {cp : Bool} {q : Seq} {s : State} (h : MemoryCanonical s) :
    MemoryCanonical (seqEnd w core cp q s) := canonical_ite h (canonical_ite h h)

/-! ### Machine/Vector.lean -/

theorem canonical_vecEnter {i : Instr} {s : State} {sid : Nat} {pc : Word} {forked : Bool} (h : MemoryCanonical s) :
    OnOk (fun r => MemoryCanonical r.1) (vecEnter i s sid pc forked) := by
  unfold vecEnter
  extract_lets _ _
  refine onOk_after fun _ => ?_
  split
  · refine onOk_after fun _ => ?_
    extract_lets _
    iterate 6 refine onOk_after fun _ => ?_
    exact onOk_ok h

theorem canonical_vecIssue {i : Instr} {s : State} (h : MemoryCanonical s) : OnOk MemoryCanonical (vecIssue i s) := by
  unfold vecIssue
  extract_lets _ _
  refine onOk_after fun _ => onOk_bind (canonical_vecEnter h) (fun _ h1 => ?_)
  split
  · exact onOk_ok h1

theorem canonical_vecCapture {i : Instr} {l : Loop} {s : State} (h : MemoryCanonical s) :
    OnOk MemoryCanonical (vecCapture i l s) := by
  unfold vecCapture
  extract_lets _
  refine onOk_after fun _ => ?_
  split
  · exact onOk_after fun _ => onOk_after fun _ => onOk_ok h

theorem canonical_vecInstr {i : Instr} {s : State} (h : MemoryCanonical s) : NextCanonical (vecInstr i s) := by
  unfold vecInstr
  refine nextCanonical_finish h ?_
  split
  · exact canonical_vecCapture h
  · exact canonical_vecIssue h

theorem canonical_execVloop {va : BitVec 5} {s : State} (h : MemoryCanonical s) : NextCanonical (execVloop va s) := by
  unfold execVloop
  refine nextCanonical_finish h ?_
  extract_lets _
  iterate 3 refine onOk_after fun _ => ?_
  exact onOk_ok h

theorem canonical_execVend {s : State} (h : MemoryCanonical s) : NextCanonical (execVend s) := by
  unfold execVend
  refine nextCanonical_finish h ?_
  extract_lets _
  split
  · exact onOk_error
  · refine onOk_after fun _ => ?_
    split <;> exact onOk_ok h

theorem canonical_replayAppend {s : State} {sid : Nat} {r : Replay} {it : VItem} {f : VForm} (h : MemoryCanonical s) :
    MemoryCanonical (replayAppend s sid r it f) := by
  unfold replayAppend
  extract_lets _ _ _
  exact canonical_ite h (canonical_ite h h)

theorem canonical_execLoopBufferReplay {sid : Nat} {s : State} (h : MemoryCanonical s) :
    NextCanonical (execLoopBufferReplay sid s) := by
  unfold execLoopBufferReplay
  split
  · exact nextCanonical_next h
  · refine nextCanonical_next (canonical_whenRunning h ?_)
    split
    · exact h
    · split
      · exact h
      · exact canonical_replayAppend h

theorem canonical_sendUnits {s : State} {core : Nat} {e : VEntry} {data : Nat} {last : Option VUnit} {us : List VUnit}
    (h : MemoryCanonical s) : MemoryCanonical (sendUnits s core e data last us) :=
  foldl_canonical (fun _ _ h1 => canonical_startAccess h1) h

theorem canonical_sendFailing {s : State} {core : Nat} {e : VEntry} {f : Option (VUnit × Halt)}
    (h : MemoryCanonical s) : MemoryCanonical (sendFailing s core e f) := by
  unfold sendFailing
  split <;> exact h

theorem canonical_startUnits {s : State} {core : Nat} {e : VEntry} {f : Option (VUnit × Halt)} {poison : Bool}
    (h : MemoryCanonical s) : MemoryCanonical (startUnits s core e f poison) := by
  unfold startUnits
  extract_lets _ _ _ _ _ _ _ t t1
  have ht : MemoryCanonical t := canonical_sendFailing (canonical_sendUnits h)
  have ht1 : MemoryCanonical t1 := canonical_ite ht ht
  clear_value t t1
  exact canonical_ite (canonical_vecVerdict ht1) ht1

theorem canonical_startFault {s : State} {core : Nat} {e : VEntry} {cause detail : Nat} {tval : Word} {ev : Instr}
    (h : MemoryCanonical s) : MemoryCanonical (startFault s core e cause detail tval ev) := by
  unfold startFault
  extract_lets _ _
  split
  · exact canonical_endVector h
  · exact canonical_ite h (canonical_trapAccess h)

theorem canonical_startMemory {s : State} {core : Nat} {e : VEntry} {poison : Bool} {ev : Instr}
    (h : MemoryCanonical s) : MemoryCanonical (startMemory s core e poison ev) := by
  unfold startMemory
  extract_lets _ _
  split
  · split
    · exact canonical_ite (canonical_startFault h) (canonical_startUnits h)
    · exact canonical_startUnits h
  · exact canonical_startFault h
  · exact h

theorem canonical_startEntry {s : State} {core : Nat} {e : VEntry} {ev : Instr} (h : MemoryCanonical s) :
    MemoryCanonical (startEntry s core e ev) := by
  unfold startEntry
  split
  · exact h
  · exact canonical_ite (canonical_startMemory h) h

theorem canonical_execVectorStart {cell t : Nat} {s : State} (h : MemoryCanonical s) :
    NextCanonical (execVectorStart cell t s) := by
  unfold execVectorStart
  extract_lets _ _
  refine nextCanonical_next (canonical_whenRunning h ?_)
  split
  · exact canonical_startEntry h
  · exact canonical_ite h h

theorem canonical_completeRun {s : State} {core : Nat} {r : VRun} (h : MemoryCanonical s) :
    MemoryCanonical (completeRun s core r) := by
  unfold completeRun
  extract_lets t _ _
  have ht : MemoryCanonical t := canonical_vecVerdict h
  clear_value t
  exact canonical_ite ht ht

theorem canonical_execVectorComplete {cell core n : Nat} {s : State} (h : MemoryCanonical s) :
    NextCanonical (execVectorComplete cell core n s) := by
  unfold execVectorComplete
  extract_lets _
  split
  · exact nextCanonical_next (canonical_ite h (canonical_whenRunning h (canonical_completeRun h)))
  · exact nextCanonical_next h

theorem canonical_programWord {s : State} {core : Nat} {q : SeqV} {w : BitVec 32} {ev : Instr} (h : MemoryCanonical s) :
    MemoryCanonical (programWord s core q w ev) := by
  unfold programWord
  extract_lets on
  have hon : MemoryCanonical on := h
  clear_value on
  split
  · exact canonical_ite h (canonical_endVector hon)
  · split
    · exact canonical_endVector hon
    · split
      · exact canonical_endVector hon
      · exact canonical_endVector hon
      · exact canonical_endVector hon
      · split
        next e =>
          extract_lets t1
          have ht1 : MemoryCanonical t1 := canonical_count (canonical_vecEnter hon _ e) _ _ _
          clear_value t1
          exact canonical_ite ht1 ht1
        · exact canonical_endVector hon
        · exact h

theorem canonical_goOnEnding {s : State} {core : Nat} {q : SeqV} (h : MemoryCanonical s) :
    MemoryCanonical (goOnEnding s core q) := by
  unfold goOnEnding
  split
  · exact canonical_endVector h
  · exact h

theorem canonical_programIssue {s : State} {core : Nat} {q : SeqV} {ev : Instr} (h : MemoryCanonical s) :
    MemoryCanonical (programIssue s core q ev) := by
  unfold programIssue
  extract_lets _ _
  split
  · exact h
  · split
    · exact canonical_goOnEnding h
    · split
      · exact h
      · split
        · exact h
        · split
          next e4 => exact canonical_snd e4 (canonical_readVirt h)
          next e4 => exact canonical_endVector (canonical_update (canonical_snd e4 (canonical_readVirt h)))
          · exact canonical_endVector h
          next e4 => exact canonical_programWord (canonical_snd e4 (canonical_readVirt h))

theorem canonical_execForkedVectorIssue {cell core : Nat} {s : State} (h : MemoryCanonical s) :
    NextCanonical (execForkedVectorIssue cell core s) := by
  unfold execForkedVectorIssue
  extract_lets _ _
  split
  · exact nextCanonical_next h
  · exact nextCanonical_next (canonical_whenRunning h (canonical_programIssue h))

/-! ### Machine/World.lean -/

theorem canonical_execLinkDown {s : State} (h : MemoryCanonical s) : NextCanonical (execLinkDown s) := by
  unfold execLinkDown
  extract_lets _
  split <;> exact nextCanonical_next h

theorem canonical_execLinkUp {width : Nat} {s : State} (h : MemoryCanonical s) : NextCanonical (execLinkUp width s) := by
  unfold execLinkUp
  split <;> exact nextCanonical_next h

theorem canonical_execFlitReplay {s : State} (h : MemoryCanonical s) : NextCanonical (execFlitReplay s) := by
  unfold execFlitReplay
  extract_lets _
  split <;> exact nextCanonical_next h

theorem canonical_withError {s : State} {site : ErrSite} (h : MemoryCanonical s) :
    MemoryCanonical (withError s site) := by
  unfold withError
  split
  · exact canonical_ite h h
  · exact canonical_ite h h
  · exact canonical_ite h h
  · exact canonical_modCell h _ (canonical_cell h _)
  · exact canonical_modCell h _ (canonical_cell h _)
  · exact canonical_ite h h

theorem canonical_clearDie {s : State} {d : Nat} (h : MemoryCanonical s) :
    MemoryCanonical (clearDie s d) := by
  obtain ⟨hp, hc, hm⟩ := h
  exact ⟨hp, fun q hq => hc q (List.mem_filter.mp hq).1, hm⟩

theorem canonical_restartPairs {s : State} {d : Nat} (h : MemoryCanonical s) :
    MemoryCanonical (restartPairs s d) :=
  foldl_canonical (fun _ _ h1 => canonical_setReg h1 _ _) (canonical_setReg h _ _)

theorem canonical_execDieReset {die : Nat} {s : State} (h : MemoryCanonical s) :
    NextCanonical (execDieReset die s) := by
  unfold execDieReset
  split
  · exact nextCanonical_next h
  · extract_lets t
    have ht : MemoryCanonical t := canonical_restartPairs (canonical_clearDie h)
    clear_value t
    refine nextCanonical_next (foldl_canonical (fun _ _ h1 => ?_) ht)
    split
    · exact foldl_canonical (fun _ _ h2 => canonical_startGaffers h2) h1
    · exact h1

theorem canonical_poweredUp {s : State} (h : MemoryCanonical s) :
    MemoryCanonical (poweredUp s) :=
  ⟨Memory.wf_filter _ h.1, List.forall_mem_nil _, List.forall_mem_nil _⟩

theorem canonical_writeMap {s : State} {map : List (Nat × Word)} (h : MemoryCanonical s) :
    MemoryCanonical (writeMap s map) := foldl_canonical (fun _ _ h1 => canonical_ite (canonical_pkgWrite h1) h1) h

theorem canonical_bootFirmware {s : State} {time : Word} {map : List (Nat × Word)} (h : MemoryCanonical s) :
    MemoryCanonical (bootFirmware s time map) := by
  unfold bootFirmware
  extract_lets t u ps
  have hu : MemoryCanonical u := canonical_writeMap (foldl_canonical (fun _ _ => canonical_restartPairs) (canonical_update h))
  clear_value t u
  exact canonical_ite (canonical_commitAll hu) hu

theorem canonical_bootRecord {s : State} {fromHost : Bool} {svn : BitVec 8} {digest : List Word} (h : MemoryCanonical s) :
    MemoryCanonical (bootRecord s fromHost svn digest) :=
  foldl_canonical (fun _ _ h1 => canonical_setReg h1 _ _) (canonical_setReg h _ _)

theorem canonical_execPowerUpBoot {verified : Bool} {time : Word} {svn : BitVec 8} {digest : List Word}
    {map : List (Nat × Word)} {s : State} (h : MemoryCanonical s) :
    NextCanonical (execPowerUpBoot verified time svn digest map s) := by
  unfold execPowerUpBoot
  split
  · exact nextCanonical_next h
  · extract_lets t
    have ht : MemoryCanonical t := canonical_poweredUp h
    clear_value t
    split
    · exact nextCanonical_next (canonical_bootFirmware (canonical_bootRecord ht))
    · exact nextCanonical_next (canonical_setReg ht _ _)

theorem canonical_execHostImageSupply {verified : Bool} {time : Word} {svn : BitVec 8} {digest : List Word}
    {map : List (Nat × Word)} {s : State} (h : MemoryCanonical s) :
    NextCanonical (execHostImageSupply verified time svn digest map s) := by
  unfold execHostImageSupply
  split
  · exact nextCanonical_next (canonical_bootFirmware (canonical_bootRecord h))
  · exact nextCanonical_next h

/-! ### Machine/Fetch.lean -/

theorem canonical_passTime {s : State} (h : MemoryCanonical s) : MemoryCanonical (passTime s) := by
  unfold passTime
  extract_lets t _ _ t1 t2 _ t3 _
  have ht : MemoryCanonical t := canonical_settleStretches h
  have ht1 : MemoryCanonical t1 := foldl_canonical (fun s1 a1 h1 => canonical_bump h1) ht
  have ht2 : MemoryCanonical t2 := foldl_canonical (fun s1 a1 h1 => canonical_bump h1) ht1
  have ht3 : MemoryCanonical t3 := foldl_canonical (fun s1 a1 h1 => canonical_bump h1) ht2
  clear_value t t1 t2 t3
  exact foldl_canonical (fun s1 a1 h1 => canonical_bump h1) ht3

theorem canonical_rotaTurn {s : State} (h : MemoryCanonical s) : MemoryCanonical (rotaTurn s).2 := by
  unfold rotaTurn
  split <;> exact h

theorem canonical_dueTurn {s : State} (h : MemoryCanonical s) : MemoryCanonical (dueTurn s).2 := by
  unfold dueTurn
  split <;> exact h

theorem canonical_chooseTurn {s : State} (h : MemoryCanonical s) : MemoryCanonical (chooseTurn s).2 := by
  unfold chooseTurn
  split
  · exact h
  · split
    · split
      next e2 => exact canonical_snd e2 (canonical_dueTurn h)
      · exact canonical_rotaTurn h
    · exact canonical_rotaTurn h

theorem canonical_decodeFor {s : State} {sid : Nat} {w : BitVec 32} (h : MemoryCanonical s) :
    MemoryCanonical (decodeFor s sid w).2 := by
  unfold decodeFor
  split
  · exact canonical_trapNow h _ _ _ _
  · split
    · exact h
    · split
      · exact canonical_trapNow h _ _ _ _
      · exact h

theorem canonical_fetchAt {s : State} {sid : Nat} (h : MemoryCanonical s) : MemoryCanonical (fetchAt s sid).2 := by
  unfold fetchAt
  extract_lets _ _
  split
  · exact canonical_trapNow h _ _ _ _
  · split
    · exact canonical_trapNow h _ _ _ _
    · split
      next e2 => exact canonical_trapNow (canonical_snd e2 (canonical_translate h)) _ _ _ _
      next e2 => exact canonical_update (canonical_demandFault (canonical_snd e2 (canonical_translate h)) _ _ _ _ _)
      next e2 =>
        split
        · exact canonical_trapNow (canonical_snd e2 (canonical_translate h)) _ _ _ _
        · extract_lets r
          have hr : MemoryCanonical r.2 :=
            canonical_physRead (canonical_countSlice (canonical_snd e2 (canonical_translate h)))
          clear_value r
          exact canonical_decodeFor hr

theorem canonical_after {s : State} {o : Host.Outcome State Fault Refusal} (h : MemoryCanonical s)
    (ho : NextCanonical o) : MemoryCanonical (after s o) := by
  unfold after
  split
  · exact ho _ rfl
  · exact h

theorem canonical_goOnShoot {s : State} (h : MemoryCanonical s) : MemoryCanonical (goOnShoot s) := by
  unfold goOnShoot
  split
  · exact canonical_after h (nextCanonical_finish h (canonical_endShoot h))
  · exact h

theorem canonical_retiresNow {s : State} {sid : Nat} (h : MemoryCanonical s) :
    OnSome (fun r => MemoryCanonical r.2) (retiresNow s sid) := by
  unfold retiresNow
  extract_lets _
  split
  · exact onSome_none
  · split
    next e1 =>
      split
      · exact onSome_none
      · exact onSome_some (canonical_snd e1 (canonical_fetchAt h))
      · exact onSome_none
    · exact onSome_none

theorem canonical_issueTurn {s : State} {sid : Nat} (h : MemoryCanonical s) :
    MemoryCanonical (issueTurn s sid).2 := by
  unfold issueTurn
  extract_lets t x
  have ht : MemoryCanonical t := h
  clear_value t
  split
  · exact ht
  · split
    · cases e : retiresNow t sid with
      | none => exact ht
      | some r => exact canonical_retiresNow ht r e
    · split
      · exact ht
      · split
        · exact canonical_pair (canonical_count ht _ _ _)
        · split
          · exact canonical_pair (canonical_goOnShoot ht)
          · split
            · exact ht
            · exact ht
            · split
              · exact ht
              · split
                · exact ht
                · exact canonical_fetchAt ht

theorem canonical_runLater {s : State} {l : Later} (h : MemoryCanonical s) : MemoryCanonical (runLater s l) := by
  unfold runLater
  refine canonical_after h ?_
  split
  · exact canonical_execAgePromotion h
  · exact canonical_execRemovalTimeout h
  · exact canonical_execExemptionLapse h
  · exact canonical_execLholdExpiry h
  · exact canonical_execFabricOpEval h
  · exact canonical_execPeerChunkReceive h
  · exact nextCanonical_next (canonical_endTile h)
  · exact canonical_execPeerAckReceive h

theorem canonical_turnInstr {t : Turn} {s : State} (h : MemoryCanonical s) : MemoryCanonical (turnInstr t s).2 := by
  unfold turnInstr
  split
  · exact h
  · exact canonical_runLater h
  · exact canonical_issueTurn h
  · split <;> exact h
  · split <;> exact h
  · split <;> exact h

theorem canonical_nextInstr {s : State} (h : MemoryCanonical s) : MemoryCanonical (nextInstr s).2 := by
  unfold nextInstr
  split
  next e => exact canonical_snd e (canonical_chooseTurn (canonical_passTime h))
  next e =>
    split
    · exact canonical_update (canonical_snd e (canonical_chooseTurn (canonical_passTime h)))
    · exact canonical_turnInstr (canonical_update (canonical_snd e (canonical_chooseTurn (canonical_passTime h))))

/-! ### Machine/Step.lean -/

theorem canonical_execGear {i : BitVec 13} {s : State} (h : MemoryCanonical s) : NextCanonical (execGear i s) :=
  nextCanonical_finish h (onOk_after fun _ => onOk_ok (canonical_update h))

theorem canonical_exec {i : Instr} {s : State} (h : MemoryCanonical s) : NextCanonical (exec i s) := by
  cases i with
  | add | sub | mul | mulh | mulhu | div | divu | rem | remu | and | or | xor | andn | orn | shl | shr | sar | rol |
    min | max | minu | maxu | slt | sltu | seq | sne =>
    exact nextCanonical_finish h (onOk_alu2 h)
  | clz | ctz | popc | sext | zext | bswap | addi | andi | ori | xori | slti | sltui | shli | shri | sari | lea =>
    exact nextCanonical_finish h (onOk_alu1 h)
  | lui | pcrel => exact nextCanonical_finish h (onOk_alu0 h)
  | bEq | bNe | bLt | bGe | bLtu | bGeu => exact nextCanonical_finish h (canonical_branch h)
  | ld | ldS | ldAcq => exact nextCanonical_finish h (canonical_loadRes h)
  | st | stRel => exact nextCanonical_finish h (canonical_storeRes h)
  | lds | sts | ldw | fefill | feempty | feq => exact nextCanonical_finish h (canonical_feRes h)
  | amoAdd | amoAnd | amoOr | amoXor | amoMin | amoMax | amoMinu | amoMaxu | amoSwap | amoFadd =>
    exact nextCanonical_finish h (canonical_amoRes h)
  | cas | lineRd => exact nextCanonical_finish h (canonical_issueMem h)
  | blkRd | blkWr => exact nextCanonical_finish h (canonical_blkRes h)
  | enqM | enqC => exact nextCanonical_finish h (canonical_enqueue h)
  | barWait | barWaitDrop => exact nextCanonical_finish h (canonical_barWait h)
  | csrr | csrw | csrs | csrc => exact nextCanonical_finish h (canonical_csrRes h)
  | j => exact nextCanonical_finish h (onOk_ok (canonical_setSlot h _ _))
  | gear => exact canonical_execGear h
  | trap i => exact (nextCanonical_finish h onOk_error : NextCanonical (execTrap i s))
  | brk i => exact (nextCanonical_finish h onOk_error : NextCanonical (execBrk i s))
  | wfi => exact (nextCanonical_finish h onOk_error : NextCanonical (execWfi s))
  | partQuery => exact nextCanonical_finish h (canonical_partRes (fun _ _ h1 => onOk_ok h1) h)
  | vadd | vsub | vmul | vfma | vfms | vdiv | vsqrt | vrcp | vrsqrt | vsum | vdot | vcvt | vcvtSat | vwiden | vnarrow
    | vnarrowSat | vqnt | vscale | vmin | vmax | vabs | vneg | vmaxr | vminr | vexp2 | vlog2 | vexp | vlog | vtanh |
    vsigm | vcmp | vsel | vand | vor | vxor | vnot | vshl | vshr | vsar | vperm | vbcast | vext | vins | pand | por |
    pxor | pnot | pcnt | pfirst | vld | vst | vlds | vgath | vscat =>
    exact canonical_vecInstr h
  | copy | copyRingAppend | copyRed | copyMc | fill | gath | scat | coll | pubc | tclass => exact canonical_handOver h
  | mma | mmz => exact canonical_withHead h fun _ _ _ => canonical_startProduct
  | accld => exact canonical_withHead h fun _ _ _ => canonical_loadTile
  | accst => exact canonical_withHead h fun _ _ _ => canonical_storeTile
  | accclr => exact canonical_withHead h fun _ _ _ => canonical_clearAcc
  | seqJmp => exact canonical_withSeq h fun _ _ _ _ h1 => canonical_seqJmp h1
  | seqLoop => exact canonical_withSeq h fun _ _ _ _ h1 => canonical_seqLoop h1
  | seqWaitOwn => exact canonical_withSeq h fun _ _ _ _ h1 => canonical_seqWaitOwn h1
  | seqWaitSig => exact canonical_withSeq h fun _ _ _ _ h1 => canonical_seqWaitSig h1
  | seqSig => exact canonical_withSeq h fun _ _ _ _ h1 => canonical_seqSig h1
  | seqEnd => exact canonical_withSeq h fun _ _ _ _ h1 => canonical_seqEnd h1
  | fqdoneWrite => exact canonical_byWriter h (canonical_writeFqdone h)
  | lqtailWrite => exact canonical_byWriter h (canonical_writeLqtail h)
  | bretWrite => exact canonical_byWriter h (canonical_writeBret h)
  | keyDiscard => exact canonical_byWriter h (canonical_writeKey h)
  | asidtbWrite => exact canonical_byWriter h (canonical_writeAsidtb h)
  | casidWrite => exact canonical_byWriter h (canonical_writeCasid h)
  | pctlWrite => exact canonical_byWriter h (canonical_writePctl h)
  | agemonClr => exact canonical_byWriter h (canonical_writeAgemon h)
  | registerWrite => exact canonical_byWriter h (canonical_privWrite h)
  | optableWrite | ceilWrite | prailWrite => exact canonical_byWriter h h
  | matrixUpdate => exact nextCanonical_next (canonical_ite h (canonical_finishProduct h))
  | loadReturn | acknowledgement => exact nextCanonical_next (canonical_bringHome h)
  | poolGrant => exact nextCanonical_next (foldl_canonical (fun _ _ h1 => h1) h)
  | collResultWrite => exact nextCanonical_next (foldl_canonical (fun _ _ h1 => canonical_runColl h1) h)
  | gearEvaluate => exact nextCanonical_next (canonical_gearEval h)
  | uncorrectableError => exact nextCanonical_next (canonical_withError h)
  | memoryWriteAcknowledged | attestationReport | standby => exact nextCanonical_next h
  | jal => exact canonical_execJal h
  | jalr => exact canonical_execJalr h
  | ret => exact canonical_execRet h
  | call => exact canonical_execCall h
  | loop => exact canonical_execLoop h
  | lineCst => exact canonical_execLineCst h
  | fence => exact canonical_execFence h
  | cinv => exact canonical_execCinv h
  | cwb => exact canonical_execCwb h
  | pref => exact canonical_execPref h
  | prefW => exact canonical_execPrefW h
  | send => exact canonical_execSend h
  | sendV => exact canonical_execSendV h
  | sendP => exact canonical_execSendP h
  | take => exact canonical_execTake h
  | start => exact canonical_execStart h
  | reap => exact canonical_execReap h
  | kill => exact canonical_execKill h
  | yield => exact canonical_execYield h
  | retire => exact canonical_execRetire h
  | migrate => exact canonical_execMigrate h
  | lnch => exact canonical_execLnch h
  | fork => exact canonical_execFork h
  | rdv => exact canonical_execRdv h
  | accrd => exact canonical_execAccrd h
  | accwr => exact canonical_execAccwr h
  | barInit => exact canonical_execBarInit h
  | barArr => exact canonical_execBarArr h
  | tdq => exact canonical_execTdq h
  | tdset => exact canonical_execTdset h
  | tdzero => exact canonical_execTdzero h
  | pub => exact canonical_execPub h
  | ophint => exact canonical_execOphint h
  | vloop => exact canonical_execVloop h
  | vend => exact canonical_execVend h
  | eret => exact canonical_execEret h
  | tlbsd => exact canonical_execTlbsd h
  | wheelLoad => exact canonical_execWheelLoad h
  | wheelArm => exact canonical_execWheelArm h
  | wheelSwap => exact canonical_execWheelSwap h
  | partQuiesce => exact canonical_execPartQuiesce h
  | partCommit => exact canonical_execPartCommit h
  | sequencerFetch => exact canonical_execSequencerFetch h
  | forkedVectorIssue => exact canonical_execForkedVectorIssue h
  | vectorStart => exact canonical_execVectorStart h
  | vectorComplete => exact canonical_execVectorComplete h
  | loopBufferReplay => exact canonical_execLoopBufferReplay h
  | deferredTrap => exact canonical_execDeferredTrap h
  | parkResume => exact canonical_execParkResume h
  | refusedRetry => exact canonical_execRefusedRetry h
  | localPairing => exact canonical_execLocalPairing h
  | tokenFill => exact canonical_execTokenFill h
  | commonsQueueEntry => exact canonical_execCommonsQueueEntry h
  | commonsPairing => exact canonical_execCommonsPairing h
  | turnBoundary => exact canonical_execTurnBoundary h
  | remoteAccessArrival => exact canonical_execRemoteAccessArrival h
  | messageArrival => exact canonical_execMessageArrival h
  | messageResponse => exact canonical_execMessageResponse h
  | translationWalk => exact canonical_execTranslationWalk h
  | faultRecordWrite => exact canonical_execFaultRecordWrite h
  | sliceWriteSerialise => exact canonical_execSliceWriteSerialise h
  | sliceReadMiss => exact canonical_execSliceReadMiss h
  | sliceAtomic => exact canonical_execSliceAtomic h
  | remoteWriteForward => exact canonical_execRemoteWriteForward h
  | hostCxlAccess => exact canonical_execHostCxlAccess h
  | lqsizeWrite => exact canonical_execLqsizeWrite h
  | launchRead => exact canonical_execLaunchRead h
  | recordPlace => exact canonical_execRecordPlace h
  | continuationPlace => exact canonical_execContinuationPlace h
  | agePromotion => exact canonical_execAgePromotion h
  | taskEnd => exact canonical_execTaskEnd h
  | killEffect => exact canonical_execKillEffect h
  | puntySpill => exact canonical_execPuntySpill h
  | migrationSend => exact canonical_execMigrationSend h
  | migrationArrival => exact canonical_execMigrationArrival h
  | forwardExpiry => exact canonical_execForwardExpiry h
  | ringReserve => exact canonical_execRingReserve h
  | ringLanding => exact canonical_execRingLanding h
  | copyChunk => exact canonical_execCopyChunk h
  | reducePieceApply => exact canonical_execReducePieceApply h
  | collArrival => exact canonical_execCollArrival h
  | peerChunkReceive => exact canonical_execPeerChunkReceive h
  | peerAckReceive => exact canonical_execPeerAckReceive h
  | peerRetransmitTimeout => exact canonical_execPeerRetransmitTimeout h
  | barrierArrival => exact canonical_execBarrierArrival h
  | barrierRelease => exact canonical_execBarrierRelease h
  | lholdExpiry => exact canonical_execLholdExpiry h
  | hopEnd => exact canonical_execHopEnd h
  | clockStepEnd => exact canonical_execClockStepEnd h
  | powerSample => exact canonical_execPowerSample h
  | removalTimeout => exact canonical_execRemovalTimeout h
  | exemptionLapse => exact canonical_execExemptionLapse h
  | fabricOpEval => exact canonical_execFabricOpEval h
  | droop => exact canonical_execDroop h
  | droopRecovery => exact canonical_execDroopRecovery h
  | linkDown => exact canonical_execLinkDown h
  | linkUp => exact canonical_execLinkUp h
  | dieReset => exact canonical_execDieReset h
  | powerUpBoot => exact canonical_execPowerUpBoot h
  | hostImageSupply => exact canonical_execHostImageSupply h
  | puntyRestore => exact canonical_execPuntyRestore h
  | lineFilledFromMemory => exact canonical_execLineFilledFromMemory h
  | flitReplay => exact canonical_execFlitReplay h

theorem canonical_step {s : State} (h : MemoryCanonical s) :
    NextCanonical (step s) := by
  unfold step
  split
  · split
    next e => exact canonical_exec (canonical_snd e (canonical_nextInstr h))
    next e => exact nextCanonical_next (canonical_snd e (canonical_nextInstr h))
  · exact nextCanonical_fault

/-- Settles O60: the instruction of the turn and everything that precedes it keep the canonical form. -/
theorem stepKeepsMemory : Obligations.StepKeepsMemory := fun _ t h e => canonical_step h t e

end Sys2Proof.Machine
end
section
/-! O52: writes of privileged registers by their offsets, and the discard of a key. -/

namespace Sys2Proof.Machine
open Claims

/-! ### What reads as before -/

theorem sameBytes_of_eq {s t : State} (hp : t.phys = s.phys) (hc : t.cells = s.cells) (hm : t.commons = s.commons) :
    SameBytes s t := by
  unfold SameBytes State.cell State.commonsOf
  rw [hp, hc, hm]
  exact ⟨fun _ => rfl, fun _ _ => rfl, fun _ _ => rfl⟩

theorem sameBytes_writeReg (s : State) (off : Nat) (v : Word) (rw w1c : Nat) : SameBytes s (s.writeReg off v rw w1c) :=
  sameBytes_of_eq rfl rfl rfl

/-! ### A masked write -/

theorem maskedWrite_rw (old v : Word) (rw : Nat) :
    maskedWrite old v rw 0 = v &&& wrap64 rw ||| old &&& ~~~wrap64 rw := by
  unfold maskedWrite
  extract_lets m
  have h0 : wrap64 0 = 0#64 := rfl
  rw [h0, BitVec.and_zero, BitVec.not_zero, BitVec.and_allOnes, BitVec.or_comm]

theorem maskedWrite_all (old v : Word) : maskedWrite old v (fieldMask 63 0) 0 = v := by
  have hm : wrap64 (fieldMask 63 0) = BitVec.allOnes 64 := by decide
  rw [maskedWrite_rw, hm, BitVec.and_allOnes, BitVec.not_allOnes, BitVec.and_zero, BitVec.or_zero]

theorem maskedWrite_none (old v : Word) : maskedWrite old v 0 0 = old := by
  have hm : wrap64 0 = 0#64 := rfl
  rw [maskedWrite_rw, hm, BitVec.and_zero, BitVec.not_zero, BitVec.and_allOnes, BitVec.zero_or]

theorem reg_writeReg_same (s : State) (off : Nat) (v : Word) (rw w1c : Nat) :
    (s.writeReg off v rw w1c).reg off = maskedWrite (s.reg off) v rw w1c := State.reg_setReg_same _ _ _

theorem reg_writeReg_ne (s : State) {off o : Nat} (v : Word) (rw w1c : Nat) (h : o ≠ off) :
    (s.writeReg off v rw w1c).reg o = s.reg o := State.reg_setReg_ne _ _ h

/-! ### The register that an offset names -/

theorem exec_registerWrite {s : State} {b : Writer} (off : Nat) (v : Word) (hr : reaches s b = true) :
    exec (.registerWrite b off v) s = .next (privWrite s b off v) := by
  change byWriter s b (privWrite s b off v) = _
  rw [byWriter, if_pos hr]

theorem privWrite_pkg (s : State) (b : Writer) {o : Nat} (v : Word) (ho : o < 0x10000000) :
    privWrite s b (pkgBase + o) v = pkgWrite s b o v := by
  unfold privWrite
  rw [if_neg (by omega), if_pos (by omega), Nat.add_sub_cancel_left]

theorem privWrite_die (s : State) (b : Writer) {d o : Nat} (v : Word) (hd : d < 4) (ho : o < 0x10000000) :
    privWrite s b (dieBase d + o) v = dieWrite s b d o v := by
  unfold privWrite
  have hlt : dieBase d + o < pkgBase := by
    unfold dieBase pkgBase
    omega
  have hdiv : (dieBase d + o) / 0x10000000 = d := by
    unfold dieBase
    omega
  have hmod : (dieBase d + o) % 0x10000000 = o := by
    unfold dieBase
    omega
  rw [if_pos hlt, hdiv, hmod]

theorem privWrite_beyond (s : State) (b : Writer) {off : Nat} (v : Word) (h : 0x50000000 ≤ off) :
    privWrite s b off v = s := by
  unfold privWrite pkgBase
  rw [if_neg (by omega), if_neg (by omega)]

theorem privWrite_part (s : State) (b : Writer) {p w : Nat} (v : Word) (hp : p < 16) (hw : w < 20) :
    privWrite s b (0x40100000 + 0x100 * p + 8 * w) v = writePart s p w v := by
  have ho : 0x40100000 + 0x100 * p + 8 * w = pkgBase + (0x100000 + 0x100 * p + 8 * w) := by
    unfold pkgBase
    omega
  have hn : (0x100000 + 0x100 * p + 8 * w - 0x100000) / 0x100 = p := by omega
  have hk : (0x100000 + 0x100 * p + 8 * w) % 0x100 / 8 = w := by omega
  rw [ho, privWrite_pkg s b v (by omega)]
  unfold pkgWrite
  rw [if_pos (by simp only [Bool.and_eq_true, decide_eq_true_eq]; omega), hn, hk]

theorem privWrite_ilv (s : State) (b : Writer) {n w : Nat} (v : Word) (hn : n < 16) (hw : w < 4) :
    privWrite s b (0x40110000 + 0x20 * n + 8 * w) v = writeIlv s n w v := by
  have ho : 0x40110000 + 0x20 * n + 8 * w = pkgBase + (0x110000 + 0x20 * n + 8 * w) := by
    unfold pkgBase
    omega
  have hd : (0x110000 + 0x20 * n + 8 * w - 0x110000) / 0x20 = n := by omega
  have hk : (0x110000 + 0x20 * n + 8 * w) % 0x20 / 8 = w := by omega
  rw [ho, privWrite_pkg s b v (by omega)]
  unfold pkgWrite
  rw [if_neg (by simp only [Bool.and_eq_true, decide_eq_true_eq]; omega),
    if_pos (by simp only [Bool.and_eq_true, decide_eq_true_eq]; omega), hd, hk]

theorem dieWrite_perf (s : State) (b : Writer) (d : Nat) {o : Nat} (v : Word) (hlo : 0x20000 ≤ o) (hhi : o < 0x20080) :
    dieWrite s b d o v = writePerf s (dieBase d + o) v := by
  unfold dieWrite
  iterate 5 rw [if_neg (by omega)]
  iterate 2 rw [if_neg (by simp only [Bool.and_eq_true, decide_eq_true_eq]; omega)]
  rw [if_pos (by simp only [Bool.and_eq_true, decide_eq_true_eq]; omega)]

/-! ### Partition entries and interleave descriptors -/

/-- The written word of a partition entry, by its place in the entry (R181). -/
theorem maskedWrite_part (old v : Word) {w : Nat} (hw : w < 20) :
    (w = 0 → maskedWrite old v (partMask w) 0 = v &&& 0x3FFFFFFFFFFFFF03#64 ||| old &&& 0xC0000000000000FC#64) ∧
    (w = 1 → maskedWrite old v (partMask w) 0 = v &&& 0xFFFFFF#64 ||| old &&& ~~~0xFFFFFF#64) ∧
    (w = 2 → maskedWrite old v (partMask w) 0 = v) ∧ (w = 3 → maskedWrite old v (partMask w) 0 = old) ∧
    (4 ≤ w → w % 4 ≠ 3 → maskedWrite old v (partMask w) 0 = v) ∧
    (4 ≤ w → w % 4 = 3 →
      maskedWrite old v (partMask w) 0 = v &&& 0xFFFFFFFFFFFF#64 ||| old &&& ~~~0xFFFFFFFFFFFF#64) := by
  have map (h : 4 ≤ w) : partMask w = if w % 4 = 3 then fieldMask 47 0 else fieldMask 63 0 := by
    unfold partMask
    rw [if_neg (by omega), if_neg (by omega), if_neg (by omega), if_pos (by simp only [Bool.and_eq_true, decide_eq_true_eq]; omega)]
  refine ⟨?_, ?_, ?_, ?_, fun h4 h3 => ?_, fun h4 h3 => ?_⟩
  · rintro rfl
    exact maskedWrite_rw old v _
  · rintro rfl
    exact maskedWrite_rw old v _
  · rintro rfl
    exact maskedWrite_all old v
  · rintro rfl
    exact maskedWrite_none old v
  · rw [map h4, if_neg h3, maskedWrite_all]
  · rw [map h4, if_pos h3, maskedWrite_rw]
    rfl

theorem registerWrite_part {s : State} {b : Writer} {p w : Nat} (v : Word) (hr : reaches s b = true) (hp : p < 16)
    (hw : w < 20) : exec (.registerWrite b (0x40100000 + 0x100 * p + 8 * w) v) s =
      .next (if s.committed p then s else s.writeReg (0x40100000 + 0x100 * p + 8 * w) v (partMask w) 0) := by
  rw [exec_registerWrite _ v hr, privWrite_part s b v hp hw]
  rfl

theorem registerWrite_ilv {s : State} {b : Writer} {n w : Nat} (v : Word) (hr : reaches s b = true) (hn : n < 16)
    (hw : w < 4) : exec (.registerWrite b (0x40110000 + 0x20 * n + 8 * w) v) s =
      .next (if allParts.any (fun p => s.committed p && s.ilv p = n) then s
        else s.writeReg (0x40110000 + 0x20 * n + 8 * w) v (ilvMask w) 0) := by
  rw [exec_registerWrite _ v hr, privWrite_ilv s b v hn hw]
  rfl

/-- Whether a committed entry names a descriptor. -/
theorem any_ilv_iff (s : State) (n : Nat) :
    allParts.any (fun p => s.committed p && s.ilv p = n) = true ↔ ∃ p < 16, s.committed p = true ∧ s.ilv p = n := by
  simp [allParts]

/-! ### Performance registers -/

theorem registerWrite_perfSelect {s : State} {b : Writer} {d n : Nat} (v : Word) (hr : reaches s b = true) (hd : d < 4)
    (hn : n < 8) : exec (.registerWrite b (dieBase d + 0x20000 + 8 * n) v) s =
      .next (s.writeReg (dieBase d + 0x20000 + 8 * n) v 0xFF 0x100) := by
  have hlow : (dieBase d + (0x20000 + 8 * n)) % 0x100 < 0x40 := by
    unfold dieBase
    omega
  rw [Nat.add_assoc, exec_registerWrite _ v hr, privWrite_die s b v hd (by omega),
    dieWrite_perf s b d v (by omega) (by omega), writePerf, if_pos hlow]

theorem registerWrite_perfCount {s : State} {b : Writer} {d n : Nat} (v : Word) (hr : reaches s b = true) (hd : d < 4)
    (hn : n < 8) : exec (.registerWrite b (dieBase d + 0x20040 + 8 * n) v) s =
      .next (s.writeReg (dieBase d + 0x20040 + 8 * n) v (fieldMask 47 0) 0) := by
  have hlow : ¬ (dieBase d + (0x20040 + 8 * n)) % 0x100 < 0x40 := by
    unfold dieBase
    omega
  have hhigh : (dieBase d + (0x20040 + 8 * n)) % 0x100 < 0x80 := by
    unfold dieBase
    omega
  rw [Nat.add_assoc, exec_registerWrite _ v hr, privWrite_die s b v hd (by omega),
    dieWrite_perf s b d v (by omega) (by omega), writePerf, if_neg hlow, if_pos hhigh]

/-- A select register takes the event number. -/
theorem maskedWrite_select (old v : Word) : (maskedWrite old v 0xFF 0x100).toNat % 256 = v.toNat % 256 := by
  have h : (maskedWrite old v 0xFF 0x100).setWidth 8 = v.setWidth 8 := by
    have hm : (wrap64 0xFF).setWidth 8 = BitVec.allOnes 8 := by decide
    have hn : (~~~wrap64 0xFF).setWidth 8 = 0#8 := by decide
    unfold maskedWrite
    rw [BitVec.setWidth_or, BitVec.setWidth_and, BitVec.setWidth_and, BitVec.setWidth_and, hm, hn, BitVec.and_zero,
      BitVec.zero_and, BitVec.zero_or, BitVec.and_allOnes]
  simpa using congrArg BitVec.toNat h

/-- Writing 1 clears OVF; writing 0 keeps it. -/
theorem maskedWrite_overflow (old v : Word) :
    (maskedWrite old v 0xFF 0x100).getLsbD 8 = (old.getLsbD 8 && !v.getLsbD 8) := by
  unfold maskedWrite wrap64
  simp

theorem maskedWrite_count (old v : Word) : (maskedWrite old v (fieldMask 47 0) 0).toNat % 2 ^ 48 = v.toNat % 2 ^ 48 := by
  have h : (maskedWrite old v (fieldMask 47 0) 0).setWidth 48 = v.setWidth 48 := by
    rw [maskedWrite_rw]
    have hm : (wrap64 (fieldMask 47 0)).setWidth 48 = BitVec.allOnes 48 := by decide
    have hn : (~~~wrap64 (fieldMask 47 0)).setWidth 48 = 0#48 := by decide
    rw [BitVec.setWidth_or, BitVec.setWidth_and, BitVec.setWidth_and, hm, hn, BitVec.and_zero, BitVec.or_zero,
      BitVec.and_allOnes]
  simpa using congrArg BitVec.toNat h

/-! ### The discard of a key -/

/-- The writers whose write reaches a key: the host and the partition that owns the slot. -/
theorem writeKey_mine {s : State} {b : Writer} {n : Nat} {v : Word} (hv : v.getLsbD 1 = true)
    (hb : b = .host ∨ b = .part ((s.reg (keyReg n)).toNat / 4 % 16)) : writeKey s b n v = discardKey s n := by
  unfold writeKey
  rcases hb with rfl | rfl
  · simp [hv]
  · simp [hv, bits, Nat.shiftRight_eq_div_pow]

theorem writeKey_other {s : State} {b : Writer} {n : Nat} {v : Word}
    (h : v.getLsbD 1 = false ∨ (b ≠ .host ∧ b ≠ .part ((s.reg (keyReg n)).toNat / 4 % 16))) : writeKey s b n v = s := by
  unfold writeKey
  extract_lets ok
  rcases h with hv | ⟨hh, hp⟩
  · rw [hv, Bool.false_and, if_neg Bool.false_ne_true]
  · cases b with
    | host => exact absurd rfl hh
    | part p =>
      have hne : p ≠ bits (s.reg (keyReg n)) 5 2 := fun e => hp (by rw [e, bits, Nat.shiftRight_eq_div_pow]; rfl)
      simp [ok, hne]

/-- With no forwarded write of a key pending, its discard only forgets. -/
theorem discardKey_eq {s : State} {n : Nat} (hf : ∀ f ∈ s.forwards, f.key ≠ n) :
    discardKey s n = { s.setReg (keyReg n) (s.reg (keyReg n) &&& ~~~3#64) with
      forwards := s.forwards.filter (fun f => f.key ≠ n)
      lines := s.lines.filter (fun l => l.key ≠ n && !heldUnder s n l.line)
      keyMat := if (s.reg (keyReg n)).getLsbD 0 || (FMap.find? s.keyMat n).isSome then FMap.put s.keyMat n (s.nextId + 1)
        else s.keyMat
      nextId := s.nextId + 1
      replicas := s.replicas.filter (fun r => r.key ≠ n)
      cores := s.cores.map (fun q => (q.1, L1.drop q.2 (fun l => l.key = n))) } := by
  have hnow : s.forwards.filter (fun f => f.key = n) = [] := by
    rw [List.filter_eq_nil_iff]
    simpa using hf
  unfold discardKey
  rw [hnow]
  rfl

theorem discardKey_forgets {s : State} {n : Nat} (hf : ∀ f ∈ s.forwards, f.key ≠ n) (hm : s.material n ≤ s.nextId)
    (hk : s.keyPresent n = true ∨ (FMap.find? s.keyMat n).isSome = true) :
    SameBytes s (discardKey s n) ∧ (discardKey s n).keyPresent n = false ∧ (discardKey s n).material n ≠ s.material n ∧
      (∀ line, isSystem (128 * line) = false → FMap.find? s.lineKey line = some (s.material n) →
        decrypts (discardKey s n) line n = false) ∧
      (∀ l ∈ (discardKey s n).lines, l.key ≠ n) ∧ ∀ r ∈ (discardKey s n).replicas, r.key ≠ n := by
  have hk' : ((s.reg (keyReg n)).getLsbD 0 || (FMap.find? s.keyMat n).isSome) = true := by
    rw [Bool.or_eq_true]
    exact hk
  have hnew : (discardKey s n).material n = s.nextId + 1 := by
    rw [discardKey_eq hf, if_pos hk']
    exact FMap.get_put_same _ _ _ _
  have hne : s.material n ≠ s.nextId + 1 := by omega
  refine ⟨?_, ?_, ?_, fun line hsys hline => ?_, fun l hl => ?_, fun r hr => ?_⟩
  · rw [discardKey_eq hf]
    exact sameBytes_of_eq rfl rfl rfl
  · rw [discardKey_eq hf]
    change ((s.setReg (keyReg n) _).reg (keyReg n)).getLsbD 0 = false
    rw [State.reg_setReg_same]
    simp
  · rw [hnew]
    exact hne.symm
  · have hold : FMap.get 0 (discardKey s n).lineKey line = s.material n := by
      rw [discardKey_eq hf]
      change (FMap.find? s.lineKey line).getD 0 = _
      rw [hline]
      rfl
    unfold decrypts
    rw [hsys, hold, hnew, decide_eq_false hne]
    rfl
  · rw [discardKey_eq hf] at hl
    have := (List.mem_filter.mp hl).2
    simp only [Bool.and_eq_true, decide_eq_true_eq] at this
    exact this.1
  · rw [discardKey_eq hf] at hr
    simpa using (List.mem_filter.mp hr).2

theorem exec_keyDiscard {s : State} {b : Writer} (n : Nat) (v : Word) (hr : reaches s b = true) :
    exec (.keyDiscard b n v) s = .next (writeKey s b n v) := by
  change byWriter s b (writeKey s b n v) = _
  rw [byWriter, if_pos hr]

/-- Settles O52, table by table; a write that takes nothing gives the state back. -/
theorem privilegedWrites : Obligations.PrivilegedWrites := by
  refine ⟨fun s b p w v hr hp hw => ⟨fun hc => ?_, fun hc => ?_⟩, fun s b n w v hr hn hw => ⟨fun hc => ?_, fun hc => ?_⟩,
    fun s b d n v hr hd hn => ?_, fun s b d n v hr hd hn => ?_, fun s b off v ho => ?_,
    fun s b n v hr _ => ⟨fun hv hb hf hm hk => ?_, fun h => ?_⟩⟩
  · rw [registerWrite_part v hr hp hw, if_pos hc]
  · refine ⟨_, by rw [registerWrite_part v hr hp hw, if_neg (by simp [hc])], sameBytes_writeReg _ _ _ _ _, ?_⟩
    rw [reg_writeReg_same]
    obtain ⟨h0, h1, h2, h3, h4, h5⟩ := maskedWrite_part (s.reg (0x40100000 + 0x100 * p + 8 * w)) v hw
    exact ⟨h0, h1, h2, h3, h4, h5, fun o h => reg_writeReg_ne s v _ _ h⟩
  · rw [registerWrite_ilv v hr hn hw, if_pos ((any_ilv_iff s n).mpr hc)]
  · have hfree : ¬ allParts.any (fun p => s.committed p && s.ilv p = n) = true := by
      rw [any_ilv_iff]
      rintro ⟨p, hp, hpc, hpn⟩
      exact hc p hp hpc hpn
    refine ⟨_, by rw [registerWrite_ilv v hr hn hw, if_neg hfree], sameBytes_writeReg _ _ _ _ _, ?_⟩
    rw [reg_writeReg_same]
    refine ⟨?_, ?_, ?_, fun o h => reg_writeReg_ne s v _ _ h⟩
    · rintro rfl
      exact maskedWrite_rw _ v _
    · rintro rfl
      exact maskedWrite_rw _ v _
    · rintro (rfl | rfl)
      · exact maskedWrite_all _ v
      · exact maskedWrite_all _ v
  · refine ⟨_, registerWrite_perfSelect v hr hd hn, sameBytes_writeReg _ _ _ _ _, ?_⟩
    rw [reg_writeReg_same]
    exact ⟨maskedWrite_select _ v, maskedWrite_overflow _ v, fun o h => reg_writeReg_ne s v _ _ h⟩
  · refine ⟨_, registerWrite_perfCount v hr hd hn, ?_⟩
    rw [reg_writeReg_same]
    exact maskedWrite_count _ v
  · change byWriter s b (privWrite s b off v) = _
    rw [byWriter, privWrite_beyond s b v ho, ite_self]
  · rw [exec_keyDiscard n v hr, writeKey_mine hv hb]
    exact ⟨_, rfl, discardKey_forgets hf hm hk⟩
  · rw [exec_keyDiscard n v hr, writeKey_other h]

end Sys2Proof.Machine
end
section
/-! O53: a slot's own steps at its issue cycle, and the ends of its task. -/

namespace Sys2Proof.Machine
open Claims

/-! ### What reads as before -/

/-- Local memories may change in other respects than their bytes. -/
theorem sameBytes_of_mem {s t : State} (hp : t.phys = s.phys) (hc : ∀ n, (t.cell n).mem = (s.cell n).mem)
    (hm : t.commons = s.commons) : SameBytes s t := by
  unfold SameBytes State.commonsOf
  rw [hp, hm]
  exact ⟨fun _ => rfl, fun c a => by rw [hc], fun _ _ => rfl⟩

theorem sameBytes_setSlot (s : State) (sid : Nat) (x : Slot) : SameBytes s (s.setSlot sid x) := sameBytes_of_eq rfl rfl rfl

theorem cell_modCell_mem (s : State) (n k : Nat) {f : Cell → Cell} (hf : (f (s.cell n)).mem = (s.cell n).mem) :
    ((s.modCell n f).cell k).mem = (s.cell k).mem := by
  by_cases h : k = n
  · rw [h]
    exact (congrArg Cell.mem (State.cell_setCell_same s n _)).trans hf
  · exact congrArg Cell.mem (State.cell_setCell_ne s _ h)

/-! ### Deferred traps and parks (R4, R83) -/

theorem endWait_slots (s : State) (sid : Nat) : (endWait s sid).slots = s.slots := by
  unfold endWait
  split <;> rfl

theorem endWait_cur (s : State) (sid : Nat) : (endWait s sid).cur = s.cur := by
  unfold endWait
  split <;> rfl

theorem sameBytes_endWait (s : State) (sid : Nat) : SameBytes s (endWait s sid) := by
  unfold endWait
  split
  · refine sameBytes_of_mem rfl (fun k => ?_) rfl
    exact cell_modCell_mem s (cellOfSlot sid) k (f := fun c => { c with startWait := _ }) rfl
  · exact sameBytes_of_eq rfl rfl rfl

theorem sameBytes_trans {s t u : State} (h : SameBytes s t) (k : SameBytes t u) : SameBytes s u := by
  obtain ⟨h1, h2, h3⟩ := h
  obtain ⟨k1, k2, k3⟩ := k
  exact ⟨fun a => (k1 a).trans (h1 a), fun c a => (k2 c a).trans (h2 c a), fun d a => (k3 d a).trans (h3 d a)⟩

theorem trapSlot_deferred (x : Slot) (c d : Nat) (v : Word) (b : Bool) : (trapSlot x c d v b).deferred = x.deferred := by
  unfold trapSlot
  dsimp only
  split <;> rfl

theorem takeTrap_cur (s : State) (sid c d : Nat) (v : Word) (b : Bool) : (takeTrap s sid c d v b).cur = s.cur := by
  rcases takeTrap_cases s sid c d v b with h | h <;> rw [h] <;> rfl

theorem sameBytes_takeTrap (s : State) (sid c d : Nat) (v : Word) (b : Bool) : SameBytes s (takeTrap s sid c d v b) :=
  sameBytes_of_eq (takeTrap_phys ..) (takeTrap_cells ..) (takeTrap_commons ..)

theorem exec_deferredTrap {s : State} {d : Deferred} (h : (here s).deferred = some d) :
    exec .deferredTrap s = .next (takeTrap ((endWait s s.cur).setSlot s.cur { here s with deferred := none }) s.cur d.cause
      d.detail d.tval true) := by
  change execDeferredTrap s = _
  unfold execDeferredTrap
  dsimp only
  rw [show (s.slot s.cur).deferred = some d from h]

theorem deferredTrap_taken {s : State} {d : Deferred} (h : (here s).deferred = some d) :
    ∃ t, exec .deferredTrap s = .next t ∧ SameBytes s t ∧ OtherSlots s t ∧ (here t).deferred = none ∧
      (here t).tcause = BitVec.ofNat 64 (d.cause + 256 * d.detail + 0x30000) ∧ (here t).tepc = (here s).pc ∧
      (here t).tval = d.tval ∧
      ((here s).tcause.getLsbD 16 = false → (here s).tvec ≠ 0#64 → (here t).pc = (here s).tvec &&& ~~~3#64 ∧
        (here t).status = (here s).status) := by
  refine ⟨_, exec_deferredTrap h, ?_, fun j hj => ?_, ?_⟩
  · exact sameBytes_trans (sameBytes_endWait s s.cur)
      (sameBytes_trans (sameBytes_setSlot ..) (sameBytes_takeTrap ..))
  · rw [takeTrap_slot_ne _ _ _ _ _ hj, State.slot_setSlot_ne _ _ hj, State.slot, endWait_slots]
    rfl
  · unfold here
    rw [takeTrap_cur, State.setSlot_cur, endWait_cur, takeTrap_slot_same, State.slot_setSlot_same]
    obtain ⟨hcause, hepc, hval⟩ := trapSlot_record { here s with deferred := none } d.cause d.detail d.tval true
    refine ⟨trapSlot_deferred .., ?_, hepc, hval, fun hh hv => ?_⟩
    · have hsum : d.cause + 256 * d.detail + 2 ^ 16 + 2 ^ 17 * true.toNat = d.cause + 256 * d.detail + 0x30000 := by
        rw [Bool.toNat_true]
        omega
      rw [hcause, wrap64, hsum]
    · exact trapSlot_handled (x := { here s with deferred := none }) hh hv _ _ _ _

theorem exec_parkResume {s : State} {p : Park} (h : (here s).park = some p) :
    exec .parkResume s = .next (if retriable p then s.setSlot s.cur { here s with park := none } else s) := by
  change execParkResume s = _
  unfold execParkResume
  dsimp only
  rw [show (s.slot s.cur).park = some p from h]

theorem retriable_of {p : Park}
    (h : p = .mqueue ∨ p = .cqueue ∨ p = .lock ∨ p = .ring ∨ p = .commons ∨ p = .launch ∨ p = .fork ∨ p = .vqueue) :
    retriable p = true := by
  rcases h with rfl | rfl | rfl | rfl | rfl | rfl | rfl | rfl <;> rfl

theorem not_retriable {p : Park}
    (h : p = .fault ∨ p = .wfi ∨ p = .unack ∨ p = .pool ∨ p = .refused ∨ ∃ w, p = .barrier w) : retriable p = false := by
  rcases h with rfl | rfl | rfl | rfl | rfl | ⟨w, rfl⟩ <;> rfl

theorem here_setSlot (s : State) (x : Slot) : here (s.setSlot s.cur x) = x := State.slot_setSlot_same s s.cur x

theorem otherSlots_setSlot (s : State) (x : Slot) : OtherSlots s (s.setSlot s.cur x) :=
  fun _ hj => State.slot_setSlot_ne s x hj

theorem parkResume_ends {s : State} {p : Park} (h : (here s).park = some p)
    (hp : p = .mqueue ∨ p = .cqueue ∨ p = .lock ∨ p = .ring ∨ p = .commons ∨ p = .launch ∨ p = .fork ∨ p = .vqueue) :
    ∃ t, exec .parkResume s = .next t ∧ here t = { here s with park := none } ∧ OtherSlots s t ∧ SameBytes s t := by
  refine ⟨_, ?_, here_setSlot s _, otherSlots_setSlot s _, sameBytes_setSlot ..⟩
  rw [exec_parkResume h, if_pos (retriable_of hp)]

theorem parkResume_waits {s : State} {p : Park} (h : (here s).park = some p)
    (hp : p = .fault ∨ p = .wfi ∨ p = .unack ∨ p = .pool ∨ p = .refused ∨ ∃ w, p = .barrier w) :
    exec .parkResume s = .next s := by
  rw [exec_parkResume h, not_retriable hp, if_neg Bool.false_ne_true]

/-! ### A refused request (R281) -/

theorem takenAgain_fields (x : Slot) (cons : List Nat) : (x.takenAgain cons).pc = x.pc ∧
    (x.takenAgain cons).unack = x.unack := by
  unfold Slot.takenAgain
  refine foldl_keeps (p := fun y : Slot => y.pc = x.pc ∧ y.unack = x.unack) (fun y q hy => ?_) ⟨rfl, rfl⟩
  dsimp only
  split
  · simpa using hy
  · split
    · unfold Slot.takeV
      split <;> exact hy
    · unfold Slot.takeP
      split <;> exact hy

theorem oweD_fields (x : Slot) (d : Nat) : (x.oweD d).pc = x.pc ∧ (x.oweD d).unack = x.unack := by
  unfold Slot.oweD
  split
  · simp
  · exact ⟨rfl, rfl⟩

theorem oweD_sF (x : Slot) {d : Nat} (hd : d < 64) (h0 : d ≠ 0) : (x.oweD d).sF d = false := by
  unfold Slot.oweD
  rw [if_pos hd]
  unfold Slot.oweS Slot.sF
  rw [if_neg h0]
  simp [h0, Slot.getLsbD_setBit_same _ _ hd]

/-- The slot once its refused instruction has issued again. -/
theorem reissuedSlot_fields (x : Slot) (id : Nat) (dst : Option Nat) (cons : List Nat) (counts : Bool) :
    (reissuedSlot x id dst cons counts).park = none ∧ (reissuedSlot x id dst cons counts).pc = x.pc + 4#64 ∧
      (reissuedSlot x id dst cons counts).await = some id ∧
      (reissuedSlot x id dst cons counts).unack = (if counts then x.unack + 1#64 else x.unack) ∧
      ∀ d, dst = some d → d < 64 → d ≠ 0 → (reissuedSlot x id dst cons counts).sF d = false := by
  obtain ⟨hpc, hun⟩ := takenAgain_fields x cons
  unfold reissuedSlot
  extract_lets y z w
  have hz : z.pc = x.pc ∧ z.unack = x.unack ∧ ∀ d, dst = some d → d < 64 → d ≠ 0 → z.sF d = false := by
    unfold z
    cases dst with
    | none => exact ⟨hpc, hun, fun d e => nomatch e⟩
    | some d =>
      obtain ⟨opc, oun⟩ := oweD_fields y d
      refine ⟨opc.trans hpc, oun.trans hun, fun e he h64 h0 => ?_⟩
      obtain rfl := Option.some.inj he
      exact oweD_sF y h64 h0
  obtain ⟨zpc, zun, zf⟩ := hz
  clear_value z
  cases counts with
  | false => exact ⟨rfl, congrArg (· + 4#64) zpc, rfl, zun, zf⟩
  | true => exact ⟨rfl, congrArg (· + 4#64) zpc, rfl, congrArg (· + 1#64) zun, zf⟩

/-! Partitions, and with them the spaces of addresses, are read off the registers. -/

theorem partWord_congr {s t : State} (h : t.regs = s.regs) (p w : Nat) : t.partWord p w = s.partWord p w := by
  unfold State.partWord State.reg
  rw [h]

theorem committed_congr {s t : State} (h : t.regs = s.regs) (p : Nat) : t.committed p = s.committed p := by
  unfold State.committed
  rw [partWord_congr h]

theorem holds_congr {s t : State} (h : t.regs = s.regs) (p : Nat) : t.holds p = s.holds p := by
  funext c
  unfold State.holds
  dsimp only
  rw [partWord_congr h]

theorem partN_congr {s t : State} (h : t.regs = s.regs) (c : Nat) : t.partN c = s.partN c := by
  unfold State.partN State.partOf
  simp only [committed_congr h, holds_congr h]

theorem cellAt_congr {s t : State} (h : t.regs = s.regs) (p n : Nat) : t.cellAt p n = s.cellAt p n := by
  unfold State.cellAt State.partCells
  rw [holds_congr h]

theorem groupCount_congr {s t : State} (h : t.regs = s.regs) (c : Nat) : groupCount t c = groupCount s c := by
  unfold groupCount State.groupsOn State.groupMask
  simp only [partWord_congr h, partN_congr h]

theorem spaceOf_congr {s t : State} (h : t.regs = s.regs) (c : Nat) (va : Word) : spaceOf t c va = spaceOf s c va := by
  unfold spaceOf
  rw [partN_congr h, groupCount_congr h]
  simp only [cellAt_congr h]

/-- An access in flight is found in its new form once it has been set. -/
theorem findAccess_setAccess {s : State} {a b : Access} (hb : b ∈ s.flight) (he : b.id = a.id) :
    (s.setAccess a).findAccess a.id = some a := by
  unfold State.findAccess State.setAccess
  rw [List.find?_map]
  cases hf : s.flight.find? ((fun c => decide (c.id = a.id)) ∘ fun c => if c.id = a.id then a else c) with
  | none =>
    have := List.find?_eq_none.mp hf b hb
    simp [he] at this
  | some c =>
    have hc := List.find?_some hf
    by_cases hid : c.id = a.id
    · simp [hid]
    · simp [hid] at hc

theorem exec_refusedRetry_access {s : State} {a : Access} (hp : (here s).park = some .refused)
    (ha : s.flight.find? (fun b => b.stage = .held && b.slotOf s = some s.cur) = some a) :
    exec .refusedRetry s = .next (if (here s).deferred.isSome
      then (s.dropAccess a.id).setSlot s.cur { here s with park := none } else resendAccess s a) := by
  change execRefusedRetry s = _
  unfold execRefusedRetry
  dsimp only
  rw [if_neg (not_not_intro hp), ha]
  dsimp only
  split <;> rfl

theorem refusedRetry_withdrawn {s : State} {a : Access} (hp : (here s).park = some .refused)
    (ha : s.flight.find? (fun b => b.stage = .held && b.slotOf s = some s.cur) = some a) (hd : (here s).deferred ≠ none) :
    ∃ t, exec .refusedRetry s = .next t ∧ here t = { here s with park := none } ∧ (∀ b ∈ t.flight, b.id ≠ a.id) ∧
      SameBytes s t := by
  refine ⟨_, ?_, here_setSlot (s.dropAccess a.id) _, fun b hb => ?_, sameBytes_of_eq rfl rfl rfl⟩
  · rw [exec_refusedRetry_access hp ha, if_pos (Option.isSome_iff_ne_none.mpr hd)]
    rfl
  · simpa using (List.mem_filter.mp hb).2

/-- The state in which the refused instruction has issued again, before its request is sent. -/
def reissued (s : State) (id : Nat) (dst : Option Nat) (cons : List Nat) (counts : Bool) : State :=
  { s.setSlot s.cur (reissuedSlot (here s) id dst cons counts) with nextId := s.nextId + 1 }

/-- The request of a refused instruction as it is sent again. -/
def resent (s : State) (a : Access) (sid : Nat) (gen : BitVec 8) (pc : Word) (dst : Option Nat) (cons : List Nat)
    (counts : Bool) : Access :=
  { a with src := .slot sid gen pc dst (match dst with | some d => (here s).fullD d | none => true) cons counts
           entered := s.nextId }

section
variable {s : State} {a : Access} {sid : Nat} {gen : BitVec 8} {pc : Word} {dst : Option Nat} {f counts : Bool}
  {cons : List Nat}

theorem resendAccess_own {o : Nat} (hsrc : a.src = .slot sid gen pc dst f cons counts)
    (hun : counts = true → (here s).unack ≠ 0xFFFF#64) (ho : spaceOf s a.cell a.va = .own o) :
    ∃ n, resendAccess s a = ((reissued s a.id dst cons counts).setAccess
      { resent s a sid gen pc dst cons counts with stage := .wheel a.cell (a.core % 4) }).pushE
      (.localPairing a.cell (a.core % 4) n) := by
  have hroom : ¬ (counts && decide ((s.slot s.cur).unack = 0xFFFF#64)) = true := by
    simpa using hun
  unfold resendAccess
  dsimp only
  rw [hsrc]
  dsimp only
  have hs := spaceOf_congr (s := s) (t := reissued s a.id dst cons counts) rfl a.cell a.va
  dsimp only [reissued] at hs
  rw [if_neg hroom, hs, ho]
  exact ⟨_, rfl⟩

theorem resendAccess_remote {c o : Nat} (hsrc : a.src = .slot sid gen pc dst f cons counts)
    (hun : counts = true → (here s).unack ≠ 0xFFFF#64) (ho : spaceOf s a.cell a.va = .remote c o) :
    resendAccess s a = ((reissued s a.id dst cons counts).setAccess
      { resent s a sid gen pc dst cons counts with stage := .lattice c }).pushE (.remoteAccessArrival a.id) := by
  have hroom : ¬ (counts && decide ((s.slot s.cur).unack = 0xFFFF#64)) = true := by
    simpa using hun
  unfold resendAccess
  dsimp only
  rw [hsrc]
  dsimp only
  have hs := spaceOf_congr (s := s) (t := reissued s a.id dst cons counts) rfl a.cell a.va
  dsimp only [reissued] at hs
  rw [if_neg hroom, hs, ho]
  rfl


/-- What the slot shows once its refused instruction has issued again. -/
theorem issued_reissued (b : Access) (i : Instr) :
    let t := ((reissued s a.id dst cons counts).setAccess b).pushE i
    (here t).park = none ∧ (here t).pc = (here s).pc + 4#64 ∧ (here t).await = some a.id ∧
      (here t).unack = (if counts then (here s).unack + 1#64 else (here s).unack) ∧
      (∀ d, dst = some d → d < 64 → d ≠ 0 → (here t).sF d = false) ∧ SameBytes s t := by
  intro t
  have ht : here t = reissuedSlot (here s) a.id dst cons counts := here_setSlot s _
  obtain ⟨hpark, hpc, hawait, hunack, hfull⟩ := reissuedSlot_fields (here s) a.id dst cons counts
  rw [ht]
  exact ⟨hpark, hpc, hawait, hunack, hfull, sameBytes_of_eq rfl rfl rfl⟩

theorem due_pushE (s : State) (i : Instr) : Due (s.pushE i) i := List.mem_append_right _ (List.mem_singleton_self _)

variable (hp : (here s).park = some .refused)
  (ha : s.flight.find? (fun b => b.stage = .held && b.slotOf s = some s.cur) = some a)
  (hsrc : a.src = .slot sid gen pc dst f cons counts) (hd : (here s).deferred = none)
  (hun : counts = true → (here s).unack ≠ 0xFFFF#64)

include hp ha hd in
theorem exec_refusedRetry_resend : exec .refusedRetry s = .next (resendAccess s a) := by
  rw [exec_refusedRetry_access hp ha, hd]
  rfl

include ha in
theorem findAccess_resent (b : Access) (i : Instr) (hb : b.id = a.id) :
    (((reissued s a.id dst cons counts).setAccess b).pushE i).findAccess a.id = some b := by
  rw [← hb]
  exact findAccess_setAccess (s := reissued s a.id dst cons counts) (b := a) (List.mem_of_find?_eq_some ha) hb.symm

include hp ha hsrc hd hun in
theorem refusedRetry_own {o : Nat} (ho : spaceOf s a.cell a.va = .own o) :
    ∃ t b n, exec .refusedRetry s = .next t ∧ ((here t).park = none ∧ (here t).pc = (here s).pc + 4#64 ∧
      (here t).await = some a.id ∧ (here t).unack = (if counts then (here s).unack + 1#64 else (here s).unack) ∧
      (∀ d, dst = some d → d < 64 → d ≠ 0 → (here t).sF d = false) ∧ SameBytes s t) ∧ t.findAccess a.id = some b ∧
      b.stage = .wheel a.cell (a.core % 4) ∧ b.op = a.op ∧ b.va = a.va ∧ Due t (.localPairing a.cell (a.core % 4) n) := by
  obtain ⟨n, hn⟩ := resendAccess_own hsrc hun ho
  refine ⟨_, _, n, (exec_refusedRetry_resend hp ha hd).trans (congrArg _ hn), issued_reissued _ _,
    findAccess_resent ha _ _ rfl, rfl, rfl, rfl, due_pushE _ _⟩

include hp ha hsrc hd hun in
theorem refusedRetry_remote {c o : Nat} (ho : spaceOf s a.cell a.va = .remote c o) :
    ∃ t b, exec .refusedRetry s = .next t ∧ ((here t).park = none ∧ (here t).pc = (here s).pc + 4#64 ∧
      (here t).await = some a.id ∧ (here t).unack = (if counts then (here s).unack + 1#64 else (here s).unack) ∧
      (∀ d, dst = some d → d < 64 → d ≠ 0 → (here t).sF d = false) ∧ SameBytes s t) ∧ t.findAccess a.id = some b ∧
      b.stage = .lattice c ∧ b.op = a.op ∧ b.va = a.va ∧ Due t (.remoteAccessArrival a.id) :=
  ⟨_, _, (exec_refusedRetry_resend hp ha hd).trans (congrArg _ (resendAccess_remote hsrc hun ho)), issued_reissued _ _,
    findAccess_resent ha _ _ rfl, rfl, rfl, rfl, due_pushE _ _⟩

end

theorem exec_refusedRetry_message {s : State} {m : Message} (hp : (here s).park = some .refused)
    (hf : ∀ b ∈ s.flight, b.stage ≠ .held) (hd : (here s).deferred = none)
    (hm : s.messages.find? (fun q => q.sid = s.cur && decide (q.answer = some Verdict.refused)) = some m) :
    exec .refusedRetry s = .next (resendMessage s m) := by
  have hnone : s.flight.find? (fun b => b.stage = .held && b.slotOf s = some s.cur) = none := by
    rw [List.find?_eq_none]
    intro b hb
    simp [hf b hb]
  change execRefusedRetry s = _
  unfold execRefusedRetry
  dsimp only
  rw [if_neg (not_not_intro hp), hnone, hm]
  dsimp only
  rw [show (s.slot s.cur).deferred = none from hd]
  rfl

theorem refusedRetry_message {s : State} {m : Message} (hp : (here s).park = some .refused)
    (hf : ∀ b ∈ s.flight, b.stage ≠ .held) (hd : (here s).deferred = none)
    (hm : s.messages.find? (fun q => q.sid = s.cur && decide (q.answer = some Verdict.refused)) = some m) :
    ∃ t, exec .refusedRetry s = .next t ∧ (here t).park = none ∧ (here t).pc = (here s).pc + 4#64 ∧
      (here t).await = some m.id ∧ (∀ q ∈ t.messages, q.id = m.id → q.answer = none) ∧ Due t (.messageArrival m.id) ∧
      SameBytes s t := by
  refine ⟨_, exec_refusedRetry_message hp hf hd hm, ?_⟩
  have hhere : here (resendMessage s m) =
      { (here s).takenAgain m.cons with pc := (here s).pc + 4#64, await := some m.id, park := none } := here_setSlot s _
  refine ⟨?_, ?_, ?_, fun q hq he => ?_, due_pushE _ _, sameBytes_of_eq rfl rfl rfl⟩
  · rw [hhere]
  · rw [hhere]
  · rw [hhere]
  · obtain ⟨r, _, rfl⟩ := List.mem_map.mp (show q ∈ s.messages.map _ from hq)
    by_cases hr : r.id = m.id
    · simp [hr]
    · simp [hr] at he

/-! ### The end of a task (R150, R151) -/

theorem slots_endPhase (s : State) (sid : Nat) : (endPhase s sid).slots = s.slots := by
  unfold endPhase
  dsimp only
  split
  · rfl
  · split <;> rfl

theorem cells_endPhase (s : State) (sid : Nat) : (endPhase s sid).cells = s.cells := by
  unfold endPhase
  dsimp only
  split
  · rfl
  · split <;> rfl

theorem slots_raiseNode (s : State) (p : Nat) (r : Word) (st : Nat) : (raiseNode s p r st).slots = s.slots := by
  unfold raiseNode
  split
  · rfl
  · split <;> rfl

theorem cells_raiseNode (s : State) (p : Nat) (r : Word) (st : Nat) : (raiseNode s p r st).cells = s.cells := by
  unfold raiseNode
  split
  · rfl
  · split <;> rfl

/-- The state after a task's end, its join done. -/
def closed (s : State) (sid p : Nat) (r : Word) (f : Final) (info : BitVec 32) : State :=
  giveFinal (raiseNode (endPhase s sid) p r f.code) sid f info

theorem cells_closed (s : State) (sid p : Nat) (r : Word) (f : Final) (info : BitVec 32) :
    (closed s sid p r f info).cells = s.cells := by
  change (raiseNode (endPhase s sid) p r f.code).cells = s.cells
  rw [cells_raiseNode, cells_endPhase]

theorem slot_giveFinal (s : State) (sid : Nat) (f : Final) (info : BitVec 32) :
    (giveFinal s sid f info).slot sid = { s.slot sid with status := .ended f info, aown := 0#64, park := none, await := none,
                                                          killReq := none, deferred := none, cap := none } := by
  unfold giveFinal
  change (State.modSlot (s.modSlot sid _) (16 * coreOf sid) wakeSlot).slot sid = _
  by_cases h : sid = 16 * coreOf sid
  · rw [← h, State.modSlot_eq, State.slot_setSlot_same, State.modSlot_eq, State.slot_setSlot_same]
    rfl
  · rw [State.modSlot_eq, State.slot_setSlot_ne _ _ h, State.modSlot_eq, State.slot_setSlot_same]

theorem slot_closed (s : State) (sid p : Nat) (r : Word) (f : Final) (info : BitVec 32) :
    ((closed s sid p r f info).slot sid).status = .ended f info ∧ ((closed s sid p r f info).slot sid).aown = 0#64 ∧
      ((closed s sid p r f info).slot sid).gen = (s.slot sid).gen := by
  have hs : (raiseNode (endPhase s sid) p r f.code).slot sid = s.slot sid := by
    unfold State.slot
    rw [slots_raiseNode, slots_endPhase]
  unfold closed
  rw [slot_giveFinal, hs]
  exact ⟨rfl, rfl, rfl⟩

/-- The reader of a task's argument at its end. -/
def endAgent (s : State) (sid : Nat) : Agent :=
  { part := s.partN (cellOfSlot sid), die := dieOf (cellOfSlot sid), asid := s.casid (cellOfSlot sid), kind := 0
    source := globalPos (coreOf sid), again := .event (.taskEnd sid) }

section
variable {s u : State} {sid v : Nat} {f : Final} {info : BitVec 32} (hst : (s.slot sid).status = .ending f info)
  (hdef : (s.slot sid).deferred = none) (hw : endWaits s sid f = false) (hclk : clockStop (s.cell (cellOfSlot sid)) = none)
  (hread : readVirt (s.setSlot sid (s.slot sid)) (endAgent s sid) (s.slot sid).targ 8 = (.val v, u))

theorem endWaits_setSlot_self (s : State) (sid : Nat) (f : Final) :
    endWaits (s.setSlot sid (s.slot sid)) sid f = endWaits s sid f := by
  unfold endWaits
  rw [State.slot_setSlot_same]
  rfl

include hst hdef hw hclk in
theorem exec_taskEnd : exec (.taskEnd sid) s = .next (finishTask (s.setSlot sid (s.slot sid)) sid f info) := by
  have hat : deferAtEnd (s.slot sid) = s.slot sid := by
    unfold deferAtEnd
    rw [hdef]
  change execTaskEnd sid s = _
  unfold execTaskEnd
  rw [hat]
  dsimp only
  rw [State.slot_setSlot_same, hst]
  dsimp only
  rw [endWaits_setSlot_self, hw, whenRunning, hclk]
  rfl

include hread in
/-- A task whose join is done, or names nothing, closes. -/
theorem finishTask_joined {t : State} (hj : joinAt u (endAgent s sid) (wrap64 v) f.code = (false, t)) :
    finishTask (s.setSlot sid (s.slot sid)) sid f info =
      closed t sid (s.partN (cellOfSlot sid)) (recordOf (s.slot sid)) f info := by
  have hp := partN_congr (t := s.setSlot sid (s.slot sid)) (s := s) rfl (cellOfSlot sid)
  have hc : (s.setSlot sid (s.slot sid)).casid (cellOfSlot sid) = s.casid (cellOfSlot sid) := rfl
  unfold endAgent at hread hj
  unfold finishTask
  dsimp only
  rw [State.slot_setSlot_same, hp, hc, hread]
  dsimp only
  rw [hj]
  rfl

end

/-! ### The join at a word of a local memory (R151) -/

namespace Loc

theorem raw_toBytes (c : Cell) (a n v : Nat) : raw c a (toBytes n v) = { c with mem := Memory.writeN c.mem a n v } := by
  induction n generalizing c a v with
  | zero => rfl
  | succ n ih =>
    change raw { c with mem := Memory.write c.mem a (BitVec.ofNat 8 v) } (a + 1) (toBytes n (v / 256)) = _
    rw [ih]
    rfl

/-- A write in a frame of class general stores its bytes and leaves the class. -/
theorem partialAt_general {c : Cell} {mo : Nat} (n v : Nat) (h : (entry c (mo / 1024)).cls = .general) :
    ∃ e : DirEntry, e.cls = .general ∧
      partialAt c mo (toBytes n v) = setEntry { c with mem := Memory.writeN c.mem mo n v } (mo / 1024) e := by
  unfold partialAt
  rw [raw_toBytes]
  dsimp only
  split
  · exact ⟨_, rfl, rfl⟩
  · rw [h]
    exact ⟨_, rfl, rfl⟩

theorem write_general {c : Cell} {o : Nat} (n v : Nat) (h : (entry c (mapOff c o / 1024)).cls = .general) :
    (write c o (toBytes n v)).mem = Memory.writeN c.mem (mapOff c o) n v ∧ (write c o (toBytes n v)).pairs = c.pairs ∧
      (write c o (toBytes n v)).fe = c.fe ∧ (entry (write c o (toBytes n v)) (mapOff c o / 1024)).cls = .general := by
  obtain ⟨e, he, hw⟩ := partialAt_general n v h
  unfold write
  rw [hw]
  exact ⟨rfl, rfl, rfl, (congrArg DirEntry.cls (FMap.get_put_same ..)).trans he⟩

theorem mapOff_congr {c d : Cell} (h : d.pairs = c.pairs) (o : Nat) : mapOff d o = mapOff c o := by
  unfold mapOff
  rw [h]

theorem full_general {c : Cell} {o : Nat} (h : (entry c (mapOff c o / 1024)).cls = .general) :
    full c o = FMap.get true c.fe (mapOff c o / 8) := by
  unfold full
  dsimp only
  rw [h]

theorem full_setFull_true {c : Cell} {o : Nat} (hfe : FMap.wf c.fe = true)
    (h : (entry c (mapOff c o / 1024)).cls = .general) : full (setFull c o true) o = true := by
  rw [full_general (c := setFull c o true) h]
  change (FMap.find? (FMap.del c.fe (wordAt c o)) (mapOff c o / 8)).getD true = true
  rw [wordAt, FMap.find?_del_same _ hfe]
  rfl

end Loc

theorem cell_localWrite (s : State) (cell o n v : Nat) :
    (localWrite s cell o n v).cell cell = Loc.write (s.cell cell) o (toBytes n v) := by
  change ((forgetRows s cell o).modCell cell (fun c => Loc.write c o (toBytes n v))).cell cell = _
  rw [State.modCell_eq, State.cell_setCell_same]
  unfold State.cell
  rw [forgetRows_cells]

theorem slots_localWrite (s : State) (cell o n v : Nat) : (localWrite s cell o n v).slots = s.slots := by
  change (forgetRows s cell o).slots = s.slots
  unfold forgetRows
  dsimp only
  split <;> rfl

theorem slots_joinLocal (s : State) (cell o st : Nat) : (joinLocal s cell o st).slots = s.slots := by
  unfold joinLocal
  dsimp only
  split
  · rfl
  · split
    · rw [State.modCell_eq, State.setCell_slots, slots_localWrite]
    · exact slots_localWrite ..

theorem joined_ok {w : Nat} (h0 : w % 2 ^ 32 ≠ 0) (hw : w < 2 ^ 64) :
    joined (wrap64 w) Final.ok.code = BitVec.ofNat 64 (w - 1) := by
  have hnat : (wrap64 w).toNat = w := by
    rw [wrap64, BitVec.toNat_ofNat]
    omega
  have hlow : bits (wrap64 w) 31 0 ≠ 0 := by
    rw [bits, hnat, Nat.shiftRight_zero]
    exact h0
  have hbad : (Final.ok.code = 1 || Final.ok.code = 2 || Final.ok.code = 3 : Bool) = false := rfl
  unfold joined
  dsimp only
  rw [if_neg hlow, hbad, Bool.false_and, if_neg Bool.false_ne_true, if_neg (by decide)]
  apply BitVec.eq_of_toNat_eq
  rw [BitVec.toNat_sub, hnat, BitVec.toNat_ofNat]
  simp only [BitVec.toNat_ofNat]
  omega

theorem joinLocal_ok {s : State} {c o : Nat} (hp : PlainAt s c o 8) (h0 : localRead s c o 8 % 2 ^ 32 ≠ 0)
    (hw : localRead s c o 8 < 2 ^ 63) :
    localRead (joinLocal s c o Final.ok.code) c o 8 = localRead s c o 8 - 1 ∧
      fullAt (joinLocal s c o Final.ok.code) c o =
        (if localRead s c o 8 % 2 ^ 32 = 1 then true else fullAt s c o) := by
  obtain ⟨-, -, hcls, herr, hmem, hfe⟩ := hp
  generalize hv : localRead s c o 8 = w at h0 hw
  have hjoin := joined_ok h0 (by omega)
  have hnat : (BitVec.ofNat 64 (w - 1)).toNat = w - 1 := by
    rw [BitVec.toNat_ofNat]
    omega
  obtain ⟨wmem, wpairs, wfe, wcls⟩ := Loc.write_general 8 (w - 1) hcls
  have woff := Loc.mapOff_congr wpairs o
  have hread : Memory.readN (Loc.write (s.cell c) o (toBytes 8 (w - 1))).mem (Loc.mapOff (s.cell c) o) 8 = w - 1 := by
    rw [wmem, Memory.readN_writeN _ _ _ hmem]
    omega
  have hlow : bits (BitVec.ofNat 64 (w - 1)) 31 0 = 0 ↔ w % 2 ^ 32 = 1 := by
    rw [bits, hnat, Nat.shiftRight_zero]
    omega
  unfold joinLocal
  rw [if_neg (by rw [herr]; exact Bool.false_ne_true)]
  dsimp only
  rw [hv, hjoin, hnat]
  unfold localRead fullAt Loc.readN
  split
  next h1 =>
    rw [if_pos (hlow.mp h1), State.modCell_eq, State.cell_setCell_same, cell_localWrite]
    generalize hc : Loc.write (s.cell c) o (toBytes 8 (w - 1)) = c1 at wmem wpairs wfe wcls woff hread
    refine ⟨?_, Loc.full_setFull_true (by rw [wfe]; exact hfe) (by rw [woff]; exact wcls)⟩
    change Memory.readN c1.mem (Loc.mapOff c1 o) 8 = w - 1
    rw [woff, hread]
  next h1 =>
    rw [if_neg (fun e => h1 (hlow.mpr e)), cell_localWrite, woff]
    refine ⟨hread, ?_⟩
    rw [Loc.full_general (by rw [woff]; exact wcls), Loc.full_general hcls, woff, wfe]

theorem joinAt_zero (s : State) (g : Agent) (st : Nat) : joinAt s g (wrap64 0) st = (false, s) := by
  unfold joinAt
  rw [if_pos (by decide)]

theorem joinAt_remote {s : State} {g : Agent} {v c : Nat} (st : Nat) (htop : v / 2 ^ 48 = 0xFF01) (hal : v % 8 = 0)
    (hc : s.cellAt g.part (v % 2 ^ 48 / 0x200000) = some c) :
    joinAt s g (wrap64 v) st = (false, joinLocal s c (v % 2 ^ 48 % 0x200000) st) := by
  have hnat : (wrap64 v).toNat = v := by
    rw [wrap64, BitVec.toNat_ofNat]
    omega
  have hoff : bits (wrap64 v) 47 0 = v % 2 ^ 48 := by rw [bits, hnat, Nat.shiftRight_zero]
  have hspace : bits (wrap64 v) 63 48 = 0xFF01 := by
    rw [bits, hnat, Nat.shiftRight_eq_div_pow, htop]
    rfl
  have hbit : (wrap64 v).getLsbD 56 = true := by
    rw [BitVec.getLsbD, hnat, Nat.testBit_eq_decide_div_mod_eq, decide_eq_true_eq]
    omega
  have hsign : canonical (wrap64 v) = true := by
    unfold canonical
    rw [hbit, bits, hnat, Nat.shiftRight_eq_div_pow, if_pos rfl, decide_eq_true_eq]
    omega
  have halign : alignedTo (wrap64 v) 8 = true := by
    unfold alignedTo
    rw [hnat, hal]
    rfl
  have hne : wrap64 v ≠ 0#64 := by
    intro h
    rw [h] at hspace
    exact absurd hspace (by decide)
  unfold joinAt
  rw [hsign, halign, hbit]
  simp only [hne, hoff, hspace]
  rw [if_neg (by decide), if_pos trivial, if_pos trivial,
    show s.cellAt g.part (v % 2 ^ 48 / localSize) = some c from hc]
  rfl

section
variable {s u : State} {sid v : Nat} {f : Final} {info : BitVec 32} (hst : (s.slot sid).status = .ending f info)
  (hdef : (s.slot sid).deferred = none) (hw : endWaits s sid f = false) (hclk : clockStop (s.cell (cellOfSlot sid)) = none)
  (hread : readVirt (s.setSlot sid (s.slot sid)) (endAgent s sid) (s.slot sid).targ 8 = (.val v, u))

include hst hdef hw hclk hread

theorem taskEnd_unjoined (hslots : ∀ j, u.slot j = s.slot j) (hv : v = 0) :
    ∃ t, exec (.taskEnd sid) s = .next t ∧ (t.slot sid).status = .ended f info ∧ (t.slot sid).aown = 0#64 ∧
      (t.slot sid).gen = (s.slot sid).gen := by
  subst hv
  obtain ⟨hs, ha, hg⟩ := slot_closed u sid (s.partN (cellOfSlot sid)) (recordOf (s.slot sid)) f info
  refine ⟨_, ?_, hs, ha, hg.trans (congrArg Slot.gen (hslots sid))⟩
  rw [exec_taskEnd hst hdef hw hclk, finishTask_joined hread (joinAt_zero u _ _)]

theorem taskEnd_joined {c o : Nat} (hf : f = .ok) (htop : v / 2 ^ 48 = 0xFF01) (hal : v % 8 = 0)
    (ho : o = v % 2 ^ 48 % 0x200000) (hc : u.cellAt (s.partN (cellOfSlot sid)) (v % 2 ^ 48 / 0x200000) = some c)
    (hp : PlainAt u c o 8) (h0 : localRead u c o 8 % 2 ^ 32 ≠ 0) (hlt : localRead u c o 8 < 2 ^ 63) :
    ∃ t, exec (.taskEnd sid) s = .next t ∧ (t.slot sid).status = .ended .ok info ∧
      localRead t c o 8 = localRead u c o 8 - 1 ∧
      fullAt t c o = (if localRead u c o 8 % 2 ^ 32 = 1 then true else fullAt u c o) := by
  subst hf ho
  obtain ⟨hr, hfull⟩ := joinLocal_ok hp h0 hlt
  obtain ⟨hs, -, -⟩ := slot_closed (joinLocal u c (v % 2 ^ 48 % 0x200000) Final.ok.code) sid (s.partN (cellOfSlot sid))
    (recordOf (s.slot sid)) .ok info
  refine ⟨_, ?_, hs, ?_, ?_⟩
  · rw [exec_taskEnd hst hdef hw hclk, finishTask_joined hread (joinAt_remote (g := endAgent s sid) _ htop hal hc)]
  · rw [← hr]
    unfold localRead State.cell
    rw [cells_closed]
  · rw [← hfull]
    unfold fullAt State.cell
    rw [cells_closed]

end

/-! ### Grants of registers (R149) -/

/-- A waiting gaffer no longer waits for registers. -/
def wakePool (x : Slot) : Slot := { x with park := if x.park = some .pool then none else x.park }

theorem wakePool_park (x : Slot) : (wakePool x).park ≠ some .pool := by
  unfold wakePool
  dsimp only
  split
  · exact nofun
  next h => exact h

theorem exec_poolGrant (s : State) (cell : Nat) : exec (.poolGrant cell) s =
    .next ((s.cell cell).startWait.foldl (fun s w => s.modSlot w.gaffer wakePool) s) := rfl

theorem slot_grants_ne {l : List StartWait} (s : State) {j : Nat} (h : ∀ w ∈ l, w.gaffer ≠ j) :
    (l.foldl (fun s w => s.modSlot w.gaffer wakePool) s).slot j = s.slot j := by
  induction l generalizing s with
  | nil => rfl
  | cons w l ih =>
    rw [List.foldl_cons, ih _ fun v hv => h v (List.mem_cons_of_mem w hv)]
    exact State.slot_setSlot_ne s _ (h w List.mem_cons_self).symm

theorem park_grants {l : List StartWait} (s : State) (j : Nat) (h : (∃ w ∈ l, w.gaffer = j) ∨ (s.slot j).park ≠ some .pool) :
    ((l.foldl (fun s w => s.modSlot w.gaffer wakePool) s).slot j).park ≠ some .pool := by
  induction l generalizing s with
  | nil =>
    rcases h with ⟨w, hw, -⟩ | h
    · cases hw
    · exact h
  | cons w l ih =>
    refine ih _ ?_
    change _ ∨ ((s.modSlot w.gaffer wakePool).slot j).park ≠ some .pool
    by_cases hj : w.gaffer = j
    · right
      rw [← hj, State.modSlot_eq, State.slot_setSlot_same]
      exact wakePool_park _
    · rcases h with ⟨v, hv, he⟩ | h
      · rcases List.mem_cons.mp hv with rfl | hv
        · exact absurd he hj
        · exact .inl ⟨v, hv, he⟩
      · right
        rw [State.modSlot_eq, State.slot_setSlot_ne _ _ (Ne.symm hj)]
        exact h

theorem sameBytes_foldl {α : Type} {f : State → α → State} (hf : ∀ s a, SameBytes s (f s a)) (l : List α) (s : State) :
    SameBytes s (l.foldl f s) := by
  induction l generalizing s with
  | nil => exact sameBytes_of_eq rfl rfl rfl
  | cons a l ih => exact sameBytes_trans (hf s a) (ih _)

theorem poolGrant_wakes (s : State) (cell : Nat) : ∃ t, exec (.poolGrant cell) s = .next t ∧ SameBytes s t ∧
    (∀ w ∈ (s.cell cell).startWait, (t.slot w.gaffer).park ≠ some .pool) ∧
    ∀ j, (∀ w ∈ (s.cell cell).startWait, w.gaffer ≠ j) → t.slot j = s.slot j :=
  ⟨_, exec_poolGrant s cell, sameBytes_foldl (fun s _ => sameBytes_setSlot s ..) _ s,
    fun w hw => park_grants s w.gaffer (.inl ⟨w, hw, rfl⟩), fun _ h => slot_grants_ne s h⟩

/-! ### The effect of a kill (R153) -/

/-- The stores and the issuing slot's number are those of another state. -/
def SameStores (s t : State) : Prop := t.phys = s.phys ∧ t.cells = s.cells ∧ t.commons = s.commons ∧ t.cur = s.cur

theorem sameStores_trans {s t u : State} (h : SameStores s t) (k : SameStores t u) : SameStores s u := by
  obtain ⟨hp, hc, hm, hu⟩ := h
  obtain ⟨kp, kc, km, ku⟩ := k
  exact ⟨kp.trans hp, kc.trans hc, km.trans hm, ku.trans hu⟩

theorem sameStores_seqDone (s : State) (core : Nat) (c : Cmd) : SameStores s (seqDone s core c) := by
  unfold seqDone
  dsimp only
  split
  · exact ⟨rfl, rfl, rfl, rfl⟩
  · split <;> exact ⟨rfl, rfl, rfl, rfl⟩

theorem sameStores_cmdToken (s : State) (core : Nat) (w : CmdWord) (st : Word) : SameStores s (cmdToken s core w st) := by
  unfold cmdToken
  split <;> exact ⟨rfl, rfl, rfl, rfl⟩

theorem sameStores_completeCmd (s : State) (core : Nat) (c : Cmd) (st : Word) : SameStores s (completeCmd s core c st) :=
  sameStores_trans (sameStores_seqDone s core c) (sameStores_cmdToken _ core c.word st)

theorem sameStores_foldl {α : Type} {f : State → α → State} (hf : ∀ s a, SameStores s (f s a)) (l : List α) (s : State) :
    SameStores s (l.foldl f s) := by
  induction l generalizing s with
  | nil => exact ⟨rfl, rfl, rfl, rfl⟩
  | cons a l ih => exact sameStores_trans (hf s a) (ih _)

theorem sameStores_discardMatrix (s : State) (sid : Nat) : SameStores s (discardMatrix s sid) := by
  unfold discardMatrix
  extract_lets core mine t u
  have hu : SameStores s u := sameStores_foldl (fun s c => sameStores_completeCmd s core c _) mine t
  clear_value u
  split
  · split
    · exact hu
    · exact hu
  · exact hu

theorem sameStores_abandon (s : State) (sid : Nat) : SameStores s (abandon s sid) := ⟨rfl, rfl, rfl, rfl⟩

theorem sameStores_stopPrograms (s : State) (sid : Nat) : SameStores s (stopPrograms s sid) := ⟨rfl, rfl, rfl, rfl⟩

theorem sameStores_dropVector (s : State) (sid : Nat) : SameStores s (dropVector s sid) := ⟨rfl, rfl, rfl, rfl⟩

theorem sameStores_modSlot_pushE (s : State) (sid : Nat) (f : Slot → Slot) (i : Instr) :
    SameStores s ((s.modSlot sid f).pushE i) := ⟨rfl, rfl, rfl, rfl⟩

theorem sameStores_killSlot (s : State) (sid : Nat) : SameStores s (killSlot s sid) :=
  sameStores_trans (sameStores_abandon s sid) <| sameStores_trans (sameStores_discardMatrix _ sid) <|
  sameStores_trans (sameStores_stopPrograms _ sid) <| sameStores_trans (sameStores_dropVector _ sid) <|
  sameStores_modSlot_pushE ..

theorem slot_killSlot (s : State) (sid : Nat) : ∃ x : Slot, (killSlot s sid).slot sid =
    { x with status := .ending .killed 0#32, spend := 0#64, vpend := 0#32, ppend := 0#8, park := none, await := none
             killReq := none, deferred := none, cap := none, replay := none } :=
  ⟨_, State.slot_setSlot_same ..⟩

theorem exec_killEffect_void {s : State} {g : BitVec 8} (hk : (here s).killReq = some g)
    (h : (here s).gen ≠ g ∨ (here s).isLive = false) :
    exec .killEffect s = .next (s.setSlot s.cur { here s with killReq := none }) := by
  have hc : ((here s).gen ≠ g || !(here s).isLive : Bool) = true := by
    simpa using h
  change execKillEffect s = _
  unfold execKillEffect
  dsimp only
  rw [show (s.slot s.cur).killReq = some g from hk]
  dsimp only
  rw [if_pos hc]

theorem killEffect_void {s : State} {g : BitVec 8} (hk : (here s).killReq = some g)
    (h : (here s).gen ≠ g ∨ (here s).isLive = false) :
    ∃ t, exec .killEffect s = .next t ∧ here t = { here s with killReq := none } ∧ SameBytes s t ∧ OtherSlots s t :=
  ⟨_, exec_killEffect_void hk h, here_setSlot s _, sameBytes_setSlot .., otherSlots_setSlot s _⟩

theorem exec_killEffect_live {s : State} {g : BitVec 8} (hk : (here s).killReq = some g) (hg : (here s).gen = g)
    (hl : (here s).status = .live) (hc : ∀ c ∈ s.contexts, c.target ≠ s.cur) :
    exec .killEffect s = .next (killSlot s s.cur) := by
  have hlive : (here s).isLive = true := by
    rw [Slot.isLive, hl]
  have hgo : ¬ ((here s).gen ≠ g || !(here s).isLive : Bool) = true := by
    simp [hg, hlive]
  have hno : ¬ s.contexts.any (fun c => c.target = s.cur) = true := by
    simpa using hc
  change execKillEffect s = _
  unfold execKillEffect
  dsimp only
  rw [show (s.slot s.cur).killReq = some g from hk]
  dsimp only
  rw [if_neg hgo, show (s.slot s.cur).status = .live from hl]
  dsimp only
  rw [if_neg hno]

theorem killEffect_live {s : State} {g : BitVec 8} (hk : (here s).killReq = some g) (hg : (here s).gen = g)
    (hl : (here s).status = .live) (hc : ∀ c ∈ s.contexts, c.target ≠ s.cur) :
    ∃ t, exec .killEffect s = .next t ∧ (here t).status = .ending .killed 0#32 ∧ (here t).spend = 0#64 ∧
      (here t).vpend = 0#32 ∧ (here t).ppend = 0#8 ∧ (here t).park = none ∧ Due t (.taskEnd s.cur) ∧ SameBytes s t := by
  obtain ⟨hp, hcells, hm, hcur⟩ := sameStores_killSlot s s.cur
  obtain ⟨x, hx⟩ := slot_killSlot s s.cur
  have hh : here (killSlot s s.cur) = (killSlot s s.cur).slot s.cur := congrArg _ hcur
  refine ⟨_, exec_killEffect_live hk hg hl hc, ?_, ?_, ?_, ?_, ?_, due_pushE _ _, sameBytes_of_eq hp hcells hm⟩
  all_goals rw [hh, hx]

/-- Settles O53, step by step. -/
theorem slotStepsAndEnds : Obligations.SlotStepsAndEnds := by
  refine ⟨⟨fun s d hd _ _ => deferredTrap_taken hd, fun s p hp => ⟨parkResume_ends hp, parkResume_waits hp⟩, ?_,
    fun s m hp hf hd hm => refusedRetry_message hp hf hd hm⟩, ?_, poolGrant_wakes, fun s g hk =>
    ⟨killEffect_void hk, killEffect_live hk⟩⟩
  · intro s a sid gen pc dst f counts cons hp ha hsrc
    refine ⟨refusedRetry_withdrawn hp ha, fun hd hun => ⟨fun o ho => ?_, fun c o ho => ?_⟩⟩
    · exact refusedRetry_own hp ha hsrc hd hun ho
    · exact refusedRetry_remote hp ha hsrc hd hun ho
  · intro s u sid v f info hst hdef hw hclk s' hread hslots
    refine ⟨taskEnd_unjoined hst hdef hw hclk hread hslots, ?_⟩
    intro c o hf _ htop hal ho hc hp w h0 hlt
    exact taskEnd_joined hst hdef hw hclk hread hf htop hal ho hc hp h0 hlt

end Sys2Proof.Machine
end
section
/-! O58: what a step at each kind of turn runs. Time that passes, a translation and a read of physical memory leave slots,
cores and the issuing slot's number as they are, so that the turn finds them as they stood. -/

namespace Sys2Proof.Machine
open Claims

/-! ### What passing time, translating and reading leave unchanged -/

/-- Slots, cores, the issuing slot's number and the turns to come are those of another state. -/
def SameThreads (s t : State) : Prop := t.cur = s.cur ∧ t.slots = s.slots ∧ t.cores = s.cores ∧ t.agenda = s.agenda

theorem sameThreads_refl (s : State) : SameThreads s s := ⟨rfl, rfl, rfl, rfl⟩

theorem sameThreads_trans {s t u : State} (h : SameThreads s t) (k : SameThreads t u) : SameThreads s u := by
  obtain ⟨hu, hs, hc, ha⟩ := h
  obtain ⟨ku, ks, kc, ka⟩ := k
  exact ⟨ku.trans hu, ks.trans hs, kc.trans hc, ka.trans ha⟩

theorem sameThreads_snd {α : Type} {s t : State} {x : α × State} {a : α} (e : x = (a, t)) (h : SameThreads s x.2) :
    SameThreads s t := by
  rw [e] at h
  exact h

theorem sameThreads_foldl {α : Type} {f : State → α → State} (hf : ∀ s a, SameThreads s (f s a)) (l : List α) (s : State) :
    SameThreads s (l.foldl f s) :=
  foldl_keeps (p := SameThreads s) (fun t a h => sameThreads_trans h (hf t a)) (sameThreads_refl s)

theorem sameThreads_bump (s : State) (base ev k n : Nat) : SameThreads s (bump s base ev k n) := by
  rcases bump_eq s base ev k n with h | ⟨m, h⟩
  · rw [h]
    exact sameThreads_refl s
  · rw [h]
    exact ⟨rfl, rfl, rfl, rfl⟩

theorem sameThreads_count (s : State) (base ev k : Nat) : SameThreads s (count s base ev k) :=
  sameThreads_foldl (fun s n => sameThreads_bump s base ev k n) _ s

theorem sameThreads_setReg (s : State) (off : Nat) (v : Word) : SameThreads s (s.setReg off v) := ⟨rfl, rfl, rfl, rfl⟩

theorem sameThreads_rewriteCellPair (s : State) (cell t n f : Nat) : SameThreads s (rewriteCellPair s cell t n f) := by
  unfold rewriteCellPair keepHistory rewritePair
  iterate 6 refine sameThreads_trans ?_ (sameThreads_setReg _ _ _)
  exact sameThreads_refl s

theorem sameThreads_setCell (s : State) (n : Nat) (c : Cell) : SameThreads s (s.setCell n c) := ⟨rfl, rfl, rfl, rfl⟩

theorem sameThreads_settleStretch (s : State) (cell : Nat) : SameThreads s (settleStretch s cell) := by
  unfold settleStretch
  split
  · exact sameThreads_trans (sameThreads_setCell s cell _) (sameThreads_rewriteCellPair ..)
  · exact sameThreads_refl s

theorem sameThreads_settleStretches (s : State) : SameThreads s (settleStretches s) :=
  sameThreads_foldl (fun s (q : Nat × Cell) => sameThreads_settleStretch s q.1) _ s

theorem sameThreads_passTime (s : State) : SameThreads s (passTime s) := by
  unfold passTime
  extract_lets t _ _ t1 t2 _ t3 t4
  have h : SameThreads s t := sameThreads_settleStretches _
  have h1 : SameThreads t t1 := sameThreads_foldl (fun s _ => sameThreads_bump s ..) _ t
  have h2 : SameThreads t1 t2 := sameThreads_foldl (fun s _ => sameThreads_bump s ..) _ t1
  have h3 : SameThreads t2 t3 := sameThreads_foldl (fun s _ => sameThreads_bump s ..) _ t2
  have h4 : SameThreads t3 t4 := ⟨rfl, rfl, rfl, rfl⟩
  clear_value t t1 t2 t3 t4
  exact sameThreads_trans h <| sameThreads_trans h1 <| sameThreads_trans h2 <| sameThreads_trans h3 <|
    sameThreads_trans h4 <| sameThreads_foldl (fun s _ => sameThreads_bump s ..) _ t4

theorem sameThreads_physReadLine (s : State) (pa n key : Nat) : SameThreads s (physReadLine s pa n key).2 := by
  unfold physReadLine
  split <;> exact ⟨rfl, rfl, rfl, rfl⟩

theorem sameThreads_physReadFuel (k : Nat) (s : State) (pa n key : Nat) : SameThreads s (physReadFuel k s pa n key).2 := by
  induction k generalizing s pa n with
  | zero => exact sameThreads_refl s
  | succ k ih =>
    unfold physReadFuel
    split
    · exact sameThreads_refl s
    · exact sameThreads_trans (sameThreads_physReadLine s pa _ key) (ih _ _ _)

theorem sameThreads_physRead (s : State) (pa n key : Nat) : SameThreads s (physRead s pa n key).2 :=
  sameThreads_physReadFuel _ s pa n key

theorem sameThreads_walkFrom (lv : Nat) (s : State) (table va : Nat) : SameThreads s (walkFrom lv s table va).2 := by
  induction lv generalizing s table with
  | zero => exact sameThreads_refl s
  | succ lv ih =>
    unfold walkFrom
    extract_lets ix r pte size n group first back
    have hr : SameThreads s r.2 := sameThreads_physRead s _ _ _
    clear_value r
    split
    · exact sameThreads_refl s
    · split
      · exact hr
      · split
        · split <;> exact hr
        · split
          · exact hr
          · exact sameThreads_trans hr (ih _ _)

theorem sameThreads_walk (s : State) (d asid va : Nat) : SameThreads s (walk s d asid va).2 := by
  unfold walk
  extract_lets _ r _
  have hr : SameThreads s r.2 := sameThreads_physRead s _ _ _
  clear_value r
  split
  · exact sameThreads_refl s
  · split
    · exact sameThreads_refl s
    · split
      · exact hr
      · exact sameThreads_trans hr (sameThreads_walkFrom ..)

theorem sameThreads_translate (s : State) (p d asid va : Nat) (rd wr ex : Bool) :
    SameThreads s (translate s p d asid va rd wr ex).2 := by
  unfold translate
  extract_lets f
  have hf (pa : Nat) (pte : Word) (t : State) : SameThreads t (f pa pte t).2 := by
    change SameThreads t (ite _ _ _ : Xlate × State).2
    split <;> exact sameThreads_refl t
  have hw := sameThreads_trans (sameThreads_count s (diePerf d) 7 1) (sameThreads_walk (count s (diePerf d) 7 1) d asid va)
  clear_value f
  split
  · exact sameThreads_refl s
  · split
    · exact hf _ _ _
    · split
      next e => exact sameThreads_snd e hw
      next e => exact sameThreads_snd e hw
      next e => exact sameThreads_trans (sameThreads_trans (sameThreads_snd e hw) ⟨rfl, rfl, rfl, rfl⟩) (hf _ _ _)

theorem sameThreads_countSlice (s : State) (d line key attr : Nat) : SameThreads s (countSlice s d line key attr) := by
  unfold countSlice countL2
  split <;> exact sameThreads_count ..

/-! ### The turn that is chosen (R158) -/

theorem turnState_slot (s : State) (t : Turn) (rest : List Turn) (sid : Nat) :
    (turnState s t rest).slot sid = s.slot sid := by
  obtain ⟨-, hslots, -, -⟩ := sameThreads_passTime s
  exact congrArg (FMap.get Slot.init · sid) hslots

theorem turnState_core (s : State) (t : Turn) (rest : List Turn) (n : Nat) :
    (turnState s t rest).core n = s.core n := by
  obtain ⟨-, -, hcores, -⟩ := sameThreads_passTime s
  exact congrArg (FMap.get Core.init · n) hcores

/-- A turn that stands in no replay queue waits for none of them. -/
theorem replayBehind_unqueued (s : State) {t : Turn} (h : ∀ n, replayQueue (t, n) = none) : replayBehind s t = false := by
  unfold replayBehind
  simp only [List.any_eq_false]
  rintro f - hf
  simp only [Bool.and_eq_true, List.any_eq_true, decide_eq_true_eq] at hf
  obtain ⟨-, ⟨t', n⟩, -, ⟨rfl, hq⟩, -⟩ := hf
  rw [h n] at hq
  exact absurd hq (by decide)

theorem step_powered_some {s u : State} {i : Instr} (hp : s.powered = true) (h : nextInstr s = (some i, u)) :
    step s = exec i u := by
  unfold step
  rw [hp, Bool.true_or, if_pos rfl, h]

theorem step_powered_none {s u : State} (hp : s.powered = true) (h : nextInstr s = (none, u)) : step s = .next u := by
  unfold step
  rw [hp, Bool.true_or, if_pos rfl, h]

section
variable {s : State} {t : Turn} {rest : List Turn} (hp : s.powered = true) (ha : s.agenda = t :: rest)
include ha

theorem chooseTurn_agenda : chooseTurn (passTime s) = (some t, chosen s rest) := by
  obtain ⟨-, -, -, h⟩ := sameThreads_passTime s
  unfold chooseTurn
  rw [h, ha]
  rfl

theorem nextInstr_turn (hb : replayBehind (chosen s rest) t = false) :
    nextInstr s = turnInstr t (turnState s t rest) := by
  unfold nextInstr
  rw [chooseTurn_agenda ha]
  dsimp only
  rw [if_neg (by rw [hb]; exact Bool.false_ne_true)]
  rfl

theorem nextInstr_behind (hb : replayBehind (chosen s rest) t = true) :
    nextInstr s = (none, (chosen s rest).push [t]) := by
  unfold nextInstr
  rw [chooseTurn_agenda ha]
  dsimp only
  rw [if_pos hb]

include hp

theorem step_behind (hb : replayBehind (chosen s rest) t = true) : step s = .next ((chosen s rest).push [t]) :=
  step_powered_none hp (nextInstr_behind ha hb)

variable (hb : replayBehind (chosen s rest) t = false)
include hb

theorem step_runs {i : Instr} {u : State} (h : turnInstr t (turnState s t rest) = (some i, u)) : step s = exec i u :=
  step_powered_some hp ((nextInstr_turn ha hb).trans h)

theorem step_passes {u : State} (h : turnInstr t (turnState s t rest) = (none, u)) : step s = .next u :=
  step_powered_none hp ((nextInstr_turn ha hb).trans h)

end

/-! ### The fetch of a slot that issues (R14, R81, R85, R86, R108) -/

theorem issueTurn_issues {s : State} {sid : Nat} (h : Issues { s with cur := sid } sid) :
    issueTurn s sid = fetchAt { s with cur := sid } sid := by
  obtain ⟨hlive, hclk, hkill, hrem, hdef, hpark, hawait, hshoot, -⟩ := h
  unfold issueTurn isRemoved
  simp [Slot.isLive, Slot.running, cellOfSlot, *]

section
variable {s : State} {sid : Nat}

theorem fetchAt_noncanonical (h : canonical (s.slot sid).pc = false) :
    fetchAt s sid = (none, trapNow s sid cPage 2 (s.slot sid).pc) := by
  unfold fetchAt
  dsimp only
  rw [h, if_pos (by decide)]

theorem fetchAt_upper (h : canonical (s.slot sid).pc = true) (hu : (s.slot sid).pc.getLsbD 56 = true) :
    fetchAt s sid = (none, trapNow s sid cAccess 0 (s.slot sid).pc) := by
  unfold fetchAt
  dsimp only
  rw [h, if_neg (by decide), if_pos hu]

theorem fetchAt_mapped {u v : State} {pa key attr w : Nat} (h : canonical (s.slot sid).pc = true)
    (hu : (s.slot sid).pc.getLsbD 56 = false)
    (ht : translate s (s.partN (sid / 64)) (dieOf (sid / 64)) (s.casid (sid / 64)) (s.slot sid).pc.toNat false false true =
      (.ok pa key attr, u))
    (he : physErr u pa 4 = false)
    (hr : physRead (countSlice u (dieOf (sid / 64)) (lineOf pa) key attr) pa 4 key = (w, v)) :
    fetchAt s sid = decodeFor v sid (BitVec.ofNat 32 w) := by
  unfold fetchAt cellOfSlot
  dsimp only
  rw [h, hu, if_neg (by decide), if_neg (by decide), ht]
  dsimp only
  rw [he, if_neg (by decide), hr]

theorem decodeFor_ok {w : BitVec 32} {i : Instr} (hc : (s.slot sid).cap = none) (h : decode w = .ok i) :
    decodeFor s sid w = (some i, s) := by
  unfold decodeFor
  rw [h]
  dsimp only
  rw [hc]

theorem decodeFor_error {w : BitVec 32} {e : DecodeError} (h : decode w = .error e) :
    decodeFor s sid w = (none, trapNow s sid cIllegal e.detail (w.setWidth 64)) := by
  unfold decodeFor
  rw [h]

end

theorem fetch_keeps_cur {s u v : State} {p d asid va pa key attr n w line : Nat} {x : Xlate} {rd wr ex : Bool}
    (ht : translate s p d asid va rd wr ex = (x, u)) (hr : physRead (countSlice u d line key attr) pa n key = (w, v)) :
    v.cur = s.cur := by
  have hu : SameThreads s u := sameThreads_snd ht (sameThreads_translate ..)
  have hv : SameThreads (countSlice u d line key attr) v := sameThreads_snd hr (sameThreads_physRead ..)
  obtain ⟨hcur, -⟩ := sameThreads_trans hu (sameThreads_trans (sameThreads_countSlice ..) hv)
  exact hcur

/-! ### The trap that the issuing slot takes (R80) -/

theorem trapSlot_trapped (x : Slot) (c d : Nat) (v : Word) : Trapped x (trapSlot x c d v false) c d v := by
  obtain ⟨hcause, hepc, hval⟩ := trapSlot_record x c d v false
  refine ⟨hcause, hepc, hval, fun ⟨hh, hv⟩ => trapSlot_handled hh hv c d v false,
    fun h => (trapSlot_unhandled h c d v false).symm, ?_⟩
  unfold trapSlot
  dsimp only
  split <;> rfl

theorem takesTrap_trapNow {s : State} {sid : Nat} (hs : s.cur = sid) (hv : vecOpen s sid = false) (c d : Nat) (v : Word) :
    TakesTrap s (trapNow s sid c d v) c d v := by
  subst hs
  rw [trapNow, if_neg (by rw [hv]; exact Bool.false_ne_true)]
  refine ⟨?_, fun j hj => takeTrap_slot_ne s c d v false hj, ?_⟩
  · rcases takeTrap_cases s s.cur c d v false with h | h <;> rw [h] <;> rfl
  · change Trapped (s.slot s.cur) ((takeTrap s s.cur c d v false).slot s.cur) c d v
    rw [takeTrap_slot_same]
    exact trapSlot_trapped ..

theorem ofNat_setWidth_word (w : Nat) : (BitVec.ofNat 32 w).setWidth 64 = BitVec.ofNat 64 (w % 2 ^ 32) := by
  apply BitVec.eq_of_toNat_eq
  rw [BitVec.toNat_setWidth, BitVec.toNat_ofNat, BitVec.toNat_ofNat]

/-! ### A step at each kind of turn -/

section
variable {s : State} {sid : Nat} {rest : List Turn} (hp : s.powered = true) (ha : s.agenda = .issue sid :: rest)
  (hi : Issues { turnState s (.issue sid) rest with cur := sid } sid)
include hp ha hi

theorem step_fetches {i : Instr} {u : State}
    (h : fetchAt { turnState s (.issue sid) rest with cur := sid } sid = (some i, u)) : step s = exec i u :=
  step_runs hp ha (replayBehind_unqueued _ fun _ => rfl) ((issueTurn_issues hi).trans h)

theorem step_fetches_none {u : State}
    (h : fetchAt { turnState s (.issue sid) rest with cur := sid } sid = (none, u)) : step s = .next u :=
  step_passes hp ha (replayBehind_unqueued _ fun _ => rfl) ((issueTurn_issues hi).trans h)

theorem step_pc_traps (hv : vecOpen { turnState s (.issue sid) rest with cur := sid } sid = false) :
    (canonical (s.slot sid).pc = false → ∃ t, step s = .next t ∧
      TakesTrap { turnState s (.issue sid) rest with cur := sid } t 8 2 (s.slot sid).pc) ∧
    (canonical (s.slot sid).pc = true → (s.slot sid).pc.getLsbD 56 = true → ∃ t, step s = .next t ∧
      TakesTrap { turnState s (.issue sid) rest with cur := sid } t 9 0 (s.slot sid).pc) := by
  rw [← turnState_slot s (.issue sid) rest sid]
  exact ⟨fun h => ⟨_, step_fetches_none hp ha hi (fetchAt_noncanonical h), takesTrap_trapNow rfl hv 8 2 _⟩,
    fun h hu => ⟨_, step_fetches_none hp ha hi (fetchAt_upper h hu), takesTrap_trapNow rfl hv 9 0 _⟩⟩

end

theorem turnInstr_copy {s : State} {core : Nat} {c : Cmd} {q : List Cmd} (h : (s.core core).cq = c :: q) :
    turnInstr (.copy core) s = (decodeCommand c.word, { s with cur := 16 * core }) := by
  unfold turnInstr
  dsimp only
  rw [h]

theorem turnInstr_matrix {s : State} {cell core : Nat} {c : Cmd} (h : matrixPick s cell = some (core, c)) :
    turnInstr (.matrix cell) s = (decodeCommand c.word, { s with cur := 16 * core }) := by
  unfold turnInstr
  dsimp only
  rw [h]

theorem turnInstr_control {s : State} {core : Nat} {cp : Bool} {w : CmdWord} (h : controlWord s core cp = some w) :
    turnInstr (.control core cp) s = (decodeCommand w, { s with cur := 16 * core + cp.toNat }) := by
  unfold turnInstr
  dsimp only
  rw [h]

/-- Settles O58, one kind of turn after the other. -/
theorem stepRunsDecoded : Obligations.StepRunsDecoded := by
  refine ⟨?issue, ?illegal, fun s sid rest hp ha hi hv => step_pc_traps hp ha hi hv, ?copy, ?matrix, ?control, ?event, ?later⟩
  case issue =>
    intro s u v sid pa key attr w i rest hp ha p x hi hc hu ht he hr hcap hd
    have hx : p.slot sid = x := turnState_slot s (.issue sid) rest sid
    rw [← hx] at hc hu ht
    exact step_fetches hp ha hi ((fetchAt_mapped hc hu ht he hr).trans (decodeFor_ok hcap hd))
  case illegal =>
    intro s u v sid pa key attr w e rest hp ha p x hi hc hu ht he hr hv hd
    have hx : p.slot sid = x := turnState_slot s (.issue sid) rest sid
    rw [← hx] at hc hu ht
    obtain rfl : v.cur = sid := fetch_keeps_cur ht hr
    rw [← ofNat_setWidth_word]
    exact ⟨_, step_fetches_none hp ha hi ((fetchAt_mapped hc hu ht he hr).trans (decodeFor_error hd)),
      takesTrap_trapNow rfl hv 1 e.detail _⟩
  case copy =>
    intro s core c q i rest hp ha hq hd
    rw [← turnState_core s (.copy core) rest core] at hq
    exact step_runs hp ha (replayBehind_unqueued _ fun _ => rfl) (by rw [turnInstr_copy hq, hd])
  case matrix =>
    intro s cell core c i rest hp ha hm hd
    exact step_runs hp ha (replayBehind_unqueued _ fun _ => rfl) (by rw [turnInstr_matrix hm, hd])
  case control =>
    intro s core cp w i rest hp ha hw hd
    exact step_runs hp ha (replayBehind_unqueued _ fun _ => rfl) (by rw [turnInstr_control hw, hd])
  case event => exact fun s i rest hp ha => ⟨fun hb => step_runs hp ha hb rfl, step_behind hp ha⟩
  case later => exact fun s l rest hp ha => ⟨fun hb => step_passes hp ha hb rfl, step_behind hp ha⟩

end Sys2Proof.Machine
end
section
/-! O59: what the state right after reset holds: nothing is listed in it, so that every part stands at its reset value. -/

namespace Sys2Proof.Machine

/-! ### Parts of which the reset state lists nothing -/

@[simp] theorem reset_slot (sid : Nat) : State.reset.slot sid = Slot.init := rfl

@[simp] theorem reset_cell (c : Nat) : State.reset.cell c = Cell.init := rfl

@[simp] theorem reset_reg (off : Nat) : State.reset.reg off = regReset off := rfl

theorem memoryCanonical_reset : Safety.MemoryCanonical State.reset :=
  ⟨canonical_reset, fun _ h => absurd h List.not_mem_nil, fun _ h => absurd h List.not_mem_nil⟩

/-! ### A cell at reset (R54, R76, R89, R169, R178, R197) -/

theorem entry_init (f : Nat) : Loc.entry Cell.init f = DirEntry.init := rfl

/-- Every frame of a new cell is of class zero, whose words read full (R172). -/
theorem full_init (o : Nat) : Loc.full Cell.init o = true := by
  unfold Loc.full
  dsimp only
  rw [entry_init]
  rfl

theorem accOf_init (n : Nat) : Cell.init.accOf n = Acc.init := rfl

/-! ### Reset values by offset (R163, R187, R213, R219) -/

theorem regReset_die {d o : Nat} (hd : d < 4) (ho : o < 0x10000000) : regReset (dieBase d + o) = wrap64 (dieReset o) := by
  have hlt : dieBase d + o < pkgBase := by
    unfold dieBase pkgBase
    omega
  have hmod : (dieBase d + o) % 0x10000000 = o := by
    unfold dieBase
    omega
  rw [regReset, if_pos hlt, hmod]

theorem regReset_pkg {o : Nat} (ho : o < 0x10000000) : regReset (pkgBase + o) = wrap64 (pkgReset o) := by
  rw [regReset, if_neg (by omega), if_pos (by omega), Nat.add_sub_cancel_left]

theorem dieOf_lt {c : Nat} (hc : c < 960) : dieOf c < 4 := by
  unfold dieOf
  omega

theorem cellIx_lt (c : Nat) : cellIx c < 240 := Nat.mod_lt _ (by decide)

/-- The words of a cell's power block: CEIL at 8, AGEMON at 16. -/
theorem dieReset_power {k o : Nat} (hk : k < 240) (ho : o < 0x40) :
    dieReset (0x30000 + 0x40 * k + o) = if o = 8 then 0x68 else if o = 0x10 then 0xFFFFFFFF else 0 := by
  have hmod : (0x30000 + 0x40 * k + o) % 0x40 = o := by omega
  unfold dieReset
  iterate 3 rw [if_neg (by omega)]
  rw [if_neg (by simp only [Bool.and_eq_true, decide_eq_true_eq]; omega), if_neg (by omega),
    if_neg (by simp only [Bool.and_eq_true, decide_eq_true_eq]; omega),
    if_pos (by simp only [Bool.and_eq_true, decide_eq_true_eq]; omega), hmod]

/-- The third word of a cell's pair holds its clock's frequency. -/
theorem dieReset_pair {k : Nat} (hk : k < 240) : dieReset (0x7000 + 0x20 * k + 0x10) = 40 := by
  unfold dieReset
  iterate 3 rw [if_neg (by omega)]
  rw [if_neg (by simp only [Bool.and_eq_true, decide_eq_true_eq]; omega), if_neg (by omega),
    if_pos (by simp only [Bool.and_eq_true, decide_eq_true_eq]; omega)]

theorem regReset_power {c o : Nat} (hc : c < 960) (ho : o < 0x40) :
    regReset (powerOff c + o) = wrap64 (if o = 8 then 0x68 else if o = 0x10 then 0xFFFFFFFF else 0) := by
  have hk := cellIx_lt c
  rw [← dieReset_power hk ho, ← regReset_die (dieOf_lt hc) (by omega), powerOff]
  congr 1
  omega

theorem regReset_cellPair {c : Nat} (hc : c < 960) : regReset (cellPair c + 0x10) = 40#64 := by
  have hk := cellIx_lt c
  have h := regReset_die (o := 0x7000 + 0x20 * cellIx c + 0x10) (dieOf_lt hc) (by omega)
  rw [dieReset_pair hk] at h
  rw [cellPair, Nat.add_assoc, Nat.add_assoc, ← Nat.add_assoc 0x7000, h]
  rfl

theorem pkgReset_part {p : Nat} (hp : p < 16) : pkgReset (0x100000 + 0x100 * p) = 0 := by
  unfold pkgReset
  rw [if_neg (by omega), if_neg (by simp only [Bool.and_eq_true, decide_eq_true_eq]; omega),
    if_neg (by simp only [Bool.and_eq_true, decide_eq_true_eq]; omega)]

theorem pkgReset_pctl {p : Nat} (hp : p < 16) : pkgReset (0x170000 + 8 * p) = 100 * 256 := by
  unfold pkgReset
  rw [if_neg (by omega), if_pos (by simp only [Bool.and_eq_true, decide_eq_true_eq]; omega)]

theorem reset_partWord {p : Nat} (hp : p < 16) : State.reset.partWord p 0 = 0#64 := by
  have h := regReset_pkg (o := 0x100000 + 0x100 * p) (by omega)
  rw [pkgReset_part hp] at h
  rw [State.partWord, reset_reg, partBase, Nat.mul_zero, Nat.add_zero, Nat.add_assoc, h]
  rfl

theorem reset_pctl {p : Nat} (hp : p < 16) : State.reset.reg (pctlOff p) = 0x6400#64 := by
  have h := regReset_pkg (o := 0x170000 + 8 * p) (by omega)
  rw [pkgReset_pctl hp] at h
  rw [reset_reg, pctlOff, Nat.add_assoc, h]
  rfl

/-- Settles O59, part by part. -/
theorem resetState : Obligations.ResetState := by
  refine ⟨memoryCanonical_reset, fun sid => ?slot, fun c => ?cell, fun p hp => ?part, fun d hd => ?die, fun c hc => ?power,
    reset_reg 0x40130000⟩
  case slot =>
    rw [reset_slot]
    exact ⟨rfl, rfl⟩
  case cell =>
    rw [reset_cell]
    exact ⟨rfl, rfl, rfl, rfl, rfl, full_init, fun f => congrArg DirEntry.cls (entry_init f),
      fun n => ⟨congrArg Acc.data (accOf_init n), congrArg Acc.lock (accOf_init n)⟩⟩
  case part =>
    unfold State.committed State.partValid State.stopped State.ageLimit
    rw [reset_partWord hp, reset_pctl hp]
    decide
  case die =>
    refine ⟨?_, ?_, ?_⟩
    all_goals
      rw [reset_reg, regReset_die hd (by omega)]
      rfl
  case power =>
    refine ⟨?_, ?_, regReset_cellPair hc⟩
    all_goals
      rw [reset_reg, regReset_power hc (by omega)]
      rfl

end Sys2Proof.Machine
end
section
/-! O19: the rows of an accumulator that `accrd` reads and `accwr` replaces, and the trap without the claim. -/

namespace Sys2Proof.Machine
open Claims

/-! ### Counting an event leaves the registers outside its block of counters -/

theorem reg_bump_apart (s : State) {base off : Nat} (ev k : Nat) {n : Nat} (hn : n < 8) (hb : base % 0x100 = 0)
    (h : off / 0x100 ≠ base / 0x100) : (bump s base ev k n).reg off = s.reg off := by
  have h0 : off ≠ base + 0x40 + 8 * n := by omega
  have h1 : off ≠ base + 8 * n := by omega
  unfold bump
  dsimp only
  split
  · split
    · rw [State.reg_setReg_ne _ _ h1, State.reg_setReg_ne _ _ h0]
    · exact State.reg_setReg_ne _ _ h0
  · rfl

theorem reg_count_apart (s : State) {base off : Nat} (ev k : Nat) (hb : base % 0x100 = 0)
    (h : off / 0x100 ≠ base / 0x100) : (count s base ev k).reg off = s.reg off := by
  have fold (l : List Nat) (hl : ∀ n ∈ l, n < 8) (s : State) :
      (l.foldl (fun s n => bump s base ev k n) s).reg off = s.reg off := by
    induction l generalizing s with
    | nil => rfl
    | cons n l ih =>
      rw [List.foldl_cons, ih fun m hm => hl m (List.mem_cons_of_mem n hm),
        reg_bump_apart s ev k (hl n List.mem_cons_self) hb h]
  exact fold _ (fun n => List.mem_range.mp) s

theorem cellPerf_aligned (cell : Nat) : cellPerf cell % 0x100 = 0 := by
  unfold cellPerf dieBase
  omega

/-! ### The completion of an instruction -/

/-- An instruction that gives its slot new contents and goes on changes nothing else (R194 aside). -/
theorem onlyIssuer_done (s : State) (x : Slot) (ev : Nat) :
    OnlyIssuer s (count (done s x) (cellPerf (home s)) ev 1) := by
  refine ⟨?_, fun j hj => ?_, fun off ho => ?_⟩
  · obtain ⟨m, h⟩ := count_eq (done s x) (cellPerf (home s)) ev 1
    rw [h]
    rfl
  · rw [count_slot]
    exact State.slot_setSlot_ne s x.next hj
  · rw [reg_count_apart _ ev 1 (cellPerf_aligned _) ho]
    rfl

theorem here_done (s : State) (x : Slot) (base ev : Nat) : here (count (done s x) base ev 1) = x.next := by
  change (count (done s x) base ev 1).slot (count (done s x) base ev 1).cur = x.next
  rw [count_slot, count_cur]
  exact State.slot_setSlot_same s s.cur x.next

/-! ### Packed values (R37) -/

theorem testBit_lane {w j : Nat} (v i : Nat) (hj : j < w) : (lane w v i).testBit j = v.testBit (w * i + j) := by
  rw [lane, Nat.testBit_mod_two_pow, Nat.testBit_shiftRight, decide_eq_true hj, Bool.true_and]

theorem lane_packLanes (w : Nat) (xs : List Nat) (i : Nat) : lane w (packLanes w xs) i = xs.getD i 0 % 2 ^ w := by
  induction xs generalizing i with
  | nil => simp [packLanes, lane]
  | cons x xs ih =>
    cases i with
    | zero => simp [packLanes, lane, Nat.add_mul_mod_self_left]
    | succ i =>
      have hx : (x % 2 ^ w + 2 ^ w * packLanes w xs) >>> w = packLanes w xs := by
        rw [Nat.shiftRight_eq_div_pow, Nat.add_mul_div_left _ _ (Nat.two_pow_pos w),
          Nat.div_eq_of_lt (Nat.mod_lt _ (Nat.two_pow_pos w)), Nat.zero_add]
      rw [List.getD_cons_succ, ← ih i, lane, lane, packLanes, Nat.mul_succ, Nat.add_comm (w * i), Nat.shiftRight_add, hx]

theorem packLanes_lt (w : Nat) (xs : List Nat) : packLanes w xs < 2 ^ (w * xs.length) := by
  induction xs with
  | nil => simp [packLanes]
  | cons x xs ih =>
    have hx : x % 2 ^ w < 2 ^ w := Nat.mod_lt _ (Nat.two_pow_pos w)
    rw [List.length_cons, Nat.mul_succ, Nat.add_comm (w * xs.length), Nat.pow_add, packLanes]
    calc x % 2 ^ w + 2 ^ w * packLanes w xs < 2 ^ w * (packLanes w xs + 1) := by rw [Nat.mul_succ]; omega
      _ ≤ 2 ^ w * 2 ^ (w * xs.length) := Nat.mul_le_mul_left _ ih

/-- An entry of a bit vector is a lane of its number. -/
theorem toNat_extract_lane {n : Nat} (x : BitVec n) (w i : Nat) : (x.extractLsb' (w * i) w).toNat = lane w x.toNat i :=
  BitVec.extractLsb'_toNat _ _ x

/-! ### Rows of an accumulator (R54) -/

/-- The values that four rows take from a vector register. -/
def rowValues (v : VReg) : List Nat := (lanes 32 v.toNat 128).map accCanon

theorem rowValues_length (v : VReg) : (rowValues v).length = 128 := by simp [rowValues, lanes]

theorem accCanon_lt (b : Nat) : accCanon b < 2 ^ 32 := by
  have hb : b % 2 ^ 32 < 2 ^ 32 := Nat.mod_lt _ (by decide)
  unfold accCanon
  split
  · decide
  · split
    · decide
    · exact hb

theorem lane_rowValues (v : VReg) {i : Nat} (hi : i < 128) :
    lane 32 (packLanes 32 (rowValues v)) i = accCanon (v.extractLsb' (32 * i) 32).toNat := by
  have hget : (rowValues v).getD i 0 = accCanon (lane 32 v.toNat i) := by simp [rowValues, lanes, List.getD, hi]
  rw [lane_packLanes, hget, Nat.mod_eq_of_lt (accCanon_lt _), toNat_extract_lane]

/-- Each bit of an accumulator with four rows replaced is theirs or the old one. -/
theorem getLsbD_withRows (a : BitVec 32768) {k i : Nat} (v : VReg) (hi : i < 32768) :
    (withRows a k v).getLsbD i = if i / 4096 = k then (packLanes 32 (rowValues v)).testBit (i - 4096 * k) else a.getLsbD i := by
  have hv : packLanes 32 (rowValues v) < 2 ^ (32 * (rowValues v).length) := packLanes_lt 32 (rowValues v)
  have hlen : (rowValues v).length = 128 := rowValues_length v
  unfold withRows
  extract_lets rows m
  have hr : rows = packLanes 32 (rowValues v) := rfl
  rw [hr]
  simp only [m, BitVec.getLsbD_or, BitVec.getLsbD_and, BitVec.getLsbD_not, BitVec.getLsbD_ofNat, Nat.testBit_shiftLeft,
    Nat.testBit_two_pow_sub_one, hi, decide_true, Bool.true_and]
  split
  case isTrue h =>
    have h0 : 4096 * k ≤ i := by omega
    have h1 : i - 4096 * k < 4096 := by omega
    simp [h0, h1]
  case isFalse h =>
    by_cases h0 : 4096 * k ≤ i
    · have h1 : 32 * (rowValues v).length ≤ i - 4096 * k := by omega
      have h2 : (packLanes 32 (rowValues v)).testBit (i - 4096 * k) = false :=
        Nat.testBit_lt_two_pow (Nat.lt_of_lt_of_le hv (Nat.pow_le_pow_right (by decide) h1))
      have h3 : 4096 ≤ i - 4096 * k := by omega
      simp [h0, h2, h3]
    · simp [h0]

theorem withRows_inside (a : BitVec 32768) {k i : Nat} (v : VReg) (hk : k < 8) (hi : i < 128) :
    ((withRows a k v).extractLsb' (32 * (128 * k + i)) 32).toNat = accCanon (v.extractLsb' (32 * i) 32).toNat := by
  rw [← lane_rowValues v hi]
  apply Nat.eq_of_testBit_eq
  intro j
  rw [BitVec.testBit_toNat, BitVec.getLsbD_extractLsb']
  by_cases hj : j < 32
  · have hin : (32 * (128 * k + i) + j) / 4096 = k := by omega
    have hat : 32 * (128 * k + i) + j - 4096 * k = 32 * i + j := by omega
    rw [getLsbD_withRows a v (by omega), if_pos hin, hat, testBit_lane _ _ hj, decide_eq_true hj, Bool.true_and]
  · rw [decide_eq_false hj, Bool.false_and, lane, Nat.testBit_mod_two_pow, decide_eq_false hj, Bool.false_and]

theorem withRows_outside (a : BitVec 32768) {k i : Nat} (v : VReg) (hi : i < 1024) (h : i / 128 ≠ k) :
    (withRows a k v).extractLsb' (32 * i) 32 = a.extractLsb' (32 * i) 32 := by
  apply BitVec.eq_of_getLsbD_eq
  intro j hj
  have hout : (32 * i + j) / 4096 ≠ k := by omega
  rw [BitVec.getLsbD_extractLsb', BitVec.getLsbD_extractLsb', getLsbD_withRows a v (by omega), if_neg hout]

/-! ### The checks of `accrd` and `accwr` (R308) -/

theorem coreOf_cell (s : State) : coreOf s.cur / 4 = home s := Nat.div_div_eq_div_mul s.cur 16 4

theorem boundV_one {x : Slot} {r : Nat} (h : r < x.nv) : boundV x [r] = .ok () := by
  rw [boundV, if_pos h, boundV]

theorem accFree_ok {s : State} {c : BitVec 3} (h : AccFree s c) : accFree s (coreOf s.cur) c.toNat = .ok () := by
  obtain ⟨-, hq, hl, hf⟩ := h
  have hany : (s.core (coreOf s.cur)).mq.any (fun e => namesAcc c.toNat e.word) = false := by
    rw [List.any_eq_false]
    exact fun e he => by simp [hq e he]
  have hlock : ((s.cell (coreOf s.cur / 4)).accOf (8 * (coreOf s.cur % 4) + c.toNat)).lock = false := by
    rw [coreOf_cell]
    exact hl
  rw [accFree, hany, hlock, hf]
  rfl

/-- An accumulator with four rows replaced by a register's values and their block's error mark clear. -/
def accWritten (a : Acc) (k : Nat) (v : VReg) : Acc := { a with data := withRows a.data k v, err := setBit a.err k false }

/-- The state in which the issuing slot's `accwr` has replaced the rows. -/
def rowsWritten (s : State) (c k : BitVec 3) (v : VReg) : State :=
  s.modCell (home s) fun cl => cl.setAcc (8 * (coreOf s.cur % 4) + c.toNat) (accWritten (accAt s c) k.toNat v)

theorem exec_accrd {s : State} {d : BitVec 5} {c k : BitVec 3} (hd : d.toNat < (here s).nv) (hp : (here s).vP d.toNat = false)
    (hr : vecReader s s.cur [d.toNat] = false) (hf : AccFree s c) (he : (accAt s c).err.getLsbD k.toNat = false) :
    exec (.accrd d c k) s = .next (count (done s (((here s).oweV d.toNat).fillV d.toNat (accRows (accAt s c).data k.toNat)))
      (cellPerf (home s)) 2 1) := by
  have hclaim : claimed (here s) c.toNat = .ok () := guardH_ok.mpr hf.1
  have hfree : freeD (here s) (64 + d.toNat) = .ok () := by
    rw [freeD, if_neg (by omega), Nat.add_sub_cancel_left, hp]
    rfl
  have hread : vecWriters s s.cur [d.toNat] = .ok () := by
    rw [vecWriters, hr]
    rfl
  change execAccrd d c k s = _
  unfold execAccrd
  simp only [boundV_one hd, hclaim, hfree, hread, accFree_ok hf, res_ok_bind, coreOf_cell]
  change finish s (guardH (!(accAt s c).err.getLsbD k.toNat) _ >>= _) = _
  rw [he]
  rfl

theorem exec_accwr {s : State} {d : BitVec 5} {c k : BitVec 3} (hd : d.toNat < (here s).nv) (hF : (here s).vF d.toNat = true)
    (he : (here s).verr.getLsbD d.toNat = false) (hf : AccFree s c) :
    exec (.accwr d c k) s =
      .next (count (done (rowsWritten s c k ((here s).vval d.toNat)) (here s)) (cellPerf (home s)) 2 1) := by
  have hclaim : claimed (here s) c.toNat = .ok () := guardH_ok.mpr hf.1
  have hpeek : peekV (here s) d.toNat = .ok ((here s).vval d.toNat) := by
    rw [peekV, hF]
    rfl
  have hsound : soundV (here s) d.toNat = .ok () := by
    rw [soundV, he]
    rfl
  change execAccwr d c k s = _
  unfold execAccwr
  simp only [boundV_one hd, hclaim, hpeek, hsound, accFree_ok hf, res_ok_bind, coreOf_cell]
  rfl

theorem unclaimed_traps {s : State} {c : BitVec 3} (h : (here s).aown.getLsbD c.toNat = false) :
    claimed (here s) c.toNat = .error (.trap cAccess 1 (c.setWidth 64)) := by
  have hc : wrap64 c.toNat = c.setWidth 64 := BitVec.ofNat_toNat 64 c
  rw [claimed, h, hc]
  rfl

theorem exec_accrd_unclaimed {s : State} {d : BitVec 5} {c : BitVec 3} (k : BitVec 3) (hd : d.toNat < (here s).nv)
    (h : (here s).aown.getLsbD c.toNat = false) :
    exec (.accrd d c k) s = .next (trapNow s s.cur cAccess 1 (c.setWidth 64)) := by
  change execAccrd d c k s = _
  unfold execAccrd
  simp only [boundV_one hd, unclaimed_traps h, res_ok_bind, res_error_bind, finish_trap]

theorem exec_accwr_unclaimed {s : State} {d : BitVec 5} {c : BitVec 3} (k : BitVec 3) (hd : d.toNat < (here s).nv)
    (h : (here s).aown.getLsbD c.toNat = false) :
    exec (.accwr d c k) s = .next (trapNow s s.cur cAccess 1 (c.setWidth 64)) := by
  change execAccwr d c k s = _
  unfold execAccwr
  simp only [boundV_one hd, unclaimed_traps h, res_ok_bind, res_error_bind, finish_trap]

/-! ### The state after `accwr` -/

theorem sameBytes_rowsWritten (s : State) (c k : BitVec 3) (v : VReg) : SameBytes s (rowsWritten s c k v) :=
  sameBytes_of_mem rfl
    (fun n => cell_modCell_mem s (home s) n
      (f := fun cl => cl.setAcc (8 * (coreOf s.cur % 4) + c.toNat) (accWritten (accAt s c) k.toNat v)) rfl) rfl

theorem accAt_rowsWritten {s t : State} {c k : BitVec 3} {v : VReg} (ht : t.cells = (rowsWritten s c k v).cells) :
    accAt { t with cur := s.cur } c = accWritten (accAt s c) k.toNat v := by
  have hcell : State.cell { t with cur := s.cur } (home s) = (rowsWritten s c k v).cell (home s) := by
    unfold State.cell
    rw [ht]
  change (State.cell { t with cur := s.cur } (home s)).accOf _ = _
  rw [hcell, rowsWritten, State.modCell_eq, State.cell_setCell_same]
  exact FMap.get_put_same Acc.init (s.cell (home s)).acc _ _

/-- Settles O19: each instruction's checks pass or the claim's fails, and rows are read and replaced bit by bit. -/
theorem accumulatorRows : Obligations.AccumulatorRows := by
  refine ⟨fun s d c k hd hp hr hf he => ?_, fun s d c k hd hF he hf => ?_, fun s d c k hd hc hv => ⟨?_, ?_⟩⟩
  · refine ⟨_, exec_accrd hd hp hr hf he, onlyIssuer_done s _ 2, ?_, ?_, ?_⟩
    · rw [here_done]
      rfl
    · rw [here_done]
      exact Slot.getLsbD_setBit_same _ true d.isLt
    · rw [here_done]
      exact Slot.vval_putV_same ((here s).oweV d.toNat) _ d.isLt
  · refine ⟨_, exec_accwr hd hF he hf, sameBytes_trans (sameBytes_rowsWritten s c k ((here s).vval d.toNat))
      (sameBytes_of_eq (by simp [done]) (by simp [done]) (by simp [done])), here_done (rowsWritten s c k _) _ _ _,
      fun j hj => ?_, ?_⟩
    · rw [count_slot]
      exact State.slot_setSlot_ne _ _ hj
    · rw [accAt_rowsWritten (s := s) (k := k) (v := (here s).vval d.toNat) (by rw [count_cells]; rfl)]
      exact ⟨Slot.getLsbD_setBit_same _ false k.isLt, fun i hi => withRows_inside _ _ k.isLt hi,
        fun i hi h => withRows_outside _ _ hi h⟩
  · exact ⟨_, exec_accrd_unclaimed k hd hc, takesTrap_trapNow rfl hv cAccess 1 _⟩
  · exact ⟨_, exec_accwr_unclaimed k hd hc, takesTrap_trapNow rfl hv cAccess 1 _⟩

end Sys2Proof.Machine
end
section
/-! What translating, reading and writing physical memory leave of the ports: the cells with their copies, the column
reductions, the tokens on their way, and what goes to peers and comes from them. One lemma for each function of the model, in
the order in which they call one another. -/

namespace Sys2Proof.Machine
open Claims

/-- The parts of a state that the ports of the cells and of the package act on. -/
structure Ports where
  cells : FMap Cell
  colls : List Coll
  tokens : List Token
  seen : List ((Nat × Nat × Nat × Nat) × BitVec 5)
  sent : List SentChunk

def ports (s : State) : Ports := ⟨s.cells, s.colls, s.tokens, s.peerSeen, s.peerSent⟩

theorem cells_of_ports {s t : State} (h : ports t = ports s) : t.cells = s.cells := congrArg Ports.cells h
theorem colls_of_ports {s t : State} (h : ports t = ports s) : t.colls = s.colls := congrArg Ports.colls h
theorem tokens_of_ports {s t : State} (h : ports t = ports s) : t.tokens = s.tokens := congrArg Ports.tokens h
theorem peerSeen_of_ports {s t : State} (h : ports t = ports s) : t.peerSeen = s.peerSeen := congrArg Ports.seen h
theorem peerSent_of_ports {s t : State} (h : ports t = ports s) : t.peerSent = s.peerSent := congrArg Ports.sent h

theorem copyOf_of_ports {s t : State} (h : ports t = ports s) (cell n : Nat) : t.copyOf cell n = s.copyOf cell n := by
  unfold State.copyOf State.cell
  rw [cells_of_ports h]

/-- The state of a pair that is known by its parts. -/
theorem ports_snd {α : Type} {x : α × State} {a : α} {t : State} (e : x = (a, t)) : ports t = ports x.2 := by rw [e]

theorem ports_foldl {α : Type} {f : State → α → State} (hf : ∀ s a, ports (f s a) = ports s) (l : List α) (s : State) :
    ports (l.foldl f s) = ports s :=
  foldl_keeps (p := fun t => ports t = ports s) (fun t a h => (hf t a).trans h) rfl

theorem ports_foldl_fst {α β : Type} {f : State × β → α → State × β} (hf : ∀ q a, ports (f q a).1 = ports q.1) (l : List α)
    {q : State × β} : ports (l.foldl f q).1 = ports q.1 :=
  foldl_keeps (p := fun t => ports t.1 = ports q.1) (fun t a h => (hf t a).trans h) rfl

theorem ports_foldl_snd {α β : Type} {f : β × State → α → β × State} (hf : ∀ q a, ports (f q a).2 = ports q.2) (l : List α)
    (q : β × State) : ports (l.foldl f q).2 = ports q.2 :=
  foldl_keeps (p := fun t => ports t.2 = ports q.2) (fun t a h => (hf t a).trans h) rfl

/-! ### Counters and translation (R105-R110, R194) -/

@[simp] theorem ports_count (s : State) (b e k : Nat) : ports (count s b e k) = ports s := by
  obtain ⟨m, h⟩ := count_eq s b e k
  rw [h]
  rfl

@[simp] theorem ports_physReadLine (s : State) (pa n key : Nat) : ports (physReadLine s pa n key).2 = ports s := by
  unfold physReadLine
  split <;> rfl

@[simp] theorem ports_physReadFuel (k : Nat) (s : State) (pa n key : Nat) : ports (physReadFuel k s pa n key).2 = ports s := by
  induction k generalizing s pa n with
  | zero => rfl
  | succ k ih =>
    unfold physReadFuel
    split
    · rfl
    · exact (ih ..).trans (ports_physReadLine ..)

@[simp] theorem ports_physReadRaw (s : State) (pa n : Nat) : ports (physReadRaw s pa n).2 = ports s :=
  ports_physReadFuel ..

@[simp] theorem ports_walkFrom (lv : Nat) (s : State) (table va : Nat) : ports (walkFrom lv s table va).2 = ports s := by
  induction lv generalizing s table with
  | zero => rfl
  | succ lv ih =>
    unfold walkFrom
    extract_lets ix r pte
    have hr : ports r.2 = ports s := ports_physReadRaw ..
    split
    · rfl
    · split
      · exact hr
      · split
        · split <;> exact hr
        · split
          · exact hr
          · exact (ih ..).trans hr

@[simp] theorem ports_walk (s : State) (d asid va : Nat) : ports (walk s d asid va).2 = ports s := by
  unfold walk
  extract_lets tb
  split
  · rfl
  · split
    · rfl
    · split
      · exact ports_physReadRaw ..
      · exact (ports_walkFrom ..).trans (ports_physReadRaw ..)

@[simp] theorem ports_translate (s : State) (p d asid va : Nat) (rd wr ex : Bool) :
    ports (translate s p d asid va rd wr ex).2 = ports s := by
  unfold translate
  extract_lets fin
  have hfin (pa : Nat) (pte : Word) (t : State) : ports (fin pa pte t).2 = ports t := by
    simp only [fin]
    split <;> rfl
  split
  · rfl
  · split
    · exact hfin ..
    · split
      case h_1 e => rw [ports_snd e, ports_walk, ports_count]
      case h_2 e => rw [ports_snd e, ports_walk, ports_count]
      case h_3 e =>
        rw [hfin]
        exact (ports_snd e).trans ((ports_walk ..).trans (ports_count ..))

/-! ### Slices and homes (R101-R103, R131) -/

@[simp] theorem ports_pushE (s : State) (i : Instr) : ports (s.pushE i) = ports s := rfl
@[simp] theorem ports_push (s : State) (ts : List Turn) : ports (s.push ts) = ports s := rfl
@[simp] theorem ports_dropL1 (s : State) (d line : Nat) (but : Option Nat) : ports (dropL1 s d line but) = ports s := rfl
@[simp] theorem ports_serialise (s : State) (d line key : Nat) : ports (serialise s d line key) = ports s := rfl
@[simp] theorem ports_allocMiss (s : State) (d line key : Nat) (c : Bool) : ports (allocMiss s d line key c) = ports s := rfl
@[simp] theorem ports_removeReplica (s : State) (d line : Nat) : ports (removeReplica s d line) = ports s := rfl
@[simp] theorem ports_noteForward (s : State) (f : Forward) : ports (noteForward s f) = ports s := rfl
@[simp] theorem ports_countL2 (s : State) (d line key : Nat) : ports (countL2 s d line key) = ports s := ports_count ..

@[simp] theorem ports_countSlice (s : State) (d line key attr : Nat) : ports (countSlice s d line key attr) = ports s := by
  unfold countSlice
  split
  · exact ports_countL2 ..
  · exact ports_count ..

@[simp] theorem ports_writeMiss (s : State) (d line key : Nat) : ports (writeMiss s d line key) = ports s := by
  unfold writeMiss
  split <;> rfl

@[simp] theorem ports_readMiss (s : State) (d line key : Nat) : ports (readMiss s d line key) = ports s := by
  unfold readMiss
  split <;> rfl

@[simp] theorem ports_physWriteLine (s : State) (pa n v key : Nat) : ports (physWriteLine s pa n v key) = ports s := by
  unfold physWriteLine
  extract_lets line t
  have ht : ports t = ports s := by
    simp only [t]
    split <;> rfl
  exact ht

@[simp] theorem ports_homeWrite (s : State) (pa n v key : Nat) (w : Option Nat) : ports (homeWrite s pa n v key w) = ports s := by
  simp only [homeWrite, ports_dropL1, ports_physWriteLine, ports_serialise]

@[simp] theorem ports_cachedWrite (s : State) (pa n v key : Nat) (w : Option Nat) :
    ports (cachedWrite s pa n v key w) = ports s := by
  simp only [cachedWrite, ports_homeWrite, ports_writeMiss, ports_countL2]

@[simp] theorem ports_flushLine (s : State) (d line : Nat) : ports (flushLine s d line) = ports s :=
  ports_foldl (fun _ _ => ports_cachedWrite ..) _ _

@[simp] theorem ports_flushDie (s : State) (d : Nat) : ports (flushDie s d) = ports s :=
  ports_foldl (fun _ _ => ports_cachedWrite ..) _ _

@[simp] theorem ports_dropReplica (s : State) (d line : Nat) : ports (dropReplica s d line) = ports s :=
  ports_flushLine ..

@[simp] theorem ports_makeRoom (s : State) (d line : Nat) : ports (makeRoom s d line) = ports s := by
  unfold makeRoom
  split
  · rfl
  · split
    · rfl
    · split
      · exact ports_dropReplica ..
      · rfl

@[simp] theorem ports_putReplica (s : State) (keep : Bool) (r : Replica) : ports (putReplica s keep r) = ports s := by
  unfold putReplica
  extract_lets t
  split
  · exact ports_makeRoom ..
  · rfl

@[simp] theorem ports_replicaData (s : State) (d line key : Nat) : ports (replicaData s d line key).2 = ports s := by
  unfold replicaData
  split
  · rfl
  · exact (ports_physReadLine ..).trans (ports_flushLine ..)

@[simp] theorem ports_sliceWrite (s : State) (d pa n v key attr : Nat) (w : Option Nat) :
    ports (sliceWrite s d pa n v key attr w) = ports s := by
  unfold sliceWrite
  extract_lets h line
  split
  · simp only [ports_homeWrite, ports_dropReplica, ports_countSlice]
  · split
    · exact ports_cachedWrite ..
    · rw [ports_noteForward, ports_putReplica]
      exact (ports_replicaData ..).trans ((ports_serialise ..).trans ((ports_writeMiss ..).trans (ports_countL2 ..)))

@[simp] theorem ports_homeRead (s : State) (d pa n key attr : Nat) : ports (homeRead s d pa n key attr).2 = ports s := by
  unfold homeRead
  extract_lets h t
  have ht : ports t = ports s := (ports_dropReplica ..).trans (ports_countSlice ..)
  rw [ports_physReadLine]
  split
  · rw [ports_readMiss, ht]
  · exact ht

@[simp] theorem ports_sliceRead (s : State) (d pa n key attr : Nat) (fresh : Bool) :
    ports (sliceRead s d pa n key attr fresh).2 = ports s := by
  unfold sliceRead
  extract_lets line
  split
  · rfl
  · exact (ports_physReadLine ..).trans (ports_flushLine ..)

@[simp] theorem ports_engineLine (s : State) (d pa n key attr : Nat) : ports (engineLine s d pa n key attr).2 = ports s := by
  unfold engineLine
  extract_lets line t
  rw [ports_sliceRead]
  split
  · rw [ports_readMiss, ports_countSlice]
  · exact ports_countSlice ..

@[simp] theorem ports_engineRead (s : State) (d pa n key attr : Nat) : ports (engineRead s d pa n key attr).2 = ports s := by
  refine ports_foldl_snd (fun q i => ?_) _ _
  extract_lets lo hi
  split
  · exact ports_engineLine ..
  · rfl

@[simp] theorem ports_engineWrite (s : State) (d pa n v key attr : Nat) : ports (engineWrite s d pa n v key attr) = ports s := by
  refine ports_foldl (fun t i => ?_) _ _
  extract_lets lo hi
  split
  · exact ports_sliceWrite ..
  · rfl

@[simp] theorem ports_writePagesFuel (k : Nat) (s : State) (g : Agent) (va : Word) (n v : Nat) :
    ports (writePagesFuel k s g va n v) = ports s := by
  induction k generalizing s va n v with
  | zero => rfl
  | succ k ih =>
    unfold writePagesFuel
    split
    · rfl
    · extract_lets h
      split
      next e => rw [ih, ports_engineWrite, ports_snd e, ports_translate]
      next e => rw [ports_snd e, ports_translate]

/-! ### Bytes of a copy (R359, R362) -/

@[simp] theorem ports_fetchFuel (cell : Nat) (g : Agent) (got : FMap Nat) (f : Nat) (s : State) (va : Word) (n : Nat) :
    ports (fetchFuel cell g got f s va n).2 = ports s := by
  induction f generalizing s va n with
  | zero => rfl
  | succ f ih =>
    unfold fetchFuel
    split
    · rfl
    · extract_lets k go
      have hgo (v : Nat) (t : State) (k : Nat) : ports (go v t k).2 = ports t := ih ..
      split
      · exact hgo ..
      · exact hgo ..
      · exact hgo ..
      · split
        next e => rw [hgo, ports_engineRead, ports_snd e, ports_translate]
        next e => rw [hgo, ports_snd e, ports_translate]
      · exact hgo ..

@[simp] theorem ports_storeBytes (s : State) (cell : Nat) (g : Agent) (va : Word) (n v : Nat) :
    ports (storeBytes s cell g va n v).2 = ports s := by
  unfold storeBytes
  split
  · exact ports_writePagesFuel ..
  · rfl

@[simp] theorem ports_reduceAt (s : State) (g : Agent) (r : CopyRun) (va : Word) (n v : Nat) :
    ports (reduceAt s g r va n v).1 = ports s := by
  unfold reduceAt
  split
  next e =>
    extract_lets old z
    rw [ports_homeWrite, ports_homeRead, ports_snd e, ports_translate]
  next e => rw [ports_snd e, ports_translate]

@[simp] theorem ports_segBytes (s : State) (cell : Nat) (g : Agent) (r : CopyRun) (got : FMap Nat) (q : Seg) (sent : Option Nat) :
    ports (segBytes s cell g r got q sent).2 = ports s := by
  unfold segBytes
  extract_lets w
  split
  · rfl
  · split
    · rfl
    · exact ports_fetchFuel ..

@[simp] theorem ports_reduceSeg (s : State) (cell : Nat) (g : Agent) (r : CopyRun) (q : Seg) (v : Nat) :
    ports (reduceSeg s cell g r q v).2.1 = ports s := by
  unfold reduceSeg
  extract_lets sb db va z
  have hz : ports z.1 = ports s := by
    refine ports_foldl_fst (q := (s, 0#5)) (fun acc i => ?_) _
    exact ports_reduceAt ..
  split
  · exact hz
  · rfl

@[simp] theorem ports_atScope (s : State) (cell : Nat) (w : CmdWord) : ports (atScope s cell w) = ports s := by
  unfold atScope
  split
  · exact ports_flushDie ..
  · rfl

end Sys2Proof.Machine
end
section
/-! The course of a copy in a cell's port: what its record reads after a change, how the turns of the port go on with their
units, and how a copy reaches its token point (R90, R134, R350, R359). -/

namespace Sys2Proof.Machine
open Claims

/-! ### Records of copies -/

theorem serial_of_copyOf {s : State} {cell n : Nat} {r : CopyRun} (h : s.copyOf cell n = some r) : r.serial = n := by
  simpa using List.find?_some h

theorem copyIs_of_copyOf {t : State} {cell n : Nat} {r : CopyRun} {p : CopyRun → Prop} (h : t.copyOf cell n = some r) (hp : p r) :
    CopyIs t cell n p :=
  ⟨r, List.mem_of_find?_eq_some h, serial_of_copyOf h, hp⟩

theorem copyOf_congr {s t : State} (h : t.cells = s.cells) (cell n : Nat) : t.copyOf cell n = s.copyOf cell n := by
  unfold State.copyOf State.cell
  rw [h]

theorem find_replaced_same {l : List CopyRun} {q : CopyRun} (r : CopyRun) (h : l.find? (fun x => x.serial = r.serial) = some q) :
    (l.map (fun x => if x.serial = r.serial then r else x)).find? (fun x => x.serial = r.serial) = some r := by
  induction l with
  | nil => simp at h
  | cons x l ih =>
    by_cases hx : x.serial = r.serial
    · simp [hx]
    · simp only [List.find?_cons, decide_eq_false hx] at h
      simp only [List.map_cons, if_neg hx, List.find?_cons, decide_eq_false hx]
      exact ih h

theorem find_replaced_ne (l : List CopyRun) (r : CopyRun) {n : Nat} (h : n ≠ r.serial) :
    (l.map (fun x => if x.serial = r.serial then r else x)).find? (fun x => x.serial = n) = l.find? (fun x => x.serial = n) := by
  induction l with
  | nil => rfl
  | cons x l ih =>
    by_cases hx : x.serial = r.serial
    · have hn : x.serial ≠ n := fun e => h (e.symm.trans hx)
      simp only [List.map_cons, if_pos hx, List.find?_cons, decide_eq_false hn, decide_eq_false h.symm]
      exact ih
    · rw [List.map_cons, if_neg hx, List.find?_cons, List.find?_cons, ih]

theorem copies_setCopy (s : State) (cell : Nat) (r : CopyRun) : ((setCopy s cell r).cell cell).copies =
    (s.cell cell).copies.map (fun x => if x.serial = r.serial then r else x) :=
  congrArg Cell.copies (State.cell_setCell_same s cell _)

theorem copyOf_setCopy_same {s : State} {cell n : Nat} {q r : CopyRun} (h : s.copyOf cell n = some q) (hr : r.serial = n) :
    (setCopy s cell r).copyOf cell n = some r := by
  subst hr
  rw [State.copyOf, copies_setCopy]
  exact find_replaced_same r h

theorem copyOf_setCopy_ne (s : State) {cell c n : Nat} (r : CopyRun) (h : c = cell → n ≠ r.serial) :
    (setCopy s cell r).copyOf c n = s.copyOf c n := by
  by_cases hc : c = cell
  · rw [hc, State.copyOf, copies_setCopy]
    exact find_replaced_ne _ r (h hc)
  · exact congrArg (fun x : Cell => x.copies.find? _) (State.cell_setCell_ne s _ hc)

theorem copyOf_dropCopy_ne (s : State) {cell c m n : Nat} (h : c = cell → n ≠ m) :
    (dropCopy s cell m).copyOf c n = s.copyOf c n := by
  by_cases hc : c = cell
  · subst hc
    have hcopies : ((dropCopy s c m).cell c).copies = (s.cell c).copies.filter (fun r => r.serial ≠ m) :=
      congrArg Cell.copies (State.cell_setCell_same s c _)
    rw [State.copyOf, State.copyOf, hcopies, List.find?_filter]
    congr 1
    funext x
    by_cases hx : x.serial = n
    · simp [hx, h rfl]
    · simp [hx]
  · exact congrArg (fun x : Cell => x.copies.find? _) (State.cell_setCell_ne s _ hc)

theorem sameBytes_setCopy (s : State) (cell : Nat) (r : CopyRun) : SameBytes s (setCopy s cell r) :=
  sameBytes_of_mem rfl (fun n => cell_modCell_mem s cell n (f := fun c =>
    { c with copies := c.copies.map (fun q => if q.serial = r.serial then r else q) }) rfl) rfl

theorem sameBytes_dropJob (s : State) (id : Nat) : SameBytes s (dropJob s id) := sameBytes_of_eq rfl rfl rfl

/-! ### The units of a job (R90, R92, R96) -/

theorem posted_append {s t : State} {cell job : Nat} {q : Spot} {a : UnitAct} (h : Posted s cell job q a)
    (hu : ∀ u ∈ s.units, u ∈ t.units) (hw : ∀ w ∈ s.work, w ∈ t.work) : Posted t cell job q a := by
  obtain ⟨u, hmem, hjob, hspot, hact, hnear, hfar⟩ := h
  exact ⟨u, hu u hmem, hjob, hspot, hact, hnear, fun hn => ⟨(hfar hn).1, hw _ (hfar hn).2⟩⟩

theorem posted_postUnit_new (s : State) (cell job : Nat) (x : Spot × UnitAct) :
    Posted (postUnit cell job s x) cell job x.1 x.2 := by
  refine ⟨_, List.mem_append_right _ (List.mem_singleton_self _), rfl, rfl, rfl, fun ⟨hq, hc⟩ => ?_, fun hn => ?_⟩
  · simp [hq, hc]
  · have hnear : (!x.1.commons && decide (x.1.cell = cell)) = false := by simpa using hn
    refine ⟨by simp [hnear], List.mem_append_right _ ?_⟩
    simp [hnear]

theorem posted_postUnit_old {s : State} {cell job : Nat} {q : Spot} {a : UnitAct} (c j : Nat) (x : Spot × UnitAct)
    (h : Posted s cell job q a) : Posted (postUnit c j s x) cell job q a :=
  posted_append h (fun _ => List.mem_append_left _) (fun _ => List.mem_append_left _)

theorem posted_foldl_old {s : State} {cell job : Nat} {q : Spot} {a : UnitAct} (c j : Nat) (us : List (Spot × UnitAct))
    (h : Posted s cell job q a) : Posted (us.foldl (postUnit c j) s) cell job q a :=
  foldl_keeps (p := fun t => Posted t cell job q a) (fun _ x ht => posted_postUnit_old c j x ht) h

theorem posted_foldl {cell job : Nat} {us : List (Spot × UnitAct)} (s : State) {x : Spot × UnitAct} (hx : x ∈ us) :
    Posted (us.foldl (postUnit cell job) s) cell job x.1 x.2 := by
  induction us generalizing s with
  | nil => cases hx
  | cons y us ih =>
    rcases List.mem_cons.mp hx with rfl | hx
    · exact posted_foldl_old cell job us (posted_postUnit_new s cell job x)
    · exact ih (postUnit cell job s y) hx

theorem jobs_foldl_postUnit (s : State) (c j : Nat) (us : List (Spot × UnitAct)) : (us.foldl (postUnit c j) s).jobs = s.jobs :=
  foldl_keeps (p := fun t : State => t.jobs = s.jobs) (fun _ _ h => h) rfl

/-- A job that begins has its units set out; what it has noted so far is as it was given. -/
theorem jobWith_openJob (s : State) {j : PortJob} {n : Nat} {us : List (Spot × UnitAct)} {vs : List (Spot × UnitAct)}
    (hs : j.serial = some n) (hf : j.fail = none) (hv : ∀ x ∈ vs, x ∈ us) :
    JobWith (openJob s j us) j.cell j.turn n j.writing j.got vs := by
  have hjobs : (openJob s j us).jobs = s.jobs ++ [{ j with id := s.nextId }] :=
    jobs_foldl_postUnit _ _ _ us
  refine ⟨{ j with id := s.nextId }, ?_, rfl, rfl, hs, rfl, rfl, hf, fun x hx => posted_foldl _ (hv x hx)⟩
  rw [hjobs]
  exact List.mem_append_right _ (List.mem_singleton_self _)

theorem sameBytes_openJob (s : State) (j : PortJob) (us : List (Spot × UnitAct)) : SameBytes s (openJob s j us) :=
  sameBytes_trans (sameBytes_of_eq rfl rfl rfl)
    (sameBytes_foldl (f := postUnit j.cell s.nextId) (fun _ _ => sameBytes_of_eq rfl rfl rfl) us
      { s with jobs := s.jobs ++ [{ j with id := s.nextId }], nextId := s.nextId + 1 })

/-! ### The course of a turn of the port -/

section
variable {s u : State} {j : PortJob} {reads : List Spot} {judged : State → Judged × State} {stop : Judged → State → State}
  {move : FMap Nat → State → List (Spot × UnitAct) × State} {finish : State → State}

theorem portWork_reads (hj : s.jobOf j.cell j.turn = none) (hr : reads ≠ []) (h : judged s = (.fine, u)) :
    portWork s j reads judged stop move finish = openJob u j (reads.eraseDups.map (fun q => (q, .read))) := by
  have he : reads.isEmpty = false := by simpa using hr
  unfold portWork
  simp only [hj, h, he]
  rfl

/-- A turn that has all that it reads moves it, and ends or begins to write. -/
theorem portWork_ready {got : FMap Nat} (h : TurnReady s j.cell j.turn reads judged u got) :
    portWork s j reads judged stop move finish =
      if (move got u).1.isEmpty then finish (move got u).2
      else openJob (move got u).2 { j with writing := true } (move got u).1 := by
  rcases h with ⟨rfl, hj, rfl, hfine⟩ | ⟨k, hj, hopen, hwr, hfail, rfl, hfine⟩
  · unfold portWork
    simp only [hj, hfine]
    rfl
  · unfold portWork
    simp only [hj, hopen, hwr, hfail, hfine]
    rfl

theorem portWork_written {k : PortJob} (h : TurnServed s j.cell j.turn true none k) :
    portWork s j reads judged stop move finish = finish (dropJob s k.id) := by
  obtain ⟨hj, hopen, hwr, hfail⟩ := h
  unfold portWork
  simp only [hj, hopen, hwr, hfail]
  rfl

end

/-! ### The end of a copy (R134, R350) -/

/-- A copy with a chunk to come is not at its end. -/
theorem settleCopy_unissued (s : State) (cell : Nat) {r : CopyRun} (h : r.next < r.chunks) :
    settleCopy s cell r = setCopy s cell r := by
  unfold settleCopy
  simp [Nat.not_le.mpr h]

/-- Nor is one with a chunk that a peer has yet to answer. -/
theorem settleCopy_awaiting (s : State) (cell : Nat) {r : CopyRun} (h : r.acks ≠ []) :
    settleCopy s cell r = setCopy s cell r := by
  unfold settleCopy
  simp [h]

/-- A copy that has failed ends once nothing of it is under way. -/
theorem settleCopy_failed {s : State} {cell code n : Nat} {r : CopyRun} (hphase : r.phase = .running) (hnext : r.chunks ≤ r.next)
    (hparked : r.parked = []) (hacks : r.acks = []) (howed : r.owed = []) (hring : r.ring = none)
    (hfail : r.fail = some (code, n)) (hw : copyWorks s cell r = false) : settleCopy s cell r = finishCopy s cell r code n true := by
  unfold settleCopy
  simp [hphase, hnext, hparked, hacks, howed, hring, hfail, hw]

/-- A copy's token point before its token is sent: its writes are at their homes, its sequencer has learnt of it. -/
def completed (s : State) (cell : Nat) (r : CopyRun) : State :=
  seqDone (setCopy (atScope s cell r.cmd.word) cell { r with phase := .completed }) r.core r.cmd

@[simp] theorem ports_seqDone (s : State) (core : Nat) (c : Cmd) : ports (seqDone s core c) = ports s := by
  unfold seqDone
  extract_lets dec
  split
  · rfl
  · split <;> rfl

theorem ports_completed (s : State) (cell : Nat) (r : CopyRun) : ports (completed s cell r) =
    ports (setCopy (atScope s cell r.cmd.word) cell { r with phase := .completed }) := ports_seqDone ..

theorem tokens_completed (s : State) (cell : Nat) (r : CopyRun) : (completed s cell r).tokens = s.tokens := by
  rw [tokens_of_ports (ports_completed s cell r)]
  have h := tokens_of_ports (ports_atScope s cell r.cmd.word)
  exact h

theorem colls_completed (s : State) (cell : Nat) (r : CopyRun) : (completed s cell r).colls = s.colls := by
  rw [colls_of_ports (ports_completed s cell r)]
  have h := colls_of_ports (ports_atScope s cell r.cmd.word)
  exact h

/-- A copy leaves without a token, or its token is sent. -/
theorem finishCopy_cases (s : State) (cell : Nat) (r : CopyRun) (code info : Nat) (bar : Bool) :
    (Cmd.noTok r.cmd.word = true ∧ finishCopy s cell r code info bar = dropCopy (completed s cell r) cell r.serial) ∨
    ∃ t : Token, t.core = 4 * cell + Cmd.tcore r.cmd.word ∧ t.slot = Cmd.tslot r.cmd.word ∧ t.reg = Cmd.treg r.cmd.word ∧
      t.gen = Cmd.tgen r.cmd.word ∧ t.status = statusWord code r.flags info ∧
      finishCopy s cell r code info bar = ({ completed s cell r with
        tokens := (completed s cell r).tokens ++ [t], nextId := (completed s cell r).nextId + 1 }).pushE
          (.tokenFill (completed s cell r).nextId) := by
  unfold finishCopy
  extract_lets w s1 s2 sendsBar t
  split
  case isTrue h => exact .inl ⟨by simpa using (Bool.and_eq_true _ _ ▸ h).1, rfl⟩
  case isFalse h => exact .inr ⟨t, rfl, rfl, rfl, rfl, rfl, rfl⟩

theorem tokenSent_finishCopy (s : State) (cell : Nat) (r : CopyRun) (code info : Nat) (bar : Bool) :
    TokenSent (finishCopy s cell r code info bar) (4 * cell) r.cmd.word code r.flags info := by
  intro hn
  rcases finishCopy_cases s cell r code info bar with ⟨h, -⟩ | ⟨t, hcore, hslot, hreg, hgen, hstatus, h⟩
  · rw [hn] at h
    cases h
  · refine ⟨t, ?_, ?_, hslot, hreg, hgen, hstatus⟩
    · rw [h]
      exact List.mem_append_right _ (List.mem_singleton_self t)
    · rw [hcore, Nat.mul_div_cancel_left cell (by decide)]

theorem mem_tokens_finishCopy {s : State} {k : Token} (cell : Nat) (r : CopyRun) (code info : Nat) (bar : Bool)
    (hk : k ∈ s.tokens) : k ∈ (finishCopy s cell r code info bar).tokens := by
  rw [← tokens_completed s cell r] at hk
  rcases finishCopy_cases s cell r code info bar with ⟨-, h⟩ | ⟨t, -, -, -, -, -, h⟩
  · rw [h]
    exact hk
  · rw [h]
    exact List.mem_append_left _ hk

theorem tokenSent_mono {s t : State} {core code info : Nat} {w : CmdWord} {fl : FlagBits} (h : TokenSent s core w code fl info)
    (hk : ∀ k ∈ s.tokens, k ∈ t.tokens) : TokenSent t core w code fl info := fun hn =>
  let ⟨k, hmem, hrest⟩ := h hn
  ⟨k, hk k hmem, hrest⟩

theorem colls_finishCopy (s : State) (cell : Nat) (r : CopyRun) (code info : Nat) (bar : Bool) :
    (finishCopy s cell r code info bar).colls = s.colls := by
  rw [← colls_completed s cell r]
  rcases finishCopy_cases s cell r code info bar with ⟨-, h⟩ | ⟨t, -, -, -, -, -, h⟩ <;> rw [h] <;> rfl

/-- The end of one copy leaves the command of every copy that has a token to send. -/
theorem cmd_finishCopy {s : State} {cell c n : Nat} {q z : CopyRun} (r : CopyRun) (code info : Nat) (bar : Bool)
    (hq : s.copyOf cell r.serial = some q) (hcmd : r.cmd = q.cmd) (hz : s.copyOf c n = some z)
    (hn : Cmd.noTok z.cmd.word = false) : ∃ y, (finishCopy s cell r code info bar).copyOf c n = some y ∧ y.cmd = z.cmd := by
  have hat (c n : Nat) : (atScope s cell r.cmd.word).copyOf c n = s.copyOf c n := copyOf_of_ports (ports_atScope ..) c n
  have hcomp : (completed s cell r).copyOf c n =
      (setCopy (atScope s cell r.cmd.word) cell { r with phase := .completed }).copyOf c n :=
    copyOf_of_ports (ports_completed ..) c n
  by_cases hsame : c = cell ∧ n = r.serial
  · obtain ⟨rfl, rfl⟩ := hsame
    have hqz : q = z := Option.some.inj (hq.symm.trans hz)
    subst hqz
    have hset : (completed s c r).copyOf c r.serial = some { r with phase := .completed } :=
      hcomp.trans (copyOf_setCopy_same ((hat _ _).trans hq) rfl)
    rcases finishCopy_cases s c r code info bar with ⟨h, -⟩ | ⟨t, -, -, -, -, -, h⟩
    · rw [hcmd, hn] at h
      cases h
    · exact ⟨{ r with phase := .completed }, by rw [h]; exact hset, hcmd⟩
  · have hne : c = cell → n ≠ r.serial := fun hc he => hsame ⟨hc, he⟩
    have hset : (completed s cell r).copyOf c n = some z :=
      hcomp.trans ((copyOf_setCopy_ne _ { r with phase := .completed } hne).trans ((hat _ _).trans hz))
    rcases finishCopy_cases s cell r code info bar with ⟨-, h⟩ | ⟨t, -, -, -, -, -, h⟩
    · exact ⟨z, by rw [h, copyOf_dropCopy_ne _ hne]; exact hset, rfl⟩
    · exact ⟨z, by rw [h]; exact hset, rfl⟩

/-! ### What a chunk leaves of its copy (R51, R58) -/

/-- A copy's record with flags raised, and nothing else changed. -/
def OnlyFlags (r q : CopyRun) : Prop := q = { r with flags := q.flags }

theorem onlyFlags_serial {r q : CopyRun} (h : OnlyFlags r q) : q.serial = r.serial :=
  (congrArg CopyRun.serial h).trans rfl

theorem onlyFlags_trans {q r x : CopyRun} (h : OnlyFlags q r) (k : OnlyFlags r x) : OnlyFlags q x := by
  unfold OnlyFlags at *
  rw [k, h]

theorem onlyFlags_reduceSeg (s : State) (cell : Nat) (g : Agent) (r : CopyRun) (q : Seg) (v : Nat) :
    OnlyFlags r (reduceSeg s cell g r q v).2.2 := by
  unfold reduceSeg
  extract_lets sb db va z
  split <;> rfl

/-- Moving the segments of a chunk leaves the ports and, flags aside, the copy's record. -/
theorem moveSegs_leaves (s : State) (cell : Nat) (r : CopyRun) (t : Turn) (got : FMap Nat) (sent : Option Nat) (qs : List Seg) :
    ports (moveSegs s cell r t got sent qs).2.1 = ports s ∧ OnlyFlags r (moveSegs s cell r t got sent qs).2.2 := by
  refine foldl_keeps (p := fun acc : Moved × Option Nat => ports acc.1.2.1 = ports s ∧ OnlyFlags r acc.1.2.2) ?_ ⟨rfl, rfl⟩
  rintro ⟨⟨us, v, x⟩, o⟩ q ⟨hports, hflags⟩
  have hy : ports (segBytes v cell (portAgent s cell false t) x got q o).2 = ports s := (ports_segBytes ..).trans hports
  dsimp only
  split
  · exact ⟨(ports_reduceSeg ..).trans hy, onlyFlags_trans hflags (onlyFlags_reduceSeg ..)⟩
  · refine ⟨(ports_foldl_snd (fun acc d => ?_) _ _).trans hy, onlyFlags_trans hflags rfl⟩
    exact ports_storeBytes ..

end Sys2Proof.Machine
end
section
/-! O38: the pieces of a reducing copy, each applied once, and the column reductions from a contribution to the tokens. -/

namespace Sys2Proof.Machine
open Claims

/-! ### A reducing piece (R135, R362) -/

/-- The turn of the copy port that applies a piece. -/
abbrev pieceTurn (cell : Nat) (r : CopyRun) (n k : Nat) : Turn := .event (.reducePieceApply cell r.serial n k)

/-- The spots that a piece reads. -/
def pieceReads (s : State) (cell : Nat) (r : CopyRun) (n k : Nat) : List Spot :=
  (pieceSegs s cell r n k).flatMap (fun q => spotsOf s cell q.src q.ns)

/-- The job of the copy port that goes on with a piece. -/
def pieceJob (cell : Nat) (r : CopyRun) (n k : Nat) : PortJob :=
  { id := 0, cell := cell, turn := pieceTurn cell r n k, serial := some r.serial, fmt := copyFmt r }

/-- The record of a copy as it now stands. -/
def copyNow (s : State) (cell : Nat) (r : CopyRun) : CopyRun := (s.copyOf cell r.serial).getD r

/-- A piece's elements are moved, as units where they lie in a local memory. -/
def pieceMove (cell : Nat) (r : CopyRun) (n k : Nat) (qs : List Seg) (got : FMap Nat) (s : State) :
    List (Spot × UnitAct) × State :=
  let z := moveSegs s cell (copyNow s cell r) (pieceTurn cell r n k) got none qs
  (z.1, setCopy z.2.1 cell z.2.2)

/-- A piece has been applied: its record bit is set. -/
def pieceEnd (cell : Nat) (r : CopyRun) (n k : Nat) (s : State) : State :=
  settleCopy s cell { copyNow s cell r with
    owed := (copyNow s cell r).owed.erase (n, k), applied := (copyNow s cell r).applied ++ [(n, k)] }

theorem reducePiece_applied {s : State} {cell n k : Nat} {r : CopyRun} (h : s.copyOf cell r.serial = some r)
    (ha : (n, k) ∈ r.applied) : exec (.reducePieceApply cell r.serial n k) s = .next s := by
  change execReducePieceApply cell r.serial n k s = _
  unfold execReducePieceApply
  simp [h, ha]

theorem copyNow_eq {s : State} {cell : Nat} {r q : CopyRun} (h : s.copyOf cell r.serial = some q) : copyNow s cell r = q := by
  rw [copyNow, h]
  rfl

/-- What is judged of the copy as it now stands is judged of the copy as the turn found it. -/
theorem turnReady_copyNow {m u : State} {cell : Nat} {r : CopyRun} {t : Turn} {reads : List Spot}
    {judged : State → CopyRun → Judged × State} {got : FMap Nat} (hm : m.copyOf cell r.serial = some r)
    (h : TurnReady m cell t reads (fun v => judged v r) u got) :
    TurnReady m cell t reads (fun v => judged v (copyNow v cell r)) u got := by
  rcases h with ⟨hgot, hj, hr, hfine⟩ | ⟨j, hj, hopen, hwr, hfail, hgot, hfine⟩
  · exact .inl ⟨hgot, hj, hr, (congrArg (judged m) (copyNow_eq hm)).trans hfine⟩
  · have hd : (dropJob m j.id).copyOf cell r.serial = some r := hm
    exact .inr ⟨j, hj, hopen, hwr, hfail, hgot, (congrArg (judged (dropJob m j.id)) (copyNow_eq hd)).trans hfine⟩

section
variable {s : State} {cell n k : Nat} {r : CopyRun} (hc : Copying s cell r) (ha : (n, k) ∉ r.applied) (ho : (n, k) ∈ r.owed)
  (hfull : replayFull s cell (pieceTurn cell r n k) = false)
include hc ha ho hfull

/-- A piece that is owed takes its course in the port. -/
theorem exec_reducePiece : ∃ stop, exec (.reducePieceApply cell r.serial n k) s = .next (portWork s (pieceJob cell r n k)
    (pieceReads s cell r n k)
    (fun v => judgeSegs v cell (copyNow v cell r) (pieceTurn cell r n k) true true (pieceSegs s cell r n k))
    stop (pieceMove cell r n k (pieceSegs s cell r n k)) (pieceEnd cell r n k)) := by
  obtain ⟨hcopy, hclock⟩ := hc
  apply Exists.intro
  change execReducePieceApply cell r.serial n k s = _
  unfold execReducePieceApply
  simp only [hcopy, whenRunning, hclock, hfull, List.contains_eq_mem, ha, ho, decide_false, decide_true, Bool.not_true,
    Bool.or_self, Bool.false_and, Bool.false_eq_true, if_false, Option.isSome_none]
  exact rfl

end

/-- The end of a piece sets its bit and leaves every byte. -/
theorem pieceEnd_sets {s : State} {cell n k : Nat} {r q : CopyRun} (h : s.copyOf cell r.serial = some q)
    (hn : q.next < q.chunks) : SameBytes s (pieceEnd cell r n k s) ∧
      CopyIs (pieceEnd cell r n k s) cell r.serial (fun x => (n, k) ∈ x.applied ∧ x.owed = q.owed.erase (n, k)) := by
  have hend : pieceEnd cell r n k s =
      setCopy s cell { q with owed := q.owed.erase (n, k), applied := q.applied ++ [(n, k)] } := by
    rw [pieceEnd, copyNow_eq h]
    exact settleCopy_unissued s cell hn
  have hserial : q.serial = r.serial := serial_of_copyOf h
  rw [hend]
  exact ⟨sameBytes_setCopy ..,
    copyIs_of_copyOf (copyOf_setCopy_same h hserial) ⟨List.mem_append_right _ (List.mem_singleton_self _), rfl⟩⟩

section
variable {s u : State} {cell n k : Nat} {r : CopyRun} (hc : Copying s cell r) (ha : (n, k) ∉ r.applied) (ho : (n, k) ∈ r.owed)
  (hn : r.next < r.chunks) (hfull : replayFull s cell (pieceTurn cell r n k) = false)
include hc ha ho hfull

/-- A piece that reads at units reads them first. -/
theorem reducePiece_reads (hj : s.jobOf cell (pieceTurn cell r n k) = none)
    (hr : pieceReads s cell r n k ≠ [])
    (h : judgeSegs s cell r (pieceTurn cell r n k) true true (pieceSegs s cell r n k) = (.fine, u)) :
    ∃ t, exec (.reducePieceApply cell r.serial n k) s = .next t ∧ SameBytes u t ∧
      JobWith t cell (pieceTurn cell r n k) r.serial false []
        ((pieceReads s cell r n k).map (fun q => (q, .read))) := by
  obtain ⟨stop, he⟩ := exec_reducePiece hc ha ho hfull
  refine ⟨_, by rw [he, portWork_reads hj hr (by rw [copyNow_eq hc.1]; exact h)], sameBytes_openJob .., ?_⟩
  refine jobWith_openJob u (j := pieceJob cell r n k) rfl rfl fun x hx => ?_
  obtain ⟨q, hq, rfl⟩ := List.mem_map.mp hx
  exact List.mem_map_of_mem (List.mem_eraseDups.mpr hq)

include hn

/-- A piece that has what it reads is applied, or its units set out to be. -/
theorem reducePiece_moves {got : FMap Nat}
    (h : TurnReady s cell (pieceTurn cell r n k)
      (pieceReads s cell r n k)
      (fun v => judgeSegs v cell r (pieceTurn cell r n k) true true (pieceSegs s cell r n k)) u got)
    (hu : u.copyOf cell r.serial = some r) :
    let m := moveSegs u cell r (pieceTurn cell r n k) got none (pieceSegs s cell r n k)
    ∃ t, exec (.reducePieceApply cell r.serial n k) s = .next t ∧ SameBytes m.2.1 t ∧
      (m.1 ≠ [] → JobWith t cell (pieceTurn cell r n k) r.serial true [] m.1) ∧
      (m.1 = [] → CopyIs t cell r.serial (fun q => (n, k) ∈ q.applied ∧ q.owed = r.owed.erase (n, k))) := by
  intro m
  have hmove : pieceMove cell r n k (pieceSegs s cell r n k) got u = (m.1, setCopy m.2.1 cell m.2.2) := by
    rw [pieceMove, copyNow_eq hu]
  obtain ⟨hports, hflags⟩ := moveSegs_leaves u cell r (pieceTurn cell r n k) got none (pieceSegs s cell r n k)
  have hcopy : (setCopy m.2.1 cell m.2.2).copyOf cell r.serial = some m.2.2 :=
    copyOf_setCopy_same ((copyOf_of_ports hports cell r.serial).trans hu) (onlyFlags_serial hflags)
  obtain ⟨stop, he⟩ := exec_reducePiece hc ha ho hfull
  have hready : TurnReady s cell (pieceTurn cell r n k)
      (pieceReads s cell r n k)
      (fun v => judgeSegs v cell (copyNow v cell r) (pieceTurn cell r n k) true true
        (pieceSegs s cell r n k)) u got :=
    turnReady_copyNow (judged := fun v x => judgeSegs v cell x _ true true _) hc.1 h
  rw [he, portWork_ready (j := pieceJob cell r n k) hready, hmove]
  by_cases hm : m.1 = []
  · have hnext : m.2.2.next < m.2.2.chunks := by
      rw [hflags]
      exact hn
    have howed : m.2.2.owed = r.owed := (congrArg CopyRun.owed hflags).trans rfl
    obtain ⟨hbytes, hset⟩ := pieceEnd_sets (n := n) (k := k) hcopy hnext
    rw [howed] at hset
    rw [hm, List.isEmpty_nil, if_pos rfl]
    exact ⟨_, rfl, sameBytes_trans (sameBytes_setCopy m.2.1 cell m.2.2) hbytes, fun h => absurd rfl h, fun _ => hset⟩
  · have hne : m.1.isEmpty = false := by simpa using hm
    rw [hne, if_neg Bool.false_ne_true]
    refine ⟨_, rfl, sameBytes_trans (sameBytes_setCopy m.2.1 cell m.2.2) (sameBytes_openJob ..), fun _ => ?_,
      fun h => absurd h hm⟩
    exact jobWith_openJob _ (j := { pieceJob cell r n k with writing := true }) rfl rfl fun _ hx => hx

/-- A piece whose units have been applied is at its end. -/
theorem reducePiece_served {j : PortJob} (h : TurnServed s cell (pieceTurn cell r n k) true none j) :
    ∃ t, exec (.reducePieceApply cell r.serial n k) s = .next t ∧ SameBytes s t ∧
      CopyIs t cell r.serial (fun q => (n, k) ∈ q.applied ∧ q.owed = r.owed.erase (n, k)) := by
  obtain ⟨stop, he⟩ := exec_reducePiece hc ha ho hfull
  have hd : (dropJob s j.id).copyOf cell r.serial = some r := hc.1
  obtain ⟨hbytes, hset⟩ := pieceEnd_sets (n := n) (k := k) hd hn
  exact ⟨_, by rw [he, portWork_written (j := pieceJob cell r n k) h], sameBytes_trans (sameBytes_dropJob ..) hbytes, hset⟩

end

/-! ### A contribution to a column (R366) -/

theorem colls_oweResult (s : State) (c : Coll) : (oweResult s c).colls = s.colls := by
  unfold oweResult
  split
  · rfl
  · split <;> rfl

/-- The reduction that a first contribution opens. -/
def openedColl (s : State) (cell : Nat) (r : CopyRun) : Coll :=
  { part := s.partN cell, die := dieOf cell, col := cell % 16, rid := collRid r.cmd.word, n := collN r.cmd.word
    count := collCount r.cmd.word, dst := r.cmd.word.w2, parts := [(collIdx r.cmd.word, (cell, r.serial), r.contrib)] }

/-- A reduction with a further contribution. -/
def joinedColl (cell : Nat) (r : CopyRun) (c : Coll) : Coll :=
  { c with parts := c.parts ++ [(collIdx r.cmd.word, (cell, r.serial), r.contrib)] }

section
variable {s : State} {cell : Nat} {r : CopyRun} (hc : s.copyOf cell r.serial = some r) (hp : r.phase = .waiting)
  (hop : opc r.cmd.word = 0x16)
include hc hp hop

theorem collArrival_opens (hnone : s.colls.find? (collMatch s cell r.cmd.word) = none)
    (hi : collIdx r.cmd.word < collN r.cmd.word) :
    ∃ t, exec (.collArrival cell r.serial) s = .next t ∧ t.colls = s.colls ++ [openedColl s cell r] := by
  change ∃ t, execCollArrival cell r.serial s = .next t ∧ _
  unfold execCollArrival
  simp only [hc, hp, hop, hnone, if_neg (Nat.not_le.mpr hi)]
  refine ⟨_, rfl, ?_⟩
  split
  · exact colls_oweResult ..
  · rfl

theorem collArrival_joins {c : Coll} (hsome : s.colls.find? (collMatch s cell r.cmd.word) = some c)
    (hidx : ∀ q ∈ c.parts, q.1 ≠ collIdx r.cmd.word) (hfull : c.parts.length ≠ c.n) (hdst : c.dst = r.cmd.word.w2)
    (hcount : c.count = collCount r.cmd.word) (hn : c.n = collN r.cmd.word) (hi : collIdx r.cmd.word < c.n) :
    ∃ t, exec (.collArrival cell r.serial) s = .next t ∧ joinedColl cell r c ∈ t.colls := by
  have hany : c.parts.any (fun q => q.1 = collIdx r.cmd.word) = false := by simpa using hidx
  have hmem : joinedColl cell r c ∈ s.colls.map (fun q => if collMatch s cell r.cmd.word q then joinedColl cell r c else q) := by
    refine List.mem_map.mpr ⟨c, List.mem_of_find?_eq_some hsome, ?_⟩
    rw [if_pos (List.find?_some hsome)]
  have hfields : ¬ (c.count ≠ collCount r.cmd.word || c.n ≠ collN r.cmd.word || c.n ≤ collIdx r.cmd.word) = true := by
    simp [hcount, ← hn, hi]
  change ∃ t, execCollArrival cell r.serial s = .next t ∧ _
  unfold execCollArrival
  simp only [hc, hp, hop, hsome, hany]
  rw [if_neg (by simp), if_neg (by simp [hfull]), if_neg (not_not.mpr hdst), if_neg hfields]
  refine ⟨_, rfl, ?_⟩
  split
  · rw [show ∀ (x : State) (i : Instr), (x.pushE i).colls = x.colls from fun _ _ => rfl, colls_oweResult]
    exact hmem
  · exact hmem

end

/-! ### The end of a column reduction (R57, R366) -/

/-- A contribution to a column: its index, its cell and copy, its values. -/
abbrev Contribution : Type := Nat × (Nat × Nat) × List (BitVec 32)

/-- A contributor's copy reaches its token point with the tree's flags. -/
def closePart (fl : FlagBits) (s : State) (q : Contribution) : State :=
  match s.copyOf q.2.1.1 q.2.1.2 with
  | some k => finishCopy s q.2.1.1 { k with flags := fl } 0 0 false
  | none => s

theorem closeColl_eq (s : State) (c : Coll) : closeColl s c 0 =
    c.parts.foldl (closePart (collResult c).2) { s with colls := s.colls.filter (fun d => !sameColl c d) } := rfl

theorem closePart_some {s : State} {q : Contribution} {k : CopyRun} (fl : FlagBits)
    (h : s.copyOf q.2.1.1 q.2.1.2 = some k) : closePart fl s q = finishCopy s q.2.1.1 { k with flags := fl } 0 0 false := by
  rw [closePart, h]

theorem closePart_none {s : State} {q : Contribution} (fl : FlagBits)
    (h : s.copyOf q.2.1.1 q.2.1.2 = none) : closePart fl s q = s := by
  rw [closePart, h]

theorem colls_closePart (fl : FlagBits) (s : State) (q : Contribution) : (closePart fl s q).colls = s.colls := by
  cases h : s.copyOf q.2.1.1 q.2.1.2 with
  | none => rw [closePart_none fl h]
  | some k => rw [closePart_some fl h, colls_finishCopy]

theorem mem_tokens_closePart {s : State} {k : Token} (fl : FlagBits) (q : Contribution) (hk : k ∈ s.tokens) :
    k ∈ (closePart fl s q).tokens := by
  cases h : s.copyOf q.2.1.1 q.2.1.2 with
  | none => rwa [closePart_none fl h]
  | some z =>
    rw [closePart_some fl h]
    exact mem_tokens_finishCopy _ _ _ _ _ hk

theorem cmd_closePart {s : State} {c n : Nat} {z : CopyRun} (fl : FlagBits) (q : Contribution)
    (hz : s.copyOf c n = some z) (hn : Cmd.noTok z.cmd.word = false) :
    ∃ y, (closePart fl s q).copyOf c n = some y ∧ y.cmd = z.cmd := by
  cases h : s.copyOf q.2.1.1 q.2.1.2 with
  | none => exact ⟨z, by rwa [closePart_none fl h], rfl⟩
  | some k =>
    rw [closePart_some fl h]
    refine cmd_finishCopy (q := k) { k with flags := fl } 0 0 false ?_ rfl hz hn
    have hserial : k.serial = q.2.1.2 := serial_of_copyOf h
    rw [← hserial] at h
    exact h

/-- Every contributor whose copy is in flight has its token sent. -/
theorem tokenSent_closeParts {fl : FlagBits} {parts : List Contribution} {s : State} {z : CopyRun}
    {q : Contribution} (hq : q ∈ parts) (hz : s.copyOf q.2.1.1 q.2.1.2 = some z) :
    TokenSent (parts.foldl (closePart fl) s) (4 * q.2.1.1) z.cmd.word 0 fl 0 := by
  induction parts generalizing s z with
  | nil => cases hq
  | cons p parts ih =>
    rcases List.mem_cons.mp hq with rfl | hq
    · have hsent : TokenSent (closePart fl s q) (4 * q.2.1.1) z.cmd.word 0 fl 0 := by
        rw [closePart_some fl hz]
        exact tokenSent_finishCopy s q.2.1.1 { z with flags := fl } 0 0 false
      exact tokenSent_mono hsent fun k hk =>
        foldl_keeps (b := closePart fl s q) (p := fun t : State => k ∈ t.tokens) (fun _ x h => mem_tokens_closePart fl x h) hk
    · intro hn
      obtain ⟨y, hy, hcmd⟩ := cmd_closePart fl p hz hn
      rw [← hcmd] at hn ⊢
      exact ih hq hy hn

/-- The reduction is gone and every contributor's token follows. -/
theorem closeColl_ends (s : State) (c : Coll) : (closeColl s c 0).colls = s.colls.filter (fun d => !sameColl c d) ∧
    ∀ q ∈ c.parts, ∀ z, s.copyOf q.2.1.1 q.2.1.2 = some z →
      TokenSent (closeColl s c 0) (4 * q.2.1.1) z.cmd.word 0 (collResult c).2 0 := by
  rw [closeColl_eq]
  exact ⟨foldl_keeps (p := fun t : State => t.colls = s.colls.filter (fun d => !sameColl c d))
      (fun _ q h => (colls_closePart _ _ q).trans h) rfl,
    fun q hq z hz => tokenSent_closeParts (s := { s with colls := s.colls.filter (fun d => !sameColl c d) }) hq hz⟩

/-! ### The write of a result (R90, R366) -/

theorem exec_collResultWrite {s : State} {die col rid : Nat} {c : Coll}
    (h : s.colls.filter (fun c => c.die = die && c.col = col && c.rid = rid && c.parts.length = c.n) = [c]) :
    exec (.collResultWrite die col rid) s = .next (runColl (.collResultWrite die col rid) s c) := by
  change execCollResultWrite die col rid s = _
  rw [execCollResultWrite, h]
  rfl

/-- The copy port of contributor 0's cell, writing a result. -/
def resultAgent (s : State) (cell : Nat) (ev : Instr) : Agent := { portAgent s cell true (.event ev) with who := cell }

/-- The job of that port that writes a result. -/
def resultJob (ev : Instr) (cell n : Nat) : PortJob := { id := 0, cell := cell, turn := .event ev, serial := some n }

/-- Bytes still to be written of the frames that a result covers whole. -/
def resultOwe (s : State) (cell n : Nat) : FMap Nat := ((s.copyOf cell n).map (·.owe)).getD []

/-- What is found about the first element that is left. -/
def resultJudged (cell : Nat) (g : Agent) (owe : FMap Nat) (c : Coll) (s : State) : Judged × State :=
  match collLeft c with
  | [] => (.fine, s)
  | e :: _ => judgeRun s cell g true false owe e.1 4 .fine

/-- The units of the elements that can be written. -/
def resultMove (cell : Nat) (g : Agent) (owe : FMap Nat) (c : Coll) (s : State) : List (Spot × UnitAct) × State :=
  ((elemsFine cell g owe (collLeft c) s).flatMap (fun e => (storeBytes s cell g e.1 4 e.2).1),
    wroteElems s c (elemsFine cell g owe (collLeft c) s).length)

/-- The units that were to be written have been: the reduction ends, or goes on with the next ones. -/
def resultEnd (ev : Instr) (c : Coll) (s : State) : State :=
  match s.colls.find? (sameColl c) with
  | some d => if d.written = d.count then closeColl s d 0 else pushOnce s ev
  | none => s

section
variable {s u : State} {ev : Instr} {cell n : Nat} {v : List (BitVec 32)} {c : Coll}
  (hz : c.parts.find? (fun q => q.1 = 0) = some (0, (cell, n), v)) (hclock : clockStop (s.cell cell) = none)
include hz hclock

theorem runColl_lower {k : Nat} (hl : regionOf s cell c.dst = .lower) (hfull : replayFull s cell (.event ev) = false)
    (hw : writeResult cell (resultAgent s cell ev) (collLeft c) 0 s = (.fine, k, u)) : runColl ev s c = closeColl u c 0 := by
  unfold resultAgent at hw
  unfold runColl
  simp only [hz, hclock, hl, hfull, hw]
  rfl

theorem runColl_units (hl : regionOf s cell c.dst ≠ .lower) :
    ∃ stop, runColl ev s c = portWork s (resultJob ev cell n) []
      (resultJudged cell (resultAgent s cell ev) (resultOwe s cell n) c) stop
      (fun _ => resultMove cell (resultAgent s cell ev) (resultOwe s cell n) c) (resultEnd ev c) := by
  apply Exists.intro
  unfold runColl
  simp only [hz, hclock, if_neg hl, Option.isSome_none, Bool.false_eq_true, if_false]
  exact rfl

/-- A result elsewhere than in the lower half sets out unit by unit. -/
theorem runColl_writes {e : Word × Nat} {es : List (Word × Nat)} (hl : regionOf s cell c.dst ≠ .lower)
    (hj : s.jobOf cell (.event ev) = none) (he : collLeft c = e :: es)
    (hfine : judgeRun s cell (resultAgent s cell ev) true false (resultOwe s cell n) e.1 4 .fine = (.fine, u))
    (hus : (resultMove cell (resultAgent s cell ev) (resultOwe s cell n) c u).1 ≠ []) :
    SameBytes u (runColl ev s c) ∧ JobWith (runColl ev s c) cell (.event ev) n true []
      (resultMove cell (resultAgent s cell ev) (resultOwe s cell n) c u).1 := by
  obtain ⟨stop, hrun⟩ := runColl_units (ev := ev) hz hclock hl
  have hne : (resultMove cell (resultAgent s cell ev) (resultOwe s cell n) c u).1.isEmpty = false := by simpa using hus
  have hjudged : resultJudged cell (resultAgent s cell ev) (resultOwe s cell n) c s = (.fine, u) := by
    rw [resultJudged, he]
    exact hfine
  rw [hrun, portWork_ready (j := resultJob ev cell n) (got := []) (.inl ⟨rfl, hj, rfl, hjudged⟩), hne]
  exact ⟨sameBytes_trans (sameBytes_of_eq rfl rfl rfl) (sameBytes_openJob _ _ _),
    jobWith_openJob _ (j := { resultJob ev cell n with writing := true }) rfl rfl fun _ hx => hx⟩

theorem runColl_served {j : PortJob} (hl : regionOf s cell c.dst ≠ .lower) (hj : TurnServed s cell (.event ev) true none j)
    (hw : c.written = c.count) (hfind : s.colls.find? (sameColl c) = some c) :
    runColl ev s c = closeColl (dropJob s j.id) c 0 := by
  obtain ⟨stop, hrun⟩ := runColl_units (ev := ev) hz hclock hl
  have hdrop : (dropJob s j.id).colls.find? (sameColl c) = some c := hfind
  rw [hrun, portWork_written (j := resultJob ev cell n) hj, resultEnd, hdrop]
  exact if_pos hw

end

/-- Settles O38: the turns of a piece by what the port finds, the contribution that opens and the one that joins, and the result's
write in the lower half and at units. -/
theorem reductions : Obligations.Reductions := by
  refine ⟨fun s cell n k r h ha => reducePiece_applied h ha, fun s cell n k r hc ha ho hn => ?_, fun s cell r hc hp hop => ?_,
    fun s u die col rid cell n k v c hfilter hz hclock => ?_⟩
  · intro turn qs reads judged hfull
    exact ⟨fun u hj hr h => reducePiece_reads hc ha ho hfull hj hr h,
      fun u got h hu => reducePiece_moves hc ha ho hn hfull h hu, fun j h => reducePiece_served hc ha ho hn hfull h⟩
  · intro w
    refine ⟨fun hnone hi => ?_, fun c hsome hidx hfull hdst hcount hn hi => ?_⟩
    · obtain ⟨t, he, ht⟩ := collArrival_opens hc.1 hp hop hnone (Nat.lt_succ_of_le hi)
      exact ⟨t, _, he, ht, rfl, rfl, rfl, rfl, rfl, rfl, rfl, rfl, rfl⟩
    · obtain ⟨t, he, ht⟩ := collArrival_joins hc.1 hp hop hsome hidx hfull hdst hcount hn hi
      exact ⟨t, _, he, ht, rfl⟩
  · intro turn g owe left ended
    rw [exec_collResultWrite hfilter]
    refine ⟨fun hl hfull hw => ⟨_, rfl, ?_⟩, fun hl => ⟨?_, fun j hj hw hfind => ⟨_, rfl, ?_⟩⟩⟩
    · rw [runColl_lower hz hclock hl hfull hw]
      exact closeColl_ends u c
    · intro e es hj he hfine us hus
      exact ⟨_, rfl, runColl_writes hz hclock hl hj he hfine hus⟩
    · rw [runColl_served hz hclock hl hj hw hfind]
      exact closeColl_ends (dropJob s j.id) c

end Sys2Proof.Machine
end
section
/-! O39: chunks of a copy to and from a peer, on the side that sends them and on the side that receives them. -/

namespace Sys2Proof.Machine
open Claims

/-! ### Answers and timeouts (R218, R350) -/

/-- What was sent is let go without a change of a copy or a byte. -/
theorem copyOf_forgetSent (s : State) (c n : Nat) (p : Nat → Bool) (cell serial : Nat) :
    (forgetSent s c n p).copyOf cell serial = s.copyOf cell serial := rfl

theorem sameBytes_forgetSent (s : State) (c n : Nat) (p : Nat → Bool) : SameBytes s (forgetSent s c n p) :=
  sameBytes_of_eq rfl rfl rfl

theorem peerCode_eq (code : Nat) : peerCode code = if code = 5 ∨ code = 6 ∨ code = 7 ∨ code = 0xA then code else 7 := by
  unfold peerCode
  simp

/-- A copy with the flags that an acknowledgement carries. -/
def withAckFlags (r : CopyRun) (w : Word) : CopyRun := { r with flags := r.flags ||| BitVec.ofNat 5 (bits w 12 8) }

section
variable {s : State} {cell n : Nat} {r : CopyRun} {w : Word} {bs : List Byte} (hc : s.copyOf cell r.serial = some r)
  (hn : n ∈ r.acks) (hopen : answerOpen s cell r.serial n (.later (.peerAck cell r.serial n w bs)) = false)
include hc hn hopen

theorem exec_peerAck_ok (hp : fromPeer r = false) (hw : bits w 7 0 = 0) :
    exec (.peerAckReceive cell r.serial n w bs) s = .next (peerSettle s cell (withAckFlags r w) n) := by
  change execPeerAckReceive cell r.serial n w bs s = _
  unfold execPeerAckReceive
  simp [hc, hn, hopen, hp, hw, withAckFlags]

theorem exec_peerAck_failed (hw : bits w 7 0 ≠ 0) : exec (.peerAckReceive cell r.serial n w bs) s =
    .next (peerSettle s cell (dropRest r (peerCode (bits w 7 0)) n) n) := by
  change execPeerAckReceive cell r.serial n w bs s = _
  unfold execPeerAckReceive
  simp [hc, hn, hopen, hw]

/-- The acknowledgement of a chunk is noted, with its flags. -/
theorem peerAck_noted (hp : fromPeer r = false) (hw : bits w 7 0 = 0) (hnext : r.next < r.chunks) :
    ∃ t, exec (.peerAckReceive cell r.serial n w bs) s = .next t ∧ SameBytes s t ∧
      CopyIs t cell r.serial (fun q => q.acks = r.acks.erase n ∧ q.fail = r.fail ∧
        q.flags = r.flags ||| BitVec.ofNat 5 (bits w 12 8)) := by
  refine ⟨_, exec_peerAck_ok hc hn hopen hp hw, ?_⟩
  rw [peerSettle, settleCopy_unissued (r := peerDone (withAckFlags r w) n) _ cell hnext]
  exact ⟨sameBytes_trans (sameBytes_forgetSent s cell _ _) (sameBytes_setCopy ..),
    copyIs_of_copyOf (copyOf_setCopy_same ((copyOf_forgetSent ..).trans hc) rfl) ⟨rfl, rfl, rfl⟩⟩

end

/-- A failure of the only chunk that is waited for ends the copy with it. -/
theorem peerAck_fails {s : State} {cell n : Nat} {r : CopyRun} {w : Word} {bs : List Byte} (hc : s.copyOf cell r.serial = some r)
    (hphase : r.phase = .running) (hacks : r.acks = [n]) (hparked : r.parked = []) (howed : r.owed = []) (hring : r.ring = none)
    (hfail : r.fail = none) (hw : bits w 7 0 ≠ 0) (hworks : copyWorks s cell r = false)
    (hopen : answerOpen s cell r.serial n (.later (.peerAck cell r.serial n w bs)) = false) :
    ∃ t, exec (.peerAckReceive cell r.serial n w bs) s = .next t ∧
      TokenSent t (4 * cell) r.cmd.word (peerCode (bits w 7 0)) r.flags n := by
  have hn : n ∈ r.acks := by rw [hacks]; exact List.mem_singleton_self n
  refine ⟨_, exec_peerAck_failed hc hn hopen hw, ?_⟩
  have hcode : (dropRest r (peerCode (bits w 7 0)) n).fail = some (peerCode (bits w 7 0), n) := by
    simp [dropRest, CopyRun.failed, hfail]
  have hend : peerSettle s cell (dropRest r (peerCode (bits w 7 0)) n) n =
    finishCopy (forgetSent s cell r.serial (fun m => m = n)) cell
      (peerDone (dropRest r (peerCode (bits w 7 0)) n) n) (peerCode (bits w 7 0)) n true :=
    settleCopy_failed hphase (Nat.le_refl _) (by simp [peerDone, dropRest, hparked])
      (by simp [peerDone, dropRest, CopyRun.failed, hacks]) howed hring hcode hworks
  rw [hend]
  exact tokenSent_finishCopy _ cell (peerDone (dropRest r _ n) n) _ n true

section
variable {s : State} {cell n : Nat} {r : CopyRun} (hc : s.copyOf cell r.serial = some r) (hn : n ∈ r.acks)
include hc hn

theorem exec_timeout_again (ha : FMap.get 0 r.attempts n < 16) : exec (.peerRetransmitTimeout cell r.serial n) s =
    .next (setCopy s cell { r with attempts := FMap.put r.attempts n (FMap.get 0 r.attempts n + 1) }) := by
  change execPeerRetransmitTimeout cell r.serial n s = _
  unfold execPeerRetransmitTimeout
  simp [hc, hn, Config.peerAttempts, ha]

/-- A copy that gives up waiting: it is unreachable from chunk n on, and nothing of it is waited for. -/
def unreachable (r : CopyRun) (n : Nat) : CopyRun := { dropRest r 8 n with acks := [], attempts := [], parked := [] }

theorem exec_timeout_last (ha : 16 ≤ FMap.get 0 r.attempts n) : exec (.peerRetransmitTimeout cell r.serial n) s =
    .next (settleCopy (forgetSent s cell r.serial (fun _ => true)) cell (unreachable r n)) := by
  change execPeerRetransmitTimeout cell r.serial n s = _
  unfold execPeerRetransmitTimeout
  simp [hc, hn, Config.peerAttempts, Nat.not_lt.mpr ha, unreachable]

theorem timeout_again (ha : FMap.get 0 r.attempts n < 16) :
    ∃ t, exec (.peerRetransmitTimeout cell r.serial n) s = .next t ∧ SameBytes s t ∧
      CopyIs t cell r.serial (fun q => q.acks = r.acks ∧ FMap.get 0 q.attempts n = FMap.get 0 r.attempts n + 1) :=
  ⟨_, exec_timeout_again hc hn ha, sameBytes_setCopy ..,
    copyIs_of_copyOf (copyOf_setCopy_same hc rfl) ⟨rfl, FMap.get_put_same ..⟩⟩

theorem timeout_last (ha : 16 ≤ FMap.get 0 r.attempts n) (hphase : r.phase = .running) (howed : r.owed = []) (hring : r.ring = none)
    (hfail : r.fail = none) (hworks : copyWorks s cell r = false) :
    ∃ t, exec (.peerRetransmitTimeout cell r.serial n) s = .next t ∧ TokenSent t (4 * cell) r.cmd.word 8 r.flags n := by
  refine ⟨_, exec_timeout_last hc hn ha, ?_⟩
  have hcode : (unreachable r n).fail = some (8, n) := by simp [unreachable, dropRest, CopyRun.failed, hfail]
  rw [settleCopy_failed (s := forgetSent s cell r.serial (fun _ => true)) (r := unreachable r n) hphase (Nat.le_refl _) rfl rfl
    howed hring hcode hworks]
  exact tokenSent_finishCopy _ cell (unreachable r n) 8 n true

end

/-! ### A chunk that goes to a peer, or asks one for its bytes (R217, R359) -/

/-- What leaves with a chunk is noted behind what left before it; the copy waits for the answer. -/
theorem sendSegs_leaves (s : State) (cell : Nat) (r : CopyRun) (n : Nat) (t : Turn) (got : FMap Nat) (qs : List Seg) :
    (sendSegs s cell r n t got qs).1.cells = s.cells ∧ n ∈ (sendSegs s cell r n t got qs).2.acks ∧
      (sendSegs s cell r n t got qs).2.serial = r.serial ∧ (sendSegs s cell r n t got qs).2.geom = r.geom ∧
      ∃ m ∈ (sendSegs s cell r n t got qs).1.peerSent, m.cell = cell ∧ m.serial = r.serial ∧ m.chunk = n ∧
        m.entry = Cp.peerEntry r.geom.attr ∧ m.rpart = bits (s.peerWord (Cp.peerEntry r.geom.attr) 3) 23 20 := by
  unfold sendSegs
  extract_lets e z m
  have hz : ports z.2.1 = ports s ∧ OnlyFlags r z.2.2 := by
    simp only [z]
    split
    · exact ⟨rfl, rfl⟩
    · refine foldl_keeps (p := fun acc : List Byte × State × CopyRun => ports acc.2.1 = ports s ∧ OnlyFlags r acc.2.2) ?_ ⟨rfl, rfl⟩
      rintro ⟨bs, v, x⟩ q ⟨hports, hflags⟩
      have hy : ports (segBytes v cell (portAgent v cell false t) x got q none).2 = ports s := (ports_segBytes ..).trans hports
      dsimp only
      split
      · exact ⟨hy, hflags⟩
      · exact ⟨hy, onlyFlags_trans hflags rfl⟩
  obtain ⟨hports, hflags⟩ := hz
  have hcells : z.2.1.cells = s.cells := cells_of_ports hports
  have hserial : z.2.2.serial = r.serial := onlyFlags_serial hflags
  exact ⟨hcells, List.mem_append_right _ (List.mem_singleton_self n), hserial, (congrArg CopyRun.geom hflags).trans rfl, m,
    List.mem_append_right _ (List.mem_singleton_self m), rfl, rfl, rfl, rfl, rfl⟩

theorem copyOf_nextChunk (s : State) (cell : Nat) (r : CopyRun) (n c k : Nat) : (nextChunk s cell r n).copyOf c k =
    s.copyOf c k := by
  unfold nextChunk
  split <;> rfl

theorem peerSent_nextChunk (s : State) (cell : Nat) (r : CopyRun) (n : Nat) : (nextChunk s cell r n).peerSent = s.peerSent := by
  unfold nextChunk
  split <;> rfl

theorem fromPeer_or_toPeer {r : CopyRun} (h : Cp.peerOn r.geom.attr = true) : (fromPeer r || toPeer r) = true := by
  unfold toPeer
  rw [h]
  cases fromPeer r <;> rfl

/-- A copy whose chunk n leaves: the chunk is issued and no longer parked. -/
def leaving (r : CopyRun) (n : Nat) : CopyRun := chunkIssued { r with parked := r.parked.erase n } n

theorem leaving_fields (r : CopyRun) (n : Nat) : (leaving r n).geom = r.geom ∧ (leaving r n).serial = r.serial := by
  unfold leaving chunkIssued
  split <;> exact ⟨rfl, rfl⟩

theorem sendChunk_peer (u : State) (cell : Nat) {r : CopyRun} (n : Nat) (t : Turn) (got : FMap Nat) (qs : List Seg)
    (hp : Cp.peerOn r.geom.attr = true) : sendChunk u cell r n t got qs =
      ([], nextChunk (setCopy (sendSegs u cell (leaving r n) n t got qs).1 cell (sendSegs u cell (leaving r n) n t got qs).2) cell
        (leaving r n) n) := by
  have hgo : (fromPeer (leaving r n) || toPeer (leaving r n)) = true := by
    refine fromPeer_or_toPeer ?_
    rw [(leaving_fields r n).1]
    exact hp
  exact if_pos hgo

/-- A chunk of a copy to or from a peer has been sent: its copy is not at its end, and waits for the answer. -/
theorem chunkDone_peer {s : State} {cell n m : Nat} {q : CopyRun} (h : s.copyOf cell n = some q)
    (hp : Cp.peerOn q.geom.attr = true) (ha : q.acks ≠ []) : chunkDone cell n m s = setCopy s cell q := by
  unfold chunkDone
  simp only [h, fromPeer_or_toPeer hp, Bool.true_or, if_true]
  exact settleCopy_awaiting s cell ha

/-- What is left of a peer's copy once its chunk n has been sent. -/
theorem peerChunk_leaves (u : State) (cell : Nat) {x q : CopyRun} (n : Nat) (t : Turn) (got : FMap Nat) (qs : List Seg)
    (hu : u.copyOf cell x.serial = some q) (hp : Cp.peerOn x.geom.attr = true) :
    let v := chunkDone cell x.serial n (sendChunk u cell x n t got qs).2
    (∃ m ∈ v.peerSent, m.cell = cell ∧ m.serial = x.serial ∧ m.chunk = n ∧ m.entry = bits x.geom.attr 56 49 ∧
      m.rpart = bits (u.peerWord (bits x.geom.attr 56 49) 3) 23 20) ∧ CopyIs v cell x.serial (fun q => n ∈ q.acks) := by
  intro v
  obtain ⟨hgeom, hserial⟩ := leaving_fields x n
  obtain ⟨hcells, hacks, hser, hgeo, m, hm, hcell, hmser, hchunk, hentry, hrpart⟩ := sendSegs_leaves u cell (leaving x n) n t got qs
  rw [hserial] at hser hmser
  rw [hgeom] at hgeo hentry hrpart
  have hcopy : (sendChunk u cell x n t got qs).2.copyOf cell x.serial = some (sendSegs u cell (leaving x n) n t got qs).2 := by
    rw [sendChunk_peer u cell n t got qs hp, copyOf_nextChunk]
    exact copyOf_setCopy_same ((copyOf_congr hcells cell x.serial).trans hu) hser
  have hv : v = setCopy (sendChunk u cell x n t got qs).2 cell (sendSegs u cell (leaving x n) n t got qs).2 :=
    chunkDone_peer hcopy (by rw [hgeo]; exact hp) (List.ne_nil_of_mem hacks)
  have hsent : v.peerSent = (sendSegs u cell (leaving x n) n t got qs).1.peerSent := by
    rw [hv, sendChunk_peer u cell n t got qs hp]
    exact peerSent_nextChunk ..
  refine ⟨⟨m, by rw [hsent]; exact hm, hcell, hmser, hchunk, hentry, hrpart⟩, ?_⟩
  rw [hv]
  exact copyIs_of_copyOf (copyOf_setCopy_same hcopy hser) hacks

/-- Whether a copy reads its source here; the segments of its next chunk with the bytes that it holds for the one after it. -/
def readsHere (r : CopyRun) : Bool := !Cp.isFill r.cmd.word && !fromPeer r
def peerHeld (r : CopyRun) : List Seg :=
  chunkSegs r.cmd.word r.geom r.next ++ (if readsHere r then chunkTail r.cmd.word r.geom r.next else [])

/-- The job of the copy port that goes on with a copy's next chunk. -/
def chunkJob (cell : Nat) (r : CopyRun) : PortJob :=
  { id := 0, cell := cell, turn := .event (.copyChunk cell r.serial r.next), serial := some r.serial, fmt := copyFmt r }

/-- The copy whose next chunk leaves, with the dies noted that send its source. -/
def noted (s : State) (cell : Nat) (r : CopyRun) : CopyRun :=
  if readsHere r then
    noteDies s cell (copyNow s cell r) (.event (.copyChunk cell r.serial r.next)) (chunkSegs r.cmd.word r.geom r.next)
  else copyNow s cell r

theorem noted_fields {s : State} {cell : Nat} {r : CopyRun} (h : s.copyOf cell r.serial = some r) :
    (noted s cell r).serial = r.serial ∧ (noted s cell r).geom = r.geom := by
  unfold noted
  rw [copyNow_eq h]
  split
  · unfold noteDies
    split <;> exact ⟨rfl, rfl⟩
  · exact ⟨rfl, rfl⟩

section
variable {s u : State} {cell : Nat} {r : CopyRun} (hc : Copying s cell r) (hphase : r.phase = .running) (hnext : r.next < r.chunks)
  (hp : Cp.peerOn r.geom.attr = true) (hmc : Cp.isMc r.cmd.word = false) (hop : opc r.cmd.word ≠ 0x19)
  (hscat : scatBehind s cell r r.next = false)
  (hfull : replayFull s cell (.event (.copyChunk cell r.serial r.next)) = false)
include hc hphase hnext hp hmc hop hscat hfull

/-- The next chunk of a copy to or from a peer takes its course in the port; nothing is judged on the peer's side. -/
theorem exec_peerChunk : ∃ stop, exec (.copyChunk cell r.serial r.next) s = .next (portWork (setCopy s cell r) (chunkJob cell r)
    (if readsHere r then (peerHeld r).flatMap (fun q => spotsOf s cell q.src q.ns) else [])
    (fun v => judgeSegs v cell (copyNow v cell r) (.event (.copyChunk cell r.serial r.next)) (readsHere r) false (peerHeld r)) stop
    (fun got v => sendChunk v cell (noted v cell r) r.next (.event (.copyChunk cell r.serial r.next)) got
      (chunkSegs r.cmd.word r.geom r.next))
    (chunkDone cell r.serial r.next)) := by
  obtain ⟨hcopy, hclock⟩ := hc
  have hdst : (!fromPeer r && !toPeer r) = false := by rw [← Bool.not_or, fromPeer_or_toPeer hp]; rfl
  have hreads (l : List Spot) : (if (!(!Cp.isFill r.cmd.word && !fromPeer r) || Cp.isRed r.cmd.word && !toPeer r) = true then []
      else l) = if readsHere r then l else [] := by
    unfold readsHere toPeer
    rw [hp]
    cases fromPeer r <;> cases Cp.isFill r.cmd.word <;> simp
  have hdead : markDead s cell r r.next (chunkSegs r.cmd.word r.geom r.next) = r := by
    rw [markDead, hmc]
    rfl
  apply Exists.intro
  change execCopyChunk cell r.serial r.next s = _
  unfold execCopyChunk
  simp only [hcopy, whenRunning, hclock, hphase, hnext, if_neg hop, true_and, decide_true, Bool.true_or, Bool.not_true,
    Bool.false_eq_true, if_false, Option.isSome_none, runChunk, hscat, hfull, Bool.false_and, Bool.or_self, hdead, hdst, hreads]
  exact rfl


/-- A chunk that is judged fine, with all that it reads, is noted as sent and waited for. -/
theorem peerChunk_sent {got : FMap Nat}
    (h : TurnReady (setCopy s cell r) cell (.event (.copyChunk cell r.serial r.next))
      (if readsHere r then (peerHeld r).flatMap (fun q => spotsOf s cell q.src q.ns) else [])
      (fun v => judgeSegs v cell r (.event (.copyChunk cell r.serial r.next)) (readsHere r) false (peerHeld r)) u got)
    (hu : u.copyOf cell r.serial = some r) :
    ∃ t m, exec (.copyChunk cell r.serial r.next) s = .next t ∧ m ∈ t.peerSent ∧ m.cell = cell ∧ m.serial = r.serial ∧
      m.chunk = r.next ∧ m.entry = bits r.geom.attr 56 49 ∧ m.rpart = bits (u.peerWord (bits r.geom.attr 56 49) 3) 23 20 ∧
      CopyIs t cell r.serial (fun q => r.next ∈ q.acks) := by
  have hset : (setCopy s cell r).copyOf cell r.serial = some r := copyOf_setCopy_same hc.1 rfl
  have hready : TurnReady (setCopy s cell r) cell (.event (.copyChunk cell r.serial r.next))
      (if readsHere r then (peerHeld r).flatMap (fun q => spotsOf s cell q.src q.ns) else [])
      (fun v => judgeSegs v cell (copyNow v cell r) (.event (.copyChunk cell r.serial r.next)) (readsHere r) false (peerHeld r)) u
        got :=
    turnReady_copyNow (judged := fun v x => judgeSegs v cell x _ _ false _) hset h
  obtain ⟨hserial, hgeom⟩ := noted_fields hu
  have hpeer : Cp.peerOn (noted u cell r).geom.attr = true := by rw [hgeom]; exact hp
  have hcopy : u.copyOf cell (noted u cell r).serial = some r := by rw [hserial]; exact hu
  have hleaves := peerChunk_leaves u cell r.next (.event (.copyChunk cell r.serial r.next)) got
    (chunkSegs r.cmd.word r.geom r.next) hcopy hpeer
  rw [hserial, hgeom] at hleaves
  obtain ⟨⟨m, hm, hcell, hser, hchunk, hentry, hrpart⟩, hacks⟩ := hleaves
  have hnil : (sendChunk u cell (noted u cell r) r.next (.event (.copyChunk cell r.serial r.next)) got
      (chunkSegs r.cmd.word r.geom r.next)).1 = [] := by rw [sendChunk_peer u cell r.next _ got _ hpeer]
  obtain ⟨stop, he⟩ := exec_peerChunk hc hphase hnext hp hmc hop hscat hfull
  refine ⟨_, m, ?_, hm, hcell, hser, hchunk, hentry, hrpart, hacks⟩
  rw [he, portWork_ready (j := chunkJob cell r) hready, hnil, List.isEmpty_nil, if_pos rfl]

end

/-! ### A chunk from a peer (R58, R158, R217, R218) -/

/-- The answer to a peer's chunk. -/
def answered (s : State) (peer src serial chunk code : Nat) (fl : FlagBits) (bs : List Byte) : State :=
  { s with
    peerOut := some
      { peer := peer, srcCell := src, serial := serial, chunk := chunk, code := code, flags := fl, bytes := bs } }

/-- What a chunk comes to that has been judged fine: its bytes are applied and noted, or those that it asks for are read. -/
def chunkServed (u : State) (peer src serial chunk : Nat) (g : Agent) (va : Word) (red : Nat) (bs : List Byte) : State :=
  if red < 5 then
    let z := peerApply u g va red bs
    answered { z.1 with peerSeen := z.1.peerSeen ++ [((peer, src, serial, chunk), z.2)] } peer src serial chunk 0 z.2 []
  else
    match readVirt u g va (peerSize red bs) with
    | (.val v, t) => answered t peer src serial chunk 0 0#5 (toBytes (peerSize red bs) v)
    | (_, t) => answered t peer src serial chunk 6 0#5 []

theorem ports_peerApply_write (s : State) (g : Agent) (va : Word) (bs : List Byte) : ports (peerApply s g va 0 bs).1 = ports s :=
  (ports_flushDie ..).trans (ports_writePagesFuel ..)

section
variable {s u : State} {peer src serial chunk rpart red n : Nat} {addr : BitVec 128} {udp : BitVec 16} {va : Word} {bs : List Byte}

theorem peerChunk_refused (h : admitting s addr udp rpart = none) :
    exec (.peerChunkReceive peer src serial chunk addr udp rpart va red bs) s =
      .next (answered s peer src serial chunk 7 0#5 []) := by
  change execPeerChunkReceive peer src serial chunk addr udp rpart va red bs s = _
  unfold execPeerChunkReceive
  simp only [h]
  rfl

theorem asid_inside {asid lo hi : Nat} (hlo : lo ≤ asid) (hhi : asid ≤ hi) : ¬(decide (asid < lo) || decide (hi < asid)) =
    true := by
  simp [Nat.not_lt.mpr hlo, Nat.not_lt.mpr hhi]

/-- Whether a peer's chunk has been applied. -/
def seenChunk (s : State) (peer src serial chunk : Nat) : Bool :=
    s.peerSeen.any (fun q => decide (q.1 = (peer, src, serial, chunk)))

/-- The engine of the peer table's entry n, with a chunk as its turn. -/
def chunkAgent (s : State) (peer src serial chunk rpart red n : Nat) (addr : BitVec 128) (udp : BitVec 16) (va : Word)
    (bs : List Byte) : Agent :=
  peerAgent s n rpart (decide (red < 5)) (.later (.peerChunk peer src serial chunk addr udp rpart va red bs))

variable (hadm : admitting s addr udp rpart = some n)
include hadm

theorem peerChunk_outside (h : bits (s.peerWord n 3) 36 24 < s.asidLo rpart ∨ s.asidHi rpart < bits (s.peerWord n 3) 36 24) :
    exec (.peerChunkReceive peer src serial chunk addr udp rpart va red bs) s =
      .next (answered s peer src serial chunk 7 0#5 []) := by
  have hout : (decide (bits (s.peerWord n 3) 36 24 < s.asidLo rpart) || decide (s.asidHi rpart < bits (s.peerWord n 3) 36 24)) =
    true := by
    simpa using h
  change execPeerChunkReceive peer src serial chunk addr udp rpart va red bs s = _
  unfold execPeerChunkReceive
  simp only [hadm]
  exact if_pos hout

variable (hlo : s.asidLo rpart ≤ bits (s.peerWord n 3) 36 24) (hhi : bits (s.peerWord n 3) 36 24 ≤ s.asidHi rpart)
include hlo hhi

/-- A chunk that has been applied is answered again with its flags. -/
theorem peerChunk_again {f : FlagBits} (hred : red < 5)
    (h : s.peerSeen.find? (fun q => decide (q.1 = (peer, src, serial, chunk))) = some ((peer, src, serial, chunk), f)) :
    exec (.peerChunkReceive peer src serial chunk addr udp rpart va red bs) s =
      .next (answered s peer src serial chunk 0 f []) := by
  have hseen : (decide (red < 5) && seenChunk s peer src serial chunk) = true := by
    rw [decide_eq_true hred, Bool.true_and]
    exact List.any_eq_true.mpr ⟨_, List.mem_of_find?_eq_some h, decide_eq_true rfl⟩
  change execPeerChunkReceive peer src serial chunk addr udp rpart va red bs s = _
  unfold execPeerChunkReceive
  simp only [hadm, h]
  exact (if_neg (asid_inside hlo hhi)).trans (if_pos hseen)

/-- A new chunk whose engine's clock runs, that the replay queue has room for and whose pages are judged fine, is served (R158). -/
theorem exec_peerChunk_fine (hnew : (decide (red < 5) && seenChunk s peer src serial chunk) = false)
    (hstep : (s.fabricOf (chunkAgent s peer src serial chunk rpart red n addr udp va bs).die).step = none)
      (hpark : peersParked s < 32)
    (h : peerPages (chunkAgent s peer src serial chunk rpart red n addr udp va bs) (decide (red < 5))
      (decide (red < 5) && decide (red ≠ 0)) (peerSize red bs / 65536 + 2) s va (peerSize red bs) = (.fine, u)) :
    exec (.peerChunkReceive peer src serial chunk addr udp rpart va red bs) s =
      .next (chunkServed u peer src serial chunk (chunkAgent s peer src serial chunk rpart red n addr udp va bs) va red bs) := by
  have hroom : replayFull s hostLink (.later (.peerChunk peer src serial chunk addr udp rpart va red bs)) = false := by
    have hload : ¬ Config.replayChunks ≤ replayLoad s hostLink := Nat.not_le.mpr hpark
    rw [replayFull, decide_eq_false hload]
    rfl
  change execPeerChunkReceive peer src serial chunk addr udp rpart va red bs s = _
  unfold seenChunk at hnew
  unfold chunkAgent at hstep h ⊢
  unfold execPeerChunkReceive
  simp only [hadm, hnew, hstep, hroom, h]
  exact if_neg (asid_inside hlo hhi)

/-- A chunk of bytes is applied once and noted as applied. -/
theorem peerChunk_applied (hnew : ∀ q ∈ s.peerSeen, q.1 ≠ (peer, src, serial, chunk))
    (hstep : (s.fabricOf (chunkAgent s peer src serial chunk rpart 0 n addr udp va bs).die).step = none)
      (hpark : peersParked s < 32)
    (h : peerPages (chunkAgent s peer src serial chunk rpart 0 n addr udp va bs) true false (bs.length / 65536 + 2) s va bs.length =
      (.fine, u)) :
    ∃ t, exec (.peerChunkReceive peer src serial chunk addr udp rpart va 0 bs) s =
      .next (answered t peer src serial chunk 0 0#5 []) ∧
      t.peerSeen = u.peerSeen ++ [((peer, src, serial, chunk), 0#5)] ∧ t.cells = u.cells := by
  have hseen : (decide (0 < 5) && seenChunk s peer src serial chunk) = false := by simpa [seenChunk] using hnew
  have hports := ports_peerApply_write u (chunkAgent s peer src serial chunk rpart 0 n addr udp va bs) va bs
  have hcells := cells_of_ports hports
  refine ⟨_, exec_peerChunk_fine hadm hlo hhi hseen hstep hpark h, ?_, ?_⟩
  · exact congrArg (· ++ [((peer, src, serial, chunk), 0#5)]) (peerSeen_of_ports hports)
  · exact hcells

/-- A chunk that asks for bytes is answered with them. -/
theorem peerChunk_read (hred : 5 ≤ red)
    (hstep : (s.fabricOf (chunkAgent s peer src serial chunk rpart red n addr udp va bs).die).step = none)
      (hpark : peersParked s < 32)
    (h : peerPages (chunkAgent s peer src serial chunk rpart red n addr udp va bs) false false ((red - 5) / 65536 + 2) s va
      (red - 5) =
      (.fine, u)) {v : Nat} {t : State}
    (hv : readVirt u (chunkAgent s peer src serial chunk rpart red n addr udp va bs) va (red - 5) = (.val v, t)) :
    exec (.peerChunkReceive peer src serial chunk addr udp rpart va red bs) s =
      .next (answered t peer src serial chunk 0 0#5 (toBytes (red - 5) v)) := by
  have hlt : ¬ red < 5 := Nat.not_lt.mpr hred
  have hsize : peerSize red bs = red - 5 := by rw [peerSize, if_neg (by omega), if_pos hred]
  rw [exec_peerChunk_fine hadm hlo hhi (u := u) (by simp [hlt]) hstep hpark (by rw [hsize]; simpa [hlt] using h), chunkServed,
    if_neg hlt, hsize, hv]

end

/-- Settles O39: the sender's side by what comes back for a chunk, then the receiver's by what the peer table admits. -/
theorem peerTransport : Obligations.PeerTransport := by
  refine ⟨fun s cell n r w bs hc hn hopen hnext hp hw => peerAck_noted hc hn hopen hp hw hnext,
    fun s cell n r w bs hc hphase hacks hparked howed hring hfail hw hworks hopen => ?_,
    fun s cell n r hc hn hphase hparked howed hring hfail => ⟨timeout_again hc hn,
      fun ha hworks => timeout_last hc hn ha hphase howed hring hfail hworks⟩,
    fun s u cell r got hc hphase hnext hp hmc hop hscat => ?_,
    fun s u peer src serial chunk rpart red n addr udp va bs hadm => ?_,
    fun s peer src serial chunk rpart red addr udp va bs h => peerChunk_refused h⟩
  · intro c
    rw [← peerCode_eq c]
    exact peerAck_fails hc hphase hacks hparked howed hring hfail hw hworks hopen
  · intro turn src qs held hfull hready hu
    exact peerChunk_sent hc hphase hnext hp hmc hop hscat hfull hready hu
  · intro asid g i answer
    refine ⟨peerChunk_outside hadm, fun hlo hhi => ⟨fun f hred h => peerChunk_again hadm hlo hhi hred h, fun hstep hpark =>
      ⟨?_, ?_⟩⟩⟩
    · rintro rfl hnew h
      exact peerChunk_applied hadm hlo hhi hnew hstep hpark h
    · exact fun hred h v t hv => peerChunk_read hadm hlo hhi hred hstep hpark h hv

end Sys2Proof.Machine
end
section
/-! O7: what `csrr` reads, and the accesses that a CSR instruction refuses. -/

namespace Sys2Proof.Machine
open Claims

/-! ### A destination and its bound -/

theorem boundS_single {x : Slot} {r : Nat} (h : r < x.ns) : boundS x [r] = .ok () := by
  rw [boundS, if_pos h]
  rfl

theorem writeS_writable {x : Slot} {d : BitVec 6} (h : Writable x d) (v : Word) : writeS x d.toNat v = .ok (x.putS d.toNat v) :=
  writeS_ok.mpr ⟨h.2, rfl⟩

/-! ### The two refusals of a CSR instruction (R72, R73) -/

theorem csrRes_unlisted {s : State} {n : Nat} (h : csrValue s s.cur n = none) (i : Instr) (d : BitVec 6)
    (a : Option (BitVec 6)) (f : Word → Word → Word) : csrRes i n d a f s = .error (.trap cIllegal 0 (wordOf i)) := by
  unfold csrRes
  rw [h]
  rfl

theorem csrRes_barred {s : State} {n : Nat} {a : Option (BitVec 6)} (hv : (csrValue s s.cur n).isSome = true)
    (h : (csrReadable s n && (a.isNone || csrWritable s n)) = false) (i : Instr) (d : BitVec 6) (f : Word → Word → Word) :
    csrRes i n d a f s = .error (.trap cPriv 0 (wordOf i)) := by
  unfold csrRes
  rw [hv, h]
  rfl

theorem csrReadable_of_level {s : State} {n : Nat} (h : 0x120 ≤ n ∧ n < 0x140 → s.levelY s.cur = true) :
    csrReadable s n = true := by
  unfold csrReadable
  by_cases hn : 0x120 ≤ n ∧ n < 0x140
  · rw [h hn, Bool.or_true]
  · simp only [← Bool.decide_and, decide_eq_false hn, Bool.not_false, Bool.true_or]

theorem csrReadable_forward {s : State} {n : Nat} (h0 : 0x120 ≤ n) (h1 : n < 0x140) (h : s.levelY s.cur = false) :
    csrReadable s n = false := by
  simp only [csrReadable, h, decide_eq_true h0, decide_eq_true h1, Bool.and_self, Bool.not_true, Bool.or_self]

theorem csrWritable_gaffers {s : State} {n : Nat} (h : (0x220 ≤ n ∧ n < 0x228) ∨ n = 0x233 ∨ n = 0x234)
    (hg : isGaffer s.cur = false) : csrWritable s n = false := by
  unfold csrWritable
  rw [hg, Bool.or_false, ← Bool.decide_and, ← Bool.decide_or, ← Bool.decide_or, decide_eq_true (by tauto), Bool.not_true]

/-- The forwarding entries, the windows, TDCTL and MWT are in the table of R72. -/
theorem csrValue_forward {n : Nat} (s : State) (sid : Nat) (h0 : 0x120 ≤ n) (h1 : n < 0x140) :
    (csrValue s sid n).isSome = true := by
  simp only [csrValue, decide_eq_true h0, decide_eq_true h1, Bool.and_self, if_true, Option.isSome_some]

theorem csrValue_gaffers {n : Nat} (s : State) (sid : Nat) (h : (0x220 ≤ n ∧ n < 0x228) ∨ n = 0x233 ∨ n = 0x234) :
    (csrValue s sid n).isSome = true := by
  obtain ⟨h0, h1⟩ | rfl | rfl := h
  · unfold csrValue
    dsimp only
    rw [if_neg (by simp; omega), if_neg (by simp; omega), if_neg (by simp; omega), if_pos (by simp; omega)]
    rfl
  · rfl
  · rfl

theorem finish_takesTrap {s : State} {r : Res} {c d : Nat} {v : Word} (hv : vecOpen s s.cur = false)
    (h : r = .error (.trap c d v)) : ∃ t, finish s r = .next t ∧ TakesTrap s t c d v :=
  ⟨_, by rw [h, finish_trap], takesTrap_trapNow rfl hv c d v⟩

/-! ### A read that completes -/

theorem csrRes_read {s : State} {i : Instr} {n : Nat} {d : BitVec 6} {v : Word} (hv : csrValue s s.cur n = some v)
    (hr : csrReadable s n = true) (hd : Writable (here s) d) (hw : n = 0x12 → vectorBusy s s.cur = false)
    (f : Word → Word → Word) : csrRes i n d none f s = .ok (done s ((here s).putS d.toNat v)) := by
  have hbusy : (!(decide (n = 0x12) && vectorBusy s s.cur)) = true := by
    by_cases hn : n = 0x12
    · rw [hw hn, Bool.and_false, Bool.not_false]
    · rw [decide_eq_false hn, Bool.false_and, Bool.not_false]
  rw [csrRes, hv, hr]
  dsimp only
  rw [hbusy]
  change (boundS (here s) [d.toNat] >>= fun _ => writeS (here s) d.toNat v >>= fun y => Except.ok (done s y)) = _
  rw [boundS_single hd.1, writeS_writable hd]
  rfl

/-- The instructions that write a CSR are `csrRes` at their number, registers and function. -/
theorem exec_csrOf {i : Instr} {n : Nat} {d a : BitVec 6} {f : Word → Word → Word} (h : csrOf i = some (n, d, a, f))
    (s : State) : exec i s = finish s (csrRes i n d (some a) f s) := by
  unfold csrOf at h
  split at h
  all_goals cases h <;> rfl

/-- Settles O7: reads complete, and either guard of `csrRes` that fails is the trap. -/
theorem csrReadsAndRefusals : Obligations.CsrReadsAndRefusals := by
  refine ⟨fun s d c v hv hl hd hw => ⟨_, ?read, onlyIssuer_done s _ 2, here_done s _ _ 2⟩,
    fun s d c ho => ⟨fun hv => ?unlisted, fun h0 h1 hl => ?forward⟩, fun s i n d a f hi ho => ?write⟩
  case read =>
    change finish s (csrRes (.csrr d c) c.toNat d none _ s) = _
    rw [csrRes_read hv (csrReadable_of_level hl) hd hw, finish_ok]
  case unlisted => exact finish_takesTrap ho (csrRes_unlisted hv ..)
  case forward =>
    exact finish_takesTrap ho (csrRes_barred (csrValue_forward s s.cur h0 h1)
      (by rw [csrReadable_forward h0 h1 hl, Bool.false_and]) ..)
  case write =>
    rw [exec_csrOf hi s]
    refine ⟨fun hv => finish_takesTrap ho (csrRes_unlisted hv ..), fun hn hg => ?_, fun h0 h1 hl => ?_⟩
    · exact finish_takesTrap ho (csrRes_barred (csrValue_gaffers s s.cur hn)
        (by rw [csrWritable_gaffers hn hg, Option.isNone_some, Bool.or_self, Bool.and_false]) ..)
    · exact finish_takesTrap ho (csrRes_barred (csrValue_forward s s.cur h0 h1)
        (by rw [csrReadable_forward h0 h1 hl, Bool.false_and]) ..)

end Sys2Proof.Machine
end
section
/-! O43: where an access at the translation unit goes: on to its slice, back with a refusal, or into a fault record. -/

namespace Sys2Proof.Machine
open Claims

/-! ### An access that is answered or that arrives is found in its new form -/

theorem findAccess_mem {s : State} {a : Access} (h : s.findAccess a.id = some a) : a ∈ s.flight := List.mem_of_find?_eq_some h

theorem replied_reply {s : State} {a : Access} (h : a ∈ s.flight) (r : Reply) : Replied (reply s a r) a r :=
  ⟨findAccess_setAccess (a := { a with stage := .reply r }) h rfl, due_pushE _ _⟩

theorem sameBytes_reply (s : State) (a : Access) (r : Reply) : SameBytes s (reply s a r) := sameBytes_of_eq rfl rfl rfl

theorem findAccess_arrive {s : State} {a b : Access} (hb : b ∈ s.flight) (he : b.id = a.id) :
    (s.arrive a).findAccess a.id = some { a with entered := s.nextId } :=
  findAccess_setAccess (a := { a with entered := s.nextId }) hb he

/-! ### The verdict of a store (R274, R344) -/

theorem vecVerdict_flight (s : State) (core vid : Nat) : (vecVerdict s core vid).flight = s.flight := by
  unfold vecVerdict
  split
  · rfl
  · split
    · split <;> rfl
    · rfl

theorem sameBytes_vecVerdict (s : State) (core vid : Nat) : SameBytes s (vecVerdict s core vid) := by
  unfold vecVerdict
  split
  · exact sameBytes_of_eq rfl rfl rfl
  · split
    · split <;> exact sameBytes_of_eq rfl rfl rfl
    · exact sameBytes_of_eq rfl rfl rfl

theorem storeVerdict_flight (s : State) (a : Access) : (storeVerdict s a).flight = s.flight := by
  unfold storeVerdict
  split
  · rfl
  · split
    · rfl
    · split
      · rfl
      · exact vecVerdict_flight ..
    · rfl

theorem sameBytes_storeVerdict (s : State) (a : Access) : SameBytes s (storeVerdict s a) := by
  unfold storeVerdict
  split
  · exact sameBytes_of_eq rfl rfl rfl
  · split
    · exact sameBytes_of_eq rfl rfl rfl
    · split
      · exact sameBytes_of_eq rfl rfl rfl
      · exact sameBytes_vecVerdict ..
    · exact sameBytes_of_eq rfl rfl rfl

/-! ### On to the slice (R100, R132, R271) -/

/-- A page of ATTR 0 refuses nothing. -/
theorem attrRefusal_zero (a : Access) : attrRefusal a 0 = none := by
  unfold attrRefusal
  cases a.op <;> rfl

theorem toSlice_poisoned {s : State} {a : Access} {pa r : Nat} (h : isSystem pa = false) (hp : a.poison = some r) (key : Nat) :
    toSlice s a pa key 0 none = reply s a (.register r) := by
  unfold toSlice
  rw [attrRefusal_zero, h, hp]
  simp

/-- The bit that notes whether the page may be written. -/
def writeBit (s : State) (a : Access) : Nat :=
  match translate s (s.partN a.cell) (dieOf a.cell) (s.casid a.cell) a.va.toNat false true false with
  | (.ok _ _ _, _) => 4
  | _ => 0

theorem writeBit_mod (s : State) (a : Access) : writeBit s a % 4 = 0 := by
  unfold writeBit
  split <;> rfl

/-- The access as its slice gets it. -/
def sliced (s : State) (a : Access) (pa key : Nat) : Access :=
  { a with pa := pa, key := key, attr := 0 + writeBit s a, stage := .slice (sliceOf s a pa), pa2 := 0, key2 := 0 }

theorem toSlice_sound {s : State} {a : Access} {pa : Nat} (h : isSystem pa = false) (hp : a.poison = none) (key : Nat) :
    toSlice s a pa key 0 none =
      (storeVerdict (s.arrive (sliced s a pa key)) (sliced s a pa key)).pushE (sliceEvent (sliced s a pa key)) := by
  have hp : a.poison.map Reply.register = none := congrArg (Option.map Reply.register) hp
  unfold toSlice
  rw [attrRefusal_zero, h, hp]
  simp only [Bool.or_self, Bool.and_false, Bool.false_and, Bool.false_eq_true, if_false]
  rfl

theorem sliceOf_plain {a : Access} (h : a.op.isLoad = true ∨ a.op.isStore = true) (s : State) (pa : Nat) :
    sliceOf s a pa = dieOf a.cell := by
  unfold sliceOf
  revert h
  cases a.op <;> simp [MemOp.isLoad, MemOp.isStore]

theorem sliceOf_home {a : Access} (hl : a.op.isLoad = false) (hs : a.op.isStore = false) (s : State) (pa : Nat) :
    sliceOf s a pa = homeDie s pa := by
  unfold sliceOf
  revert hl hs
  cases a.op <;> simp [MemOp.isLoad, MemOp.isStore]

theorem findAccess_toSlice {s : State} {a : Access} {pa : Nat} (ha : a ∈ s.flight) (h : isSystem pa = false)
    (hp : a.poison = none) (key : Nat) :
    (toSlice s a pa key 0 none).findAccess a.id = some { sliced s a pa key with entered := s.nextId } := by
  rw [toSlice_sound h hp, State.findAccess]
  change (storeVerdict (s.arrive (sliced s a pa key)) (sliced s a pa key)).flight.find? _ = _
  rw [storeVerdict_flight]
  exact findAccess_arrive (a := sliced s a pa key) ha rfl

theorem sameBytes_toSlice {s : State} {a : Access} {pa : Nat} (h : isSystem pa = false) (hp : a.poison = none) (key : Nat) :
    SameBytes s (toSlice s a pa key 0 none) := by
  rw [toSlice_sound h hp]
  have harrive : SameBytes s (s.arrive (sliced s a pa key)) := sameBytes_of_eq rfl rfl rfl
  exact sameBytes_trans harrive (sameBytes_trans (sameBytes_storeVerdict ..) (sameBytes_of_eq rfl rfl rfl))

/-! ### Parked on a fault record (R108, R109) -/

theorem sameBytes_demandFault (s : State) (p asid kind source : Nat) (va : Word) :
    SameBytes s (demandFault s p asid kind source va) := by
  obtain ⟨m, h⟩ := count_eq s (diePerf (sourceDie source)) 8 1
  unfold demandFault
  dsimp only
  rw [h]
  split <;> exact sameBytes_of_eq rfl rfl rfl

theorem demandFault_slots (s : State) (p asid kind source : Nat) (va : Word) :
    (demandFault s p asid kind source va).slots = s.slots := by
  obtain ⟨m, h⟩ := count_eq s (diePerf (sourceDie source)) 8 1
  unfold demandFault
  dsimp only
  rw [h]
  split <;> rfl

/-- The record that the fault joins, or the one that it makes. -/
theorem demandFault_record (s : State) (p asid kind source : Nat) (va : Word) :
    ∃ f ∈ (demandFault s p asid kind source va).faults, f.part = p ∧ f.asid = asid ∧ f.va.toNat / 65536 = va.toNat / 65536 := by
  obtain ⟨m, h⟩ := count_eq s (diePerf (sourceDie source)) 8 1
  unfold demandFault
  dsimp only
  rw [h]
  split
  next hany =>
    obtain ⟨f, hf, hq⟩ := List.any_eq_true.mp hany
    simp only [Bool.and_eq_true, decide_eq_true_eq] at hq
    obtain ⟨⟨⟨hp, hasid⟩, hpage⟩, -⟩ := hq
    exact ⟨f, hf, hp, hasid, hpage⟩
  next => exact ⟨_, List.mem_append_right _ (List.mem_singleton_self _), rfl, rfl, rfl⟩

theorem restoreOne_status (x : Slot) (q : Nat) : (Slot.restoreOne x q).status = x.status := by
  unfold Slot.restoreOne
  simp only [apply_ite Slot.status, ite_self]

theorem restoreTaken_status (x : Slot) (cons : List Nat) : (x.restoreTaken cons).status = x.status := by
  unfold Slot.restoreTaken
  induction cons generalizing x with
  | nil => rfl
  | cons q qs ih => rw [List.foldl_cons, ih, restoreOne_status]

theorem unoweD_status (x : Slot) (d : Nat) (f : Bool) : (x.unoweD d f).status = x.status := by
  simp only [Slot.unoweD, Slot.unoweS, Slot.unoweV, apply_ite Slot.status, ite_self]

theorem lowerUnack_status (x : Slot) : (lowerUnack x).status = x.status := rfl

theorem undoIssue_status (x : Slot) (pc : Word) (dst : Option Nat) (oldF : Bool) (cons : List Nat) (counts : Bool) :
    (undoIssue x pc dst oldF cons counts).status = x.status := by
  unfold undoIssue
  cases dst <;> simp only [apply_ite Slot.status, lowerUnack_status, restoreTaken_status, unoweD_status, ite_self]

/-- A slot parked at the instruction of an access, which waits for the answer of a fault record. -/
def parkedAt (s : State) (a : Access) (asid sid : Nat) (x : Slot) (pc va : Word) : State :=
  let held : Access := { a with
    src := .slot sid x.gen pc none true [] false, stage := .faulted, pa := va.toNat, key := asid }
  { s.setSlot sid { x with park := some .fault } with flight := s.flight ++ [held] }

theorem parkedAt_slot (s : State) (a : Access) (asid sid : Nat) (x : Slot) (pc va : Word) :
    (parkedAt s a asid sid x pc va).slot sid = { x with park := some .fault } := State.slot_setSlot_same ..

theorem sameBytes_parkedAt (s : State) (a : Access) (asid sid : Nat) (x : Slot) (pc va : Word) :
    SameBytes s (parkedAt s a asid sid x pc va) := sameBytes_of_eq rfl rfl rfl

theorem parkedAt_faults (s : State) (a : Access) (asid sid : Nat) (x : Slot) (pc va : Word) :
    (parkedAt s a asid sid x pc va).faults = s.faults := rfl

/-- The fault of an access at an address, once the access itself is out of flight. -/
def faulted (s : State) (a : Access) (va : Word) : State :=
  demandFault (s.dropAccess a.id) (s.partN a.cell) (s.casid a.cell) a.op.kind.detail (globalPos a.core) va

theorem sameBytes_faulted (s : State) (a : Access) (va : Word) : SameBytes s (faulted s a va) := by
  have hdrop : SameBytes s (s.dropAccess a.id) := sameBytes_of_eq rfl rfl rfl
  exact sameBytes_trans hdrop (sameBytes_demandFault ..)

theorem parkOnWalk_live {s : State} {a : Access} {sid : Nat} {gen : BitVec 8} {pc : Word} {dst : Option Nat} {oldF counts : Bool}
    {cons : List Nat} {k : Nat} (hsrc : a.src = .slot sid gen pc dst oldF cons counts) (hk : resolveSlot s sid gen = some k)
    (hl : (s.slot k).status = .live) (va : Word) :
    parkOnWalk s a va =
      parkedAt (faulted s a va) a (s.casid a.cell) k (undoIssue (s.slot k) pc dst oldF cons counts) pc va := by
  have hon : (undoIssue (s.slot k) pc dst oldF cons counts).goesOn = true := by
    rw [Slot.goesOn, undoIssue_status, hl]
  unfold parkOnWalk
  rw [hsrc]
  dsimp only
  rw [hk]
  dsimp only
  rw [if_pos hon]
  rfl

/-! ### The walk of an access within one page -/

/-- What the end of the translation of an access's one page makes of it. -/
def walked (a : Access) : Xlate × State → State
  | (.denied, u) => reply u a (.page a.op.kind.detail a.va)
  | (.demand, u) => parkOnWalk u a a.va
  | (.ok pa key attr, u) => toSlice u a pa key attr none

theorem exec_translationWalk {s : State} {a : Access} {d : Nat} (ha : s.findAccess a.id = some a) (hstage : a.stage = .walk d)
    (hpage : a.va.toNat % 65536 + a.op.size ≤ 65536) (hw : answerWaits s a = false) (hl : lowerUnjudged s a = false)
    (hattr : pageAttr s a a.va ≠ some 2) :
    exec (.translationWalk a.id) s =
      .next (walked a (translate s (s.partN a.cell) d (s.casid a.cell) a.va.toNat a.op.needsRd a.op.needsWr false)) := by
  have hspan : spansPages a = false := decide_eq_false (by omega)
  change execTranslationWalk a.id s = _
  unfold execTranslationWalk
  rw [ha]
  dsimp only
  rw [hstage]
  dsimp only
  rw [hw, hl, if_neg (by decide), decide_eq_false hattr, Bool.false_and, if_neg (by decide), hspan]
  generalize translate s (s.partN a.cell) d (s.casid a.cell) a.va.toNat a.op.needsRd a.op.needsWr false = r
  obtain ⟨x, u⟩ := r
  cases x <;> rfl

/-- Settles O43, by the end of the translation. -/
theorem translationWalks : Obligations.TranslationWalks := by
  intro s u a d x ha hstage hpage hw hl hattr ht hflight hphys hcells hcommons
  have hmem : a ∈ u.flight := hflight ▸ findAccess_mem ha
  have hsame : SameBytes s u := sameBytes_of_eq hphys hcells hcommons
  have hrun := exec_translationWalk ha hstage hpage hw hl hattr
  rw [ht] at hrun
  refine ⟨?poisoned, ?sound, ?denied, ?demand⟩
  case poisoned =>
    rintro pa key r rfl hsys hp
    refine ⟨_, hrun, ?_⟩
    rw [walked, toSlice_poisoned hsys hp]
    exact ⟨sameBytes_trans hsame (sameBytes_reply ..), replied_reply hmem _⟩
  case sound =>
    rintro pa key rfl hsys hp
    refine ⟨_, { sliced u a pa key with entered := u.nextId }, hrun, sameBytes_trans hsame (sameBytes_toSlice hsys hp key),
      findAccess_toSlice hmem hsys hp key, rfl, ?_, sliceOf u a pa, rfl, fun h => sliceOf_plain h u pa,
      fun h0 h1 => sliceOf_home h0 h1 u pa⟩
    exact (congrArg (· % 4) (Nat.zero_add _)).trans (writeBit_mod u a)
  case denied =>
    rintro rfl
    exact ⟨_, hrun, sameBytes_trans hsame (sameBytes_reply ..), replied_reply hmem _⟩
  case demand =>
    rintro sid gen pc dst oldF cons counts k rfl hsrc hk hlive
    refine ⟨_, hrun, ?_⟩
    rw [walked, parkOnWalk_live hsrc hk hlive, parkedAt_slot, parkedAt_faults]
    exact ⟨sameBytes_trans hsame (sameBytes_trans (sameBytes_faulted u a a.va) (sameBytes_parkedAt ..)), rfl, rfl, demandFault_record ..⟩

end Sys2Proof.Machine
end
section
/-! O33: a matrix command with a bad field, the end of an accumulator transfer, and a product's units and update. -/

namespace Sys2Proof.Machine
open Claims

/-! ### Fields of a word, read and replaced (R4) -/

theorem testBit_bits (x : Word) (hi lo i : Nat) : (bits x hi lo).testBit i = (decide (i < hi + 1 - lo) && x.getLsbD (lo + i)) := by
  rw [bits, Nat.testBit_mod_two_pow, Nat.testBit_shiftRight, BitVec.testBit_toNat]

theorem getLsbD_setBits (x : Word) {hi lo : Nat} (v : Nat) {i : Nat} (hlo : lo ≤ hi) (hi64 : i < 64) :
    (setBits x hi lo v).getLsbD i = if lo ≤ i ∧ i ≤ hi then v.testBit (i - lo) else x.getLsbD i := by
  simp only [setBits, BitVec.getLsbD_or, BitVec.getLsbD_and, BitVec.getLsbD_not, BitVec.getLsbD_ofNat, Nat.testBit_shiftLeft,
    Nat.testBit_two_pow_sub_one, Nat.testBit_mod_two_pow, hi64, decide_true, Bool.true_and]
  by_cases h0 : lo ≤ i
  · by_cases h1 : i ≤ hi
    · simp [h0, h1, show i - lo < hi + 1 - lo by omega]
    · simp [h0, h1, show ¬ i - lo < hi + 1 - lo by omega]
  · simp [h0]

theorem bits_setBits_same (x : Word) {hi lo : Nat} (v : Nat) (hlo : lo ≤ hi) (h64 : hi < 64) :
    bits (setBits x hi lo v) hi lo = v % 2 ^ (hi + 1 - lo) := by
  refine Nat.eq_of_testBit_eq fun i => ?_
  rw [testBit_bits, Nat.testBit_mod_two_pow]
  by_cases hi' : i < hi + 1 - lo
  · rw [getLsbD_setBits x v hlo (by omega), if_pos (by omega), Nat.add_sub_cancel_left]
  · rw [decide_eq_false hi', Bool.false_and, Bool.false_and]

theorem bits_setBits_apart (x : Word) {hi lo h l : Nat} (v : Nat) (hlo : lo ≤ hi) (h64 : h < 64) (hd : h < lo ∨ hi < l) :
    bits (setBits x hi lo v) h l = bits x h l := by
  refine Nat.eq_of_testBit_eq fun i => ?_
  rw [testBit_bits, testBit_bits]
  by_cases hi' : i < h + 1 - l
  · rw [getLsbD_setBits x v hlo (by omega), if_neg (by omega)]
  · rw [decide_eq_false hi', Bool.false_and, Bool.false_and]

/-! ### A command that completes (R350, R370) -/

theorem seqDone_mq (s : State) (core : Nat) (c : Cmd) (n : Nat) : ((seqDone s core c).core n).mq = (s.core n).mq := by
  have keep (f : Core → Core) (hf : ∀ k, (f k).mq = k.mq) : ((s.modCore core f).core n).mq = (s.core n).mq := by
    by_cases h : n = core
    · rw [h, State.modCore, State.core_setCore_same, hf]
    · rw [State.modCore, State.core_setCore_ne s _ h]
  unfold seqDone
  dsimp only
  split
  · rfl
  · split
    · exact keep (fun k => { k with seqM := _ }) fun _ => rfl
    · exact keep (fun k => { k with seqC := _ }) fun _ => rfl

theorem cmdToken_cores (s : State) (core : Nat) (w : CmdWord) (st : Word) : (cmdToken s core w st).cores = s.cores := by
  unfold cmdToken
  split <;> rfl

theorem completeCmd_mq (s : State) (core : Nat) (c : Cmd) (st : Word) (n : Nat) :
    ((completeCmd s core c st).core n).mq = (s.core n).mq := by
  rw [← seqDone_mq s core c n, State.core, completeCmd, cmdToken_cores, State.core]

theorem completeCmd_cells (s : State) (core : Nat) (c : Cmd) (st : Word) : (completeCmd s core c st).cells = s.cells := by
  obtain ⟨-, h, -, -⟩ := sameStores_completeCmd s core c st
  exact h

theorem sameBytes_of_sameStores {s t : State} (h : SameStores s t) : SameBytes s t := by
  obtain ⟨hp, hc, hm, -⟩ := h
  exact sameBytes_of_eq hp hc hm

theorem tokenSent_completeCmd (s : State) (core : Nat) (c : Cmd) (code : Nat) (fl : FlagBits) (info : Nat) :
    TokenSent (completeCmd s core c (statusWord code fl info)) core c.word code fl info := by
  intro hn
  unfold completeCmd cmdToken
  rw [hn, if_neg Bool.false_ne_true]
  exact ⟨_, List.mem_append_right _ (List.mem_singleton_self _), rfl, rfl, rfl, rfl, rfl⟩

theorem tokenSent_push {s : State} {core code info : Nat} {w : CmdWord} {fl : FlagBits} (h : TokenSent s core w code fl info)
    (ts : List Turn) : TokenSent (s.push ts) core w code fl info := tokenSent_mono h fun _ hk => hk

theorem seqDone_jobs (s : State) (core : Nat) (c : Cmd) : (seqDone s core c).jobs = s.jobs := by
  unfold seqDone
  dsimp only
  split
  · rfl
  · split <;> rfl

theorem completeCmd_jobs (s : State) (core : Nat) (c : Cmd) (st : Word) : (completeCmd s core c st).jobs = s.jobs := by
  rw [completeCmd, ← seqDone_jobs s core c, cmdToken]
  split <;> rfl

/-! ### A bad field (R350, R351) -/

theorem exec_isMatrix {i : Instr} {w : CmdWord} (h : isMatrix i w) (s : State) : ∃ f, exec i s = withHead s w f := by
  obtain rfl | rfl | rfl | rfl | rfl := h
  · exact ⟨startProduct false, rfl⟩
  · exact ⟨startProduct true, rfl⟩
  · exact ⟨loadTile, rfl⟩
  · exact ⟨storeTile, rfl⟩
  · exact ⟨clearAcc, rfl⟩

theorem withHead_fails {s : State} {c : Cmd} {rest : List Cmd} {n : Nat} (h : MatrixHead s c rest)
    (hf : matrixFail s (hereCore s) c = some n) (f : Nat → Cmd → State → State) :
    withHead s c.word f = .next ((completeCmd (popMatrix s (hereCore s)) (hereCore s) c (statusWord 3 0#5 n)).push
      [.matrix (hereCore s / 4)]) := by
  obtain ⟨hq, hc⟩ := h
  unfold withHead
  dsimp only
  rw [show (s.core (coreOf s.cur)).mq = c :: rest from hq]
  dsimp only
  rw [show clockStop (s.cell (coreOf s.cur / 4)) = none from hc, if_neg (by simp),
    show matrixFail s (coreOf s.cur) c = some n from hf]

theorem popMatrix_mq {s : State} {core : Nat} {c : Cmd} {rest : List Cmd} (h : (s.core core).mq = c :: rest) :
    ((popMatrix s core).core core).mq = rest := by
  rw [popMatrix, State.modCore, State.core_setCore_same, h]
  rfl

theorem matrix_bad_field {s : State} {c : Cmd} {rest : List Cmd} {i : Instr} {n : Nat} (h : MatrixHead s c rest)
    (hi : isMatrix i c.word) (hf : matrixFail s (hereCore s) c = some n) :
    ∃ t, exec i s = .next t ∧ (t.core (hereCore s)).mq = rest ∧ t.cells = s.cells ∧ SameBytes s t ∧
      TokenSent t (hereCore s) c.word 3 0#5 n := by
  obtain ⟨f, hexec⟩ := exec_isMatrix hi s
  obtain ⟨hq, -⟩ := id h
  have hdone := sameStores_completeCmd (popMatrix s (hereCore s)) (hereCore s) c (statusWord 3 0#5 n)
  refine ⟨_, hexec.trans (withHead_fails h hf f), ?_, completeCmd_cells .., sameBytes_of_sameStores hdone,
    tokenSent_push (tokenSent_completeCmd _ _ _ _ _ _) _⟩
  exact (completeCmd_mq ..).trans (popMatrix_mq hq)

/-! ### The end of an accumulator transfer (R353) -/

theorem accOf_setAcc_same (c : Cell) (n : Nat) (a : Acc) : (c.setAcc n a).accOf n = a := FMap.get_put_same ..

theorem accOf_modCell_setAcc (s : State) (cell n : Nat) (f : Cell → Acc) :
    ((s.modCell cell fun cl => cl.setAcc n (f cl)).cell cell).accOf n = f (s.cell cell) := by
  rw [State.modCell, State.cell_setCell_same, accOf_setAcc_same]

/-- The 1,024 values of a tile of elements that a job has read, as F32 bits. -/
def tileValues (el : Elem) (got : FMap Nat) : List Nat :=
  (lanes el.width (packLanes 512 ((List.range (2 * el.width)).map (FMap.get 0 got))) 1024).map
    fun b => (roundF32 .rn (elemValue el b 0 false)).1

/-- What a loaded tile makes of its accumulator. -/
def tileTaken (j : PortJob) (el : Elem) (a : Acc) : Acc :=
  if j.fail.isSome then { a with lock := false } else { a with data := accOf (tileValues el j.got), err := 0#8, lock := false }

theorem lane_accumulator (v : Nat) {i : Nat} (hi : i < 1024) : lane 32 (BitVec.ofNat 32768 v).toNat i = lane 32 v i := by
  refine Nat.eq_of_testBit_eq fun j => ?_
  by_cases hj : j < 32
  · rw [testBit_lane _ _ hj, testBit_lane _ _ hj, BitVec.testBit_toNat, BitVec.getLsbD_ofNat, decide_eq_true (by omega),
      Bool.true_and]
  · simp only [lane, Nat.testBit_mod_two_pow, hj, decide_false, Bool.false_and]

theorem lane_accOf {xs : List Nat} {i : Nat} (hl : xs.length = 1024) (hi : i < 1024) :
    ((accOf xs).extractLsb' (32 * i) 32).toNat = accCanon (xs.getD i 0) := by
  have hget : (xs.map accCanon).getD i 0 = accCanon (xs.getD i 0) := by simp [List.getD, hl, hi]
  rw [toNat_extract_lane, accOf, lane_accumulator _ hi, lane_packLanes, hget, Nat.mod_eq_of_lt (accCanon_lt _)]

theorem tileValues_getD (el : Elem) (got : FMap Nat) {i : Nat} (hi : i < 1024) :
    (tileValues el got).getD i 0 = (roundF32 .rn (elemValue el
      (packLanes 512 ((List.range (2 * el.width)).map (FMap.get 0 got)) / 2 ^ (el.width * i) % 2 ^ el.width) 0 false)).1 := by
  simp [tileValues, lanes, List.getD, hi, lane, Nat.shiftRight_eq_div_pow]

theorem tileValues_length (el : Elem) (got : FMap Nat) : (tileValues el got).length = 1024 := by
  simp [tileValues, lanes]

theorem runLater_tile {s : State} {j : PortJob} {core : Nat} {c : Cmd} (hj : s.jobs.find? (fun x => x.id = j.id) = some j)
    (hc : j.cmd = some (core, c)) (hu : ∀ u ∈ s.units, u.job ≠ j.id) :
    runLater s (.tile j.id) =
      if j.writing then (completeCmd (dropJob s j.id) core c (statusWord 0 j.flags 0)).push [.matrix j.cell]
      else tileLoaded (dropJob s j.id) core c j := by
  have hopen : jobOpen s j.id = false := by
    simpa [jobOpen] using hu
  change endTile s j.id = _
  unfold endTile
  rw [hj]
  dsimp only
  rw [hc]
  dsimp only
  rw [hopen, if_neg Bool.false_ne_true]

theorem dropJob_jobs (s : State) (id : Nat) : ∀ k ∈ (dropJob s id).jobs, k.id ≠ id := fun k hk => by
  simpa using (List.mem_filter.mp hk).2

theorem tileLoaded_of_elem {s : State} {core : Nat} {c : Cmd} {j : PortJob} {el : Elem} (h : elemOf (bits c.word.w1 25 21) = some el) :
    tileLoaded s core c j =
      (completeCmd (s.modCell (core / 4) fun cl => cl.setAcc (8 * (core % 4) + Cmd.acc c.word)
        (tileTaken j el (cl.accOf (8 * (core % 4) + Cmd.acc c.word)))) core c (statusWord (j.fail.getD 0) 0#5 0)).push
        [.matrix (core / 4)] := by
  unfold tileLoaded
  dsimp only
  rw [h]
  rfl

theorem sameBytes_modCell {s : State} {cell : Nat} {f : Cell → Cell} (hf : ∀ c, (f c).mem = c.mem) :
    SameBytes s (s.modCell cell f) := sameBytes_of_mem rfl (fun k => cell_modCell_mem s cell k (hf _)) rfl

theorem sameBytes_tileLoaded (s : State) (core : Nat) (c : Cmd) (j : PortJob) : SameBytes s (tileLoaded s core c j) := by
  cases h : elemOf (bits c.word.w1 25 21) with
  | none =>
    unfold tileLoaded
    dsimp only
    rw [h]
    exact sameBytes_of_eq rfl rfl rfl
  | some el =>
    rw [tileLoaded_of_elem h]
    exact sameBytes_trans (sameBytes_modCell (f := fun cl => cl.setAcc _ _) fun _ => rfl)
      (sameBytes_of_sameStores (sameStores_completeCmd _ core c _))

theorem tileLoaded_jobs (s : State) (core : Nat) (c : Cmd) (j : PortJob) : (tileLoaded s core c j).jobs = s.jobs := by
  cases h : elemOf (bits c.word.w1 25 21) with
  | none =>
    unfold tileLoaded
    dsimp only
    rw [h]
  | some el =>
    rw [tileLoaded_of_elem h]
    exact completeCmd_jobs ..

theorem tileLoaded_accOf {s : State} {core : Nat} {c : Cmd} {j : PortJob} {el : Elem} (h : elemOf (bits c.word.w1 25 21) = some el) :
    ((tileLoaded s core c j).cell (core / 4)).accOf (8 * (core % 4) + Cmd.acc c.word) =
      tileTaken j el ((s.cell (core / 4)).accOf (8 * (core % 4) + Cmd.acc c.word)) := by
  rw [tileLoaded_of_elem h, ← accOf_modCell_setAcc s (core / 4) (8 * (core % 4) + Cmd.acc c.word) fun cl =>
    tileTaken j el (cl.accOf (8 * (core % 4) + Cmd.acc c.word))]
  unfold State.cell
  rw [State.push_cells, completeCmd_cells]

theorem tokenSent_tileLoaded {s : State} {core : Nat} {c : Cmd} {j : PortJob} {el : Elem}
    (h : elemOf (bits c.word.w1 25 21) = some el) : TokenSent (tileLoaded s core c j) core c.word (j.fail.getD 0) 0#5 0 := by
  rw [tileLoaded_of_elem h]
  exact tokenSent_push (tokenSent_completeCmd _ _ _ _ _ _) _

/-! ### The units of a product's operands (R90, R352) -/

/-- What the unit does with one more unit of an operand in a state. -/
def unitTaken (s : State) (cell : Nat) (r : MRun) : State :=
  if r.todo.isEmpty then
    (s.modCell cell fun cl => { cl with mrun := some (if r.bad then r else r.results ((s.cell cell).accOf r.accNo)) }).pushE
      (.matrixUpdate cell)
  else s.modCell cell fun cl => { cl with mrun := some r }

theorem exec_localPairing_operand {s : State} {cell pos k : Nat} {r : MRun} {u : MUnit} (hr : (s.cell cell).mrun = some r)
    (hc : clockStop (s.cell cell) = none) (h6 : 6 ≤ pos) (h14 : pos < 14)
    (hu : (r.todo.filter (fun x => x.b = decide (10 ≤ pos))).find? (fun x => realOff s cell x.off / 64 % 16 = (pos + k) % 16) = some u) :
    exec (.localPairing cell pos k) s =
      .next (unitTaken s cell (r.read u (localRead s cell u.off u.n) (localErr s cell u.off u.n))) := by
  have hbank : (fun x : MUnit => decide (nbits (Loc.mapOff (s.cell cell) x.off) 9 6 = (pos + k) % 16)) =
      fun x => decide (realOff s cell x.off / 64 % 16 = (pos + k) % 16) := by
    funext x
    rw [nbits, Nat.shiftRight_eq_div_pow]
    rfl
  have h614 : (decide (6 ≤ pos) && decide (pos < 14)) = true := by simp [h6, h14]
  change execLocalPairing cell pos k s = _
  unfold execLocalPairing whenRunning
  dsimp only
  rw [hc, if_neg (by simp), if_pos h614]
  unfold readOperand
  rw [hr]
  dsimp only
  rw [hbank, hu]
  rfl

theorem sameBytes_setRun (s : State) (cell : Nat) (z : Option MRun) :
    SameBytes s (s.modCell cell fun cl => { cl with mrun := z }) := sameBytes_modCell fun _ => rfl

theorem sameBytes_unitTaken (s : State) (cell : Nat) (r : MRun) : SameBytes s (unitTaken s cell r) := by
  unfold unitTaken
  split
  · exact sameBytes_trans (sameBytes_setRun s cell _) (sameBytes_of_eq rfl rfl rfl)
  · exact sameBytes_setRun s cell _

theorem unitTaken_slots (s : State) (cell : Nat) (r : MRun) : (unitTaken s cell r).slots = s.slots := by
  unfold unitTaken
  split <;> rfl

theorem mrun_modCell (s : State) (cell : Nat) (r : MRun) :
    ((s.modCell cell fun cl => { cl with mrun := some r }).cell cell).mrun = some r := by
  rw [State.modCell, State.cell_setCell_same]

theorem results_data (r : MRun) (a : Acc) : (r.results a).data =
    (product (rowsA r.cmd.word r.gotA) (columnsB r.cmd.word r.gotB) (if r.zero then 0#32768 else a.data)).1 := rfl

theorem results_keeps (r : MRun) (a : Acc) : (r.results a).accNo = r.accNo ∧ (r.results a).cmd = r.cmd := by
  unfold MRun.results
  extract_lets z
  clear_value z
  exact ⟨rfl, rfl⟩

theorem unitTaken_more {r : MRun} (h : r.todo ≠ []) (s : State) (cell : Nat) :
    ((unitTaken s cell r).cell cell).mrun = some r := by
  rw [unitTaken, if_neg (by simpa using h), mrun_modCell]

theorem unitTaken_last {r : MRun} (h : r.todo = []) (hb : r.bad = false) (s : State) (cell : Nat) :
    unitTaken s cell r =
      (s.modCell cell fun cl => { cl with mrun := some (r.results ((s.cell cell).accOf r.accNo)) }).pushE (.matrixUpdate cell) := by
  rw [unitTaken, if_pos (by rw [h]; rfl), hb, if_neg Bool.false_ne_true]

/-- Reading a unit changes what is left to read and what has been read, and nothing else of a run. -/
theorem read_keeps (r : MRun) (u : MUnit) (v : Nat) :
    (r.read u v false).cmd = r.cmd ∧ (r.read u v false).accNo = r.accNo ∧ (r.read u v false).zero = r.zero ∧
      (r.read u v false).bad = r.bad := by
  unfold MRun.read
  dsimp only
  split <;> exact ⟨rfl, rfl, rfl, Bool.or_false _⟩

/-! ### The update of the accumulator (R76, R176, R352) -/

/-- The fields of a ring register below its head are not those that a pop changes. -/
theorem bits_below_head (x : Word) (a b c : Nat) {h l : Nat} (hh : h < 24) :
    bits (setBits (setBits (setBits x 34 24 a) 54 47 b) 46 35 c) h l = bits x h l := by
  rw [bits_setBits_apart _ _ (by decide) (by omega) (.inl (by omega)), bits_setBits_apart _ _ (by decide) (by omega) (.inl (by omega)),
    bits_setBits_apart _ _ (by decide) (by omega) (.inl (by omega))]

theorem popped_pop (c : Cell) (q : Nat) : Popped (Ring.word c q) (Ring.word (Ring.pop c q) q) := by
  have hword : Ring.word (Ring.pop c q) q =
      setBits (setBits (setBits (Ring.word c q) 34 24 ((Ring.head (Ring.word c q) + 1) % Ring.nslots (Ring.word c q)))
        54 47 ((Ring.hseq (Ring.word c q) + 1) % 256)) 46 35 (Ring.cnt (Ring.word c q) - 1) := FMap.get_put_same ..
  have hcnt : Ring.cnt (Ring.word c q) < 4096 := Nat.mod_lt _ (by decide)
  have hslots : Ring.nslots (Ring.word c q) ≤ 2048 := by
    have : bits (Ring.word c q) 21 11 < 2048 := Nat.mod_lt _ (by decide)
    unfold Ring.nslots
    omega
  have hhead : (Ring.head (Ring.word c q) + 1) % Ring.nslots (Ring.word c q) < 2048 :=
    lt_of_lt_of_le (Nat.mod_lt _ (Nat.succ_pos _)) hslots
  rw [hword]
  generalize Ring.word c q = x at *
  refine ⟨?cnt, ?head, ?hseq, ?base, ?nslots, ?sfr⟩
  case cnt =>
    rw [Ring.cnt, bits_setBits_same _ _ (by decide) (by decide)]
    exact Nat.mod_eq_of_lt (by omega)
  case head =>
    rw [Ring.head, bits_setBits_apart _ _ (by decide) (by decide) (by decide),
      bits_setBits_apart _ _ (by decide) (by decide) (by decide), bits_setBits_same _ _ (by decide) (by decide)]
    exact Nat.mod_eq_of_lt hhead
  case hseq =>
    rw [Ring.hseq, bits_setBits_apart _ _ (by decide) (by decide) (by decide), bits_setBits_same _ _ (by decide) (by decide)]
    exact Nat.mod_mod ..
  case base => exact bits_below_head x _ _ _ (by decide)
  case nslots => exact congrArg (· + 1) (bits_below_head x _ _ _ (by decide))
  case sfr => exact bits_below_head x _ _ _ (by decide)

theorem pop_word_ne (c : Cell) {p q : Nat} (h : q ≠ p) : Ring.word (Ring.pop c p) q = Ring.word c q := FMap.get_put_ne _ _ _ h

/-- A cell with the head of a ring popped, where there is one to pop. -/
def popIf (c : Cell) (q : Option Nat) : Cell :=
  match q with
  | some q => Ring.pop c q
  | none => c

theorem popIf_keeps (c : Cell) (q : Option Nat) : (popIf c q).mem = c.mem ∧ (popIf c q).mrun = c.mrun ∧ (popIf c q).acc = c.acc := by
  cases q <;> exact ⟨rfl, rfl, rfl⟩

theorem popIf_word_ne (c : Cell) {p : Option Nat} {q : Nat} (h : p ≠ some q) : Ring.word (popIf c p) q = Ring.word c q := by
  cases p with
  | none => rfl
  | some p => exact pop_word_ne c fun hq => h (hq ▸ rfl)

/-- A cell with the results of a run in its accumulator. -/
def withResults (r : MRun) (c : Cell) : Cell :=
  { c.setAcc r.accNo { data := r.data, flags := r.flags, lock := false, err := 0#8 } with mrun := none }

theorem withResults_word (r : MRun) (c : Cell) (q : Nat) : Ring.word (withResults r c) q = Ring.word c q := rfl

/-- A cell after the update of a run: its results are in its accumulator, and its rings are popped. -/
def updated (r : MRun) (c : Cell) : Cell := popIf (popIf (withResults r c) r.popA) r.popB

theorem updated_keeps (r : MRun) (c : Cell) :
    (updated r c).mem = c.mem ∧ (updated r c).mrun = none ∧ (updated r c).acc = (withResults r c).acc := by
  obtain ⟨hmem, hrun, hacc⟩ := popIf_keeps (withResults r c) r.popA
  obtain ⟨kmem, krun, kacc⟩ := popIf_keeps (popIf (withResults r c) r.popA) r.popB
  exact ⟨kmem.trans hmem, krun.trans hrun, kacc.trans hacc⟩

theorem updated_accOf (r : MRun) (c : Cell) :
    (updated r c).accOf r.accNo = { data := r.data, flags := r.flags, lock := false, err := 0#8 } := by
  obtain ⟨-, -, hacc⟩ := updated_keeps r c
  rw [Cell.accOf, hacc]
  exact accOf_setAcc_same ..

theorem updated_popped (r : MRun) (c : Cell) {q : Nat}
    (h : r.popA = some q ∧ r.popB ≠ some q ∨ r.popB = some q ∧ r.popA ≠ some q) :
    Popped (Ring.word c q) (Ring.word (updated r c) q) := by
  obtain ⟨ha, hb⟩ | ⟨hb, ha⟩ := h
  · rw [updated, popIf_word_ne _ hb, ha]
    exact popped_pop (withResults r c) q
  · rw [updated, ← withResults_word r c q, ← popIf_word_ne (withResults r c) ha, hb]
    exact popped_pop _ q

theorem updated_word (r : MRun) (c : Cell) {q : Nat} (ha : r.popA ≠ some q) (hb : r.popB ≠ some q) :
    Ring.word (updated r c) q = Ring.word c q := by
  rw [updated, popIf_word_ne _ hb, popIf_word_ne _ ha, withResults_word]

/-- The state in which the token of an update is sent. -/
def updatedState (s : State) (cell : Nat) (r : MRun) : State :=
  (count s (cellPerf cell) (matrixEvent s cell r) 1).modCell cell (updated r)

theorem exec_matrixUpdate {s : State} {cell : Nat} {r : MRun} (hr : (s.cell cell).mrun = some r)
    (hc : clockStop (s.cell cell) = none) (ht : r.todo = []) (hb : r.bad = false) :
    exec (.matrixUpdate cell) s =
      .next ((completeCmd (updatedState s cell r) r.core r.cmd (statusWord 0 r.raised 0)).push [.matrix cell]) := by
  change execMatrixUpdate cell s = _
  unfold execMatrixUpdate
  rw [hc, if_neg (by simp)]
  unfold finishProduct
  rw [hr]
  dsimp only
  rw [ht, hb, if_neg (by simp), if_neg Bool.false_ne_true]
  rfl

theorem updatedState_cell (s : State) (cell : Nat) (r : MRun) :
    (updatedState s cell r).cell cell = updated r (s.cell cell) := by
  rw [updatedState, State.modCell, State.cell_setCell_same, State.cell, count_cells, State.cell]

theorem sameBytes_updatedState (s : State) (cell : Nat) (r : MRun) : SameBytes s (updatedState s cell r) := by
  have hcount : SameBytes s (count s (cellPerf cell) (matrixEvent s cell r) 1) :=
    sameBytes_of_eq (count_phys ..) (count_cells ..) (count_commons ..)
  refine sameBytes_trans hcount (sameBytes_modCell fun c => ?_)
  obtain ⟨hmem, -, -⟩ := updated_keeps r c
  exact hmem

/-- Settles O33: the refusal at the head, the end of a tile, one more unit, and the update. -/
theorem matrixEvents : Obligations.MatrixEvents := by
  refine ⟨fun s c rest i n h hi hf => matrix_bad_field h hi hf, ?tile, ?unit, ?update⟩
  case tile =>
    intro s j core c hj hc hu t n
    have ht : t = _ := runLater_tile hj hc hu
    have hdrop : SameBytes s (dropJob s j.id) := sameBytes_of_eq rfl rfl rfl
    cases hw : j.writing with
    | true =>
      rw [hw, if_pos rfl] at ht
      rw [ht]
      refine ⟨sameBytes_trans hdrop (sameBytes_of_sameStores (sameStores_completeCmd _ core c _)), ?_,
        fun _ => ⟨tokenSent_push (tokenSent_completeCmd _ _ _ _ _ _) _, ?_⟩, fun h => absurd h (by decide)⟩
      · rw [State.push_jobs, completeCmd_jobs]
        exact dropJob_jobs s j.id
      · rw [State.cell, State.push_cells, completeCmd_cells]
        rfl
    | false =>
      rw [hw, if_neg Bool.false_ne_true] at ht
      rw [ht]
      refine ⟨sameBytes_trans hdrop (sameBytes_tileLoaded ..), ?_, fun h => absurd h (by decide), fun _ el hel => ?_⟩
      · rw [tileLoaded_jobs]
        exact dropJob_jobs s j.id
      · have hacc := tileLoaded_accOf (s := dropJob s j.id) (core := core) (j := j) hel
        have hsent := tokenSent_tileLoaded (s := dropJob s j.id) (core := core) (j := j) hel
        cases hf : j.fail with
        | some code =>
          rw [tileTaken, hf, Option.isSome_some, if_pos rfl] at hacc
          rw [hf] at hsent
          rw [hacc]
          exact ⟨rfl, fun k hk => by cases hk; exact ⟨hsent, rfl⟩, fun h => by cases h⟩
        | none =>
          rw [tileTaken, hf, Option.isSome_none, if_neg Bool.false_ne_true] at hacc
          rw [hf] at hsent
          rw [hacc]
          refine ⟨rfl, ⟨fun _ h => (by cases h), fun _ => ⟨hsent, fun i hi => ?_⟩⟩⟩
          rw [← tileValues_getD el j.got hi]
          exact lane_accOf (tileValues_length el j.got) hi
  case unit =>
    intro s cell pos k r u hr hc h6 h14 hu he got
    have hrun := exec_localPairing_operand hr hc h6 h14 hu
    rw [he] at hrun
    obtain ⟨hcmd, hno, hzero, hbad⟩ := read_keeps r u (localRead s cell u.off u.n)
    refine ⟨_, hrun, sameBytes_unitTaken .., unitTaken_slots .., fun hmore => unitTaken_more hmore s cell, fun hlast hb => ?_⟩
    rw [unitTaken_last hlast (hbad.trans hb)]
    obtain ⟨kno, kcmd⟩ := results_keeps got ((s.cell cell).accOf got.accNo)
    refine ⟨_, mrun_modCell s cell _, kno.trans hno, kcmd.trans hcmd, due_pushE _ _, ?_⟩
    rw [results_data, hcmd, hno, hzero]
  case update =>
    intro s cell r hr hc ht hb
    obtain ⟨-, hrun, -⟩ := updated_keeps r (s.cell cell)
    have hcell : ((completeCmd (updatedState s cell r) r.core r.cmd (statusWord 0 r.raised 0)).push [.matrix cell]).cell cell =
        updated r (s.cell cell) := by
      rw [State.cell, State.push_cells, completeCmd_cells]
      exact updatedState_cell s cell r
    refine ⟨_, exec_matrixUpdate hr hc ht hb, ?_, ?_, ?_, tokenSent_push (tokenSent_completeCmd _ _ _ _ _ _) _, ?_⟩
    · rw [hcell, hrun]
    · exact sameBytes_trans (sameBytes_updatedState s cell r) (sameBytes_of_sameStores (sameStores_completeCmd _ r.core r.cmd _))
    · rw [hcell, updated_accOf]
    · rw [hcell]
      exact ⟨fun q h => updated_popped r _ h, fun q ha hb => updated_word r _ ha hb⟩

end Sys2Proof.Machine
end
section
/-! O37: the slots that an append takes of its ring, and the landings that count them. -/

namespace Sys2Proof.Machine
open Claims

/-! ### What is hidden of a ring, and its register -/

theorem ringOf_setRing (c : Cell) (q : Nat) (h : RingHidden) : (c.setRing q h).ringOf q = h := FMap.get_put_same ..

theorem word_setRing (c : Cell) (p q : Nat) (h : RingHidden) : Ring.word (c.setRing p h) q = Ring.word c q := rfl

theorem nslots_le (x : Word) : Ring.nslots x ≤ 2048 := by
  have : bits x 21 11 < 2048 := Nat.mod_lt _ (by decide)
  unfold Ring.nslots
  omega

theorem nslots_pos (x : Word) : 0 < Ring.nslots x := Nat.succ_pos _

/-- The ring register with its count one higher. -/
def countedUp (x : Word) : Word := setBits x 46 35 (Ring.cnt x + 1)

theorem countedUp_cnt {x : Word} (h : Ring.cnt x + 1 ≤ Ring.nslots x) : Ring.cnt (countedUp x) = Ring.cnt x + 1 := by
  have hn := nslots_le x
  rw [Ring.cnt, countedUp, bits_setBits_same _ _ (by decide) (by decide)]
  exact Nat.mod_eq_of_lt (by omega)

theorem countedUp_nslots (x : Word) : Ring.nslots (countedUp x) = Ring.nslots x :=
  congrArg (· + 1) (bits_setBits_apart x _ (by decide) (by decide) (.inl (by decide)))

/-! ### The count goes up over landed slots (R157) -/

/-- The first slot that a ring does not count. -/
def firstUncounted (x : Word) : Nat := (Ring.head x + Ring.cnt x) % Ring.nslots x

/-- Both the data and the strip of a ring's first uncounted slot have landed. -/
def firstLanded (c : Cell) (q : Nat) : Bool :=
  decide ((c.ringOf q).reserved ≠ 0) && (FMap.find? (c.ringOf q).dataLanded (firstUncounted (Ring.word c q))).isSome &&
    (FMap.find? (c.ringOf q).scaleLanded (firstUncounted (Ring.word c q))).isSome

/-- A cell with one more slot of a ring counted. -/
def countSlot (c : Cell) (q : Nat) : Cell :=
  { c with q := FMap.put c.q q (countedUp (Ring.word c q)) }.setRing q { c.ringOf q with
    reserved := (c.ringOf q).reserved - 1
    dataLanded := FMap.del (c.ringOf q).dataLanded (firstUncounted (Ring.word c q))
    scaleLanded := FMap.del (c.ringOf q).scaleLanded (firstUncounted (Ring.word c q)) }

theorem watermark_succ (q n : Nat) (c : Cell) :
    watermark q (n + 1) c = if firstLanded c q then watermark q n (countSlot c q) else c := rfl

theorem countSlot_word (c : Cell) (q : Nat) : Ring.word (countSlot c q) q = countedUp (Ring.word c q) := FMap.get_put_same ..

theorem countSlot_ringOf (c : Cell) (q : Nat) : (countSlot c q).ringOf q = { c.ringOf q with
    reserved := (c.ringOf q).reserved - 1
    dataLanded := FMap.del (c.ringOf q).dataLanded (firstUncounted (Ring.word c q))
    scaleLanded := FMap.del (c.ringOf q).scaleLanded (firstUncounted (Ring.word c q)) } := ringOf_setRing ..

/-- Counting changes neither the bytes of the cell, nor its copies, nor the sequence numbers. -/
theorem watermark_keeps (q n : Nat) (c : Cell) :
    (watermark q n c).mem = c.mem ∧ (watermark q n c).copies = c.copies ∧
      ((watermark q n c).ringOf q).dseq = (c.ringOf q).dseq ∧ ((watermark q n c).ringOf q).sseq = (c.ringOf q).sseq := by
  induction n generalizing c with
  | zero => exact ⟨rfl, rfl, rfl, rfl⟩
  | succ n ih =>
    rw [watermark_succ]
    split
    · obtain ⟨hmem, hcopies, hd, hs⟩ := ih (countSlot c q)
      rw [countSlot_ringOf] at hd hs
      exact ⟨hmem, hcopies, hd, hs⟩
    · exact ⟨rfl, rfl, rfl, rfl⟩

theorem watermark_unlanded {c : Cell} {q : Nat} (h : firstLanded c q = false) (n : Nat) : watermark q n c = c := by
  cases n with
  | zero => rfl
  | succ n => rw [watermark_succ, h, if_neg Bool.false_ne_true]

theorem firstLanded_reserved {c : Cell} {q : Nat} (h : firstLanded c q = true) : 1 ≤ (c.ringOf q).reserved := by
  simp only [firstLanded, Bool.and_eq_true, decide_eq_true_eq] at h
  omega

/-- A ring counts no more than its slots as long as its reserved slots fit behind the counted ones, so that the count never falls. -/
theorem watermark_cnt (q n : Nat) (c : Cell)
    (h : Ring.cnt (Ring.word c q) + (c.ringOf q).reserved ≤ Ring.nslots (Ring.word c q)) :
    Ring.cnt (Ring.word c q) ≤ Ring.cnt (Ring.word (watermark q n c) q) := by
  induction n generalizing c with
  | zero => exact le_rfl
  | succ n ih =>
    rw [watermark_succ]
    split
    next hl =>
      have hr := firstLanded_reserved hl
      have hcnt := countedUp_cnt (x := Ring.word c q) (by omega)
      have hnext : Ring.cnt (Ring.word (countSlot c q) q) + ((countSlot c q).ringOf q).reserved ≤
          Ring.nslots (Ring.word (countSlot c q) q) := by
        rw [countSlot_word, countSlot_ringOf, countedUp_nslots, hcnt]
        dsimp only
        omega
      have hle := ih (countSlot c q) hnext
      rw [countSlot_word, hcnt] at hle
      omega
    next => exact le_rfl

theorem watermark_cnt_lt {q n : Nat} {c : Cell} (hn : 0 < n) (hl : firstLanded c q = true)
    (h : Ring.cnt (Ring.word c q) + (c.ringOf q).reserved ≤ Ring.nslots (Ring.word c q)) :
    Ring.cnt (Ring.word c q) < Ring.cnt (Ring.word (watermark q n c) q) := by
  obtain ⟨n, rfl⟩ := Nat.exists_eq_succ_of_ne_zero hn.ne'
  have hr := firstLanded_reserved hl
  have hcnt := countedUp_cnt (x := Ring.word c q) (by omega)
  have hnext : Ring.cnt (Ring.word (countSlot c q) q) + ((countSlot c q).ringOf q).reserved ≤
      Ring.nslots (Ring.word (countSlot c q) q) := by
    rw [countSlot_word, countSlot_ringOf, countedUp_nslots, hcnt]
    dsimp only
    omega
  have hle := watermark_cnt q n (countSlot c q) hnext
  rw [countSlot_word, hcnt] at hle
  rw [watermark_succ, hl, if_pos rfl]
  omega

/-! ### One landing -/

/-- What is hidden of a ring with one more landing, of a slot's data or of its strip. -/
def landingNoted (h : RingHidden) (slot : Nat) (sq : BitVec 8) (scale : Bool) : RingHidden :=
  if scale then { h with scaleLanded := FMap.put h.scaleLanded slot sq, sseq := FMap.put h.sseq slot sq }
  else { h with dataLanded := FMap.put h.dataLanded slot sq, dseq := FMap.put h.dseq slot sq }

section
variable (c : Cell) (z : RingRun) (m : Nat) (scale : Bool)

/-- A cell that has noted a landing and not yet counted. -/
def withNoted : Cell := c.setRing z.q (landingNoted (c.ringOf z.q) (Claims.slotOf c z m) (BitVec.ofNat 8 (z.seq + m)) scale)

theorem land_eq : land c z m scale = watermark z.q (Ring.nslots (Ring.word c z.q)) (withNoted c z m scale) := rfl

theorem withNoted_ringOf : (withNoted c z m scale).ringOf z.q =
    landingNoted (c.ringOf z.q) (Claims.slotOf c z m) (BitVec.ofNat 8 (z.seq + m)) scale := ringOf_setRing ..

theorem withNoted_word : Ring.word (withNoted c z m scale) z.q = Ring.word c z.q := rfl

theorem landingNoted_reserved (h : RingHidden) (slot : Nat) (sq : BitVec 8) : (landingNoted h slot sq scale).reserved = h.reserved := by
  unfold landingNoted
  split <;> rfl

/-- The landings of a ring of the kind that a landing is not. -/
def otherLanded (h : RingHidden) (scale : Bool) : FMap (BitVec 8) := if scale then h.dataLanded else h.scaleLanded

/-- The first uncounted slot counts once the other half has landed there and this one is of that slot. -/
theorem firstLanded_withNoted (hs : Claims.slotOf c z m = firstUncounted (Ring.word c z.q)) (hr : (c.ringOf z.q).reserved ≠ 0)
    (ho : FMap.find? (otherLanded (c.ringOf z.q) scale) (Claims.slotOf c z m) ≠ none) :
    firstLanded (withNoted c z m scale) z.q = true := by
  rw [firstLanded, withNoted_ringOf, withNoted_word, landingNoted_reserved, decide_eq_true hr, ← hs]
  cases scale
  · simpa [landingNoted, otherLanded, Option.isSome_iff_ne_none] using ho
  · simpa [landingNoted, otherLanded, Option.isSome_iff_ne_none] using ho

theorem firstLanded_alone (ho : FMap.find? (otherLanded (c.ringOf z.q) scale) (firstUncounted (Ring.word c z.q)) = none) :
    firstLanded (withNoted c z m scale) z.q = false := by
  rw [firstLanded, withNoted_ringOf, withNoted_word]
  cases scale
  · rw [show FMap.find? (landingNoted (c.ringOf z.q) _ _ false).scaleLanded (firstUncounted (Ring.word c z.q)) = none from ho]
    simp
  · rw [show FMap.find? (landingNoted (c.ringOf z.q) _ _ true).dataLanded (firstUncounted (Ring.word c z.q)) = none from ho]
    simp

theorem land_keeps : (land c z m scale).mem = c.mem ∧ (land c z m scale).copies = c.copies := by
  obtain ⟨hmem, hcopies, -, -⟩ := watermark_keeps z.q (Ring.nslots (Ring.word c z.q)) (withNoted c z m scale)
  exact ⟨hmem, hcopies⟩

theorem land_dseq : FMap.find? ((land c z m false).ringOf z.q).dseq (Claims.slotOf c z m) = some (BitVec.ofNat 8 (z.seq + m)) := by
  obtain ⟨-, -, hd, -⟩ := watermark_keeps z.q (Ring.nslots (Ring.word c z.q)) (withNoted c z m false)
  rw [land_eq, hd, withNoted_ringOf]
  exact FMap.find?_put_same ..

theorem land_sseq : FMap.find? ((land c z m true).ringOf z.q).sseq (Claims.slotOf c z m) = some (BitVec.ofNat 8 (z.seq + m)) := by
  obtain ⟨-, -, -, hs⟩ := watermark_keeps z.q (Ring.nslots (Ring.word c z.q)) (withNoted c z m true)
  rw [land_eq, hs, withNoted_ringOf]
  exact FMap.find?_put_same ..

theorem land_word_alone
    (ho : FMap.find? (otherLanded (c.ringOf z.q) scale) (firstUncounted (Ring.word c z.q)) = none) :
    Ring.word (land c z m scale) z.q = Ring.word c z.q := by
  rw [land_eq, watermark_unlanded (firstLanded_alone c z m scale ho), withNoted_word]

theorem land_counts (hs : Claims.slotOf c z m = firstUncounted (Ring.word c z.q)) (hr : (c.ringOf z.q).reserved ≠ 0)
    (ho : FMap.find? (otherLanded (c.ringOf z.q) scale) (Claims.slotOf c z m) ≠ none)
    (h : Ring.cnt (Ring.word c z.q) + (c.ringOf z.q).reserved ≤ Ring.nslots (Ring.word c z.q)) :
    Ring.cnt (Ring.word c z.q) < Ring.cnt (Ring.word (land c z m scale) z.q) := by
  have hroom : Ring.cnt (Ring.word (withNoted c z m scale) z.q) + ((withNoted c z m scale).ringOf z.q).reserved ≤
      Ring.nslots (Ring.word (withNoted c z m scale) z.q) := by
    rw [withNoted_ringOf, landingNoted_reserved, withNoted_word]
    exact h
  have hlt := watermark_cnt_lt (nslots_pos (Ring.word c z.q)) (firstLanded_withNoted c z m scale hs hr ho) hroom
  rwa [withNoted_word, ← land_eq] at hlt

end

/-! ### The state after a landing -/

theorem setCopy_word (s : State) (cell : Nat) (r : CopyRun) (q : Nat) :
    Ring.word ((setCopy s cell r).cell cell) q = Ring.word (s.cell cell) q := by
  rw [setCopy, State.modCell, State.cell_setCell_same]
  rfl

theorem setCopy_ringOf (s : State) (cell : Nat) (r : CopyRun) (q : Nat) :
    ((setCopy s cell r).cell cell).ringOf q = (s.cell cell).ringOf q := by
  rw [setCopy, State.modCell, State.cell_setCell_same]
  rfl

/-- A state in which a slot's data or strip has landed, and the copy notes it. -/
def landedState (s : State) (cell : Nat) (r : CopyRun) (z : RingRun) (n : Nat) (scale : Bool) : State :=
  setCopy ((s.modCell cell fun c => land c z n scale).push [.matrix cell]) cell { r with landings := r.landings ++ [(n, scale)] }

section
variable {s : State} {cell : Nat} {r : CopyRun} (z : RingRun) (n : Nat) (scale : Bool)

theorem copyOf_land (cell' k : Nat) :
    (s.modCell cell fun c => land c z n scale).copyOf cell' k = s.copyOf cell' k := by
  unfold State.copyOf State.modCell
  by_cases h : cell' = cell
  · obtain ⟨-, hcopies⟩ := land_keeps (s.cell cell) z n scale
    rw [h, State.cell_setCell_same, hcopies]
  · rw [State.cell_setCell_ne s _ h]

theorem sameBytes_landedState : SameBytes s (landedState s cell r z n scale) := by
  have hland : SameBytes s (s.modCell cell fun c => land c z n scale) := sameBytes_modCell fun c => by
    obtain ⟨hmem, -⟩ := land_keeps c z n scale
    exact hmem
  have hpush : SameBytes (s.modCell cell fun c => land c z n scale)
      ((s.modCell cell fun c => land c z n scale).push [.matrix cell]) := sameBytes_of_eq rfl rfl rfl
  exact sameBytes_trans hland (sameBytes_trans hpush (sameBytes_setCopy ..))

theorem copyIs_landedState (h : s.copyOf cell r.serial = some r) :
    CopyIs (landedState s cell r z n scale) cell r.serial fun c => (n, scale) ∈ c.landings := by
  refine copyIs_of_copyOf (copyOf_setCopy_same (q := r) ?_ rfl) (List.mem_append_right _ (List.mem_singleton_self _))
  rw [copyOf_congr (State.push_cells ..), copyOf_land, h]

theorem landedState_word (q : Nat) : Ring.word ((landedState s cell r z n scale).cell cell) q = Ring.word (land (s.cell cell) z n scale) q := by
  rw [landedState, setCopy_word, State.push_cell, State.modCell, State.cell_setCell_same]

theorem landedState_ringOf (q : Nat) : ((landedState s cell r z n scale).cell cell).ringOf q = (land (s.cell cell) z n scale).ringOf q := by
  rw [landedState, setCopy_ringOf, State.push_cell, State.modCell, State.cell_setCell_same]

end

/-! ### The steps of an append -/

section
variable {s : State} {cell n : Nat} {r : CopyRun} {z : RingRun} (hr : Copying s cell r) (hp : r.phase = .running)
  (hz : r.ring = some z) (hn : r.next < r.chunks)
include hr hp hz hn

theorem exec_ringLanding_data (hl : (n, false) ∉ r.landings) :
    exec (.ringLanding cell r.serial n false) s = .next (landedState s cell r z n false) := by
  obtain ⟨hcopy, hclk⟩ := hr
  change execRingLanding cell r.serial n false s = _
  unfold execRingLanding whenRunning
  rw [hcopy]
  dsimp only
  split
  next h =>
    rw [hz] at h
    cases h
  next w h =>
    obtain rfl : z = w := Option.some.inj (hz.symm.trans h)
    rw [hclk, if_neg (by decide), if_neg (by simp [hp, hl]), if_neg Bool.false_ne_true]
    exact congrArg Host.Outcome.next (settleCopy_unissued _ _ (r := { r with landings := r.landings ++ [(n, false)] }) hn)

omit hn in
theorem exec_ringLanding_strip (hl : (n, true) ∉ r.landings) :
    exec (.ringLanding cell r.serial n true) s = .next (landStrip s cell r z n (.ringLanding cell r.serial n true)) := by
  obtain ⟨hcopy, hclk⟩ := hr
  change execRingLanding cell r.serial n true s = _
  unfold execRingLanding whenRunning
  simp only [hcopy, hz, hclk, hp, Option.isSome_none, Bool.false_eq_true, if_false, ne_eq, not_true_eq_false, decide_false,
    Bool.false_or, List.contains_iff_mem, hl, if_true]

omit hp hz in
theorem landStrip_written (hw : r.cmd.word.w2 = 0#64) {j : PortJob}
    (hj : TurnServed s cell (.event (.ringLanding cell r.serial n true)) true none j) :
    landStrip s cell r z n (.ringLanding cell r.serial n true) = landedState (dropJob s j.id) cell r z n true := by
  obtain ⟨hcopy, -⟩ := hr
  have hnow : ((dropJob s j.id).modCell cell fun c => land c z n true).copyOf cell r.serial = some r := by
    rw [copyOf_land, ← hcopy]
    rfl
  unfold landStrip
  simp only [hw, decide_true, Bool.not_true, Bool.false_and, Bool.false_eq_true, if_false]
  rw [portWork_written hj]
  simp only [hnow, Option.getD_some]
  exact settleCopy_unissued _ _ (r := { r with landings := r.landings ++ [(n, true)] }) hn

omit hr hp hz hn in
theorem landStrip_opens (hw : r.cmd.word.w2 = 0#64)
    (hj : s.jobOf cell (.event (.ringLanding cell r.serial n true)) = none)
    (he : entryErr s cell (Ring.strip (s.cell cell) z.q (Claims.slotOf (s.cell cell) z n) % localSize) = false) :
    landStrip s cell r z n (.ringLanding cell r.serial n true) =
      openJob s { id := 0, cell := cell, turn := .event (.ringLanding cell r.serial n true), serial := some r.serial
                  fmt := copyFmt r, writing := true }
        [(⟨false, cell, Ring.strip (s.cell cell) z.q (Claims.slotOf (s.cell cell) z n) % localSize, 32, 0⟩,
          .write (packLanes 8 (List.replicate 32 0x7F)))] := by
  have he' : entryErr s cell (Ring.strip (s.cell cell) z.q ((z.first + n) % Ring.nslots (Ring.word (s.cell cell) z.q)) % localSize) =
    false := he
  unfold landStrip
  simp only [hw, decide_true, Bool.not_true, Bool.false_and, Bool.false_eq_true, if_false, if_true]
  rw [portWork_ready (u := s) (got := []) (.inl ⟨rfl, hj, rfl, by simp [he']⟩)]
  rfl

end

/-- A strip of 32 bytes of 0x7F. -/
theorem packLanes_strip : packLanes 8 (List.replicate 32 0x7F) = 2 ^ 256 / 255 * 127 := by decide

/-! ### The slots that an append takes -/

theorem foldl_pushE (f : Nat → Instr) (l : List Nat) (s : State) :
    l.foldl (fun s m => s.pushE (f m)) s = s.push (l.map fun m => .event (f m)) := by
  induction l generalizing s with
  | nil =>
    change s = { s with work := s.work ++ [] }
    rw [List.append_nil]
  | cons m l ih =>
    rw [List.foldl_cons, ih]
    change { s with work := s.work ++ [_] ++ _ } = { s with work := s.work ++ _ }
    rw [List.append_assoc]
    rfl

/-- The run of slots that an append takes behind those already taken. -/
def slotsTaken (c : Cell) (r : CopyRun) : RingRun :=
  let q := bits r.geom.attr 35 32
  let x := Ring.word c q
  let at_ := Ring.cnt x + (c.ringOf q).reserved
  { q := q, first := (Ring.head x + at_) % Ring.nslots x, seq := (Ring.hseq x + at_) % 256, k := appendSlots c r.cmd.word r.geom }

/-- A cell with more slots of a ring taken. -/
def withReserved (c : Cell) (q k : Nat) : Cell := c.setRing q { c.ringOf q with reserved := (c.ringOf q).reserved + k }

/-- The copy that has its slots. -/
def reservedRun (s : State) (cell : Nat) (r : CopyRun) : CopyRun :=
  let z := slotsTaken (s.cell cell) r
  let q := { r with phase := .running, ring := some z }
  { q with owe := wholeFramesOf (s.modCell cell fun c => withReserved c z.q z.k) cell q }

section
variable (s : State) (cell : Nat) (r : CopyRun)

/-- A state in which an append has its slots. -/
def reservedState : State :=
  let z := slotsTaken (s.cell cell) r
  ((setCopy (s.modCell cell fun c => withReserved c z.q z.k) cell (reservedRun s cell r)).pushE (.copyChunk cell r.serial 0)).push
    ((List.range z.k).map fun m => .event (.ringLanding cell r.serial m true))

theorem sameBytes_reservedState : SameBytes s (reservedState s cell r) :=
  sameBytes_trans (sameBytes_modCell (f := fun c => withReserved c _ _) fun _ => rfl)
    (sameBytes_trans (sameBytes_setCopy ..) (sameBytes_of_eq rfl rfl rfl))

theorem reservedState_ringOf (q : Nat) : ((reservedState s cell r).cell cell).ringOf q =
    (withReserved (s.cell cell) (slotsTaken (s.cell cell) r).q (slotsTaken (s.cell cell) r).k).ringOf q := by
  rw [reservedState, State.push_cell, State.pushE_cell, setCopy_ringOf, State.modCell, State.cell_setCell_same]

theorem reservedState_word (q : Nat) : Ring.word ((reservedState s cell r).cell cell) q = Ring.word (s.cell cell) q := by
  rw [reservedState, State.push_cell, State.pushE_cell, setCopy_word, State.modCell, State.cell_setCell_same]
  rfl

end

theorem copyIs_reservedState {s : State} {cell : Nat} {r : CopyRun} (h : s.copyOf cell r.serial = some r) {p : CopyRun → Prop}
    (hp : p (reservedRun s cell r)) : CopyIs (reservedState s cell r) cell r.serial p := by
  refine copyIs_of_copyOf (r := reservedRun s cell r) ?_ hp
  rw [reservedState, copyOf_congr (State.push_cells ..), copyOf_congr (State.pushE_cells ..)]
  refine copyOf_setCopy_same (q := r) ?_ rfl
  rw [State.copyOf, State.modCell, State.cell_setCell_same]
  exact h

theorem exec_ringReserve {s : State} {cell : Nat} {r : CopyRun} (hr : Copying s cell r) (hp : r.phase = .reserve)
    (hb : appendBehind (s.cell cell) r (slotsTaken (s.cell cell) r).q = false)
    (hroom : Ring.cnt (Ring.word (s.cell cell) (slotsTaken (s.cell cell) r).q) +
        ((s.cell cell).ringOf (slotsTaken (s.cell cell) r).q).reserved + (slotsTaken (s.cell cell) r).k ≤
      Ring.nslots (Ring.word (s.cell cell) (slotsTaken (s.cell cell) r).q)) :
    exec (.ringReserve cell r.serial) s = .next (reservedState s cell r) := by
  obtain ⟨hcopy, hclk⟩ := hr
  have hgo : ¬ (appendBehind (s.cell cell) r (slotsTaken (s.cell cell) r).q ||
      decide (Ring.nslots (Ring.word (s.cell cell) (slotsTaken (s.cell cell) r).q) <
        Ring.cnt (Ring.word (s.cell cell) (slotsTaken (s.cell cell) r).q) +
          ((s.cell cell).ringOf (slotsTaken (s.cell cell) r).q).reserved + (slotsTaken (s.cell cell) r).k)) = true := by
    rw [hb, decide_eq_false (by omega)]
    decide
  change execRingReserve cell r.serial s = _
  unfold execRingReserve whenRunning
  rw [hcopy]
  dsimp only
  rw [hclk, if_neg (by decide), if_neg (by rw [hp]; decide)]
  exact congrArg Host.Outcome.next ((if_neg hgo).trans (foldl_pushE ..))

/-- Settles O37: the reservation, the landing of data, and the landing of a strip of 0x7F. -/
theorem ringAppends : Obligations.RingAppends := by
  refine ⟨?reserve, ?data, ?strip⟩
  case reserve =>
    intro s cell r hr hp q x k hb hroom
    obtain ⟨hcopy, -⟩ := id hr
    refine ⟨_, exec_ringReserve hr hp hb hroom, sameBytes_reservedState s cell r, ?_, ?_,
      copyIs_reservedState hcopy ⟨rfl, slotsTaken (s.cell cell) r, rfl, rfl, rfl, rfl⟩⟩
    · rw [reservedState_ringOf]
      exact congrArg RingHidden.reserved (ringOf_setRing ..)
    · exact reservedState_word s cell r q
  case data =>
    intro s cell n r z hr hp hz hn hl x h
    obtain ⟨hcopy, -⟩ := id hr
    refine ⟨_, exec_ringLanding_data hr hp hz hn hl, sameBytes_landedState z n false, copyIs_landedState z n false hcopy, ?_⟩
    rw [landedState_word, landedState_ringOf]
    exact ⟨land_dseq _ z n, land_word_alone _ z n false, land_counts _ z n false⟩
  case strip =>
    intro s cell n r z hr hp hz hn hl hw x h turn o
    obtain ⟨hcopy, -⟩ := id hr
    refine ⟨fun hj he => ?_, fun j hj => ?_⟩
    · refine ⟨_, (exec_ringLanding_strip hr hp hz hl).trans (congrArg _ (landStrip_opens hw hj he)), sameBytes_openJob .., ?_⟩
      rw [← packLanes_strip]
      exact jobWith_openJob s rfl rfl fun _ h => h
    · have hdrop : (dropJob s j.id).copyOf cell r.serial = some r := hcopy
      refine ⟨_, (exec_ringLanding_strip hr hp hz hl).trans (congrArg _ (landStrip_written hr hn hw hj)),
        sameBytes_trans (sameBytes_dropJob ..) (sameBytes_landedState z n true), copyIs_landedState z n true hdrop, ?_⟩
      rw [landedState_word, landedState_ringOf]
      exact ⟨land_sseq _ z n, land_word_alone _ z n true, land_counts _ z n true⟩

end Sys2Proof.Machine
end
section
/-! O10: what a memory instruction does at an address that does not take it. -/

namespace Sys2Proof.Machine
open Claims

/-! ### What each memory instruction issues (R276-R285) -/

theorem boundS_all {x : Slot} {l : List Nat} (h : ∀ q ∈ l, q < x.ns) : boundS x l = .ok () := by
  induction l with
  | nil => rfl
  | cons q l ih =>
    rw [boundS, if_pos (h q List.mem_cons_self)]
    exact ih fun p hp => h p (List.mem_cons_of_mem q hp)

theorem peekS_readable {x : Slot} {r : BitVec 6} (h : Readable x r) : peekS x r.toNat = .ok (x.sval r.toNat) := by
  obtain ⟨-, hfull, -⟩ := h
  rw [peekS, hfull]
  rfl

theorem dataOf_readable {x : Slot} {d : BitVec 6} (h : Readable x d) (n : Nat) : dataOf x d.toNat n = .ok (low x d n) := by
  rw [dataOf, peekS_readable h]
  rfl

/-- The effective address of format M, as an integer sum (R264, R271). -/
theorem eaOf_sum (v : Word) (z : BitVec 2) (o : BitVec 11) :
    eaOf v z o = BitVec.ofInt 64 (v.toInt + o.toInt * 2 ^ z.toNat) := by
  have hpow : wrap64 (2 ^ z.toNat) = BitVec.ofInt 64 (2 ^ z.toNat) := by
    rw [wrap64, ← BitVec.ofInt_natCast, Nat.cast_pow, Nat.cast_ofNat]
  have hsx : sx o = BitVec.ofInt 64 o.toInt := rfl
  rw [eaOf, hpow, hsx, BitVec.ofInt_add, BitVec.ofInt_mul, BitVec.ofInt_toInt]

/-- An instruction is the issue of what a request asks: its registers are there, and it wants the request's operation. -/
def Asks (s : State) (i : Instr) (r : MemReq) : Prop :=
  ∃ (regs : List Nat) (want : Slot → Except Halt Want) (bad : Slot → Option Nat) (w : Want),
    exec i s = finish s (issueMem i regs [] r.base.toNat r.sync r.ea want bad s) ∧ (∀ q ∈ regs, q < (here s).ns) ∧
      want (here s) = .ok w ∧ w.dst = r.dst.map BitVec.toNat ∧ w.op = r.op ∧ w.plain = r.plain

section
variable {s : State} {i : Instr} {d b : BitVec 6} {y acq rel plain : Bool} {ea : Word → Word} {n scope : Nat}

theorem asks_load {e : Bool} (h : exec i s = finish s (loadRes i d b y ea n e acq scope plain s)) (hb : Readable (here s) b)
    (hd : Writable (here s) d) :
    Asks s i { base := b, sync := y, ea := ea, data := [], dst := some d, op := .load n e, acq := acq, rel := rel, plain := plain } :=
  ⟨_, _, _, _, h, by simp [hb.1, hd.1], rfl, rfl, rfl, rfl⟩

theorem asks_store (h : exec i s = finish s (storeRes i d b y ea n rel scope plain s)) (hb : Readable (here s) b)
    (hd : Readable (here s) d) :
    Asks s i { base := b, sync := y, ea := ea, data := [d], dst := none, op := .store n (low (here s) d n), acq := acq, rel := rel
               plain := plain } :=
  ⟨_, _, _, _, h, by simp [hb.1, hd.1], by rw [dataOf_readable hd]; rfl, rfl, rfl, rfl⟩

theorem asks_amo {op : AmoOp} {m : Bool} (h : exec i s = finish s (amoRes i op d b m n acq rel scope s)) (hb : Readable (here s) b)
    (hd : Readable (here s) d) : Asks s i (amoReq (here s) op d b m n acq rel) :=
  ⟨_, _, _, _, h, by simp [hb.1, hd.1], by rw [dataOf_readable hd]; rfl, rfl, rfl, rfl⟩

theorem asks_fe {regs : List Nat} {reads data : List (BitVec 6)} {dst : Option (BitVec 6)} {want : Slot → Except Halt MemOp} {op : MemOp}
    (h : exec i s = finish s (feRes i regs reads b y (dst.map BitVec.toNat) want acq rel s)) (hr : ∀ q ∈ regs, q < (here s).ns)
    (ho : want (here s) = .ok op) :
    Asks s i { base := b, sync := y, ea := id, data := data, dst := dst, op := op, acq := acq, rel := rel, plain := false } :=
  ⟨_, _, _, _, h, hr, by rw [ho]; rfl, rfl, rfl, rfl⟩

end

theorem asks_memOf {s : State} {i : Instr} {r : MemReq} (hm : memOf (here s) i = some r) (hb : Readable (here s) r.base)
    (hdata : ∀ d ∈ r.data, Readable (here s) d) (hdst : ∀ d, r.dst = some d → Writable (here s) d) : Asks s i r := by
  unfold memOf at hm
  split at hm
  case h_23 => cases hm
  all_goals
    obtain rfl := Option.some.inj hm
  case h_1 d b z y o =>
    rw [← funext fun v => eaOf_sum v z o]
    exact asks_load rfl hb (hdst d rfl)
  case h_2 d b z y o =>
    rw [← funext fun v => eaOf_sum v z o]
    exact asks_store rfl hb (hdata d List.mem_cons_self)
  case h_3 d b z y e => exact asks_load rfl hb (hdst d rfl)
  case h_4 d b z y sc e => exact asks_load rfl hb (hdst d rfl)
  case h_5 d b z y sc => exact asks_store rfl hb (hdata d List.mem_cons_self)
  case h_6 d b y => exact asks_fe rfl (by simp [(hdst d rfl).1, hb.1]) rfl
  case h_7 d b y =>
    have hd : Readable (here s) d := hdata d List.mem_cons_self
    exact asks_fe (dst := none) rfl (by simp [hd.1, hb.1]) (by rw [dataOf_readable hd]; rfl)
  case h_8 d b y => exact asks_fe rfl (by simp [(hdst d rfl).1, hb.1]) rfl
  case h_9 d b y =>
    have hd : Readable (here s) d := hdata d List.mem_cons_self
    exact asks_fe (dst := none) rfl (by simp [hd.1, hb.1]) (by rw [dataOf_readable hd]; rfl)
  case h_10 b y => exact asks_fe (dst := none) rfl (by simp [hb.1]) rfl
  case h_11 d b y => exact asks_fe rfl (by simp [(hdst d rfl).1, hb.1]) rfl
  case h_22 d a b z q r sc =>
    have hd : Readable (here s) d := hdata d List.mem_cons_self
    have hb' : Readable (here s) b := hdata b (List.mem_cons_of_mem d List.mem_cons_self)
    exact ⟨_, _, _, _, rfl, by simp [hd.1, hb.1, hb'.1], by rw [dataOf_readable hd, dataOf_readable hb']; rfl, rfl, rfl, rfl⟩
  all_goals exact asks_amo rfl hb (hdata _ List.mem_cons_self)

/-! ### The checks of the address (R275) -/

theorem freeD_writable {x : Slot} {d : BitVec 6} (h : Writable x d) : freeD x d.toNat = .ok () := by
  obtain ⟨-, hpend⟩ := h
  rw [freeD, if_pos d.isLt, hpend]
  rfl

theorem res_then {α β : Type} {x : Except Halt α} {f : α → Except Halt β} {v : α} {y : Except Halt β} (h : x = .ok v)
    (hf : f v = y) : x >>= f = y := by
  rw [h]
  exact hf

/-- The wait for a destination, which a writable register does not cause. -/
theorem destination_free {x : Slot} {d : Option (BitVec 6)} (h : ∀ q, d = some q → Writable x q) (s : State) (sid : Nat) :
    (match d.map BitVec.toNat with
      | some d => do freeD x d; (if d < 64 then .ok () else vecWriters s sid [d - 64])
      | none => .ok () : Except Halt Unit) = .ok () := by
  cases d with
  | none => rfl
  | some d =>
    dsimp only [Option.map_some]
    rw [freeD_writable (h d rfl), if_pos d.isLt]
    rfl

/-- With its operands there, an instruction meets PRIV first, and then the other checks of the address. -/
theorem issueMem_refused {s : State} {i : Instr} {r : MemReq} {regs : List Nat} {want : Slot → Except Halt Want} {w : Want}
    {bad : Slot → Option Nat} {e : Halt} (hb : Readable (here s) r.base) (hdst : ∀ d, r.dst = some d → Writable (here s) d)
    (hregs : ∀ q ∈ regs, q < (here s).ns) (hwant : want (here s) = .ok w) (hd : w.dst = r.dst.map BitVec.toNat)
    (h : privOr s i (r.ea ((here s).sval r.base.toNat)) = .error e ∨
      privOr s i (r.ea ((here s).sval r.base.toNat)) = .ok () ∧
        addrCheck s (r.ea ((here s).sval r.base.toNat)) w = .error e) :
    issueMem i regs [] r.base.toNat r.sync r.ea want bad s = .error e := by
  have hcond : (decide (r.base.toNat < (here s).ns) && (here s).sF r.base.toNat) = true := by
    rw [decide_eq_true hb.1, hb.2.1]
    rfl
  have hfree := destination_free hdst s s.cur
  rw [← hd] at hfree
  unfold issueMem
  dsimp only
  rw [← show here s = s.slot s.cur from rfl, if_pos hcond]
  obtain hp | ⟨hp, ha⟩ := h
  · rw [hp]
    rfl
  · rw [hp, res_ok_bind, boundS_all hregs, res_ok_bind, boundV, res_ok_bind, peekS_readable hb, res_ok_bind, hwant, res_ok_bind]
    exact res_then hfree (by rw [ha]; rfl)

/-- The trap of an instruction whose address is refused. -/
theorem asks_trap {s : State} {i : Instr} {r : MemReq} {c d : Nat} {v : Word} (ha : Asks s i r) (hb : Readable (here s) r.base)
    (hdst : ∀ d, r.dst = some d → Writable (here s) d) (ho : vecOpen s s.cur = false)
    (h : ∀ w : Want, w.op = r.op → w.plain = r.plain → privOr s i (r.ea ((here s).sval r.base.toNat)) = .error (.trap c d v) ∨
      privOr s i (r.ea ((here s).sval r.base.toNat)) = .ok () ∧
        addrCheck s (r.ea ((here s).sval r.base.toNat)) w = .error (.trap c d v)) :
    ∃ t, exec i s = .next t ∧ TakesTrap s t c d v := by
  obtain ⟨regs, want, bad, w, hexec, hregs, hwant, hd, hop, hplain⟩ := ha
  rw [hexec]
  exact finish_takesTrap ho (issueMem_refused hb hdst hregs hwant hd (h w hop hplain))

section
variable {s : State} {i : Instr} {ea : Word}

theorem privOr_below (hp : inPriv ea = true) (hc : canonical ea = true) (hl : s.levelY s.cur = false) :
    privOr s i ea = .error (.trap cPriv 0 (wordOf i)) := by
  rw [privOr, hp, hc, hl]
  rfl

theorem privOr_passes (h : ¬ (inPriv ea = true ∧ canonical ea = true ∧ s.levelY s.cur = false)) : privOr s i ea = .ok () := by
  rw [privOr, guardH_ok]
  simp only [Bool.or_eq_true, Bool.not_eq_true', Bool.and_eq_false_iff]
  by_cases hl : s.levelY s.cur = true
  · exact .inr hl
  · simp only [Bool.not_eq_true] at hl
    by_cases hp : inPriv ea = true
    · exact .inl (.inl (Bool.not_eq_true _ ▸ fun hc => h ⟨hp, hc, hl⟩))
    · exact .inl (.inr (Bool.not_eq_true _ ▸ hp))

variable {w : Want}

theorem addrCheck_unaligned (h : ea.toNat % w.op.align ≠ 0) (hp : w.plain = false ∨ (canonical ea = true ∧ ea.getLsbD 56 = true)) :
    addrCheck s ea w = .error (.trap cMisalign (sizeCode w.op.align) ea) := by
  have hg : (alignedTo ea w.op.align || (w.plain && !(canonical ea && ea.getLsbD 56))) = false := by
    rw [alignedTo, decide_eq_false h]
    obtain hp | ⟨hc, hu⟩ := hp
    · rw [hp]
      rfl
    · rw [hc, hu, Bool.and_self, Bool.not_true, Bool.and_false, Bool.or_self]
  unfold addrCheck
  dsimp only
  rw [hg]
  rfl

variable (ha : ¬ (ea.toNat % w.op.align ≠ 0 ∧ (w.plain = false ∨ (canonical ea = true ∧ ea.getLsbD 56 = true))))
include ha

theorem aligned_or_plain : (alignedTo ea w.op.align || (w.plain && !(canonical ea && ea.getLsbD 56))) = true := by
  rw [alignedTo]
  by_cases h : ea.toNat % w.op.align = 0
  · rw [decide_eq_true h, Bool.true_or]
  · obtain ⟨hp, hu⟩ := not_or.mp fun hor => ha ⟨h, hor⟩
    rw [Bool.not_eq_false] at hp
    have hupper : (canonical ea && ea.getLsbD 56) = false := by simpa using hu
    rw [hp, hupper, Bool.not_false, Bool.and_self, Bool.or_true]

theorem addrCheck_noncanonical (hc : canonical ea = false) : addrCheck s ea w = .error (.trap cPage w.op.kind.detail ea) := by
  unfold addrCheck
  dsimp only
  rw [aligned_or_plain ha, canonicalOr, hc]
  rfl

theorem addrCheck_space (hc : canonical ea = true) (hs : w.op.allowedIn (spaceOf s (home s) ea) = false) :
    addrCheck s ea w = .error (.trap cAccess 0 ea) := by
  unfold addrCheck
  dsimp only
  rw [aligned_or_plain ha, canonicalOr, show w.op.allowedIn (spaceOf s (cellOfSlot s.cur) ea) = false from hs, hc]
  rfl

end

/-- Settles O10, one check after the other. -/
theorem memoryTraps : Obligations.MemoryTraps := by
  intro s i r hm hb hdata hdst ho ea below unaligned
  have hasks : Asks s i r := asks_memOf hm hb hdata hdst
  refine ⟨fun ⟨hp, hc, hl⟩ => ?priv, fun hbelow ⟨hu, hplain⟩ => ?misalign, fun hbelow hu hc => ?page, fun hbelow hu hc hs => ?access⟩
  case priv => exact asks_trap hasks hb hdst ho fun w _ _ => .inl (privOr_below hp hc hl)
  all_goals
    refine asks_trap hasks hb hdst ho ?_
    rintro ⟨dst, op, acq, rel, scope, plain⟩ rfl rfl
    refine .inr ⟨privOr_passes hbelow, ?_⟩
  case misalign => exact addrCheck_unaligned hu hplain
  case page => exact addrCheck_noncanonical hu hc
  case access => exact addrCheck_space hu hc hs

end Sys2Proof.Machine
end
section
/-! O41: an access that reaches a remote cell, the answer of an access, the status of a token, and a launch from the device. -/

namespace Sys2Proof.Machine
open Claims

/-! ### What the slices and their homes do not touch (R100-R103, R131) -/

/-- A state without memory and the caches, translations and counters around it. -/
def offMemory (s : State) : State :=
  { s with
    work := [], regs := [], phys := [], lineKey := [], errs := [], freeCtr := 0, tlb := [], lines := [], stamps := [], misses := []
    filter := [], replicas := [], forwards := [], cores := [] }

theorem cur_of_offMemory {s t : State} (h : offMemory t = offMemory s) : t.cur = s.cur :=
  (congrArg State.cur h : (offMemory t).cur = (offMemory s).cur)
theorem slots_of_offMemory {s t : State} (h : offMemory t = offMemory s) : t.slots = s.slots :=
  (congrArg State.slots h : (offMemory t).slots = (offMemory s).slots)
theorem slot_of_offMemory {s t : State} (h : offMemory t = offMemory s) (j : Nat) : t.slot j = s.slot j :=
  congrArg (fun m => FMap.get Slot.init m j) (slots_of_offMemory h)
theorem cells_of_offMemory {s t : State} (h : offMemory t = offMemory s) : t.cells = s.cells :=
  (congrArg State.cells h : (offMemory t).cells = (offMemory s).cells)
theorem tokens_of_offMemory {s t : State} (h : offMemory t = offMemory s) : t.tokens = s.tokens :=
  (congrArg State.tokens h : (offMemory t).tokens = (offMemory s).tokens)

theorem offMemory_foldl {α : Type} {f : State → α → State} (hf : ∀ s a, offMemory (f s a) = offMemory s) (l : List α) (s : State) :
    offMemory (l.foldl f s) = offMemory s :=
  foldl_keeps (p := fun t => offMemory t = offMemory s) (fun t a h => (hf t a).trans h) rfl

theorem offMemory_count (s : State) (b e k : Nat) : offMemory (count s b e k) = offMemory s := by
  obtain ⟨m, h⟩ := count_eq s b e k
  rw [h]
  rfl

theorem offMemory_writeMiss (s : State) (d line key : Nat) : offMemory (writeMiss s d line key) = offMemory s := by
  unfold writeMiss
  split <;> rfl

theorem offMemory_physWriteLine (s : State) (pa n v key : Nat) : offMemory (physWriteLine s pa n v key) = offMemory s := by
  unfold physWriteLine
  extract_lets line t
  have ht : offMemory t = offMemory s := by
    simp only [t]
    split <;> rfl
  exact ht

theorem offMemory_homeWrite (s : State) (pa n v key : Nat) (w : Option Nat) : offMemory (homeWrite s pa n v key w) = offMemory s :=
  offMemory_physWriteLine (serialise s (homeDie s pa) (lineOf pa) key) pa n v key

theorem offMemory_cachedWrite (s : State) (pa n v key : Nat) (w : Option Nat) : offMemory (cachedWrite s pa n v key w) = offMemory s :=
  (offMemory_homeWrite ..).trans ((offMemory_writeMiss ..).trans (offMemory_count ..))

theorem offMemory_flushLine (s : State) (d line : Nat) : offMemory (flushLine s d line) = offMemory s :=
  offMemory_foldl (fun _ _ => offMemory_cachedWrite ..) _ _

theorem offMemory_flushDie (s : State) (d : Nat) : offMemory (flushDie s d) = offMemory s :=
  offMemory_foldl (fun _ _ => offMemory_cachedWrite ..) _ _

theorem offMemory_selfInvalidate (s : State) (d : Nat) : offMemory (selfInvalidate s d) = offMemory s := rfl

theorem offMemory_writeHome (s : State) (d pa n v key : Nat) : offMemory (writeHome s d pa n v key) = offMemory s :=
  (offMemory_cachedWrite ..).trans (offMemory_flushLine ..)

/-! ### A write at a line's home (R101, R102, R112) -/

theorem writeMiss_phys (s : State) (d line key : Nat) : (writeMiss s d line key).phys = s.phys := by
  unfold writeMiss
  split <;> rfl

/-- Memory after a write inside a line: first, where the line was held under other material, all of it with no meaning. -/
theorem physWriteLine_phys (s : State) (pa n v key : Nat) (h : Memory.wf s.phys = true) :
    ∃ m, Memory.wf m = true ∧ (physWriteLine s pa n v key).phys = Memory.writeN m pa n v := by
  unfold physWriteLine
  extract_lets line t
  refine ⟨t.phys, ?_, rfl⟩
  simp only [t]
  split
  · exact h
  · exact Memory.wf_writeN _ _ _ h

theorem homeWrite_phys (s : State) (pa n v key : Nat) (w : Option Nat) (h : Memory.wf s.phys = true) :
    ∃ m, Memory.wf m = true ∧ (homeWrite s pa n v key w).phys = Memory.writeN m pa n v :=
  physWriteLine_phys (serialise s (homeDie s pa) (lineOf pa) key) pa n v key h

theorem cachedWrite_phys (s : State) (pa n v key : Nat) (w : Option Nat) (h : Memory.wf s.phys = true) :
    ∃ m, Memory.wf m = true ∧ (cachedWrite s pa n v key w).phys = Memory.writeN m pa n v := by
  refine homeWrite_phys _ pa n v key w ?_
  rw [writeMiss_phys, countL2, count_phys]
  exact h

theorem wf_cachedWrite (s : State) (pa n v key : Nat) (w : Option Nat) (h : Memory.wf s.phys = true) :
    Memory.wf (cachedWrite s pa n v key w).phys = true := by
  obtain ⟨m, hm, hw⟩ := cachedWrite_phys s pa n v key w h
  rw [hw]
  exact Memory.wf_writeN _ _ _ hm

theorem wf_flushLine (s : State) (d line : Nat) (h : Memory.wf s.phys = true) : Memory.wf (flushLine s d line).phys = true := by
  unfold flushLine
  extract_lets hd mine n now t
  exact foldl_keeps (f := performForward) (b := t) (p := fun u => Memory.wf u.phys = true) (fun u (f : Forward) hu => wf_cachedWrite u f.pa f.n f.v f.key none hu) h

/-- What is written at a line's home is read there. -/
theorem readN_writeHome (s : State) (d pa n v key : Nat) (h : Memory.wf s.phys = true) :
    Memory.readN (writeHome s d pa n v key).phys pa n = v % 2 ^ (8 * n) := by
  obtain ⟨m, hm, hw⟩ := cachedWrite_phys (dropReplica s d (lineOf pa)) pa n v key none (wf_flushLine s d _ h)
  rw [writeHome, hw, Memory.readN_writeN _ _ _ hm]

/-! ### An arrival at a register (R64) -/

namespace Slot

theorem sval_fillS_same (x : Slot) {r : Nat} (v : Word) (h : 0 < r) (h64 : r < 64) : (x.fillS r v).sval r = v := by
  have hput := sval_putS_same x v h.ne' h64
  rw [fillS, if_neg h.ne']
  exact hput

theorem sval_fillS_ne (x : Slot) {r q : Nat} (v : Word) (h : q ≠ r) : (x.fillS r v).sval q = x.sval q := by
  unfold fillS
  split
  · rfl
  · exact sval_putS_ne x v h

theorem sF_fillS_same (x : Slot) {r : Nat} (v : Word) (h : r < 64) : (x.fillS r v).sF r = true := by
  unfold fillS
  split
  next h0 => rw [h0, sF_zero]
  next => exact sF_putS_same x v h

theorem sP_fillS_same (x : Slot) {r : Nat} (v : Word) (h : 0 < r) (h64 : r < 64) : (x.fillS r v).sP r = false := by
  rw [fillS, if_neg h.ne', sP]
  exact (congrArg _ (getLsbD_setBit_same _ _ h64)).trans (Bool.and_false _)

/-- What is owed is a register of the file. -/
theorem lt_of_sP {x : Slot} {r : Nat} (h : x.sP r = true) : r < 64 := by
  rw [sP, Bool.and_eq_true] at h
  exact BitVec.lt_of_getLsbD h.2

end Slot

theorem wakeSlot_keeps (x : Slot) : (wakeSlot x).sreg = x.sreg ∧ (wakeSlot x).sfull = x.sfull ∧ (wakeSlot x).spend = x.spend ∧
    (wakeSlot x).sdead = x.sdead ∧ (wakeSlot x).unack = x.unack := by
  unfold wakeSlot
  split <;> exact ⟨rfl, rfl, rfl, rfl, rfl⟩

/-- A slot whose scalar registers are those of another one. -/
def SameScalars (x y : Slot) : Prop := y.sreg = x.sreg ∧ y.sfull = x.sfull ∧ y.spend = x.spend ∧ y.sdead = x.sdead

theorem sval_of_sameScalars {x y : Slot} (h : SameScalars x y) (r : Nat) : y.sval r = x.sval r := by
  obtain ⟨hreg, -, -, hdead⟩ := h
  rw [Slot.sval, hreg, hdead, Slot.sval]

theorem sF_of_sameScalars {x y : Slot} (h : SameScalars x y) (r : Nat) : y.sF r = x.sF r := by
  obtain ⟨-, hfull, -, -⟩ := h
  rw [Slot.sF, hfull, Slot.sF]

theorem sP_of_sameScalars {x y : Slot} (h : SameScalars x y) (r : Nat) : y.sP r = x.sP r := by
  obtain ⟨-, -, hpend, -⟩ := h
  rw [Slot.sP, hpend, Slot.sP]

theorem sameScalars_wakeSlot (x : Slot) : SameScalars x (wakeSlot x) := by
  obtain ⟨hreg, hfull, hpend, hdead, -⟩ := wakeSlot_keeps x
  exact ⟨hreg, hfull, hpend, hdead⟩

/-! ### An arrival at a remote cell (R92) -/

theorem exec_remoteAccessArrival {s : State} {a : Access} {cell : Nat} (ha : s.findAccess a.id = some a) (hs : a.stage = .lattice cell)
    (hc : clockStop (s.cell cell) = none) (hf : (s.fabricOf (dieOf cell)).step = none) :
    exec (.remoteAccessArrival a.id) s = .next (enterPort s cell a) := by
  change execRemoteAccessArrival a.id s = _
  unfold execRemoteAccessArrival whenFabric whenPort
  rw [ha]
  dsimp only
  rw [hs]
  dsimp only
  rw [hf, hc]
  rfl

theorem enterPort_refused {s : State} {a : Access} {cell d : Nat} (hb : ∀ c b i, a.src ≠ .blk c b i)
    (hw : windowRefusal (s.cell cell) (bits a.va 20 0) a.op.size a.op.rights = some d) : enterPort s cell a = reply s a (.window d) := by
  unfold enterPort
  dsimp only
  split
  next h => exact absurd h (hb _ _ _)
  next => rw [show windowRefusal (s.cell cell) (localOff a.va) a.op.size a.op.rights = some d from hw]

/-- An access that waits at a cell's copy port. -/
def atPort (s : State) (cell : Nat) (a : Access) : State :=
  (s.arrive { a with stage := .port cell }).push (portPairings s cell (localOff a.va))

theorem enterPort_admitted {s : State} {a : Access} {cell : Nat} (hp : a.poison = none)
    (hw : windowRefusal (s.cell cell) (bits a.va 20 0) a.op.size a.op.rights = none) : enterPort s cell a = atPort s cell a := by
  unfold enterPort
  dsimp only
  split
  next => rfl
  next =>
    rw [show windowRefusal (s.cell cell) (localOff a.va) a.op.size a.op.rights = none from hw]
    dsimp only
    split
    next h =>
      rw [hp] at h
      cases h
    next => rfl

theorem portPairings_14 (s : State) (cell o : Nat) : ∃ n, Turn.event (.localPairing cell 14 n) ∈ portPairings s cell o := by
  refine ⟨pairTime s cell 14 o, ?_⟩
  unfold portPairings
  dsimp only
  split
  · exact List.mem_cons_self
  · exact List.mem_cons_of_mem _ List.mem_cons_self

/-! ### An answer comes home (R66, R192) -/

theorem exec_homeEvent (s : State) (a : Access) : exec (homeEvent a) s = .next (bringHome s a.id (homeEvent a)) := by
  unfold homeEvent
  split <;> rfl

section
variable {s : State} {a : Access} {r : Reply} {k : Nat} {pc : Word} {dst : Option Nat} {counts : Bool}
  (h : ComesHome s a r k pc dst counts)
include h

theorem homeCell_comesHome : homeCell s a = cellOfSlot k := by
  obtain ⟨-, -, -, -, ⟨sid, gen, oldF, cons, hsrc, hk⟩, -⟩ := h
  unfold homeCell
  rw [hsrc]
  dsimp only
  rw [hk]

theorem bringHome_comesHome : bringHome s a.id (homeEvent a) = if answerWaits s a then s.pushE (homeEvent a) else settle s a r := by
  have hcell := homeCell_comesHome h
  obtain ⟨ha, hstage, hclk, hfab, -, -⟩ := h
  unfold bringHome whenPort whenFabric
  rw [ha]
  dsimp only
  rw [hstage]
  dsimp only
  rw [hcell, hclk, hfab, if_neg (fun e => e rfl)]
  split <;> rfl

/-- A live slot takes its answer, but for a trap that its vector instructions hold up. -/
theorem answerWaits_comesHome (hw : replyTrap a r = none ∨ vecOpen s k = false) : answerWaits s a = false := by
  obtain ⟨-, hstage, -, -, ⟨sid, gen, oldF, cons, hsrc, hk⟩, hlive⟩ := h
  unfold answerWaits
  rw [hstage, hsrc]
  dsimp only
  rw [hk]
  dsimp only
  rw [inTransit, hlive, Bool.or_eq_false_iff]
  refine ⟨rfl, ?_⟩
  obtain hn | hv := hw
  · rw [hn]
    rfl
  · rw [hv, Bool.and_false]

/-- What the answer of an access does. -/
theorem exec_comesHome (hw : replyTrap a r = none ∨ vecOpen s k = false) : ∃ sid gen oldF cons, resolveSlot s sid gen = some k ∧
    exec (homeEvent a) s = .next (settleSlot s a r sid gen pc dst oldF cons counts) := by
  have hwait := answerWaits_comesHome h hw
  have hhome := bringHome_comesHome h
  obtain ⟨-, -, -, -, ⟨sid, gen, oldF, cons, hsrc, hk⟩, -⟩ := h
  refine ⟨sid, gen, oldF, cons, hk, ?_⟩
  rw [exec_homeEvent, hhome, hwait, if_neg Bool.false_ne_true, settle, hsrc]

end

theorem findAccess_dropAccess (s : State) (id : Nat) : (s.dropAccess id).findAccess id = none := by
  refine List.find?_eq_none.mpr fun b hb => ?_
  simpa using (List.mem_filter.mp hb).2

/-- The slot of an access that is complete. -/
def completedSlot (a : Access) (dst : Option Nat) (counts : Bool) (v : Nat) (x : Slot) : Slot :=
  let x := match dst with
    | some d => if d < 64 then x.fillS d (loadValue a.op v) else x.fillV (d - 64) (BitVec.ofNat 4096 v)
    | none => x
  let x := if counts then { lowerUnack x with park := if x.park = some .unack then none else x.park } else x
  wakeSlot { x with await := if x.await = some a.id then none else x.await, tries := 0 }

section
variable (s : State) (a : Access) (k : Nat) (dst : Option Nat) (counts : Bool) (v : Nat)

/-- The state in which an access is complete and out of flight. -/
def completion : State := completeAccess (s.dropAccess a.id) a k dst counts v

theorem completion_eq : completion s a k dst counts v = (s.dropAccess a.id).setSlot k (completedSlot a dst counts v (s.slot k)) := rfl

theorem completion_findAccess : (completion s a k dst counts v).findAccess a.id = none := findAccess_dropAccess s a.id

theorem completion_slot_same : (completion s a k dst counts v).slot k = completedSlot a dst counts v (s.slot k) := by
  rw [completion_eq, State.slot_setSlot_same]

theorem completion_slot_ne {j : Nat} (h : j ≠ k) : (completion s a k dst counts v).slot j = s.slot j := by
  rw [completion_eq, State.slot_setSlot_ne _ _ h, State.dropAccess_slot]

end

theorem completedSlot_load (a : Access) {d : Nat} (h : d < 64) (v : Nat) (x : Slot) :
    SameScalars (x.fillS d (loadValue a.op v)) (completedSlot a (some d) false v x) := by
  unfold completedSlot
  dsimp only
  rw [if_pos h, if_neg Bool.false_ne_true]
  exact sameScalars_wakeSlot _

theorem completedSlot_acknowledged (a : Access) (v : Nat) (x : Slot) :
    (completedSlot a none true v x).unack = x.unack - 1#64 ∧ SameScalars x (completedSlot a none true v x) := by
  unfold completedSlot
  dsimp only
  rw [if_pos rfl]
  obtain ⟨-, -, -, -, hun⟩ := wakeSlot_keeps { lowerUnack x with
    park := if x.park = some .unack then none else x.park, await := if x.await = some a.id then none else x.await, tries := 0 }
  exact ⟨hun, sameScalars_wakeSlot _⟩

/-- A number read as two's complement is that of a bit vector. -/
theorem signedN_toInt (n v : Nat) : signedN n v = (BitVec.ofNat n v).toInt := by
  unfold signedN
  rw [BitVec.toInt_eq_toNat_cond, BitVec.toNat_ofNat]
  cases n with
  | zero => simp [Nat.mod_one]
  | succ n =>
    have hpow : 2 ^ (n + 1) = 2 * 2 ^ n := by rw [Nat.pow_succ, Nat.mul_comm]
    rw [Nat.add_sub_cancel]
    congr 1
    rw [hpow]
    exact propext (by omega)

theorem loadValue_load (n v : Nat) (e : Bool) :
    loadValue (.load n e) v = if e then (BitVec.ofNat (8 * n) v).signExtend 64 else BitVec.ofNat 64 v := by
  cases e
  · rfl
  · rw [loadValue, signedN_toInt]
    rfl

/-! ### A bad answer (R82) -/

theorem settleSlot_traps {s : State} {a : Access} {r : Reply} {sid k c d : Nat} {gen : BitVec 8} {pc v : Word} {dst : Option Nat}
    {oldF counts : Bool} {cons : List Nat} (hk : resolveSlot s sid gen = some k) (hr : replyTrap a r = some (c, d, v))
    (hw : (s.slot k).await = some a.id) : settleSlot s a r sid gen pc dst oldF cons counts =
      trapAccess (s.dropAccess a.id) k (undoIssue (s.slot k) pc dst oldF cons counts) c d v := by
  unfold settleSlot
  rw [hk]
  dsimp only
  split
  next => cases hr
  next => cases hr
  next => cases hr
  next => rw [if_pos hw, hr]

theorem takeTrap_flight (s : State) (sid c d : Nat) (v : Word) (b : Bool) : (takeTrap s sid c d v b).flight = s.flight := by
  rcases takeTrap_cases s sid c d v b with h | h <;> rw [h] <;> rfl

/-! ### The status of a token (R64, R350) -/

theorem offMemory_tokenScope (s : State) (k : Token) : offMemory (tokenScope s k) = offMemory s := by
  unfold tokenScope
  dsimp only
  split
  · exact (offMemory_selfInvalidate ..).trans (offMemory_flushDie ..)
  · rfl

theorem tokenArrival_keeps (s : State) (k : Token) : (tokenArrival s k).slots = s.slots ∧ (tokenArrival s k).tokens = s.tokens := by
  unfold tokenArrival
  split <;> exact ⟨rfl, rfl⟩

/-- The state of a token that has left, with what its release comes to. -/
def tokenTaken (s : State) (k : Token) : State := tokenScope { s with tokens := s.tokens.filter (fun q => q.id ≠ k.id) } k

/-- The register that is owed a token's status takes it. -/
theorem fillToken_owed {s : State} {k : Token} {x : Slot} (htok : k.tok = true) (hb : k.blk = false)
    (hx : s.slot (16 * k.core + k.slot) = x) (hlive : x.isLive = true) (hgen : x.gen = k.gen) (hpend : x.sP k.reg = true) :
    fillToken s k = s.setSlot (16 * k.core + k.slot) (wakeSlot (x.fillS k.reg k.status)) := by
  unfold fillToken
  dsimp only
  rw [hx, htok, hlive, decide_eq_true hgen, hpend, hb]
  rfl

theorem exec_tokenFill {s : State} {k : Token} (hk : s.tokens.find? (fun t => t.id = k.id) = some k)
    (hclk : clockStop (s.cell (k.core / 4)) = none) (hb : k.blk = false) (hc : k.copy = none) :
    exec (.tokenFill k.id) s = .next (tokenArrival (fillToken (tokenTaken s k) k) k) := by
  have hcross : k.crosses = false := by rw [Token.crosses, hb, hc]; rfl
  change execTokenFill k.id s = _
  unfold execTokenFill whenPort
  rw [hk]
  dsimp only
  rw [hclk, hcross]
  unfold takeToken
  rw [hc]
  rfl

/-! ### A launch from the device (R143, R299) -/

theorem lowerAddr_ok {va : Word} {n d : Nat} (ha : va.toNat % n = 0) (h : bits va 63 56 = 0) : lowerAddr va n d = .ok () := by
  have h56 : va.getLsbD 56 = false := by
    have hbit := testBit_bits va 63 56 0
    rw [h, Nat.zero_testBit] at hbit
    simpa using hbit.symm
  have hcan : canonical va = true := by
    have hhi : bits va 63 57 = bits va 63 56 / 2 := by
      unfold bits
      omega
    rw [canonical, h56, hhi, h]
    rfl
  rw [lowerAddr, alignedTo, decide_eq_true ha, canonicalOr, hcan, h56]
  rfl

theorem peek2_readable {x : Slot} {a b : BitVec 6} (ha : Readable x a) (hb : Readable x b) (m n : Bool) :
    peek2 x a.toNat m b.toNat n = .ok (x.sval a.toNat, x.sval b.toNat, (x.take a.toNat m).take b.toNat n) := by
  rw [peek2, peekS_readable ha, peekS_readable hb]
  rfl

theorem badS_readable {x : Slot} {r : BitVec 6} (h : Readable x r) : badS x r.toNat = false := by
  obtain ⟨-, -, rfl | herr⟩ := h
  · rfl
  · rw [badS, herr, Bool.and_false]

theorem soundS_readable {x : Slot} {a b : BitVec 6} (ha : Readable x a) (hb : Readable x b) :
    soundS x [a.toNat, b.toNat] = .ok () := by
  rw [soundS, List.find?_cons_of_neg (by rw [badS_readable ha]; decide), List.find?_cons_of_neg (by rw [badS_readable hb]; decide)]
  rfl

/-- The state in which a launch's bytes are in its queue and the queue's tail has moved on. -/
def launched (u : State) (p q v : Nat) : State :=
  let pa := lqBase u p q + 64 * (lqTail u p q % lqLen u p q)
  (writeHome u (dieOf (home u)) pa 64 v (keyByPa u pa)).setReg (lqOff p q + 0x18) (wrap64 ((lqTail u p q + 1) % 65536))

section
variable {s u : State} {a b : BitVec 6} {v q : Nat} (ha : Readable (here s) a) (hb : Readable (here s) b)
  (hq : q = ((here s).sval a.toNat).toNat) (hq8 : q < 8) (hal : ((here s).sval b.toNat).toNat % 64 = 0)
  (hlow : bits ((here s).sval b.toNat) 63 56 = 0) (hf : Fetches s ((here s).sval b.toNat) 64 v u)
  (hen : lqEnabled s (part s) q = true) (hdev : lqDev s (part s) q = true) (hrel : released u u.cur u.nextId 4 = true)
  (hroom : lqCount u (part s) q (lqTail u (part s) q) < lqLen u (part s) q)
  (hbacked : isBacked (lqBase u (part s) q + 64 * (lqTail u (part s) q % lqLen u (part s) q)) = true)
  (hsys : isSystem (lqBase u (part s) q + 64 * (lqTail u (part s) q % lqLen u (part s) q)) = false)
include ha hb hq hq8 hal hlow hf hen hdev hrel hroom hbacked hsys

theorem exec_lnch (m n : Bool) : exec (.lnch a b m n) s =
    finish s (.ok ((done (launched u (part s) q v) (((here s).take a.toNat m).take b.toNat n)).pushE (.launchRead (part s)))) := by
  have hbits : bits ((here s).sval a.toNat) 2 0 = q ∧ bits ((here s).sval a.toNat) 63 3 = 0 := by
    unfold bits
    rw [← hq]
    omega
  obtain ⟨hlo, hhi⟩ := hbits
  change execLnch a b m n s = _
  unfold execLnch
  refine congrArg (finish s) ?_
  dsimp only
  rw [show s.slot s.cur = here s from rfl, boundS_all (by simp [ha.1, hb.1]), res_ok_bind, peek2_readable ha hb, res_ok_bind]
  dsimp only
  rw [lowerAddr_ok hal hlow, res_ok_bind, hf, hlo, hhi, hen, hdev]
  rw [soundS_readable ha hb, afterOlder, hrel, show s.partN (cellOfSlot s.cur) = part s from rfl, decide_eq_true hroom, hbacked, hsys]
  rfl

end

section
variable (u : State) (p q v : Nat)

theorem launched_cur : (launched u p q v).cur = u.cur := cur_of_offMemory (offMemory_writeHome u _ _ 64 v _)

/-- The state after a launch from the device, its completion counted. -/
def launchDone (base : Nat) (y : Slot) : State := count ((done (launched u p q v) y).pushE (.launchRead p)) base 2 1

theorem here_launchDone (base : Nat) (y : Slot) : here (launchDone u p q v base y) = y.next := by
  rw [here, launchDone, count_slot, count_cur]
  exact State.slot_setSlot_same ..

theorem launchDone_phys (base : Nat) (y : Slot) :
    (launchDone u p q v base y).phys = (writeHome u (dieOf (home u)) (lqBase u p q + 64 * (lqTail u p q % lqLen u p q)) 64 v
      (keyByPa u (lqBase u p q + 64 * (lqTail u p q % lqLen u p q)))).phys := count_phys ..

/-- A partition's number is one of sixteen. -/
theorem partN_lt (s : State) (cell : Nat) : s.partN cell < 16 := by
  unfold State.partN
  cases h : s.partOf cell with
  | none => decide
  | some p => exact List.mem_range.mp (List.mem_of_find?_eq_some h)

theorem lqTail_apart (cell : Nat) {p q : Nat} (hp : p < 16) (hq : q < 8) :
    (lqOff p q + 0x18) / 0x100 ≠ cellPerf cell / 0x100 := by
  unfold lqOff pkgBase cellPerf dieBase cellIx
  omega

theorem launchDone_tail (cell : Nat) (y : Slot) (hp : p < 16) (hq : q < 8) :
    lqTail (launchDone u p q v (cellPerf cell) y) p q = (lqTail u p q + 1) % 65536 := by
  rw [lqTail, launchDone, reg_count_apart _ 2 1 (cellPerf_aligned cell) (lqTail_apart cell hp hq)]
  change bits ((launched u p q v).reg (lqOff p q + 0x18)) 15 0 = _
  rw [launched, State.reg_setReg_same]
  have hlt : (lqTail u p q + 1) % 65536 < 65536 := Nat.mod_lt _ (by decide)
  generalize (lqTail u p q + 1) % 65536 = n at *
  rw [bits, wrap64, BitVec.toNat_ofNat]
  omega

end

/-- Settles O41: arrivals over the lattice, answers good and bad, a token's status, and `lnch`. -/
theorem answersAndLaunches : Obligations.AnswersAndLaunches := by
  refine ⟨?arrival, ?load, ?acknowledged, ?trap, ?token, ?launch⟩
  case arrival =>
    intro s a cell ha hs hc hf hb hp
    have hrun := exec_remoteAccessArrival ha hs hc hf
    refine ⟨fun d hw => ⟨_, hrun, ?_⟩, fun hw => ⟨_, hrun, ?_⟩⟩
    · rw [enterPort_refused hb hw]
      exact ⟨replied_reply (findAccess_mem ha) _, sameBytes_reply ..⟩
    · rw [enterPort_admitted hp hw]
      obtain ⟨n, hn⟩ := portPairings_14 s cell (localOff a.va)
      exact ⟨findAccess_arrive (a := { a with stage := .port cell }) (findAccess_mem ha) rfl, ⟨n, List.mem_append_right _ hn⟩,
        sameBytes_of_eq rfl rfl rfl⟩
  case load =>
    intro s a k d v n pc e h hop hd h64
    obtain ⟨sid, gen, oldF, cons, hk, hrun⟩ := exec_comesHome h (.inl rfl)
    have hev : homeEvent a = .loadReturn a.id := by rw [homeEvent, hop]
    have hsettle : settleSlot s a (.value v) sid gen pc (some d) oldF cons false = completion s a k (some d) false v := by
      rw [settleSlot, hk]
      rfl
    have hsame := completedSlot_load a h64 v (s.slot k)
    rw [← completion_slot_same s a k (some d) false v] at hsame
    rw [hsettle, hev] at hrun
    refine ⟨_, hrun, completion_findAccess .., ?_, ?_, ?_, fun r _ hr => ?_, fun j hj => completion_slot_ne _ _ _ _ _ _ hj⟩
    · rw [sF_of_sameScalars hsame, Slot.sF_fillS_same _ _ h64]
    · rw [sP_of_sameScalars hsame, Slot.sP_fillS_same _ _ hd h64]
    · rw [sval_of_sameScalars hsame, Slot.sval_fillS_same _ _ hd h64, hop, loadValue_load]
    · rw [sval_of_sameScalars hsame, Slot.sval_fillS_ne _ _ hr]
  case acknowledged =>
    intro s a k pc h hev _
    obtain ⟨sid, gen, oldF, cons, hk, hrun⟩ := exec_comesHome h (.inl rfl)
    have hsettle : settleSlot s a .done sid gen pc none oldF cons true = completion s a k none true 0 := by
      rw [settleSlot, hk]
      rfl
    obtain ⟨hun, hsame⟩ := completedSlot_acknowledged a 0 (s.slot k)
    rw [← completion_slot_same s a k none true 0] at hun hsame
    rw [hsettle, hev] at hrun
    exact ⟨_, hrun, completion_findAccess .., hun, fun r _ => sval_of_sameScalars hsame r,
      fun j hj => completion_slot_ne _ _ _ _ _ _ hj⟩
  case trap =>
    intro s a k c d pc v dst counts r h hr hw hv
    obtain ⟨sid, gen, oldF, cons, hk, hrun⟩ := exec_comesHome h (.inr hv)
    obtain ⟨-, -, -, -, -, hlive⟩ := h
    have hon : (undoIssue (s.slot k) pc dst oldF cons counts).goesOn = true := by
      rw [Slot.goesOn, undoIssue_status, hlive]
    rw [settleSlot_traps hk hr hw, trapAccess, if_pos hon] at hrun
    refine ⟨_, hrun, ?_, ?_⟩
    · rw [State.findAccess, takeTrap_flight]
      exact findAccess_dropAccess s a.id
    · rw [takeTrap_slot_same, State.slot_setSlot_same]
      obtain ⟨hcause, hepc, hval⟩ := trapSlot_record (undoIssue (s.slot k) pc dst oldF cons counts) c d v false
      refine ⟨hepc, hval, hcause, fun j hj => ?_⟩
      rw [takeTrap_slot_ne _ _ _ _ _ hj, State.slot_setSlot_ne _ _ hj, State.dropAccess_slot]
  case token =>
    intro s k hk hclk htok hb hc hreg x hlive hgen hpend
    have h64 : k.reg < 64 := Slot.lt_of_sP hpend
    have hoff := offMemory_tokenScope { s with tokens := s.tokens.filter (fun q => q.id ≠ k.id) } k
    have hfill := fillToken_owed (s := tokenTaken s k) htok hb (slot_of_offMemory hoff _) hlive hgen hpend
    obtain ⟨hslots, htokens⟩ := tokenArrival_keeps (fillToken (tokenTaken s k) k) k
    have hsame := sameScalars_wakeSlot (x.fillS k.reg k.status)
    have hend : (tokenArrival (fillToken (tokenTaken s k) k) k).slot (16 * k.core + k.slot) = wakeSlot (x.fillS k.reg k.status) := by
      rw [State.slot, hslots, hfill]
      exact State.slot_setSlot_same ..
    refine ⟨_, exec_tokenFill hk hclk hb hc, fun q hq => ?_, ?_⟩
    · rw [htokens, hfill, State.setSlot_tokens, tokenTaken, tokens_of_offMemory hoff] at hq
      simpa using (List.mem_filter.mp hq).2
    · rw [hend, sval_of_sameScalars hsame, sF_of_sameScalars hsame, sP_of_sameScalars hsame]
      exact ⟨Slot.sval_fillS_same _ _ hreg h64, Slot.sF_fillS_same _ _ h64, Slot.sP_fillS_same _ _ hreg h64⟩
  case launch =>
    intro s u a b m n v q ha hb hq hq8 hal hlow hf hcur hslots hwf hen hdev hrel hroom tail pa hbacked hsys
    refine ⟨_, exec_lnch ha hb hq hq8 hal hlow hf hen hdev hrel hroom hbacked hsys m n,
      here_launchDone u (part s) q v (cellPerf (home s)) _, launchDone_tail u (part s) q v (home s) _ (partN_lt ..) hq8, ?_⟩
    rw [show (count _ _ 2 1).phys = _ from launchDone_phys u (part s) q v (cellPerf (home s)) _]
    have hread := readN_writeHome u (dieOf (home u)) pa 64 v (keyByPa u pa) hwf
    rwa [show 8 * 64 = 512 from rfl] at hread

end Sys2Proof.Machine
end
section
/-! O42: requests that enter a commons queue, pairings of a commons bank, and turn boundaries. -/

namespace Sys2Proof.Machine
open Claims

/-! ### The first of some things in a queue -/

theorem foldl_pick {α : Type} {f : α → α → α} (hf : ∀ x y, f x y = x ∨ f x y = y) (l : List α) (x : α) :
    l.foldl f x = x ∨ l.foldl f x ∈ l := by
  induction l generalizing x with
  | nil => exact .inl rfl
  | cons y l ih =>
    rw [List.foldl_cons]
    obtain h | h := ih (f x y)
    · rw [h]
      exact (hf x y).imp_right fun e => by rw [e]; exact List.mem_cons_self
    · exact .inr (List.mem_cons_of_mem y h)

theorem mem_of_foldl_pick {α : Type} {f : α → α → α} (hf : ∀ x y, f x y = x ∨ f x y = y) {l : List α} {x a : α}
    (h : l.foldl f x = a) : a ∈ x :: l := by
  obtain he | hm := foldl_pick hf l x
  · rw [← h, he]
    exact List.mem_cons_self
  · rw [← h]
    exact List.mem_cons_of_mem x hm

theorem firstIn_mem {l : List Access} {a : Access} (h : firstIn l = some a) : a ∈ l := by
  cases l with
  | nil => cases h
  | cons x l => exact mem_of_foldl_pick (fun x y => by split <;> simp) (Option.some.inj h)

theorem firstEntered_mem {l : List PortUnit} {u : PortUnit} (h : firstEntered l = some u) : u ∈ l := by
  cases l with
  | nil => cases h
  | cons x l => exact mem_of_foldl_pick (fun x y => by split <;> simp) (Option.some.inj h)

/-! ### What a position serves (R96, R289) -/

section
variable {s : State} {d pos g b : Nat}

theorem chooseLane_lane {u : PortUnit} (h : chooseLane s d pos g b = .lane u) : u.spot.commons = true ∧ dieOf u.spot.cell = d := by
  unfold chooseLane at h
  split at h
  next v hv =>
    obtain rfl := Service.lane.inj h
    have hmem := List.mem_of_mem_filter (firstEntered_mem hv)
    simp only [laneUnits, List.mem_filter, Bool.and_eq_true, decide_eq_true_eq] at hmem
    obtain ⟨-, ⟨⟨hc, -⟩, hd⟩, -⟩ := hmem
    exact ⟨hc, hd⟩
  next => cases h

theorem chooseLane_cases (s : State) (d pos g b : Nat) :
    (∃ u, chooseLane s d pos g b = .lane u) ∨ chooseLane s d pos g b = .nothing := by
  unfold chooseLane
  split
  · exact .inl ⟨_, rfl⟩
  · exact .inr rfl

theorem chooseService_plain {a : Access} (h : chooseService s d pos g b = .plain a) : a ∈ s.flight := by
  unfold chooseService at h
  split at h
  · obtain ⟨u, hu⟩ | hu := chooseLane_cases s d pos g b
    all_goals
      rw [hu] at h
      cases h
  · extract_lets plain units at h
    have hp (x : Access) (hx : plain = some x) : x ∈ s.flight := List.mem_of_mem_filter (firstIn_mem hx)
    split at h
    · cases h
    · split at h
      next => cases h
      next x hx _ =>
        obtain rfl := Service.plain.inj h
        exact hp x hx
      next => cases h
      next x q hx _ =>
        split at h
        · obtain rfl := Service.plain.inj h
          exact hp x hx
        · cases h

theorem chooseService_unit {k : Blk} {i : Nat} (h : chooseService s d pos g b = .unit k i) : pos < 960 := by
  by_contra hpos
  unfold chooseService at h
  rw [if_pos (by omega)] at h
  obtain ⟨u, hu⟩ | hu := chooseLane_cases s d pos g b
  all_goals
    rw [hu] at h
    cases h

theorem chooseService_lane {u : PortUnit} (h : chooseService s d pos g b = .lane u) :
    u.spot.commons = true ∧ dieOf u.spot.cell = d := by
  unfold chooseService at h
  split at h
  · exact chooseLane_lane h
  · extract_lets plain units at h
    split at h
    · cases h
    · split at h
      next => cases h
      next => cases h
      next => cases h
      next => split at h <;> cases h

end

theorem bits_low (w : Word) : bits w 6 0 = w.toNat % 128 := by
  unfold bits
  simp

/-! ### Counting a served unit leaves the banks where they are (R94, R166, R194) -/

theorem countServed_eq (s : State) (d : Nat) : ∃ m n, countServed s d = { s with regs := m, served := n } := by
  obtain ⟨m, h⟩ := count_eq { s with served := FMap.put s.served d (FMap.get 0 s.served d + 1) } (diePerf d) 2 1
  exact ⟨m, _, h⟩

theorem diePerf_aligned (d : Nat) : diePerf d % 0x100 = 0 := by
  unfold diePerf dieBase
  omega

theorem reg_countServed (s : State) {d off : Nat} (h : off / 0x100 ≠ diePerf d / 0x100) : (countServed s d).reg off = s.reg off :=
  reg_count_apart _ 2 1 (diePerf_aligned d) h

theorem remap_countServed (s : State) (d : Nat) {g b : Nat} (hg : g < 16) (hb : b < 64) :
    (countServed s d).reg (remapOff d g b) = s.reg (remapOff d g b) := by
  refine reg_countServed s ?_
  unfold remapOff diePerf
  omega

theorem partWord_countServed (s : State) (d : Nat) {p w : Nat} (hp : p < 16) (hw : w < 4 ∨ ∃ k < 4, w = 4 + 4 * d + k) :
    (countServed s d).partWord p w = s.partWord p w := by
  refine reg_countServed s ?_
  unfold partBase pkgBase diePerf dieBase
  obtain hd | hd := Nat.lt_or_ge 4 d <;> obtain hw | ⟨k, hk, rfl⟩ := hw <;> omega

theorem partOf_countServed (s : State) (cell : Nat) : (countServed s (dieOf cell)).partOf cell = s.partOf cell := by
  refine List.find?_congr fun p hp => ?_
  have hp16 : p < 16 := List.mem_range.mp hp
  have hix : cellIx cell / 64 < 4 := by
    unfold cellIx
    omega
  unfold State.committed State.holds
  dsimp only
  rw [partWord_countServed s _ hp16 (.inl (by decide)), partWord_countServed s _ hp16 (.inr ⟨_, hix, rfl⟩)]

theorem partN_countServed (s : State) (cell : Nat) : (countServed s (dieOf cell)).partN cell = s.partN cell :=
  congrArg (Option.getD · 0) (partOf_countServed s cell)

theorem commonsPlace_countServed (s : State) {p : Nat} (hp : p < 16) (d o : Nat) :
    commonsPlace (countServed s d) p d o = commonsPlace s p d o := by
  have h : (countServed s d).groupsOn p d = s.groupsOn p d := by
    unfold State.groupsOn State.groupMask
    rw [partWord_countServed s d hp (.inl (by decide))]
  unfold commonsPlace
  rw [h]

/-- The banks of a die, their errors and their remap entries are as they were. -/
def BanksKept (s t : State) (d : Nat) : Prop :=
  t.commons = s.commons ∧ t.errs = s.errs ∧ ∀ g b, g < 16 → b < 64 → t.reg (remapOff d g b) = s.reg (remapOff d g b)

theorem banksKept_trans {s t u : State} {d : Nat} (h : BanksKept s t d) (k : BanksKept t u d) : BanksKept s u d := by
  obtain ⟨hc, he, hr⟩ := h
  obtain ⟨kc, ke, kr⟩ := k
  exact ⟨kc.trans hc, ke.trans he, fun g b hg hb => (kr g b hg hb).trans (hr g b hg hb)⟩

theorem banksKept_countServed (s : State) (d : Nat) : BanksKept s (countServed s d) d := by
  refine ⟨?_, ?_, fun g b => remap_countServed s d⟩ <;>
  · obtain ⟨m, n, h⟩ := countServed_eq s d
    rw [h]

section
variable {s t : State} {d : Nat} {pl : Nat × Nat × Nat} (h : BanksKept s t d) (hg : pl.1 < 16) (hb : pl.2.1 < 64)
include h hg hb

theorem BanksKept.remap : t.reg (remapOff d pl.1 pl.2.1) = s.reg (remapOff d pl.1 pl.2.1) := by
  obtain ⟨-, -, hr⟩ := h
  exact hr _ _ hg hb

theorem BanksKept.remapState : remapState t d pl.1 pl.2.1 = remapState s d pl.1 pl.2.1 := by
  unfold Machine.remapState
  rw [h.remap hg hb]

theorem BanksKept.isHole : isHole t d pl.1 pl.2.1 = isHole s d pl.1 pl.2.1 := by
  unfold Machine.isHole
  rw [h.remapState hg hb]

theorem BanksKept.commonsErr (byte n : Nat) : commonsErr t d pl byte n = commonsErr s d pl byte n := by
  have he : t.errs = s.errs := h.2.1
  unfold Machine.commonsErr
  rw [h.remap hg hb, he]

theorem BanksKept.commonsRead (byte n : Nat) :
    commonsRead t d pl byte n = Memory.readN (s.commonsOf d) (bankAt s d pl byte) n := by
  have hc : t.commons = s.commons := h.1
  unfold Machine.commonsRead State.commonsOf bankAt
  rw [h.remap hg hb, hc, bits_low]

end

/-! ### A write of a bank that is served as it stands (R94, R167) -/

theorem commonsWrite_plain {s : State} {d : Nat} {pl : Nat × Nat × Nat} (h : remapState s d pl.1 pl.2.1 = 0) (byte n v : Nat) :
    ∃ e, commonsWrite s d pl byte n v =
      { s with commons := FMap.put s.commons d (Memory.writeN (s.commonsOf d) (bankAt s d pl byte) n v), errs := e } := by
  unfold commonsWrite bankAt
  simp only [h, bits_low]
  exact ⟨_, rfl⟩

theorem commonsStored_commonsWrite {s t : State} {d : Nat} {pl : Nat × Nat × Nat} (hk : BanksKept s t d) (hp : t.phys = s.phys)
    (hc : t.cells = s.cells) (h : PlaceServes s d pl) (byte n v : Nat) :
    CommonsStored s (commonsWrite t d pl byte n v) d (bankAt s d pl byte) n v := by
  obtain ⟨hg, hb, -, hr, hw⟩ := h
  have hcom : t.commonsOf = s.commonsOf := by
    unfold State.commonsOf
    rw [hk.1]
  have hat : bankAt t d pl byte = bankAt s d pl byte := by
    unfold bankAt
    rw [hk.remap hg hb]
  obtain ⟨e, he⟩ := commonsWrite_plain ((hk.remapState hg hb).trans hr) byte n v
  rw [he, hat, hcom]
  refine ⟨hp, hc, ?_, fun b hout => ?_, fun k b hne => ?_⟩
  · simp only [State.commonsOf, FMap.get_put_same]
    exact Memory.readN_writeN _ _ _ hw
  · simp only [State.commonsOf, FMap.get_put_same]
    exact Memory.read_writeN_outside _ _ hout
  · simp only [State.commonsOf, FMap.get_put_ne _ _ _ hne, hk.1]

theorem commonsStored_then {s t u : State} {d a n v : Nat} (h : CommonsStored s t d a n v) (k : SameStores t u) :
    CommonsStored s u d a n v := by
  obtain ⟨kp, kc, km, -⟩ := k
  unfold CommonsStored State.commonsOf at h ⊢
  rw [kp, kc, km]
  exact h

theorem sameStores_pairAgain (s : State) (d pos : Nat) : SameStores s (pairAgain s d pos) := by
  unfold pairAgain
  split <;> exact ⟨rfl, rfl, rfl, rfl⟩

theorem sameStores_blkCheck (s : State) (core bid : Nat) : SameStores s (blkCheck s core bid) := by
  unfold blkCheck
  split
  · split <;> exact ⟨rfl, rfl, rfl, rfl⟩
  · exact ⟨rfl, rfl, rfl, rfl⟩

/-! ### A request at its commons queue (R96, R343) -/

section
variable {s : State} {a : Access} {d pos : Nat} (ha : s.findAccess a.id = some a) (hst : a.stage = .crossing d pos)
  (hf : (s.fabricOf d).step = none)
include ha hst hf

theorem exec_commonsQueueEntry_room
    (hn : (s.flight.filter (fun b => decide (b.stage = Stage.commons d pos))).length < Config.commonsQueue)
    (hl : lowerCrosses s a = false) :
    exec (.commonsQueueEntry a.id) s = .next (pushPairing (s.arrive { a with stage := .commons d pos }) d pos
      (placeOf s a.cell (commonsOff a)).1 (placeOf s a.cell (commonsOff a)).2.1) := by
  show execCommonsQueueEntry a.id s = _
  have hfull := Nat.not_le.mpr hn
  simp [execCommonsQueueEntry, ha, hst, whenFabric, hf, hl, hfull]

theorem exec_commonsQueueEntry_waits
    (h : Config.commonsQueue ≤ (s.flight.filter (fun b => decide (b.stage = Stage.commons d pos))).length ∨ lowerCrosses s a = true) :
    exec (.commonsQueueEntry a.id) s = .next (s.pushE (.commonsQueueEntry a.id)) := by
  show execCommonsQueueEntry a.id s = _
  simp [execCommonsQueueEntry, ha, hst, whenFabric, hf, h]

end

/-! ### Plain requests (R96, R97) -/

section
variable {s : State} {d pos c : Nat} {a : Access}

theorem acquired_flight (s : State) (a : Access) : (acquired s a).flight = s.flight := by
  unfold acquired
  split <;> rfl

theorem sameBytes_acquired (s : State) (a : Access) : SameBytes s (acquired s a) := by
  unfold acquired
  split <;> exact sameBytes_of_eq rfl rfl rfl

theorem countServed_flight (s : State) (d : Nat) : (countServed s d).flight = s.flight := by
  obtain ⟨m, n, h⟩ := countServed_eq s d
  rw [h]

theorem sameStores_countServed (s : State) (d : Nat) : SameStores s (countServed s d) := by
  obtain ⟨m, n, h⟩ := countServed_eq s d
  rw [h]
  exact ⟨rfl, rfl, rfl, rfl⟩

theorem sameStores_reply (s : State) (a : Access) (r : Reply) : SameStores s (reply s a r) := ⟨rfl, rfl, rfl, rfl⟩

theorem commonsWrite_flight (s : State) (d : Nat) (pl : Nat × Nat × Nat) (byte n v : Nat) :
    (commonsWrite s d pl byte n v).flight = s.flight := rfl

theorem exec_commonsPairing_plain (hs : chooseService s d pos (pairedBank s d pos c).1 (pairedBank s d pos c).2 = .plain a)
    (hc : copyingBank s d = none) (hf : (s.fabricOf d).step = none) :
    exec (.commonsPairing d pos c) s = .next (serveCommons s a) := by
  show execCommonsPairing d pos c s = _
  simp [execCommonsPairing, hf, hc, hs]

variable (hd : dieOf a.cell = d)
include hd

theorem serveCommons_hole (hg : (placeOf s a.cell (commonsOff a)).1 < 16) (hb : (placeOf s a.cell (commonsOff a)).2.1 < 64)
    (h : isHole s d (placeOf s a.cell (commonsOff a)).1 (placeOf s a.cell (commonsOff a)).2.1 = true) :
    serveCommons s a = reply (countServed s d) a .machine := by
  rw [← (banksKept_countServed s d).isHole hg hb] at h
  simp [serveCommons, hd, h]

theorem serveCommons_load (hg : (placeOf s a.cell (commonsOff a)).1 < 16) (hb : (placeOf s a.cell (commonsOff a)).2.1 < 64)
    (h : isHole s d (placeOf s a.cell (commonsOff a)).1 (placeOf s a.cell (commonsOff a)).2.1 = false) {n : Nat} {e : Bool}
    (hop : a.op = .load n e) (he : commonsErr s d (placeOf s a.cell (commonsOff a)) (commonsOff a % 64) n = false) :
    serveCommons s a = reply (acquired (countServed s d) a) a (.value (Memory.readN (s.commonsOf d)
      (bankAt s d (placeOf s a.cell (commonsOff a)) (commonsOff a % 64)) n)) := by
  have hk := banksKept_countServed s d
  rw [← hk.isHole hg hb] at h
  rw [← hk.commonsErr hg hb] at he
  simp [serveCommons, hd, h, hop, he, hk.commonsRead hg hb]

theorem serveCommons_store (hg : (placeOf s a.cell (commonsOff a)).1 < 16) (hb : (placeOf s a.cell (commonsOff a)).2.1 < 64)
    (h : isHole s d (placeOf s a.cell (commonsOff a)).1 (placeOf s a.cell (commonsOff a)).2.1 = false) {n v : Nat}
    (hop : a.op = .store n v) :
    serveCommons s a = reply (commonsWrite (countServed s d) d (placeOf s a.cell (commonsOff a)) (commonsOff a % 64) n v) a .done := by
  rw [← (banksKept_countServed s d).isHole hg hb] at h
  simp [serveCommons, hd, h, hop]

end

/-! ### Units of a block (R289) -/

theorem dieOf_wheelPos {d pos : Nat} (h : pos < 960) : dieOf ((960 * d + pos) / 4) = d := by
  unfold dieOf
  omega

theorem readNow_none {s : State} {core bid : Nat} {p : Nat → Bool}
    (h : ∀ a ∈ s.flight, ∀ i, a.src = .blk core bid i → p i = true → a.op.isLoad = false) : readNow s core bid p = s := by
  unfold readNow
  rw [List.filter_eq_nil_iff.mpr]
  · rfl
  · intro a ha hm
    split at hm
    next k b i hsrc =>
      simp only [Bool.and_eq_true, decide_eq_true_eq] at hm
      obtain ⟨⟨⟨rfl, rfl⟩, hp⟩, hload⟩ := hm
      rw [h a ha i hsrc hp] at hload
      cases hload
    next => cases hm

theorem pairAgain_flight (s : State) (d pos : Nat) : (pairAgain s d pos).flight = s.flight := by
  unfold pairAgain
  split <;> rfl

theorem blkCheck_flight (s : State) (core bid : Nat) : (blkCheck s core bid).flight = s.flight := by
  unfold blkCheck
  split
  · split <;> rfl
  · rfl

theorem work_pairAgain {s : State} {w : Turn} (h : w ∈ s.work) (d pos : Nat) : w ∈ (pairAgain s d pos).work := by
  unfold pairAgain
  split
  · exact List.mem_append_left _ h
  · exact h

theorem work_blkCheck {s : State} {w : Turn} (h : w ∈ s.work) (core bid : Nat) : w ∈ (blkCheck s core bid).work := by
  unfold blkCheck
  split
  · split
    · exact List.mem_append_left _ h
    · exact h
  · exact h

section
variable {s : State} {d pos c i : Nat} {b : Blk}

theorem exec_commonsPairing_unit (hs : chooseService s d pos (pairedBank s d pos c).1 (pairedBank s d pos c).2 = .unit b i)
    (hc : copyingBank s d = none) (hf : (s.fabricOf d).step = none) :
    exec (.commonsPairing d pos c) s = .next (pairAgain (serveUnit s (960 * d + pos) b i) d pos) := by
  show execCommonsPairing d pos c s = _
  simp [execCommonsPairing, hf, hc, hs]

/-- The state in which a unit of a block meets its bank: it is counted, and its block waits for it no more. -/
def unitCounted (s : State) (d core bid i : Nat) : State :=
  modBlk (countServed s d) core bid fun b => { b with todo := b.todo.filter (· ≠ i) }

theorem banksKept_modBlk (s : State) (d core bid : Nat) (f : Blk → Blk) : BanksKept s (modBlk s core bid f) d :=
  ⟨rfl, rfl, fun _ _ _ _ => rfl⟩

theorem sameStores_modBlk (s : State) (core bid : Nat) (f : Blk → Blk) : SameStores s (modBlk s core bid f) := ⟨rfl, rfl, rfl, rfl⟩

theorem banksKept_unitCounted (s : State) (d core bid i : Nat) : BanksKept s (unitCounted s d core bid i) d :=
  banksKept_trans (banksKept_countServed s d) (banksKept_modBlk ..)

theorem sameStores_unitCounted (s : State) (d core bid i : Nat) : SameStores s (unitCounted s d core bid i) :=
  sameStores_trans (sameStores_countServed s d) (sameStores_modBlk ..)

variable {core : Nat} (hd : dieOf (core / 4) = d) (hb : s.blkOf core b.bid = some b) (ha : b.atomic = false)
  (hp : PlaceServes s d (blkPlace s core b i))
include hd hb ha hp

theorem serveUnit_write {v : Nat} (hw : b.wr = true) (hv : FMap.find? b.snap i = some v)
    (hn : ∀ a ∈ s.flight, a.src = .blk core b.bid i → a.op.isLoad = false) :
    serveUnit s core b i =
      blkCheck (commonsWrite (unitCounted s d core b.bid i) d (blkPlace s core b i) 0 64 v) core b.bid := by
  obtain ⟨hg, hk, hh, -, -⟩ := hp
  have hr : readNow s core b.bid (fun j => decide (j = i)) = s :=
    readNow_none fun a hm j hsrc hj => hn a hm (of_decide_eq_true hj ▸ hsrc)
  have hhole := ((banksKept_unitCounted s d core b.bid i).isHole hg hk).trans hh
  unfold unitCounted at hhole ⊢
  simp only [serveUnit, hw, if_true, hr, hb, Option.getD_some, ha, hd, Bool.false_eq_true, if_false, hhole, hv]

theorem serveUnit_read (hw : b.wr = false) (he : commonsErr s d (blkPlace s core b i) 0 64 = false) :
    serveUnit s core b i = blkCheck (sendLocal (unitCounted s d core b.bid i) core b i
      (Memory.readN (s.commonsOf d) (bankAt s d (blkPlace s core b i) 0) 64)) core b.bid := by
  obtain ⟨hg, hk, hh, -, -⟩ := hp
  have hkept := banksKept_unitCounted s d core b.bid i
  have hhole := (hkept.isHole hg hk).trans hh
  have herr := (hkept.commonsErr hg hk 0 64).trans he
  have hread := hkept.commonsRead hg hk 0 64
  unfold unitCounted at hhole herr hread ⊢
  simp only [serveUnit, hw, hb, Option.getD_some, ha, hd, Bool.false_eq_true, if_false, hhole, herr, hread]

end

theorem sameStores_sendLocal (s : State) (core : Nat) (b : Blk) (i v : Nat) : SameStores s (sendLocal s core b i v) :=
  ⟨rfl, rfl, rfl, rfl⟩

/-- The access of the local unit that a word of a block goes on to (R289). -/
def localWord (s : State) (core : Nat) (b : Blk) (i v : Nat) : Access :=
  { blkAccess core b i (.store 64 v) with stage := .lattice (core / 4), id := s.nextId, entered := s.nextId }

theorem localWord_mem (s : State) (core : Nat) (b : Blk) (i v : Nat) : localWord s core b i v ∈ (sendLocal s core b i v).flight :=
  List.mem_append_right _ (List.mem_singleton_self _)

theorem due_localWord (s : State) (core : Nat) (b : Blk) (i v : Nat) :
    Due (sendLocal s core b i v) (.remoteAccessArrival (localWord s core b i v).id) := due_pushE ..

/-! ### Units of a copy at a port lane (R96) -/

section
variable {s : State} {d pos c : Nat} {u : PortUnit} {j : PortJob}

theorem exec_commonsPairing_lane (hs : chooseService s d pos (pairedBank s d pos c).1 (pairedBank s d pos c).2 = .lane u)
    (hc : copyingBank s d = none) (hf : (s.fabricOf d).step = none) :
    exec (.commonsPairing d pos c) s = .next (pairAgain (servePort (countServed s d) u) d pos) := by
  show execCommonsPairing d pos c s = _
  simp [execCommonsPairing, hf, hc, hs]

/-- A unit of a copy stands in its queue no more. -/
def unitLeft (s : State) (u : PortUnit) : State := { s with units := s.units.filter (fun v => v.id ≠ u.id) }

/-- The state in which a unit of a copy meets its bank: it is counted, and stands in its queue no more. -/
def laneCounted (s : State) (d : Nat) (u : PortUnit) : State := unitLeft (countServed s d) u

theorem banksKept_unitLeft (s : State) (d : Nat) (u : PortUnit) : BanksKept s (unitLeft s u) d := ⟨rfl, rfl, fun _ _ _ _ => rfl⟩

theorem partN_unitLeft (s : State) (u : PortUnit) (cell : Nat) : (unitLeft s u).partN cell = s.partN cell := rfl

theorem commonsPlace_unitLeft (s : State) (u : PortUnit) (p d o : Nat) : commonsPlace (unitLeft s u) p d o = commonsPlace s p d o :=
  rfl

theorem laneCounted_eq (s : State) (d : Nat) (u : PortUnit) :
    ∃ m n us, laneCounted s d u = { s with regs := m, served := n, units := us } := by
  obtain ⟨m, n, h⟩ := countServed_eq s d
  exact ⟨m, n, _, congrArg (unitLeft · u) h⟩

theorem sameStores_laneCounted (s : State) (d : Nat) (u : PortUnit) : SameStores s (laneCounted s d u) := by
  obtain ⟨m, n, us, h⟩ := laneCounted_eq s d u
  rw [h]
  exact ⟨rfl, rfl, rfl, rfl⟩

theorem banksKept_laneCounted (s : State) (d : Nat) (u : PortUnit) : BanksKept s (laneCounted s d u) d :=
  banksKept_trans (banksKept_countServed s d) (banksKept_unitLeft ..)

theorem laneCounted_jobs (s : State) (d : Nat) (u : PortUnit) : (laneCounted s d u).jobs = s.jobs := by
  obtain ⟨m, n, us, h⟩ := laneCounted_eq s d u
  rw [h]

theorem commonsPlace_laneCounted (hd : dieOf u.spot.cell = d) :
    commonsPlace (laneCounted s d u) ((laneCounted s d u).partN u.spot.cell) d u.spot.off =
      commonsPlace s (s.partN u.spot.cell) d u.spot.off := by
  subst hd
  rw [laneCounted, partN_unitLeft, partN_countServed, commonsPlace_unitLeft]
  exact commonsPlace_countServed s (partN_lt s _) _ _

/-- A job with what one of its reads has brought. -/
def brought (key v : Nat) (k : PortJob) : PortJob := { k with got := FMap.put k.got key v }

/-- With the last unit of a job served, its turn is due. -/
def jobOn (s : State) (j : PortJob) : State := if jobOpen s j.id then s else s.push [j.turn]

theorem sameStores_jobOn (s : State) (j : PortJob) : SameStores s (jobOn s j) := by
  unfold jobOn
  split <;> exact ⟨rfl, rfl, rfl, rfl⟩

theorem jobOn_jobs (s : State) (j : PortJob) : (jobOn s j).jobs = s.jobs := by
  unfold jobOn
  split <;> rfl

theorem sameStores_modJob (s : State) (id : Nat) (f : PortJob → PortJob) : SameStores s (modJob s id f) := ⟨rfl, rfl, rfl, rfl⟩

theorem pairAgain_jobs (s : State) (d pos : Nat) : (pairAgain s d pos).jobs = s.jobs := by
  unfold pairAgain
  split <;> rfl

variable (hj : s.jobs.find? (fun k => k.id = u.job) = some j)
include hj

theorem servePort_lane : servePort (countServed s d) u = jobOn (actUnit (laneCounted s d u) j u) j := by
  have hjl : (laneCounted s d u).jobs.find? (fun k => k.id = u.job) = some j := by
    rw [laneCounted_jobs]
    exact hj
  unfold laneCounted unitLeft at hjl ⊢
  simp only [servePort, hjl, jobOn]

theorem job_modJob (f : PortJob → PortJob) (hf : ∀ k, (f k).id = k.id) :
    (modJob s j.id f).jobs.find? (fun k => k.id = u.job) = some (f j) := by
  have hid : j.id = u.job := by simpa using List.find?_some hj
  have hsame : ((fun k : PortJob => decide (k.id = u.job)) ∘ fun k => if k.id = j.id then f k else k) =
      fun k => decide (k.id = u.job) := by
    funext k
    by_cases hk : k.id = j.id <;> simp [hk, hf]
  show ((s.jobs.map _).find? _) = _
  rw [List.find?_map, hsame, hj]
  exact congrArg some (if_pos rfl)

variable (hc : u.spot.commons = true) (hd : dieOf u.spot.cell = d)
  (hp : PlaceServes s d (commonsPlace s (s.partN u.spot.cell) d u.spot.off))
include hc hd hp
omit hj

theorem actUnit_lane_read (ha : u.act = .read)
    (he : commonsErr s d (commonsPlace s (s.partN u.spot.cell) d u.spot.off) (u.spot.off % 64) u.spot.n = false) :
    actUnit (laneCounted s d u) j u = modJob (laneCounted s d u) j.id (brought u.spot.key (Memory.readN (s.commonsOf d)
      (bankAt s d (commonsPlace s (s.partN u.spot.cell) d u.spot.off) (u.spot.off % 64)) u.spot.n)) := by
  obtain ⟨hg, hb, hh, -, -⟩ := hp
  have hk := banksKept_laneCounted s d u
  have hhole := (hk.isHole hg hb).trans hh
  have herr := (hk.commonsErr hg hb _ _).trans he
  have hread := hk.commonsRead hg hb (u.spot.off % 64) u.spot.n
  have hplace := commonsPlace_laneCounted (s := s) hd
  simp only [actUnit, hd, hplace, ha, hc, if_true, hhole, herr, hread, Bool.false_eq_true, if_false]
  rfl

theorem actUnit_lane_write {v : Nat} (ha : u.act = .write v) :
    actUnit (laneCounted s d u) j u = commonsWrite (laneCounted s d u) d
      (commonsPlace s (s.partN u.spot.cell) d u.spot.off) (u.spot.off % 64) u.spot.n v := by
  obtain ⟨hg, hb, hh, -, -⟩ := hp
  have hhole := ((banksKept_laneCounted s d u).isHole hg hb).trans hh
  have hplace := commonsPlace_laneCounted (s := s) hd
  simp only [actUnit, hd, hplace, ha, hc, Bool.not_true, hhole, Bool.false_eq_true, if_false]

end

/-! ### A pairing with nothing to serve -/

theorem exec_commonsPairing_nothing {s : State} {d pos c : Nat}
    (hs : chooseService s d pos (pairedBank s d pos c).1 (pairedBank s d pos c).2 = .nothing)
    (hc : copyingBank s d ≠ some (pairedBank s d pos c)) (hf : (s.fabricOf d).step = none) :
    exec (.commonsPairing d pos c) s = .next (pairAgain s d pos) := by
  show execCommonsPairing d pos c s = _
  simp [execCommonsPairing, hf, hc, hs]

theorem pairAgain_work (s : State) (d pos : Nat) :
    pairAgain s d pos = { s with work := (pairAgain s d pos).work, regs := (pairAgain s d pos).regs } := by
  unfold pairAgain
  split <;> rfl

/-! ### Turn boundaries (R98, R165) -/

section
variable {s : State} {d f : Nat}

theorem endTurn_quiet (h : atomicCores s d = []) : endTurn s d f = s := by
  unfold endTurn
  rw [h]
  rfl

theorem reserveAll_quiet (h : atomicCores s d = []) : reserveAll s d f = s := by
  unfold reserveAll
  rw [h]
  rfl

theorem flipBanks_quiet (hc : copyingBank s d = none) (hh : ∀ h ∈ s.holes, h.1 ≠ d) : flipBanks s d = s := by
  have hmine : s.holes.filter (fun h => h.1 = d) = [] :=
    List.filter_eq_nil_iff.mpr fun h hm he => hh h hm (of_decide_eq_true he)
  have hkept : s.holes.filter (fun h => h.1 ≠ d) = s.holes :=
    List.filter_eq_self.mpr fun h hm => decide_eq_true (hh h hm)
  unfold flipBanks
  simp only [hc, hmine, hkept, List.foldl_nil]

theorem copyingBank_setReg (hc : copyingBank s d = none) {off : Nat} (ho : off < remapOff d 0 0) (v : Word) :
    copyingBank (s.setReg off v) d = none := by
  unfold copyingBank at hc ⊢
  rw [Option.map_eq_none_iff, List.find?_eq_none] at hc ⊢
  intro q hq
  obtain rfl | hm := FMap.mem_put hq
  · simp only [Bool.and_eq_true, decide_eq_true_eq]
    omega
  · exact hc q hm

theorem swapBits (w : Word) :
    setBit (setBit (setBit w 0 (!w.getLsbD 0)) 1 false) 2 false = (w ^^^ 1#64) &&& ~~~6#64 := by
  refine BitVec.eq_of_getLsbD_eq fun i hi => ?_
  rw [BitVec.getLsbD_and, BitVec.getLsbD_xor, BitVec.getLsbD_not, decide_eq_true hi, Bool.true_and]
  obtain rfl | rfl | rfl | h : i = 0 ∨ i = 1 ∨ i = 2 ∨ 3 ≤ i := by omega
  · rw [Slot.getLsbD_setBit_ne _ _ (by decide), Slot.getLsbD_setBit_ne _ _ (by decide), Slot.getLsbD_setBit_same _ _ (by decide)]
    simp
  · rw [Slot.getLsbD_setBit_ne _ _ (by decide), Slot.getLsbD_setBit_same _ _ (by decide)]
    simp
  · rw [Slot.getLsbD_setBit_same _ _ (by decide)]
    simp
  · rw [Slot.getLsbD_setBit_ne _ _ (by omega), Slot.getLsbD_setBit_ne _ _ (by omega), Slot.getLsbD_setBit_ne _ _ (by omega)]
    have hlow (k : Nat) (hk : k < 8) : (BitVec.ofNat 64 k).getLsbD i = false := by
      rw [BitVec.getLsbD_ofNat, Nat.testBit_lt_two_pow (Nat.lt_of_lt_of_le hk (Nat.pow_le_pow_right (n := 2) (by decide) h)),
        Bool.and_false]
    rw [hlow 1 (by decide), hlow 6 (by decide)]
    simp

theorem swapArrived_true (hw : (s.reg (dieBase d + 0x2000)).getLsbD 2 = true) (hk : ∀ k, FMap.find? s.swapAt d = some k → k ≤ f) :
    swapArrived s d f = true := by
  unfold swapArrived
  rw [hw, Bool.true_and]
  split
  next t ht => exact decide_eq_true (hk t ht)
  next => rfl

theorem swapArrived_false (h : (s.reg (dieBase d + 0x2000)).getLsbD 2 = false ∨ ∃ k, FMap.find? s.swapAt d = some k ∧ f < k) :
    swapArrived s d f = false := by
  unfold swapArrived
  obtain hw | ⟨k, hk, hlt⟩ := h
  · rw [hw, Bool.false_and]
  · rw [hk]
    simp [hlt]

/-- The set and the cycle that a swap leaves in the registers of its die (R165). -/
def swapped (s : State) (d f : Nat) : State :=
  (s.setReg (dieBase d + 0x2000) ((s.reg (dieBase d + 0x2000) ^^^ 1#64) &&& ~~~6#64)).setReg (dieBase d + 0x2008) (BitVec.ofNat 64 f)

theorem swapWheel_arrived (h : swapArrived s d f = true) :
    swapWheel s d f = { swapped s d f with swapAt := FMap.del s.swapAt d } := by
  unfold swapWheel
  simp only [h, if_true, swapBits]
  rfl

theorem swapWheel_before (h : swapArrived s d f = false) : swapWheel s d f = s := by
  unfold swapWheel
  simp only [h, Bool.false_eq_true, if_false]

theorem copyingBank_swapWheel (hc : copyingBank s d = none) : copyingBank (swapWheel s d f) d = none := by
  cases h : swapArrived s d f with
  | false => rw [swapWheel_before h, hc]
  | true =>
    rw [swapWheel_arrived h]
    refine copyingBank_setReg (copyingBank_setReg hc ?_ _) ?_ _ <;>
    · unfold remapOff
      omega

theorem swapWheel_keeps (s : State) (d f : Nat) : SameBytes s (swapWheel s d f) ∧ (swapWheel s d f).slots = s.slots ∧
    (swapWheel s d f).cores = s.cores ∧ (swapWheel s d f).holes = s.holes := by
  cases h : swapArrived s d f with
  | false =>
    rw [swapWheel_before h]
    exact ⟨sameBytes_of_eq rfl rfl rfl, rfl, rfl, rfl⟩
  | true =>
    rw [swapWheel_arrived h]
    exact ⟨sameBytes_of_eq rfl rfl rfl, rfl, rfl, rfl⟩

theorem exec_turnBoundary_early (h : s.fcyc d < f) : exec (.turnBoundary d f) s = .next (s.pushE (.turnBoundary d f)) := by
  show execTurnBoundary d f s = _
  simp [execTurnBoundary, h]

/-- The next boundary of a die is due where the die needs one. -/
def boundaryDue (s : State) (d : Nat) : State :=
  if boundaryNeeded s d then s.pushE (.turnBoundary d (nextBoundary s d)) else s

theorem sameBytes_boundaryDue (s : State) (d : Nat) : SameBytes s (boundaryDue s d) := by
  unfold boundaryDue
  split <;> exact sameBytes_of_eq rfl rfl rfl

theorem boundaryDue_slots (s : State) (d : Nat) : (boundaryDue s d).slots = s.slots := by
  unfold boundaryDue
  split <;> rfl

theorem boundaryDue_reg (s : State) (d off : Nat) : (boundaryDue s d).reg off = s.reg off := by
  unfold boundaryDue
  split <;> rfl

theorem exec_turnBoundary_quiet (hf : f ≤ s.fcyc d) (hb : isBoundary s d f = true) (ha : atomicCores s d = [])
    (hc : copyingBank s d = none) (hh : ∀ h ∈ s.holes, h.1 ≠ d) :
    exec (.turnBoundary d f) s = .next (boundaryDue (swapWheel s d f) d) := by
  obtain ⟨-, -, hcores, hholes⟩ := swapWheel_keeps s d f
  have hatomic : atomicCores (swapWheel s d f) d = [] := by
    unfold atomicCores at ha ⊢
    rw [hcores, ha]
  show execTurnBoundary d f s = _
  simp only [execTurnBoundary, Nat.not_lt.mpr hf, if_false, hb, Bool.not_true, Bool.false_eq_true, endTurn_quiet ha,
    flipBanks_quiet (copyingBank_swapWheel hc) (fun h hm => hh h (hholes ▸ hm)), reserveAll_quiet hatomic]
  rfl

end

/-- Settles O42, each kind of event by the equation of its step. -/
theorem commonsEvents : Obligations.CommonsEvents := by
  unfold Obligations.CommonsEvents
  refine ⟨fun s a d pos ha hst hf => ?_, fun s d pos c a hs hd hc hf => ?_, fun s d pos c i b hs hb hat hc hf hp => ?_,
    fun s d pos c u j hs hj hc hf => ?_, fun s d pos c hs hc hf => ?_, fun s d f => ⟨fun h => ?_, fun hf hb ha hc hh => ?_⟩⟩
  · intro n
    refine ⟨fun hn hl => ⟨_, _, exec_commonsQueueEntry_room ha hst hf hn hl, ?_, due_pushE _ _, sameBytes_of_eq rfl rfl rfl⟩,
      fun h => ⟨_, exec_commonsQueueEntry_waits ha hst hf h, rfl, due_pushE _ _⟩⟩
    exact findAccess_arrive (a := { a with stage := .commons d pos }) (findAccess_mem ha) rfl
  · have hex := exec_commonsPairing_plain hs hc hf
    have hmem : a ∈ (countServed s d).flight := by
      rw [countServed_flight]
      exact chooseService_plain hs
    have hcounted := sameBytes_of_sameStores (sameStores_countServed s d)
    intro pl hg hb
    refine ⟨fun h => ?_, fun n e h hop he => ?_, fun n v h hop hr hw => ?_⟩
    · rw [serveCommons_hole hd hg hb h] at hex
      exact ⟨_, hex, replied_reply hmem _, sameBytes_trans hcounted (sameBytes_reply ..)⟩
    · rw [serveCommons_load hd hg hb h hop he] at hex
      subst hd
      refine ⟨_, hex, replied_reply ?_ _, sameBytes_trans hcounted (sameBytes_trans (sameBytes_acquired ..) (sameBytes_reply ..))⟩
      rw [acquired_flight]
      exact hmem
    · rw [serveCommons_store hd hg hb h hop] at hex
      subst hd
      obtain ⟨hphys, hcells, -, -⟩ := sameStores_countServed s (dieOf a.cell)
      have hst := commonsStored_commonsWrite (banksKept_countServed s _) hphys hcells ⟨hg, hb, h, hr, hw⟩ (commonsOff a % 64) n v
      refine ⟨_, hex, replied_reply ?_ _, commonsStored_then hst (sameStores_reply ..)⟩
      rw [commonsWrite_flight]
      exact hmem
  · have hex := exec_commonsPairing_unit hs hc hf
    have hd := dieOf_wheelPos (d := d) (chooseService_unit hs)
    have hstores := sameStores_unitCounted s d (960 * d + pos) b.bid i
    refine ⟨fun v hw hv hn => ?_, fun hw he => ?_⟩
    · rw [serveUnit_write hd hb hat hp hw hv hn] at hex
      obtain ⟨hphys, hcells, -, -⟩ := hstores
      exact ⟨_, hex, commonsStored_then (commonsStored_commonsWrite (banksKept_unitCounted ..) hphys hcells hp 0 64 v)
        (sameStores_trans (sameStores_blkCheck ..) (sameStores_pairAgain ..))⟩
    · rw [serveUnit_read hd hb hat hp hw he] at hex
      refine ⟨_, hex, sameBytes_of_sameStores (sameStores_trans hstores (sameStores_trans (sameStores_sendLocal ..)
        (sameStores_trans (sameStores_blkCheck ..) (sameStores_pairAgain ..)))), localWord (unitCounted s d (960 * d + pos) b.bid i)
        (960 * d + pos) b i _, ?_, rfl, rfl, rfl, rfl, work_pairAgain (work_blkCheck (due_localWord ..) _ _) _ _⟩
      rw [pairAgain_flight, blkCheck_flight]
      exact localWord_mem ..
  · have hex := exec_commonsPairing_lane hs hc hf
    obtain ⟨hcom, hd⟩ := chooseService_lane hs
    rw [servePort_lane hj] at hex
    intro pl hp
    refine ⟨fun ha he => ?_, fun v ha => ?_⟩
    · rw [actUnit_lane_read hcom hd hp ha he] at hex
      refine ⟨_, hex, sameBytes_of_sameStores (sameStores_trans (sameStores_laneCounted ..) (sameStores_trans (sameStores_modJob ..)
        (sameStores_trans (sameStores_jobOn ..) (sameStores_pairAgain ..)))), brought _ _ j, ?_, FMap.find?_put_same .., rfl⟩
      rw [pairAgain_jobs, jobOn_jobs]
      exact job_modJob ((laneCounted_jobs s d u).symm ▸ hj) _ fun _ => rfl
    · rw [actUnit_lane_write hcom hd hp ha] at hex
      obtain ⟨hphys, hcells, -, -⟩ := sameStores_laneCounted s d u
      exact ⟨_, hex, commonsStored_then (commonsStored_commonsWrite (banksKept_laneCounted ..) hphys hcells hp _ _ v)
        (sameStores_trans (sameStores_jobOn ..) (sameStores_pairAgain ..))⟩
  · exact ⟨_, exec_commonsPairing_nothing hs hc hf, pairAgain_work s d pos⟩
  · exact ⟨_, exec_turnBoundary_early h, rfl, due_pushE _ _⟩
  · obtain ⟨hbytes, hslots, -, -⟩ := swapWheel_keeps s d f
    refine ⟨_, exec_turnBoundary_quiet hf hb ha hc hh, sameBytes_trans hbytes (sameBytes_boundaryDue ..),
      (boundaryDue_slots ..).trans hslots, fun hw hk => ?_, fun h => ?_⟩
    · rw [boundaryDue_reg, boundaryDue_reg, swapWheel_arrived (swapArrived_true hw hk)]
      exact ⟨(State.reg_setReg_ne _ _ (by omega)).trans (State.reg_setReg_same ..), State.reg_setReg_same ..⟩
    · rw [boundaryDue_reg, boundaryDue_reg, swapWheel_before (swapArrived_false h)]
      exact ⟨rfl, rfl⟩

end Sys2Proof.Machine
end
section
/-! O15: a `start` reads its record and fills the slot, or waits for room in the pools. -/

namespace Sys2Proof.Machine
open Claims

/-! ### What a read of memory does not touch (R100-R103, R131) -/

theorem offMemory_snd {α : Type} {x : α × State} {a : α} {t : State} (e : x = (a, t)) : offMemory t = offMemory x.2 := by rw [e]

theorem offMemory_foldl_snd {α β : Type} {f : β × State → α → β × State} (hf : ∀ q a, offMemory (f q a).2 = offMemory q.2)
    (l : List α) (q : β × State) : offMemory (l.foldl f q).2 = offMemory q.2 :=
  foldl_keeps (p := fun t => offMemory t.2 = offMemory q.2) (fun t a h => (hf t a).trans h) rfl

theorem offMemory_physReadLine (s : State) (pa n key : Nat) : offMemory (physReadLine s pa n key).2 = offMemory s := by
  unfold physReadLine
  split <;> rfl

theorem offMemory_physReadFuel (k : Nat) (s : State) (pa n key : Nat) :
    offMemory (physReadFuel k s pa n key).2 = offMemory s := by
  induction k generalizing s pa n with
  | zero => rfl
  | succ k ih =>
    unfold physReadFuel
    split
    · rfl
    · exact (ih ..).trans (offMemory_physReadLine ..)

theorem offMemory_physReadRaw (s : State) (pa n : Nat) : offMemory (physReadRaw s pa n).2 = offMemory s :=
  offMemory_physReadFuel ..

theorem offMemory_walkFrom (lv : Nat) (s : State) (table va : Nat) : offMemory (walkFrom lv s table va).2 = offMemory s := by
  induction lv generalizing s table with
  | zero => rfl
  | succ lv ih =>
    unfold walkFrom
    extract_lets ix r pte
    have hr : offMemory r.2 = offMemory s := offMemory_physReadRaw ..
    split
    · rfl
    · split
      · exact hr
      · split
        · split <;> exact hr
        · split
          · exact hr
          · exact (ih ..).trans hr

theorem offMemory_walk (s : State) (d asid va : Nat) : offMemory (walk s d asid va).2 = offMemory s := by
  unfold walk
  extract_lets tb
  split
  · rfl
  · split
    · rfl
    · split
      · exact offMemory_physReadRaw ..
      · exact (offMemory_walkFrom ..).trans (offMemory_physReadRaw ..)

theorem offMemory_translate (s : State) (p d asid va : Nat) (rd wr ex : Bool) :
    offMemory (translate s p d asid va rd wr ex).2 = offMemory s := by
  unfold translate
  extract_lets fin
  have hfin (pa : Nat) (pte : Word) (t : State) : offMemory (fin pa pte t).2 = offMemory t := by
    simp only [fin]
    split <;> rfl
  split
  · rfl
  · split
    · exact hfin ..
    · split
      case h_1 e => rw [offMemory_snd e, offMemory_walk, offMemory_count]
      case h_2 e => rw [offMemory_snd e, offMemory_walk, offMemory_count]
      case h_3 e =>
        rw [hfin]
        exact (offMemory_snd e).trans ((offMemory_walk ..).trans (offMemory_count ..))

theorem offMemory_xlateCell (s : State) (cell : Nat) (va : Word) (rd wr : Bool) :
    offMemory (xlateCell s cell va rd wr).2 = offMemory s := by
  unfold xlateCell
  split
  · exact offMemory_translate ..
  · rfl

theorem offMemory_readMiss (s : State) (d line key : Nat) : offMemory (readMiss s d line key) = offMemory s := by
  unfold readMiss
  split <;> rfl

theorem offMemory_countSlice (s : State) (d line key attr : Nat) : offMemory (countSlice s d line key attr) = offMemory s := by
  unfold countSlice
  split <;> exact offMemory_count ..

theorem offMemory_sliceRead (s : State) (d pa n key attr : Nat) (fresh : Bool) :
    offMemory (sliceRead s d pa n key attr fresh).2 = offMemory s := by
  unfold sliceRead
  extract_lets line
  split
  · rfl
  · exact (offMemory_physReadLine ..).trans (offMemory_flushLine ..)

theorem offMemory_engineLine (s : State) (d pa n key attr : Nat) : offMemory (engineLine s d pa n key attr).2 = offMemory s := by
  unfold engineLine
  extract_lets line t
  have ht : offMemory t = offMemory s := offMemory_countSlice ..
  rw [offMemory_sliceRead]
  split
  · rw [offMemory_readMiss, ht]
  · exact ht

theorem offMemory_engineRead (s : State) (d pa n key attr : Nat) : offMemory (engineRead s d pa n key attr).2 = offMemory s := by
  refine offMemory_foldl_snd (fun q i => ?_) _ _
  extract_lets lo hi
  split
  · exact offMemory_engineLine ..
  · rfl

/-! ### The read of a record at issue (R146, R296) -/

theorem pageBytes_line {va : Word} (h : va.toNat % 64 = 0) : pageBytes va 64 = 64 := by
  unfold pageBytes
  omega

/-- A record is read in one go, and the read leaves all but memory and its caches as it is. -/
theorem readIssue_record {s : State} {va : Word} {v : Nat} (h : RecordAt s va v) :
    ∃ u, offMemory u = offMemory s ∧ ∀ k, readIssue (.ok ()) s va 64 k = k v u := by
  obtain ⟨hal, -, ⟨hov, hvec⟩, pa, key, attr, u, hx, herr, hv⟩ := h
  have hu : offMemory u = offMemory s := (offMemory_snd hx).trans (offMemory_xlateCell ..)
  have hcur : u.cur = s.cur := cur_of_offMemory hu
  refine ⟨(engineRead u (dieOf (home s)) pa 64 key attr).2, (offMemory_engineRead ..).trans hu, fun k => ?_⟩
  have hquiet : bytesQuiet s va 64 = .ok () := by
    unfold bytesQuiet
    simp [hov, hvec, guardH]
  have hx' : xlateCell s (cellOfSlot s.cur) va true false = (.ok pa key attr, u) := hx
  rw [readIssue, hquiet]
  show readIssueFuel (.ok ()) 2 s va 64 0 0 k = _
  rw [readIssueFuel, if_neg (by decide), hx']
  simp only [pageBytes_line hal, herr, hcur]
  rw [if_neg (by decide), readIssueFuel, if_pos (by decide)]
  have hv' : v = (engineRead u (dieOf (cellOfSlot s.cur)) pa 64 key attr).1 := hv
  simp [← hv', home]

/-! ### The fields of a record (R146) -/

theorem lane_low (v i : Nat) : lane 32 (lane 64 v i) 0 = rec32 v (2 * i) := by
  unfold lane rec32
  rw [Nat.mul_zero, Nat.shiftRight_zero, Nat.shiftRight_eq_div_pow, show 32 * (2 * i) = 64 * i by omega]
  exact Nat.mod_mod_of_dvd _ (Nat.pow_dvd_pow 2 (by decide))

theorem lane_high (v i : Nat) : lane 32 (lane 64 v i) 1 = rec32 v (2 * i + 1) := by
  unfold lane rec32
  rw [Nat.mul_one, Nat.shiftRight_eq_div_pow, Nat.shiftRight_eq_div_pow, show 32 * (2 * i + 1) = 64 * i + 32 by omega, Nat.pow_add,
    ← Nat.div_div_eq_div_mul, show (2 : Nat) ^ 64 = 2 ^ 32 * 2 ^ 32 by rfl, Nat.mod_mul_right_div_self, Nat.mod_mod]

theorem wrap64_lane (v i : Nat) : wrap64 (lane 64 v i) = rec64 v i := by
  refine BitVec.eq_of_toNat_eq ?_
  simp [wrap64, lane, rec64, Nat.shiftRight_eq_div_pow]

theorem ofNat_pc (v : Nat) : (Record.ofNat v).pc = rec64 v 0 := wrap64_lane v 0
theorem ofNat_arg (v : Nat) : (Record.ofNat v).arg = rec64 v 1 := wrap64_lane v 1
theorem ofNat_x (v : Nat) : (Record.ofNat v).x = rec32 v 4 := lane_low v 2
theorem ofNat_y (v : Nat) : (Record.ofNat v).y = rec32 v 5 := lane_high v 2
theorem ofNat_z (v : Nat) : (Record.ofNat v).z = rec32 v 6 := lane_low v 3
theorem ofNat_flags (v : Nat) : (Record.ofNat v).flags = rec32 v 7 := lane_high v 3
theorem ofNat_fmt (v : Nat) : (Record.ofNat v).fmt = rec32 v 8 := lane_low v 4
theorem ofNat_key (v : Nat) : (Record.ofNat v).key = rec32 v 9 := lane_high v 4
theorem ofNat_sca (v : Nat) : (Record.ofNat v).sca = rec64 v 5 := wrap64_lane v 5
theorem ofNat_scb (v : Nat) : (Record.ofNat v).scb = rec64 v 6 := wrap64_lane v 6
theorem ofNat_save (v : Nat) : (Record.ofNat v).save = rec64 v 7 := wrap64_lane v 7

theorem rec32_even (v i : Nat) : rec32 v (2 * i) = (rec64 v i).toNat % 2 ^ 32 := by
  rw [← wrap64_lane, ← lane_low]
  simp [lane, wrap64]

theorem ofNat_scnt (v : Nat) : (Record.ofNat v).scnt = recS v := by
  simp [Record.scnt, recS, ofNat_flags, nbits, Nat.shiftRight_eq_div_pow]

theorem ofNat_vcnt (v : Nat) : (Record.ofNat v).vcnt = recV v := by
  simp [Record.vcnt, recV, ofNat_flags, nbits, Nat.shiftRight_eq_div_pow]

theorem ofNat_state (v : Nat) : (Record.ofNat v).state = rec32 v 14 % 4 := by
  rw [Record.state, ofNat_save, bits, rec32_even v 7]
  omega

theorem ofNat_vfmt (v : Nat) :
    vfmtOf (Record.ofNat v).fmt = BitVec.ofNat 64 (rec32 v 8 / 2 ^ 15 % 32 + 32 * (rec32 v 8 / 2 ^ 22 % 2)) := by
  simp [vfmtOf, ofNat_fmt, nbits, Nat.shiftRight_eq_div_pow, wrap64]

theorem ofNat_wellFormed {v : Nat} (h : RecordSound v) : (Record.ofNat v).wellFormed = true := by
  obtain ⟨hpc, hflags, hsave⟩ := h
  have h0 := rec32_even v 0
  have h7 := rec32_even v 7
  have h32 : rec32 v 7 < 2 ^ 32 := Nat.mod_lt _ (by decide)
  simp only [Nat.reduceMul] at h0 h7
  simp only [Record.wellFormed, ofNat_pc, ofNat_flags, ofNat_save, bits, nbits, Nat.shiftRight_eq_div_pow, Bool.and_eq_true,
    decide_eq_true_eq]
  omega

/-! ### The lookup of a started slot's operating point (R179) -/

/-- A slot with a gear request and an operating point of its own. -/
def geared (x : Slot) (g : Word) (o : Option Nat) : Slot := { x with greq := g, opIdx := o }

/-- The lookup of an operating point changes one slot, in two of its fields. -/
theorem opLookup_slots (s : State) (sid : Nat) : (opLookup s sid).cur = s.cur ∧
    ((opLookup s sid).slots = s.slots ∨ ∃ g o, (opLookup s sid).slots = FMap.put s.slots sid (geared (s.slot sid) g o)) := by
  unfold opLookup
  extract_lets x t t1
  have ht : t1.cur = s.cur ∧ t1.slots = s.slots := by
    simp only [t1, State.dueOnce]
    split <;> exact ⟨rfl, rfl⟩
  obtain ⟨hcur, hslots⟩ := ht
  clear_value t1
  split
  · exact ⟨rfl, .inl rfl⟩
  · split
    · exact ⟨hcur, .inr ⟨_, _, congrArg (FMap.put · _ _) hslots⟩⟩
    · split
      · exact ⟨hcur, .inr ⟨_, _, congrArg (FMap.put · _ _) hslots⟩⟩
      · exact ⟨hcur, .inr ⟨_, _, congrArg (FMap.put · _ _) hslots⟩⟩

theorem opLookup_slot_same (s : State) (sid : Nat) : ∃ g o, (opLookup s sid).slot sid = geared (s.slot sid) g o := by
  obtain ⟨-, hs | ⟨g, o, hs⟩⟩ := opLookup_slots s sid
  · exact ⟨_, _, by rw [State.slot, hs]; rfl⟩
  · exact ⟨g, o, by rw [State.slot, hs]; exact FMap.get_put_same ..⟩

/-! ### A started slot (R70, R146) -/

/-- What a start leaves in a slot, but for its gear, its operating point and the cycle of its removal. -/
def startedSlot (x : Slot) (va : Word) (r : Record) (colour : Word) (removed : Option Word) : Slot :=
  { freshSlot x va r colour with removedAt := removed, status := if r.state = 1 then .restoring else .live }

/-- The state of a started slot's core with the slot in place, before the lookup of its operating point. -/
def placed (s : State) (t : Nat) (x : Slot) : State :=
  selfInvalidate ((enrol (s.setSlot t x) t).pushE (.gearEvaluate (cellOfSlot t))) (dieOf (cellOfSlot t))

theorem placed_slots (s : State) (t : Nat) (x : Slot) : (placed s t x).slots = FMap.put s.slots t x := by
  show (enrol (s.setSlot t x) t).slots = _
  unfold enrol
  split <;> rfl

theorem placed_cur (s : State) (t : Nat) (x : Slot) : (placed s t x).cur = s.cur := by
  show (enrol (s.setSlot t x) t).cur = _
  unfold enrol
  split <;> rfl

theorem startSlot_slots (s : State) (t : Nat) (va : Word) (r : Record) : ∃ w,
    (startSlot s t va r).slots =
      (opLookup (placed s t (startedSlot (s.slot t) va r (lowColour s (cellOfSlot t)) w)) t).slots ∧
    (startSlot s t va r).cur = (opLookup (placed s t (startedSlot (s.slot t) va r (lowColour s (cellOfSlot t)) w)) t).cur := by
  refine ⟨(s.slot t).removedAt.map fun _ => s.gts, ?_⟩
  unfold startSlot
  extract_lets cell x x1 x2 s1 s2 s3
  have hx : x2 = startedSlot (s.slot t) va r (lowColour s (cellOfSlot t)) ((s.slot t).removedAt.map fun _ => s.gts) := by
    simp only [x2, x1, x, startedSlot]
    split <;> rfl
  have hs2 : s2 = opLookup (placed s t x2) t := rfl
  have hs3 : s3.slots = s2.slots ∧ s3.cur = s2.cur := by
    simp only [s3, State.dueOnce]
    split
    · split <;> exact ⟨rfl, rfl⟩
    · exact ⟨rfl, rfl⟩
  rw [← hx, ← hs2]
  split <;> exact hs3

theorem startSlot_cur (s : State) (t : Nat) (va : Word) (r : Record) : (startSlot s t va r).cur = s.cur := by
  obtain ⟨w, -, hcur⟩ := startSlot_slots s t va r
  obtain ⟨hl, -⟩ := opLookup_slots (placed s t (startedSlot (s.slot t) va r (lowColour s (cellOfSlot t)) w)) t
  rw [hcur, hl, placed_cur]

theorem startSlot_slot_same (s : State) (t : Nat) (va : Word) (r : Record) :
    ∃ c w g o, (startSlot s t va r).slot t = geared (startedSlot (s.slot t) va r c w) g o := by
  obtain ⟨w, hslots, -⟩ := startSlot_slots s t va r
  obtain ⟨g, o, hl⟩ := opLookup_slot_same (placed s t (startedSlot (s.slot t) va r (lowColour s (cellOfSlot t)) w)) t
  refine ⟨lowColour s (cellOfSlot t), w, g, o, ?_⟩
  rw [State.slot, hslots]
  refine hl.trans (congrArg (geared · g o) ?_)
  rw [State.slot, placed_slots]
  exact FMap.get_put_same ..

/-! ### The instruction (R149, R296) -/

/-- Whether a start waits for the vector pool: others wait before it, or the pool has no room. -/
def lacksVector (s : State) (v : Nat) : Bool :=
  aheadFor (s.cell (home s)) s.cur || decide (256 < vectorUsed s (home s) + recV v)

/-- Whether a start waits for either pool. -/
def lacksRoom (s : State) (v : Nat) : Bool := lacksVector s v || decide (512 < scalarUsed s (coreOf s.cur) + recS v)

theorem lacksRoom_false {s : State} {v : Nat} : lacksRoom s v = false ↔
    aheadFor (s.cell (home s)) s.cur = false ∧ vectorUsed s (home s) + recV v ≤ 256 ∧ scalarUsed s (coreOf s.cur) + recS v ≤ 512 := by
  simp [lacksRoom, lacksVector, and_assoc]

section
variable {s u : State} {va : Word} {v k : Nat} {x : Slot} {i : Instr} {rs : List Nat}

theorem cellOfSlot_servitor (hg : isGaffer s.cur = true) (hk : k < 16) : cellOfSlot (s.cur + k) = home s := by
  have h : s.cur % 16 = 0 := of_decide_eq_true hg
  unfold cellOfSlot home cellOfSlot
  omega

theorem coreOf_servitor (hg : isGaffer s.cur = true) (hk : k < 16) : coreOf (s.cur + k) = coreOf s.cur := by
  have h : s.cur % 16 = 0 := of_decide_eq_true hg
  unfold coreOf
  omega

theorem core_servitor (hg : isGaffer s.cur = true) : 16 * coreOf s.cur + k = s.cur + k := by
  have h : s.cur % 16 = 0 := of_decide_eq_true hg
  unfold coreOf
  omega

theorem vectorUsed_of_slots (h : u.slots = s.slots) (c : Nat) : vectorUsed u c = vectorUsed s c := by
  unfold vectorUsed State.slot
  rw [h]

theorem scalarUsed_of_slots (h : u.slots = s.slots) (c : Nat) : scalarUsed u c = scalarUsed s c := by
  unfold scalarUsed State.slot
  rw [h]

/-- A state in which the start has filled its slot. -/
def startedState (u : State) (sid t : Nat) (va : Word) (r : Record) (x : Slot) : State :=
  ((startSlot (leaveWait u sid) t va r).setSlot sid x.next).pushE (.poolGrant (cellOfSlot sid))

/-- A state in which the start waits. -/
def waitingState (u : State) (sid : Nat) (vec : Bool) : State := parkSlot (joinWait u sid vec) sid .pool

theorem startWith_sound (hu : offMemory u = offMemory s) (hg : isGaffer s.cur = true) (hk : k < 16) (hv : RecordSound v)
    (hst : rec32 v 14 % 4 < 2) (hrs : soundS (here s) rs = .ok ()) :
    startWith i (s.cur + k) va rs x v u = .ok (if lacksRoom s v then waitingState u s.cur (lacksVector s v)
      else startedState u s.cur (s.cur + k) va (Record.ofNat v) x) := by
  have hcur : u.cur = s.cur := cur_of_offMemory hu
  have hslots := slots_of_offMemory hu
  have hcell : u.cell (home s) = s.cell (home s) := by rw [State.cell, cells_of_offMemory hu, State.cell]
  have hsound : soundS (u.slot s.cur) rs = .ok () := by rw [slot_of_offMemory hu, hrs]
  have hguard : (decide (rec32 v 14 % 4 < 2) && (Record.ofNat v).wellFormed) = true := by
    rw [ofNat_wellFormed hv, decide_eq_true hst]
    rfl
  have hleft : (leaveWait u s.cur).cur = s.cur := hcur
  unfold startWith
  simp only [hcur, cellOfSlot_servitor hg hk, coreOf_servitor hg hk, hcell, vectorUsed_of_slots hslots,
    scalarUsed_of_slots hslots, hsound, ofNat_state, ofNat_vcnt, ofNat_scnt, hguard, startSlot_cur, hleft, vectorPool, scalarPool]
  show (if lacksRoom s v = true then _ else _) = _
  cases lacksRoom s v <;> rfl

variable {a b : BitVec 6} {m n : Bool} (hg : isGaffer s.cur = true) (ha : Readable (here s) a) (hb : Readable (here s) b)
  (hk : k = ((here s).sval a.toNat).toNat) (h1 : 1 ≤ k) (h16 : k < 16) (he : (s.slot (s.cur + k)).status = .empty)
  (hr : RecordAt s ((here s).sval b.toNat) v) (hv : RecordSound v) (hst : rec32 v 14 % 4 < 2)
include hg ha hb hk h1 h16 he hr hv hst

/-- A `start` with its operands in order ends in one of two states, built on a state that differs from the one before it in memory and
its caches alone. -/
theorem exec_start_sound : ∃ u, offMemory u = offMemory s ∧
    exec (.start a b m n) s = finish s (.ok (if lacksRoom s v then waitingState u s.cur (lacksVector s v)
      else startedState u s.cur (s.cur + k) ((here s).sval b.toNat) (Record.ofNat v) (((here s).take a.toNat m).take b.toNat n))) := by
  obtain ⟨u, hu, hread⟩ := readIssue_record hr
  have hlower := lowerAddr_ok (d := 4) hr.1 hr.2.1
  have hbound : boundS (here s) [a.toNat, b.toNat] = .ok () := boundS_all (by simp [ha.1, hb.1])
  have hgaffer : gafferOnly (.start a b m n) s = .ok () := by rw [gafferOnly, hg]; rfl
  have hres : startRes a b m n s = .ok (if lacksRoom s v then waitingState u s.cur (lacksVector s v)
      else startedState u s.cur (s.cur + k) ((here s).sval b.toNat) (Record.ofNat v) (((here s).take a.toNat m).take b.toNat n)) := by
    refine res_then hgaffer <| res_then hbound <| res_then (peek2_readable ha hb m n) ?_
    simp only [← hk, core_servitor hg]
    refine res_then (v := ()) (guardH_ok.mpr (by simp [h1, h16])) <| res_then (v := ()) (guardH_ok.mpr (by simp [he])) <|
      res_then hlower ?_
    rw [hread]
    exact startWith_sound hu hg h16 hv hst (soundS_readable ha hb)
  refine ⟨u, hu, ?_⟩
  show execStart a b m n s = _
  unfold execStart
  rw [hres]

end

/-! ### What the two states hold -/

section
variable {s u : State} (hu : offMemory u = offMemory s)
include hu

theorem waitingState_slots (b : Bool) : (waitingState u s.cur b).slots =
    FMap.put s.slots s.cur { here s with park := some .pool } := by
  have hslots : (joinWait u s.cur b).slots = s.slots := (rfl : _ = u.slots).trans (slots_of_offMemory hu)
  have hhere : (joinWait u s.cur b).slot s.cur = here s := congrArg (fun m => FMap.get Slot.init m s.cur) hslots
  show FMap.put (joinWait u s.cur b).slots s.cur { (joinWait u s.cur b).slot s.cur with park := some .pool } = _
  rw [hslots, hhere]

theorem waitingState_cur (b : Bool) : (waitingState u s.cur b).cur = s.cur :=
  (rfl : _ = u.cur).trans (cur_of_offMemory hu)

theorem startedState_cur (t : Nat) (va : Word) (r : Record) (x : Slot) : (startedState u s.cur t va r x).cur = s.cur :=
  (startSlot_cur (leaveWait u s.cur) t va r).trans ((rfl : _ = u.cur).trans (cur_of_offMemory hu))

omit hu in
theorem startedState_issuer (t : Nat) (va : Word) (r : Record) (x : Slot) : (startedState u s.cur t va r x).slot s.cur = x.next :=
  State.slot_setSlot_same (startSlot (leaveWait u s.cur) t va r) s.cur x.next

theorem startedState_started {t : Nat} (ht : t ≠ s.cur) (va : Word) (r : Record) (x : Slot) : ∃ c w g o,
    (startedState u s.cur t va r x).slot t = geared (startedSlot (s.slot t) va r c w) g o := by
  obtain ⟨c, w, g, o, h⟩ := startSlot_slot_same (leaveWait u s.cur) t va r
  have hslot : (leaveWait u s.cur).slot t = s.slot t := (rfl : _ = u.slot t).trans (slot_of_offMemory hu t)
  rw [hslot] at h
  exact ⟨c, w, g, o, (State.slot_setSlot_ne (startSlot (leaveWait u s.cur) t va r) x.next ht).trans h⟩

end

section
variable (x : Slot) (va : Word) (v : Nat) (c : Word) (w : Option Word) (g : Word) (o : Option Nat)

theorem started_status : (geared (startedSlot x va (Record.ofNat v) c w) g o).status =
    if rec32 v 14 % 4 = 1 then Status.restoring else Status.live := by
  rw [← ofNat_state]
  rfl

/-- A started slot has the registers of an empty one. -/
theorem started_scalars (r : Nat) (h : r < 64) : (geared (startedSlot x va (Record.ofNat v) c w) g o).sF r = true ∧
    (geared (startedSlot x va (Record.ofNat v) c w) g o).sP r = false ∧
    (geared (startedSlot x va (Record.ofNat v) c w) g o).sval r = 0#64 := by
  show Slot.init.sF r = true ∧ Slot.init.sP r = false ∧ Slot.init.sval r = 0#64
  refine ⟨?_, ?_, ?_⟩
  · show (decide (r = 0) || (BitVec.allOnes 64).getLsbD r) = true
    rw [BitVec.getLsbD_allOnes, decide_eq_true h, Bool.or_true]
  · simp [Slot.sP, Slot.init]
  · simp [Slot.sval, Slot.init, FMap.get]

theorem started_vectors (r : Nat) (h : r < 32) : (geared (startedSlot x va (Record.ofNat v) c w) g o).vF r = true ∧
    (geared (startedSlot x va (Record.ofNat v) c w) g o).vP r = false ∧
    (geared (startedSlot x va (Record.ofNat v) c w) g o).vval r = 0#4096 := by
  show Slot.init.vF r = true ∧ Slot.init.vP r = false ∧ Slot.init.vval r = 0#4096
  refine ⟨?_, ?_, ?_⟩
  · show (BitVec.allOnes 32).getLsbD r = true
    rw [BitVec.getLsbD_allOnes, decide_eq_true h]
  · simp [Slot.vP, Slot.init]
  · simp [Slot.vval, Slot.init, FMap.get]

theorem started_predicates (r : Nat) (h : r < 8) : (geared (startedSlot x va (Record.ofNat v) c w) g o).pF r = true ∧
    (geared (startedSlot x va (Record.ofNat v) c w) g o).pP r = false ∧
    (r ≠ 0 → (geared (startedSlot x va (Record.ofNat v) c w) g o).pval r = 0#1024) := by
  show Slot.init.pF r = true ∧ Slot.init.pP r = false ∧ (r ≠ 0 → Slot.init.pval r = 0#1024)
  refine ⟨?_, ?_, fun h0 => ?_⟩
  · show (decide (r = 0) || (BitVec.allOnes 8).getLsbD r) = true
    rw [BitVec.getLsbD_allOnes, decide_eq_true h, Bool.or_true]
  · simp [Slot.pP, Slot.init]
  · simp [Slot.pval, Slot.init, FMap.get, h0]

end

/-- Settles O15, by the two states that a `start` can end in. -/
theorem startResults : Obligations.StartResults := by
  unfold Obligations.StartResults
  intro s a b m n v k hg ha hb hk h1 h16 he hr hv hst room
  obtain ⟨u, hu, hex⟩ := exec_start_sound (m := m) (n := n) hg ha hb hk h1 h16 he hr hv hst
  have hroom : room ↔ lacksRoom s v = false := lacksRoom_false.symm
  rw [finish_ok] at hex
  refine ⟨fun h => ?_, fun h => ?_⟩
  · rw [if_neg (by rw [hroom.mp h]; decide)] at hex
    refine ⟨_, hex, ?_⟩
    have hhere : here (count (startedState u s.cur (s.cur + k) ((here s).sval b.toNat) (Record.ofNat v)
        (((here s).take a.toNat m).take b.toNat n)) (cellPerf (cellOfSlot s.cur)) 2 1) =
        (((here s).take a.toNat m).take b.toNat n).next := by
      rw [here, count_slot, count_cur, startedState_cur hu, startedState_issuer]
    obtain ⟨c, w, g, o, hy⟩ := startedState_started hu (show s.cur + k ≠ s.cur by omega) ((here s).sval b.toNat) (Record.ofNat v)
      (((here s).take a.toNat m).take b.toNat n)
    rw [hhere]
    refine ⟨by simp [Slot.next], by simp [Slot.next], ?_⟩
    intro y
    have hy' : y = geared (startedSlot (s.slot (s.cur + k)) ((here s).sval b.toNat) (Record.ofNat v) c w) g o :=
      (count_slot ..).trans hy
    rw [hy']
    exact ⟨started_status .., rfl, ofNat_pc v, ofNat_arg v, congrArg wrap64 (ofNat_x v), congrArg wrap64 (ofNat_y v),
      congrArg wrap64 (ofNat_z v), ofNat_scnt v, ofNat_vcnt v, ofNat_sca v, ofNat_scb v, congrArg wrap64 (ofNat_key v),
      rfl, rfl, rfl, rfl, rfl, congrArg (fun f => wrap64 (f % 2 ^ 23)) (ofNat_fmt v), ofNat_vfmt v,
      congrArg (· &&& ~~~63#64) (ofNat_save v), started_scalars _ _ _ _ _ _ _, started_vectors _ _ _ _ _ _ _, started_predicates _ _ _ _ _ _ _⟩
  · have hlacks : lacksRoom s v = true := by
      rw [hroom] at h
      exact (Bool.not_eq_false _).mp h
    rw [if_pos hlacks] at hex
    refine ⟨_, hex, ?_, fun j hj => ?_⟩
    · rw [here, count_slot, count_cur, waitingState_cur hu, State.slot, waitingState_slots hu]
      exact FMap.get_put_same ..
    · rw [count_slot, State.slot, waitingState_slots hu]
      exact FMap.get_put_ne _ _ _ hj

end Sys2Proof.Machine
end
section
/-! O8: a write of a CSR from a cell whose counters overlap a partition's words. -/

namespace Sys2Proof.Machine
open Claims

/-- The first cell of a die so high that the word of partition 0 that holds its cells stands in the first counter of cell 1200. -/
def farCell : Nat := 240 * 0x7F8801

/-- The offset of that counter and word. -/
def sharedOff : Nat := 0x50010040

/-- A forwarding entry to the second cell of that die. -/
def farForward : Fwd := { oslot := 0, ogen := 0#8, target := 64 * (farCell + 1), tgen := 0#8, expires := 0 }

/-- A slot of cell 1200 issues; its core has that forwarding entry; the cell's first counter counts
completed instructions. -/
def overlapping : State :=
  { State.reset with
    cur := 76800
    slots := [(76800, { Slot.init with status := .live, ns := 1 })]
    cores := [(4800, { Core.init with fwd := [farForward] })]
    regs := [(0x50010000, 2#64)] }

/-- A write of VFMT. -/
def vfmtWrite : Instr := .csrw 0#6 0#6 0x10#12

/-- The state after it, but for the count of the instruction. -/
def written : State := done (overlapping.modCell 1200 (csrCell 0x10 0#64)) (csrSlot 0x10 0#64 (here overlapping))

/-- The state after it: the first counter of cell 1200 stands at 1. -/
def counted : State := count written 0x50010000 2 1

theorem exec_vfmtWrite : exec vfmtWrite overlapping = .next counted := by
  rw [exec_csrOf (i := vfmtWrite) rfl]
  show finish overlapping (csrRes vfmtWrite 0x10 0#6 (some 0#6) (fun _ v => v) overlapping) = _
  have h : csrRes vfmtWrite 0x10 0#6 (some 0#6) (fun _ v => v) overlapping = .ok written := by
    rfl
  rw [h]
  rfl

theorem counted_regs : counted.regs = FMap.put overlapping.regs sharedOff 1#64 := by decide +kernel

theorem counted_cores : counted.cores = overlapping.cores := count_cores ..

theorem counted_reg_apart {off : Nat} (h : off ≠ sharedOff) : counted.reg off = overlapping.reg off := by
  rw [State.reg, counted_regs]
  exact FMap.get_put_ne _ _ _ h

theorem counted_reg_shared : counted.reg sharedOff = 1#64 := by
  rw [State.reg, counted_regs]
  exact FMap.get_put_same ..

/-! ### The count makes the far cell one of partition 0 -/

theorem farCell_word : partBase 0 + 8 * (4 + 4 * dieOf farCell + cellIx farCell / 64) = sharedOff := by decide +kernel

theorem overlapping_not_holds : overlapping.holds 0 farCell = false := by decide +kernel

theorem counted_holds : counted.holds 0 farCell = true := by
  unfold State.holds State.partWord
  dsimp only
  rw [farCell_word, counted_reg_shared]
  decide +kernel

theorem counted_holds_below {c : Nat} (h : c < farCell) : counted.holds 0 c = overlapping.holds 0 c := by
  have hoff : partBase 0 + 8 * (4 + 4 * dieOf c + cellIx c / 64) ≠ sharedOff := by
    unfold partBase pkgBase dieOf cellIx sharedOff
    unfold farCell at h
    omega
  unfold State.holds State.partWord
  dsimp only
  rw [counted_reg_apart hoff]

/-- Where a state's partition holds one more cell, the logical number of the next cell is one higher (R12). -/
theorem lcellOf_succ {s t : State} {p n : Nat} (hbelow : ∀ c < n, t.holds p c = s.holds p c) (hs : s.holds p n = false)
    (ht : t.holds p n = true) : t.lcellOf p (n + 1) = s.lcellOf p (n + 1) + 1 := by
  have hrange : (List.range n).filter (t.holds p) = (List.range n).filter (s.holds p) :=
    List.filter_congr fun c hc => hbelow c (List.mem_range.mp hc)
  unfold State.lcellOf
  rw [List.range_succ, List.filter_append, List.filter_append, hrange]
  simp [ht, hs]

theorem counted_lcellOf : counted.lcellOf 0 (farCell + 1) = overlapping.lcellOf 0 (farCell + 1) + 1 :=
  lcellOf_succ (fun _ h => counted_holds_below h) overlapping_not_holds counted_holds

/-! ### The forwarding entry that names that cell reads otherwise (R162) -/

/-- A forwarding entry to the cell, by the cell's logical number. -/
theorem fwdWord_far {s : State} (hf : (s.core 4800).fwd[0]? = some farForward) (hp : s.partN 1200 = 0) :
    fwdWord s 4800 0 = wrap64 (2 ^ 12 * s.lcellOf 0 (farCell + 1)) := by
  have hcell : cellOfSlot farForward.target = farCell + 1 := Nat.mul_div_cancel_left _ (by decide)
  have hcore : coreOf farForward.target % 4 = 0 := by decide +kernel
  have hslot : slotIx farForward.target = 0 := by decide +kernel
  have hvalid : fwdValid s 4800 farForward = false := decide_eq_false (Nat.not_lt_zero _)
  have hleft (n : Nat) : farForward.expires - n - 1 = 0 := by
    show 0 - n - 1 = 0
    omega
  unfold fwdWord
  rw [hf]
  dsimp only
  rw [hp, hcell, hcore, hslot, hvalid, hleft]
  exact congrArg wrap64 (by simp [farForward])

theorem counted_fwdWord : fwdWord counted 4800 0 ≠ fwdWord overlapping 4800 0 := by
  have hcore : (counted.core 4800).fwd[0]? = some farForward := by
    rw [State.core, counted_cores]
    rfl
  rw [fwdWord_far hcore (by decide +kernel), fwdWord_far rfl (by decide +kernel), counted_lcellOf]
  generalize overlapping.lcellOf 0 (farCell + 1) = n
  intro h
  have hn := congrArg BitVec.toNat h
  simp only [wrap64, BitVec.toNat_ofNat] at hn
  omega

/-- Refutes O8: in a state whose issuing slot lies in cell 1200, counting the instruction changes a word of partition 0, and with it the
logical number in a forwarding entry, which is not the CSR written. -/
theorem not_csrWrites : ¬ Obligations.CsrWrites := by
  unfold Obligations.CsrWrites
  intro h
  obtain ⟨hfree, -⟩ := h overlapping vfmtWrite 0x10 0#6 0#6 (fun _ v => v) 0#64 rfl rfl (by decide) (by decide)
    ⟨by decide +kernel, by decide +kernel⟩ ⟨by decide +kernel, by decide +kernel, .inl rfl⟩ (by decide)
  obtain ⟨t, hex, -, -, -, -, -, -, -, -, hother⟩ := hfree ⟨fun h => absurd h (by decide), fun h => absurd h (by decide)⟩
  obtain rfl : counted = t := Host.Outcome.next.inj (exec_vfmtWrite.symm.trans hex)
  exact counted_fwdWord (Option.some.inj (hother 0x120 (by decide) (by decide)))

end Sys2Proof.Machine
end
section
/-! O54: the link, errors, standby, boot, the attestation report, and the reset of a die. -/

namespace Sys2Proof.Machine
open Claims

/-! ### The link (R214, R216) -/

theorem bits_setBit_apart (w : Word) {hi lo i : Nat} (b : Bool) (h : i < lo ∨ hi < i) : bits (setBit w i b) hi lo = bits w hi lo := by
  refine Nat.eq_of_testBit_eq fun j => ?_
  rw [testBit_bits, testBit_bits]
  by_cases hj : j < hi + 1 - lo
  · rw [Slot.getLsbD_setBit_ne _ _ (by omega)]
  · rw [decide_eq_false hj, Bool.false_and, Bool.false_and]

/-- The lanes of a link register. -/
theorem lanes_eq (w : Word) : w.toNat % 64 = bits w 5 0 := by
  simp [bits]

/-- The replays of a link register. -/
theorem replays_eq (w : Word) : w.toNat / 256 % 65536 = bits w 23 8 := by
  simp [bits, Nat.shiftRight_eq_div_pow]

theorem sameBytes_setReg (s : State) (off : Nat) (v : Word) : SameBytes s (s.setReg off v) := sameBytes_of_eq rfl rfl rfl

theorem exec_linkUp {n : Nat} (s : State) (h : n = 8 ∨ n = 16 ∨ n = 32) :
    exec (.linkUp n) s = .next (s.setReg hlinkOff (setBit (setBits (s.reg hlinkOff) 5 0 n) 6 true)) := by
  show execLinkUp n s = _
  unfold execLinkUp
  rw [if_pos (by obtain rfl | rfl | rfl := h <;> rfl)]

theorem exec_linkDown {s : State} (h : s.linkUp = true) :
    exec .linkDown s = .next (s.setReg hlinkOff (setBit (setBit (setBits (s.reg hlinkOff) 5 0 0) 6 false) 7 true)) := if_pos h

theorem exec_flitReplay {s : State} (h : s.linkUp = true) :
    exec .flitReplay s =
      .next (s.setReg hlinkOff (setBits (s.reg hlinkOff) 23 8 (min 0xFFFF (bits (s.reg hlinkOff) 23 8 + 1)))) := if_pos h

theorem linkUp_result (s : State) {n : Nat} (h : n = 8 ∨ n = 16 ∨ n = 32) : ∃ t, exec (.linkUp n) s = .next t ∧ SameBytes s t ∧
    t.linkUp = true ∧ (t.reg 0x40140000).toNat % 64 = n := by
  refine ⟨_, exec_linkUp s h, sameBytes_setReg .., ?_, ?_⟩
  · rw [State.linkUp, show pkgBase + 0x140000 = hlinkOff from rfl, State.reg_setReg_same]
    exact Slot.getLsbD_setBit_same _ _ (by decide)
  · rw [show 0x40140000 = hlinkOff from rfl, State.reg_setReg_same, lanes_eq, bits_setBit_apart _ _ (by decide),
      bits_setBits_same _ _ (by decide) (by decide)]
    exact Nat.mod_eq_of_lt (by omega)

theorem linkDown_result {s : State} (h : s.linkUp = true) : ∃ t, exec .linkDown s = .next t ∧ SameBytes s t ∧ t.linkUp = false ∧
    (t.reg 0x40140000).toNat % 64 = 0 ∧ (t.reg 0x40140000).getLsbD 7 = true := by
  refine ⟨_, exec_linkDown h, sameBytes_setReg .., ?_, ?_, ?_⟩
  · rw [State.linkUp, show pkgBase + 0x140000 = hlinkOff from rfl, State.reg_setReg_same, Slot.getLsbD_setBit_ne _ _ (by decide)]
    exact Slot.getLsbD_setBit_same _ _ (by decide)
  · rw [show 0x40140000 = hlinkOff from rfl, State.reg_setReg_same, lanes_eq, bits_setBit_apart _ _ (by decide),
      bits_setBit_apart _ _ (by decide), bits_setBits_same _ _ (by decide) (by decide)]
    rfl
  · rw [show 0x40140000 = hlinkOff from rfl, State.reg_setReg_same]
    exact Slot.getLsbD_setBit_same _ _ (by decide)

theorem flitReplay_result {s : State} (h : s.linkUp = true) : ∃ t, exec .flitReplay s = .next t ∧ SameBytes s t ∧
    (t.reg 0x40140000).toNat / 256 % 65536 = min 0xFFFF ((s.reg 0x40140000).toNat / 256 % 65536 + 1) := by
  refine ⟨_, exec_flitReplay h, sameBytes_setReg .., ?_⟩
  rw [show 0x40140000 = hlinkOff from rfl, State.reg_setReg_same, replays_eq, replays_eq,
    bits_setBits_same _ _ (by decide) (by decide)]
  exact Nat.mod_eq_of_lt (by omega)

/-! ### Errors in storage (R84) -/

theorem sregError_result (s : State) (sid : Nat) {r : Nat} (h : r < 64) :
    ∃ t, exec (.uncorrectableError (.sreg sid r)) s = .next t ∧ (t.slot sid).serr.getLsbD r = true ∧
      (t.slot sid).sreg = (s.slot sid).sreg ∧ (∀ j, j ≠ sid → t.slot j = s.slot j) ∧ SameBytes s t := by
  have hex : exec (.uncorrectableError (.sreg sid r)) s =
      .next (s.setSlot sid { s.slot sid with serr := setBit (s.slot sid).serr r true }) := by
    show Host.Outcome.next (withError s (.sreg sid r)) = _
    rw [withError, if_pos h]
    rfl
  refine ⟨_, hex, ?_, ?_, fun j hj => State.slot_setSlot_ne _ _ hj, sameBytes_setSlot ..⟩
  · rw [State.slot_setSlot_same]
    exact Slot.getLsbD_setBit_same _ _ h
  · rw [State.slot_setSlot_same]

theorem locError_result (s : State) (cell w : Nat) : ∃ t, exec (.uncorrectableError (.loc cell w)) s = .next t ∧
    .loc cell w ∈ t.errs ∧ t.slots = s.slots ∧ SameBytes s t := by
  refine ⟨withError s (.loc cell w), rfl, ?_⟩
  unfold withError
  dsimp only
  split
  next h => exact ⟨List.contains_iff_mem.mp h, rfl, sameBytes_of_eq rfl rfl rfl⟩
  next => exact ⟨List.mem_append_right _ (List.mem_singleton_self _), rfl, sameBytes_of_eq rfl rfl rfl⟩

/-! ### The pairs of a die restart (R187, R189) -/

theorem setReg_foldl {α : Type} (f : α → Nat) (g : α → Word) (l : List α) (s : State) :
    ∃ m, l.foldl (fun s i => s.setReg (f i) (g i)) s = { s with regs := m } := by
  induction l generalizing s with
  | nil => exact ⟨s.regs, rfl⟩
  | cons a l ih =>
    obtain ⟨m, h⟩ := ih (s.setReg (f a) (g a))
    exact ⟨m, h⟩

theorem reg_setReg_foldl {α : Type} {f : α → Nat} (g : α → Word) {l : List α} {s : State} {off : Nat} (h : ∀ i ∈ l, off ≠ f i) :
    (l.foldl (fun s i => s.setReg (f i) (g i)) s).reg off = s.reg off := by
  induction l generalizing s with
  | nil => rfl
  | cons a l ih =>
    exact (ih fun i hi => h i (List.mem_cons_of_mem a hi)).trans (State.reg_setReg_ne _ _ (h a List.mem_cons_self))

theorem reg_setReg_foldl_mem {α : Type} {f : α → Nat} (g : α → Word) {l : List α} {s : State} {i : α} (hi : i ∈ l)
    (hf : ∀ j ∈ l, f i = f j → i = j) : (l.foldl (fun s i => s.setReg (f i) (g i)) s).reg (f i) = g i := by
  induction l generalizing s with
  | nil => cases hi
  | cons a l ih =>
    by_cases hmem : i ∈ l
    · exact ih hmem fun j hj => hf j (List.mem_cons_of_mem a hj)
    · obtain rfl | hl := List.mem_cons.mp hi
      · rw [List.foldl_cons]
        refine (reg_setReg_foldl g fun j hj he => hmem ?_).trans (State.reg_setReg_same ..)
        rw [hf j (List.mem_cons_of_mem i hj) he]
        exact hj
      · exact absurd hl hmem

theorem restartPairs_eq (s : State) (d : Nat) : ∃ m, restartPairs s d = { s with regs := m } := by
  obtain ⟨m, h⟩ := setReg_foldl (fun i => cellPair (240 * d + i)) (fun _ => s.gts) (List.range 240) (s.setReg (fabricPair d) s.gts)
  exact ⟨m, h⟩

theorem cellPair_die {d i : Nat} (h : i < 240) : cellPair (240 * d + i) = dieBase d + 0x7000 + 0x20 * i := by
  have hd : dieOf (240 * d + i) = d := by unfold dieOf; omega
  have hi : cellIx (240 * d + i) = i := by unfold cellIx; omega
  rw [cellPair, hd, hi]

theorem reg_restartPairs {d off : Nat} (s : State) (hf : off ≠ fabricPair d) (hc : off < dieBase d + 0x7000 ∨ dieBase d + 0x8DE0 < off) :
    (restartPairs s d).reg off = s.reg off := by
  refine (reg_setReg_foldl (f := fun i => cellPair (240 * d + i)) (fun _ => s.gts) fun i hi => ?_).trans
    (State.reg_setReg_ne s s.gts hf)
  have hi := List.mem_range.mp hi
  rw [cellPair_die hi]
  omega

theorem reg_restartPairs_fabric (s : State) (d : Nat) : (restartPairs s d).reg (fabricPair d) = s.gts := by
  refine (reg_setReg_foldl (f := fun i => cellPair (240 * d + i)) (fun _ => s.gts) fun i hi => ?_).trans (State.reg_setReg_same s _ _)
  rw [cellPair_die (List.mem_range.mp hi), fabricPair]
  omega

/-! ### Boot (R222) -/

/-- A state's clock, power and package registers are as another's. -/
def SamePackage (s t : State) : Prop := t.gts = s.gts ∧ t.powered = s.powered ∧ ∀ off, pkgBase ≤ off → t.reg off = s.reg off

theorem samePackage_trans {s t u : State} (h : SamePackage s t) (k : SamePackage t u) : SamePackage s u := by
  obtain ⟨hg, hp, hr⟩ := h
  obtain ⟨kg, kp, kr⟩ := k
  exact ⟨kg.trans hg, kp.trans hp, fun off ho => (kr off ho).trans (hr off ho)⟩

theorem samePackage_restartPairs (s : State) {d : Nat} (hd : d < 4) : SamePackage s (restartPairs s d) := by
  have hreg (off : Nat) (ho : pkgBase ≤ off) : (restartPairs s d).reg off = s.reg off := by
    unfold pkgBase at ho
    refine reg_restartPairs s ?_ (.inr ?_)
    · unfold fabricPair dieBase
      omega
    · unfold dieBase
      omega
  refine ⟨?_, ?_, hreg⟩ <;>
  · obtain ⟨m, h⟩ := restartPairs_eq s d
    rw [h]

theorem samePackage_restartAll {l : List Nat} (hl : ∀ d ∈ l, d < 4) (s : State) : SamePackage s (l.foldl restartPairs s) := by
  induction l generalizing s with
  | nil => exact ⟨rfl, rfl, fun _ _ => rfl⟩
  | cons d l ih =>
    rw [List.foldl_cons]
    exact samePackage_trans (samePackage_restartPairs s (hl d List.mem_cons_self)) (ih (fun e he => hl e (List.mem_cons_of_mem d he)) _)

theorem commitKey_nil (s : State) (n : Nat) : commitKey [] s n = s := by
  unfold commitKey
  simp

/-- A commit of no partition leaves the clock, the power and the registers as they are. -/
theorem samePackage_commitAll (s : State) : SamePackage s (commitAll s []) := by
  have hkeys (l : List Nat) (t : State) : l.foldl (commitKey []) t = t := by
    induction l with
    | nil => rfl
    | cons n l ih => rw [List.foldl_cons, commitKey_nil, ih]
  unfold commitAll
  rw [hkeys]
  exact ⟨rfl, rfl, fun _ _ => rfl⟩

/-- The firmware commits the partitions that are valid, where they pass the checks (R220). -/
def commitValid (s : State) : State :=
  if commitOk s (allParts.filter s.partValid) then commitAll s (allParts.filter s.partValid) else s

theorem bootFirmware_nil (s : State) (time : Word) :
    bootFirmware s time [] = commitValid ((List.range 4).foldl restartPairs { s with gts := time }) := by
  unfold bootFirmware
  generalize (List.range 4).foldl restartPairs { s with gts := time } = t
  rfl

/-- The firmware of an image without a partition map loads GTS, and leaves the package's registers as they are. -/
theorem bootFirmware_unmapped {s : State} (time : Word) (h : ∀ p < 16, s.partValid p = false) :
    (bootFirmware s time []).gts = time ∧ (bootFirmware s time []).powered = s.powered ∧
      ∀ off, pkgBase ≤ off → (bootFirmware s time []).reg off = s.reg off := by
  have ht : SamePackage { s with gts := time } ((List.range 4).foldl restartPairs { s with gts := time }) :=
    samePackage_restartAll (fun d hd => List.mem_range.mp hd) _
  rw [bootFirmware_nil]
  generalize (List.range 4).foldl restartPairs { s with gts := time } = t at ht
  obtain ⟨hg, hp, hr⟩ := ht
  have hnone : allParts.filter t.partValid = [] := List.filter_eq_nil_iff.mpr fun p hm => by
    have hoff : pkgBase ≤ partBase p + 8 * 0 := by
      unfold partBase
      omega
    rw [State.partValid, State.partWord, hr _ hoff]
    exact Bool.eq_false_iff.mp (h p (List.mem_range.mp hm))
  unfold commitValid
  rw [hnone]
  split
  · obtain ⟨kg, kp, kr⟩ := samePackage_commitAll t
    exact ⟨kg.trans hg, kp.trans hp, fun off ho => (kr off ho).trans (hr off ho)⟩
  · exact ⟨hg, hp, hr⟩

theorem bootRecord_reg_apart (s : State) (src : Bool) (svn : BitVec 8) (digest : List Word) {off : Nat}
    (h : off < bootOff ∨ bootOff + 0x40 ≤ off) : (bootRecord s src svn digest).reg off = s.reg off := by
  refine (reg_setReg_foldl (f := fun i => bootOff + 0x10 + 8 * i) _ fun i hi => ?_).trans (State.reg_setReg_ne _ _ (by omega))
  have hi := List.mem_range.mp hi
  omega

theorem bootRecord_reg_boot (s : State) (src : Bool) (svn : BitVec 8) (digest : List Word) : (bootRecord s src svn digest).reg bootOff =
    wrap64 (src.toNat + 2 + 256 * svn.toNat + 65536 * Config.fusedMinimum.toNat) := by
  refine (reg_setReg_foldl (f := fun i => bootOff + 0x10 + 8 * i) _ fun i _ => ?_).trans (State.reg_setReg_same _ _ _)
  omega

theorem bootRecord_reg_digest (s : State) (src : Bool) (svn : BitVec 8) (digest : List Word) {i : Nat} (h : i < 6) :
    (bootRecord s src svn digest).reg (bootOff + 0x10 + 8 * i) = getAt 0#64 digest i :=
  reg_setReg_foldl_mem (f := fun i => bootOff + 0x10 + 8 * i) _ (List.mem_range.mpr h) fun j _ hj => by omega

theorem partValid_bootRecord (s : State) (src : Bool) (svn : BitVec 8) (digest : List Word) {p : Nat} (h : p < 16) :
    (bootRecord s src svn digest).partValid p = s.partValid p := by
  rw [State.partValid, State.partWord, bootRecord_reg_apart, State.partValid, State.partWord]
  left
  unfold partBase bootOff pkgBase
  omega

theorem bootRecord_powered (s : State) (src : Bool) (svn : BitVec 8) (digest : List Word) :
    (bootRecord s src svn digest).powered = s.powered := by
  unfold bootRecord
  exact foldl_keeps (p := fun t : State => t.powered = s.powered) (fun _ _ h => h) rfl

section
variable {s : State} (time : Word) {svn : BitVec 8} (digest : List Word)

theorem boot_open (h : s.powered = false ∨ bits (s.reg bootOff) 2 1 = 0) :
    ¬(s.powered && decide (bits (s.reg bootOff) 2 1 ≠ 0)) = true := by
  obtain h | h := h <;> simp [h]

/-- Every partition's first word stands at zero when the package powers up. -/
theorem partWord_poweredUp (s : State) : ∀ p < 16, (poweredUp s).partWord p 0 = 0#64 := by
  have h : ∀ p < 16, regReset (partBase p + 8 * 0) = 0#64 := by decide +kernel
  exact h

/-- Without a verified image the package waits for one from the host. -/
theorem powerUp_waits (h : s.powered = false ∨ bits (s.reg bootOff) 2 1 = 0) (map : List (Nat × Word)) :
    ∃ t, exec (.powerUpBoot false time svn digest map) s = .next t ∧ t.powered = true ∧ t.slots = [] ∧ t.cells = [] ∧
      t.reg bootOff = BitVec.ofNat 64 (4 + 65536 * Config.fusedMinimum.toNat) ∧ ∀ p < 16, t.committed p = false := by
  refine ⟨_, if_neg (boot_open h), rfl, rfl, rfl, State.reg_setReg_same .., fun p hp => ?_⟩
  have hoff : partBase p + 8 * 0 ≠ bootOff := by
    unfold partBase bootOff
    omega
  have hword := partWord_poweredUp s p hp
  rw [State.partWord, ← State.reg_setReg_ne _ _ hoff] at hword
  exact congrArg (·.getLsbD 2) hword

variable (hsvn : Config.fusedMinimum.toNat ≤ svn.toNat)
include hsvn

theorem imageAccepted_verified : imageAccepted true svn = true := decide_eq_true hsvn

/-- A verified image runs. -/
theorem powerUp_runs (h : s.powered = false ∨ bits (s.reg bootOff) 2 1 = 0) :
    ∃ t, exec (.powerUpBoot true time svn digest []) s = .next t ∧ t.powered = true ∧ t.gts = time ∧
      t.reg bootOff = BitVec.ofNat 64 (2 + 256 * svn.toNat + 65536 * Config.fusedMinimum.toNat) ∧
      ∀ i < 6, t.reg (bootOff + 0x10 + 8 * i) = getAt 0#64 digest i := by
  have hnone (p : Nat) (hp : p < 16) : (bootRecord (poweredUp s) false svn digest).partValid p = false := by
    rw [partValid_bootRecord _ _ _ _ hp, State.partValid, partWord_poweredUp s p hp]
    rfl
  obtain ⟨hg, hp, hr⟩ := bootFirmware_unmapped time hnone
  have hex : exec (.powerUpBoot true time svn digest []) s =
      .next (bootFirmware (bootRecord (poweredUp s) false svn digest) time []) :=
    (if_neg (boot_open h)).trans (if_pos (imageAccepted_verified hsvn))
  refine ⟨_, hex, hp.trans (bootRecord_powered ..), hg, ?_, fun i hi => ?_⟩
  · rw [hr _ (by decide), bootRecord_reg_boot]
    simp [wrap64]
  · rw [hr _ (by unfold bootOff; omega), bootRecord_reg_digest _ _ _ _ hi]

/-- A verified image that the host supplies while boot waits runs. -/
theorem hostImage_runs (hw : (s.reg bootOff).getLsbD 2 = true) (hl : s.linkUp = true) (hv : ∀ p < 16, s.partValid p = false) :
    ∃ t, exec (.hostImageSupply true time svn digest []) s = .next t ∧ t.gts = time ∧
      t.reg bootOff = BitVec.ofNat 64 (3 + 256 * svn.toNat + 65536 * Config.fusedMinimum.toNat) := by
  have hnone (p : Nat) (hp : p < 16) : (bootRecord s true svn digest).partValid p = false :=
    (partValid_bootRecord s true svn digest hp).trans (hv p hp)
  obtain ⟨hg, -, hr⟩ := bootFirmware_unmapped time hnone
  have hcond : ((s.reg bootOff).getLsbD 2 && s.linkUp && imageAccepted true svn) = true := by
    rw [hw, hl, imageAccepted_verified hsvn]
    rfl
  refine ⟨_, if_pos hcond, hg, ?_⟩
  rw [hr _ (by decide), bootRecord_reg_boot]
  simp [wrap64]

omit hsvn in
theorem hostImage_refused (map : List (Nat × Word)) : exec (.hostImageSupply false time svn digest map) s = .next s := by
  refine if_neg ?_
  rw [imageAccepted, Bool.false_and, Bool.and_false]
  decide

end

/-! ### The attestation report (R223) -/

theorem wordBytes_length (w : Word) : (wordBytes w).length = 8 := by simp [wordBytes]

theorem flatMap_wordBytes_length (f : Nat → Word) (n : Nat) : ((List.range n).flatMap fun i => wordBytes (f i)).length = 8 * n := by
  simp [List.length_flatMap, wordBytes_length, Nat.mul_comm]

theorem getAt_eq_getD {α : Type} (d : α) (l : List α) (i : Nat) : getAt d l i = l.getD i d := by
  induction l generalizing i with
  | nil => rfl
  | cons x l ih =>
    cases i with
    | zero => rfl
    | succ i => exact ih i

/-- What stands in the report before the nonce, the nonce as the report has it, and what stands behind it. -/
def reportHead (s : State) : List Byte :=
  (List.range 6).flatMap (fun i => wordBytes (s.reg (bootOff + 0x10 + 8 * i))) ++ wordBytes (s.reg bootOff) ++
    allParts.flatMap (fun p => (List.range 20).flatMap (fun w => wordBytes (s.partWord p w)))
def reportNonce (nonce : List Byte) : List Byte := (List.range 48).map (getAt 0#8 nonce)
def reportSig (s : State) : List Byte := (List.range 12).flatMap (fun i => wordBytes (Config.freeWord (s.freeCtr + i)))

theorem reportHead_length (s : State) : (reportHead s).length = 2616 := by
  have htable : (allParts.flatMap (fun p => (List.range 20).flatMap (fun w => wordBytes (s.partWord p w)))).length = 2560 := by
    simp only [List.length_flatMap, wordBytes_length]
    rfl
  rw [reportHead, List.length_append, List.length_append, flatMap_wordBytes_length, wordBytes_length, htable]

theorem reportNonce_length (nonce : List Byte) : (reportNonce nonce).length = 48 := by simp [reportNonce]

theorem reportSig_length (s : State) : (reportSig s).length = 96 := flatMap_wordBytes_length _ 12

theorem report_result (s : State) (nonce : List Byte) : ∃ t, exec (.attestationReport nonce) s = .next t ∧ SameBytes s t ∧
    t.slots = s.slots ∧ t.report.length = 48 + 8 + 2560 + 48 + 96 ∧ ∀ i < 48, getAt 0#8 t.report (2616 + i) = getAt 0#8 nonce i := by
  refine ⟨{ s with report := reportHead s ++ reportNonce nonce ++ reportSig s, freeCtr := s.freeCtr + 12 }, rfl,
    sameBytes_of_eq rfl rfl rfl, rfl, ?_, fun i hi => ?_⟩
  · rw [List.length_append, List.length_append, reportHead_length, reportNonce_length, reportSig_length]
  · have hhead := reportHead_length s
    have hnonce := reportNonce_length nonce
    rw [getAt_eq_getD, List.getD_append _ _ _ _ (by rw [List.length_append]; omega), List.getD_append_right _ _ _ _ (by omega), hhead,
      Nat.add_sub_cancel_left, List.getD_eq_getElem _ _ (by omega)]
    simp [reportNonce]

/-! ### A die at its reset values (R187) -/

theorem find?_filter_key {V : Type} (p : Nat → Bool) (m : FMap V) (a : Nat) :
    FMap.find? (m.filter (fun q => p q.1)) a = if p a then FMap.find? m a else none := by
  induction m with
  | nil => simp
  | cons q m ih =>
    obtain ⟨k, v⟩ := q
    rw [List.filter_cons]
    by_cases ha : a = k
    · subst ha
      cases hp : p a with
      | true => simp [FMap.find?_cons]
      | false => simp [ih, hp]
    · cases hp : p k with
      | true => simp [FMap.find?_cons, ha, ih]
      | false => simp [FMap.find?_cons, ha, ih]

theorem get_filter_kept {V : Type} (d : V) {p : Nat → Bool} (m : FMap V) {a : Nat} (h : p a = true) :
    FMap.get d (m.filter (fun q => p q.1)) a = FMap.get d m a := by
  rw [FMap.get, find?_filter_key, if_pos h, FMap.get]

theorem get_filter_gone {V : Type} (d : V) {p : Nat → Bool} (m : FMap V) {a : Nat} (h : p a = false) :
    FMap.get d (m.filter (fun q => p q.1)) a = d := by
  rw [FMap.get, find?_filter_key, h]
  rfl

/-- A die at its reset values, its pairs restarted. -/
def resetDie (s : State) (d : Nat) : State := restartPairs (clearDie s d) d

section
variable (s : State) {d : Nat}

theorem resetDie_keeps (d : Nat) : (resetDie s d).phys = s.phys ∧ (resetDie s d).commons = s.commons ∧ (resetDie s d).gts = s.gts ∧
    (resetDie s d).cells = s.cells.filter (fun q => offDie d q.1) ∧
    (resetDie s d).slots = s.slots.filter (fun q => offDie d (cellOfSlot q.1)) ∧
    (resetDie s d).cores = s.cores.filter (fun q => offDie d (q.1 / 4)) := by
  obtain ⟨m, h⟩ := restartPairs_eq (clearDie s d) d
  rw [resetDie, h]
  exact ⟨rfl, rfl, rfl, rfl, rfl, rfl⟩

theorem resetDie_reg_elsewhere {off : Nat} (h : off / 0x10000000 ≠ d) : (resetDie s d).reg off = s.reg off := by
  have hf : off ≠ fabricPair d := by
    rintro rfl
    unfold fabricPair dieBase at h
    omega
  have hc : off < dieBase d + 0x7000 ∨ dieBase d + 0x8DE0 < off := by
    unfold dieBase
    omega
  exact (reg_restartPairs _ hf hc).trans (get_filter_kept (p := fun k => decide (k / 0x10000000 ≠ d)) _ _ (decide_eq_true h))

theorem resetDie_reg_here {o : Nat} (ho : o < 0x7000) (h : o ≠ 0x6000) : (resetDie s d).reg (dieBase d + o) = regReset (dieBase d + o) := by
  have hd : (dieBase d + o) / 0x10000000 = d := by
    unfold dieBase
    omega
  refine (reg_restartPairs _ (by unfold fabricPair; omega) (.inl (by omega))).trans
    (get_filter_gone (p := fun k => decide (k / 0x10000000 ≠ d)) _ _ (by simp [hd]))

theorem resetDie_reg_fabric (d : Nat) : (resetDie s d).reg (fabricPair d) = s.gts := reg_restartPairs_fabric (clearDie s d) d

theorem resetDie_partWord (hd : d < 4) {p w : Nat} (hp : p < 16) (hw : w < 20) : (resetDie s d).partWord p w = s.partWord p w := by
  refine resetDie_reg_elsewhere s ?_
  unfold partBase pkgBase
  omega

theorem resetDie_committed (hd : d < 4) {p : Nat} (hp : p < 16) : (resetDie s d).committed p = s.committed p := by
  rw [State.committed, resetDie_partWord s hd hp (by decide), State.committed]

theorem resetDie_colLo (hd : d < 4) {p : Nat} (hp : p < 16) : (resetDie s d).colLo p = s.colLo p := by
  rw [State.colLo, resetDie_partWord s hd hp (by decide), State.colLo]

theorem resetDie_partCells (hd : d < 4) {p : Nat} (hp : p < 16) : (resetDie s d).partCells p = s.partCells p := by
  refine List.filter_congr fun c hc => ?_
  have hc := List.mem_range.mp hc
  have hw : 4 + 4 * dieOf c + cellIx c / 64 < 20 := by
    unfold dieOf cellIx
    omega
  unfold State.holds
  dsimp only
  rw [resetDie_partWord s hd hp hw]

end

/-! ### The gaffers of a die start (R19) -/

/-- A state without its slots and the lists of those that issue and of due steps. -/
def offSlots (s : State) : State := { s with slots := [], rota := [], work := [] }

theorem regs_of_offSlots {s t : State} (h : offSlots t = offSlots s) : t.regs = s.regs :=
  (congrArg State.regs h : (offSlots t).regs = (offSlots s).regs)

theorem stores_of_offSlots {s t : State} (h : offSlots t = offSlots s) :
    t.phys = s.phys ∧ t.commons = s.commons ∧ t.cells = s.cells ∧ t.cores = s.cores ∧ t.gts = s.gts :=
  ⟨(congrArg State.phys h : (offSlots t).phys = (offSlots s).phys), (congrArg State.commons h : (offSlots t).commons = (offSlots s).commons),
    (congrArg State.cells h : (offSlots t).cells = (offSlots s).cells), (congrArg State.cores h : (offSlots t).cores = (offSlots s).cores),
    (congrArg State.gts h : (offSlots t).gts = (offSlots s).gts)⟩

theorem reg_of_offSlots {s t : State} (h : offSlots t = offSlots s) (off : Nat) : t.reg off = s.reg off :=
  congrArg (fun m => FMap.get (regReset off) m off) (regs_of_offSlots h)

theorem offSlots_enrol (s : State) (sid : Nat) : offSlots (enrol s sid) = offSlots s := by
  unfold enrol
  split <;> rfl

theorem enrol_slots (s : State) (sid : Nat) : (enrol s sid).slots = s.slots := by
  unfold enrol
  split <;> rfl

theorem foldl_keeps_mem {α β : Type} {p : β → Prop} {f : β → α → β} {l : List α} {b : β} (hf : ∀ b, ∀ a ∈ l, p b → p (f b a))
    (h : p b) : p (l.foldl f b) := List.foldlRecOn l f h fun b hb a ha => hf b a ha hb

/-- A fold reaches what one of its steps reaches and the others keep, under an invariant of them all. -/
theorem foldl_reaches {α β : Type} {p q : β → Prop} {f : β → α → β} {l : List α} {b : β} {x : α}
    (hp : ∀ b, ∀ a ∈ l, p b → p (f b a)) (hq : ∀ b, ∀ a ∈ l, p b → q b → q (f b a)) (hx : ∀ b, p b → q (f b x)) (hl : x ∈ l)
    (h : p b) : q (l.foldl f b) := by
  induction l generalizing b with
  | nil => cases hl
  | cons a l ih =>
    have hp' (b) (c) (hc : c ∈ l) : p b → p (f b c) := hp b c (List.mem_cons_of_mem a hc)
    have hq' (b) (c) (hc : c ∈ l) : p b → q b → q (f b c) := hq b c (List.mem_cons_of_mem a hc)
    obtain rfl | hm := List.mem_cons.mp hl
    · have hboth : p (l.foldl f (f b x)) ∧ q (l.foldl f (f b x)) :=
        foldl_keeps_mem (p := fun b => p b ∧ q b) (fun b c hc hb => ⟨hp' b c hc hb.1, hq' b c hc hb.1 hb.2⟩)
          ⟨hp b x List.mem_cons_self h, hx b h⟩
      exact hboth.2
    · exact ih hp' hq' hm (hp b a List.mem_cons_self h)

section
variable {s : State} {p cell k j d : Nat}

/-- One gaffer of a cell of a partition starts. -/
def startGaffer (p cell : Nat) (s : State) (k : Nat) : State :=
  enrol (s.setSlot (16 * (4 * cell + k)) (gafferSlot (wrap64 (s.colLo p)))) (16 * (4 * cell + k))

theorem offSlots_startGaffer (p cell : Nat) (s : State) (k : Nat) : offSlots (startGaffer p cell s k) = offSlots s :=
  offSlots_enrol ..

theorem startGaffer_slot_same (p cell : Nat) (s : State) (k : Nat) :
    (startGaffer p cell s k).slot (16 * (4 * cell + k)) = gafferSlot (wrap64 (s.colLo p)) := by
  rw [State.slot, startGaffer, enrol_slots]
  exact State.slot_setSlot_same ..

theorem startGaffer_slot_ne (h : j ≠ 16 * (4 * cell + k)) : (startGaffer p cell s k).slot j = s.slot j := by
  rw [State.slot, startGaffer, enrol_slots]
  exact State.slot_setSlot_ne _ _ h

theorem offSlots_startGaffers (p : Nat) (s : State) (cell : Nat) : offSlots (startGaffers p s cell) = offSlots s :=
  (foldl_keeps (p := fun t => offSlots t = offSlots s) (fun t k h => (offSlots_startGaffer p cell t k).trans h) rfl :
    offSlots ((List.range 4).foldl (startGaffer p cell) s) = offSlots s)

theorem startGaffers_slot_ne (h : cellOfSlot j ≠ cell) : (startGaffers p s cell).slot j = s.slot j := by
  show ((List.range 4).foldl (startGaffer p cell) s).slot j = s.slot j
  refine foldl_keeps_mem (p := fun t : State => t.slot j = s.slot j) (fun t k hk ht => ?_) rfl
  have hk := List.mem_range.mp hk
  rw [startGaffer_slot_ne, ht]
  rintro rfl
  unfold cellOfSlot at h
  omega

theorem colLo_of_offSlots {s t : State} (h : offSlots t = offSlots s) (p : Nat) : t.colLo p = s.colLo p := by
  unfold State.colLo State.partWord
  rw [reg_of_offSlots h]

theorem startGaffers_slot (hk : k < 4) : (startGaffers p s cell).slot (16 * (4 * cell + k)) = gafferSlot (wrap64 (s.colLo p)) := by
  show ((List.range 4).foldl (startGaffer p cell) s).slot (16 * (4 * cell + k)) = _
  refine foldl_reaches (p := fun t => offSlots t = offSlots s)
    (q := fun t : State => t.slot (16 * (4 * cell + k)) = gafferSlot (wrap64 (s.colLo p)))
    (fun t i _ ht => (offSlots_startGaffer p cell t i).trans ht) (fun t i _ ht hq => ?_) (fun t ht => ?_) (List.mem_range.mpr hk) rfl
  · by_cases hi : i = k
    · rw [hi, startGaffer_slot_same, colLo_of_offSlots ht]
    · rw [startGaffer_slot_ne (by omega), hq]
  · rw [startGaffer_slot_same, colLo_of_offSlots ht]

/-- The gaffers of a partition's cells on a die start, where it is committed. -/
def startPart (d : Nat) (s : State) (p : Nat) : State :=
  if s.committed p then ((s.partCells p).filter (fun c => decide (dieOf c = d))).foldl (startGaffers p) s else s

theorem offSlots_startPart (d : Nat) (s : State) (p : Nat) : offSlots (startPart d s p) = offSlots s := by
  unfold startPart
  split
  · exact foldl_keeps (p := fun t => offSlots t = offSlots s) (fun t c h => (offSlots_startGaffers p t c).trans h) rfl
  · rfl

/-- A partition that is not committed, or has no part in the slot's cell, leaves the slot. -/
theorem startPart_slot_ne (h : s.committed p = true → cellOfSlot j ∈ s.partCells p → dieOf (cellOfSlot j) ≠ d) :
    (startPart d s p).slot j = s.slot j := by
  unfold startPart
  split
  next hc =>
    refine foldl_keeps_mem (p := fun t : State => t.slot j = s.slot j) (fun t c hm ht => ?_) rfl
    obtain ⟨hpart, hdie⟩ := List.mem_filter.mp hm
    rw [startGaffers_slot_ne, ht]
    rintro rfl
    exact h hc hpart (of_decide_eq_true hdie)
  next => rfl

theorem startPart_slot (hc : s.committed p = true) (hm : cell ∈ s.partCells p) (hd : dieOf cell = d) (hk : k < 4) :
    (startPart d s p).slot (16 * (4 * cell + k)) = gafferSlot (wrap64 (s.colLo p)) := by
  unfold startPart
  rw [if_pos hc]
  refine foldl_reaches (p := fun t => offSlots t = offSlots s)
    (q := fun t : State => t.slot (16 * (4 * cell + k)) = gafferSlot (wrap64 (s.colLo p)))
    (fun t c _ ht => (offSlots_startGaffers p t c).trans ht) (fun t c _ ht hq => ?_) (fun t ht => ?_)
    (List.mem_filter.mpr ⟨hm, decide_eq_true hd⟩) rfl
  · by_cases hcell : c = cell
    · rw [hcell, startGaffers_slot hk, colLo_of_offSlots ht]
    · rw [startGaffers_slot_ne, hq]
      unfold cellOfSlot
      omega
  · rw [startGaffers_slot hk, colLo_of_offSlots ht]

end

/-- The gaffers of a die's committed partitions start. -/
def startDie (s : State) (d : Nat) : State := allParts.foldl (startPart d) s

theorem offSlots_startDie (s : State) (d : Nat) : offSlots (startDie s d) = offSlots s :=
  foldl_keeps (p := fun t => offSlots t = offSlots s) (fun t p h => (offSlots_startPart d t p).trans h) rfl

theorem committed_of_offSlots {s t : State} (h : offSlots t = offSlots s) (p : Nat) : t.committed p = s.committed p := by
  unfold State.committed State.partWord
  rw [reg_of_offSlots h]

theorem partCells_of_offSlots {s t : State} (h : offSlots t = offSlots s) (p : Nat) : t.partCells p = s.partCells p := by
  refine List.filter_congr fun c _ => ?_
  unfold State.holds State.partWord
  dsimp only
  rw [reg_of_offSlots h]

/-- A slot on no committed partition's cell of the die is left. -/
theorem startDie_slot_ne {s : State} {d j : Nat}
    (h : ∀ p < 16, s.committed p = true → cellOfSlot j ∈ s.partCells p → dieOf (cellOfSlot j) ≠ d) :
    (startDie s d).slot j = s.slot j := by
  have hboth : offSlots (startDie s d) = offSlots s ∧ (startDie s d).slot j = s.slot j := by
    refine foldl_keeps_mem (p := fun t : State => offSlots t = offSlots s ∧ t.slot j = s.slot j) (fun t p hp ht => ?_) ⟨rfl, rfl⟩
    obtain ⟨hoff, hslot⟩ := ht
    refine ⟨(offSlots_startPart d t p).trans hoff, (startPart_slot_ne ?_).trans hslot⟩
    rw [committed_of_offSlots hoff, partCells_of_offSlots hoff]
    exact h p (List.mem_range.mp hp)
  exact hboth.2

/-- The gaffers of a cell that one committed partition holds start with its colour. -/
theorem startDie_slot {s : State} {d p cell k : Nat} (hp : p < 16) (hc : s.committed p = true) (hm : cell ∈ s.partCells p)
    (hd : dieOf cell = d) (hother : ∀ q < 16, q ≠ p → s.committed q = true → cell ∉ s.partCells q) (hk : k < 4) :
    (startDie s d).slot (16 * (4 * cell + k)) = gafferSlot (wrap64 (s.colLo p)) := by
  have hcell : cellOfSlot (16 * (4 * cell + k)) = cell := by
    unfold cellOfSlot
    omega
  have hcommitted (t : State) (ht : offSlots t = offSlots s) : t.committed p = true := by rw [committed_of_offSlots ht, hc]
  have hpart (t : State) (ht : offSlots t = offSlots s) : cell ∈ t.partCells p := by
    rw [partCells_of_offSlots ht]
    exact hm
  refine foldl_reaches (p := fun t => offSlots t = offSlots s)
    (q := fun t : State => t.slot (16 * (4 * cell + k)) = gafferSlot (wrap64 (s.colLo p)))
    (fun t q _ ht => (offSlots_startPart d t q).trans ht) (fun t q hq ht hslot => ?_) (fun t ht => ?_) (List.mem_range.mpr hp) rfl
  · by_cases hqp : q = p
    · rw [hqp, startPart_slot (hcommitted t ht) (hpart t ht) hd hk, colLo_of_offSlots ht]
    · rw [startPart_slot_ne, hslot]
      rw [committed_of_offSlots ht, partCells_of_offSlots ht, hcell]
      exact fun hcq hmq => absurd hmq (hother q (List.mem_range.mp hq) hqp hcq)
  · rw [startPart_slot (hcommitted t ht) (hpart t ht) hd hk, colLo_of_offSlots ht]

/-- The state that a reset of a die leaves. -/
def dieRestarted (s : State) (d : Nat) : State := startDie (resetDie s d) d

theorem exec_dieReset (s : State) {d : Nat} (h : d < 4) : exec (.dieReset d) s = .next (dieRestarted s d) :=
  if_neg (Nat.not_le.mpr h)

section
variable (s : State) (d : Nat)

theorem dieRestarted_stores : (dieRestarted s d).phys = s.phys ∧ (dieRestarted s d).commons = s.commons ∧
    (dieRestarted s d).gts = s.gts ∧ (dieRestarted s d).cells = s.cells.filter (fun q => offDie d q.1) ∧
    (dieRestarted s d).cores = s.cores.filter (fun q => offDie d (q.1 / 4)) := by
  obtain ⟨hp, hm, hc, hk, hg⟩ := stores_of_offSlots (offSlots_startDie (resetDie s d) d)
  obtain ⟨rp, rm, rg, rc, -, rk⟩ := resetDie_keeps s d
  exact ⟨hp.trans rp, hm.trans rm, hg.trans rg, hc.trans rc, hk.trans rk⟩

theorem dieRestarted_reg (off : Nat) : (dieRestarted s d).reg off = (resetDie s d).reg off :=
  reg_of_offSlots (offSlots_startDie (resetDie s d) d) off

end

section
variable (s : State) {d : Nat}

theorem dieRestarted_cell_other {c : Nat} (h : c / 240 ≠ d) : (dieRestarted s d).cell c = s.cell c := by
  obtain ⟨-, -, -, hcells, -⟩ := dieRestarted_stores s d
  rw [State.cell, hcells]
  exact get_filter_kept (p := offDie d) _ _ (decide_eq_true h)

theorem dieRestarted_cell {c : Nat} (h : c / 240 = d) : (dieRestarted s d).cell c = Cell.init := by
  obtain ⟨-, -, -, hcells, -⟩ := dieRestarted_stores s d
  rw [State.cell, hcells]
  exact get_filter_gone (p := offDie d) _ _ (decide_eq_false (not_not_intro h))

theorem dieRestarted_core {k : Nat} (h : k / 4 / 240 = d) : (dieRestarted s d).core k = Core.init := by
  obtain ⟨-, -, -, -, hcores⟩ := dieRestarted_stores s d
  rw [State.core, hcores]
  exact get_filter_gone (p := fun k => offDie d (k / 4)) _ _ (decide_eq_false (not_not_intro h))

theorem dieRestarted_slot_other {sid : Nat} (h : sid / 64 / 240 ≠ d) : (dieRestarted s d).slot sid = s.slot sid := by
  obtain ⟨-, -, -, -, hslots, -⟩ := resetDie_keeps s d
  refine (startDie_slot_ne fun _ _ _ _ => h).trans ?_
  rw [State.slot, hslots]
  exact get_filter_kept (p := fun k => offDie d (cellOfSlot k)) _ _ (decide_eq_true h)

variable (hd : d < 4)
include hd

theorem dieRestarted_slot_empty {sid : Nat} (h : sid / 64 / 240 = d) (hn : ∀ p < 16, s.committed p = false) :
    (dieRestarted s d).slot sid = Slot.init := by
  obtain ⟨-, -, -, -, hslots, -⟩ := resetDie_keeps s d
  refine (startDie_slot_ne fun p hp hc => ?_).trans ?_
  · rw [resetDie_committed s hd hp, hn p hp] at hc
    cases hc
  · rw [State.slot, hslots]
    exact get_filter_gone (p := fun k => offDie d (cellOfSlot k)) _ _ (decide_eq_false (not_not_intro h))

theorem dieRestarted_gaffer {p c k : Nat} (hp : p < 16) (hc : s.committed p = true) (hdie : c / 240 = d) (hm : c ∈ s.partCells p)
    (hother : ∀ q < 16, q ≠ p → s.committed q = true → c ∉ s.partCells q) (hk : k < 4) :
    (dieRestarted s d).slot (16 * (4 * c + k)) = gafferSlot (BitVec.ofNat 64 (s.colLo p)) := by
  have hcr : (resetDie s d).committed p = true := by rw [resetDie_committed s hd hp, hc]
  have hmr : c ∈ (resetDie s d).partCells p := by
    rw [resetDie_partCells s hd hp]
    exact hm
  refine (startDie_slot hp hcr hmr hdie (fun q hq hqp hcq => ?_) hk).trans ?_
  · rw [resetDie_partCells s hd hq]
    rw [resetDie_committed s hd hq] at hcq
    exact hother q hq hqp hcq
  · rw [resetDie_colLo s hd hp]
    rfl

theorem dieRestarted_reg_zero {o : Nat} (ho : o = 0x2000 ∨ o = 0x2008 ∨ o = 0x6008) : (dieRestarted s d).reg (dieBase d + o) = 0#64 := by
  rw [dieRestarted_reg, resetDie_reg_here s (by omega) (by omega)]
  obtain rfl | rfl | rfl | rfl : d = 0 ∨ d = 1 ∨ d = 2 ∨ d = 3 := by omega
  all_goals obtain rfl | rfl | rfl := ho <;> rfl

end

/-- Settles O54: the link, errors, standby, boot and the report by the equations of their steps, a die's reset by the state that it
leaves. -/
theorem packageAndReset : Obligations.PackageAndReset := by
  refine ⟨⟨fun s n h => linkUp_result s h, fun s h => linkDown_result h, fun s h => flitReplay_result h,
    fun s sid r h => sregError_result s sid h, locError_result, fun s => rfl,
    fun s time svn digest map h => ⟨powerUp_waits time digest h map, fun hsvn => powerUp_runs time digest hsvn h⟩,
    fun s time svn digest hw hl hv => ⟨fun hsvn => hostImage_runs time digest hsvn hw hl hv, hostImage_refused time digest []⟩,
    report_result⟩, fun s d hd => ?_⟩
  obtain ⟨hphys, hcommons, hgts, -, -⟩ := dieRestarted_stores s d
  refine ⟨_, exec_dieReset s hd, hphys, congrArg (FMap.get [] · d) hcommons, fun c hc => dieRestarted_cell_other s hc, fun c hc => ?_,
    fun sid hs => dieRestarted_slot_other s hs, fun sid hs hn => dieRestarted_slot_empty s hd hs hn,
    fun p c k hp hc _ hdie hm hother hk => ?_, fun k hk _ => dieRestarted_core s hk,
    (dieRestarted_reg s d _).trans (resetDie_reg_fabric s d), dieRestarted_reg_zero s hd (by decide),
    dieRestarted_reg_zero s hd (by decide), dieRestarted_reg_zero s hd (by decide), hgts⟩
  · rw [dieRestarted_cell s hc]
    exact ⟨rfl, fun _ => rfl⟩
  · rw [dieRestarted_gaffer s hd hp hc hdie hm hother hk]
    exact ⟨rfl, rfl, rfl, rfl, rfl, rfl⟩

end Sys2Proof.Machine
end
section
/-! O51: writes of the registers that have an effect of their own. -/

namespace Sys2Proof.Machine
open Claims

/-! ### Who writes (R215, R216) -/

theorem byWriter_reaching {s : State} {b : Writer} (t : State) (hr : reaches s b = true) : byWriter s b t = .next t := by
  rw [byWriter, if_pos hr]

theorem byWriter_linkDown {s : State} (t : State) (h : s.linkUp = false) : byWriter s .host t = .next s := by
  rw [byWriter, reaches, h, if_neg Bool.false_ne_true]

/-! ### Bits of a masked write (R3) -/

theorem getLsbD_maskedWrite (old v : Word) (rw : Nat) {i : Nat} (hi : i < 64) :
    (maskedWrite old v rw 0).getLsbD i = if rw.testBit i then v.getLsbD i else old.getLsbD i := by
  rw [maskedWrite_rw, wrap64]
  simp only [BitVec.getLsbD_or, BitVec.getLsbD_and, BitVec.getLsbD_not, BitVec.getLsbD_ofNat, hi, decide_true, Bool.true_and]
  cases rw.testBit i <;> simp

/-- A field that the mask covers takes the value's bits. -/
theorem bits_maskedWrite (old v : Word) {rw hi lo : Nat} (h64 : hi < 64) (hm : ∀ i < hi + 1 - lo, rw.testBit (lo + i) = true) :
    bits (maskedWrite old v rw 0) hi lo = bits v hi lo := by
  refine Nat.eq_of_testBit_eq fun i => ?_
  rw [testBit_bits, testBit_bits]
  by_cases hi' : i < hi + 1 - lo
  · rw [getLsbD_maskedWrite old v rw (by omega), if_pos (hm i hi')]
  · rw [decide_eq_false hi', Bool.false_and, Bool.false_and]

theorem low16_eq (w : Word) : bits w 15 0 = w.toNat % 65536 := by
  simp [bits]

theorem low13_eq (w : Word) : bits w 12 0 = w.toNat % 8192 := by
  simp [bits]

theorem bits_low_eq_iff (x y : Word) (n : Nat) : bits x n 0 = bits y n 0 ↔ ∀ i < n + 1, x.getLsbD i = y.getLsbD i := by
  constructor
  · intro h i hi
    have := congrArg (Nat.testBit · i) h
    simpa [testBit_bits, hi] using this
  · intro h
    refine Nat.eq_of_testBit_eq fun i => ?_
    rw [testBit_bits, testBit_bits, Nat.zero_add, Nat.sub_zero]
    by_cases hi : i < n + 1
    · rw [h i hi]
    · rw [decide_eq_false hi, Bool.false_and, Bool.false_and]

theorem and_low_six_eq_iff (v old : Word) :
    v &&& 0x3F#64 = old &&& 0x2F#64 ↔ ∀ i < 6, v.getLsbD i = (old.getLsbD i && decide (i ≠ 4)) := by
  have h3F : ∀ i < 64, (0x3F#64).getLsbD i = decide (i < 6) := by decide
  have h2F : ∀ i < 64, (0x2F#64).getLsbD i = (decide (i < 6) && decide (i ≠ 4)) := by decide
  rw [BitVec.eq_of_getLsbD_eq_iff]
  constructor
  · intro h i hi
    have := h i (by omega)
    simpa [BitVec.getLsbD_and, h3F i (by omega), h2F i (by omega), hi] using this
  · intro h i hi
    rw [BitVec.getLsbD_and, BitVec.getLsbD_and, h3F i hi, h2F i hi]
    by_cases h6 : i < 6
    · rw [h i h6, decide_eq_true h6, Bool.and_true, Bool.true_and]
    · rw [decide_eq_false h6, Bool.false_and, Bool.and_false, Bool.and_false]

/-- The write clears EN of LQSIZE and leaves its other fields: a condition on six bits. -/
theorem clearsEnOnly_iff (v old : Word) :
    (!v.getLsbD 4 && bits v 3 0 = bits old 3 0 && v.getLsbD 5 = old.getLsbD 5) = true ↔ v &&& 0x3F#64 = old &&& 0x2F#64 := by
  rw [and_low_six_eq_iff]
  simp only [Bool.and_eq_true, decide_eq_true_eq, bits_low_eq_iff, Nat.forall_lt_succ_right, Bool.not_eq_true']
  simp
  tauto
/-! ### Launch queues (R140) -/

section
variable {s : State} {b : Writer} {p q : Nat} {v : Word} (hr : reaches s b = true)

theorem lqCount_low16 (s : State) (p q : Nat) (v : Word) :
    lqCount s p q (bits v 15 0) = (v.toNat % 65536 + 65536 - lqHead s p q) % 65536 := by
  rw [lqCount, low16_eq]

include hr

theorem lqtailWrite_rings (hd : lqDev s p q = false) (hroom : (v.toNat % 65536 + 65536 - lqHead s p q) % 65536 ≤ lqLen s p q) :
    ∃ t, exec (.lqtailWrite b p q v) s = .next t ∧ lqTail t p q = v.toNat % 65536 ∧ Due t (.launchRead p) := by
  have hw : writeLqtail s p q v = (s.writeReg (lqOff p q + 0x18) v 0xFFFF 0).pushE (.launchRead p) := by
    unfold writeLqtail
    rw [hd, lqCount_low16, Bool.false_or, if_neg (by simpa using hroom)]
  refine ⟨_, (byWriter_reaching _ hr).trans (congrArg _ hw), ?_, due_pushE _ _⟩
  change bits ((s.writeReg (lqOff p q + 0x18) v 0xFFFF 0).reg (lqOff p q + 0x18)) 15 0 = _
  rw [reg_writeReg_same, bits_maskedWrite _ _ (by decide) (by decide), low16_eq]

theorem lqtailWrite_refused
    (h : lqDev s p q = true ∨ ¬ (v.toNat % 65536 + 65536 - lqHead s p q) % 65536 ≤ lqLen s p q) :
    exec (.lqtailWrite b p q v) s = .next s := by
  have hw : writeLqtail s p q v = s := by
    unfold writeLqtail
    rw [lqCount_low16, if_pos (by simpa using h)]
  exact (byWriter_reaching _ hr).trans (congrArg _ hw)

theorem lqbaseWrite_taken (he : lqEnabled s p q = false) : ∃ t, exec (.lqsizeWrite b p q true v) s = .next t ∧
    lqBase t p q = (v &&& ~~~63#64 ||| s.reg (lqOff p q) &&& 63#64).toNat := by
  have hw : writeLqbase s p q v = s.writeReg (lqOff p q) v (fieldMask 63 6) 0 := by
    rw [writeLqbase, he, if_neg Bool.false_ne_true]
  refine ⟨_, (byWriter_reaching _ hr).trans (congrArg _ hw), congrArg BitVec.toNat ?_⟩
  rw [reg_writeReg_same, maskedWrite_rw]
  rfl

theorem lqbaseWrite_refused (he : lqEnabled s p q = true) : exec (.lqsizeWrite b p q true v) s = .next s :=
  (byWriter_reaching _ hr).trans (congrArg _ (if_pos he))

theorem lqsizeWrite_taken (h : lqEnabled s p q = false ∨ v &&& 0x3F#64 = s.reg (lqOff p q + 8) &&& 0x2F#64) :
    ∃ t, exec (.lqsizeWrite b p q false v) s = .next t ∧
      t.reg (lqOff p q + 8) = v &&& 0x3F#64 ||| s.reg (lqOff p q + 8) &&& ~~~0x3F#64 := by
  have hw : writeLqsize s p q v = (s.writeReg (lqOff p q + 8) v 0x3F 0).pushE (.launchRead p) := by
    unfold writeLqsize
    extract_lets old onlyEn
    have hen : onlyEn = true ↔ v &&& 0x3F#64 = old &&& 0x2F#64 := clearsEnOnly_iff v old
    refine if_neg fun hno => ?_
    rw [Bool.and_eq_true, Bool.not_eq_true'] at hno
    rcases h with h | h
    · exact Bool.false_ne_true (h.symm.trans hno.1)
    · exact Bool.false_ne_true (hno.2.symm.trans (hen.mpr h))
  refine ⟨_, (byWriter_reaching _ hr).trans (congrArg _ hw), ?_⟩
  change (s.writeReg (lqOff p q + 8) v 0x3F 0).reg (lqOff p q + 8) = _
  rw [reg_writeReg_same, maskedWrite_rw]
  rfl

theorem lqsizeWrite_refused (he : lqEnabled s p q = true) (h : v &&& 0x3F#64 ≠ s.reg (lqOff p q + 8) &&& 0x2F#64) :
    exec (.lqsizeWrite b p q false v) s = .next s := by
  have hw : writeLqsize s p q v = s := by
    unfold writeLqsize
    extract_lets old onlyEn
    have hno : onlyEn = false := Bool.eq_false_iff.mpr fun hen => h ((clearsEnOnly_iff v old).mp hen)
    rw [he, hno]
    exact if_pos rfl
  exact (byWriter_reaching _ hr).trans (congrArg _ hw)

end

/-! ### The retirement of a bank (R166-R168) -/

section
variable {s : State} {d g k : Nat} {v : Word}

theorem remapOff_ne_bret (hg : g < 16) (hk : k < 64) : remapOff d g k ≠ bretOff d ∧ remapOff d g k ≠ brstatOff d := by
  unfold remapOff bretOff brstatOff
  omega

theorem brstatOff_ne_bretOff (d : Nat) : brstatOff d ≠ bretOff d := by
  unfold bretOff brstatOff
  omega

theorem remapState_writeBret (s : State) (v : Word) (rw : Nat) (hg : g < 16) (hk : k < 64) :
    remapState (s.writeReg (bretOff d) v rw 0) d g k = remapState s d g k := by
  rw [remapState, remapState, reg_writeReg_ne _ _ _ _ (remapOff_ne_bret hg hk).1]

theorem freeSpare_writeBret (s : State) (v : Word) (rw : Nat) (hg : g < 16) :
    freeSpare (s.writeReg (bretOff d) v rw 0) d g = freeSpare s d g := by
  unfold freeSpare
  refine congrArg (fun f => List.find? f [64, 65, 66, 67]) (funext fun x => ?_)
  rw [Bool.eq_iff_iff, List.all_eq_true, List.all_eq_true]
  refine forall₂_congr fun k hk => ?_
  rw [reg_writeReg_ne _ _ _ _ (remapOff_ne_bret hg (List.mem_range.mp hk)).1]

theorem pushBankPairing_frame (s : State) (d g k : Nat) : (pushBankPairing s d g k).regs = s.regs ∧ SameBytes s (pushBankPairing s d g k) := by
  unfold pushBankPairing
  extract_lets fc
  split
  · exact ⟨rfl, sameBytes_of_eq rfl rfl rfl⟩
  · exact ⟨rfl, sameBytes_of_eq rfl rfl rfl⟩

/-- A request for a bank that is not in the normal state, or while the unit is busy. -/
theorem requestRetire_refused (h : remapState s d g k ≠ 0) :
    requestRetire s d g k = s.setReg (brstatOff d) (setBit (s.reg (brstatOff d)) 2 true) := by
  unfold requestRetire
  extract_lets st
  rw [if_pos (by simp [h])]

theorem requestRetire_idle (h : remapState s d g k = 0) (hb : (s.reg (brstatOff d)).getLsbD 0 = false) :
    ¬ ((s.reg (brstatOff d)).getLsbD 0 || decide (remapState s d g k ≠ 0)) = true := by
  rw [hb, h]
  decide

/-- A request that finds a spare bank: the copy begins (R167). -/
theorem requestRetire_begins (h : remapState s d g k = 0) (hb : (s.reg (brstatOff d)).getLsbD 0 = false) (hh : s.holes = [])
    (hf : freeSpare s d g ≠ none) : requestRetire s d g k =
      pushBankPairing ((setRemapState s d g k 1).setReg (brstatOff d) (setBits (setBit (s.reg (brstatOff d)) 0 true) 14 3 0)) d g k := by
  unfold requestRetire
  extract_lets st _ _
  rw [if_neg (requestRetire_idle h hb), hh, List.contains_nil, if_neg Bool.false_ne_true]
  obtain ⟨x, hx⟩ := Option.ne_none_iff_exists'.mp hf
  rw [hx]

/-- A request that finds none: the bank becomes a hole at the next turn boundary (R168). -/
theorem requestRetire_hole (h : remapState s d g k = 0) (hb : (s.reg (brstatOff d)).getLsbD 0 = false) (hh : s.holes = [])
    (hf : freeSpare s d g = none) : requestRetire s d g k =
      { s.setReg (brstatOff d) (setBit (s.reg (brstatOff d)) 1 true) with holes := [(d, g, k)] }.pushE
        (.turnBoundary d (nextBoundary s d)) := by
  unfold requestRetire
  extract_lets st _ _
  rw [if_neg (requestRetire_idle h hb), hh, List.contains_nil, if_neg Bool.false_ne_true, hf]
  rfl

section
variable {b : Writer} (hr : reaches s b = true) (h10 : v.getLsbD 10 = true) (hg : bits v 3 0 = g) (hk : bits v 9 4 = k)
include hr h10 hg hk

theorem exec_bretWrite_requests : exec (.bretWrite b d v) s =
    .next (requestRetire (s.writeReg (bretOff d) v (fieldMask 9 0) 0) d g k) := by
  refine (byWriter_reaching _ hr).trans (congrArg _ ?_)
  rw [writeBret, if_pos h10, hg, hk]

theorem bretWrite_refused (hst : remapState s d g k ≠ 0) : ∃ t, exec (.bretWrite b d v) s = .next t ∧ SameBytes s t ∧
    t.reg (brstatOff d) = s.reg (brstatOff d) ||| 4#64 := by
  have hg16 : g < 16 := hg ▸ Nat.mod_lt _ (by decide)
  have hk64 : k < 64 := hk ▸ Nat.mod_lt _ (by decide)
  refine ⟨_, (exec_bretWrite_requests hr h10 hg hk).trans (congrArg _ (requestRetire_refused ?_)), sameBytes_of_eq rfl rfl rfl, ?_⟩
  · rwa [remapState_writeBret s v _ hg16 hk64]
  · rw [State.reg_setReg_same, reg_writeReg_ne s v _ _ (brstatOff_ne_bretOff d)]
    rfl

variable (hst : remapState s d g k = 0) (hb : (s.reg (brstatOff d)).getLsbD 0 = false) (hh : s.holes = [])
include hst hb hh

theorem bretWrite_begins (hf : freeSpare s d g ≠ none) : ∃ t, exec (.bretWrite b d v) s = .next t ∧ SameBytes s t ∧
    remapState t d g k = 1 ∧ (t.reg (brstatOff d)).getLsbD 0 = true ∧ bits (t.reg (brstatOff d)) 14 3 = 0 := by
  have hg16 : g < 16 := hg ▸ Nat.mod_lt _ (by decide)
  have hk64 : k < 64 := hk ▸ Nat.mod_lt _ (by decide)
  have hst' := (remapState_writeBret s v (fieldMask 9 0) hg16 hk64).trans hst
  have hb' : ((s.writeReg (bretOff d) v (fieldMask 9 0) 0).reg (brstatOff d)).getLsbD 0 = false := by
    rwa [reg_writeReg_ne s v _ _ (brstatOff_ne_bretOff d)]
  have hf' : freeSpare (s.writeReg (bretOff d) v (fieldMask 9 0) 0) d g ≠ none := by rwa [freeSpare_writeBret s v _ hg16]
  refine ⟨_, (exec_bretWrite_requests hr h10 hg hk).trans (congrArg _ (requestRetire_begins hst' hb' hh hf')),
    sameBytes_trans ?_ (pushBankPairing_frame _ d g k).2, ?_⟩
  · exact sameBytes_of_eq rfl rfl rfl
  have hreg (o : Nat) (u : State) : (pushBankPairing u d g k).reg o = u.reg o :=
    congrArg (FMap.get (regReset o) · o) (pushBankPairing_frame u d g k).1
  rw [remapState, hreg, hreg, State.reg_setReg_same, State.reg_setReg_ne _ _ (remapOff_ne_bret hg16 hk64).2, setRemapState,
    State.reg_setReg_same, bits_setBits_same _ _ (by decide) (by decide), bits_setBits_same _ _ (by decide) (by decide),
    getLsbD_setBits _ _ (by decide) (by decide), if_neg (by decide), Slot.getLsbD_setBit_same _ _ (by decide)]
  exact ⟨rfl, rfl, rfl⟩

theorem bretWrite_hole (hf : freeSpare s d g = none) : ∃ t, exec (.bretWrite b d v) s = .next t ∧ SameBytes s t ∧
    (t.reg (brstatOff d)).getLsbD 1 = true ∧ t.holes = [(d, g, k)] := by
  have hg16 : g < 16 := hg ▸ Nat.mod_lt _ (by decide)
  have hk64 : k < 64 := hk ▸ Nat.mod_lt _ (by decide)
  have hst' := (remapState_writeBret s v (fieldMask 9 0) hg16 hk64).trans hst
  have hb' : ((s.writeReg (bretOff d) v (fieldMask 9 0) 0).reg (brstatOff d)).getLsbD 0 = false := by
    rwa [reg_writeReg_ne s v _ _ (brstatOff_ne_bretOff d)]
  have hf' : freeSpare (s.writeReg (bretOff d) v (fieldMask 9 0) 0) d g = none := by rwa [freeSpare_writeBret s v _ hg16]
  refine ⟨_, (exec_bretWrite_requests hr h10 hg hk).trans (congrArg _ (requestRetire_hole hst' hb' hh hf')),
    sameBytes_of_eq rfl rfl rfl, ?_, rfl⟩
  change ((State.setReg _ (brstatOff d) _).reg (brstatOff d)).getLsbD 1 = true
  rw [State.reg_setReg_same, Slot.getLsbD_setBit_same _ _ (by decide)]

end

end

/-! ### Tables with one masked write (R106, R178, R206, R213, R219) -/

section
variable {s : State} {b : Writer} (v : Word) (hr : reaches s b = true)
include hr

theorem optableWrite_result (n : Nat) : ∃ t, exec (.optableWrite b n v) s = .next t ∧ SameBytes s t ∧
    (v.getLsbD 33 = true → t.reg (opOff n) = v &&& 0x3FFFFFFFFFFF#64 ||| s.reg (opOff n) &&& ~~~0x3FFFFFFFFFFF#64) ∧
    (v.getLsbD 33 = false → t.reg (opOff n) = v &&& 0x3FFFFFFFF#64 ||| s.reg (opOff n) &&& ~~~0x3FFFFFFFF#64) := by
  have hreg : (writeOp s n v).reg (opOff n) =
      maskedWrite (s.reg (opOff n)) v (if v.getLsbD 33 then fieldMask 45 0 else fieldMask 33 0) 0 := reg_writeReg_same _ _ _ _ _
  refine ⟨_, byWriter_reaching _ hr, sameBytes_of_eq rfl rfl rfl, fun h => ?_, fun h => ?_⟩
  · rw [hreg, if_pos h, maskedWrite_rw]
    rfl
  · rw [hreg, h, if_neg Bool.false_ne_true, maskedWrite_rw]
    rfl

theorem asidtbWrite_taken {d : Nat} (h : writerOnDie b s d = true) : ∃ t, exec (.asidtbWrite b d v) s = .next t ∧ SameBytes s t ∧
    t.reg (asidtbOff d) = v &&& 0xFFFFFFFFF0001#64 ||| s.reg (asidtbOff d) &&& ~~~0xFFFFFFFFF0001#64 := by
  refine ⟨_, (byWriter_reaching _ hr).trans (congrArg _ (if_pos h)), sameBytes_writeReg _ _ _ _ _, ?_⟩
  rw [reg_writeReg_same, maskedWrite_rw]
  rfl

theorem asidtbWrite_refused {d : Nat} (h : writerOnDie b s d = false) : exec (.asidtbWrite b d v) s = .next s := by
  refine (byWriter_reaching _ hr).trans (congrArg _ ?_)
  rw [writeAsidtb, h, if_neg Bool.false_ne_true]

theorem ceilWrite_result (cell : Nat) : ∃ t, exec (.ceilWrite b cell v) s = .next t ∧ SameBytes s t ∧
    t.reg (powerOff cell + 8) = v &&& 0xFF#64 ||| s.reg (powerOff cell + 8) &&& ~~~0xFF#64 ∧ Due t (.gearEvaluate cell) := by
  refine ⟨_, byWriter_reaching _ hr, sameBytes_of_eq rfl rfl rfl, ?_, due_pushE _ _⟩
  change (s.writeReg (powerOff cell + 8) v 0xFF 0).reg (powerOff cell + 8) = _
  rw [reg_writeReg_same, maskedWrite_rw]
  rfl

theorem agemonClr_restores {cell : Nat} (h : v.getLsbD 32 = true) : ∃ t, exec (.agemonClr b cell v) s = .next t ∧ SameBytes s t ∧
    t.reg (powerOff cell + 0x10) = s.reg (powerOff cell + 0x10) ||| 0xFFFF0000#64 := by
  refine ⟨_, (byWriter_reaching _ hr).trans (congrArg _ (if_pos h)), sameBytes_setReg _ _ _, ?_⟩
  rw [State.reg_setReg_same]
  refine BitVec.eq_of_getLsbD_eq fun i hi => ?_
  have hworst : ∀ i < 64, (0xFFFF0000#64).getLsbD i = decide (16 ≤ i ∧ i ≤ 31) := by decide
  have hones : ∀ i, 16 ≤ i ∧ i ≤ 31 → (0xFFFF).testBit (i - 16) = true := by
    rintro i ⟨hlo, hhi⟩
    interval_cases i <;> rfl
  rw [getLsbD_setBits _ _ (by decide) hi, BitVec.getLsbD_or, hworst i hi]
  split
  next h => rw [hones i h, decide_eq_true h, Bool.or_true]
  next h => rw [decide_eq_false h, Bool.or_false]

theorem agemonClr_refused {cell : Nat} (h : v.getLsbD 32 = false) : exec (.agemonClr b cell v) s = .next s := by
  refine (byWriter_reaching _ hr).trans (congrArg _ ?_)
  rw [writeAgemon, h, if_neg Bool.false_ne_true]

theorem prailWrite_result : ∃ t, exec (.prailWrite b v) s = .next t ∧ SameBytes s t ∧
    t.reg 0x40130010 = v &&& 0xFFFF#64 ||| s.reg 0x40130010 &&& ~~~0xFFFF#64 := by
  refine ⟨_, byWriter_reaching _ hr, sameBytes_writeReg _ _ _ _ _, ?_⟩
  exact (reg_writeReg_same s 0x40130010 v 0xFFFF 0).trans (maskedWrite_rw _ _ _)

end

/-! ### CASID (R106) -/

/-- Who may give a cell an ASID, and which. -/
def CasidFits (s : State) (b : Writer) (cell : Nat) (v : Word) : Prop :=
  ∃ p, s.partOf cell = some p ∧ s.asidLo p ≤ v.toNat % 8192 ∧ v.toNat % 8192 ≤ s.asidHi p ∧ (b = .host ∨ b = .part p)

theorem writeCasid_fits {s : State} {b : Writer} {cell : Nat} {v : Word} (h : CasidFits s b cell v) :
    writeCasid s b cell v = s.writeReg (casidOff cell) v (fieldMask 12 0) 0 := by
  obtain ⟨p, hp, hlo, hhi, rfl | rfl⟩ := h
  · simp [writeCasid, hp, low13_eq, hlo, hhi]
  · simp [writeCasid, hp, low13_eq, hlo, hhi]

theorem writeCasid_unfit {s : State} {b : Writer} {cell : Nat} {v : Word} (h : ¬ CasidFits s b cell v) :
    writeCasid s b cell v = s := by
  unfold writeCasid
  extract_lets a inRange ok
  refine if_neg fun hok => h ?_
  cases hp : s.partOf cell with
  | none => cases b <;> simp [ok, hp] at hok
  | some p =>
    cases b with
    | host =>
      simp only [ok, hp, inRange, a, low13_eq, Bool.and_eq_true, decide_eq_true_eq] at hok
      exact ⟨p, hp, hok.1, hok.2, .inl rfl⟩
    | part q =>
      simp only [ok, hp, inRange, a, low13_eq, Bool.and_eq_true, decide_eq_true_eq] at hok
      obtain ⟨rfl, hlo, hhi⟩ := hok
      exact ⟨q, hp, hlo, hhi, .inr rfl⟩

/-! ### PCTL (R219) -/

theorem agingDue_eq (s : State) (cell : Nat) : ∃ w, agingDue s cell = { s with work := s.work ++ w } := by
  have same : s = { s with work := s.work ++ [] } := by rw [List.append_nil]
  unfold agingDue State.dueOnce
  split
  · split
    · exact ⟨[], same⟩
    · exact ⟨[.later (.age cell)], rfl⟩
  · exact ⟨[], same⟩

theorem agingDue_foldl {V : Type} (l : FMap V) (s : State) :
    ∃ w, l.foldl (fun s q => agingDue s q.1) s = { s with work := s.work ++ w } := by
  induction l generalizing s with
  | nil => exact ⟨[], by rw [List.append_nil]; rfl⟩
  | cons q l ih =>
    obtain ⟨w, hw⟩ := agingDue_eq s q.1
    obtain ⟨z, hz⟩ := ih (agingDue s q.1)
    exact ⟨w ++ z, by rw [List.foldl_cons, hz, hw, List.append_assoc]⟩

theorem pctlWrite_result {s : State} {b : Writer} (p : Nat) (v : Word) (hr : reaches s b = true) :
    ∃ t, exec (.pctlWrite b p v) s = .next t ∧ SameBytes s t ∧ t.stopped p = v.getLsbD 0 ∧
      t.ageLimit p = 1000 * (v.toNat / 256 % 65536) ∧ Due t (.launchRead p) := by
  obtain ⟨w, hw⟩ : ∃ w, writePctl s p v =
      { (s.writeReg (pctlOff p) v (1 + fieldMask 23 8) 0).pushE (.launchRead p) with
        work := ((s.writeReg (pctlOff p) v (1 + fieldMask 23 8) 0).pushE (.launchRead p)).work ++ w } := agingDue_foldl _ _
  refine ⟨_, (byWriter_reaching _ hr).trans (congrArg _ hw), sameBytes_of_eq rfl rfl rfl, ?_, ?_,
    List.mem_append_left _ (due_pushE _ _)⟩
  · change ((s.writeReg (pctlOff p) v (1 + fieldMask 23 8) 0).reg (pctlOff p)).getLsbD 0 = _
    rw [reg_writeReg_same, getLsbD_maskedWrite _ _ _ (by decide)]
    rfl
  · change 1000 * bits ((s.writeReg (pctlOff p) v (1 + fieldMask 23 8) 0).reg (pctlOff p)) 23 8 = _
    rw [reg_writeReg_same, bits_maskedWrite _ _ (by decide) (by decide), replays_eq]

/-- Settles O51, register by register; a write that takes nothing gives the state back. -/
theorem registerWrites : Obligations.RegisterWrites := by
  refine ⟨fun s b p q v hr _ _ => ⟨lqtailWrite_rings hr, lqtailWrite_refused hr, lqbaseWrite_taken hr, lqbaseWrite_refused hr,
      lqsizeWrite_taken hr, lqsizeWrite_refused hr⟩,
    fun s b d g k v hr _ hg hk h10 => ⟨bretWrite_refused hr h10 hg hk, bretWrite_begins hr h10 hg hk, bretWrite_hole hr h10 hg hk⟩,
    fun s b n v hr _ => optableWrite_result v hr n, fun s b d v hr _ => ⟨asidtbWrite_taken v hr, asidtbWrite_refused v hr⟩,
    fun s b cell v hr _ => ⟨fun hfit => ?_, fun hfit => ?_⟩, fun s b p v hr _ => pctlWrite_result p v hr,
    fun s b cell v hr _ => ⟨ceilWrite_result v hr cell, agemonClr_restores v hr, agemonClr_refused v hr⟩,
    fun s b v hr => prailWrite_result v hr, fun s p q d n c off base v hl i hi => ?_⟩
  · refine ⟨_, (byWriter_reaching _ hr).trans (congrArg _ (writeCasid_fits hfit)), sameBytes_writeReg _ _ _ _ _, ?_⟩
    rw [State.casid, reg_writeReg_same, bits_maskedWrite _ _ (by decide) (by decide), low13_eq]
  · exact (byWriter_reaching _ hr).trans (congrArg _ (writeCasid_unfit hfit))
  · simp only [List.mem_cons, List.not_mem_nil, or_false] at hi
    rcases hi with rfl | rfl | rfl | rfl | rfl | rfl | rfl | rfl | rfl | rfl | rfl | rfl | rfl
    all_goals exact byWriter_linkDown _ hl

end Sys2Proof.Machine
end
section
/-! O30: the shoot-down of translations, and the wheel sets. -/

namespace Sys2Proof.Machine
open Claims

/-! ### An instruction that goes on with its slot as it was -/

/-- The state in which the issuing slot of `s` has gone on from a state that an instruction leaves. -/
def wentOn (s u : State) : State := count (done u (here u)) (cellPerf (home s)) 2 1

section
variable {s u : State} (hcur : u.cur = s.cur) (hslot : ∀ j, u.slot j = s.slot j)
include hcur hslot

theorem wentOn_here : here (wentOn s u) = (here s).next := by
  rw [wentOn, here, count_slot, count_cur]
  exact (State.slot_setSlot_same u u.cur _).trans (congrArg Slot.next ((hslot u.cur).trans (congrArg s.slot hcur)))

theorem wentOn_otherSlots : OtherSlots s (wentOn s u) := fun j hj => by
  rw [wentOn, count_slot]
  exact (State.slot_setSlot_ne u _ (hcur ▸ hj)).trans (hslot j)

end

theorem wentOn_reg (s u : State) {off : Nat} (h : off / 0x100 ≠ cellPerf (home s) / 0x100) : (wentOn s u).reg off = u.reg off := by
  rw [wentOn, reg_count_apart _ _ _ (cellPerf_aligned _) h]
  rfl

theorem wentOn_sameBytes {s u : State} (h : SameBytes s u) : SameBytes s (wentOn s u) := by
  refine sameBytes_trans h (sameBytes_of_eq ?_ ?_ ?_)
  · exact count_phys ..
  · exact count_cells ..
  · exact count_commons ..

/-! ### The checks before a descriptor is read (R72, R296) -/

theorem levelYOnly_ok {s : State} (h : s.levelY s.cur = true) (i : Instr) : levelYOnly i s = .ok () := by
  rw [levelYOnly, h]
  rfl

theorem soundS_single {x : Slot} {a : BitVec 6} (h : Readable x a) : soundS x [a.toNat] = .ok () := by
  rw [soundS, List.find?_cons_of_neg (by rw [badS_readable h]; decide)]
  rfl

/-- The outcome of an instruction at level Y that reads n bytes at the address in a register and goes on with them. -/
theorem descriptor_read {s u : State} {a : BitVec 6} {n v : Nat} (hy : s.levelY s.cur = true) (hr : Readable (here s) a)
    (hl : LowerEight ((here s).sval a.toNat)) (hf : Fetches s ((here s).sval a.toNat) n v u) (i : Instr) (k : Word → Nat → State → Res) :
    (do
      levelYOnly i s
      boundS (here s) [a.toNat]
      let va ← peekS (here s) a.toNat
      lowerAddr va 8 3
      readIssue (.ok ()) s va n (k va)) = k ((here s).sval a.toNat) v u := by
  rw [levelYOnly_ok hy, boundS_single hr.1, peekS_readable hr]
  simp only [res_ok_bind]
  rw [lowerAddr_ok hl.1 hl.2]
  exact hf _ _

/-! ### Shoot-down (R111, R317) -/

/-- The state in which a shoot-down has begun: its accesses are still open, or none is. -/
def shotDown (s u : State) (k : Shoot) : State :=
  if shootOpen u k = [] then wentOn s (shoot u k)
  else count ((shoot u k).modSlot u.cur (fun y => { y with shoot := some (k, shootOpen u k) })) (cellPerf (home s)) 2 1

section
variable {s u : State} {a : BitVec 6} {v : Nat} {k : Shoot}

/-- The removal leaves the accesses in flight, and who holds the dies. -/
theorem shootOpen_shoot (u : State) (k : Shoot) : shootOpen (shoot u k) k = shootOpen u k := rfl

theorem exec_tlbsd_begins (hn : (here s).shoot = none) (hy : s.levelY s.cur = true) (hr : Readable (here s) a)
    (hl : LowerEight ((here s).sval a.toNat)) (hf : Fetches s ((here s).sval a.toNat) 24 v u)
    (hk : shootOf u (part s) v = some k) (hp : part u = part s) : exec (.tlbsd a) s = .next (shotDown s u k) := by
  change execTlbsd a s = _
  unfold execTlbsd
  rw [hn]
  dsimp only
  refine (congrArg (finish s) (descriptor_read hy hr hl hf (.tlbsd a) _)).trans ?_
  have hk' : shootOf u (u.partN (cellOfSlot u.cur)) v = some k := hk ▸ congrArg (shootOf u · v) hp
  rw [hk']
  dsimp only
  rw [soundS_single hr, res_ok_bind, shootOpen_shoot]
  by_cases h : shootOpen u k = []
  · rw [shotDown, if_pos h, h]
    rfl
  · rw [shotDown, if_neg h, if_neg (by simpa using h)]
    rfl

/-- No entry that the shoot-down names is left on the dies of its partition. -/
theorem shoot_tlb {e : TlbEntry} (he : e ∈ (shoot u k).tlb) (hd : u.holdsDie k.part e.die = true)
    (ha : ∀ x, e.asid = some x → k.asidLo ≤ x ∧ x ≤ k.asidHi) : ¬(e.va < k.hi ∧ k.lo < e.va + e.size) := by
  rintro ⟨hlo, hhi⟩
  have hkept := (List.mem_filter.mp he).2
  cases hx : e.asid with
  | none => simp [hd, hx, hlo, hhi] at hkept
  | some x =>
    obtain ⟨h1, h2⟩ := ha x hx
    simp [hd, hx, Shoot.hits, h1, h2, hlo, hhi] at hkept

theorem shotDown_tlb (s u : State) (k : Shoot) : (shotDown s u k).tlb = (shoot u k).tlb := by
  unfold shotDown
  split
  · exact count_field (·.tlb) (fun _ _ => rfl) ..
  · exact count_field (·.tlb) (fun _ _ => rfl) ..

section
variable (hcur : u.cur = s.cur) (hslot : ∀ j, u.slot j = s.slot j)
include hcur hslot

theorem shotDown_otherSlots : OtherSlots s (shotDown s u k) := by
  unfold shotDown
  split
  · exact wentOn_otherSlots (u := shoot u k) hcur hslot
  · intro j hj
    rw [count_slot]
    exact (State.slot_setSlot_ne _ _ (hcur ▸ hj)).trans (hslot j)

theorem shotDown_quiet (h : shootOpen u k = []) : here (shotDown s u k) = (here s).next := by
  rw [shotDown, if_pos h]
  exact wentOn_here (u := shoot u k) hcur hslot

theorem shotDown_open (h : shootOpen u k ≠ []) :
    here (shotDown s u k) = { here s with shoot := some (k, shootOpen u k) } := by
  rw [shotDown, if_neg h, here, count_slot, count_cur]
  refine (State.slot_setSlot_same (shoot u k) u.cur _).trans ?_
  rw [show (shoot u k).slot u.cur = here s from (hslot u.cur).trans (congrArg s.slot hcur)]

end

/-- A begun shoot-down waits for its accesses. -/
theorem tlbsd_stalls {ids : List Nat} (hk : (here s).shoot = some (k, ids)) (h : ∃ b ∈ s.flight, b.id ∈ ids) :
    exec (.tlbsd a) s = .next s := by
  obtain ⟨b, hb, hid⟩ := h
  have hopen : stillOpen s ids = true := List.any_eq_true.mpr ⟨b, hb, List.contains_iff_mem.mpr hid⟩
  change execTlbsd a s = _
  unfold execTlbsd endShoot
  rw [hk]
  dsimp only
  rw [hopen]
  rfl

/-- The state in which a shoot-down has ended. -/
def shootEnded (s : State) (k : Shoot) : State :=
  count (done (shootL1 s k) { here s with shoot := none }) (cellPerf (home s)) 2 1

theorem exec_tlbsd_ends {ids : List Nat} (hk : (here s).shoot = some (k, ids)) (h : ∀ b ∈ s.flight, b.id ∉ ids) :
    exec (.tlbsd a) s = .next (shootEnded s k) := by
  have hopen : stillOpen s ids = false := by
    rw [stillOpen, List.any_eq_false]
    exact fun b hb hc => h b hb (List.contains_iff_mem.mp hc)
  change execTlbsd a s = _
  unfold execTlbsd endShoot
  rw [hk]
  dsimp only
  rw [hopen]
  rfl

/-- A dropped cache holds no line that the test names. -/
theorem drop_line {c : Core} {p : L1Line → Bool} {st : Nat × L1Set} (hst : st ∈ (L1.drop c p).l1) {l : L1Line}
    (hl : some l ∈ st.2.ways) : p l = false := by
  obtain ⟨q, -, rfl⟩ := List.mem_map.mp hst
  obtain ⟨o, -, ho⟩ := List.mem_map.mp hl
  cases o with
  | none => cases ho
  | some x =>
    dsimp only at ho
    split at ho
    next => cases ho
    next hp => cases ho; exact Bool.eq_false_iff.mpr hp

theorem shootEnded_lines {q : Nat × Core} (hq : q ∈ (shootEnded s k).cores) (hd : s.holdsDie k.part (dieOf (q.1 / 4)) = true)
    {st : Nat × L1Set} (hst : st ∈ q.2.l1) {l : L1Line} (hl : some l ∈ st.2.ways) : k.hits l.asid (128 * l.va) 128 = false := by
  rw [shootEnded, count_cores] at hq
  obtain ⟨r, -, rfl⟩ := List.mem_map.mp hq
  by_cases hr : s.holdsDie k.part (dieOf (r.1 / 4)) = true
  · rw [if_pos hr] at hst
    exact drop_line hst hl
  · rw [if_neg hr] at hd
    exact absurd hd hr

theorem shootEnded_frame (s : State) (k : Shoot) : SameBytes s (shootEnded s k) ∧ OtherSlots s (shootEnded s k) ∧
    here (shootEnded s k) = { (here s).next with shoot := none } := by
  refine ⟨sameBytes_of_eq (count_phys ..) (count_cells ..) (count_commons ..), fun j hj => ?_, ?_⟩
  · rw [shootEnded, count_slot]
    exact State.slot_setSlot_ne _ _ hj
  · rw [shootEnded, here, count_slot, count_cur]
    exact State.slot_setSlot_same _ _ _

end

/-! ### The wheel sets (R163-R165, R318) -/

theorem wctl_apart (s : State) : wctlOff (dieOf (home s)) / 0x100 ≠ cellPerf (home s) / 0x100 := by
  unfold wctlOff cellPerf dieBase cellIx
  omega

/-- A set's registers are no counters. -/
theorem inactiveSet_apart (s u : State) {o : Nat} (ho : o ≤ 0x400) :
    (inactiveSet u (dieOf (home s)) + o) / 0x100 ≠ cellPerf (home s) / 0x100 := by
  have hbit : bits (u.reg (dieBase (dieOf (home s)) + 0x2000)) 0 0 < 2 := Nat.mod_lt _ (by decide)
  unfold inactiveSet cellPerf dieBase cellIx at *
  omega

theorem wctl_at (t : State) (c : Nat) : wctl { t with cur := c } = t.reg (wctlOff (dieOf (cellOfSlot c))) := rfl

/-- WCTL of the issuing slot's die, once the slot has gone on. -/
theorem wctl_wentOn (s u : State) : wctl { wentOn s u with cur := s.cur } = u.reg (wctlOff (dieOf (home s))) := by
  rw [wctl_at, wentOn_reg s u (wctl_apart s)]

section
variable (s : State) (set v : Nat)

theorem loadSet_eq : ∃ m, loadSet s set v = { s with regs := m } := by
  unfold loadSet
  obtain ⟨m, hm⟩ := setReg_foldl (fun i => set + 8 * i) (fun i => wrap64 (lane 64 v i)) (List.range 64) s
  obtain ⟨n, hn⟩ := setReg_foldl (fun i => set + 0x200 + 8 * i) (fun i => wrap64 (lane 64 v (64 + i)) &&& 0x3F#64) (List.range 64)
    { s with regs := m }
  dsimp only at hm hn ⊢
  rw [hm, hn]
  exact ⟨_, rfl⟩

theorem loadSet_outer {i : Nat} (hi : i < 64) : (loadSet s set v).reg (set + 8 * i) = BitVec.ofNat 64 (v / 2 ^ (64 * i)) := by
  have hapart : ∀ j ∈ List.range 64, set + 8 * i ≠ set + 0x200 + 8 * j := fun j _ => by omega
  unfold loadSet
  rw [State.reg_setReg_ne _ _ (by omega), reg_setReg_foldl _ hapart,
    reg_setReg_foldl_mem (f := fun i => set + 8 * i) _ (List.mem_range.mpr hi) (fun j _ h => by omega), wrap64_lane, rec64]

theorem loadSet_inner {i : Nat} (hi : i < 64) :
    (loadSet s set v).reg (set + 0x200 + 8 * i) = BitVec.ofNat 64 (v / 2 ^ (64 * (64 + i))) &&& 0x3F#64 := by
  unfold loadSet
  rw [State.reg_setReg_ne _ _ (by omega),
    reg_setReg_foldl_mem (f := fun i => set + 0x200 + 8 * i) _ (List.mem_range.mpr hi) (fun j _ h => by omega),
    wrap64_lane, rec64]

theorem loadSet_lengths : (loadSet s set v).reg (set + 0x400) = BitVec.ofNat 64 (v / 2 ^ (64 * 128)) &&& 0x3F3F#64 := by
  rw [loadSet, State.reg_setReg_same, wrap64_lane, rec64]

end

theorem exec_wheelLoad {s u : State} {a : BitVec 6} {v : Nat} (hy : s.levelY s.cur = true) (hr : Readable (here s) a)
    (hl : LowerEight ((here s).sval a.toNat)) (hf : Fetches s ((here s).sval a.toNat) 1032 v u) (hcur : u.cur = s.cur)
    (hd : (wctl u).getLsbD 1 = false) :
    exec (.wheelLoad a) s = .next (wentOn s (loadSet u (inactiveSet u (dieOf (home s))) v)) := by
  change execWheelLoad a s = _
  unfold execWheelLoad
  refine (congrArg (finish s) (descriptor_read hy hr hl hf (.wheelLoad a) _)).trans ?_
  rw [soundS_single hr, res_ok_bind]
  have hd' : (u.reg (wctlOff (dieOf (cellOfSlot u.cur)))).getLsbD 1 = false := hd
  dsimp only
  rw [hd', if_neg Bool.false_ne_true, hcur]
  rfl

/-- The state that `wheel.arm` leaves, the completion aside. -/
def armed (s : State) (d : Nat) : State :=
  if armOk s d (inactiveSet s d) then s.setReg (wctlOff d) (setBit (s.reg (wctlOff d)) 1 true)
  else wheelBad (s.setReg (wctlOff d) (setBit (s.reg (wctlOff d)) 1 false)) d

/-- The state that `wheel.swap` leaves, the completion aside. -/
def swapAsked (s : State) (d : Nat) : State :=
  if (s.reg (wctlOff d)).getLsbD 1 then
    let t := (FMap.find? s.swapAt d).getD (s.fcyc d + 1)
    ({ s.setReg (wctlOff d) (setBit (s.reg (wctlOff d)) 2 true) with swapAt := FMap.put s.swapAt d t } : State).pushE
      (.turnBoundary d (boundaryFrom s d t))
  else wheelBad s d

theorem armed_frame (s : State) (d : Nat) : (armed s d).cur = s.cur ∧ (armed s d).slots = s.slots ∧ SameBytes s (armed s d) := by
  unfold armed
  split
  · exact ⟨rfl, rfl, sameBytes_of_eq rfl rfl rfl⟩
  · exact ⟨rfl, rfl, sameBytes_of_eq rfl rfl rfl⟩

theorem swapAsked_frame (s : State) (d : Nat) :
    (swapAsked s d).cur = s.cur ∧ (swapAsked s d).slots = s.slots ∧ SameBytes s (swapAsked s d) := by
  unfold swapAsked
  split
  · exact ⟨rfl, rfl, sameBytes_of_eq rfl rfl rfl⟩
  · exact ⟨rfl, rfl, sameBytes_of_eq rfl rfl rfl⟩

theorem exec_wheelArm {s : State} (hy : s.levelY s.cur = true) :
    exec .wheelArm s = .next (wentOn s (armed s (dieOf (home s)))) := by
  change execWheelArm s = _
  unfold execWheelArm
  rw [levelYOnly_ok hy]
  rfl

theorem exec_wheelSwap {s : State} (hy : s.levelY s.cur = true) :
    exec .wheelSwap s = .next (wentOn s (swapAsked s (dieOf (home s)))) := by
  change execWheelSwap s = _
  unfold execWheelSwap
  rw [levelYOnly_ok hy]
  rfl

theorem reg_wheelBad (s : State) (d : Nat) : (wheelBad s d).reg (wctlOff d) = s.reg (wctlOff d) ||| 8#64 :=
  State.reg_setReg_same s _ _

theorem armed_passes {s : State} {d : Nat} (h : armOk s d (inactiveSet s d) = true) :
    (armed s d).reg (wctlOff d) = s.reg (wctlOff d) ||| 2#64 := by
  rw [armed, if_pos h]
  exact State.reg_setReg_same s _ _

theorem armed_fails {s : State} {d : Nat} (h : armOk s d (inactiveSet s d) = false) :
    (armed s d).reg (wctlOff d) = s.reg (wctlOff d) &&& ~~~2#64 ||| 8#64 := by
  rw [armed, h, if_neg Bool.false_ne_true, reg_wheelBad, State.reg_setReg_same]
  rfl

theorem swapAsked_armed {s : State} {d : Nat} (h : (s.reg (wctlOff d)).getLsbD 1 = true) :
    (swapAsked s d).reg (wctlOff d) = s.reg (wctlOff d) ||| 4#64 := by
  rw [swapAsked, if_pos h]
  exact State.reg_setReg_same s _ _

theorem swapAsked_unarmed {s : State} {d : Nat} (h : (s.reg (wctlOff d)).getLsbD 1 = false) :
    (swapAsked s d).reg (wctlOff d) = s.reg (wctlOff d) ||| 8#64 := by
  rw [swapAsked, h, if_neg Bool.false_ne_true, reg_wheelBad]

/-- Settles O30: the two halves of a shoot-down, then the wheel instructions by the registers that each leaves. -/
theorem systemTables : Obligations.SystemTables := by
  refine ⟨⟨fun s u a v k hn hy hr hl hf hcur hslot hk hp => ?_, fun s a k ids hk => ⟨fun h => ?_, fun h => ?_⟩⟩,
    fun s u a v hy hr hl hf hcur hslot hd => ?_, fun s hy => ?_, fun s hy => ?_⟩
  · exact ⟨_, exec_tlbsd_begins hn hy hr hl hf hk hp, shotDown_otherSlots hcur hslot,
      fun e he => shoot_tlb (shotDown_tlb s u k ▸ he), shotDown_quiet hcur hslot, shotDown_open hcur hslot⟩
  · exact ⟨s, tlbsd_stalls hk h, ⟨rfl, fun _ _ => rfl, fun _ _ => rfl⟩, rfl⟩
  · obtain ⟨hbytes, hother, hhere⟩ := shootEnded_frame s k
    exact ⟨_, exec_tlbsd_ends hk h, hbytes, hother, hhere, fun q hq hd st hst l hl => shootEnded_lines hq hd hst hl⟩
  · obtain ⟨m, hm⟩ := loadSet_eq u (inactiveSet u (dieOf (home s))) v
    have hcur' : (loadSet u (inactiveSet u (dieOf (home s))) v).cur = s.cur := by rw [hm]; exact hcur
    have hslot' (j : Nat) : (loadSet u (inactiveSet u (dieOf (home s))) v).slot j = s.slot j := by rw [hm]; exact hslot j
    refine ⟨_, exec_wheelLoad hy hr hl hf hcur hd, wentOn_here hcur' hslot', wentOn_otherSlots hcur' hslot', fun i hi => ⟨?_, ?_⟩, ?_⟩
    · rw [wentOn_reg s _ (inactiveSet_apart s u (by omega)), loadSet_outer _ _ _ hi]
    · rw [wentOn_reg s _ (Nat.add_assoc .. ▸ inactiveSet_apart s u (by omega)), loadSet_inner _ _ _ hi]
    · rw [wentOn_reg s _ (inactiveSet_apart s u (by omega)), loadSet_lengths]
  · obtain ⟨hcur, hslots, hbytes⟩ := armed_frame s (dieOf (home s))
    have hslot (j : Nat) : (armed s (dieOf (home s))).slot j = s.slot j := congrArg (FMap.get Slot.init · j) hslots
    exact ⟨_, exec_wheelArm hy, wentOn_here hcur hslot, wentOn_sameBytes hbytes, wentOn_otherSlots hcur hslot,
      fun h => (wctl_wentOn s _).trans (armed_passes h), fun h => (wctl_wentOn s _).trans (armed_fails h)⟩
  · obtain ⟨hcur, hslots, hbytes⟩ := swapAsked_frame s (dieOf (home s))
    have hslot (j : Nat) : (swapAsked s (dieOf (home s))).slot j = s.slot j := congrArg (FMap.get Slot.init · j) hslots
    exact ⟨_, exec_wheelSwap hy, wentOn_here hcur hslot, wentOn_sameBytes hbytes, wentOn_otherSlots hcur hslot,
      fun h => (wctl_wentOn s _).trans (swapAsked_armed h), fun h => (wctl_wentOn s _).trans (swapAsked_unarmed h)⟩

end Sys2Proof.Machine
end
section
/-! O40: what a pairing of the local wheel does with the access, or the unit, that it serves. -/

namespace Sys2Proof.Machine
open Claims

/-! ### What reads of local memories depend on (R90, R311) -/

/-- Every local memory holds the bytes that it held, under the pair entries that it had. -/
def SameLocal (s t : State) : Prop := ∀ c, (t.cell c).mem = (s.cell c).mem ∧ (t.cell c).pairs = (s.cell c).pairs

theorem sameLocal_trans {s t u : State} (h : SameLocal s t) (k : SameLocal t u) : SameLocal s u := fun c =>
  ⟨(k c).1.trans (h c).1, (k c).2.trans (h c).2⟩

theorem sameLocal_of_cells {s t : State} (h : t.cells = s.cells) : SameLocal s t := fun c => by
  unfold State.cell
  rw [h]
  exact ⟨rfl, rfl⟩

theorem sameLocal_modCell (s : State) (cell : Nat) {f : Cell → Cell} (hm : ∀ c, (f c).mem = c.mem) (hp : ∀ c, (f c).pairs = c.pairs) :
    SameLocal s (s.modCell cell f) := fun c => by
  by_cases h : c = cell
  · rw [h, State.modCell_eq, State.cell_setCell_same]
    exact ⟨hm _, hp _⟩
  · rw [State.modCell_eq, State.cell_setCell_ne _ _ h]
    exact ⟨rfl, rfl⟩

theorem localRead_congr {s t : State} (h : SameLocal s t) (cell o n : Nat) : localRead t cell o n = localRead s cell o n := by
  unfold localRead Loc.readN
  rw [(h cell).1, Loc.mapOff_congr (h cell).2]

theorem localStored_then {s t u : State} {cell o n v : Nat} (h : LocalStored s t cell o n v) (k : SameLocal t u) :
    LocalStored s u cell o n v := by
  refine ⟨(localRead_congr k cell o n).trans h.1, fun c b hb => ?_⟩
  rw [(k c).1]
  exact h.2 c b hb

theorem storedAt_of_local {s t : State} {cell o n v : Nat} (h : LocalStored s t cell o n v) (hp : t.phys = s.phys)
    (hm : t.commons = s.commons) : StoredAt s t cell o n v := ⟨h.1, h.2, hp, hm⟩

/-! ### A write in a frame of class general (R171) -/

theorem localWrite_eq (s : State) (cell o n v : Nat) : ∃ m es, localWrite s cell o n v = { s with cells := m, errs := es } := by
  unfold localWrite forgetRows
  dsimp only
  split
  · exact ⟨_, _, rfl⟩
  · exact ⟨_, _, rfl⟩

theorem cell_localWrite_ne (s : State) {cell c : Nat} (o n v : Nat) (h : c ≠ cell) : (localWrite s cell o n v).cell c = s.cell c := by
  change ((forgetRows s cell o).modCell cell (fun c => Loc.write c o (toBytes n v))).cell c = _
  rw [State.modCell_eq, State.cell_setCell_ne _ _ h]
  unfold State.cell
  rw [forgetRows_cells]

section
variable {s : State} {cell o : Nat} (n v : Nat) (hg : (Loc.entry (s.cell cell) (realOff s cell o / 1024)).cls = .general)
include hg

theorem localStored_localWrite (hwf : Memory.wf (s.cell cell).mem = true) : LocalStored s (localWrite s cell o n v) cell o n v := by
  obtain ⟨wmem, wpairs, -, -⟩ := Loc.write_general n v hg
  refine ⟨?_, fun c b hb => ?_⟩
  · unfold localRead Loc.readN
    rw [cell_localWrite, wmem, Loc.mapOff_congr wpairs, Memory.readN_writeN _ _ _ hwf]
  · by_cases h : c = cell
    · rw [h, cell_localWrite, wmem, Memory.read_writeN_outside _ _ (hb.resolve_left (not_not.mpr h))]
    · rw [cell_localWrite_ne _ _ _ _ h]

theorem storedAt_localWrite (hwf : Memory.wf (s.cell cell).mem = true) : StoredAt s (localWrite s cell o n v) cell o n v := by
  obtain ⟨m, es, h⟩ := localWrite_eq s cell o n v
  exact storedAt_of_local (localStored_localWrite n v hg hwf) (by rw [h]) (by rw [h])

theorem fullAt_localWrite : fullAt (localWrite s cell o n v) cell o = fullAt s cell o := by
  obtain ⟨-, wpairs, wfe, wcls⟩ := Loc.write_general n v hg
  have woff := Loc.mapOff_congr wpairs o
  unfold fullAt
  rw [cell_localWrite, Loc.full_general (by rw [woff]; exact wcls), Loc.full_general hg, woff, wfe]

end

/-! ### F of a word (R172, R280) -/

/-- The state after a thread has filled or emptied a word. -/
def wordSet (s : State) (cell o : Nat) (b : Bool) : State := forgetJoin (setWordFull s cell o b) cell o

theorem wordSet_eq (s : State) (cell o : Nat) (b : Bool) : ∃ m, wordSet s cell o b = { s with cells := m } := ⟨_, rfl⟩

theorem sameLocal_wordSet (s : State) (cell o : Nat) (b : Bool) : SameLocal s (wordSet s cell o b) :=
  sameLocal_trans (t := setWordFull s cell o b) (sameLocal_modCell s cell (f := fun c => Loc.setFull c o b) (fun _ => rfl) (fun _ => rfl))
    (sameLocal_modCell (setWordFull s cell o b) cell
      (f := fun c => { c with joined := c.joined.filter (· ≠ Loc.wordAt c o) }) (fun _ => rfl) (fun _ => rfl))

theorem sameBytes_wordSet (s : State) (cell o : Nat) (b : Bool) : SameBytes s (wordSet s cell o b) :=
  sameBytes_of_mem rfl (fun c => (sameLocal_wordSet s cell o b c).1) rfl

theorem full_setFull_false {c : Cell} {o : Nat} (h : (Loc.entry c (Loc.mapOff c o / 1024)).cls = .general) :
    Loc.full (Loc.setFull c o false) o = false := by
  rw [Loc.full_general (c := Loc.setFull c o false) h]
  exact FMap.get_put_same _ _ _ _

theorem fullAt_wordSet {s : State} {cell o : Nat} (b : Bool) (hfe : FMap.wf (s.cell cell).fe = true)
    (hg : (Loc.entry (s.cell cell) (realOff s cell o / 1024)).cls = .general) : fullAt (wordSet s cell o b) cell o = b := by
  have hcell : (wordSet s cell o b).cell cell = { Loc.setFull (s.cell cell) o b with
      joined := ((setWordFull s cell o b).cell cell).joined.filter (· ≠ Loc.wordAt ((setWordFull s cell o b).cell cell) o) } := by
    unfold wordSet forgetJoin
    rw [State.modCell_eq, State.cell_setCell_same, setWordFull, State.modCell_eq, State.cell_setCell_same]
  unfold fullAt
  rw [hcell]
  cases b with
  | false => exact full_setFull_false hg
  | true => exact Loc.full_setFull_true hfe hg

/-! ### Each operation at a local memory (R90, R280, R283-R285) -/

/-- What an operation at an offset of a cell's local memory does, with its answer: the table of R280, and R283, R285. -/
def LocalEffect (s u : State) (cell o : Nat) (r : Reply) : MemOp → Prop
  | .load n _ => r = .value (localRead s cell o n) ∧ SameBytes s u ∧ fullAt u cell o = fullAt s cell o
  | .store n v => r = .done ∧ StoredAt s u cell o n v ∧ fullAt u cell o = fullAt s cell o
  | .lds => SameBytes s u ∧ fullAt u cell o = false ∧ r = if fullAt s cell o then .value (localRead s cell o 8) else .refused
  | .ldw => SameBytes s u ∧ fullAt u cell o = fullAt s cell o ∧
      r = if fullAt s cell o then .value (localRead s cell o 8) else .refused
  | .sts v => fullAt u cell o = true ∧ (fullAt s cell o = true → r = .refused ∧ SameBytes s u) ∧
      (fullAt s cell o = false → r = .done ∧ StoredAt s u cell o 8 v)
  | .fefill v => r = .done ∧ StoredAt s u cell o 8 v ∧ fullAt u cell o = true
  | .feempty => r = .done ∧ SameBytes s u ∧ fullAt u cell o = false
  | .feq => r = .value (fullAt s cell o).toNat ∧ SameBytes s u ∧ fullAt u cell o = fullAt s cell o
  | .amo f n v => v < 2 ^ (8 * n) → r = .value (localRead s cell o n) ∧ StoredAt s u cell o n (amoOf n (localRead s cell o n) v f)
  | .cas n e w => r = .value (localRead s cell o n) ∧ (localRead s cell o n = e → StoredAt s u cell o n w) ∧
      (localRead s cell o n ≠ e → SameBytes s u)
  | _ => True

/-- The effect is read off the memories alone. -/
theorem localEffect_congr {s t u : State} {cell o : Nat} {r : Reply} {op : MemOp} (h : LocalEffect s t cell o r op)
    (hp : u.phys = t.phys) (hc : u.cells = t.cells) (hm : u.commons = t.commons) : LocalEffect s u cell o r op := by
  have hcell (c : Nat) : u.cell c = t.cell c := congrArg (FMap.get Cell.init · c) hc
  have hbytes (h : SameBytes s t) : SameBytes s u := sameBytes_trans h (sameBytes_of_eq hp hc hm)
  have hfull : fullAt u cell o = fullAt t cell o := congrArg (Loc.full · o) (hcell cell)
  have hstored {n v : Nat} (h : StoredAt s t cell o n v) : StoredAt s u cell o n v := by
    obtain ⟨hread, hother, hphys, hcommons⟩ := h
    exact storedAt_of_local (localStored_then ⟨hread, hother⟩ (sameLocal_of_cells hc)) (hp.trans hphys) (hm.trans hcommons)
  cases op with
  | load n e => exact ⟨h.1, hbytes h.2.1, hfull.trans h.2.2⟩
  | store n v => exact ⟨h.1, hstored h.2.1, hfull.trans h.2.2⟩
  | lds => exact ⟨hbytes h.1, hfull.trans h.2.1, h.2.2⟩
  | ldw => exact ⟨hbytes h.1, hfull.trans h.2.1, h.2.2⟩
  | sts v => exact ⟨hfull.trans h.1, fun k => ⟨(h.2.1 k).1, hbytes (h.2.1 k).2⟩, fun k => ⟨(h.2.2 k).1, hstored (h.2.2 k).2⟩⟩
  | fefill v => exact ⟨h.1, hstored h.2.1, hfull.trans h.2.2⟩
  | feempty => exact ⟨h.1, hbytes h.2.1, hfull.trans h.2.2⟩
  | feq => exact ⟨h.1, hbytes h.2.1, hfull.trans h.2.2⟩
  | amo f n v => exact fun hv => ⟨(h hv).1, hstored (h hv).2⟩
  | cas n e w => exact ⟨h.1, fun k => hstored (h.2.1 k), fun k => hbytes (h.2.2 k)⟩
  | lineRd => trivial
  | lineCst n d c => trivial

/-- What an atomic writes, cut to its size. -/
theorem amoNew_mod (op : AmoOp) (n old v : Nat) : amoNew op n old v % 2 ^ (8 * n) = amoOf n old v op % 2 ^ (8 * n) := by
  cases op with
  | add => exact Nat.mod_mod _ _
  | min => simp only [amoNew, amoOf, signedN_toInt]
  | max => simp only [amoNew, amoOf, signedN_toInt, ge_iff_le]
  | and => rfl
  | or => rfl
  | xor => rfl
  | minu => rfl
  | maxu => rfl
  | swap => rfl
  | fadd => rfl

theorem storedAt_mod {s u : State} {cell o n v w : Nat} (h : StoredAt s u cell o n v) (hv : v % 2 ^ (8 * n) = w % 2 ^ (8 * n)) :
    StoredAt s u cell o n w := ⟨h.1.trans hv, h.2⟩

section
variable {s : State} {cell o : Nat}

theorem entryErr_of_localErr {n : Nat} (h : localErr s cell o n = false) : entryErr s cell o = false := (Bool.or_eq_false_iff.mp h).1

theorem performLocal_sound (h : entryErr s cell o = false) {op : MemOp} {r : Reply × State}
    (hr : performLocal s cell o op = if entryErr s cell o then (.machine, s) else r) : performLocal s cell o op = r := by
  rw [hr, h, if_neg Bool.false_ne_true]

/-- An operation that is accepted does what its rule says. -/
theorem performLocal_effect {op : MemOp} (hp : PlainAt s cell o op.size) (ha : refusedBy s cell o op = false) :
    LocalEffect s (performLocal s cell o op).2 cell o (performLocal s cell o op).1 op := by
  obtain ⟨-, -, hg, herr, hwf, hfe⟩ := hp
  have same : SameBytes s s := sameBytes_of_eq rfl rfl rfl
  have hent := entryErr_of_localErr herr
  have filled (v : Nat) : StoredAt s (wordSet (localWrite s cell o 8 v) cell o true) cell o 8 v ∧
      fullAt (wordSet (localWrite s cell o 8 v) cell o true) cell o = true := by
    obtain ⟨-, wpairs, wfe, wcls⟩ := Loc.write_general 8 v hg
    obtain ⟨hread, hother, hphys, hcommons⟩ := storedAt_localWrite 8 v hg hwf
    refine ⟨storedAt_of_local (localStored_then ⟨hread, hother⟩ (sameLocal_wordSet _ cell o true)) hphys hcommons, fullAt_wordSet true ?_ ?_⟩
    · rw [cell_localWrite, wfe]
      exact hfe
    · unfold realOff
      rw [cell_localWrite, Loc.mapOff_congr wpairs]
      exact wcls
  cases op with
  | load n e =>
    rw [performLocal_sound hent (r := (.value (localRead s cell o n), s)) (by simp [performLocal, show localErr s cell o n = false from herr])]
    exact ⟨rfl, same, rfl⟩
  | store n v =>
    rw [performLocal_sound hent (r := (.done, localWrite s cell o n v)) rfl]
    exact ⟨rfl, storedAt_localWrite n v hg hwf, fullAt_localWrite n v hg⟩
  | lds =>
    have hfull : fullAt s cell o = true := by simpa [refusedBy] using ha
    rw [performLocal_sound hent (r := (.value (localRead s cell o 8), wordSet s cell o false))
      (by simp [performLocal, wordSet, hfull, show localErr s cell o 8 = false from herr])]
    exact ⟨sameBytes_wordSet .., fullAt_wordSet false hfe hg, by rw [hfull]; rfl⟩
  | ldw =>
    have hfull : fullAt s cell o = true := by simpa [refusedBy] using ha
    rw [performLocal_sound hent (r := (.value (localRead s cell o 8), s))
      (by simp [performLocal, hfull, show localErr s cell o 8 = false from herr])]
    exact ⟨same, rfl, by rw [hfull]; rfl⟩
  | sts v =>
    have hempty : fullAt s cell o = false := ha
    rw [performLocal_sound hent (r := (.done, wordSet (localWrite s cell o 8 v) cell o true)) (by simp [performLocal, wordSet, hempty])]
    exact ⟨(filled v).2, fun h => absurd (hempty.symm.trans h) Bool.false_ne_true, fun _ => ⟨rfl, (filled v).1⟩⟩
  | fefill v =>
    rw [performLocal_sound hent (r := (.done, wordSet (localWrite s cell o 8 v) cell o true)) rfl]
    exact ⟨rfl, filled v⟩
  | feempty =>
    rw [performLocal_sound hent (r := (.done, wordSet s cell o false)) rfl]
    exact ⟨rfl, sameBytes_wordSet .., fullAt_wordSet false hfe hg⟩
  | feq =>
    rw [performLocal_sound hent (r := (.value (fullAt s cell o).toNat, s)) rfl]
    exact ⟨rfl, same, rfl⟩
  | amo f n v =>
    rw [performLocal_sound hent (r := (.value (localRead s cell o n), localWrite s cell o n (amoNew f n (localRead s cell o n) v)))
      (by simp [performLocal, show localErr s cell o n = false from herr])]
    exact fun _ => ⟨rfl, storedAt_mod (storedAt_localWrite n _ hg hwf) (amoNew_mod ..)⟩
  | cas n e w =>
    rw [performLocal_sound hent (r := (.value (localRead s cell o n), if localRead s cell o n = e then localWrite s cell o n w else s))
      (by simp [performLocal, show localErr s cell o n = false from herr])]
    refine ⟨rfl, fun h => ?_, fun h => ?_⟩
    · rw [if_pos h]
      exact storedAt_localWrite n w hg hwf
    · rw [if_neg h]
      exact same
  | lineRd => trivial
  | lineCst n d c => trivial

/-- A refused operation performs nothing (R281). -/
theorem refused_effect {op : MemOp} (h : refusedBy s cell o op = true) : LocalEffect s s cell o .refused op := by
  have same : SameBytes s s := sameBytes_of_eq rfl rfl rfl
  cases op with
  | lds =>
    have hempty : fullAt s cell o = false := by simpa [refusedBy] using h
    exact ⟨same, hempty, by rw [hempty]; rfl⟩
  | ldw =>
    have hempty : fullAt s cell o = false := by simpa [refusedBy] using h
    exact ⟨same, rfl, by rw [hempty]; rfl⟩
  | sts v =>
    have hfull : fullAt s cell o = true := h
    exact ⟨hfull, fun _ => ⟨rfl, same⟩, fun h => absurd (hfull.symm.trans h) (by decide)⟩
  | load n e => cases h
  | store n v => cases h
  | fefill v => cases h
  | feempty => cases h
  | feq => cases h
  | amo f n v => cases h
  | cas n e w => cases h
  | lineRd => trivial
  | lineCst n d c => trivial

theorem performLocal_eq (s : State) (cell o : Nat) (op : MemOp) :
    ∃ m es, (performLocal s cell o op).2 = { s with cells := m, errs := es } := by
  have same : ∃ m es, s = { s with cells := m, errs := es } := ⟨s.cells, s.errs, rfl⟩
  have write (n v : Nat) := localWrite_eq s cell o n v
  have set (n v : Nat) (b : Bool) : ∃ m es, wordSet (localWrite s cell o n v) cell o b = { s with cells := m, errs := es } := by
    obtain ⟨m, es, h⟩ := write n v
    exact ⟨_, es, by rw [h]; rfl⟩
  unfold performLocal
  dsimp only
  split
  · exact same
  · cases op with
    | load n e => dsimp only; split <;> exact same
    | store n v => exact write n v
    | lds =>
      dsimp only
      split
      · exact same
      · split
        · exact same
        · exact ⟨_, s.errs, rfl⟩
    | ldw =>
      dsimp only
      split
      · exact same
      · split <;> exact same
    | sts v =>
      dsimp only
      split
      · exact same
      · exact set 8 v true
    | fefill v => exact set 8 v true
    | feempty => exact ⟨_, s.errs, rfl⟩
    | feq => exact same
    | amo f n v =>
      dsimp only
      split
      · exact same
      · exact write n _
    | cas n e w =>
      dsimp only
      split
      · exact same
      · dsimp only
        split
        · exact write n w
        · exact same
    | lineRd => exact same
    | lineCst n d c => exact same

end

/-! ### Which access a position serves (R90, R91) -/

section
variable {s : State} {cell pos t : Nat}

theorem exec_localPairing_access {a : Access} (h : ServesNow s cell pos t a) :
    exec (.localPairing cell pos t) s = .next (serveLocal s cell a) := by
  obtain ⟨hclk, hpos, hfirst, hport⟩ := h
  have hunit : (decide (6 ≤ pos) && decide (pos < 14)) = false := by
    rw [Bool.and_eq_false_iff, decide_eq_false_iff_not, decide_eq_false_iff_not]
    omega
  have hserve : serveFirst s cell (some a) (firstEntered (if 14 ≤ pos then portUnitsAt s cell ((pos + t) % 16) else [])) =
      some (serveLocal s cell a) := by
    by_cases h14 : 14 ≤ pos
    · rw [if_pos h14]
      cases hu : firstEntered (portUnitsAt s cell ((pos + t) % 16)) with
      | none => rfl
      | some u => exact congrArg some (if_pos (hport h14 u hu))
    · rw [if_neg h14]
      rfl
  change execLocalPairing cell pos t s = _
  unfold execLocalPairing whenRunning
  dsimp only
  rw [hclk, hunit, hfirst, hserve]
  rfl

theorem exec_localPairing_unit {u : PortUnit} (h : ServesUnit s cell pos t u) :
    exec (.localPairing cell pos t) s = .next (servePort s u) := by
  obtain ⟨hclk, hpos, hfirst, hacc⟩ := h
  have hunit : (decide (6 ≤ pos) && decide (pos < 14)) = false := by
    rw [Bool.and_eq_false_iff, decide_eq_false_iff_not, decide_eq_false_iff_not]
    omega
  change execLocalPairing cell pos t s = _
  unfold execLocalPairing whenRunning
  dsimp only
  rw [hclk, hunit, if_pos hpos, hfirst]
  cases ha : firstIn ((s.flight.filter (fun b => atPosition cell pos b && localBank s cell b = (pos + t) % 16)).filter
      (fun b => !localWaits s b)) with
  | none => rfl
  | some a =>
    have hlate : ¬ a.entered < u.entered.getD 0 := Nat.not_lt.mpr (hacc a ha)
    simp [serveFirst, hlate]

theorem servesNow_mem {a : Access} (h : ServesNow s cell pos t a) : a ∈ s.flight :=
  List.mem_of_mem_filter (List.mem_of_mem_filter (firstIn_mem h.2.2.1))

theorem servesUnit_spot {u : PortUnit} (h : ServesUnit s cell pos t u) : u.spot.commons = false ∧ u.spot.cell = cell := by
  have hm := (List.mem_filter.mp (firstEntered_mem h.2.2.1)).2
  simp only [Bool.and_eq_true, Bool.not_eq_true', decide_eq_true_eq] at hm
  exact ⟨hm.1.1.1, hm.1.2⟩

end

/-! ### The access of an instruction -/

/-- What an operation leaves, with what its acquire comes to (R125, R131). -/
def localServed (s : State) (cell : Nat) (a : Access) (u : State) : State :=
  if joinRead s cell a then selfInvalidate u (dieOf a.cell) else acquired u a

theorem localServed_keeps (s : State) (cell : Nat) (a : Access) (u : State) : (localServed s cell a u).phys = u.phys ∧
    (localServed s cell a u).cells = u.cells ∧ (localServed s cell a u).commons = u.commons ∧
      (localServed s cell a u).flight = u.flight := by
  unfold localServed acquired
  split
  · exact ⟨rfl, rfl, rfl, rfl⟩
  · split <;> exact ⟨rfl, rfl, rfl, rfl⟩

theorem serveLocal_refused {s : State} {cell : Nat} {a : Access} (hb : ∀ c b i, a.src ≠ .blk c b i)
    (hr : refusedBy s cell (localOff a.va) a.op = true) (he : entryErr s cell (localOff a.va) = false) :
    serveLocal s cell a = reply s a .refused := by
  unfold serveLocal
  split
  next c b i hsrc => exact absurd hsrc (hb c b i)
  next => rw [hr, he]; rfl

theorem serveLocal_accepted {s : State} {cell : Nat} {a : Access} (hb : ∀ c b i, a.src ≠ .blk c b i) (hp : a.poison = none)
    (hr : refusedBy s cell (localOff a.va) a.op = false) :
    serveLocal s cell a = reply (localServed s cell a (performLocal s cell (localOff a.va) a.op).2) a
      (performLocal s cell (localOff a.va) a.op).1 := by
  unfold serveLocal
  split
  next c b i hsrc => exact absurd hsrc (hb c b i)
  next => rw [hr, hp]; rfl

/-- The served access of an instruction is answered, and has had its effect. -/
theorem localPairing_access {s : State} {cell pos t : Nat} {a : Access} (h : Meets s cell pos t a)
    (hp : PlainAt s cell (bits a.va 20 0) a.op.size) : ∃ u r, exec (.localPairing cell pos t) s = .next u ∧ Replied u a r ∧
      LocalEffect s u cell (bits a.va 20 0) r a.op := by
  obtain ⟨hserves, hb, hpoison⟩ := h
  have hmem := servesNow_mem hserves
  have hexec := exec_localPairing_access hserves
  obtain ⟨-, -, -, herr, -, -⟩ := id hp
  cases hr : refusedBy s cell (localOff a.va) a.op with
  | true =>
    rw [serveLocal_refused hb hr (entryErr_of_localErr herr)] at hexec
    exact ⟨_, _, hexec, replied_reply hmem _, localEffect_congr (refused_effect hr) rfl rfl rfl⟩
  | false =>
    rw [serveLocal_accepted hb hpoison hr] at hexec
    obtain ⟨hphys, hcells, hcommons, hflight⟩ := localServed_keeps s cell a (performLocal s cell (localOff a.va) a.op).2
    obtain ⟨m, es, hperf⟩ := performLocal_eq s cell (localOff a.va) a.op
    refine ⟨_, _, hexec, replied_reply ?_ _, localEffect_congr (performLocal_effect hp hr) hphys hcells hcommons⟩
    rw [hflight, hperf]
    exact hmem

/-! ### A unit of a copy or of an accumulator transfer (R90) -/

section
variable {s : State} {u : PortUnit} {j : PortJob}

theorem servePort_local (hj : s.jobs.find? (fun k => k.id = u.job) = some j) :
    servePort s u = jobOn (actUnit (unitLeft s u) j u) j := by
  have hjl : (unitLeft s u).jobs.find? (fun k => k.id = u.job) = some j := hj
  unfold unitLeft at hjl ⊢
  simp only [servePort, hjl, jobOn]

theorem units_putLocal (s : State) (owe : FMap Nat) (fmt : Option Nat) (cell o k v : Nat) :
    (putLocal s owe fmt cell o k v).1.units = s.units := by
  have write (t : State) : (localWrite t cell o k v).units = t.units := by
    obtain ⟨m, es, h⟩ := localWrite_eq t cell o k v
    rw [h]
  unfold putLocal
  dsimp only
  split
  · exact write s
  · split <;> exact write _

theorem units_putUnitBytes (s : State) (j : PortJob) (cell o k v : Nat) : (putUnitBytes s j cell o k v).units = s.units := by
  unfold putUnitBytes
  dsimp only
  split <;> exact units_putLocal ..

theorem units_reduceUnit (s : State) (j : PortJob) (cell o n v : Nat) : (reduceUnit s j cell o n v).units = s.units := by
  unfold reduceUnit
  split
  · rfl
  · extract_lets w sb db z
    have hz : z.1.units = s.units :=
      foldl_keeps (p := fun acc : State × FlagBits => acc.1.units = s.units)
        (fun acc i h => (units_putUnitBytes acc.1 j cell _ _ _).trans h) rfl
    split <;> exact hz

theorem units_actUnit (s : State) (j : PortJob) (u : PortUnit) : (actUnit s j u).units = s.units := by
  unfold actUnit
  extract_lets q d pl
  split
  · rfl
  · split
    · exact units_putUnitBytes ..
    · split <;> rfl
  · exact units_reduceUnit ..

theorem jobOn_units (s : State) (j : PortJob) : (jobOn s j).units = s.units := by
  unfold jobOn
  split <;> rfl

theorem servePort_units (hj : s.jobs.find? (fun k => k.id = u.job) = some j) : ∀ v ∈ (servePort s u).units, v.id ≠ u.id := by
  rw [servePort_local hj, jobOn_units, units_actUnit]
  exact fun v hv => of_decide_eq_true (List.mem_filter.mp hv).2

theorem servePort_last (hj : s.jobs.find? (fun k => k.id = u.job) = some j) (hl : ∀ v ∈ s.units, v.job = j.id → v.id = u.id) :
    j.turn ∈ (servePort s u).work := by
  have hclosed : jobOpen (actUnit (unitLeft s u) j u) j.id = false := by
    rw [jobOpen, units_actUnit, List.any_eq_false]
    intro v hv hjob
    obtain ⟨hmem, hne⟩ := List.mem_filter.mp hv
    exact of_decide_eq_true hne (hl v hmem (of_decide_eq_true hjob))
  rw [servePort_local hj, jobOn, hclosed, if_neg Bool.false_ne_true]
  exact List.mem_append_right _ (List.mem_singleton_self _)

variable (hc : u.spot.commons = false)
include hc

/-- A job with what one of its reads of a local memory has brought. -/
def broughtLocal (s : State) (u : PortUnit) (k : PortJob) : PortJob :=
  { k with
    got := FMap.put k.got u.spot.key (localRead s u.spot.cell u.spot.off u.spot.n)
    fail := if localErr s u.spot.cell u.spot.off u.spot.n then worse 5 k.fail else k.fail }

theorem actUnit_local_read (ha : u.act = .read) : actUnit s j u = modJob s j.id (broughtLocal s u) := by
  unfold actUnit
  dsimp only
  rw [ha, hc]
  unfold broughtLocal
  cases localErr s u.spot.cell u.spot.off u.spot.n <;> rfl

theorem actUnit_local_write {v : Nat} (ha : u.act = .write v) (hs : j.serial = none)
    (ho : FMap.find? j.owe (2048 * u.spot.cell + u.spot.off / 1024) = none) :
    actUnit s j u = modJob (localWrite s u.spot.cell u.spot.off u.spot.n v) j.id (fun j' => { j' with owe := j.owe }) := by
  have hput : putLocal s j.owe j.fmt u.spot.cell u.spot.off u.spot.n v =
      (localWrite s u.spot.cell u.spot.off u.spot.n v, j.owe) := by
    unfold putLocal
    dsimp only
    rw [ho]
  unfold actUnit
  dsimp only
  rw [ha, hc]
  dsimp only
  unfold putUnitBytes
  rw [hs, hput]
  rfl

end

theorem worse_le (c : Nat) (o : Option Nat) : ∃ k ≤ c, worse c o = some k := by
  cases o with
  | none => exact ⟨c, le_rfl, rfl⟩
  | some k => exact ⟨min k c, Nat.min_le_right .., rfl⟩

theorem servePort_reads {s : State} {u : PortUnit} {j : PortJob} (hj : s.jobs.find? (fun k => k.id = u.job) = some j)
    (hc : u.spot.commons = false) (ha : u.act = .read) : SameBytes s (servePort s u) ∧
      (servePort s u).jobs.find? (fun k => k.id = u.job) = some (broughtLocal s u j) := by
  have hjl : (unitLeft s u).jobs.find? (fun k => k.id = u.job) = some j := hj
  have hb : broughtLocal (unitLeft s u) u = broughtLocal s u := rfl
  rw [servePort_local hj, actUnit_local_read hc ha, hb, jobOn_jobs]
  exact ⟨sameBytes_of_sameStores (sameStores_jobOn (modJob (unitLeft s u) j.id (broughtLocal s u)) j),
    job_modJob hjl _ (fun _ => rfl)⟩

theorem servePort_writes {s : State} {u : PortUnit} {j : PortJob} {v : Nat} (hj : s.jobs.find? (fun k => k.id = u.job) = some j)
    (hc : u.spot.commons = false) (ha : u.act = .write v) (hf : InFrame s u.spot.cell u.spot.off u.spot.n) (hs : j.serial = none)
    (ho : FMap.find? j.owe (2048 * u.spot.cell + u.spot.off / 1024) = none) :
    StoredAt s (servePort s u) u.spot.cell u.spot.off u.spot.n v := by
  obtain ⟨-, -, hg, hwf⟩ := hf
  obtain ⟨hread, hother, hphys, hcommons⟩ := storedAt_localWrite (s := unitLeft s u) u.spot.n v hg hwf
  rw [servePort_local hj, actUnit_local_write hc ha hs ho]
  obtain ⟨kp, kc, km, -⟩ := sameStores_jobOn (modJob (localWrite (unitLeft s u) u.spot.cell u.spot.off u.spot.n v) j.id
    (fun j' => { j' with owe := j.owe })) j
  exact storedAt_of_local (localStored_then (t := localWrite (unitLeft s u) u.spot.cell u.spot.off u.spot.n v) ⟨hread, hother⟩
    (sameLocal_of_cells kc)) (kp.trans hphys) (km.trans hcommons)

/-! ### The blocks of a core, under what the slices do to its cache (R99, R288) -/

theorem find?_map_keyed {V W : Type} (g : Nat × V → W) (m : FMap V) (a : Nat) :
    FMap.find? (m.map (fun q => (q.1, g q))) a = (FMap.find? m a).map (fun v => g (a, v)) := by
  induction m with
  | nil => rfl
  | cons q m ih =>
    obtain ⟨k, v⟩ := q
    rw [List.map_cons, FMap.find?_cons, FMap.find?_cons, ih]
    by_cases h : a = k
    · rw [if_pos h, if_pos h, h]
      rfl
    · rw [if_neg h, if_neg h]

/-- Every core has the blocks that it had. -/
def SameBlocks (s t : State) : Prop := ∀ k, (t.core k).blocks = (s.core k).blocks

theorem sameBlocks_refl (s : State) : SameBlocks s s := fun _ => rfl

theorem sameBlocks_trans {s t u : State} (h : SameBlocks s t) (k : SameBlocks t u) : SameBlocks s u := fun n => (k n).trans (h n)

theorem sameBlocks_of_cores {s t : State} (h : t.cores = s.cores) : SameBlocks s t := fun k => by
  unfold State.core
  rw [h]

theorem sameBlocks_foldl {α : Type} {f : State → α → State} (hf : ∀ s a, SameBlocks s (f s a)) (l : List α) (s : State) :
    SameBlocks s (l.foldl f s) :=
  foldl_keeps (p := fun t => SameBlocks s t) (fun t a h => sameBlocks_trans h (hf t a)) (sameBlocks_refl s)

theorem sameBlocks_of_map {s t : State} {g : Nat × Core → Core} (hg : ∀ q, (g q).blocks = q.2.blocks)
    (ht : t.cores = s.cores.map (fun q => (q.1, g q))) : SameBlocks s t := fun k => by
  unfold State.core FMap.get
  rw [ht, find?_map_keyed]
  cases FMap.find? s.cores k with
  | none => rfl
  | some c => exact hg (k, c)

theorem sameBlocks_dropL1 (s : State) (d line : Nat) (but : Option Nat) : SameBlocks s (dropL1 s d line but) :=
  sameBlocks_of_map (g := fun q => if dieOf (q.1 / 4) = d && but ≠ some q.1 then L1.drop q.2 (fun l => l.pa = line) else q.2)
    (fun q => by split <;> rfl) (List.map_congr_left fun q _ => by split <;> rfl)

theorem sameBlocks_selfInvalidate (s : State) (d : Nat) : SameBlocks s (selfInvalidate s d) :=
  sameBlocks_of_map (g := fun q => if dieOf (q.1 / 4) = d then L1.drop q.2 (fun l => homeDie _ (128 * l.pa) ≠ d &&
      !s.forwards.any (fun f => f.die = d && lineOf f.pa = l.pa)) else q.2)
    (fun q => by split <;> rfl) (List.map_congr_left fun q _ => by split <;> rfl)

theorem cores_writeMiss (s : State) (d line key : Nat) : (writeMiss s d line key).cores = s.cores := by
  unfold writeMiss
  split <;> rfl

theorem cores_physWriteLine (s : State) (pa n v key : Nat) : (physWriteLine s pa n v key).cores = s.cores := by
  unfold physWriteLine
  extract_lets line t
  have ht : t.cores = s.cores := by
    simp only [t]
    split <;> rfl
  exact ht

theorem sameBlocks_homeWrite (s : State) (pa n v key : Nat) (w : Option Nat) : SameBlocks s (homeWrite s pa n v key w) :=
  sameBlocks_trans (sameBlocks_of_cores (cores_physWriteLine (serialise s (homeDie s pa) (lineOf pa) key) pa n v key))
    (sameBlocks_dropL1 _ _ _ _)

theorem sameBlocks_performForward (s : State) (f : Forward) : SameBlocks s (performForward s f) :=
  sameBlocks_trans (sameBlocks_of_cores ((cores_writeMiss ..).trans (count_cores ..))) (sameBlocks_homeWrite _ _ _ _ _ _)

theorem sameBlocks_flushDie (s : State) (d : Nat) : SameBlocks s (flushDie s d) :=
  sameBlocks_foldl (s := { s with forwards := s.forwards.filter (fun f => f.die ≠ d) }) sameBlocks_performForward _

/-! ### A token that arrives leaves local memories, accesses and blocks (R64, R377) -/

/-- Local memories, accesses in flight and blocks are as they were. -/
def SameServed (s t : State) : Prop := SameLocal s t ∧ t.flight = s.flight ∧ SameBlocks s t

theorem sameServed_trans {s t u : State} (h : SameServed s t) (k : SameServed t u) : SameServed s u :=
  ⟨sameLocal_trans h.1 k.1, k.2.1.trans h.2.1, sameBlocks_trans h.2.2 k.2.2⟩

theorem sameServed_of_eq {s t : State} (hc : t.cells = s.cells) (hf : t.flight = s.flight) (hk : t.cores = s.cores) : SameServed s t :=
  ⟨sameLocal_of_cells hc, hf, sameBlocks_of_cores hk⟩

theorem flight_of_offMemory {s t : State} (h : offMemory t = offMemory s) : t.flight = s.flight :=
  (congrArg State.flight h : (offMemory t).flight = (offMemory s).flight)

theorem sameServed_tokenScope (s : State) (k : Token) : SameServed s (tokenScope s k) := by
  have hoff := offMemory_tokenScope s k
  refine ⟨sameLocal_of_cells (cells_of_offMemory hoff), flight_of_offMemory hoff, ?_⟩
  unfold tokenScope
  dsimp only
  split
  · exact sameBlocks_trans (sameBlocks_flushDie s _) (sameBlocks_selfInvalidate _ _)
  · exact sameBlocks_refl s

theorem sameServed_fillToken (s : State) (k : Token) : SameServed s (fillToken s k) := by
  unfold fillToken
  dsimp only
  split <;> exact sameServed_of_eq rfl rfl rfl

theorem sameServed_tokenArrival (s : State) (k : Token) : SameServed s (tokenArrival s k) := by
  unfold tokenArrival
  split <;> exact sameServed_of_eq rfl rfl rfl

theorem sameServed_dropCopy (s : State) (cell n : Nat) : SameServed s (dropCopy s cell n) :=
  ⟨sameLocal_modCell s cell (f := fun c => { c with copies := c.copies.filter (fun r => r.serial ≠ n) }) (fun _ => rfl) (fun _ => rfl),
    rfl, sameBlocks_of_cores rfl⟩

theorem sameServed_takeToken (s : State) (k : Token) : SameServed s (takeToken s k) := by
  have harrived : SameServed s (tokenArrival (fillToken (tokenTaken s k) k) k) :=
    sameServed_trans (sameServed_of_eq (t := { s with tokens := s.tokens.filter (fun q => q.id ≠ k.id) }) rfl rfl rfl)
      (sameServed_trans (sameServed_tokenScope _ k) (sameServed_trans (sameServed_fillToken ..) (sameServed_tokenArrival ..)))
  unfold takeToken
  dsimp only
  split
  · exact sameServed_trans harrived (sameServed_dropCopy ..)
  · exact harrived

theorem sameServed_serveBlk (s : State) (a : Access) (core bid i : Nat) : SameServed (blkLocal s a core bid i) (serveBlk s a core bid i) := by
  unfold serveBlk
  dsimp only
  split
  · exact sameServed_takeToken ..
  · exact sameServed_of_eq rfl rfl rfl

/-! ### A unit of a block at its local memory (R289) -/

theorem blkOf_modBlk {s : State} {core bid : Nat} {b : Blk} (h : s.blkOf core bid = some b) {f : Blk → Blk}
    (hf : ∀ b, (f b).bid = b.bid) : (modBlk s core bid f).blkOf core bid = some (f b) := by
  have hid : b.bid = bid := by simpa using List.find?_some h
  have hsame : ((fun x : Blk => decide (x.bid = bid)) ∘ fun x => if x.bid = bid then f x else x) = fun x => decide (x.bid = bid) := by
    funext x
    by_cases hx : x.bid = bid <;> simp [hx, hf]
  unfold State.blkOf at h
  rw [State.blkOf, modBlk, State.modCore_eq, State.core_setCore_same, List.find?_map, hsame, h]
  exact congrArg some (if_pos hid)

theorem blocks_finishBlk (s : State) (core : Nat) (b : Blk) :
    ((finishBlk s core b).core core).blocks = (s.core core).blocks.filter (fun x => x.bid ≠ b.bid) := by
  unfold finishBlk sendToken State.pushE
  rw [State.modCore_eq]
  exact congrArg Core.blocks (State.core_setCore_same s core _)

/-- A block that has ended stands in its core no more; one that has not is as it was. -/
theorem blkOf_blkCheck {s : State} {core bid : Nat} {d : Blk} (h : (blkCheck s core bid).blkOf core bid = some d) :
    s.blkOf core bid = some d := by
  unfold blkCheck at h
  split at h
  next b hb =>
    split at h
    · have hid : b.bid = bid := by simpa using List.find?_some hb
      have hmem : d ∈ (s.core core).blocks.filter (fun x => x.bid ≠ b.bid) := by
        have := List.mem_of_find?_eq_some h
        rwa [blocks_finishBlk] at this
      have hne := of_decide_eq_true (List.mem_filter.mp hmem).2
      exact absurd ((by simpa using List.find?_some h : d.bid = bid).trans hid.symm) hne
    · exact h
  next => exact h

/-- A block as it stands once a local unit of it has been served. -/
def unitServed (r : Reply) (i : Nat) (b : Blk) : Blk :=
  let b := { b with landing := b.landing - 1 }
  match r with
  | .value v => { b with snap := FMap.put b.snap i v }
  | .done => { b with landed := b.landed ++ [i] }
  | _ => failUnit 5 i b

theorem unitServed_keeps (r : Reply) (i : Nat) (b : Blk) : (unitServed r i b).bid = b.bid ∧ (unitServed r i b).wr = b.wr ∧
    (unitServed r i b).lunit = b.lunit ∧ (unitServed r i b).count = b.count := by
  unfold unitServed failUnit
  dsimp only
  split
  · exact ⟨rfl, rfl, rfl, rfl⟩
  · exact ⟨rfl, rfl, rfl, rfl⟩
  · split <;> exact ⟨rfl, rfl, rfl, rfl⟩

section
variable {s : State} {a : Access} {core bid i : Nat} {b : Blk}
  (hw : b.wr = true ∨ (wholeFrames b).contains ((b.lunit + i) / 16) = false)
include hw

/-- The state in which a unit has been served, in a frame that its block does not write whole. -/
theorem blkLocal_eq {r : Reply} {t : State} (hp : performUnit s a core bid i = (r, t)) (ht : t.blkOf core bid = some b) :
    blkLocal s a core bid i = blkCheck (modBlk (t.dropAccess a.id) core bid (unitServed r i)) core bid := by
  have hblk : (modBlk (t.dropAccess a.id) core bid (unitServed r i)).blkOf core bid = some (unitServed r i b) :=
    blkOf_modBlk (s := t.dropAccess a.id) ht (fun b => (unitServed_keeps r i b).1)
  obtain ⟨-, hwr, hlunit, hcount⟩ := unitServed_keeps r i b
  have hframe : (if (unitServed r i b).wr then modBlk (t.dropAccess a.id) core bid (unitServed r i)
      else frameDone (modBlk (t.dropAccess a.id) core bid (unitServed r i)) core (unitServed r i b) i) =
      modBlk (t.dropAccess a.id) core bid (unitServed r i) := by
    rw [hwr]
    obtain h | h := hw
    · rw [if_pos h]
    · cases b.wr with
      | true => rfl
      | false =>
        have hnot : (wholeFrames (unitServed r i b)).contains (((unitServed r i b).lunit + i) / 16) = false := by
          unfold wholeFrames at h ⊢
          rw [hlunit, hcount]
          exact h
        unfold frameDone
        dsimp only
        rw [hnot]
        rfl
  change blkCheck (match (modBlk ((performUnit s a core bid i).2.dropAccess a.id) core bid
    (unitServed (performUnit s a core bid i).1 i)).blkOf core bid with | some b => _ | none => _) core bid = _
  rw [hp]
  dsimp only
  rw [hblk]
  exact congrArg (blkCheck · core bid) hframe

theorem serveLocal_unit {cell : Nat} (hsrc : a.src = .blk core bid i) {r : Reply} {t : State}
    (hp : performUnit s a core bid i = (r, t)) (ht : t.blkOf core bid = some b) :
    (serveLocal s cell a).findAccess a.id = none ∧ SameLocal t (serveLocal s cell a) ∧
      ∀ d, (serveLocal s cell a).blkOf core bid = some d → d = unitServed r i b := by
  have hserve : serveLocal s cell a = serveBlk s a core bid i := by
    unfold serveLocal
    rw [hsrc]
  obtain ⟨hlocal, hflight, hblocks⟩ := sameServed_serveBlk s a core bid i
  have heq := blkLocal_eq (a := a) hw hp ht
  have hcells : (blkLocal s a core bid i).cells = t.cells := by
    rw [heq]
    obtain ⟨-, hc, -, -⟩ := sameStores_blkCheck (modBlk (t.dropAccess a.id) core bid (unitServed r i)) core bid
    exact hc
  rw [hserve]
  refine ⟨?_, sameLocal_trans (sameLocal_of_cells hcells) hlocal, fun d hd => ?_⟩
  · rw [State.findAccess, hflight, heq, blkCheck_flight]
    exact findAccess_dropAccess t a.id
  · have hd' : (blkLocal s a core bid i).blkOf core bid = some d := by
      rw [← hd, State.blkOf, State.blkOf, hblocks core]
    have hlast := blkOf_blkCheck (heq ▸ hd')
    rw [blkOf_modBlk (s := t.dropAccess a.id) ht (fun b => (unitServed_keeps r i b).1)] at hlast
    exact (Option.some.inj hlast).symm

end

theorem performUnit_store {s : State} {a : Access} {core bid i v : Nat} {b : Blk} (hb : s.blkOf core bid = some b)
    (hop : a.op = .store 64 v) (hf : (wholeFrames b).contains ((b.lunit + i) / 16) = false)
    (he : entryErr s a.cell (localOff a.va) = false) :
    performUnit s a core bid i = (.done, localWrite s a.cell (localOff a.va) 64 v) := by
  unfold performUnit
  rw [hop, hb]
  dsimp only
  rw [hf, if_neg Bool.false_ne_true]
  exact performLocal_sound he rfl

theorem performUnit_load {s : State} {a : Access} {core bid i : Nat} {e : Bool} (hop : a.op = .load 64 e)
    (he : localErr s a.cell (localOff a.va) 64 = false) :
    performUnit s a core bid i = (.value (localRead s a.cell (localOff a.va) 64), s) := by
  unfold performUnit
  rw [hop]
  exact performLocal_sound (entryErr_of_localErr he) (by simp [performLocal, he])

theorem blkOf_localWrite (s : State) (cell o n v core bid : Nat) : (localWrite s cell o n v).blkOf core bid = s.blkOf core bid := by
  obtain ⟨m, es, h⟩ := localWrite_eq s cell o n v
  rw [h]
  rfl

/-- Settles O40: the access of an instruction by its operation, a unit of a copy by what is done at it, a unit of a block by its
direction. -/
theorem localPairings : Obligations.LocalPairings := by
  refine ⟨fun s cell pos t a h => ?_, fun s cell pos t u j h hj => ?_, fun s cell pos t core bid i a b h hsrc hcell hb => ⟨?_, ?_⟩⟩
  · intro o full hp
    obtain ⟨u, r, hexec, hreplied, heffect⟩ := localPairing_access h hp
    refine ⟨u, r, hexec, hreplied, ?_⟩
    refine ⟨fun n e hop => ?_, fun n v hop => ?_, fun hop => ?_, fun hop => ?_, fun v hop => ?_, fun v hop => ?_, fun hop => ?_,
      fun hop => ?_, fun f n v hop => ?_, fun n e w hop => ?_⟩
    all_goals
      rw [hop] at heffect
      exact heffect
  · obtain ⟨hc, hcell⟩ := servesUnit_spot h
    subst hcell
    refine ⟨_, exec_localPairing_unit h, servePort_units hj, servePort_last hj, fun ha => ?_,
      fun v ha hf hs ho => servePort_writes hj hc ha hf hs ho⟩
    obtain ⟨hbytes, hfind⟩ := servePort_reads hj hc ha
    refine ⟨hbytes, _, hfind, FMap.find?_put_same .., fun he => ?_, fun he => ?_⟩
    · exact if_neg (by rw [he]; exact Bool.false_ne_true)
    · obtain ⟨c, hle, hw⟩ := worse_le 5 j.fail
      exact ⟨c, hle, (if_pos he).trans hw⟩
  · subst hcell
    intro v hop hwr hf hin he
    obtain ⟨hnone, hlocal, -⟩ := serveLocal_unit (cell := a.cell) (.inr hf) hsrc (performUnit_store hb hop hf he)
      ((blkOf_localWrite ..).trans hb)
    exact ⟨_, exec_localPairing_access h, hnone, localStored_then (localStored_localWrite 64 v hin.2.2.1 hin.2.2.2) hlocal⟩
  · subst hcell
    intro e hop hwr he
    obtain ⟨hnone, hlocal, hsnap⟩ := serveLocal_unit (cell := a.cell) (.inl hwr) hsrc (performUnit_load hop he) hb
    refine ⟨_, exec_localPairing_access h, hnone, fun c o => congrArg (Memory.read · o) (hlocal c).1, fun d hd => ?_⟩
    rw [hsnap d hd]
    exact FMap.find?_put_same ..

end Sys2Proof.Machine
end
section
/-! O44: loads and stores at the slices. The statement fails: it names the die of an access by its cell, while the fill of a load's line
into L1 goes by the core, and nothing in its premises ties the two. -/

namespace Sys2Proof.Machine
open Claims

/-! ### A load of cell 0 whose core lies on die 1 (R99, R131) -/

/-- A load of 8 bytes at 0x878, at the slice of die 0. -/
def strayLoad : Access :=
  { id := 5, cell := 0, core := 960, src := .slot 1 0#8 0#64 none true [] false, op := .load 8 false, va := 0x878#64, acq := false
    rel := false, scope := 0, pa := 0x878, key := 0, pa2 := 0, key2 := 0, attr := 0, stage := .slice 0, entered := 0, poison := none }

/-- A write of these bytes that die 1 has yet to forward to their home, die 0. -/
def strayForward : Forward := { die := 1, home := 0, pa := 0x878, n := 8, v := 1, key := 0, sid := none }

/-- The load's line is at its home; the forward waits. -/
def straying : State :=
  { State.reset with
    flight := [strayLoad], nextId := 6, lines := [{ die := 0, line := 16, key := 0, stamp := 0#64 }], forwards := [strayForward] }

theorem straying_atSlice : AtSlice straying strayLoad 8 := by
  and_intros <;> decide +kernel

/-- A byte of physical memory after a step. -/
def byteAfter (o : Host.Outcome State Fault Refusal) (b : Nat) : Option Byte :=
  match o with
  | .next t => some (Memory.read t.phys b)
  | _ => none

/-- The fill of the line into the L1 of the core performs what the core's die has yet to forward of it. -/
theorem straying_byteAfter : byteAfter (exec (.sliceReadMiss 5) straying) 0x878 = some 1#8 := by decide +kernel

theorem straying_byteBefore : Memory.read straying.phys 0x878 = 0#8 := by decide +kernel

/-- Refutes O44: a load whose core lies on another die than its cell is a hit at its home, and the fill of that core's L1 puts into memory
what the core's die has yet to forward of the line: the clause on a hit asks that no byte changes. -/
theorem not_sliceAccesses : ¬ Obligations.SliceAccesses := by
  unfold Obligations.SliceAccesses
  rintro ⟨-, -, hload, -, -⟩
  have hforwards : ∀ f ∈ straying.forwards, f.die ≠ dieOf strayLoad.cell := by decide
  obtain ⟨hhit, -⟩ := hload straying strayLoad 8 false straying_atSlice rfl (by decide +kernel) (by decide +kernel)
    ⟨by decide +kernel, by decide +kernel⟩ hforwards
  obtain ⟨t, hexec, ⟨hphys, -, -⟩, -⟩ := hhit (by decide +kernel)
  have hbyte : byteAfter (exec (.sliceReadMiss 5) straying) 0x878 = some 0#8 := by
    rw [show exec (.sliceReadMiss 5) straying = .next t from hexec]
    exact congrArg some ((hphys 0x878).trans straying_byteBefore)
  rw [straying_byteAfter] at hbyte
  exact absurd hbyte (by decide)

end Sys2Proof.Machine
end
section
/-! O45: operations at a line's home, accesses of the host, fault records and their answers. -/

namespace Sys2Proof.Machine
open Claims

/-! ### Homes, keys and the link are read in registers that no counter shares (R100, R183, R194, R390) -/

/-- The partition table, the interleave descriptors and LINK read as before. -/
def SameHomes (s t : State) : Prop := ∀ off, 0x40100000 ≤ off → off < 0x40150000 → t.reg off = s.reg off

theorem sameHomes_count (s : State) (d ev k : Nat) : SameHomes s (count s (diePerf d) ev k) := fun off hlo hhi =>
  reg_count_apart s ev k (diePerf_aligned d) (by unfold diePerf dieBase; omega)

section
variable {s t : State} (h : SameHomes s t)
include h

theorem linkUp_of_sameHomes : t.linkUp = s.linkUp :=
  congrArg (BitVec.getLsbD · 6) (h (pkgBase + 0x140000) (by decide) (by decide))

theorem partWord_of_sameHomes {p w : Nat} (hp : p < 16) (hw : w < 32) : t.partWord p w = s.partWord p w :=
  h _ (by unfold partBase pkgBase; omega) (by unfold partBase pkgBase; omega)

theorem ilv_of_sameHomes {p : Nat} (hp : p < 16) : t.ilv p = s.ilv p :=
  congrArg (bits · 23 20) (partWord_of_sameHomes h hp (by decide))

theorem ilvWord_of_sameHomes {n w : Nat} (hn : n < 16) (hw : w < 4) : t.ilvWord n w = s.ilvWord n w :=
  h _ (by unfold pkgBase; omega) (by unfold pkgBase; omega)

theorem ranges_of_sameHomes {p : Nat} (hp : p < 16) (pa : Nat) :
    inHbmRange t (t.ilv p) pa = inHbmRange s (s.ilv p) pa ∧ inTierRange t (t.ilv p) pa = inTierRange s (s.ilv p) pa := by
  have hn : s.ilv p < 16 := Nat.mod_lt _ (by decide)
  rw [ilv_of_sameHomes h hp]
  constructor
  · rw [inHbmRange, hbmBase, hbmSize, ilvWord_of_sameHomes h hn (by decide)]
    rfl
  · rw [inTierRange, tierBase, tierSize, ilvWord_of_sameHomes h hn (by decide)]
    rfl

theorem partOfPa_of_sameHomes (pa : Nat) : partOfPa t pa = partOfPa s pa := by
  refine List.find?_congr fun p hp => ?_
  have hlt : p < 16 := List.mem_range.mp hp
  obtain ⟨hhbm, htier⟩ := ranges_of_sameHomes h hlt pa
  rw [State.committed, partWord_of_sameHomes h hlt (by decide), hhbm, htier]
  rfl

theorem homeDie_of_sameHomes (pa : Nat) : homeDie t pa = homeDie s pa := by
  unfold homeDie
  rw [partOfPa_of_sameHomes h]
  cases hp : partOfPa s pa with
  | none => rfl
  | some p =>
    have hlt : p < 16 := List.mem_range.mp (List.mem_of_find?_eq_some hp)
    have hn : s.ilv p < 16 := Nat.mod_lt _ (by decide)
    dsimp only
    rw [(ranges_of_sameHomes h hlt pa).1, ilv_of_sameHomes h hlt, hbmBase, tierBase, ilvWord_of_sameHomes h hn (by decide),
      ilvWord_of_sameHomes h hn (by decide), ilvWord_of_sameHomes h hn (by decide), ilvWord_of_sameHomes h hn (by decide)]
    rfl

theorem keyByPa_of_sameHomes (pa : Nat) : keyByPa t pa = keyByPa s pa := by
  unfold keyByPa
  rw [partOfPa_of_sameHomes h]
  cases hp : partOfPa s pa with
  | none => rfl
  | some p =>
    have hlt : p < 16 := List.mem_range.mp (List.mem_of_find?_eq_some hp)
    exact congrArg (bits · 41 34) (partWord_of_sameHomes h hlt (by decide))

theorem physErr_of_sameHomes (he : t.errs = s.errs) (pa n : Nat) : physErr t pa n = physErr s pa n := by
  unfold physErr
  rw [linkUp_of_sameHomes h, he]

end

/-! ### Reads and writes of a line that is held under its key (R101, R112) -/

theorem decrypts_congr {s t : State} (hl : t.lineKey = s.lineKey) (hk : t.keyMat = s.keyMat) (line key : Nat) :
    decrypts t line key = decrypts s line key := by
  unfold decrypts State.material
  rw [hl, hk]

theorem physReadLine_decrypted {s : State} {pa n key : Nat} (h : decrypts s (lineOf pa) key = true) :
    physReadLine s pa n key = (Memory.readN s.phys pa n, s) := by
  rw [physReadLine, if_pos h]

theorem physStored_of_phys {s t : State} {pa n v : Nat} (hw : Memory.wf s.phys = true) (h : t.phys = Memory.writeN s.phys pa n v) :
    PhysStored s t pa n v := by
  unfold PhysStored
  rw [h]
  exact ⟨Memory.readN_writeN _ _ _ hw, fun b hb => Memory.read_writeN_outside _ _ hb⟩

theorem physStored_mod {s t : State} {pa n v w : Nat} (h : PhysStored s t pa n v) (he : v % 2 ^ (8 * n) = w % 2 ^ (8 * n)) :
    PhysStored s t pa n w := by
  obtain ⟨hread, hother⟩ := h
  exact ⟨hread.trans he, hother⟩

theorem homeWrite_phys_decrypted {s : State} {pa n v key : Nat} (w : Option Nat) (h : decrypts s (lineOf pa) key = true) :
    (homeWrite s pa n v key w).phys = Memory.writeN s.phys pa n v := by
  have hd : decrypts (serialise s (homeDie s pa) (lineOf pa) key) (lineOf pa) key = true := h
  change (physWriteLine (serialise s (homeDie s pa) (lineOf pa) key) pa n v key).phys = _
  unfold physWriteLine
  dsimp only
  rw [if_pos hd]
  rfl

theorem countL2_eq (s : State) (d line key : Nat) : ∃ m, countL2 s d line key = { s with regs := m } := count_eq ..

theorem cachedWrite_phys_decrypted {s : State} {pa n v key : Nat} (w : Option Nat) (h : decrypts s (lineOf pa) key = true) :
    (cachedWrite s pa n v key w).phys = Memory.writeN s.phys pa n v := by
  obtain ⟨m, hm⟩ := countL2_eq s (homeDie s pa) (lineOf pa) key
  have hd : decrypts (writeMiss (countL2 s (homeDie s pa) (lineOf pa) key) (homeDie s pa) (lineOf pa) key) (lineOf pa) key = true := by
    rw [hm, writeMiss]
    split <;> exact h
  rw [cachedWrite, homeWrite_phys_decrypted w hd, writeMiss_phys, hm]

theorem homeWrite_forwards (s : State) (pa n v key : Nat) (w : Option Nat) : (homeWrite s pa n v key w).forwards = s.forwards := by
  change (physWriteLine (serialise s (homeDie s pa) (lineOf pa) key) pa n v key).forwards = s.forwards
  unfold physWriteLine
  dsimp only
  split <;> rfl

/-! ### A die that has nothing of a line to forward (R131) -/

/-- No write of a die to a line waits to be forwarded. -/
def NoForward (s : State) (d line : Nat) : Prop := ∀ f ∈ s.forwards, f.die ≠ d ∨ lineOf f.pa ≠ line

/-- Nothing has changed but forwards, replicas and L1 copies. -/
def OnlyCopies (s t : State) : Prop := t = { s with forwards := t.forwards, replicas := t.replicas, cores := t.cores }

section
variable {s t : State} (h : OnlyCopies s t)
include h

theorem phys_of_onlyCopies : t.phys = s.phys := by
  unfold OnlyCopies at h
  rw [h]

theorem flight_of_onlyCopies : t.flight = s.flight := by
  unfold OnlyCopies at h
  rw [h]

theorem decrypts_of_onlyCopies (line key : Nat) : decrypts t line key = decrypts s line key := by
  unfold OnlyCopies at h
  rw [h]
  rfl

theorem lineStamp_of_onlyCopies (pa : Nat) : lineStamp t (homeDie t pa) (lineOf pa) = lineStamp s (homeDie s pa) (lineOf pa) := by
  unfold OnlyCopies at h
  rw [h]
  rfl

end

theorem onlyCopies_flushLine {s : State} {d line : Nat} (h : NoForward s d line) :
    OnlyCopies s (flushLine s d line) ∧ ∀ f ∈ (flushLine s d line).forwards, f ∈ s.forwards := by
  unfold flushLine
  extract_lets home mine n now t
  have hall : mine.reverse.takeWhile (fun f => lineOf f.pa ≠ line) = mine.reverse := by
    refine List.takeWhile_eq_self_iff.mpr fun f hf => ?_
    obtain ⟨hmem, hmine⟩ := List.mem_filter.mp (List.mem_reverse.mp hf)
    have hdie : f.die = d := of_decide_eq_true (Bool.and_eq_true_iff.mp hmine).1
    exact decide_eq_true ((h f hmem).resolve_left (not_not_intro hdie))
  have hnow : now = [] := by
    simp only [now, n]
    rw [hall, List.length_reverse, Nat.sub_self, List.take_zero]
  rw [hnow]
  refine ⟨rfl, fun f hf => ?_⟩
  obtain hf | hf := List.mem_append.mp hf
  · exact (List.mem_filter.mp hf).1
  · exact (List.mem_filter.mp (List.mem_of_mem_drop hf)).1

theorem onlyCopies_dropOwn {s : State} {d line : Nat} (h : NoForward s d line) : OnlyCopies s (dropOwn s d line) := by
  have hflush : OnlyCopies s (flushLine s d line) := (onlyCopies_flushLine h).1
  unfold OnlyCopies at hflush
  unfold dropOwn dropReplica
  rw [hflush]
  rfl

/-! ### What is performed at a line's home (R103, R132) -/

/-- A read and, where the operation writes, a write of n bytes at a line's home. -/
def homeWord (s : State) (a : Access) (n : Nat) (new : Nat → Option Nat) : Reply × State :=
  if physErr s a.pa n then (.machine, s)
  else
    let r := physReadLine (flushLine s (dieOf a.cell) (lineOf a.pa)) a.pa n a.key
    let u := match new r.1 with | some v => homeWrite r.2 a.pa n v a.key none | none => r.2
    (.value r.1, dropOwn u (dieOf a.cell) (lineOf a.pa))

theorem performHome_amo {s : State} {a : Access} {f : AmoOp} {n v : Nat} (hop : a.op = .amo f n v) :
    performHome s a = homeWord s a n (fun old => some (amoNew f n old v)) := by
  unfold performHome
  simp only [hop]
  rfl

theorem performHome_cas {s : State} {a : Access} {n e w : Nat} (hop : a.op = .cas n e w) :
    performHome s a = homeWord s a n (fun old => if old = e then some w else none) := by
  unfold performHome
  simp only [hop]
  rfl

/-- What is stored is the first lane of a value of the lane's width. -/
theorem physStored_lane {s t : State} {pa n w v : Nat} (hw : 8 * n = w) (h : PhysStored s t pa n (lane w v 0)) : PhysStored s t pa n v := by
  refine physStored_mod h ?_
  rw [hw, lane, Nat.mul_zero, Nat.shiftRight_zero, Nat.mod_mod]

/-- The one line of a `line.cst`. -/
theorem cstLines_one (a : Access) (data stamps : VReg) :
    cstLines a 1 data stamps = [(lineOf a.pa, stamps.setWidth 64, lane 1024 data.toNat 0)] := by
  have hstamp : stamps.extractLsb' 0 64 = stamps.setWidth 64 := BitVec.eq_of_toNat_eq (by simp)
  exact congrArg (fun w => [(lineOf a.pa, w, lane 1024 data.toNat 0)]) hstamp

theorem cstSplit_one {a : Access} {data stamps : VReg} (hop : a.op = .lineCst 1 data stamps) : cstSplit a = false := by
  have hlt : bits a.va 8 7 < 4 := Nat.mod_lt _ (by decide)
  unfold cstSplit
  rw [hop]
  exact decide_eq_false (by omega)

/-- A `line.cst` of one line: the stamp is compared once the issuing die's copies have gone. -/
theorem performCst_one {s : State} {a : Access} {data stamps : VReg} (hop : a.op = .lineCst 1 data stamps) :
    performCst s a 1 data stamps =
      if lineStamp (dropOwn s (dieOf a.cell) (lineOf a.pa)) (homeDie (dropOwn s (dieOf a.cell) (lineOf a.pa)) a.pa) (lineOf a.pa) =
          some (stamps.setWidth 64) then
        (0, homeWrite (dropOwn s (dieOf a.cell) (lineOf a.pa)) (128 * lineOf a.pa) 128 (lane 1024 data.toNat 0) a.key none)
      else (1, dropOwn s (dieOf a.cell) (lineOf a.pa)) := by
  unfold performCst
  rw [cstLines_one, cstSplit_one hop]
  simp only [List.filter_cons, List.filter_nil, decide_true, if_true, List.foldl_cons, List.foldl_nil, Bool.false_eq_true, if_false,
    List.zipIdx_cons, List.zipIdx_nil]
  split
  next q hq =>
    obtain ⟨hne, rfl⟩ : _ ∧ _ = q := by simpa using hq
    exact (if_neg hne).symm
  next hq =>
    exact (if_pos (by simpa using hq)).symm

section
variable {s : State} {a : Access} (hf : NoForward s (dieOf a.cell) (lineOf a.pa)) (hd : decrypts s (lineOf a.pa) a.key = true)
include hf hd

/-- The line as an operation reads it, behind what its die has yet to forward. -/
theorem physReadLine_flushed (n : Nat) : physReadLine (flushLine s (dieOf a.cell) (lineOf a.pa)) a.pa n a.key =
    (Memory.readN s.phys a.pa n, flushLine s (dieOf a.cell) (lineOf a.pa)) := by
  have hcopies := (onlyCopies_flushLine hf).1
  rw [physReadLine_decrypted ((decrypts_of_onlyCopies hcopies ..).trans hd), phys_of_onlyCopies hcopies]

theorem homeWord_writes {n v : Nat} {new : Nat → Option Nat} (he : physErr s a.pa n = false)
    (hnew : new (Memory.readN s.phys a.pa n) = some v) :
    ∃ u, homeWord s a n new = (.value (Memory.readN s.phys a.pa n), u) ∧ u.flight = s.flight ∧ u.phys = Memory.writeN s.phys a.pa n v := by
  obtain ⟨hcopies, hsub⟩ := onlyCopies_flushLine hf
  have hdrop : OnlyCopies (homeWrite (flushLine s (dieOf a.cell) (lineOf a.pa)) a.pa n v a.key none) _ :=
    onlyCopies_dropOwn (d := dieOf a.cell) (line := lineOf a.pa) fun f hm => hf f (hsub f (by rwa [homeWrite_forwards] at hm))
  unfold homeWord
  rw [he, if_neg Bool.false_ne_true, physReadLine_flushed hf hd]
  dsimp only
  rw [hnew]
  refine ⟨_, rfl, ?_, ?_⟩
  · exact (flight_of_onlyCopies hdrop).trans ((flight_of_offMemory (offMemory_homeWrite ..)).trans (flight_of_onlyCopies hcopies))
  · exact (phys_of_onlyCopies hdrop).trans ((homeWrite_phys_decrypted none ((decrypts_of_onlyCopies hcopies ..).trans hd)).trans
      (by rw [phys_of_onlyCopies hcopies]))

theorem homeWord_keeps {n : Nat} {new : Nat → Option Nat} (he : physErr s a.pa n = false)
    (hnew : new (Memory.readN s.phys a.pa n) = none) :
    ∃ u, homeWord s a n new = (.value (Memory.readN s.phys a.pa n), u) ∧ u.flight = s.flight ∧ u.phys = s.phys := by
  obtain ⟨hcopies, hsub⟩ := onlyCopies_flushLine hf
  have hdrop := onlyCopies_dropOwn (s := flushLine s (dieOf a.cell) (lineOf a.pa)) fun f hm => hf f (hsub f hm)
  unfold homeWord
  rw [he, if_neg Bool.false_ne_true, physReadLine_flushed hf hd]
  dsimp only
  rw [hnew]
  exact ⟨_, rfl, (flight_of_onlyCopies hdrop).trans (flight_of_onlyCopies hcopies),
    (phys_of_onlyCopies hdrop).trans (phys_of_onlyCopies hcopies)⟩

theorem performHome_lineRd {c : Word} (hop : a.op = .lineRd) (he : physErr s a.pa 128 = false)
    (hc : lineStamp s (homeDie s a.pa) (lineOf a.pa) = some c) :
    ∃ u, performHome s a = (.value (Memory.readN s.phys a.pa 128 + 2 ^ 1024 * c.toNat), u) ∧ u.flight = s.flight ∧ u.phys = s.phys := by
  obtain ⟨hcopies, hsub⟩ := onlyCopies_flushLine hf
  have hdrop := onlyCopies_dropOwn (s := flushLine s (dieOf a.cell) (lineOf a.pa)) fun f hm => hf f (hsub f hm)
  unfold performHome
  rw [hop]
  dsimp only
  rw [he, if_neg Bool.false_ne_true, physReadLine_flushed hf hd]
  dsimp only
  rw [lineStamp_of_onlyCopies hcopies, hc]
  exact ⟨_, rfl, (flight_of_onlyCopies hdrop).trans (flight_of_onlyCopies hcopies),
    (phys_of_onlyCopies hdrop).trans (phys_of_onlyCopies hcopies)⟩

theorem performHome_lineCst {data stamps : VReg} (hop : a.op = .lineCst 1 data stamps) (hpa : a.pa % 128 = 0)
    (hl : (isSystem a.pa && !s.linkUp) = false) :
    (lineStamp s (homeDie s a.pa) (lineOf a.pa) = some (stamps.setWidth 64) →
      ∃ u, performHome s a = (.value 0, u) ∧ u.flight = s.flight ∧ u.phys = Memory.writeN s.phys a.pa 128 (lane 1024 data.toNat 0)) ∧
    (lineStamp s (homeDie s a.pa) (lineOf a.pa) ≠ some (stamps.setWidth 64) →
      ∃ u, performHome s a = (.value 1, u) ∧ u.flight = s.flight ∧ u.phys = s.phys) := by
  have hdrop := onlyCopies_dropOwn hf
  have hline : 128 * lineOf a.pa = a.pa := Nat.mul_div_cancel' (Nat.dvd_of_mod_eq_zero hpa)
  have hperform : performHome s a = (.value (performCst s a 1 data stamps).1, (performCst s a 1 data stamps).2) := by
    unfold performHome
    rw [hop]
    dsimp only
    rw [hl, if_neg Bool.false_ne_true]
  rw [hperform, performCst_one hop, lineStamp_of_onlyCopies hdrop, hline]
  refine ⟨fun he => ?_, fun hne => ?_⟩
  · rw [if_pos he]
    refine ⟨_, rfl, (flight_of_offMemory (offMemory_homeWrite ..)).trans (flight_of_onlyCopies hdrop), ?_⟩
    rw [homeWrite_phys_decrypted none ((decrypts_of_onlyCopies hdrop ..).trans hd), phys_of_onlyCopies hdrop]
  · rw [if_neg hne]
    exact ⟨_, rfl, flight_of_onlyCopies hdrop, phys_of_onlyCopies hdrop⟩

end

theorem acquired_phys (s : State) (a : Access) : (acquired s a).phys = s.phys := by
  unfold acquired
  split <;> rfl

/-! ### The step of a slice that performs an operation (R103, R132) -/

/-- What an operation at its line's home asks of the state: nothing older is in its way, and its lines are there. -/
def HomeReady (s : State) (a : Access) (d : Nat) : Prop :=
  s.findAccess a.id = some a ∧ a.stage = .slice d ∧ mustWait s a = false ∧ a.attr % 4 = 0 ∧ missing s a d = none ∧
    behindOlder s a d = false

theorem exec_sliceAtomic {s : State} {a : Access} {d : Nat} (h : HomeReady s a d) (hop : atHome a = true) :
    exec (.sliceAtomic a.id) s =
      .next (reply (acquired (performHome (countHit s d a) a).2 a) a (performHome (countHit s d a) a).1) := by
  obtain ⟨ha, hs, hw, hattr, hm, hb⟩ := h
  change execSliceAtomic a.id s = _
  unfold execSliceAtomic
  rw [ha]
  dsimp only
  unfold atHome at hop
  rw [hs]
  split
  next he => simp [he] at hop
  next he => simp [he] at hop
  next k hk _ _ =>
    obtain rfl : d = k := Stage.slice.inj hk
    rw [hw, hb, hm, ite_self, attrOf, if_pos hattr]
    rfl
  next hno _ _ => exact absurd rfl (hno d)

/-- The counters of the slice do not touch what an operation goes by. -/
theorem countHit_keeps (s : State) (d : Nat) (a : Access) : SameHomes s (countHit s d a) ∧
    ∃ m, countHit s d a = { s with regs := m } := by
  unfold countHit
  split
  · exact ⟨fun _ _ _ => rfl, s.regs, rfl⟩
  · exact ⟨sameHomes_count _ _ _ _, count_eq ..⟩

theorem countHit_fields (s : State) (d : Nat) (a : Access) : (countHit s d a).phys = s.phys ∧ (countHit s d a).flight = s.flight ∧
    (countHit s d a).forwards = s.forwards ∧ (countHit s d a).errs = s.errs ∧
    (∀ line key, decrypts (countHit s d a) line key = decrypts s line key) ∧
    ∀ pa line, lineStamp (countHit s d a) (homeDie (countHit s d a) pa) line = lineStamp s (homeDie s pa) line := by
  obtain ⟨hhomes, m, hm⟩ := countHit_keeps s d a
  refine ⟨by rw [hm], by rw [hm], by rw [hm], by rw [hm], fun line key => ?_, fun pa line => ?_⟩
  · rw [hm]
    rfl
  · rw [homeDie_of_sameHomes hhomes, hm]
    rfl

section
variable {s : State} {a : Access} {d : Nat} (h : HomeReady s a d)
include h

/-- What is performed is answered. -/
theorem sliceAtomic_answers {r : Reply} {u : State} (hop : atHome a = true) (hp : performHome (countHit s d a) a = (r, u))
    (hflight : u.flight = (countHit s d a).flight) :
    ∃ t, exec (.sliceAtomic a.id) s = .next t ∧ Replied t a r ∧ t.phys = u.phys := by
  obtain ⟨-, hcount, -⟩ := countHit_fields s d a
  have hmem : a ∈ (acquired u a).flight := by
    rw [acquired_flight, hflight, hcount]
    exact findAccess_mem h.1
  refine ⟨reply (acquired u a) a r, ?_, replied_reply hmem r, acquired_phys u a⟩
  rw [exec_sliceAtomic h hop, hp]

variable (hf : NoForward s (dieOf a.cell) (lineOf a.pa)) (hd : decrypts s (lineOf a.pa) a.key = true)
include hf hd

theorem sliceAtomic_writes {n v : Nat} {new : Nat → Option Nat} (hop : atHome a = true)
    (hperform : performHome (countHit s d a) a = homeWord (countHit s d a) a n new) (he : physErr s a.pa n = false)
    (hnew : new (Memory.readN s.phys a.pa n) = some v) (hw : Memory.wf s.phys = true) :
    ∃ t, exec (.sliceAtomic a.id) s = .next t ∧ Replied t a (.value (Memory.readN s.phys a.pa n)) ∧ PhysStored s t a.pa n v := by
  obtain ⟨hphys, -, hfwd, herrs, hdec, -⟩ := countHit_fields s d a
  have hf' : NoForward (countHit s d a) (dieOf a.cell) (lineOf a.pa) := fun f hm => hf f (hfwd ▸ hm)
  obtain ⟨u, hu, hflight, hstored⟩ := homeWord_writes hf' ((hdec ..).trans hd)
    ((physErr_of_sameHomes (countHit_keeps s d a).1 herrs ..).trans he) (hphys ▸ hnew)
  rw [hphys] at hu hstored
  obtain ⟨t, hexec, hreplied, ht⟩ := sliceAtomic_answers h hop (hperform.trans hu) hflight
  exact ⟨t, hexec, hreplied, physStored_of_phys hw (ht.trans hstored)⟩

theorem sliceAtomic_keeps {n : Nat} {new : Nat → Option Nat} (hop : atHome a = true)
    (hperform : performHome (countHit s d a) a = homeWord (countHit s d a) a n new) (he : physErr s a.pa n = false)
    (hnew : new (Memory.readN s.phys a.pa n) = none) :
    ∃ t, exec (.sliceAtomic a.id) s = .next t ∧ Replied t a (.value (Memory.readN s.phys a.pa n)) ∧ t.phys = s.phys := by
  obtain ⟨hphys, -, hfwd, herrs, hdec, -⟩ := countHit_fields s d a
  have hf' : NoForward (countHit s d a) (dieOf a.cell) (lineOf a.pa) := fun f hm => hf f (hfwd ▸ hm)
  obtain ⟨u, hu, hflight, hkept⟩ := homeWord_keeps hf' ((hdec ..).trans hd)
    ((physErr_of_sameHomes (countHit_keeps s d a).1 herrs ..).trans he) (hphys ▸ hnew)
  rw [hphys] at hu hkept
  obtain ⟨t, hexec, hreplied, ht⟩ := sliceAtomic_answers h hop (hperform.trans hu) hflight
  exact ⟨t, hexec, hreplied, ht.trans hkept⟩

theorem sliceAtomic_lineRd {c : Word} (hop : a.op = .lineRd) (he : physErr s a.pa 128 = false)
    (hc : lineStamp s (homeDie s a.pa) (lineOf a.pa) = some c) :
    ∃ t, exec (.sliceAtomic a.id) s = .next t ∧ t.phys = s.phys ∧
      Replied t a (.value (Memory.readN s.phys a.pa 128 + 2 ^ 1024 * c.toNat)) := by
  obtain ⟨hphys, -, hfwd, herrs, hdec, hstamp⟩ := countHit_fields s d a
  have hf' : NoForward (countHit s d a) (dieOf a.cell) (lineOf a.pa) := fun f hm => hf f (hfwd ▸ hm)
  obtain ⟨u, hu, hflight, hkept⟩ := performHome_lineRd hf' ((hdec ..).trans hd) hop
    ((physErr_of_sameHomes (countHit_keeps s d a).1 herrs ..).trans he) ((hstamp ..).trans hc)
  rw [hphys] at hu hkept
  obtain ⟨t, hexec, hreplied, ht⟩ := sliceAtomic_answers h (by rw [atHome, hop]) hu hflight
  exact ⟨t, hexec, ht.trans hkept, hreplied⟩

theorem sliceAtomic_lineCst {data stamps : VReg} (hop : a.op = .lineCst 1 data stamps) (hpa : a.pa % 128 = 0)
    (hl : isSystem a.pa = false ∨ s.linkUp = true) (hw : Memory.wf s.phys = true) :
    (lineStamp s (homeDie s a.pa) (lineOf a.pa) = some (stamps.setWidth 64) →
      ∃ t, exec (.sliceAtomic a.id) s = .next t ∧ Replied t a (.value 0) ∧ PhysStored s t a.pa 128 data.toNat) ∧
    (lineStamp s (homeDie s a.pa) (lineOf a.pa) ≠ some (stamps.setWidth 64) →
      ∃ t, exec (.sliceAtomic a.id) s = .next t ∧ Replied t a (.value 1) ∧ t.phys = s.phys) := by
  obtain ⟨hphys, -, hfwd, -, hdec, hstamp⟩ := countHit_fields s d a
  have hf' : NoForward (countHit s d a) (dieOf a.cell) (lineOf a.pa) := fun f hm => hf f (hfwd ▸ hm)
  have hl' : (isSystem a.pa && !(countHit s d a).linkUp) = false := by
    rw [linkUp_of_sameHomes (countHit_keeps s d a).1]
    obtain h | h := hl <;> simp [h]
  have hat : atHome a = true := by rw [atHome, hop]
  obtain ⟨hwrite, hkeep⟩ := performHome_lineCst hf' ((hdec ..).trans hd) hop hpa hl'
  rw [hstamp, hphys] at hwrite hkeep
  refine ⟨fun he => ?_, fun hne => ?_⟩
  · obtain ⟨u, hu, hflight, hstored⟩ := hwrite he
    obtain ⟨t, hexec, hreplied, ht⟩ := sliceAtomic_answers h hat hu hflight
    exact ⟨t, hexec, hreplied, physStored_lane (w := 1024) rfl (physStored_of_phys hw (ht.trans hstored))⟩
  · obtain ⟨u, hu, hflight, hkept⟩ := hkeep hne
    obtain ⟨t, hexec, hreplied, ht⟩ := sliceAtomic_answers h hat hu hflight
    exact ⟨t, hexec, hreplied, ht.trans hkept⟩

end

/-! ### Accesses of the host (R133, R215, R390) -/

section
variable {s : State} {pa n : Nat} (h0 : 0 < n) (h8 : n ≤ 8) (hl : pa % 128 + n ≤ 128)
include h0 h8 hl

/-- A run within one line is the first of the pieces that a host access is cut into, and the second is empty. -/
theorem hostRuns : n / 128 + 2 = 2 ∧ min (pa + n) ((pa / 128 + 0 + 1) * 128) = pa + n ∧
    ¬ (pa / 128 + 1) * 128 < min (pa + n) ((pa / 128 + 1 + 1) * 128) := by omega

theorem hostWrite_oneLine (v : Nat) : hostWrite s pa n v = cachedWrite s pa n (v % 2 ^ (8 * n)) (keyByPa s pa) none := by
  obtain ⟨hrange, hfirst, hsecond⟩ := hostRuns h0 h8 hl
  unfold hostWrite
  rw [hrange]
  simp only [List.range_succ, List.range_zero, List.nil_append, List.singleton_append, List.foldl_cons, List.foldl_nil, if_true, hfirst,
    Nat.lt_add_of_pos_right h0, Nat.sub_self, Nat.mul_zero, Nat.pow_zero, Nat.div_one, Nat.add_sub_cancel_left, one_ne_zero, if_false, hsecond]

theorem hostRead_oneLine (hd : decrypts s (lineOf pa) (keyByPa s pa) = true) :
    hostRead s pa n = (Memory.readN s.phys pa n, countL2 s (homeDie s pa) (lineOf pa) (keyByPa s pa)) := by
  obtain ⟨hrange, hfirst, hsecond⟩ := hostRuns h0 h8 hl
  have hread (d ev : Nat) : physReadLine (count s (diePerf d) ev 1) pa n (keyByPa s pa) =
      (Memory.readN s.phys pa n, count s (diePerf d) ev 1) := by
    obtain ⟨m, hm⟩ := count_eq s (diePerf d) ev 1
    rw [hm]
    exact physReadLine_decrypted hd
  unfold hostRead countL2
  rw [hrange]
  simp only [List.range_succ, List.range_zero, List.nil_append, List.singleton_append, List.foldl_cons, List.foldl_nil, if_true, hfirst,
    Nat.lt_add_of_pos_right h0, Nat.sub_self, Nat.mul_zero, Nat.pow_zero, Nat.one_mul, Nat.zero_add, Nat.add_sub_cancel_left, one_ne_zero,
    if_false, hsecond, hread]

variable (hup : s.linkUp = true) (hb : isBacked pa = true)
include hup hb

omit h0 hl in
theorem exec_hostCxlAccess (write : Bool) (v : Word) : exec (.hostCxlAccess write pa n v) s =
    if write then .next (hostWrite s pa n v.toNat)
    else if physErr s pa n then .next { s with hostValue := none }
    else .next { (hostRead s pa n).2 with hostValue := some (wrap64 (hostRead s pa n).1) } := by
  change execHostCxlAccess write pa n v s = _
  unfold execHostCxlAccess
  rw [hup, hb, Nat.min_eq_left h8]
  rfl

theorem hostCxlAccess_write (hd : decrypts s (lineOf pa) (keyByPa s pa) = true) (hw : Memory.wf s.phys = true) (v : Word) :
    ∃ t, exec (.hostCxlAccess true pa n v) s = .next t ∧ PhysStored s t pa n v.toNat ∧ t.slots = s.slots := by
  refine ⟨_, exec_hostCxlAccess h8 hup hb true v, ?_, ?_⟩
  · rw [hostWrite_oneLine h0 h8 hl]
    exact physStored_mod (physStored_of_phys hw (cachedWrite_phys_decrypted none hd)) (Nat.mod_mod _ _)
  · rw [hostWrite_oneLine h0 h8 hl]
    exact slots_of_offMemory (offMemory_cachedWrite ..)

omit h0 hl in
theorem hostCxlAccess_error (he : physErr s pa n = true) (v : Word) :
    exec (.hostCxlAccess false pa n v) s = .next { s with hostValue := none } := by
  rw [exec_hostCxlAccess h8 hup hb, if_neg Bool.false_ne_true, if_pos he]

theorem hostCxlAccess_read (hd : decrypts s (lineOf pa) (keyByPa s pa) = true) (he : physErr s pa n = false) (v : Word) :
    ∃ t, exec (.hostCxlAccess false pa n v) s = .next t ∧ SameBytes s t ∧ t.slots = s.slots ∧
      t.hostValue = some (BitVec.ofNat 64 (Memory.readN s.phys pa n)) := by
  rw [exec_hostCxlAccess h8 hup hb, if_neg Bool.false_ne_true, he, if_neg Bool.false_ne_true, hostRead_oneLine h0 h8 hl hd]
  obtain ⟨m, hm⟩ := countL2_eq s (homeDie s pa) (lineOf pa) (keyByPa s pa)
  rw [hm]
  exact ⟨_, rfl, sameBytes_of_eq rfl rfl rfl, rfl, rfl⟩

end

/-! ### Fault records (R109) -/

/-- A number of 16 bits is read back from the low bits of a register. -/
theorem bits_wrap16 (n : Nat) : bits (wrap64 (n % 65536)) 15 0 = n % 65536 := by
  rw [low16_eq, wrap64, BitVec.toNat_ofNat]
  omega

theorem fqTail_setReg (s : State) (p n : Nat) (fs : List FaultRec) :
    fqTail { s.setReg (fqOff p + 0x18) (wrap64 (n % 65536)) with faults := fs } p = n % 65536 :=
  (congrArg (bits · 15 0) (State.reg_setReg_same s (fqOff p + 0x18) _)).trans (bits_wrap16 n)

/-- The four words of a fault record as one number. -/
theorem faultImage_eq (f : FaultRec) : faultImage f =
    f.va.toNat + 2 ^ 64 * (f.asid % 2 ^ 13 + 2 ^ 13 * (f.kind % 8) + 2 ^ 16 * (f.source % 2 ^ 16)) + 2 ^ 128 * f.at_.toNat := by
  have hva := f.va.isLt
  have hat := f.at_.isLt
  simp only [faultImage, packLanes]
  omega

/-- A record that waits, with room for it in its queue. -/
def RecordReady (s : State) (p : Nat) (f : FaultRec) (pa : Nat) : Prop :=
  s.faults.find? (fun f => f.part = p && f.index.isNone) = some f ∧ fqEnabled s p = true ∧
    (fqTail s p + 65536 - fqHead s p) % 65536 < fqSize s p ∧ pa = fqBase s p + 32 * (fqTail s p % fqSize s p) ∧
    (isSystem pa = false ∨ s.linkUp = true)

theorem exec_faultRecordWrite {s : State} {p pa : Nat} {f : FaultRec} (h : RecordReady s p f pa) :
    exec (.faultRecordWrite p) s = .next { (cachedWrite s pa 32 (faultImage f) (keyByPa s pa) none).setReg (fqOff p + 0x18)
        (wrap64 ((fqTail s p + 1) % 65536)) with
      faults := (cachedWrite s pa 32 (faultImage f) (keyByPa s pa) none).faults.map
        (fun g => if g = f then { g with index := some (fqTail s p) } else g) } := by
  obtain ⟨hf, he, hroom, rfl, hl⟩ := h
  have hgo : (!fqEnabled s p || decide (fqSize s p ≤ (fqTail s p + 65536 - fqHead s p) % 65536) ||
      (isSystem (fqBase s p + 32 * (fqTail s p % fqSize s p)) && !s.linkUp)) = false := by
    rw [he, decide_eq_false (Nat.not_le.mpr hroom)]
    obtain h | h := hl <;> simp [h]
  change execFaultRecordWrite p s = _
  unfold execFaultRecordWrite
  rw [hf]
  dsimp only
  rw [hgo]
  rfl

theorem faultRecordWrite_record {s : State} {p pa : Nat} {f : FaultRec} (h : RecordReady s p f pa) (hw : Memory.wf s.phys = true) :
    ∃ t, exec (.faultRecordWrite p) s = .next t ∧ Memory.readN t.phys pa 32 = faultImage f ∧
      fqTail t p = (fqTail s p + 1) % 65536 ∧ { f with index := some (fqTail s p) } ∈ t.faults := by
  refine ⟨_, exec_faultRecordWrite h, ?_, ?_, ?_⟩
  · obtain ⟨m, hm, hphys⟩ := cachedWrite_phys s pa 32 (faultImage f) (keyByPa s pa) none hw
    change Memory.readN (cachedWrite s pa 32 (faultImage f) (keyByPa s pa) none).phys pa 32 = _
    rw [hphys, Memory.readN_writeN _ _ _ hm]
    exact Nat.mod_eq_of_lt (packLanes_lt 64 _)
  · exact fqTail_setReg ..
  · have hfaults : (cachedWrite s pa 32 (faultImage f) (keyByPa s pa) none).faults = s.faults :=
      (congrArg State.faults (offMemory_cachedWrite s pa 32 (faultImage f) (keyByPa s pa) none) :)
    refine List.mem_map.mpr ⟨f, ?_, if_pos rfl⟩
    rw [hfaults]
    exact List.mem_of_find?_eq_some h.1

/-! ### Answers of fault records (R109, R216) -/

/-- Nothing happens where the completion word cannot be read. -/
theorem writeFqdone_away {s : State} {p : Nat} {v : Word} {f : FaultRec}
    (hf : s.faults.find? (fun f => f.part = p && f.index = some (bits v 15 0) && f.answer.isNone) = some f)
    (hs : isSystem (fqBase s p + 32 * (bits v 15 0 % fqSize s p) + 0x18) = true) (hl : s.linkUp = false) : writeFqdone s p v = s := by
  unfold writeFqdone
  dsimp only
  rw [hf]
  dsimp only
  rw [hs, hl]
  rfl

theorem writeFqdone_reads {s : State} {p k : Nat} {v : Word} {f : FaultRec}
    (hf : s.faults.find? (fun f => f.part = p && f.index = some (bits v 15 0) && f.answer.isNone) = some f)
    (hl : isSystem (fqBase s p + 32 * (bits v 15 0 % fqSize s p) + 0x18) = false ∨ s.linkUp = true)
    (hk : physReadRaw s (fqBase s p + 32 * (bits v 15 0 % fqSize s p) + 0x18) 8 = (k, s)) :
    writeFqdone s p v = if k = 1 then answerFault s f false else if k = 2 then answerFault s f true else s := by
  have hgo : (isSystem (fqBase s p + 32 * (bits v 15 0 % fqSize s p) + 0x18) && !s.linkUp) = false := by
    obtain h | h := hl <;> simp [h]
  unfold writeFqdone
  dsimp only
  rw [hf]
  dsimp only
  rw [hk, hgo]
  rfl

/-- The slot of the parked access goes on, or traps where it is denied. -/
def slotAnswered (s : State) (a : Access) (sid : Nat) (deny : Bool) : State :=
  let u := (s.dropAccess a.id).setSlot sid { s.slot sid with park := none }
  if deny then takeTrap u sid cPage a.op.kind.detail (wrap64 a.pa) false else u

section
variable {s : State} {f : FaultRec} {a : Access} {sid : Nat} {gen : BitVec 8} {pc : Word} (hflight : s.flight = [a])
  (hstage : a.stage = .faulted) (hsrc : a.src = .slot sid gen pc none true [] false)
include hflight hstage hsrc

/-- A slot that an access in flight parks is not parked on the fetch of its next instruction. -/
theorem fetchParked_nil (honly : ∀ q ∈ s.slots, q.2.park = some .fault → q.1 = sid) : fetchParked s f = [] := by
  have hslot : a.slotOf s = some sid := by rw [Access.slotOf, hsrc]
  unfold fetchParked
  rw [List.map_eq_nil_iff, List.filter_eq_nil_iff]
  intro q hq htest
  simp only [Bool.and_eq_true, decide_eq_true_eq, Bool.not_eq_true', hflight, List.any_cons, List.any_nil, Bool.or_false] at htest
  obtain ⟨⟨⟨⟨hpark, -⟩, -⟩, -⟩, hnone⟩ := htest
  rw [hstage, hslot, honly q hq hpark] at hnone
  simp at hnone

variable (hkey : a.key = f.asid) (hpage : a.pa / 65536 = f.va.toNat / 65536) (hpart : s.partN a.cell = f.part)
  (hpark : (s.slot sid).park = some .fault) (hlive : (s.slot sid).status = .live)
include hkey hpage hpart hpark hlive

omit hflight in
theorem answerAccess_parked (deny : Bool) : answerAccess s f deny a = slotAnswered s a sid deny := by
  have hslot : a.slotOf s = some sid := by rw [Access.slotOf, hsrc]
  have hmod : (s.dropAccess a.id).modSlot sid (fun x => { x with park := if x.park = some .fault then none else x.park }) =
      (s.dropAccess a.id).setSlot sid { s.slot sid with park := none } := by
    change (s.dropAccess a.id).setSlot sid { s.slot sid with park := if (s.slot sid).park = some .fault then none else (s.slot sid).park } = _
    rw [if_pos hpark]
  have hgoes : (((s.dropAccess a.id).setSlot sid { s.slot sid with park := none }).slot sid).goesOn = true := by
    rw [State.slot_setSlot_same, Slot.goesOn, hlive]
  unfold answerAccess
  rw [hstage, hkey, hpage, hpart, hslot]
  simp only [decide_true, Bool.and_self, hmod, hgoes, Bool.and_true]
  rfl

theorem answerFault_parked (hwaits : f.waits = []) (honly : ∀ q ∈ s.slots, q.2.park = some .fault → q.1 = sid) (deny : Bool) :
    ∃ fs, answerFault s f deny = { slotAnswered s a sid deny with faults := fs } ∧ f ∉ fs := by
  have hpush (u : State) : u.push [] = u := by
    rw [State.push, List.append_nil]
  unfold answerFault
  rw [fetchParked_nil hflight hstage hsrc honly, hflight, hwaits]
  simp only [List.foldl_cons, List.foldl_nil, List.isEmpty_nil, if_true, List.map_nil, List.eraseDups_nil,
    answerAccess_parked hstage hsrc hkey hpage hpart hpark hlive, hpush]
  exact ⟨_, rfl, fun hm => of_decide_eq_true (List.mem_filter.mp hm).2 rfl⟩

omit hstage hsrc hkey hpage hpart hpark hlive in
theorem slotAnswered_flight (deny : Bool) : (slotAnswered s a sid deny).flight = [] := by
  have hdrop : (s.dropAccess a.id).flight = [] := by
    change s.flight.filter _ = []
    rw [hflight]
    simp
  unfold slotAnswered
  cases deny with
  | false => exact hdrop
  | true => exact (takeTrap_flight ..).trans hdrop

end

theorem slotAnswered_retried (s : State) (a : Access) (sid : Nat) :
    (slotAnswered s a sid false).slot sid = { s.slot sid with park := none } := State.slot_setSlot_same _ _ _

theorem slotAnswered_denied (s : State) (a : Access) (sid : Nat) :
    ((slotAnswered s a sid true).slot sid).tepc = (s.slot sid).pc ∧
    ((slotAnswered s a sid true).slot sid).tcause = BitVec.ofNat 64 (cPage + 256 * a.op.kind.detail + 0x10000) ∧
    ((slotAnswered s a sid true).slot sid).tval = BitVec.ofNat 64 a.pa := by
  have hslot : (slotAnswered s a sid true).slot sid =
      trapSlot { s.slot sid with park := none } cPage a.op.kind.detail (wrap64 a.pa) false :=
    (takeTrap_slot_same ..).trans (by rw [State.slot_setSlot_same])
  obtain ⟨hcause, hepc, hval⟩ := trapSlot_record { s.slot sid with park := none } cPage a.op.kind.detail (wrap64 a.pa) false
  rw [hslot]
  exact ⟨hepc, hcause, hval⟩

/-- Settles O45: the operations at a home by what is performed there, the host's accesses by the one line that they touch, a fault record by
the write of its image, FQDONE by the slot that it answers. -/
theorem homeOperations : Obligations.HomeOperations := by
  refine ⟨fun s a d ha hst hwait hattr hmiss hbehind hfwd hl hw hd => ?_, fun s pa n v h0 h8 hline hup hb hw hd => ?_,
    fun s p f hf he hroom hw => ?_, fun s b p v f a sid k gen pc hr hf hwaits hflight hstage hkey hpage hpart hsrc hpark hlive honly => ?_⟩
  · have h : HomeReady s a d := ⟨ha, hst, hwait, hattr, hmiss, hbehind⟩
    refine ⟨fun f n v hop _ _ he => ?_, fun n e w hop _ he => ?_, fun c hop he hc => sliceAtomic_lineRd h hfwd hd hop he hc,
      fun data stamps hop hpa => sliceAtomic_lineCst h hfwd hd hop hpa hl hw⟩
    · obtain ⟨t, hexec, hreplied, hstored⟩ := sliceAtomic_writes h hfwd hd (by rw [atHome, hop]) (performHome_amo hop) he rfl hw
      exact ⟨t, hexec, hreplied, physStored_mod hstored (amoNew_mod f n _ v)⟩
    · have hat : atHome a = true := by rw [atHome, hop]
      by_cases hold : Memory.readN s.phys a.pa n = e
      · obtain ⟨t, hexec, hreplied, hstored⟩ := sliceAtomic_writes h hfwd hd hat (performHome_cas hop) he (if_pos hold) hw
        exact ⟨t, hexec, hreplied, fun _ => hstored, fun hne => absurd hold hne⟩
      · obtain ⟨t, hexec, hreplied, hkept⟩ := sliceAtomic_keeps h hfwd hd hat (performHome_cas hop) he (if_neg hold)
        exact ⟨t, hexec, hreplied, fun heq => absurd heq hold, fun _ => hkept⟩
  · exact ⟨hostCxlAccess_write h0 h8 hline hup hb hd hw v, fun he => hostCxlAccess_error h8 hup hb he v,
      fun he => hostCxlAccess_read h0 h8 hline hup hb hd he v⟩
  · intro pa hl
    obtain ⟨t, hexec, hread, htail, hmem⟩ := faultRecordWrite_record (pa := pa) ⟨hf, he, hroom, rfl, hl⟩ hw
    exact ⟨t, hexec, hread.trans (faultImage_eq f), htail, hmem⟩
  · have hfpart : f.part = p := by
      have htest := List.find?_some hf
      simp only [Bool.and_eq_true, decide_eq_true_eq] at htest
      exact htest.1.1
    have hexec : exec (.fqdoneWrite b p v) s = .next (writeFqdone s p v) := byWriter_reaching _ hr
    have hanswer := answerFault_parked hflight hstage hsrc hkey hpage (hpart.trans hfpart.symm) hpark hlive hwaits honly
    refine ⟨fun hs hdown => hexec.trans (by rw [writeFqdone_away hf hs hdown]), fun hl hread => ?_⟩
    have hdone := writeFqdone_reads hf hl hread
    refine ⟨fun h1 => ?_, fun h2 => ?_, fun h1 h2 => ?_⟩
    · obtain ⟨fs, hfs, hnot⟩ := hanswer false
      rw [hdone, if_pos h1, hfs] at hexec
      exact ⟨_, hexec, slotAnswered_retried s a sid, slotAnswered_flight (sid := sid) hflight false, hnot⟩
    · obtain ⟨fs, hfs, hnot⟩ := hanswer true
      rw [hdone, if_neg (by omega), if_pos h2, hfs] at hexec
      obtain ⟨hepc, hcause, hval⟩ := slotAnswered_denied s a sid
      exact ⟨_, hexec, slotAnswered_flight (sid := sid) hflight true, hnot, hepc, hcause, hval⟩
    · rw [hdone, if_neg h1, if_neg h2] at hexec
      exact hexec

end Sys2Proof.Machine
end
section
/-! O36: the chunks of a copy. The statement fails: where the last chunk leaves nothing to be written at units it asks that no byte
changes any more, while the end of a classifying copy makes the bytes of the frames that it touched those of their class. -/

namespace Sys2Proof.Machine
open Claims

/-! ### A classifying copy whose last chunk holds no element (R171, R358) -/

/-- `copy` of 64 bytes from 0x800 to the own cell's frame 64 with the transform that classifies, under the format F32. -/
def classifyCmd : Cmd :=
  { word := ⟨0x2810#64, 0x800#64, 0xFF00000000010000#64, 64#64⟩, sid := 1, gen := 0#8, fc := 0, forked := false }

/-- The copy of cell 0: chunk 0 has gone, which took all elements; chunk 1 is the last one. The premises do not tie the number of chunks to
that of the elements. -/
def classifying : CopyRun :=
  { newCopy 7 0 classifyCmd with phase := .running, geom := Geom.inline 64#64, chunks := 2, next := 1 }

/-- Its first element in the frame is a negative zero. -/
def negativeZero : State :=
  State.reset.setCell 0 { Cell.init with copies := [classifying], mem := [(0x10003, 0x80#8)] }

theorem classifying_ready : ChunkReady negativeZero (setCopy negativeZero 0 classifying) 0 classifying [] := by
  have hrun : MayRun negativeZero 0 classifying 1 :=
    ⟨⟨by decide +kernel, by decide +kernel⟩, by and_intros <;> decide +kernel, by decide +kernel, by decide +kernel, by decide +kernel⟩
  exact ⟨hrun, by decide +kernel, .inl ⟨rfl, by decide +kernel, by decide +kernel, rfl⟩⟩

/-- A byte of cell 0's local memory after a step. -/
def localByteAfter (o : Host.Outcome State Fault Refusal) (b : Nat) : Option Byte :=
  match o with
  | .next t => some (Memory.read (t.cell 0).mem b)
  | _ => none

/-- The frame is of class zero from then on, and its bytes are zeros. -/
theorem classifying_byteAfter : localByteAfter (exec (.copyChunk 0 7 1) negativeZero) 0x10003 = some 0#8 := by decide +kernel

theorem classifying_byteBefore : Memory.read ((setCopy negativeZero 0 classifying).cell 0).mem 0x10003 = 0x80#8 := by decide +kernel

/-- Refutes O36: the last chunk of a classifying copy moves nothing, and at the copy's end the frame that an earlier chunk wrote is found to
be of class zero, by which the sign bit of its -0 goes: the clause on the last chunk asks that no byte changes. -/
theorem not_copyChunks : ¬ Obligations.CopyChunks := by
  unfold Obligations.CopyChunks
  rintro ⟨-, hmoves, -, -⟩
  obtain ⟨-, -, hlast⟩ := hmoves negativeZero (setCopy negativeZero 0 classifying) 0 classifying [] classifying_ready
  obtain ⟨t, -, hexec, hsame, -⟩ := hlast rfl rfl (by decide +kernel)
  obtain ⟨-, hlocal, -⟩ := hsame (by decide +kernel)
  have hbyte : localByteAfter (exec (.copyChunk 0 7 1) negativeZero) 0x10003 = some 0x80#8 := by
    rw [show exec (.copyChunk 0 7 1) negativeZero = .next t from hexec]
    exact congrArg some ((hlocal 0 0x10003).trans classifying_byteBefore)
  rw [classifying_byteAfter] at hbyte
  exact absurd hbyte (by decide)

end Sys2Proof.Machine
end
section
/-! O12: fences wait for what they order, and cache maintenance acts on the one line that its address leads to. -/

namespace Sys2Proof.Machine
open Claims

/-! ### Fences (R122, R131, R292) -/

/-- What a fence waits for is still under way. -/
def FenceWaits (s : State) (k : BitVec 2) (sc : BitVec 3) : Prop :=
  (sc = 0#3 ∧ (vectorOpen s s.cur = true ∨ scalarPending s s.cur = true)) ∨
    (sc ≠ 0#3 ∧ (readsOpen s s.cur = true ∨
      (k.getLsbD 1 = true ∧ (writesOpen s s.cur = true ∨ 4 ≤ sc.toNat ∧ forwardsOpen s (dieOf (home s)) = true))))

/-- What an acquiring fence leaves of the die's copies. -/
def fenced (s : State) (k : BitVec 2) (sc : BitVec 3) : State :=
  if k.getLsbD 0 && decide (4 ≤ sc.toNat) then selfInvalidate s (dieOf (home s)) else s

theorem exec_fence_waits {s : State} {k : BitVec 2} {sc : BitVec 3} (h : FenceWaits s k sc) :
    exec (.fence k sc) s = .next s := by
  change execFence k sc s = .next s
  unfold execFence
  obtain ⟨rfl, hopen⟩ | ⟨hsc, hopen⟩ := h
  · have hguard : (!vectorOpen s s.cur && !scalarPending s s.cur) = false := by
      obtain hopen | hopen := hopen <;> simp [hopen]
    simp [hguard, guardH_false]
  · rw [if_neg hsc]
    by_cases hreads : readsOpen s s.cur = true
    · rw [hreads]
      rfl
    · obtain ⟨hrel, hwrites⟩ := hopen.resolve_left hreads
      have hguard : (writesOpen s s.cur || decide (4 ≤ sc.toNat) && forwardsOpen s (dieOf (cellOfSlot s.cur))) = true := by
        simpa using hwrites
      rw [eq_false_of_ne_true hreads, hrel, hguard]
      rfl

theorem fenced_offMemory (s : State) (k : BitVec 2) (sc : BitVec 3) : offMemory (fenced s k sc) = offMemory s := by
  unfold fenced
  split <;> rfl

theorem exec_fence_done {s : State} {k : BitVec 2} {sc : BitVec 3} (h : ¬FenceWaits s k sc) :
    exec (.fence k sc) s = .next (wentOn s (fenced s k sc)) := by
  change execFence k sc s = _
  unfold execFence
  obtain ⟨hslot, horder⟩ := not_or.mp h
  by_cases hsc : sc = 0#3
  · subst hsc
    have hopen : vectorOpen s s.cur = false ∧ scalarPending s s.cur = false := by simpa using hslot
    simp [hopen, guardH_true, fenced, wentOn]
  · have hreads : readsOpen s s.cur = false ∧
        (k.getLsbD 1 && (writesOpen s s.cur || decide (4 ≤ sc.toNat) && forwardsOpen s (dieOf (cellOfSlot s.cur)))) = false := by
      simpa [hsc] using horder
    rw [if_neg hsc, hreads.1, hreads.2]
    change finish s (.ok (done (fenced s k sc) ((fenced s k sc).slot s.cur))) = _
    rw [← cur_of_offMemory (fenced_offMemory s k sc)]
    rfl

theorem fenced_sameBytes (s : State) (k : BitVec 2) (sc : BitVec 3) : SameBytes s (fenced s k sc) := by
  unfold fenced
  split <;> exact sameBytes_of_eq rfl rfl rfl

/-- A replica that an acquire leaves on its die holds a write that is yet to be forwarded. -/
theorem selfInvalidate_replica {s : State} {d : Nat} {r : Replica} (h : r ∈ (selfInvalidate s d).replicas) (hd : r.die = d) :
    ∃ f ∈ s.forwards, f.die = r.die ∧ f.pa / 128 = r.line := by
  obtain ⟨-, hkept⟩ := List.mem_filter.mp h
  obtain ⟨f, hf, hmatch⟩ := List.any_eq_true.mp ((Bool.or_eq_true_iff.mp hkept).resolve_left (by simp [hd]))
  obtain ⟨hdie, hline⟩ := Bool.and_eq_true_iff.mp hmatch
  exact ⟨f, hf, (of_decide_eq_true hdie).trans hd.symm, of_decide_eq_true hline⟩

/-! ### A translation looks up tables in memory (R105-R110) -/

/-- Nothing has changed but the translations that a TLB keeps, the counters, and how many free values have been taken. -/
def OnlyLookup (s t : State) : Prop := t = { s with regs := t.regs, freeCtr := t.freeCtr, tlb := t.tlb }

theorem onlyLookup_trans {s t u : State} (h : OnlyLookup s t) (k : OnlyLookup t u) : OnlyLookup s u := by
  unfold OnlyLookup at *
  rw [k, h]

theorem onlyLookup_snd {α : Type} {s t : State} {x : α × State} {a : α} (e : x = (a, t)) (h : OnlyLookup s x.2) : OnlyLookup s t := by
  rwa [e] at h

theorem onlyLookup_count (s : State) (b e k : Nat) : OnlyLookup s (count s b e k) := by
  obtain ⟨m, h⟩ := count_eq s b e k
  rw [h]
  rfl

theorem onlyLookup_tlb (s : State) (l : List TlbEntry) : OnlyLookup s { s with tlb := l } := rfl

theorem onlyLookup_physReadLine (s : State) (pa n key : Nat) : OnlyLookup s (physReadLine s pa n key).2 := by
  unfold physReadLine
  split <;> rfl

theorem onlyLookup_physReadFuel (k : Nat) (s : State) (pa n key : Nat) : OnlyLookup s (physReadFuel k s pa n key).2 := by
  induction k generalizing s pa n with
  | zero => rfl
  | succ k ih =>
    unfold physReadFuel
    split
    · rfl
    · exact onlyLookup_trans (onlyLookup_physReadLine ..) (ih ..)

theorem onlyLookup_physReadRaw (s : State) (pa n : Nat) : OnlyLookup s (physReadRaw s pa n).2 := onlyLookup_physReadFuel ..

theorem onlyLookup_walkFrom (lv : Nat) (s : State) (table va : Nat) : OnlyLookup s (walkFrom lv s table va).2 := by
  induction lv generalizing s table with
  | zero => rfl
  | succ lv ih =>
    unfold walkFrom
    extract_lets ix r pte
    have hr : OnlyLookup s r.2 := onlyLookup_physReadRaw ..
    split
    · rfl
    · split
      · exact hr
      · split
        · split <;> exact hr
        · split
          · exact hr
          · exact onlyLookup_trans hr (ih ..)

theorem onlyLookup_walk (s : State) (d asid va : Nat) : OnlyLookup s (walk s d asid va).2 := by
  unfold walk
  extract_lets tb
  split
  · rfl
  · split
    · rfl
    · split
      · exact onlyLookup_physReadRaw ..
      · exact onlyLookup_trans (onlyLookup_physReadRaw ..) (onlyLookup_walkFrom ..)

theorem onlyLookup_translate (s : State) (p d asid va : Nat) (rd wr ex : Bool) :
    OnlyLookup s (translate s p d asid va rd wr ex).2 := by
  unfold translate
  extract_lets fin
  have hfin (pa : Nat) (pte : Word) (t : State) : OnlyLookup t (fin pa pte t).2 := by
    simp only [fin]
    split <;> rfl
  have hwalk := onlyLookup_trans (onlyLookup_count s (diePerf d) 7 1) (onlyLookup_walk (count s (diePerf d) 7 1) d asid va)
  split
  · rfl
  · split
    · exact hfin ..
    · split
      case h_1 e => exact onlyLookup_snd e hwalk
      case h_2 e => exact onlyLookup_snd e hwalk
      case h_3 e => exact onlyLookup_trans (onlyLookup_trans (onlyLookup_snd e hwalk) (onlyLookup_tlb ..)) (hfin ..)

theorem onlyLookup_xlateCell (s : State) (cell : Nat) (va : Word) (rd wr : Bool) : OnlyLookup s (xlateCell s cell va rd wr).2 := by
  unfold xlateCell
  split
  · exact onlyLookup_translate ..
  · rfl

/-! ### The line of an address, and its home (R100, R183) -/

theorem lineStart_lower {b : Nat} (h : 128 ∣ b) (pa : Nat) : b ≤ 128 * (pa / 128) ↔ b ≤ pa := by omega

theorem lineStart_upper {b : Nat} (h : 128 ∣ b) (pa : Nat) : 128 * (pa / 128) < b ↔ pa < b := by omega

/-- Both lie in the same granule of a range that begins at a line. -/
theorem lineStart_granule {b g : Nat} (hb : 128 ∣ b) (hg : 128 ∣ g) (pa : Nat) : (128 * (pa / 128) - b) / g = (pa - b) / g := by
  obtain ⟨m, rfl⟩ := hg
  rw [← Nat.div_div_eq_div_mul, ← Nat.div_div_eq_div_mul]
  congr 1
  omega

theorem line_dvd_gib (n : Nat) : 128 ∣ n * gib := Dvd.dvd.mul_left (by decide) n

theorem line_dvd_tierBase (n : Nat) : 128 ∣ 0x100000000000 + n * gib := Nat.dvd_add (by decide) (line_dvd_gib n)

theorem line_dvd_granule (n : Nat) : 128 ∣ 2 ^ (12 + n) := Nat.pow_dvd_pow 2 (show 7 ≤ 12 + n by omega)

theorem inHbmRange_lineStart (s : State) (n pa : Nat) : inHbmRange s n (128 * (pa / 128)) = inHbmRange s n pa := by
  unfold inHbmRange hbmBase hbmSize
  rw [← Nat.add_mul]
  simp only [lineStart_lower (line_dvd_gib _), lineStart_upper (line_dvd_gib _)]

theorem inTierRange_lineStart (s : State) (n pa : Nat) : inTierRange s n (128 * (pa / 128)) = inTierRange s n pa := by
  unfold inTierRange tierBase tierSize
  rw [Nat.add_assoc, ← Nat.add_mul]
  simp only [lineStart_lower (line_dvd_tierBase _), lineStart_upper (line_dvd_tierBase _)]

theorem homeDie_lineStart (s : State) (pa : Nat) : homeDie s (128 * (pa / 128)) = homeDie s pa := by
  unfold homeDie partOfPa
  simp only [inHbmRange_lineStart, inTierRange_lineStart, hbmBase, tierBase, lineStart_granule (line_dvd_gib _) (line_dvd_granule _),
    lineStart_granule (line_dvd_tierBase _) (line_dvd_granule _)]

/-! ### What a die has yet to forward (R131) -/

/-- The end of a list after the last element that fails a test passes it. -/
theorem drop_takeWhile_reverse {α : Type} (p : α → Bool) (l : List α) :
    l.drop (l.length - (l.reverse.takeWhile p).length) = l.rtakeWhile p := by
  have hend : l.rtakeWhile p = l.drop (l.length - (l.rtakeWhile p).length) := List.suffix_iff_eq_drop.mp (List.rtakeWhile_suffix p l)
  rw [hend, List.rtakeWhile, List.length_reverse]

theorem performForward_forwards (s : State) (f : Forward) : (performForward s f).forwards = s.forwards := by
  refine (homeWrite_forwards ..).trans ?_
  obtain ⟨m, hm⟩ := countL2_eq s (homeDie s f.pa) (lineOf f.pa) f.key
  rw [hm, writeMiss]
  split <;> rfl

/-- Of the writes that a die has yet to forward to a line's home none is left to the line. -/
theorem flushLine_forwarded {s : State} {d line : Nat} {f : Forward} (h : f ∈ (flushLine s d line).forwards) (hd : f.die = d)
    (hh : f.home = homeDie s (128 * line)) : lineOf f.pa ≠ line := by
  unfold flushLine at h
  extract_lets home mine n now t at h
  have hkept : (now.foldl performForward t).forwards = t.forwards :=
    foldl_keeps (p := fun u => u.forwards = t.forwards) (fun u f hu => (performForward_forwards u f).trans hu) rfl
  rw [hkept] at h
  obtain hother | hmine := List.mem_append.mp h
  · obtain ⟨-, hnot⟩ := List.mem_filter.mp hother
    simp [hd, hh, home] at hnot
  · simp only [n, drop_takeWhile_reverse] at hmine
    exact of_decide_eq_true (List.mem_rtakeWhile_imp (p := fun f : Forward => decide (lineOf f.pa ≠ line)) hmine)

/-- A die that has nothing of a line to forward performs nothing. -/
theorem flushLine_noForward {s : State} {d line : Nat} (h : NoForward s d line) : ∃ l, flushLine s d line = { s with forwards := l } := by
  unfold flushLine
  extract_lets home mine n now t
  have hall : mine.rtakeWhile (fun f => lineOf f.pa ≠ line) = mine := by
    refine List.rtakeWhile_eq_self_iff.mpr fun f hf => ?_
    obtain ⟨hmem, hmine⟩ := List.mem_filter.mp hf
    have hdie : f.die = d := of_decide_eq_true (Bool.and_eq_true_iff.mp hmine).1
    exact decide_eq_true ((h f hmem).resolve_left (not_not_intro hdie))
  have hnow : now = [] := by
    have hdrop : mine.drop n = mine := (drop_takeWhile_reverse _ mine).trans hall
    exact List.append_left_eq_self.mp ((List.take_append_drop n mine).trans hdrop.symm)
  rw [hnow]
  exact ⟨_, rfl⟩

/-! ### Work at a die's slices (R100-R102, R131, R293) -/

/-- Nothing has changed but memory, its caches and what goes with them; where the die had nothing to forward, no byte either, and it has
nothing to forward still. -/
def SliceWork (d : Nat) (s t : State) : Prop :=
  offMemory t = offMemory s ∧ ((∀ f ∈ s.forwards, f.die ≠ d) → t.phys = s.phys ∧ ∀ f ∈ t.forwards, f.die ≠ d)

theorem sliceWork_of_eq {d : Nat} {s t : State} (h : offMemory t = offMemory s) (hp : t.phys = s.phys)
    (hf : t.forwards = s.forwards) : SliceWork d s t := ⟨h, fun hs => ⟨hp, hf ▸ hs⟩⟩

theorem sliceWork_trans {d : Nat} {s t u : State} (h : SliceWork d s t) (k : SliceWork d t u) : SliceWork d s u := by
  obtain ⟨hoff, hquiet⟩ := h
  obtain ⟨koff, kquiet⟩ := k
  refine ⟨koff.trans hoff, fun hs => ?_⟩
  obtain ⟨hphys, ht⟩ := hquiet hs
  obtain ⟨kphys, hu⟩ := kquiet ht
  exact ⟨kphys.trans hphys, hu⟩

theorem sameBytes_of_offMemory {s t : State} (h : offMemory t = offMemory s) (hp : t.phys = s.phys) : SameBytes s t := by
  have hcommons : (offMemory t).commons = (offMemory s).commons := congrArg State.commons h
  exact sameBytes_of_eq hp (cells_of_offMemory h) hcommons

theorem sliceWork_onlyLookup {d : Nat} {s t : State} (h : OnlyLookup s t) : SliceWork d s t := by
  unfold OnlyLookup at h
  rw [h]
  exact sliceWork_of_eq rfl rfl rfl

theorem sliceWork_flushLine (s : State) (d line : Nat) : SliceWork d s (flushLine s d line) := by
  refine ⟨offMemory_flushLine s d line, fun hs => ?_⟩
  obtain ⟨hcopies, hmem⟩ := onlyCopies_flushLine (line := line) fun f hf => .inl (hs f hf)
  exact ⟨phys_of_onlyCopies hcopies, fun f hf => hs f (hmem f hf)⟩

theorem sliceWork_dropReplica (s : State) (d line : Nat) : SliceWork d s (dropReplica s d line) :=
  sliceWork_trans (sliceWork_flushLine s d line) (sliceWork_of_eq rfl rfl rfl)

theorem sliceWork_makeRoom (s : State) (d line : Nat) : SliceWork d s (makeRoom s d line) := by
  unfold makeRoom
  split
  · exact sliceWork_of_eq rfl rfl rfl
  · split
    · exact sliceWork_of_eq rfl rfl rfl
    · split
      · exact sliceWork_trans (sliceWork_dropReplica s d _) (sliceWork_of_eq rfl rfl rfl)
      · exact sliceWork_of_eq rfl rfl rfl

theorem sliceWork_install (s : State) (d line key : Nat) : SliceWork d s (install s d line key) := by
  unfold install
  split
  · exact sliceWork_of_eq rfl rfl rfl
  · exact sliceWork_trans (sliceWork_makeRoom s d line) (sliceWork_of_eq rfl rfl rfl)

theorem sliceWork_addReplica (s : State) (r : Replica) : SliceWork r.die s (addReplica s r) :=
  sliceWork_trans (sliceWork_makeRoom s r.die r.line) (sliceWork_of_eq rfl rfl rfl)

theorem sliceWork_readMiss (s : State) (d line key : Nat) : SliceWork d s (readMiss s d line key) := by
  unfold readMiss
  split <;> exact sliceWork_of_eq rfl rfl rfl

theorem sliceWork_bringLine (s : State) (d pa key : Nat) : SliceWork d s (bringLine s d pa key) := by
  unfold bringLine
  extract_lets line r
  have hread : SliceWork d s r.2 :=
    sliceWork_trans (sliceWork_dropReplica s d line) (sliceWork_onlyLookup (onlyLookup_physReadLine ..))
  split
  · exact sliceWork_install ..
  · split
    · exact sliceWork_of_eq rfl rfl rfl
    · exact sliceWork_trans hread (sliceWork_addReplica r.2 { die := d, line := line, key := key, data := _ })

theorem sliceWork_prefetchLine (s : State) (d pa key : Nat) : SliceWork d s (prefetchLine s d pa key) := by
  unfold prefetchLine
  extract_lets line t
  have ht : SliceWork d s t := sliceWork_readMiss ..
  split
  · exact ht
  · exact sliceWork_trans ht (sliceWork_bringLine ..)

theorem sliceWork_sliceRead (s : State) (d pa n key attr : Nat) (fresh : Bool) :
    SliceWork d s (sliceRead s d pa n key attr fresh).2 := by
  unfold sliceRead
  extract_lets line
  split
  · exact sliceWork_of_eq rfl rfl rfl
  · exact sliceWork_trans (sliceWork_flushLine s d line) (sliceWork_onlyLookup (onlyLookup_physReadLine ..))

theorem sliceWork_fillL1 (s : State) (core asid : Nat) (va : Word) (pa key : Nat) (wr : Bool) :
    SliceWork (dieOf (core / 4)) s (fillL1 s core asid va pa key wr) :=
  sliceWork_trans (sliceWork_sliceRead s (dieOf (core / 4)) (pa / 128 * 128) 128 key 0 false) (sliceWork_of_eq rfl rfl rfl)

/-! ### An address is maintained (R293) -/

theorem readS_readable {x : Slot} {r : BitVec 6} (h : Readable x r) : readS x r.toNat = .ok (x.sval r.toNat) := by
  have hsound : (decide (r.toNat ≠ 0) && x.serr.getLsbD r.toNat) = false := badS_readable h
  obtain ⟨-, hfull, -⟩ := h
  rw [readS, hfull, hsound]
  rfl

/-- What a maintenance operation leaves: the translation of its address, and with one what it does to the line. -/
def maintained (s : State) (ea : Word) (rd : Bool) (f : Nat → Nat → Nat → Word → State → State) : State :=
  match (maintTarget s ea rd).1 with
  | some t => f t.1 t.2.1 t.2.2 ea (maintTarget s ea rd).2
  | none => (maintTarget s ea rd).2

theorem maintained_leadsTo {s u : State} {ea : Word} {rd : Bool} {pa key attr : Nat} (f : Nat → Nat → Nat → Word → State → State)
    (h : LeadsTo s ea rd false pa key attr u) : maintained s ea rd f = f pa key attr ea u := by
  have ht : maintTarget s ea rd = (some (pa, key, attr), u) := by
    unfold maintTarget
    rw [show xlateCell s (cellOfSlot s.cur) ea rd false = _ from h]
  rw [maintained, ht]

/-- With a translation or without one: what a lookup leaves, and what the operation makes of that on every line. -/
theorem maintained_keeps {p : State → Prop} {s : State} (ea : Word) (rd : Bool) {f : Nat → Nat → Nat → Word → State → State}
    (hlook : ∀ u, OnlyLookup s u → p u) (hf : ∀ u pa key attr, OnlyLookup s u → p (f pa key attr ea u)) : p (maintained s ea rd f) := by
  have hs : OnlyLookup s (maintTarget s ea rd).2 := by
    have hx := onlyLookup_xlateCell s (cellOfSlot s.cur) ea rd false
    unfold maintTarget
    split
    next e => exact onlyLookup_snd e hx
    next e => exact onlyLookup_snd e hx
  unfold maintained
  split
  · exact hf _ _ _ _ hs
  · exact hlook _ hs

theorem leadsTo_onlyLookup {s u : State} {ea : Word} {rd wr : Bool} {pa key attr : Nat} (h : LeadsTo s ea rd wr pa key attr u) :
    OnlyLookup s u := onlyLookup_snd h (onlyLookup_xlateCell ..)

theorem offMemory_of_onlyLookup {s u : State} (h : OnlyLookup s u) : offMemory u = offMemory s ∧ u.phys = s.phys := by
  unfold OnlyLookup at h
  rw [h]
  exact ⟨rfl, rfl⟩

theorem cur_of_onlyLookup {s u : State} (h : OnlyLookup s u) : u.cur = s.cur := cur_of_offMemory (offMemory_of_onlyLookup h).1

theorem home_of_onlyLookup {s u : State} (h : OnlyLookup s u) : home u = home s := congrArg cellOfSlot (cur_of_onlyLookup h)

theorem finish_maint {s : State} {a : BitVec 6} (ha : Readable (here s) a) (rd : Bool) (f : Nat → Nat → Nat → Word → State → State) :
    finish s (maint a rd f s) = .next (wentOn s (maintained s ((here s).sval a.toNat) rd f)) := by
  unfold maint
  extract_lets x
  rw [show x = here s from rfl, boundS_single ha.1, res_ok_bind, readS_readable ha, res_ok_bind]
  rfl

/-! ### What each maintenance instruction does to its line (R293) -/

/-- CINV: the line goes from the core's L1, and the replica of a line that is homed elsewhere with nothing in it to be forwarded. -/
def lineInvalidated (pa : Nat) (s : State) : State :=
  let core := coreOf s.cur
  let d := dieOf (core / 4)
  let t := s.modCore core (fun c => L1.drop c (fun l => l.pa = lineOf pa))
  if homeDie t pa ≠ d && !t.forwards.any (fun f => f.die = d && lineOf f.pa = lineOf pa) then dropReplica t d (lineOf pa) else t

/-- CWB: what the die has yet to forward of the line goes home. -/
def lineFlushed (pa : Nat) (s : State) : State := flushLine s (dieOf (cellOfSlot s.cur)) (lineOf pa)

/-- PREF.W: the line of a cached page comes to the die's slice, unless an error lies in it. -/
def lineFetched (pa key attr : Nat) (s : State) : State :=
  if attr ≠ 0 || physErr s (pa / 128 * 128) 128 then s else prefetchLine s (dieOf (cellOfSlot s.cur)) pa key

/-- PREF: it comes to the core's L1 too. -/
def lineLoaded (pa key attr : Nat) (ea : Word) (s : State) : State :=
  if attr ≠ 0 || physErr s (pa / 128 * 128) 128 then s
  else
    let core := coreOf s.cur
    let wr := match xlateCell s (core / 4) ea true true with | (.ok _ _ _, _) => true | _ => false
    fillL1 (prefetchLine s (dieOf (core / 4)) pa key) core (s.casid (core / 4)) ea pa key wr

theorem bytesQuiet_ok {s : State} {va : Word} {n : Nat} (h : BytesQuiet s va n) : bytesQuiet s va n = .ok () := by
  refine guardH_ok.mpr ?_
  simpa [BytesQuiet] using h

theorem bytesQuiet_open {s : State} {va : Word} {n : Nat} (h : ¬BytesQuiet s va n) : bytesQuiet s va n = .error .hold := by
  refine if_neg fun hguard => h ?_
  simpa [BytesQuiet] using hguard

section
variable {s : State} {a : BitVec 6} (ha : Readable (here s) a)
include ha

theorem exec_cinv : exec (.cinv a) s =
    .next (wentOn s (maintained s ((here s).sval a.toNat) false (fun pa _ _ _ => lineInvalidated pa))) := finish_maint ha ..

theorem exec_prefW : exec (.prefW a) s =
    .next (wentOn s (maintained s ((here s).sval a.toNat) false (fun pa key attr _ => lineFetched pa key attr))) := finish_maint ha ..

theorem exec_pref : exec (.pref a) s = .next (wentOn s (maintained s ((here s).sval a.toNat) true lineLoaded)) := finish_maint ha ..

theorem exec_cwb (hq : LineQuiet s ((here s).sval a.toNat)) : exec (.cwb a) s =
    .next (wentOn s (maintained s ((here s).sval a.toNat) false (fun pa _ _ _ => lineFlushed pa))) := by
  rw [← finish_maint ha]
  change execCwb a s = _
  unfold execCwb
  extract_lets x
  rw [show x = here s from rfl, boundS_single ha.1, res_ok_bind, readS_readable ha, res_ok_bind]
  split
  next hlower =>
    obtain ⟨hcan, hlow⟩ := Bool.and_eq_true_iff.mp hlower
    rw [bytesQuiet_ok (hq hcan (Bool.not_eq_true' _ ▸ hlow))]
    rfl
  next => rfl

theorem exec_cwb_waits (hq : ¬LineQuiet s ((here s).sval a.toNat)) : exec (.cwb a) s = .next s := by
  simp only [LineQuiet, not_forall] at hq
  obtain ⟨hcan, hlow, hopen⟩ := hq
  change execCwb a s = _
  unfold execCwb
  extract_lets x
  rw [show x = here s from rfl, boundS_single ha.1, res_ok_bind, readS_readable ha, res_ok_bind,
    if_pos (by rw [hcan, hlow]; rfl), bytesQuiet_open hopen]
  rfl

end

theorem wentOn_offMemory {s u : State} (h : offMemory u = offMemory s) :
    here (wentOn s u) = (here s).next ∧ OtherSlots s (wentOn s u) :=
  ⟨wentOn_here (cur_of_offMemory h) (slot_of_offMemory h), wentOn_otherSlots (cur_of_offMemory h) (slot_of_offMemory h)⟩

theorem wentOn_core (s u : State) (k : Nat) : (wentOn s u).core k = u.core k := count_core ..
theorem wentOn_forwards (s u : State) : (wentOn s u).forwards = u.forwards := count_field (·.forwards) (fun _ _ => rfl) ..
theorem wentOn_replicas (s u : State) : (wentOn s u).replicas = u.replicas := count_field (·.replicas) (fun _ _ => rfl) ..
theorem wentOn_lines (s u : State) : (wentOn s u).lines = u.lines := count_field (·.lines) (fun _ _ => rfl) ..
theorem wentOn_misses (s u : State) : (wentOn s u).misses = u.misses := count_field (·.misses) (fun _ _ => rfl) ..

/-! ### CINV leaves no copy of the line in the core's L1 -/

/-- Of a line that it takes out of the die too, the die has nothing to forward. -/
theorem lineInvalidated_eq (pa : Nat) (s : State) : ∃ fs rs, lineInvalidated pa s =
    { s.modCore (coreOf s.cur) (fun c => L1.drop c (fun l => l.pa = lineOf pa)) with forwards := fs, replicas := rs } := by
  unfold lineInvalidated
  extract_lets core d t
  split
  next hdrop =>
    obtain ⟨-, hnone⟩ := Bool.and_eq_true_iff.mp hdrop
    have hquiet : NoForward t d (lineOf pa) := fun f hf => by
      have hf' := List.any_eq_false.mp (Bool.not_eq_true' _ ▸ hnone) f hf
      rw [← not_and_or]
      rintro ⟨hdie, hline⟩
      exact hf' (by simp [hdie, hline])
    obtain ⟨fs, hflush⟩ := flushLine_noForward hquiet
    rw [dropReplica, hflush]
    exact ⟨fs, _, rfl⟩
  next => exact ⟨_, _, rfl⟩

theorem lineInvalidated_keeps (pa : Nat) (s : State) :
    offMemory (lineInvalidated pa s) = offMemory s ∧ (lineInvalidated pa s).phys = s.phys := by
  obtain ⟨fs, rs, h⟩ := lineInvalidated_eq pa s
  rw [h]
  exact ⟨rfl, rfl⟩

theorem cinv_keeps (s : State) (ea : Word) :
    offMemory (maintained s ea false (fun pa _ _ _ => lineInvalidated pa)) = offMemory s ∧
      (maintained s ea false (fun pa _ _ _ => lineInvalidated pa)).phys = s.phys := by
  refine maintained_keeps (p := fun t => offMemory t = offMemory s ∧ t.phys = s.phys) ea false
    (fun u h => offMemory_of_onlyLookup h) fun u pa _ _ h => ?_
  obtain ⟨hoff, hphys⟩ := lineInvalidated_keeps pa u
  obtain ⟨uoff, uphys⟩ := offMemory_of_onlyLookup h
  exact ⟨hoff.trans uoff, hphys.trans uphys⟩

theorem lineInvalidated_l1 {pa : Nat} {s : State} {q : Nat × L1Set} {l : L1Line}
    (hq : q ∈ ((lineInvalidated pa s).core (coreOf s.cur)).l1) (hl : some l ∈ q.2.ways) : l.pa ≠ lineOf pa := by
  obtain ⟨fs, rs, h⟩ := lineInvalidated_eq pa s
  rw [h] at hq
  have hcore : q ∈ ((s.modCore (coreOf s.cur) (fun c => L1.drop c (fun l => l.pa = lineOf pa))).core (coreOf s.cur)).l1 := hq
  rw [State.modCore, State.core_setCore_same] at hcore
  exact of_decide_eq_false (drop_line hcore hl)

/-! ### A prefetch brings the line to the die's slice (R102, R131) -/

/-- A line is in its home's slice, or a miss register brings it there. -/
def InSlice (s : State) (d line : Nat) : Prop :=
  (∃ x ∈ s.lines, x.die = d ∧ x.line = line) ∨ ∃ q ∈ s.misses, q.die = d ∧ q.line = line

theorem lineStamp_ne_none {s : State} {d line : Nat} : lineStamp s d line ≠ none ↔ ∃ x ∈ s.lines, x.die = d ∧ x.line = line := by
  simp [lineStamp]

theorem mergeable_miss {s : State} {d line : Nat} (h : mergeable s d line = true) : ∃ q ∈ s.misses, q.die = d ∧ q.line = line := by
  obtain ⟨q, hq, hmatch⟩ := List.any_eq_true.mp h
  obtain ⟨hboth, -⟩ := Bool.and_eq_true_iff.mp hmatch
  exact ⟨q, hq, by simpa using hboth⟩

/-- A read that misses where a miss can be taken finds its line there, or a miss register that takes it. -/
theorem readMiss_cases {s : State} {d line : Nat} (key : Nat) (h : CanMiss s d line) :
    (present s d line key = true ∧ readMiss s d line key = s) ∨ mergeable (readMiss s d line key) d line = true := by
  unfold readMiss
  by_cases hp : present s d line key = true
  · exact .inl ⟨hp, by simp [hp]⟩
  · right
    by_cases hm : mergeable s d line = true
    · simp [hm]
    · have hfree : missFree s d line = true := h.resolve_right hm
      rw [if_neg (by simp [hp, hm, hfree])]
      exact List.any_eq_true.mpr ⟨_, List.mem_append_right _ (List.mem_singleton_self _), by simp⟩

theorem readMiss_inSlice {s : State} {d pa : Nat} (key : Nat) (h : CanMiss s d (lineOf pa)) (hd : homeDie s pa = d) :
    InSlice (readMiss s d (lineOf pa) key) d (lineOf pa) := by
  obtain ⟨hp, hkept⟩ | hm := readMiss_cases key h
  · rw [hkept]
    have hhome : homeDie s (128 * lineOf pa) = d := (homeDie_lineStart s pa).trans hd
    rw [present, if_pos hhome] at hp
    exact .inl (lineStamp_ne_none.mp fun hnone => by rw [hnone] at hp; cases hp)
  · exact .inr (mergeable_miss hm)

theorem prefetchLine_home {s : State} {d pa : Nat} (key : Nat) (hd : homeDie s pa = d) :
    prefetchLine s d pa key = readMiss s d (lineOf pa) key := by
  unfold prefetchLine
  extract_lets line t
  rw [if_pos (by simp [hd])]

theorem bringLine_replica {s : State} {d pa : Nat} (key : Nat) (hd : homeDie s pa ≠ d) :
    replicaOf (bringLine s d pa key) d (lineOf pa) key ≠ none := by
  unfold bringLine
  extract_lets line r
  rw [if_neg hd]
  split
  next hrep => rw [hrep]; exact Option.some_ne_none _
  next => simp [addReplica, replicaOf, List.find?_append, line]

theorem readMiss_homeDie (s : State) (d line key pa : Nat) : homeDie (readMiss s d line key) pa = homeDie s pa := by
  unfold readMiss
  split <;> rfl

theorem prefetchLine_replica {s : State} {d pa : Nat} (key : Nat) (h : CanMiss s d (lineOf pa)) (hd : homeDie s pa ≠ d) :
    replicaOf (prefetchLine s d pa key) d (lineOf pa) key ≠ none := by
  have htaken : (present s d (lineOf pa) key || mergeable (readMiss s d (lineOf pa) key) d (lineOf pa)) = true := by
    obtain ⟨hp, -⟩ | hm := readMiss_cases key h
    · rw [hp, Bool.true_or]
    · rw [hm, Bool.or_true]
  unfold prefetchLine
  extract_lets line t
  rw [if_neg (by rw [htaken]; simp [hd])]
  exact bringLine_replica key (readMiss_homeDie s d line key pa ▸ hd)

/-! ### The fill of the core's L1 leaves the line there (R99, R293) -/

theorem inSlice_of_eq {s t : State} {d line : Nat} (hl : t.lines = s.lines) (hm : t.misses = s.misses) (h : InSlice s d line) :
    InSlice t d line := by
  unfold InSlice
  rwa [hl, hm]

theorem inSlice_writeMiss {s : State} {d line : Nat} (e l key : Nat) (h : InSlice s d line) : InSlice (writeMiss s e l key) d line := by
  unfold writeMiss
  split
  · exact h.imp_right fun ⟨q, hq, hmatch⟩ => ⟨q, List.mem_append_left _ hq, hmatch⟩
  · exact h

theorem inSlice_serialise {s : State} {d line : Nat} (e l key : Nat) (h : InSlice s d line) : InSlice (serialise s e l key) d line := by
  obtain ⟨x, hx, hmatch⟩ | ⟨q, hq, hmatch⟩ := h
  · refine .inl ⟨_, List.mem_map_of_mem hx, ?_⟩
    split <;> exact hmatch
  · refine .inr ⟨_, List.mem_map_of_mem hq, ?_⟩
    split <;> exact hmatch

theorem inSlice_physWriteLine {s : State} {d line : Nat} (pa n v key : Nat) (h : InSlice s d line) :
    InSlice (physWriteLine s pa n v key) d line := by
  unfold physWriteLine
  extract_lets l t
  have ht : t.lines = s.lines ∧ t.misses = s.misses := by
    simp only [t]
    split <;> exact ⟨rfl, rfl⟩
  exact inSlice_of_eq ht.1 ht.2 h

theorem inSlice_performForward {s : State} {d line : Nat} (f : Forward) (h : InSlice s d line) : InSlice (performForward s f) d line := by
  obtain ⟨m, hm⟩ := countL2_eq s (homeDie s f.pa) (lineOf f.pa) f.key
  have hcount : InSlice (countL2 s (homeDie s f.pa) (lineOf f.pa) f.key) d line := by
    rw [hm]
    exact h
  have hmiss := inSlice_writeMiss (homeDie s f.pa) (lineOf f.pa) f.key hcount
  unfold performForward cachedWrite
  generalize writeMiss (countL2 s (homeDie s f.pa) (lineOf f.pa) f.key) (homeDie s f.pa) (lineOf f.pa) f.key = u at hmiss ⊢
  have hwrite := inSlice_physWriteLine f.pa f.n f.v f.key (inSlice_serialise (homeDie u f.pa) (lineOf f.pa) f.key hmiss)
  exact hwrite

theorem inSlice_flushLine {s : State} {d line : Nat} (e l : Nat) (h : InSlice s d line) : InSlice (flushLine s e l) d line :=
  foldl_keeps (p := fun u => InSlice u d line) (fun _ f hu => inSlice_performForward f hu) h

theorem inSlice_sliceRead {s : State} {d line : Nat} (e pa n key attr : Nat) (fresh : Bool) (h : InSlice s d line) :
    InSlice (sliceRead s e pa n key attr fresh).2 d line := by
  unfold sliceRead
  extract_lets l
  split
  · exact h
  · have hread : OnlyLookup (flushLine s e l) (physReadLine (flushLine s e l) pa n key).2 := onlyLookup_physReadLine ..
    unfold OnlyLookup at hread
    rw [hread]
    exact inSlice_flushLine e l h

theorem inSlice_fillL1 {s : State} {d line : Nat} (core asid : Nat) (va : Word) (pa key : Nat) (wr : Bool) (h : InSlice s d line) :
    InSlice (fillL1 s core asid va pa key wr) d line :=
  inSlice_sliceRead (dieOf (core / 4)) (pa / 128 * 128) 128 key 0 false h

/-- A fill whose line stands at the die as a replica reads that, and leaves it. -/
theorem fillL1_replicas {s : State} {core pa key : Nat} (asid : Nat) (va : Word) (wr : Bool)
    (h : replicaOf s (dieOf (core / 4)) (lineOf pa) key ≠ none) : (fillL1 s core asid va pa key wr).replicas = s.replicas := by
  obtain ⟨r, hr⟩ := Option.ne_none_iff_exists'.mp h
  have hline : lineOf (pa / 128 * 128) = lineOf pa := Nat.mul_div_cancel (pa / 128) (by decide)
  have hread : (sliceRead s (dieOf (core / 4)) (pa / 128 * 128) 128 key 0 false).2 = s := by
    unfold sliceRead
    rw [hline]
    dsimp only
    rw [if_neg (by decide), hr]
  change (sliceRead s (dieOf (core / 4)) (pa / 128 * 128) 128 key 0 false).2.replicas = s.replicas
  rw [hread]

/-! ### The two prefetches -/

theorem sliceWork_lineFetched (pa key attr : Nat) (s : State) :
    SliceWork (dieOf (home s)) s (lineFetched pa key attr s) := by
  unfold lineFetched
  split
  · exact sliceWork_of_eq rfl rfl rfl
  · exact sliceWork_prefetchLine ..

theorem sliceWork_lineLoaded (pa key attr : Nat) (ea : Word) (s : State) :
    SliceWork (dieOf (home s)) s (lineLoaded pa key attr ea s) := by
  unfold lineLoaded
  split
  · exact sliceWork_of_eq rfl rfl rfl
  · rw [← coreOf_cell]
    exact sliceWork_trans (sliceWork_prefetchLine ..) (sliceWork_fillL1 ..)

/-- The line of an address is at the die: in its home's slice or on its way there, or as a replica under a key. -/
def LineBrought (s t : State) (d pa key : Nat) : Prop :=
  (homeDie s pa = d → lineStamp t d (pa / 128) ≠ none ∨ ∃ q ∈ t.misses, q.die = d ∧ q.line = pa / 128) ∧
    (homeDie s pa ≠ d → replicaOf t d (pa / 128) key ≠ none)

theorem lineBrought_intro {s t : State} {d pa key : Nat} (hhome : homeDie s pa = d → InSlice t d (lineOf pa))
    (haway : homeDie s pa ≠ d → replicaOf t d (lineOf pa) key ≠ none) : LineBrought s t d pa key :=
  ⟨fun h => (hhome h).imp_left lineStamp_ne_none.mpr, haway⟩

theorem lineBrought_wentOn {r s t : State} {d pa key : Nat} (h : LineBrought s t d pa key) :
    LineBrought s (wentOn r t) d pa key := by
  unfold LineBrought lineStamp replicaOf at *
  rwa [wentOn_lines, wentOn_misses, wentOn_replicas]

section
variable {s : State} {pa key : Nat} (he : physErr s (pa / 128 * 128) 128 = false) (hm : CanMiss s (dieOf (home s)) (pa / 128))
include he hm

theorem lineFetched_brought : LineBrought s (lineFetched pa key 0 s) (dieOf (home s)) pa key := by
  have hfetch : lineFetched pa key 0 s = prefetchLine s (dieOf (home s)) pa key := if_neg (by simp [he])
  rw [hfetch]
  refine lineBrought_intro (fun hd => ?_) (prefetchLine_replica key hm)
  rw [prefetchLine_home key hd]
  exact readMiss_inSlice key hm hd

theorem lineLoaded_brought (ea : Word) : LineBrought s (lineLoaded pa key 0 ea s) (dieOf (home s)) pa key := by
  rw [← coreOf_cell] at hm ⊢
  have hload : ∃ wr, lineLoaded pa key 0 ea s = fillL1 (prefetchLine s (dieOf (coreOf s.cur / 4)) pa key) (coreOf s.cur)
      (s.casid (coreOf s.cur / 4)) ea pa key wr := ⟨_, if_neg (by simp [he])⟩
  obtain ⟨wr, hload⟩ := hload
  rw [hload]
  refine lineBrought_intro (fun hd => inSlice_fillL1 _ _ _ _ _ _ ?_) fun hd => ?_
  · rw [prefetchLine_home key hd]
    exact readMiss_inSlice key hm hd
  · have hrep := prefetchLine_replica key hm hd
    rw [replicaOf, fillL1_replicas _ _ _ hrep]
    exact hrep

end

/-! ### The statement -/

/-- A maintenance instruction goes on after work at the slices, which changes no byte where the die has none to forward; CINV never
changes one. -/
theorem exec_maintenance {s : State} {a : BitVec 6} {i : Instr} (hi : i = .cinv a ∨ i = .pref a ∨ i = .prefW a ∨ i = .cwb a)
    (ha : Readable (here s) a) (hq : i = .cwb a → LineQuiet s ((here s).sval a.toNat)) :
    ∃ u, exec i s = .next (wentOn s u) ∧ offMemory u = offMemory s ∧
      (i = .cinv a ∨ (∀ f ∈ s.forwards, f.die ≠ dieOf (home s)) → u.phys = s.phys) := by
  have hlook (u : State) (h : OnlyLookup s u) : SliceWork (dieOf (home s)) s u := sliceWork_onlyLookup h
  have hwork (u : State) (hne : i ≠ .cinv a) (h : SliceWork (dieOf (home s)) s u) : offMemory u = offMemory s ∧
      (i = .cinv a ∨ (∀ f ∈ s.forwards, f.die ≠ dieOf (home s)) → u.phys = s.phys) :=
    ⟨h.1, fun hquiet => (h.2 (hquiet.resolve_left hne)).1⟩
  obtain rfl | rfl | rfl | rfl := hi
  · obtain ⟨hoff, hphys⟩ := cinv_keeps s ((here s).sval a.toNat)
    exact ⟨_, exec_cinv ha, hoff, fun _ => hphys⟩
  · exact ⟨_, exec_pref ha, hwork _ (by simp) (maintained_keeps _ true hlook fun u pa key attr h =>
      sliceWork_trans (hlook u h) (home_of_onlyLookup h ▸ sliceWork_lineLoaded pa key attr _ u))⟩
  · exact ⟨_, exec_prefW ha, hwork _ (by simp) (maintained_keeps _ false hlook fun u pa key attr h =>
      sliceWork_trans (hlook u h) (home_of_onlyLookup h ▸ sliceWork_lineFetched pa key attr u))⟩
  · exact ⟨_, exec_cwb ha (hq rfl), hwork _ (by simp) (maintained_keeps _ false hlook fun u pa _ _ h =>
      sliceWork_trans (hlook u h) (home_of_onlyLookup h ▸ sliceWork_flushLine u (dieOf (home u)) (lineOf pa)))⟩

/-- Settles O12: a fence by whether what it waits for is under way, each maintenance instruction by what it does to its line. -/
theorem fencesAndCaches : Obligations.FencesAndCaches := by
  refine ⟨fun s k sc => ⟨fun hdone => ?_, fun hopen => ⟨s, exec_fence_waits hopen, ⟨rfl, fun _ _ => rfl, fun _ _ => rfl⟩, rfl⟩⟩,
    fun s a i hi ha hq => ?_, fun s u t a pa key attr ha hx ht q hq l hl => ?_, fun s a ha hq => exec_cwb_waits ha hq,
    fun s u t a pa key attr ha hq hx ht f hf hd hh => ?_, fun s u t a pa key ha hx he hm ht => ?_,
    fun s u t a pa key ha hx he hm ht => ?_⟩
  · obtain ⟨hhere, hothers⟩ := wentOn_offMemory (fenced_offMemory s k sc)
    refine ⟨_, exec_fence_done hdone, hhere, wentOn_sameBytes (fenced_sameBytes s k sc), hothers, fun hacq hscope r hr hdie => ?_⟩
    have hfenced : fenced s k sc = selfInvalidate s (dieOf (home s)) := if_pos (by simp [hacq, hscope])
    rw [wentOn_replicas, hfenced] at hr
    rw [wentOn_forwards, hfenced]
    exact selfInvalidate_replica (s := s) hr hdie
  · obtain ⟨u, hexec, hoff, hphys⟩ := exec_maintenance hi ha hq
    obtain ⟨hhere, hothers⟩ := wentOn_offMemory hoff
    exact ⟨_, hexec, hhere, hothers, fun h => wentOn_sameBytes (sameBytes_of_offMemory hoff (hphys h))⟩
  · obtain rfl := Host.Outcome.next.inj ((exec_cinv ha).symm.trans ht)
    rw [wentOn_core, maintained_leadsTo _ hx, ← cur_of_onlyLookup (leadsTo_onlyLookup hx)] at hq
    exact lineInvalidated_l1 hq hl
  · obtain rfl := Host.Outcome.next.inj ((exec_cwb ha hq).symm.trans ht)
    rw [wentOn_forwards, maintained_leadsTo _ hx] at hf
    rw [← home_of_onlyLookup (leadsTo_onlyLookup hx)] at hd
    exact flushLine_forwarded hf hd hh
  · obtain rfl := Host.Outcome.next.inj ((exec_prefW ha).symm.trans ht)
    rw [maintained_leadsTo _ hx]
    rw [← home_of_onlyLookup (leadsTo_onlyLookup hx)] at hm ⊢
    exact lineBrought_wentOn (lineFetched_brought he hm)
  · obtain rfl := Host.Outcome.next.inj ((exec_pref ha).symm.trans ht)
    rw [maintained_leadsTo _ hx]
    rw [← home_of_onlyLookup (leadsTo_onlyLookup hx)] at hm ⊢
    exact lineBrought_wentOn (lineLoaded_brought he hm _)

end Sys2Proof.Machine
end

section
/-! O14: `take` and the entry that it takes out of the inbox, `reap` and the slot that it empties. -/

namespace Sys2Proof.Machine
open Claims

/-! ### A state in which the issuing slot has gone on -/

theorem gafferOnly_ok {s : State} (hg : isGaffer s.cur = true) (i : Instr) : gafferOnly i s = .ok () := by
  rw [gafferOnly, hg]
  rfl

theorem peek1_readable {x : Slot} {a : BitVec 6} (h : Readable x a) (m : Bool) :
    peek1 x a.toNat m = .ok (x.sval a.toNat, x.take a.toNat m) := by
  rw [peek1, peekS_readable h]
  rfl

/-- Counting an event leaves every byte (R194). -/
theorem sameBytes_count {s t : State} (h : SameBytes s t) (base ev k : Nat) : SameBytes s (count t base ev k) :=
  sameBytes_trans h (sameBytes_of_eq (count_phys ..) (count_cells ..) (count_commons ..))

theorem here_count (t : State) (base ev k : Nat) : here (count t base ev k) = here t := by
  rw [here, count_cur, count_slot]

/-! ### An owed register that is filled (R64) -/

section
variable (x : Slot) {d : Nat} (v : Word)

theorem sF_fillS_same (hd : d < 64) : (x.fillS d v).sF d = true := by
  by_cases h : d = 0
  · simp [h]
  · rw [Slot.fillS, if_neg h]
    exact Slot.sF_putS_same x v hd

theorem sval_fillS_same (h : d ≠ 0) (hd : d < 64) : (x.fillS d v).sval d = v := by
  rw [Slot.fillS, if_neg h]
  exact Slot.sval_putS_same x v h hd

theorem sval_fillS_ne {r : Nat} (h : r ≠ d) : (x.fillS d v).sval r = x.sval r := by
  rw [Slot.fillS]
  split
  · rfl
  · exact Slot.sval_putS_ne x v h

theorem sval_oweS (r : Nat) : (x.oweS d).sval r = x.sval r := by
  rw [Slot.oweS]
  split <;> rfl

end

/-! ### The entry that leaves an inbox (R148) -/

theorem topLevel_empty {inbox : List (List InboxEntry)} (h : ∀ p < 4, getAt [] inbox p = []) : topLevel inbox = none := by
  simp [topLevel, h]

theorem topLevel_highest {inbox : List (List InboxEntry)} {p : Nat} (hp : p < 4) (hne : getAt [] inbox p ≠ [])
    (hup : ∀ q, p < q → q < 4 → getAt [] inbox q = []) : topLevel inbox = some p := by
  have hlevel (q : Nat) (h : p < q) (h4 : q < 4) : (getAt [] inbox q).isEmpty = true := by rw [hup q h h4]; rfl
  have htop : (getAt [] inbox p).isEmpty = false := by simpa using hne
  unfold topLevel
  match p, hp with
  | 0, _ => simp [hlevel 3, hlevel 2, hlevel 1, htop]
  | 1, _ => simp [hlevel 3, hlevel 2, htop]
  | 2, _ => simp [hlevel 3, htop]
  | 3, _ => simp [htop]

theorem takeInbox_empty {c : Cell} (h : ∀ p < 4, getAt [] c.inbox p = []) : takeInbox c = (0#64, c) := by
  rw [takeInbox, topLevel_empty h]

theorem takeInbox_oldest {c : Cell} {p : Nat} {e : InboxEntry} {rest : List InboxEntry} (hp : p < 4)
    (he : getAt [] c.inbox p = e :: rest) (hup : ∀ q, p < q → q < 4 → getAt [] c.inbox q = []) :
    takeInbox c = (e.record, { c with inbox := setAt c.inbox p rest }) := by
  unfold takeInbox
  rw [topLevel_highest hp (by rw [he]; exact List.cons_ne_nil _ _) hup]
  dsimp only
  rw [he]

theorem takeInbox_mem (c : Cell) : (takeInbox c).2.mem = c.mem := by
  unfold takeInbox
  split
  · rfl
  · split <;> rfl

/-! ### `take` (R148, R296) -/

/-- The state in which `take` has given its register what it takes out of the inbox. -/
def tookInbox (s : State) (d : BitVec 6) : State :=
  let r := takeInbox (s.cell (home s))
  (done (selfInvalidate (s.setCell (home s) r.2) (dieOf (home s))) (((here s).oweS d.toNat).fillS d.toNat r.1)).push
    [.event (.recordPlace (s.partN (home s))), .event (.continuationPlace (s.partN (home s)))]

section
variable {s : State} {d : BitVec 6}

theorem exec_take (hg : isGaffer s.cur = true) (hd : Writable (here s) d) :
    exec (.take d) s = .next (count (tookInbox s d) (cellPerf (home s)) 2 1) := by
  refine congrArg (finish s) (a₂ := .ok (tookInbox s d)) ?_
  exact res_then (gafferOnly_ok hg _) <| res_then (boundS_single hd.1) <| res_then (freeD_writable hd) rfl

/-- What `take` leaves: its register holds what has left the inbox, and no byte has changed. -/
theorem take_takes {v : Word} {c : Cell} (hg : isGaffer s.cur = true) (hd : Writable (here s) d)
    (h : takeInbox (s.cell (home s)) = (v, c)) :
    ∃ t, exec (.take d) s = .next t ∧ Wrote s t d v ∧ (t.cell (home s)).inbox = c.inbox ∧ SameBytes s t := by
  have hslot : here (tookInbox s d) = (((here s).oweS d.toNat).fillS d.toNat v).next := by
    rw [tookInbox, h]
    exact State.slot_setSlot_same ..
  refine ⟨_, exec_take hg hd, ⟨?_, fun j hj => ?_, fun hd0 => ?_, fun r _ hr => ?_⟩, ?_, sameBytes_count ?_ ..⟩
  · rw [here_count, hslot]
    simp
  · rw [count_slot]
    exact State.slot_setSlot_ne _ _ hj
  · rw [here_count, hslot, Slot.next_sF, Slot.next_sval]
    have hne : d.toNat ≠ 0 := fun e => hd0 (BitVec.eq_of_toNat_eq e)
    exact ⟨sF_fillS_same _ _ d.isLt, sval_fillS_same _ _ hne d.isLt⟩
  · rw [here_count, hslot, Slot.next_sval, sval_fillS_ne _ _ hr, sval_oweS]
  · rw [count_cell, tookInbox, h]
    exact congrArg Cell.inbox (State.cell_setCell_same s (home s) c)
  · exact sameBytes_trans (sameBytes_modCell (s := s) (cell := home s) (f := fun c => (takeInbox c).2) takeInbox_mem)
      (sameBytes_of_eq rfl rfl rfl)

end

/-! ### The slot that a `reap` finds (R152) -/

/-- The servitor slots of a core that a `reap` looks at: all of them, or the one named. -/
def reapSlots (v : Word) : List Nat := if v = 0#64 then (List.range 15).map (· + 1) else [v.toNat]

theorem mem_reapSlots {v : Word} (hv : v.toNat < 16) {k : Nat} :
    k ∈ reapSlots v ↔ 1 ≤ k ∧ k < 16 ∧ (v.toNat = 0 ∨ v.toNat = k) := by
  unfold reapSlots
  split
  · next h =>
    subst h
    simp only [List.mem_map, List.mem_range, BitVec.toNat_ofNat, Nat.zero_mod, true_or, and_true]
    exact ⟨fun ⟨j, hj, e⟩ => by omega, fun ⟨h1, h16⟩ => ⟨k - 1, by omega, by omega⟩⟩
  · next h =>
    have hne : v.toNat ≠ 0 := fun e => h (BitVec.eq_of_toNat_eq e)
    rw [List.mem_singleton]
    omega

theorem reapSlots_ascending (v : Word) : (reapSlots v).Pairwise (· < ·) := by
  unfold reapSlots
  split
  · decide
  · exact List.pairwise_singleton ..

/-- The search of an ascending list finds the least that is sought. -/
theorem find?_least {p : Nat → Bool} {l : List Nat} {k : Nat} (hl : l.Pairwise (· < ·)) (hk : k ∈ l) (hp : p k = true)
    (hmin : ∀ j ∈ l, j < k → p j = false) : l.find? p = some k := by
  induction l with
  | nil => cases hk
  | cons a l ih =>
    obtain ⟨hal, hrest⟩ := List.pairwise_cons.mp hl
    obtain rfl | hkl := List.mem_cons.mp hk
    · exact List.find?_cons_of_pos hp
    · rw [List.find?_cons_of_neg (by rw [hmin a List.mem_cons_self (hal k hkl)]; decide)]
      exact ih hrest hkl fun j hj => hmin j (List.mem_cons_of_mem a hj)

theorem reapWord_final {x : Slot} (h : x.hasFinal = true) (sid : Nat) : reapWord sid x = reapOf sid x := by
  unfold Slot.hasFinal at h
  unfold reapWord reapOf slotIx wrap64
  split at h
  · next f info hst =>
    rw [hst]
    cases f <;> simp [Final.code]
  · cases h

/-! ### `reap` (R152) -/

/-- The state in which a `reap` has emptied a slot of its core. -/
def reaped (s : State) (sid : Nat) (y : Slot) : State :=
  (done (s.setSlot sid (emptied (s.slot sid))) y).pushE (.poolGrant (home s))

theorem sameBytes_reaped (s : State) (sid : Nat) (y : Slot) : SameBytes s (reaped s sid y) := sameBytes_of_eq rfl rfl rfl

section
variable {s : State} {d a : BitVec 6} (m : Bool) (hg : isGaffer s.cur = true) (hd : Writable (here s) d)
  (ha : Readable (here s) a) (hv : ((here s).sval a.toNat).toNat < 16)
include hg hd ha hv

/-- What a `reap` comes to, by the slot that its search finds. -/
theorem exec_reap {k : Option Nat} (hk : (reapSlots ((here s).sval a.toNat)).find? (fun k => (s.slot (s.cur + k)).hasFinal) = k) :
    exec (.reap d a m) s = finish s (.ok (match k with
      | none => done s (((here s).take a.toNat m).putS d.toNat 7#64)
      | some k => reaped s (s.cur + k)
          (((here s).take a.toNat m).putS d.toNat (reapWord (s.cur + k) (s.slot (s.cur + k)))))) := by
  have htaken : Writable ((here s).take a.toNat m) d := by
    unfold Writable Slot.sP
    rw [Slot.take_ns, Slot.take_spend]
    exact hd
  refine congrArg (finish s) <| res_then (gafferOnly_ok hg _) <| res_then (boundS_all (by simp [hd.1, ha.1])) <|
    res_then (peek1_readable ha m) <| res_then (v := ()) (guardH_ok.mpr (decide_eq_true hv)) <| res_then (soundS_single ha) ?_
  unfold reapSlots at hk
  simp only [core_servitor hg, hk]
  cases k with
  | none => exact res_then (writeS_writable htaken _) rfl
  | some k => exact res_then (writeS_writable htaken _) rfl

end

/-- Settles O14: `take` by what leaves the inbox, `reap` by whether its search finds a final status. -/
theorem takeAndReap : Obligations.TakeAndReap := by
  refine ⟨fun s d hg hd => ⟨fun hnone => take_takes hg hd (takeInbox_empty hnone), fun p e rest hp he hup =>
    take_takes hg hd (takeInbox_oldest hp he hup)⟩, fun s d a m hg hd ha hv => ⟨fun hnone => ?_, fun k hk hmin => ?_⟩⟩
  · have hfind : (reapSlots ((here s).sval a.toNat)).find? (fun k => (s.slot (s.cur + k)).hasFinal) = none := by
      refine List.find?_eq_none.mpr fun k hk hfin => hnone k ?_
      obtain ⟨h1, h16, hname⟩ := (mem_reapSlots hv).mp hk
      exact ⟨h1, h16, hname, hfin⟩
    exact ⟨_, exec_reap m hg hd ha hv hfind, onlyIssuer_done .., here_done ..⟩
  · obtain ⟨h1, h16, hname, hfin⟩ := hk
    have hfind : (reapSlots ((here s).sval a.toNat)).find? (fun k => (s.slot (s.cur + k)).hasFinal) = some k := by
      refine find?_least (reapSlots_ascending _) ((mem_reapSlots hv).mpr ⟨h1, h16, hname⟩) hfin fun j hj hjk => ?_
      obtain ⟨j1, j16, jname⟩ := (mem_reapSlots hv).mp hj
      exact Bool.eq_false_iff.mpr fun hjf => hmin j hjk ⟨j1, j16, jname, hjf⟩
    have hslot (y : Slot) : (reaped s (s.cur + k) y).slot (s.cur + k) = emptied (s.slot (s.cur + k)) :=
      (State.slot_setSlot_ne _ _ (by simp; omega)).trans (State.slot_setSlot_same ..)
    refine ⟨_, exec_reap m hg hd ha hv hfind, sameBytes_count (sameBytes_reaped ..) .., ?_, ?_, ?_⟩
    · rw [here_count, ← reapWord_final hfin]
      exact State.slot_setSlot_same ..
    · rw [count_slot, hslot]
      rfl
    · rw [count_slot, hslot]
      rfl

end Sys2Proof.Machine
end

section
/-! O16: the requests that `kill`, `yield`, `retire`, `migrate`, `wfi`, `gear` and `ophint` leave with a slot. -/

namespace Sys2Proof.Machine
open Claims

/-! ### A request left with the issuing slot -/

theorem servitorOnly_ok {s : State} (hg : isGaffer s.cur = false) (i : Instr) : servitorOnly i s = .ok () := by
  rw [servitorOnly, hg]
  rfl

/-- An instruction that gives its slot new contents and makes steps due changes no byte and no other slot. -/
theorem leaves_request {s : State} {i : Instr} {y : Slot} {w : List Turn}
    (h : exec i s = finish s (.ok ((s.setSlot s.cur y).push w))) :
    ∃ t, exec i s = .next t ∧ SameBytes s t ∧ OtherSlots s t ∧ here t = y := by
  have hbytes : SameBytes s ((s.setSlot s.cur y).push w) := sameBytes_of_eq rfl rfl rfl
  refine ⟨_, h.trans (finish_ok ..), sameBytes_count hbytes .., fun j hj => ?_, ?_⟩
  · rw [count_slot]
    exact State.slot_setSlot_ne s y hj
  · rw [here_count]
    exact State.slot_setSlot_same ..

/-! ### `kill` (R153, R297) -/

/-- The state in which a `kill` has gone on, with its request left at the slot that it names, if that holds the task. -/
def killAsked (s : State) (sid : Nat) (g : BitVec 8) (y : Slot) : State :=
  if (s.slot sid).isLive && (s.slot sid).gen = g then (done s y).setSlot sid { s.slot sid with killReq := some g } else done s y

section
variable {s : State} {sid : Nat} {g : BitVec 8} {y : Slot}

theorem sameBytes_killAsked : SameBytes s (killAsked s sid g y) := by
  unfold killAsked
  split <;> exact sameBytes_of_eq rfl rfl rfl

theorem killAsked_live (hl : (s.slot sid).isLive = true) (hg : (s.slot sid).gen = g) :
    (killAsked s sid g y).slot sid = { s.slot sid with killReq := some g } := by
  rw [killAsked, if_pos (by simp [hl, hg])]
  exact State.slot_setSlot_same ..

variable (hne : sid ≠ s.cur)
include hne

theorem here_killAsked : here (killAsked s sid g y) = y.next := by
  unfold killAsked
  split
  · exact (State.slot_setSlot_ne (done s y) _ hne.symm).trans (State.slot_setSlot_same ..)
  · exact State.slot_setSlot_same ..

theorem killAsked_gone (h : (s.slot sid).isLive = false ∨ (s.slot sid).gen ≠ g) :
    (killAsked s sid g y).slot sid = s.slot sid := by
  rw [killAsked, if_neg (by simpa [Decidable.imp_iff_not_or] using h)]
  exact State.slot_setSlot_ne s _ hne

end

theorem exec_kill {s : State} {a b : BitVec 6} (m n : Bool) (hg : isGaffer s.cur = true) (ha : Readable (here s) a)
    (hb : Readable (here s) b) (h1 : 1 ≤ ((here s).sval a.toNat).toNat) (h16 : ((here s).sval a.toNat).toNat < 16)
    (hgen : ((here s).sval b.toNat).toNat < 256) :
    exec (.kill a b m n) s = finish s (.ok (killAsked s (s.cur + ((here s).sval a.toNat).toNat)
      (((here s).sval b.toNat).setWidth 8) (((here s).take a.toNat m).take b.toNat n))) := by
  have hother (y : Slot) : (done s y).slot (s.cur + ((here s).sval a.toNat).toNat) =
      s.slot (s.cur + ((here s).sval a.toNat).toNat) := State.slot_setSlot_ne s _ (by omega)
  refine congrArg (finish s) (a₂ := .ok (killAsked s _ _ _)) ?_
  refine res_then (gafferOnly_ok hg _) <| res_then (boundS_all (by simp [ha.1, hb.1])) <| res_then (peek2_readable ha hb m n) <|
    res_then (v := ()) (guardH_ok.mpr (by simp [h1, h16, hgen])) <| res_then (soundS_readable ha hb) ?_
  simp only [core_servitor hg, State.modSlot_eq, hother]
  rfl

/-! ### The status of a `retire` (R150, R297) -/

theorem read1_readable {x : Slot} {a : BitVec 6} (h : Readable x a) (m : Bool) :
    read1 x a.toNat m = .ok (x.sval a.toNat, x.take a.toNat m) := by
  have hbad := badS_readable h
  unfold badS at hbad
  rw [read1, readS, h.2.1, hbad]
  rfl

theorem ofNat_bits32 (v : Word) : BitVec.ofNat 32 (bits v 31 0) = v.setWidth 32 := by
  refine BitVec.eq_of_toNat_eq ?_
  simp [bits]

theorem bits32_eq_zero (v : Word) : bits v 31 0 = 0 ↔ v.setWidth 32 = 0#32 := by
  rw [← ofNat_bits32, ← BitVec.toNat_inj]
  simp [bits]

theorem exec_retire {s : State} {a : BitVec 6} (m : Bool) (hg : isGaffer s.cur = false) (ha : Readable (here s) a) :
    exec (.retire a m) s = finish s (.ok ((s.setSlot s.cur { (here s).take a.toNat m with
      status := .ending (if ((here s).sval a.toNat).setWidth 32 = 0#32 then .ok else .failed) (((here s).sval a.toNat).setWidth 32)
      killReq := none }).push [.event (.taskEnd s.cur)])) := by
  refine congrArg (finish s) <| res_then (servitorOnly_ok hg _) <| res_then (boundS_single ha.1) <|
    res_then (read1_readable ha m) ?_
  simp only [bits32_eq_zero, ofNat_bits32]
  rfl

/-! ### `migrate` (R161, R297) -/

theorem exec_migrate {s : State} {a : BitVec 6} (m : Bool) {c : Nat} (hg : isGaffer s.cur = false) (ha : Readable (here s) a)
    (hn : Names s ((here s).sval a.toNat) 1 c) (hz : bits ((here s).sval a.toNat) 63 22 = 0)
    (hs : bits ((here s).sval a.toNat) 9 6 ≠ 0) (hc : 4 * c + bits ((here s).sval a.toNat) 11 10 ≠ coreOf s.cur) :
    exec (.migrate a m) s = finish s (.ok ((s.setSlot s.cur { ((here s).take a.toNat m).next with
      status := .moving (16 * (4 * c + bits ((here s).sval a.toNat) 11 10) + bits ((here s).sval a.toNat) 9 6) false }).push
        [.event (.migrationSend s.cur)])) := by
  obtain ⟨-, hreg, hcell⟩ := hn
  refine congrArg (finish s) <| res_then (servitorOnly_ok hg _) <| res_then (boundS_single ha.1) <|
    res_then (peek1_readable ha m) <| res_then (v := ()) (guardH_ok.mpr ?_) ?_
  · have hreg0 : bits ((here s).sval a.toNat) 5 0 = 0 := by omega
    simp [twReg, twSlot, hz, hs, hreg0]
  · dsimp only
    rw [show twCellNo s s.cur ((here s).sval a.toNat) = some c from hcell]
    exact res_then (v := ()) (guardH_ok.mpr (decide_eq_true hc)) <| res_then (soundS_single ha) rfl

/-! ### `gear` and `ophint` (R179, R196, R313) -/

theorem setReq_eq (x : Slot) (b : Bool) :
    setReq x b = { x with greq := if b = true then x.greq ||| 1#64 else x.greq &&& ~~~1#64 } := by
  cases b <;> rfl

theorem exec_gear {s : State} {i : BitVec 13} (hi : i.toNat ≤ 1) :
    exec (.gear i) s = finish s (.ok ((s.setSlot s.cur { (here s).next with
      greq := if i.toNat = 1 then (here s).greq ||| 1#64 else (here s).greq &&& ~~~1#64 }).push
        [.event (.gearEvaluate (home s))])) := by
  refine congrArg (finish s) <| res_then (v := ()) (guardH_ok.mpr (decide_eq_true hi)) ?_
  rw [setReq_eq]
  simp only [decide_eq_true_eq]
  rfl

theorem endPhase_rest (s : State) (sid : Nat) :
    (endPhase s sid).cur = s.cur ∧ (endPhase s sid).phys = s.phys ∧ (endPhase s sid).commons = s.commons := by
  unfold endPhase
  dsimp only
  split
  · exact ⟨rfl, rfl, rfl⟩
  · split <;> exact ⟨rfl, rfl, rfl⟩

theorem sameBytes_dueOnce (s : State) (l : Later) : SameBytes s (s.dueOnce l) := by
  unfold State.dueOnce
  split <;> exact sameBytes_of_eq rfl rfl rfl

theorem sameBytes_opLookup (s : State) (sid : Nat) : SameBytes s (opLookup s sid) := by
  unfold opLookup
  extract_lets x t u
  have ht : SameBytes s t :=
    sameBytes_of_mem rfl (fun n => cell_modCell_mem s (cellOfSlot sid) n (f := fun c => { c with lift := .free }) rfl) rfl
  have hu : SameBytes s u := sameBytes_trans ht (sameBytes_dueOnce ..)
  clear_value u
  split
  · exact sameBytes_of_eq rfl rfl rfl
  · split
    · exact sameBytes_trans hu (sameBytes_of_eq rfl rfl rfl)
    · split <;> exact sameBytes_trans hu (sameBytes_of_eq rfl rfl rfl)

theorem opLookup_slot_ne {s : State} {sid j : Nat} (h : j ≠ sid) : (opLookup s sid).slot j = s.slot j := by
  obtain ⟨-, hs | ⟨g, o, hs⟩⟩ := opLookup_slots s sid
  · rw [State.slot, hs]
    rfl
  · rw [State.slot, hs]
    exact FMap.get_put_ne _ _ _ h

/-- The state in which an `ophint` has ended its slot's phase, if it had one, and set the next. -/
def hinted (s : State) (i : BitVec 13) : State :=
  let u := if kernelOf (here s) = 0 then s else endPhase s s.cur
  u.setSlot s.cur { (here s).next with phase := i.setWidth 8 }

theorem sameBytes_hinted (s : State) (i : BitVec 13) : SameBytes s (hinted s i) := by
  obtain ⟨-, hphys, hcommons⟩ := endPhase_rest s s.cur
  unfold hinted
  split
  · exact sameBytes_setSlot ..
  · exact sameBytes_trans (sameBytes_of_eq hphys (cells_endPhase ..) hcommons) (sameBytes_setSlot ..)

theorem slots_hinted (s : State) (i : BitVec 13) : (hinted s i).cur = s.cur ∧
    (hinted s i).slots = (s.setSlot s.cur { (here s).next with phase := i.setWidth 8 }).slots := by
  unfold hinted
  split
  · exact ⟨rfl, rfl⟩
  · exact ⟨(endPhase_rest ..).1, congrArg (FMap.put · _ _) (slots_endPhase ..)⟩

theorem exec_ophint {s : State} {i : BitVec 13} (hi : i.toNat ≤ 255) :
    exec (.ophint i) s = finish s (.ok (opLookup (hinted s i) s.cur)) := by
  refine congrArg (finish s) <| res_then (v := ()) (guardH_ok.mpr (decide_eq_true hi)) ?_
  unfold hinted
  by_cases h : kernelOf (here s) = 0
  · simp only [if_pos h]
    rfl
  · have hslot : (endPhase s s.cur).slot s.cur = here s := by
      rw [State.slot, slots_endPhase]
      rfl
    simp only [if_neg h, (endPhase_rest ..).1, hslot]
    rfl

/-- Settles O16, one request after the other. -/
theorem threadRequests : Obligations.ThreadRequests := by
  refine ⟨fun s a b m n hg ha hb h1 h16 hgen => ?_, fun s hg => ?_, fun s a m hg ha => leaves_request (exec_retire m hg ha),
    fun s a m c hg ha hn hz hs hc => leaves_request (exec_migrate m hg ha hn hz hs hc), fun s => ?_,
    fun s i hi => leaves_request (exec_gear hi), fun s i hi => ?_⟩
  · have hne : s.cur + ((here s).sval a.toNat).toNat ≠ s.cur := by omega
    refine ⟨_, exec_kill m n hg ha hb h1 h16 hgen, sameBytes_count sameBytes_killAsked .., ?_, fun hl hg => ?_, fun h => ?_⟩
    · rw [here_count, here_killAsked hne]
    · rw [count_slot, killAsked_live hl hg]
    · rw [count_slot, killAsked_gone hne h]
  · exact leaves_request (w := [.event (.puntySpill s.cur)]) (congrArg (finish s) (res_then (servitorOnly_ok hg _) rfl))
  · exact ⟨parkSlot s s.cur .wfi, rfl, sameBytes_setSlot .., fun j hj => State.slot_setSlot_ne s _ hj, State.slot_setSlot_same ..⟩
  · obtain ⟨hcur, hslots⟩ := slots_hinted s i
    obtain ⟨hcur', -⟩ := opLookup_slots (hinted s i) s.cur
    obtain ⟨g, o, hg⟩ := opLookup_slot_same (hinted s i) s.cur
    have hslot (j : Nat) : (hinted s i).slot j = (s.setSlot s.cur { (here s).next with phase := i.setWidth 8 }).slot j :=
      congrArg (FMap.get Slot.init · j) hslots
    have hhere : here (opLookup (hinted s i) s.cur) = geared { (here s).next with phase := i.setWidth 8 } g o := by
      rw [here, hcur', hcur, hg, hslot, State.slot_setSlot_same]
    refine ⟨_, exec_ophint hi, sameBytes_count (sameBytes_trans (sameBytes_hinted ..) (sameBytes_opLookup ..)) .., fun j hj => ?_, ?_⟩
    · rw [count_slot, ← State.slot_setSlot_ne s { (here s).next with phase := i.setWidth 8 } hj, ← hslot]
      exact opLookup_slot_ne hj
    · rw [here_count, hhere]
      exact ⟨rfl, rfl, rfl⟩

end Sys2Proof.Machine
end

section
/-! O17: `enq.m` and `enq.c` of a well-formed command. -/

namespace Sys2Proof.Machine
open Claims

/-! ### The four registers of a command word (R303) -/

section
variable {x : Slot} {a : BitVec 6} (h4 : a.toNat % 4 = 0)
include h4

theorem toNat_wordReg {k : Nat} (hk : k < 4) : (a + BitVec.ofNat 6 k).toNat = a.toNat + k := by
  have := a.isLt
  rw [BitVec.toNat_add, BitVec.toNat_ofNat]
  omega

variable (hr : ∀ k < 4, Readable x (a + BitVec.ofNat 6 k))
include hr

theorem boundS_word : boundS x [a.toNat, a.toNat + 1, a.toNat + 2, a.toNat + 3] = .ok () := by
  have hlt (k : Nat) (hk : k < 4) : a.toNat + k < x.ns := toNat_wordReg h4 hk ▸ (hr k hk).1
  have h0 : a.toNat < x.ns := hlt 0 (by decide)
  exact boundS_all (by simp [h0, hlt])

theorem peekS_word {k : Nat} (hk : k < 4) : peekS x (a.toNat + k) = .ok (x.sval (a.toNat + k)) :=
  toNat_wordReg h4 hk ▸ peekS_readable (hr k hk)

theorem soundS_word : soundS x [a.toNat, a.toNat + 1, a.toNat + 2, a.toNat + 3] = .ok () := by
  have hbad (k : Nat) (hk : k < 4) : badS x (a.toNat + k) = false := toNat_wordReg h4 hk ▸ badS_readable (hr k hk)
  have h0 : badS x a.toNat = false := hbad 0 (by decide)
  have hnone : [a.toNat, a.toNat + 1, a.toNat + 2, a.toNat + 3].find? (badS x) = none := by
    simp [h0, hbad]
  rw [soundS, hnone]

end

/-- The slot with its command word read, and taken where the instruction says so. -/
def wordTaken (x : Slot) (r : Nat) (m : Bool) : Slot := (List.range 4).foldl (fun y k => y.take (r + k) m) x

theorem wordTaken_pc (x : Slot) (r : Nat) (m : Bool) : (wordTaken x r m).pc = x.pc :=
  foldl_keeps (p := fun y : Slot => y.pc = x.pc) (fun y k h => (Slot.take_pc y (r + k) m).trans h) rfl

/-! ### The token register (R240, R350) -/

/-- A command without a token, or whose token register is there and free, finds its target. -/
theorem tokenTarget_free {s : State} {w : CmdWord} (h : TokenFree s w) : tokenTarget s (coreOf s.cur / 4) w =
    if Cmd.noTok w then .none else .ok (tokenSlot s w) (Cmd.treg w) := by
  have hcell : coreOf s.cur / 4 = home s := Nat.div_div_eq_div_mul ..
  unfold tokenTarget
  rw [hcell]
  cases hn : Cmd.noTok w
  · obtain ⟨hlive, hgen, hns, hfree⟩ := h.resolve_left (by simp [hn])
    unfold tokenSlot at hlive hgen hns hfree ⊢
    simp [hlive, hgen, hfree, Nat.not_le.mpr hns]
  · rfl

theorem owes_oweS (x : Slot) {r : Nat} (h0 : r ≠ 0) (h : r < 64) : (x.oweS r).sP r = true ∧ (x.oweS r).sF r = false := by
  rw [Slot.oweS, if_neg h0]
  simp [Slot.sP, Slot.sF, h0, Slot.getLsbD_setBit_same _ _ h]

theorem treg_lt (w : CmdWord) : Cmd.treg w < 64 := Nat.mod_lt _ (by decide)

/-! ### The command in its queue (R154, R242) -/

/-- A command as its slot places it in a queue. -/
def placedCmd (s : State) (w : CmdWord) : Cmd :=
  { word := Cmd.withColour w (here s).colr, sid := s.cur, gen := (here s).gen, fc := bits (here s).tfmt 14 10, forked := false }

/-- The state in which a command has been appended to its queue. -/
def enqueued (s : State) (q : Nat) (w : CmdWord) (y : Slot) : State :=
  appendCmd (oweToken (done s y) (tokenTarget s (coreOf s.cur / 4) w)) (coreOf s.cur) q (placedCmd s w)

section
variable {s : State} {w : CmdWord} {y : Slot}

theorem core_oweToken (s : State) (t : TokenTarget) (k : Nat) : (oweToken s t).core k = s.core k := by
  cases t <;> rfl

theorem cur_oweToken (s : State) (t : TokenTarget) : (oweToken s t).cur = s.cur := by
  cases t <;> rfl

theorem sameBytes_oweToken (s : State) (t : TokenTarget) : SameBytes s (oweToken s t) := by
  cases t <;> exact sameBytes_of_eq rfl rfl rfl

theorem pc_oweToken (s : State) (t : TokenTarget) (j : Nat) : ((oweToken s t).slot j).pc = (s.slot j).pc := by
  cases t with
  | ok sid reg =>
    by_cases h : j = sid
    · have hpc (x : Slot) : (x.oweS reg).pc = x.pc := by
        unfold Slot.oweS
        split <;> rfl
      rw [h]
      exact (congrArg Slot.pc (State.slot_setSlot_same s sid _)).trans (hpc _)
    · exact congrArg Slot.pc (State.slot_setSlot_ne s _ h)
  | _ => rfl

theorem appendCmd_rest (s : State) (core q : Nat) (c : Cmd) :
    SameBytes s (appendCmd s core q c) ∧ (appendCmd s core q c).slots = s.slots ∧ (appendCmd s core q c).cur = s.cur := by
  unfold appendCmd
  split <;> exact ⟨sameBytes_of_eq rfl rfl rfl, rfl, rfl⟩

theorem slot_appendCmd (s : State) (core q : Nat) (c : Cmd) (j : Nat) : (appendCmd s core q c).slot j = s.slot j :=
  congrArg (FMap.get Slot.init · j) (appendCmd_rest s core q c).2.1

theorem sameBytes_enqueued (q : Nat) : SameBytes s (enqueued s q w y) :=
  sameBytes_trans (sameBytes_setSlot s s.cur y.next) (sameBytes_trans (sameBytes_oweToken ..) (appendCmd_rest ..).1)

theorem mq_enqueued : ((enqueued s 0 w y).core (coreOf s.cur)).mq = (s.core (coreOf s.cur)).mq ++ [placedCmd s w] :=
  (congrArg Core.mq (State.core_setCore_same ..)).trans
    (congrArg (fun k : Core => k.mq ++ [placedCmd s w]) (core_oweToken (done s y) _ _))

theorem cq_enqueued : ((enqueued s 1 w y).core (coreOf s.cur)).cq = (s.core (coreOf s.cur)).cq ++ [placedCmd s w] :=
  (congrArg Core.cq (State.core_setCore_same ..)).trans
    (congrArg (fun k : Core => k.cq ++ [placedCmd s w]) (core_oweToken (done s y) _ _))

theorem here_enqueued (q : Nat) : (here (enqueued s q w y)).pc = y.pc + 4#64 := by
  have hcur : (enqueued s q w y).cur = s.cur := (appendCmd_rest ..).2.2.trans (cur_oweToken ..)
  rw [here, hcur, enqueued, slot_appendCmd, pc_oweToken]
  exact congrArg Slot.pc (State.slot_setSlot_same ..)

theorem token_enqueued (q : Nat) (h : TokenFree s w) (hn : Cmd.noTok w = false) (h0 : Cmd.treg w ≠ 0) :
    ((enqueued s q w y).slot (tokenSlot s w)).sP (Cmd.treg w) = true ∧
      ((enqueued s q w y).slot (tokenSlot s w)).sF (Cmd.treg w) = false := by
  have hslot : (enqueued s q w y).slot (tokenSlot s w) = ((done s y).slot (tokenSlot s w)).oweS (Cmd.treg w) := by
    rw [enqueued, slot_appendCmd, tokenTarget_free h, hn]
    exact State.slot_setSlot_same ..
  rw [hslot]
  exact owes_oweS _ h0 (treg_lt w)

end

/-! ### The instruction (R154, R303) -/

theorem queueFull_room {s : State} {q : Nat} (hq : q < 2) (h0 : q = 0 → (s.core (coreOf s.cur)).mq.length < 16)
    (h1 : q = 1 → (s.core (coreOf s.cur)).cq.length < 16) : queueFull s (coreOf s.cur) q = false := by
  unfold queueFull
  split
  · next h => exact decide_eq_false (Nat.not_le.mpr (h0 h))
  · next h => exact decide_eq_false (Nat.not_le.mpr (h1 (by omega)))

theorem enqueue_ok {s : State} {a : BitVec 6} (i : Instr) (m : Bool) {q : Nat} (h4 : a.toNat % 4 = 0)
    (hr : ∀ k < 4, Readable (here s) (a + BitVec.ofNat 6 k)) (hqueue : Cmd.queueOf (wordFrom (here s) a.toNat) = some q)
    (hword : Cmd.word0Ok (wordFrom (here s) a.toNat) = true) (htok : TokenFree s (wordFrom (here s) a.toNat))
    (hacc : q = 0 → (here s).aown.getLsbD (Cmd.acc (wordFrom (here s) a.toNat)) = true)
    (hrel : released s s.cur s.nextId (if q = 0 then 2 else 2 + Cmd.scope (wordFrom (here s) a.toNat)) = true)
    (hfull : queueFull s (coreOf s.cur) q = false) :
    enqueue i q a m s = .ok (enqueued s q (wordFrom (here s) a.toNat) (wordTaken (here s) a.toNat m)) := by
  have ht : tokenTarget s (coreOf s.cur / 4) (wordFrom (here s) a.toNat) = .none ∨ ∃ sid r,
      tokenTarget s (coreOf s.cur / 4) (wordFrom (here s) a.toNat) = .ok sid r := by
    rw [tokenTarget_free htok]
    split
    · exact .inl rfl
    · exact .inr ⟨_, _, rfl⟩
  unfold wordFrom at *
  have hown : (decide (q ≠ 0) || (here s).aown.getLsbD (Cmd.acc ⟨(here s).sval a.toNat, (here s).sval (a.toNat + 1),
      (here s).sval (a.toNat + 2), (here s).sval (a.toNat + 3)⟩)) = true := by
    by_cases h : q = 0
    · rw [hacc h, Bool.or_true]
    · rw [decide_eq_true h, Bool.true_or]
  refine res_then (v := ()) (guardH_ok.mpr (decide_eq_true h4)) <| res_then (boundS_word h4 hr) <|
    res_then (peekS_word h4 hr (k := 0) (by decide)) <| res_then (peekS_word h4 hr (k := 1) (by decide)) <|
    res_then (peekS_word h4 hr (k := 2) (by decide)) <| res_then (peekS_word h4 hr (k := 3) (by decide)) <|
    res_then (v := ()) (guardH_ok.mpr (by rw [cmdOk]; simp [hqueue, hword])) <| res_then (v := ()) ?_ <|
    res_then (v := ()) (guardH_ok.mpr hown) <| res_then (v := ()) ?_ <| res_then (soundS_word h4 hr) <| res_then (v := ()) ?_ <|
    res_then (v := ()) (guardH_ok.mpr hrel) <| res_then (v := ()) (guardH_ok.mpr (by rw [hfull]; rfl)) rfl
  all_goals
    simp only [Nat.add_zero]
    rcases ht with ht | ⟨sid, r, ht⟩ <;> rw [ht]

/-- Settles O17: either instruction passes its checks, and its command stands at its queue's end. -/
theorem engineQueues : Obligations.EngineQueues := by
  intro s a m q hq h4 hr w hqueue hword htok hacc hrel hm hc
  have hok (i : Instr) := enqueue_ok i m h4 hr hqueue hword htok hacc hrel (queueFull_room hq hm hc)
  have hexec : exec (if q = 0 then .enqM a m else .enqC a m) s =
      finish s (.ok (enqueued s q w (wordTaken (here s) a.toNat m))) := by
    obtain rfl | rfl : q = 0 ∨ q = 1 := by omega
    · exact congrArg (finish s) (hok _)
    · exact congrArg (finish s) (hok _)
  refine ⟨_, placedCmd s w, hexec, sameBytes_count (sameBytes_enqueued q) .., fun h => ?_, fun h => ?_, rfl, rfl, rfl, rfl, rfl, ?_,
    fun hn h0 => ?_⟩
  · subst h
    rw [count_core, mq_enqueued]
  · subst h
    rw [count_core, cq_enqueued]
  · rw [here_count, here_enqueued, wordTaken_pc]
  · rw [count_slot]
    exact token_enqueued q htok hn h0

end Sys2Proof.Machine
end

section
/-! O35: a copy command leaves its queue; its checks put it in flight, end it, or read units first. -/

namespace Sys2Proof.Machine
open Claims

/-! ### Cores, but for their caches (R99, R131) -/

/-- A core without what its cache holds. -/
def besideL1 (c : Core) : Core := { c with l1 := [] }

/-- Every core is as it was, but for its cache. -/
def SameBesideL1 (s t : State) : Prop := ∀ k, besideL1 (t.core k) = besideL1 (s.core k)

theorem sameBesideL1_trans {s t u : State} (h : SameBesideL1 s t) (k : SameBesideL1 t u) : SameBesideL1 s u :=
  fun n => (k n).trans (h n)

theorem sameBesideL1_of_cores {s t : State} (h : t.cores = s.cores) : SameBesideL1 s t := fun k => by
  rw [State.core, h]
  rfl

theorem sameBesideL1_dropL1 (s : State) (d line : Nat) (but : Option Nat) : SameBesideL1 s (dropL1 s d line but) := fun k => by
  have hcores : (dropL1 s d line but).cores = s.cores.map (fun q => (q.1,
      if dieOf (q.1 / 4) = d && but ≠ some q.1 then L1.drop q.2 (fun l => l.pa = line) else q.2)) :=
    List.map_congr_left fun q _ => by split <;> rfl
  unfold State.core FMap.get
  rw [hcores, find?_map_keyed]
  cases FMap.find? s.cores k with
  | none => rfl
  | some c =>
    dsimp only [Option.map_some]
    split <;> rfl

theorem sameBesideL1_homeWrite (s : State) (pa n v key : Nat) (w : Option Nat) : SameBesideL1 s (homeWrite s pa n v key w) :=
  sameBesideL1_trans
    (sameBesideL1_of_cores (cores_physWriteLine (serialise s (homeDie s pa) (lineOf pa) key) pa n v key))
    (sameBesideL1_dropL1 _ _ _ _)

theorem sameBesideL1_performForward (s : State) (f : Forward) : SameBesideL1 s (performForward s f) :=
  sameBesideL1_trans (sameBesideL1_of_cores ((cores_writeMiss ..).trans (count_cores ..))) (sameBesideL1_homeWrite _ _ _ _ _ _)

theorem sameBesideL1_flushDie (s : State) (d : Nat) : SameBesideL1 s (flushDie s d) :=
  foldl_keeps (p := fun t => SameBesideL1 s t) (fun t f h => sameBesideL1_trans h (sameBesideL1_performForward t f))
    (sameBesideL1_of_cores rfl)

/-! ### The copy queue, when a copy ends (R134, R370) -/

theorem cq_of_besideL1 {s t : State} (h : SameBesideL1 s t) (k : Nat) : (t.core k).cq = (s.core k).cq :=
  (congrArg Core.cq (h k) :)

theorem cq_atScope (s : State) (cell : Nat) (w : CmdWord) (k : Nat) : ((atScope s cell w).core k).cq = (s.core k).cq := by
  unfold atScope
  split
  · exact cq_of_besideL1 (sameBesideL1_flushDie _ _) k
  · rfl

theorem cq_modCore (s : State) (core : Nat) {f : Core → Core} (hf : ∀ c, (f c).cq = c.cq) (k : Nat) :
    ((s.modCore core f).core k).cq = (s.core k).cq := by
  by_cases h : k = core
  · rw [h]
    exact (congrArg Core.cq (State.core_setCore_same ..)).trans (hf _)
  · exact congrArg Core.cq (State.core_setCore_ne s _ h)

theorem cq_seqDone (s : State) (core : Nat) (c : Cmd) (k : Nat) : ((seqDone s core c).core k).cq = (s.core k).cq := by
  unfold seqDone
  extract_lets dec
  split
  · rfl
  · split
    · exact cq_modCore s core (f := fun k => { k with seqM := dec k.seqM }) (fun _ => rfl) k
    · exact cq_modCore s core (f := fun k => { k with seqC := dec k.seqC }) (fun _ => rfl) k

theorem cq_finishCopy (s : State) (cell : Nat) (r : CopyRun) (code info : Nat) (bar : Bool) (k : Nat) :
    ((finishCopy s cell r code info bar).core k).cq = (s.core k).cq := by
  have hdone : ((completed s cell r).core k).cq = (s.core k).cq := (cq_seqDone ..).trans (cq_atScope ..)
  rcases finishCopy_cases s cell r code info bar with ⟨-, h⟩ | ⟨t, -, -, -, -, -, h⟩ <;> rw [h] <;> exact hdone

/-! ### The end of the checks (R350) -/

theorem copyIs_setCopy {v : State} {cell n : Nat} {q : CopyRun} (hq : q.serial = n) (h : CopyIs v cell n (fun _ => True)) :
    CopyIs (setCopy v cell q) cell n (fun c => c = q) := by
  obtain ⟨r, hmem, hr, -⟩ := h
  refine ⟨q, ?_, hq, rfl⟩
  rw [copies_setCopy]
  exact List.mem_map.mpr ⟨r, hmem, if_pos (hr.trans hq.symm)⟩

theorem cells_openJob (s : State) (j : PortJob) (us : List (Spot × UnitAct)) : (openJob s j us).cells = s.cells :=
  foldl_keeps (p := fun t : State => t.cells = s.cells) (fun _ _ h => h) rfl

/-- A step that makes the checks of a copy ends as they come out. -/
theorem planEnds_planWith {s u : State} {i : Instr} {cell : Nat} {r : CopyRun} {got : FMap Nat}
    (h : exec i s = .next (planWith u cell r got)) : PlanEnds s i cell r got (checked u cell r got) := by
  unfold planWith at h
  refine ⟨fun q v ho hq hin => ?_, fun n v ho => ?_, fun v ho => ?_, fun n v ho => ?_, fun l v ho => ?_⟩
  all_goals
    unfold checked at ho
    simp only [ho] at h
  · exact ⟨_, h, fun _ => rfl, copyIs_setCopy hq hin⟩
  · exact ⟨_, h, cq_finishCopy _ _ _ _ _ _, tokenSent_finishCopy _ _ _ _ _ _⟩
  · refine ⟨_, h, ?_⟩
    split
    · exact tokenSent_finishCopy _ _ _ _ _ _
    · exact tokenSent_finishCopy v cell { r with geom := _ } 1 0 true
  · exact ⟨_, h, tokenSent_finishCopy _ _ _ _ _ _⟩
  · exact ⟨_, h, sameBytes_openJob .., cells_openJob .., jobWith_openJob (j := { id := 0, cell := cell, turn := _, serial := some r.serial, got := got })
      v rfl rfl fun _ hx => hx⟩

/-! ### The hand-over (R156) -/

theorem exec_isCopyCmd {i : Instr} {w : CmdWord} (h : isCopyCmd i w) (s : State) : exec i s = handOver w s := by
  obtain rfl | rfl | rfl | rfl | rfl | rfl | rfl | rfl | rfl | rfl := h <;> rfl

section
variable {s : State} {c : Cmd} {rest : List Cmd}

theorem cq_taken : ((taken s c rest).core (hereCore s)).cq = rest := by
  unfold taken
  extract_lets u1 u2 u3 u4
  have hu : (u4.core (hereCore s)).cq = rest := by
    have hset : (u2.core (hereCore s)).cq = rest := congrArg Core.cq (State.core_setCore_same ..)
    unfold u4
    split <;> exact hset
  split
  · exact (cq_atScope ..).trans hu
  · exact hu

theorem jobs_atScope (s : State) (cell : Nat) (w : CmdWord) : (atScope s cell w).jobs = s.jobs := by
  unfold atScope
  split
  · exact (congrArg State.jobs (offMemory_flushDie s (dieOf cell)) :)
  · rfl

theorem jobs_taken : (taken s c rest).jobs = s.jobs := by
  unfold taken
  extract_lets u1 u2 u3 u4
  have hu : u4.jobs = s.jobs := by
    unfold u4
    split <;> rfl
  split
  · exact (jobs_atScope ..).trans hu
  · exact hu

theorem handOver_head (h : CopyHead s c rest) :
    handOver c.word s = .next (planWith (taken s c rest) (hereCore s / 4) (newCopy s.nextId (hereCore s) c) []) := by
  obtain ⟨hcq, hroom, hclk, hjob⟩ := h
  have hnojob : (taken s c rest).jobOf (hereCore s / 4) (.event (.copyChunk (hereCore s / 4) s.nextId 0)) = none := by
    rw [State.jobOf, jobs_taken]
    exact hjob
  have hplan : planCopy (taken s c rest) (hereCore s / 4) (newCopy s.nextId (hereCore s) c) =
      planWith (taken s c rest) (hereCore s / 4) (newCopy s.nextId (hereCore s) c) [] := by
    unfold planCopy
    simp only [newCopy, hnojob]
  have hfree : (decide (c.word ≠ c.word) || decide (Config.copiesPerCell ≤ (s.cell (hereCore s / 4)).copies.length)) = false := by
    have hlt : (s.cell (hereCore s / 4)).copies.length < Config.copiesPerCell := hroom
    simpa using hlt
  rw [← hplan]
  unfold handOver
  simp only [hcq, hfree, hclk]
  rfl

end

/-! ### The checks made again (R90, R350) -/

section
variable {s : State} {cell : Nat} {r : CopyRun} {j : PortJob} (hr : Copying s cell r) (hp : r.phase = .plan)
  (hj : s.jobOf cell (.event (.copyChunk cell r.serial 0)) = some j) (ho : jobOpen s j.id = false)
include hr hp hj ho

theorem exec_plan : exec (.copyChunk cell r.serial 0) s = .next (match j.fail with
    | some n => finishCopy (dropJob s j.id) cell r n 0 false
    | none => planWith (dropJob s j.id) cell r j.got) := by
  obtain ⟨hcopy, hclk⟩ := hr
  change execCopyChunk cell r.serial 0 s = _
  unfold execCopyChunk
  simp only [hcopy, hp, whenRunning, hclk]
  rw [if_neg (by simp)]
  unfold planCopy
  simp only [hj, ho]
  rfl

end

/-- Settles O35, by what the checks come to. -/
theorem copyCommands : Obligations.CopyCommands := by
  refine ⟨fun s c rest i hhead hi => ?_, fun s cell r j hr hp hj ho => ⟨fun n hn => ?_, fun hn => ?_⟩⟩
  · exact ⟨cq_taken, planEnds_planWith ((exec_isCopyCmd hi s).trans (handOver_head hhead))⟩
  · have hexec := exec_plan hr hp hj ho
    rw [hn] at hexec
    exact ⟨_, hexec, tokenSent_finishCopy _ _ _ _ _ _⟩
  · have hexec := exec_plan hr hp hj ho
    rw [hn] at hexec
    exact planEnds_planWith hexec

end Sys2Proof.Machine
end

section
/-! O46: launches are read and opened, records and continuations go to an inbox, records rise with age. -/

namespace Sys2Proof.Machine
open Claims

/-! ### An element of a list, replaced and read -/

theorem setAt_eq_set {α : Type} (l : List α) (i : Nat) (v : α) : setAt l i v = l.set i v := by
  induction l generalizing i with
  | nil => rfl
  | cons x l ih =>
    cases i with
    | zero => rfl
    | succ i => rw [setAt, List.set_cons_succ, ih]

theorem getAt_setAt_same {α : Type} (d : α) {l : List α} {i : Nat} (v : α) (h : i < l.length) : getAt d (setAt l i v) i = v := by
  rw [getAt_eq_getD, setAt_eq_set, List.getD_eq_getElem?_getD, List.getElem?_set_self h]
  rfl

theorem getAt_setAt_ne {α : Type} (d : α) (l : List α) {i j : Nat} (v : α) (h : j ≠ i) : getAt d (setAt l i v) j = getAt d l j := by
  rw [getAt_eq_getD, getAt_eq_getD, setAt_eq_set, List.getD_eq_getElem?_getD, List.getElem?_set_ne h.symm,
    List.getD_eq_getElem?_getD]

/-! ### The entry that an engine takes (R140, R142) -/

/-- The state in which an entry has been taken from a queue, as its launch. -/
def entryTaken (s : State) (p q : Nat) (e : Option Nat) : State :=
  let u := (selfInvalidate s (s.lowDie p)).setReg (lqOff p q + 0x10) (wrap64 ((lqHead s p q + 1) % 65536))
  { u with
    lqNext := FMap.put u.lqNext p ((q + 1) % Config.launchQueues), launches := [entryLaunch u.nextId p e]
    nextId := u.nextId + 1 }.pushE (.launchRead p)

section
variable {s : State} {p q pa : Nat}

theorem takeEntry_next (hn : NextEntry s p q pa) {e : Option Nat}
    (he : readEntry (selfInvalidate s (s.lowDie p)) pa = (e, selfInvalidate s (s.lowDie p))) :
    takeEntry s p = entryTaken s p q e := by
  obtain ⟨hl, -, hstop, hq, rfl⟩ := hn
  have hlaunches : (selfInvalidate s (s.lowDie p)).launches = [] := hl
  unfold takeEntry
  rw [hstop, hl]
  simp only [hq, he]
  rw [if_neg (by simp [Config.launchesAtOnce])]
  unfold entryTaken
  simp only [State.setReg]
  rw [hlaunches]
  rfl

theorem lqHead_setReg (s : State) (p q n : Nat) :
    lqHead (s.setReg (lqOff p q + 0x10) (wrap64 (n % 65536))) p q = n % 65536 := by
  rw [lqHead, State.reg_setReg_same, bits_wrap16]

/-- With one launch under way, of the engine's own, the engine opens that launch and sees whether it is over. -/
theorem exec_launchRead_one {l : Launch} {u : State} (hstep : (s.fabricOf (s.lowDie p)).step = none)
    (hl : (takeEntry s p).launches = [l]) (hp : l.part = p) (hu : openLaunch (takeEntry s p) p 0 = u) :
    exec (.launchRead p) s = .next
      (let r := closeLaunches p u u.launches
       let t : State := { r.2 with launches := r.1 }
       if r.1.length < u.launches.length then t.pushE (.launchRead p) else t) := by
  change execLaunchRead p s = _
  unfold execLaunchRead
  rw [if_neg (by rw [hstep]; decide)]
  simp only [hl, List.length_singleton, List.range_one, List.foldl_cons, List.foldl_nil, List.getElem?_cons_zero, hp, if_true, hu]

end

/-! ### An entry that cannot be read (R142) -/

theorem readEntry_hole {s : State} {pa : Nat} (h : isBacked pa = false) : readEntry s pa = (none, s) := by
  rw [readEntry, h]
  rfl

theorem launchRead_unreadable {s : State} {p q pa : Nat} (hn : NextEntry s p q pa) (hb : isBacked pa = false) :
    ∃ t, exec (.launchRead p) s = .next t ∧ t.launches = [] ∧ SameBytes s t ∧ lqHead t p q = (lqHead s p q + 1) % 65536 ∧
      Due t (.launchRead p) := by
  have htake := takeEntry_next hn (readEntry_hole hb)
  have hl : (takeEntry s p).launches = [entryLaunch s.nextId p none] := congrArg State.launches htake
  have hopen : openLaunch (takeEntry s p) p 0 = takeEntry s p := by
    unfold openLaunch
    simp only [hl, List.getElem?_cons_zero]
    rfl
  have hclose : closeLaunches p (takeEntry s p) [entryLaunch s.nextId p none] = ([], takeEntry s p) := by
    unfold closeLaunches
    rw [if_neg (fun h => h rfl)]
    rfl
  have hexec := exec_launchRead_one hn.2.1 hl rfl hopen
  rw [hl, hclose, htake] at hexec
  exact ⟨_, hexec, rfl, sameBytes_of_eq rfl rfl rfl, lqHead_setReg .., due_pushE _ _⟩

/-! ### A launch whose graph is sound (R142, R144, R145) -/

theorem readEntry_value {s : State} {pa w : Nat} (hb : isBacked pa = true) (hsys : isSystem pa = true → s.linkUp = true)
    (he : physErr s pa 64 = false) (hr : physReadRaw s pa 64 = (w, s)) : readEntry s pa = (some w, s) := by
  have hlink : (isSystem pa && !s.linkUp) = false := by
    cases h : isSystem pa
    · rfl
    · rw [hsys h]
      rfl
  rw [readEntry, hb, hlink, he, hr]
  rfl

theorem entryLaunch_fine {w : Nat} {header done : Word} (h : EntryFine w header done) (id p : Nat) : entryLaunch id p (some w) =
    { id := id, part := p, done := done, phase := .opening header, nodes := [], cut := false } := by
  obtain ⟨hz, rfl, rfl, hh, hd⟩ := h
  have hzero : fieldAt w 0x10 48 = 0 := by
    rw [fieldAt, Nat.shiftRight_eq_div_pow, show 8 * 0x10 = 128 from rfl, show 8 * 48 = 384 from rfl, hz]
  have hheader : wrap64 (fieldAt w 0 8) = BitVec.ofNat 64 w := by
    refine BitVec.eq_of_toNat_eq ?_
    simp [wrap64, fieldAt]
  have hdone : wrap64 (fieldAt w 8 8) = BitVec.ofNat 64 (w / 2 ^ 64) := by
    refine BitVec.eq_of_toNat_eq ?_
    simp [wrap64, fieldAt, Nat.shiftRight_eq_div_pow]
  simp only [entryLaunch, hzero, hheader, hdone, hh, hd]
  rfl

/-- Nodes as they are once those that depend on nothing are ready. -/
theorem readyNodes_nodes (k : Nat) (ns : List Node) : (readyNodes k ns).1.length = ns.length ∧
    ∀ (i : Nat) (n m : Node), ns[i]? = some n → (readyNodes k ns).1[i]? = some m →
      m = { n with ready := m.ready } ∧ (n.deps = 0 → m.ready.isSome = true) := by
  induction ns generalizing k with
  | nil => exact ⟨rfl, fun i n m h => by simp at h⟩
  | cons a ns ih =>
    unfold readyNodes
    split
    · next hready =>
      obtain ⟨hlen, hget⟩ := ih (k + 1)
      refine ⟨by simp [hlen], fun i n m hn hm => ?_⟩
      cases i with
      | zero =>
        obtain rfl := Option.some.inj hn
        obtain rfl := Option.some.inj hm
        exact ⟨rfl, fun _ => rfl⟩
      | succ i => exact hget i n m hn hm
    · next hkept =>
      obtain ⟨hlen, hget⟩ := ih k
      refine ⟨by simp [hlen], fun i n m hn hm => ?_⟩
      cases i with
      | zero =>
        obtain rfl := Option.some.inj hn
        obtain rfl := Option.some.inj hm
        refine ⟨rfl, fun h0 => ?_⟩
        simpa [h0, Option.isNone_iff_eq_none, Option.isSome_iff_ne_none] using hkept
      | succ i => exact hget i n m hn hm

/-- A launch with a node that is ready and not complete goes on. -/
theorem endLaunch_open {l : Launch} (h : ∃ n ∈ l.nodes, n.ready.isSome = true ∧ n.complete = false) : endLaunch l = l := by
  obtain ⟨n, hn, hr, hc⟩ := h
  have hall : l.nodes.all (fun n => n.ready.isNone || n.complete) = false :=
    List.all_eq_false.mpr ⟨n, hn, by simp [hc, Option.isNone_eq_false_iff.mpr hr]⟩
  rw [endLaunch, hall, Bool.and_false]
  rfl

/-- A launch in its course, with the nodes that have nothing to wait for ready. -/
def runningLaunch (v : State) (l : Launch) (ns : List Node) : Launch :=
  { l with phase := .running, nodes := (readyNodes v.nextId ns).1 }

theorem runningLaunch_open (v : State) (l : Launch) {ns : List Node}
    (h : ∃ n ∈ ns, n.deps = 0 ∧ n.ready = none ∧ n.complete = false) :
    endLaunch (runningLaunch v l ns) = runningLaunch v l ns := by
  obtain ⟨n, hn, hd, -, hc⟩ := h
  obtain ⟨hlen, hget⟩ := readyNodes_nodes v.nextId ns
  obtain ⟨i, hi, rfl⟩ := List.getElem_of_mem hn
  have hm : (readyNodes v.nextId ns).1[i]? = some ((readyNodes v.nextId ns).1[i]'(hlen.symm ▸ hi)) := List.getElem?_eq_getElem _
  obtain ⟨hnode, hready⟩ := hget i _ _ (List.getElem?_eq_getElem hi) hm
  refine endLaunch_open ⟨_, List.mem_of_getElem? hm, hready hd, ?_⟩
  rw [hnode]
  exact hc

/-- The state in which the graph of the only launch has been read, and its engine places records. -/
def launchOpened (v : State) (p : Nat) (l : Launch) (ns : List Node) : State :=
  { v with launches := [runningLaunch v l ns], nextId := (readyNodes v.nextId ns).2 }.pushE (.recordPlace p)

theorem openLaunch_nodes {u v : State} {p : Nat} {l : Launch} {header : Word} {ns : List Node} (hu : u.launches = [l])
    (hl : l.phase = .opening header) (hv : v.launches = [l])
    (hg : openGraph u (graphAgent u p (u.asidLo p) false (.launchRead p) l.id) header = (.nodes ns, v))
    (h : ∃ n ∈ ns, n.deps = 0 ∧ n.ready = none ∧ n.complete = false) : openLaunch u p 0 = launchOpened v p l ns := by
  unfold openLaunch
  simp only [hu, List.getElem?_cons_zero, hl, hg, setLaunch, hv, setAt, List.map_cons, List.map_nil]
  rw [show endLaunch { l with phase := .running, nodes := (readyNodes v.nextId ns).1 } = runningLaunch v l ns from
    runningLaunch_open v l h]
  rfl

theorem launchRead_sound {s v : State} {p q pa w : Nat} {header done : Word} {ns : List Node} (hn : NextEntry s p q pa)
    (hb : isBacked pa = true) (hsys : isSystem pa = true → s.linkUp = true) (he : physErr s pa 64 = false)
    (hr : physReadRaw (selfInvalidate s (s.lowDie p)) pa 64 = (w, selfInvalidate s (s.lowDie p)))
    (hfine : EntryFine w header done)
    (hg : openGraph (takeEntry s p) (graphAgent (takeEntry s p) p ((takeEntry s p).asidLo p) false (.launchRead p) s.nextId)
      header = (.nodes ns, v))
    (hv : v.launches = (takeEntry s p).launches) (hq : lqHead v p q = lqHead (takeEntry s p) p q)
    (h : ∃ n ∈ ns, n.deps = 0 ∧ n.ready = none ∧ n.complete = false) :
    ∃ t, exec (.launchRead p) s = .next t ∧ Due t (.recordPlace p) ∧ lqHead t p q = (lqHead s p q + 1) % 65536 ∧
      ∃ l, t.launches = [l] ∧ l.part = p ∧ l.done = done ∧ l.phase = .running ∧ l.cut = false ∧ l.nodes.length = ns.length ∧
        ∀ (i : Nat) (n m : Node), ns[i]? = some n → l.nodes[i]? = some m →
          m = { n with ready := m.ready } ∧ (n.deps = 0 → m.ready.isSome = true) := by
  have htake := takeEntry_next hn (readEntry_value hb hsys he hr)
  have hl : (takeEntry s p).launches =
      [{ id := s.nextId, part := p, done := done, phase := .opening header, nodes := [], cut := false }] := by
    rw [htake, ← entryLaunch_fine hfine s.nextId p]
    rfl
  have hopen := openLaunch_nodes hl rfl (hv.trans hl) hg h
  have hexec := exec_launchRead_one hn.2.1 hl rfl hopen
  have hhead : lqHead v p q = (lqHead s p q + 1) % 65536 := by
    rw [hq, htake]
    exact lqHead_setReg ..
  have hclose (u : State) (l : Launch) (hrun : l.phase = .running) : closeLaunches p u [l] = ([l], u) := by
    unfold closeLaunches
    split
    · rfl
    · simp only [closeLaunch, hrun]
      rfl
  have hlaunches (l : Launch) : (launchOpened v p l ns).launches = [runningLaunch v l ns] := rfl
  rw [hlaunches, hclose _ _ rfl] at hexec
  obtain ⟨hlen, hnodes⟩ := readyNodes_nodes v.nextId ns
  exact ⟨_, hexec.trans (congrArg _ (if_neg (Nat.lt_irrefl 1))), due_pushE _ _, hhead, _, rfl, rfl, rfl, rfl, rfl, hlen, hnodes⟩

/-! ### Delivery to an inbox (R148) -/

theorem offMemory_agingDue (s : State) (cell : Nat) : offMemory (agingDue s cell) = offMemory s := by
  obtain ⟨w, h⟩ := agingDue_eq s cell
  rw [h]
  rfl

/-- A delivery puts the record at the end of its level, and wakes gaffers; the other stores of records are as they were. -/
theorem deliverRecord_rest (s : State) (cell prio : Nat) (r : Word) :
    (deliverRecord s cell r prio).conts = s.conts ∧ (deliverRecord s cell r prio).cells =
      (s.modCell cell (fun c => { c with
        inbox := setAt c.inbox prio (getAt [] c.inbox prio ++ [{ record := r, entered := s.gts }]) })).cells := by
  unfold deliverRecord
  extract_lets t
  have ht : (agingDue t cell).conts = s.conts ∧ (agingDue t cell).cells = (s.modCell cell (fun c => { c with
      inbox := setAt c.inbox prio (getAt [] c.inbox prio ++ [{ record := r, entered := s.gts }]) })).cells := by
    have hflush := offMemory_flushDie s (s.lowDie (s.partN cell))
    have hcells := cells_of_offMemory hflush
    have hgts : (flushDie s (s.lowDie (s.partN cell))).gts = s.gts := (congrArg State.gts hflush :)
    have hconts : (flushDie s (s.lowDie (s.partN cell))).conts = s.conts := (congrArg State.conts hflush :)
    refine ⟨(congrArg State.conts (offMemory_agingDue t cell) :).trans hconts, (cells_of_offMemory (offMemory_agingDue t cell)).trans ?_⟩
    simp only [t, State.modCell, State.setCell, State.cell, hcells, hgts]
  rw [← ht.1, ← ht.2]
  clear ht
  generalize agingDue t cell = v
  refine foldl_keeps (p := fun u : State => u.conts = v.conts ∧ u.cells = v.cells) (fun u k h => ?_) ⟨rfl, rfl⟩
  dsimp only
  split <;> exact h

theorem inbox_deliverRecord (s : State) (cell prio : Nat) (r : Word) : ((deliverRecord s cell r prio).cell cell).inbox =
    setAt (s.cell cell).inbox prio (getAt [] (s.cell cell).inbox prio ++ [{ record := r, entered := s.gts }]) := by
  rw [State.cell, (deliverRecord_rest ..).2]
  exact congrArg Cell.inbox (State.cell_setCell_same ..)

/-- A record delivered to a level stands at its end, and the other levels are as they were. -/
theorem level_deliverRecord {s : State} {cell prio : Nat} (r : Word) (h : prio < (s.cell cell).inbox.length) :
    getAt [] ((deliverRecord s cell r prio).cell cell).inbox prio =
      getAt [] (s.cell cell).inbox prio ++ [{ record := r, entered := s.gts }] ∧
    ∀ lv, lv ≠ prio → getAt [] ((deliverRecord s cell r prio).cell cell).inbox lv = getAt [] (s.cell cell).inbox lv := by
  rw [inbox_deliverRecord]
  exact ⟨getAt_setAt_same _ _ h, fun lv hlv => getAt_setAt_ne _ _ _ hlv⟩

/-! ### The next record of a node (R21, R145) -/

theorem placeFirst_placed {s u : State} {p li ni : Nat} {rest : List (Nat × Nat)} (h : placeNext s p li ni = (.placed, u)) :
    placeFirst p s ((li, ni) :: rest) = (.placed, u) := by
  rw [placeFirst, h]

/-- With nothing held back, a placement that succeeds leaves the cells as it made them. -/
theorem exec_recordPlace_placed {s u : State} {p li ni : Nat} {rest : List (Nat × Nat)} (hheld : s.held = [])
    (hstep : (s.fabricOf (s.lowDie p)).step = none) (ho : readyOrder s p = (li, ni) :: rest)
    (h : placeNext s p li ni = (.placed, u)) :
    ∃ t, exec (.recordPlace p) s = .next t ∧ Due t (.recordPlace p) ∧ t.cells = u.cells := by
  have hsame : { s with held := [] } = s := by rw [← hheld]
  have hplace : placeFirst p s (readyOrder s p) = (.placed, u) := ho ▸ placeFirst_placed h
  change ∃ t, execRecordPlace p s = .next t ∧ _
  unfold execRecordPlace
  rw [if_neg (by rw [hstep]; decide)]
  simp only [hheld, deliverHeld, hsame, hplace]
  rw [if_pos (by simp)]
  refine ⟨_, rfl, due_pushE _ _, ?_⟩
  split <;> rfl

/-- A written record of a node with deterministic placement goes to its cell if that has room. -/
theorem placeRecord_room {u : State} {p c : Nat} (li ni : Nat) (l : Launch) {n : Node} (hheld : u.held = [])
    (hdet : n.flags.getLsbD 3 = true) (hc : u.cellAt p (n.placed % u.cellCount p) = some c)
    (hroom : (getAt [] (u.cell c).inbox (n.flags.toNat % 4)).length < 16) :
    ∃ ls, placeRecord u p li ni l n = (.placed, deliverRecord { u with launches := ls } c
      (n.recs + BitVec.ofNat 64 (64 * n.placed)) (n.flags.toNat % 4)) := by
  have hfree : (u.held.any (fun h => decide (h.cell = c)) || !hasRoom u c (n.flags.toNat % 4)) = false := by
    rw [hheld, hasRoom, decide_eq_true (show _ < Config.inboxLevel from hroom)]
    rfl
  unfold placeRecord
  extract_lets L rec prio put s1 next
  have hcell : s1.cellAt p (L % s1.cellCount p) = some c := hc
  rw [if_pos hdet, hcell]
  exact ⟨_, if_neg (Bool.eq_false_iff.mp hfree)⟩

theorem placeNext_written {s u : State} {p li ni : Nat} {l : Launch} {n : Node} (hl : s.launches[li]? = some l)
    (hn : l.nodes[ni]? = some n) (hw : n.written = false)
    (hwrite : writeVirt s (graphAgent s p (s.asidLo p) true (.recordPlace p) (n.ready.getD 0)) (n.recs + BitVec.ofNat 64 (64 * n.placed))
      64 (recordBytes n n.placed) = (.done, u)) : placeNext s p li ni = placeRecord u p li ni l n := by
  unfold placeNext
  simp only [hl, hn, hw, wrap64, hwrite]
  rfl

/-! ### Continuations (R147) -/

theorem exec_continuationPlace_placed {s u : State} {p c v : Nat} {k : Nat × Nat × Word}
    (hstep : (s.fabricOf (s.lowDie p)).step = none) (hk : s.conts.find? (fun c => c.1 = p && !contParked s p c) = some k)
    (hread : readVirt s (graphAgent s p k.2.1 false (.continuationPlace p) k.2.2.toNat) (k.2.2 + 0x1C#64) 4 = (.val v, u))
    (hc : leastLoaded u p (v % 4) = some c) : ∃ t, exec (.continuationPlace p) s = .next t ∧
      t.conts = (deliverRecord u c k.2.2 (v % 4)).conts.erase k ∧ t.cells = (deliverRecord u c k.2.2 (v % 4)).cells := by
  have hplace : placeCont s p k = (true, deliverRecord u c k.2.2 (v % 4)) := by
    unfold placeCont
    simp only [hread, hc]
  generalize deliverRecord u c k.2.2 (v % 4) = d at hplace ⊢
  change ∃ t, execContinuationPlace p s = .next t ∧ _
  unfold execContinuationPlace
  rw [if_neg (by rw [hstep]; decide)]
  simp only [hk, hplace]
  refine ⟨_, rfl, ?_⟩
  split <;> exact ⟨rfl, rfl⟩

/-! ### Promotion by age (R31, R148) -/

/-- An inbox of one record, at the lowest level, after the promotion. -/
theorem promoted_single {c : Cell} {e : InboxEntry} {top : List InboxEntry} (h : c.inbox = [[e], [], [], top]) (now : Word)
    (limit : Nat) : ((overdue c now.toNat limit).foldl (promote now) c).inbox =
      if limit < now.toNat - e.entered.toNat then [[], [{ record := e.record, entered := now }], [], top] else c.inbox := by
  have hover : overdue c now.toNat limit = if limit < now.toNat - e.entered.toNat then [(0, e)] else [] := by
    unfold overdue
    simp only [h]
    by_cases ho : limit < now.toNat - e.entered.toNat
    · simp [getAt, ho, sortBy, insertBy]
    · simp [getAt, ho, sortBy]
  rw [hover]
  split
  · simp [promote, h, getAt, setAt, Config.inboxLevel]
  · rfl

theorem overdue_mem (now : Word) (l : List (Nat × InboxEntry)) (c : Cell) : (l.foldl (promote now) c).mem = c.mem :=
  foldl_keeps (p := fun d : Cell => d.mem = c.mem) (fun d q h => by unfold promote; dsimp only; split <;> exact h) rfl

/-- The state in which what is overdue in an inbox has risen. -/
def risen (s : State) (cell p : Nat) : State :=
  s.modCell cell (fun c => (overdue c s.gts.toNat (s.ageLimit p)).foldl (promote s.gts) c)

theorem exec_agePromotion {s : State} {cell p : Nat} (hp : s.partOf cell = some p) (hl : s.ageLimit p ≠ 0) :
    exec (.agePromotion cell) s = .next (agingDue (risen s cell p) cell) := by
  change execAgePromotion cell s = _
  unfold execAgePromotion
  simp only [hp]
  rw [if_neg hl]
  rfl

theorem agePromotion_single {s : State} {cell p : Nat} {e : InboxEntry} {top : List InboxEntry} (hp : s.partOf cell = some p)
    (hl : s.ageLimit p ≠ 0) (hi : (s.cell cell).inbox = [[e], [], [], top]) :
    ∃ t, exec (.agePromotion cell) s = .next t ∧ SameBytes s t ∧ t.slots = s.slots ∧ (t.cell cell).inbox =
      if s.ageLimit p < s.gts.toNat - e.entered.toNat then [[], [{ record := e.record, entered := s.gts }], [], top]
      else (s.cell cell).inbox := by
  obtain ⟨w, hw⟩ := agingDue_eq (risen s cell p) cell
  have hexec := exec_agePromotion hp hl
  rw [hw] at hexec
  refine ⟨_, hexec, ?_, rfl, ?_⟩
  · exact sameBytes_trans (sameBytes_modCell (s := s) (cell := cell)
      (f := fun c => (overdue c s.gts.toNat (s.ageLimit p)).foldl (promote s.gts) c) fun c => overdue_mem ..)
      (sameBytes_of_eq rfl rfl rfl)
  · exact (congrArg Cell.inbox (State.cell_setCell_same ..)).trans (promoted_single hi ..)

/-- Settles O46: launches by whether their entry can be read, records and continuations by their delivery, ageing by the one
record that may be overdue. -/
theorem launchesAndRecords : Obligations.LaunchesAndRecords := by
  refine ⟨⟨fun s p q pa hn hb => launchRead_unreadable hn hb,
    fun s v p q pa w header done ns hn hb hsys he hr hfine hg hv hq h => launchRead_sound hn hb hsys he hr hfine hg hv hq h⟩,
    fun s u p li ni c l n rest hheld hstep ho hl hn hw hwrite huheld hdet hc _ => ?_,
    fun s u p c v k hstep hk hread hconts hc hlen => ?_, fun s cell p e top hp hl hi => ?_⟩
  · intro prio inbox hlen hroom
    obtain ⟨ls, hplace⟩ := placeRecord_room li ni l huheld hdet hc hroom
    obtain ⟨t, hexec, hdue, hcells⟩ :=
      exec_recordPlace_placed hheld hstep ho ((placeNext_written hl hn hw hwrite).trans hplace)
    have hprio : prio < (State.cell { u with launches := ls } c).inbox.length := (Nat.mod_lt _ (by decide)).trans_eq hlen.symm
    refine ⟨t, hexec, hdue, ?_⟩
    rw [State.cell, hcells]
    exact level_deliverRecord _ hprio
  · obtain ⟨t, hexec, hct, hcells⟩ := exec_continuationPlace_placed hstep hk hread hc
    refine ⟨t, hexec, ?_, ?_⟩
    · rw [hct, (deliverRecord_rest ..).1, hconts]
    · rw [State.cell, hcells]
      exact (level_deliverRecord _ ((Nat.mod_lt _ (by decide)).trans_eq hlen.symm)).1
  · obtain ⟨t, hexec, hbytes, hslots, hinbox⟩ := agePromotion_single hp hl hi
    refine ⟨t, hexec, hbytes, hslots, fun h => ?_, fun h => ?_⟩
    · rw [hinbox, if_pos h]
    · rw [hinbox, if_neg h]

end Sys2Proof.Machine
end

section
/-! O47: the spill of a slot to its save area, and its restore from there. -/

namespace Sys2Proof.Machine
open Claims

/-! ### A slot that stops with nothing to withdraw (R159, R161) -/

section
variable {s : State} {sid : Nat} (h : Unburdened s sid)
include h

theorem withdraw_unburdened : withdraw s sid = s := by
  obtain ⟨hpark, -, -, hflight, hmsg⟩ := h
  unfold withdraw
  simp only [hflight, hmsg, hpark]

theorem stopped_unburdened : (withdraw s sid).modSlot sid withoutCapture = s.setSlot sid (s.slot sid) := by
  have hcap : withoutCapture (s.slot sid) = s.slot sid := by
    rw [withoutCapture, h.2.1]
  rw [withdraw_unburdened h, State.modSlot_eq, hcap]

theorem takeDeferred_unburdened :
    takeDeferred ((withdraw s sid).modSlot sid withoutCapture) sid = s.setSlot sid (s.slot sid) := by
  have hdef : (s.slot sid).deferred = none := h.2.2.1
  rw [stopped_unburdened h]
  unfold takeDeferred
  simp only [State.slot_setSlot_same, hdef]

end

/-! ### The course of a spill (R159) -/

theorem whenPunty_runs {s : State} {cell : Nat} (h : clockStop (s.cell cell) = none) (ev : Instr)
    (t : Host.Outcome State Fault Refusal) : whenPunty s cell ev t = t := by
  rw [whenPunty, h]
  rfl

section
variable {s : State} {sid : Nat} {b : Bool} (hst : (s.slot sid).status = .spilling b) (hu : Unburdened s sid)
  (hclk : clockStop (s.cell (cellOfSlot sid)) = none)
include hst hu hclk

theorem exec_puntySpill : exec (.puntySpill sid) s = .next
    (let u := s.setSlot sid (s.slot sid)
     if (s.slot sid).save = 0#64 then abandonSpill u sid b
     else if puntyElsewhere u sid || !spillReady u sid then u.pushE (.puntySpill sid)
     else spillNow u sid b) := by
  change execPuntySpill sid s = _
  unfold execPuntySpill
  rw [whenPunty_runs hclk]
  simp only [hst, takeDeferred_unburdened hu, State.slot_setSlot_same, ne_eq, not_true_eq_false, if_false]
  split
  · rfl
  · split <;> rfl

theorem exec_puntySpill_ready (hsave : (s.slot sid).save ≠ 0#64) (he : puntyElsewhere (s.setSlot sid (s.slot sid)) sid = false)
    (hready : spillReady (s.setSlot sid (s.slot sid)) sid = true) :
    exec (.puntySpill sid) s = .next (spillNow (s.setSlot sid (s.slot sid)) sid b) := by
  rw [exec_puntySpill hst hu hclk]
  simp only [if_neg hsave, he, hready]
  rfl

theorem puntySpill_elsewhere (hsave : (s.slot sid).save ≠ 0#64) (he : puntyElsewhere s sid = true) :
    ∃ t, exec (.puntySpill sid) s = .next t ∧ (t.slot sid).status = .spilling b ∧ Due t (.puntySpill sid) ∧ SameBytes s t := by
  have helse : (puntyElsewhere (s.setSlot sid (s.slot sid)) sid || !spillReady (s.setSlot sid (s.slot sid)) sid) = true := by
    rw [show puntyElsewhere (s.setSlot sid (s.slot sid)) sid = true from he, Bool.true_or]
  have hexec := exec_puntySpill hst hu hclk
  simp only [if_neg hsave, helse, if_true] at hexec
  refine ⟨_, hexec, ?_, due_pushE _ _, sameBytes_of_eq rfl rfl rfl⟩
  exact (congrArg Slot.status (State.slot_setSlot_same ..)).trans hst

end

theorem puntySpill_unsaved {s : State} {sid : Nat} (hst : (s.slot sid).status = .spilling false) (hu : Unburdened s sid)
    (hclk : clockStop (s.cell (cellOfSlot sid)) = none) (hsave : (s.slot sid).save = 0#64) :
    ∃ t, exec (.puntySpill sid) s = .next t ∧ t.slot sid = { s.slot sid with status := .live } ∧ SameBytes s t := by
  have hexec := exec_puntySpill hst hu hclk
  simp only [if_pos hsave] at hexec
  refine ⟨_, hexec, ?_, ?_⟩
  · refine (State.slot_setSlot_same ..).trans ?_
    exact congrArg (fun x : Slot => { x with status := .live }) (State.slot_setSlot_same s sid _)
  · exact sameBytes_of_mem rfl (fun n => cell_modCell_mem s (cellOfSlot sid) n
      (f := fun c => { c with puntyAt := if c.puntyAt = some sid then none else c.puntyAt }) rfl) rfl

/-! ### A spill that is written (R159, R160) -/

/-- What a suspension leaves: the slot with its final status, the cell's punty free, the record with the graph engine. -/
theorem suspended_leaves (u : State) (sid : Nat) :
    ((suspended u sid).slot sid).status = .ended .suspended 0#32 ∧ ((suspended u sid).slot sid).aown = 0#64 ∧
      ((suspended u sid).cell (cellOfSlot sid)).puntyAt = none ∧ (∃ c ∈ (suspended u sid).conts, c.2.2 = recordOf (u.slot sid)) ∧
      ∃ p, Due (suspended u sid) (.continuationPlace p) := by
  have hslot := slot_giveFinal (u.modCell (cellOfSlot sid) (fun c => { c with puntyAt := none })) sid .suspended 0#32
  refine ⟨congrArg Slot.status hslot, congrArg Slot.aown hslot, congrArg Cell.puntyAt (State.cell_setCell_same ..),
    ⟨_, List.mem_append_right _ (List.mem_singleton_self _), rfl⟩, _, due_pushE _ _⟩

theorem recordOf_eq (x : Slot) : recordOf x = recordAddr x := by
  have hbits : bits x.tid 58 8 = x.tid.toNat / 2 ^ 8 % 2 ^ 51 := by
    rw [bits, Nat.shiftRight_eq_div_pow]
  rw [recordOf, recordAddr, hbits, wrap64]

theorem spillNow_written {u s1 s2 s3 s4 : State} {sid ms mv : Nat} {x : Slot} (b : Bool) (hx : u.slot sid = x)
    (h1 : putRecordState (u.modCell (cellOfSlot sid) (fun c => { c with puntyAt := some sid })) (punty u sid (.puntySpill sid)) x 2 =
      (false, s1))
    (h2 : saveMasks s1 (punty u sid (.puntySpill sid)) x x.pc = ((ms, mv), s2))
    (h3 : writeVirt s2 (punty u sid (.puntySpill sid)) x.save (runsLength (imageRuns x (claimedAccs s1 sid x.aown) x.pc ms mv))
      (joinRuns (imageRuns x (claimedAccs s1 sid x.aown) x.pc ms mv)) = (.done, s3))
    (h4 : putRecordState (flushDie s3 (punty u sid (.puntySpill sid)).die) (punty u sid (.puntySpill sid)) x 1 = (false, s4)) :
    spillNow u sid b = suspended (flushDie s4 (punty u sid (.puntySpill sid)).die) sid := by
  subst hx
  unfold spillNow
  simp only [h1, h2, h3, h4]

/-! ### Words of an image (R160) -/

theorem headWord_toNat (img i : Nat) : (headWord img i).toNat = img / 2 ^ (64 * i) % 2 ^ 64 := by
  rw [headWord, imageBytes, wrap64, BitVec.toNat_ofNat, Nat.shiftRight_eq_div_pow, Nat.mod_mod, ← Nat.mul_assoc]

theorem headWord_eq_zero {img i : Nat} (h : img / 2 ^ (64 * i) % 2 ^ 64 = 0) : headWord img i = 0#64 :=
  BitVec.eq_of_toNat_eq ((headWord_toNat img i).trans h)

/-- The bits of a word that a field covers. -/
theorem and_fieldMask (x : Word) {hi lo : Nat} (h : lo ≤ hi) (h64 : hi < 64) :
    (x &&& wrap64 (fieldMask hi lo)).toNat = x.toNat % 2 ^ (hi + 1) / 2 ^ lo * 2 ^ lo := by
  refine Nat.eq_of_testBit_eq fun i => ?_
  rw [fieldMask, wrap64, BitVec.toNat_and, BitVec.toNat_ofNat, Nat.testBit_and, Nat.testBit_mod_two_pow, Nat.testBit_shiftLeft,
    Nat.testBit_two_pow_sub_one, Nat.testBit_mul_two_pow, Nat.testBit_div_two_pow, Nat.testBit_mod_two_pow]
  by_cases hlo : lo ≤ i
  · by_cases hhi : i < hi + 1
    · have h1 : i - lo < hi + 1 - lo := by omega
      have h2 : i < 64 := by omega
      simp [hlo, hhi, h1, h2]
    · have h1 : ¬i - lo < hi + 1 - lo := by omega
      simp [hlo, hhi, h1]
  · simp [hlo]

/-! ### What a restore writes of a slot (R69, R160) -/

/-- A slot without its scalar, vector and predicate registers. -/
def besideRegs (x : Slot) : Slot :=
  { x with
    sreg := [], sfull := 0#64, sdead := 0#64, serr := 0#64, vreg := [], vfull := 0#32, vdead := 0#32, verr := 0#32
    preg := [], pfull := 0#8 }

theorem besideRegs_killS (x : Slot) (n : Nat) : besideRegs (x.killS n) = besideRegs x := rfl
theorem besideRegs_killV (x : Slot) (n : Nat) : besideRegs (x.killV n) = besideRegs x := rfl

theorem besideRegs_putS (x : Slot) (n : Nat) (v : Word) : besideRegs (x.putS n v) = besideRegs x := by
  unfold Slot.putS
  split <;> rfl

theorem besideRegs_restoreScalars (img mask fs : Nat) (x : Slot) : besideRegs (restoreScalars img mask fs x) = besideRegs x := by
  refine foldl_keeps (p := fun q : Slot × Nat => besideRegs q.1 = besideRegs x) (fun q n h => ?_) rfl
  dsimp only
  split
  · exact (besideRegs_putS q.1 n _ : _).trans h
  · dsimp only
    split
    · exact h
    · exact h

theorem besideRegs_restorePreds (img mask fp : Nat) (x : Slot) : besideRegs (restorePreds img mask fp x) = besideRegs x :=
  foldl_keeps (p := fun y : Slot => besideRegs y = besideRegs x) (fun _ _ h => h) rfl

theorem besideRegs_restoreVectors (img smask vmask fv : Nat) (x : Slot) :
    besideRegs (restoreVectors img smask vmask fv x) = besideRegs x := by
  refine foldl_keeps (p := fun q : Slot × Nat => besideRegs q.1 = besideRegs x) (fun q n h => ?_) rfl
  dsimp only
  split <;> exact h

/-- A slot's scalar registers. -/
def scalarsOf (x : Slot) : FMap Word × BitVec 64 × BitVec 64 := (x.sreg, x.sfull, x.sdead)

theorem sval_of_scalars {x y : Slot} (h : scalarsOf y = scalarsOf x) (r : Nat) : y.sval r = x.sval r ∧ y.sF r = x.sF r := by
  obtain ⟨hreg, hrest⟩ := Prod.mk.inj h
  obtain ⟨hfull, hdead⟩ := Prod.mk.inj hrest
  unfold Slot.sval Slot.sF
  rw [hreg, hfull, hdead]
  exact ⟨rfl, rfl⟩

theorem scalarsOf_restorePreds (img mask fp : Nat) (x : Slot) : scalarsOf (restorePreds img mask fp x) = scalarsOf x :=
  foldl_keeps (p := fun y : Slot => scalarsOf y = scalarsOf x) (fun _ _ h => h) rfl

theorem scalarsOf_restoreVectors (img smask vmask fv : Nat) (x : Slot) :
    scalarsOf (restoreVectors img smask vmask fv x) = scalarsOf x := by
  refine foldl_keeps (p := fun q : Slot × Nat => scalarsOf q.1 = scalarsOf x) (fun q n h => ?_) rfl
  dsimp only
  split <;> exact h

theorem sval_killS_ne (x : Slot) {n r : Nat} (h : r ≠ n) : (x.killS n).sval r = x.sval r ∧ (x.killS n).sF r = x.sF r := by
  constructor
  · simp [Slot.killS, Slot.sval, Slot.getLsbD_setBit_ne _ _ h, FMap.get, FMap.find?_del_ne _ h]
  · simp [Slot.killS, Slot.sF, Slot.getLsbD_setBit_ne _ _ h]

/-! ### The scalar registers of an image (R160) -/

theorem below_succ (mask r : Nat) : below mask (r + 1) = below mask r + if mask.testBit r then 1 else 0 := by
  rw [below, List.range_succ, List.filter_append, List.length_append, below]
  congr 1
  cases h : mask.testBit r <;> simp [h]

/-- The step of a restore at one scalar register, with the offset of the next saved one. -/
def scalarStep (img mask fs : Nat) (q : Slot × Nat) (n : Nat) : Slot × Nat :=
  if mask.testBit n then
    let y := q.1.putS n (wrap64 (imageBytes img q.2 8))
    ({ y with sfull := setBit y.sfull n (n = 0 || fs.testBit n) }, q.2 + 8)
  else (if n = 0 then q.1 else q.1.killS n, q.2)

theorem restoreScalars_eq (img mask fs : Nat) (x : Slot) :
    restoreScalars img mask fs x = ((List.range x.ns).foldl (scalarStep img mask fs) (x, 0x100)).1 := rfl

theorem scalarStep_offset (img mask fs : Nat) (q : Slot × Nat) (n : Nat) :
    (scalarStep img mask fs q n).2 = q.2 + 8 * if mask.testBit n then 1 else 0 := by
  unfold scalarStep
  split
  · rfl
  · rfl

theorem scalarStep_other (img mask fs : Nat) (q : Slot × Nat) {n r : Nat} (h : r ≠ n) :
    (scalarStep img mask fs q n).1.sval r = q.1.sval r ∧ (scalarStep img mask fs q n).1.sF r = q.1.sF r := by
  unfold scalarStep
  split
  · refine ⟨Slot.sval_putS_ne q.1 _ h, ?_⟩
    dsimp only [Slot.sF]
    rw [Slot.getLsbD_setBit_ne _ _ h]
    exact Slot.sF_putS_ne q.1 _ h
  · dsimp only
    split
    · exact ⟨rfl, rfl⟩
    · exact sval_killS_ne q.1 h

theorem scalarStep_saved (img : Nat) {mask : Nat} (fs : Nat) (q : Slot × Nat) {n : Nat} (h0 : n ≠ 0) (h : n < 64)
    (hm : mask.testBit n = true) : (scalarStep img mask fs q n).1.sval n = wrap64 (imageBytes img q.2 8) ∧
      (scalarStep img mask fs q n).1.sF n = fs.testBit n := by
  rw [scalarStep, if_pos hm]
  refine ⟨Slot.sval_putS_same q.1 _ h0 h, ?_⟩
  dsimp only [Slot.sF]
  rw [Slot.getLsbD_setBit_same _ _ h]
  simp [h0]

/-- After the first k registers, each saved one of them holds what the image has for it. -/
theorem scalars_restored (img mask fs : Nat) (x : Slot) (k : Nat) :
    let q := (List.range k).foldl (scalarStep img mask fs) (x, 0x100)
    q.2 = 0x100 + 8 * below mask k ∧ ∀ r, 0 < r → r < k → r < 64 → mask.testBit r = true →
      q.1.sval r = wrap64 (imageBytes img (0x100 + 8 * below mask r) 8) ∧ q.1.sF r = fs.testBit r := by
  induction k with
  | zero => exact ⟨rfl, fun r _ h => absurd h (Nat.not_lt_zero r)⟩
  | succ k ih =>
    obtain ⟨hoff, hval⟩ := ih
    rw [List.range_succ, List.foldl_append, List.foldl_cons, List.foldl_nil]
    refine ⟨by rw [scalarStep_offset, hoff, below_succ]; ring, fun r h0 hk h64 hm => ?_⟩
    by_cases hrk : r = k
    · subst hrk
      rw [← hoff]
      exact scalarStep_saved img fs _ h0.ne' h64 hm
    · obtain ⟨hv, hf⟩ := scalarStep_other img mask fs ((List.range k).foldl (scalarStep img mask fs) (x, 0x100)) hrk
      rw [hv, hf]
      exact hval r h0 (by omega) h64 hm

/-! ### The slot that an image gives (R160) -/

/-- A slot with the PC and the CSRs of an image. -/
def restoredHead (img : Nat) (x : Slot) : Slot :=
  let w := headWord img
  let part (i m : Nat) : Word := w i &&& wrap64 m
  { x with
    pc := part 0 (fieldMask 63 2), vfmt := part 1 0x3F, rmode := part 2 7, fflags := part 3 0x1F, greq := part 4 3
    cvmask := part 5 (fieldMask 63 1), colr := part 6 0x3F, parklim := part 7 (fieldMask 31 0), aown := part 8 0xFF
    tvec := part 9 (fieldMask 63 2), tcause := part 10 (fieldMask 17 0), tepc := w 11, tval := w 12, unack := 0#64 }

theorem besideRegs_restoredSlot (img : Nat) (x : Slot) : besideRegs (restoredSlot img x) = besideRegs (restoredHead img x) :=
  (besideRegs_restoreVectors ..).trans ((besideRegs_restorePreds ..).trans (besideRegs_restoreScalars ..))

/-- A saved scalar register of a restored slot. -/
theorem scalar_restoredSlot (img : Nat) (x : Slot) {r : Nat} (h0 : 0 < r) (hr : r < x.ns) (h64 : r < 64)
    (hm : (headWord img 13).toNat.testBit r = true) :
    (restoredSlot img x).sval r = wrap64 (imageBytes img (0x100 + 8 * below (headWord img 13).toNat r) 8) ∧
      (restoredSlot img x).sF r = (headWord img 15).toNat.testBit r := by
  have hscalars : scalarsOf (restoredSlot img x) =
      scalarsOf (restoreScalars img (headWord img 13).toNat (headWord img 15).toNat (restoredHead img x)) :=
    (scalarsOf_restoreVectors ..).trans (scalarsOf_restorePreds ..)
  obtain ⟨hval, hfull⟩ := sval_of_scalars hscalars r
  rw [hval, hfull, restoreScalars_eq]
  exact (scalars_restored ..).2 r h0 hr h64 hm

/-- The parts of an image's head that a restored slot shows. -/
theorem head_restoredSlot (img : Nat) (x : Slot) :
    let y := restoredSlot img x
    let word (i : Nat) : Nat := img / 2 ^ (64 * i) % 2 ^ 64
    y.pc.toNat = word 0 / 4 * 4 ∧ y.vfmt.toNat = word 1 % 64 ∧ y.rmode.toNat = word 2 % 8 ∧
      y.fflags.toNat = word 3 % 32 ∧ y.greq.toNat = word 4 % 4 ∧ y.cvmask.toNat = word 5 / 2 * 2 ∧
      y.colr.toNat = word 6 % 64 ∧ y.parklim.toNat = word 7 % 2 ^ 32 ∧ y.tvec.toNat = word 9 / 4 * 4 ∧
      y.tcause.toNat = word 10 % 2 ^ 18 ∧ y.tepc.toNat = word 11 ∧ y.tval.toNat = word 12 ∧ y.unack = 0#64 ∧
      y.gen = x.gen ∧ y.tid = x.tid := by
  intro y word
  have hfrom {lo i : Nat} (h : lo ≤ 63) : (headWord img i &&& wrap64 (fieldMask 63 lo)).toNat = word i / 2 ^ lo * 2 ^ lo := by
    rw [and_fieldMask _ h (by decide), headWord_toNat, Nat.mod_mod]
  have hlow {hi i : Nat} (h : hi < 64) : (headWord img i &&& wrap64 (fieldMask hi 0)).toNat = word i % 2 ^ (hi + 1) := by
    rw [and_fieldMask _ (Nat.zero_le _) h, headWord_toNat, Nat.pow_zero, Nat.div_one, Nat.mul_one]
  have hb : besideRegs y = besideRegs (restoredHead img x) := besideRegs_restoredSlot img x
  clear_value y
  exact ⟨(congrArg (fun z : Slot => z.pc.toNat) hb).trans (hfrom (by decide)),
    (congrArg (fun z : Slot => z.vfmt.toNat) hb).trans (hlow (hi := 5) (by decide)),
    (congrArg (fun z : Slot => z.rmode.toNat) hb).trans (hlow (hi := 2) (by decide)),
    (congrArg (fun z : Slot => z.fflags.toNat) hb).trans (hlow (hi := 4) (by decide)),
    (congrArg (fun z : Slot => z.greq.toNat) hb).trans (hlow (hi := 1) (by decide)),
    (congrArg (fun z : Slot => z.cvmask.toNat) hb).trans (hfrom (by decide)),
    (congrArg (fun z : Slot => z.colr.toNat) hb).trans (hlow (hi := 5) (by decide)),
    (congrArg (fun z : Slot => z.parklim.toNat) hb).trans (hlow (by decide)),
    (congrArg (fun z : Slot => z.tvec.toNat) hb).trans (hfrom (by decide)),
    (congrArg (fun z : Slot => z.tcause.toNat) hb).trans (hlow (by decide)),
    (congrArg (fun z : Slot => z.tepc.toNat) hb).trans (headWord_toNat img 11),
    (congrArg (fun z : Slot => z.tval.toNat) hb).trans (headWord_toNat img 12), (congrArg Slot.unack hb :), (congrArg Slot.gen hb :),
    (congrArg Slot.tid hb :)⟩

/-! ### The course of a restore (R149, R159) -/

theorem accsFree_none (s : State) (sid : Nat) : accsFree s sid 0#64 = true := by
  simp [accsFree]

/-- An image without accumulators ends where its vector registers do. -/
theorem imageLength_noAccs {h : Nat} (h8 : h / 2 ^ (64 * 8) % 2 ^ 64 = 0) :
    accsAt (headWord h 13).toNat (bits (headWord h 14) 31 0) + 4160 * popcount (bits (headWord h 8) 7 0) =
      accsAt (h / 2 ^ (64 * 13) % 2 ^ 64) (h / 2 ^ (64 * 14) % 2 ^ 64 % 2 ^ 32) := by
  have hpop : popcount (bits 0#64 7 0) = 0 := by decide
  have h14 : bits (headWord h 14) 31 0 = h / 2 ^ (64 * 14) % 2 ^ 64 % 2 ^ 32 := by
    rw [bits, Nat.shiftRight_zero, headWord_toNat]
  rw [headWord_eq_zero h8, hpop, headWord_toNat, h14, Nat.mul_zero, Nat.add_zero]

theorem exec_puntyRestore {s s1 s2 s3 : State} {sid h img : Nat} (hst : (s.slot sid).status = .restoring)
    (hclk : clockStop (s.cell (cellOfSlot sid)) = none)
    (h1 : readVirt (selfInvalidate s (punty s sid (.puntyRestore sid)).die) (punty s sid (.puntyRestore sid)) (s.slot sid).save 0x100 =
      (.val h, s1)) (h8 : h / 2 ^ (64 * 8) % 2 ^ 64 = 0)
    (h2 : readVirt s1 (punty s sid (.puntyRestore sid)) (s.slot sid).save
      (accsAt (h / 2 ^ (64 * 13) % 2 ^ 64) (h / 2 ^ (64 * 14) % 2 ^ 64 % 2 ^ 32)) = (.val img, s2))
    (h3 : putRecordState s2 (punty s sid (.puntyRestore sid)) (s.slot sid) 0 = (false, s3)) :
    exec (.puntyRestore sid) s = .next (((putAccs s3 (coreOf sid) (imageAccs img)).setSlot sid
      { restoredSlot img (s.slot sid) with status := .live }).pushE (.gearEvaluate (cellOfSlot sid))) := by
  change execPuntyRestore sid s = _
  unfold execPuntyRestore
  dsimp only
  rw [whenPunty_runs hclk, if_neg (not_not.mpr hst), h1]
  dsimp only
  rw [imageLength_noAccs h8, headWord_eq_zero h8, accsFree_none, h2]
  dsimp only
  rw [h3]
  rfl

/-- Settles O47: a spill by whether it can be written, waits or has nowhere to go; a restore by what its image holds. -/
theorem spillAndRestore : Obligations.SpillAndRestore := by
  refine ⟨fun s sid b s1 s2 s3 s4 ms mv hst hu hclk => ?_, fun s sid b hst hu hclk => puntySpill_elsewhere hst hu hclk,
    fun s sid hst hu hclk => puntySpill_unsaved hst hu hclk, fun s s1 s2 s3 sid h img hst hclk => ?_⟩
  · intro x s0 g hx hready hsave helse h1 h2 img h3 h4 hlast
    have hs0 : s0 = s.setSlot sid (s.slot sid) := stopped_unburdened hu
    have hexec := exec_puntySpill_ready hst hu hclk hsave (hs0 ▸ helse) (hs0 ▸ hready)
    rw [← hs0, spillNow_written b hx h1 h2 h3 h4] at hexec
    obtain ⟨hstatus, haown, hpunty, ⟨c, hc, hrec⟩, hdue⟩ := suspended_leaves (flushDie s4 g.die) sid
    exact ⟨_, hexec, hstatus, haown, hpunty, ⟨c, hc, by rw [hrec, hlast, recordOf_eq]⟩, hdue⟩
  · intro x g word h1 hh8 h8 h13 h14 h2 h3
    refine ⟨_, exec_puntyRestore hst hclk h1 hh8 h2 h3, ?_⟩
    intro y
    have hy : y = { restoredSlot img x with status := .live } := State.slot_setSlot_same ..
    clear_value y
    subst hy
    obtain ⟨hpc, hvfmt, hrmode, hfflags, hgreq, hcvmask, hcolr, hparklim, htvec, htcause, htepc, htval, hunack, hgen, htid⟩ :=
      head_restoredSlot img x
    refine ⟨rfl, hpc, hvfmt, hrmode, hfflags, hgreq, hcvmask, hcolr, hparklim, htvec, htcause, htepc, htval, hunack, hgen, htid,
      fun r h0 hr h64 hm => ?_⟩
    have hword (i : Nat) : (headWord img i).toNat = word img i := headWord_toNat img i
    obtain ⟨hval, hfull⟩ := scalar_restoredSlot img x h0 hr h64 (hword 13 ▸ hm)
    rw [hword] at hval hfull
    refine ⟨?_, hfull⟩
    refine (congrArg BitVec.toNat hval).trans ?_
    rw [imageBytes, wrap64, BitVec.toNat_ofNat, Nat.shiftRight_eq_div_pow, Nat.mod_mod]

end Sys2Proof.Machine
end

section
/-! O48: the sending of a slot and its arrival, the end of a forwarding entry, and a removal that lasts. -/

namespace Sys2Proof.Machine
open Claims

/-! ### The slot as a context carries it (R160, R161) -/

theorem besideRegs_contextSlot (x : Slot) (ms mv : Nat) : besideRegs (contextSlot x ms mv) = besideRegs x := by
  unfold contextSlot
  refine foldl_keeps (p := fun y : Slot => besideRegs y = besideRegs x) (fun y n h => ?_)
    (foldl_keeps (p := fun y : Slot => besideRegs y = besideRegs x) (fun y n h => ?_) rfl)
  · split
    · exact h
    · exact (besideRegs_killV y n).trans h
  · split
    · exact h
    · exact (besideRegs_killS y n).trans h

/-- A context carries each scalar register that is saved. -/
theorem scalar_contextSlot (x : Slot) {ms : Nat} (mv : Nat) {r : Nat} (hr : ms.testBit r = true) :
    (contextSlot x ms mv).sval r = x.sval r ∧ (contextSlot x ms mv).sF r = x.sF r := by
  unfold contextSlot
  refine foldl_keeps (p := fun y : Slot => y.sval r = x.sval r ∧ y.sF r = x.sF r) (fun y n h => ?_)
    (foldl_keeps (p := fun y : Slot => y.sval r = x.sval r ∧ y.sF r = x.sF r) (fun y n h => ?_) ⟨rfl, rfl⟩)
  · split <;> exact h
  · split
    · exact h
    · next hn =>
      have hne : r ≠ n := by
        rintro rfl
        exact hn (by rw [hr, Bool.or_true, Bool.true_or])
      obtain ⟨hval, hfull⟩ := sval_killS_ne y hne
      exact ⟨hval.trans h.1, hfull.trans h.2⟩

/-! ### Forwarding entries (R162) -/

/-- An entry written in its place, or at the end of the list, is read back. -/
theorem fwd_putFwd (s : State) (core : Nat) {i : Nat} (f : Fwd) (hi : i ≤ (s.core core).fwd.length) :
    ((putFwd s core i f).core core).fwd[i]? = some f := by
  have hcore : ((putFwd s core i f).core core).fwd =
      if i < (s.core core).fwd.length then setAt (s.core core).fwd i f else (s.core core).fwd ++ [f] :=
    congrArg Core.fwd (State.core_setCore_same ..)
  rw [hcore]
  split
  · next hlt => rw [setAt_eq_set, List.getElem?_set_self hlt]
  · next hge =>
    obtain rfl : i = (s.core core).fwd.length := by omega
    rw [List.getElem?_concat_length]

/-- The lowest free entry is one of the list, or the first beyond its end. -/
theorem freeFwd_le {s : State} {core i : Nat} (h : freeFwd s core = some i) : i ≤ (s.core core).fwd.length := by
  by_contra hlt
  have hend := (List.find?_range_eq_some.mp h).2.2 (s.core core).fwd.length (by omega)
  rw [List.getElem?_eq_none (Nat.le_refl _)] at hend
  cases hend

theorem forwardExpiry_ends {s : State} {cell core n fc : Nat} {f : Fwd} (hf : (s.core (4 * cell + core)).fwd[n]? = some f)
    (he : f.expires = fc) (hfc : fc ≤ s.fcyc (dieOf ((4 * cell + core) / 4))) :
    exec (.forwardExpiry cell core n fc) s = .next (putFwd s (4 * cell + core) n { f with expires := 0 }) := by
  have hover : fwdValid s (4 * cell + core) f = false := decide_eq_false (by omega)
  change execForwardExpiry cell core n fc s = _
  unfold execForwardExpiry
  simp only [hf, he, hover]
  rfl

/-! ### The sending of a slot (R161) -/

theorem canHold_empty {s : State} {target ns nv : Nat} (h : canHold s target ns nv = true) : (s.slot target).status = .empty := by
  simp only [canHold, Bool.and_eq_true, decide_eq_true_eq] at h
  exact h.1.1.1

/-- A target slot as it waits for the context `x`. -/
def awaiting (t x : Slot) : Slot :=
  { Slot.init with
    status := .restoring, gen := t.gen + 1#8, ns := x.ns, nv := x.nv, tid := setBits x.tid 7 0 (t.gen + 1#8).toNat, targ := x.targ
    removedAt := t.removedAt, exemptUntil := t.exemptUntil }

/-- The state in which the context `c` is on its way. -/
def onItsWay (s : State) (c : Context) : State :=
  { s with contexts := s.contexts ++ [c], nextId := s.nextId + 1 }.setSlot c.target (awaiting (s.slot c.target) c.slot)

/-- The forwarding entry that the context `c` leaves behind. -/
def leftBehind (s : State) (c : Context) : Fwd :=
  { oslot := slotIx c.osid, ogen := c.slot.gen, target := c.target, tgen := (s.slot c.target).gen + 1#8
    expires := s.fcyc (dieOf (coreOf c.osid / 4)) + Config.forwardLife }

/-- The state after a context has been sent. -/
def sent (s : State) (c : Context) (i : Nat) : State :=
  (giveFinal (putFwd (onItsWay s c) (coreOf c.osid) i (leftBehind s c)) c.osid .suspended 0#32).pushE (.migrationArrival c.id)

theorem sendContext_eq {u v : State} {sid target i ms mv : Nat} (b : Bool)
    (h : saveMasks (leaveDie u sid target) (punty u sid (.migrationSend sid)) (u.slot sid) (u.slot sid).pc = ((ms, mv), v)) :
    ∃ c : Context, c.id = v.nextId ∧ c.slot = contextSlot (v.slot sid) ms mv ∧ c.osid = sid ∧ c.target = target ∧
      sendContext u sid target i b = sent v c i := by
  refine ⟨{ id := v.nextId, slot := contextSlot (v.slot sid) ms mv
            accs := claimedAccs v sid (contextSlot (v.slot sid) ms mv).aown, osid := sid, target := target, byPower := b },
    rfl, rfl, rfl, rfl, ?_⟩
  unfold sendContext
  rw [h]
  rfl

theorem exec_migrationSend {s s0 u : State} {sid target i : Nat} {b : Bool} {x : Slot} (hst : (s.slot sid).status = .moving target b)
    (hclk : clockStop (s.cell (cellOfSlot sid)) = none)
    (hs0 : takeDeferred ((withdraw s sid).modSlot sid withoutCapture) sid = s0) (hx : s0.slot sid = x)
    (hmove : x.status = .moving target b) (hhold : canHold s0 target x.ns x.nv = true) (helse : puntyElsewhere s0 sid = false)
    (hready : moveReady s0 sid = true) (hfwd : freeFwd s0 (coreOf sid) = some i)
    (hrec : putRecordState s0 (punty s0 sid (.migrationSend sid)) x 2 = (false, u)) :
    exec (.migrationSend sid) s = .next (sendContext u sid target i b) := by
  change execMigrationSend sid s = _
  unfold execMigrationSend
  rw [whenPunty_runs hclk, hst]
  dsimp only
  rw [hs0, hx, if_neg (not_not.mpr hmove), hhold, helse, hready, hfwd]
  dsimp only
  rw [hrec]
  rfl

/-- What has been sent: the old slot suspended, the target held, the context on its way, the forwarding entry in place. -/
theorem sent_leaves (s : State) (c : Context) {i : Nat} (hne : c.target ≠ c.osid) (hg : isGaffer c.target = false)
    (hi : i ≤ (s.core (coreOf c.osid)).fwd.length) :
    ((sent s c i).slot c.osid).status = .ended .suspended 0#32 ∧
      (sent s c i).slot c.target = awaiting (s.slot c.target) c.slot ∧ c ∈ (sent s c i).contexts ∧
      ((sent s c i).core (coreOf c.osid)).fwd[i]? = some (leftBehind s c) := by
  refine ⟨congrArg Slot.status (slot_giveFinal ..), ?_, List.mem_append_right _ (List.mem_singleton_self _),
    fwd_putFwd (onItsWay s c) (coreOf c.osid) (leftBehind s c) hi⟩
  have hgaffer : c.target ≠ 16 * coreOf c.osid := by
    intro h
    rw [isGaffer, h] at hg
    simp at hg
  have hfinal : (sent s c i).slot c.target = (onItsWay s c).slot c.target :=
    (State.slot_setSlot_ne _ _ hgaffer).trans (State.slot_setSlot_ne _ _ hne)
  exact hfinal.trans (State.slot_setSlot_same ..)

/-! ### Arrival (R161) -/

/-- A target slot `t` with the thread that the context slot `x` carries. -/
def arrivedSlot (t x : Slot) : Slot :=
  { x with
    status := .live, gen := t.gen, tid := t.tid, park := none, killReq := t.killReq, removedAt := t.removedAt
    exemptUntil := t.exemptUntil, fork := none, phase := BitVec.ofNat 8 (bits x.tkey 31 24) }

theorem enrol_contexts (s : State) (sid : Nat) : (enrol s sid).contexts = s.contexts := by
  unfold enrol
  split <;> rfl

theorem exec_migrationArrival {s u : State} {c : Context} (hfind : s.contexts.find? (fun q => q.id = c.id) = some c)
    (hfree : accsFree s c.target c.slot.aown = true) (hfab : (s.fabricOf (dieOf (cellOfSlot c.target))).step = none)
    (hclk : clockStop (s.cell (cellOfSlot c.target)) = none)
    (hrec : putRecordState s (punty s c.target (.migrationArrival c.id)) c.slot 0 = (false, u)) :
    ∃ w : State, w.contexts = u.contexts.filter (fun q => q.id ≠ c.id) ∧ exec (.migrationArrival c.id) s = .next
      ((enrol (w.setSlot c.target (arrivedSlot (s.slot c.target) c.slot)) c.target).pushE (.gearEvaluate (cellOfSlot c.target))) := by
  let v := putAccs { u with contexts := u.contexts.filter (fun q => q.id ≠ c.id) } (coreOf c.target) c.accs
  refine ⟨if dieOf (cellOfSlot c.osid) = dieOf (cellOfSlot c.target) then v else selfInvalidate v (dieOf (cellOfSlot c.target)),
    ?_, ?_⟩
  · split <;> rfl
  · change execMigrationArrival c.id s = _
    unfold execMigrationArrival
    rw [hfind]
    dsimp only
    rw [hfab, hclk, hfree, hrec]
    rfl

/-! ### Removals (R204, R205) -/

/-- The state in which each servitor slot of a cell has been removed or restored as its depth says. -/
def removalsApplied (s : State) (cell : Nat) : State :=
  (List.range 4).foldl (fun u k =>
    (List.range 15).foldl (fun t j =>
      setRemoved t (slotOf cell k (j + 1)) ((removedSlots u cell k (depthOf s cell)).contains (slotOf cell k (j + 1)))) u) s

/-- What each removal and restoring keeps, the application of a depth keeps. -/
theorem removalsApplied_keeps {p : State → Prop} {s : State} {cell : Nat}
    (hp : ∀ u t k n j, p u → p t → p (setRemoved t j ((removedSlots u cell k n).contains j))) (h : p s) :
    p (removalsApplied s cell) :=
  foldl_keeps (fun u _ hu => foldl_keeps (fun t _ ht => hp u t _ _ _ hu ht) hu) h

theorem applyDepth_eq (s : State) (cell : Nat) : ∃ short : Bool, applyDepth s cell =
    if (clockStop (s.cell cell)).isSome then s
    else ((removalsApplied s cell).modCell cell (fun c => { c with stepDown := short })).pushE (.gearEvaluate cell) :=
  ⟨_, rfl⟩

theorem slots_dueOnce (s : State) (l : Later) : (s.dueOnce l).slots = s.slots := by
  unfold State.dueOnce
  split <;> rfl

theorem later_dueOnce (s : State) (l : Later) : Turn.later l ∈ (s.dueOnce l).work := by
  unfold State.dueOnce
  split
  · next h => exact List.contains_iff_mem.mp h
  · exact List.mem_append_right _ (List.mem_singleton_self _)

theorem sameBytes_setRemoved (s : State) (sid : Nat) (gone : Bool) : SameBytes s (setRemoved s sid gone) := by
  unfold setRemoved
  extract_lets x t
  split
  · split
    · exact sameBytes_of_eq rfl rfl rfl
    · split
      · exact sameBytes_trans (sameBytes_setSlot s sid _) (sameBytes_dueOnce t _)
      · exact sameBytes_setSlot s sid _
  · split
    · exact sameBytes_setSlot s sid _
    · exact sameBytes_of_eq rfl rfl rfl

theorem sameBytes_applyDepth (s : State) (cell : Nat) : SameBytes s (applyDepth s cell) := by
  obtain ⟨short, heq⟩ := applyDepth_eq s cell
  rw [heq]
  split
  · exact sameBytes_of_eq rfl rfl rfl
  · have hall : SameBytes s (removalsApplied s cell) :=
      removalsApplied_keeps (p := SameBytes s) (fun _ t _ _ j _ ht => sameBytes_trans ht (sameBytes_setRemoved t j _))
        (sameBytes_of_eq rfl rfl rfl)
    have hstep : SameBytes (removalsApplied s cell) ((removalsApplied s cell).modCell cell fun c => { c with stepDown := short }) :=
      sameBytes_modCell fun _ => rfl
    exact sameBytes_trans hall hstep

/-- A removal or a restoring writes the removal of its slot, if anything. -/
theorem slots_setRemoved (s : State) (j : Nat) (gone : Bool) : (setRemoved s j gone).slots = s.slots ∨
    ∃ r, (setRemoved s j gone).slots = (s.setSlot j { s.slot j with removedAt := r }).slots ∧
      ((s.slot j).removedAt = none → gone = true) := by
  unfold setRemoved
  extract_lets x t
  split
  · next hg =>
    split
    · exact .inl rfl
    · refine .inr ⟨some s.gts, ?_, fun _ => hg⟩
      split
      · exact slots_dueOnce t _
      · rfl
  · split
    · next hr => exact .inr ⟨none, rfl, fun h => by rw [h] at hr; cases hr⟩
    · exact .inl rfl

theorem exemptUntil_setRemoved (s : State) (j sid : Nat) (gone : Bool) :
    ((setRemoved s j gone).slot sid).exemptUntil = (s.slot sid).exemptUntil := by
  obtain heq | ⟨r, heq, -⟩ := slots_setRemoved s j gone
  · exact congrArg (fun m => (FMap.get Slot.init m sid).exemptUntil) heq
  · refine (congrArg (fun m => (FMap.get Slot.init m sid).exemptUntil) heq).trans ?_
    by_cases h : sid = j
    · subst h
      exact (congrArg Slot.exemptUntil (State.slot_setSlot_same s sid _) :)
    · exact congrArg Slot.exemptUntil (State.slot_setSlot_ne _ _ h)

/-- A slot that is not removed stays as it is unless it is among those to be removed. -/
theorem slot_setRemoved_kept {s : State} {j sid : Nat} {gone : Bool} (hr : (s.slot sid).removedAt = none)
    (hg : sid = j → gone = false) : (setRemoved s j gone).slot sid = s.slot sid := by
  obtain heq | ⟨r, heq, hgone⟩ := slots_setRemoved s j gone
  · exact congrArg (fun m => FMap.get Slot.init m sid) heq
  · refine (congrArg (fun m => FMap.get Slot.init m sid) heq).trans (State.slot_setSlot_ne _ _ fun h => ?_)
    have htrue := hgone (h ▸ hr)
    rw [hg h] at htrue
    cases htrue

/-- An exempt slot is not among those to be removed (R205). -/
theorem not_removed_of_exempt {s : State} {sid : Nat} (h : (s.slot sid).exemptUntil.isSome = true) (cell k n : Nat) :
    (removedSlots s cell k n).contains sid = false := by
  refine Bool.eq_false_iff.mpr fun hc => ?_
  have hnone := (List.mem_filter.mp (List.mem_of_mem_take (List.contains_iff_mem.mp hc))).2
  rw [Option.isNone_iff_eq_none.mp hnone] at h
  cases h

theorem slot_applyDepth_exempt {s : State} {sid : Nat} (cell : Nat) (hr : (s.slot sid).removedAt = none)
    (he : (s.slot sid).exemptUntil.isSome = true) : (applyDepth s cell).slot sid = s.slot sid := by
  obtain ⟨short, heq⟩ := applyDepth_eq s cell
  rw [heq]
  split
  · rfl
  · refine removalsApplied_keeps (p := fun t => t.slot sid = s.slot sid) (fun u t k n j hu ht => ?_) rfl
    refine (slot_setRemoved_kept (ht ▸ hr) fun h => ?_).trans ht
    exact h ▸ not_removed_of_exempt (hu ▸ he) cell k n

theorem exemptUntil_applyDepth (s : State) (cell sid : Nat) :
    ((applyDepth s cell).slot sid).exemptUntil = (s.slot sid).exemptUntil := by
  obtain ⟨short, heq⟩ := applyDepth_eq s cell
  rw [heq]
  split
  · rfl
  · exact removalsApplied_keeps (p := fun t => (t.slot sid).exemptUntil = (s.slot sid).exemptUntil)
      (fun _ t _ _ j _ ht => (exemptUntil_setRemoved t j sid _).trans ht) rfl

/-! ### A removal that lasts (R205) -/

/-- A slot for which another is free goes to one of another core of the partition. -/
theorem freeTarget_elsewhere {s : State} {p sid target : Nat} (h : freeTarget s p sid = some target) :
    coreOf target ≠ coreOf sid ∧ s.holds p (cellOfSlot target) = true := by
  obtain ⟨c, hc, hfind⟩ := List.exists_of_findSome?_eq_some h
  have hp := List.find?_some hfind
  simp only [Bool.and_eq_true, decide_eq_true_eq] at hp
  obtain ⟨i, hi, rfl⟩ := List.mem_map.mp (List.mem_of_find?_eq_some hfind)
  have hi' := List.mem_range.mp hi
  have hcell : cellOfSlot (64 * c + i) = c := by
    rw [cellOfSlot]
    omega
  exact ⟨hp.1.2, hcell.symm ▸ (List.mem_filter.mp hc).2⟩

section
variable {s : State} {sid : Nat} {w : Word} (hr : (s.slot sid).removedAt = some w)
include hr

/-- While the slot is still being filled, and until its 50 µs are over, its time stays due. -/
theorem removalTimeout_waits (h : (s.slot sid).status = .restoring ∨
      (s.slot sid).status = .live ∧ s.gts.toNat < w.toNat + Config.removalBound) :
    exec (.removalTimeout sid) s = .next (s.dueOnce (.removal sid)) := by
  change execRemovalTimeout sid s = _
  unfold execRemovalTimeout
  obtain hst | ⟨hst, hearly⟩ := h
  · simp [hr, Slot.isLive, hst]
  · simp [hr, Slot.isLive, hst, hearly]

theorem removalTimeout_acts (hst : (s.slot sid).status = .live) (hw : w.toNat + Config.removalBound ≤ s.gts.toNat)
    (hclk : clockStop (s.cell (cellOfSlot sid)) = none) :
    exec (.removalTimeout sid) s = .next (match freeTarget s (s.partN (cellOfSlot sid)) sid with
      | some target => (s.setSlot sid { s.slot sid with status := .moving target true }).pushE (.migrationSend sid)
      | none =>
        if (s.slot sid).save ≠ 0#64 then (s.setSlot sid { s.slot sid with status := .spilling true }).pushE (.puntySpill sid)
        else exempt s sid) := by
  have hlive : (s.slot sid).isLive = true := by
    rw [Slot.isLive, hst]
  change execRemovalTimeout sid s = _
  unfold execRemovalTimeout
  simp only [hr, hlive, hst, hclk, Nat.not_lt.mpr hw]
  cases freeTarget s (s.partN (cellOfSlot sid)) sid with
  | some target => rfl
  | none =>
    by_cases hsave : (s.slot sid).save = 0#64
    · simp [hsave]
    · simp [hsave]

end

/-- A slot that becomes exempt is restored until its exemption ends, whatever its cell's depth. -/
theorem exempt_leaves (s : State) (sid : Nat) :
    (exempt s sid).slot sid = { s.slot sid with removedAt := none, exemptUntil := some (s.gts + wrap64 Config.removalBound) } ∧
      SameBytes s (exempt s sid) := by
  unfold exempt
  extract_lets t
  have hslot : (t.dueOnce (.lapse sid)).slot sid =
      { s.slot sid with removedAt := none, exemptUntil := some (s.gts + wrap64 Config.removalBound) } :=
    (congrArg (fun m => FMap.get Slot.init m sid) (slots_dueOnce t _)).trans (State.slot_setSlot_same ..)
  have hbytes : SameBytes s (t.dueOnce (.lapse sid)) := sameBytes_trans (sameBytes_setSlot s sid _) (sameBytes_dueOnce t _)
  refine ⟨(slot_applyDepth_exempt _ ?_ ?_).trans hslot, sameBytes_trans hbytes (sameBytes_applyDepth _ _)⟩
  · rw [hslot]
  · rw [hslot]
    rfl

theorem exemptionLapse_ends {s : State} {sid : Nat} {w : Word} (he : (s.slot sid).exemptUntil = some w)
    (hw : w.toNat ≤ s.gts.toNat) : exec (.exemptionLapse sid) s =
      .next (applyDepth (s.setSlot sid { s.slot sid with exemptUntil := none }) (cellOfSlot sid)) := by
  change execExemptionLapse sid s = _
  unfold execExemptionLapse
  simp only [he, if_neg (Nat.not_lt.mpr hw)]

/-! ### What the statement says of each -/

/-- The course of a sending: what its last step leaves, read through what the statement's hypotheses fix. -/
theorem migrationSend_sends {s u v : State} {sid target i ms mv : Nat} {b : Bool} (hst : (s.slot sid).status = .moving target b)
    (hu : Unburdened s sid) (hclk : clockStop (s.cell (cellOfSlot sid)) = none) {s0 : State}
    (hs0 : (withdraw s sid).modSlot sid withoutCapture = s0) (hx : s0.slot sid = s.slot sid)
    (ht : s0.slot target = s.slot target) (hhold : canHold s0 target (s.slot sid).ns (s.slot sid).nv = true)
    (helse : puntyElsewhere s0 sid = false) (hready : moveReady s0 sid = true) (hfwd : freeFwd s0 (coreOf sid) = some i)
    (hrec : putRecordState s0 (punty s0 sid (.migrationSend sid)) (s.slot sid) 2 = (false, u)) (hux : u.slot sid = s.slot sid)
    (hmasks : saveMasks (leaveDie u sid target) (punty u sid (.migrationSend sid)) (s.slot sid) (s.slot sid).pc = ((ms, mv), v))
    (hslots : ∀ j, v.slot j = s0.slot j) (hentries : (v.core (coreOf sid)).fwd = (s0.core (coreOf sid)).fwd)
    (hg : isGaffer target = false) :
    ∃ (c : Context) (t : State), exec (.migrationSend sid) s = .next t ∧ c.slot = contextSlot (s.slot sid) ms mv ∧ c.osid = sid ∧
      c.target = target ∧ (t.slot sid).status = .ended .suspended 0#32 ∧ t.slot target = awaiting (s.slot target) c.slot ∧
      c ∈ t.contexts ∧ Due t (.migrationArrival c.id) ∧
      ∃ f, (t.core (coreOf sid)).fwd[i]? = some f ∧ f.oslot = slotIx sid ∧ f.ogen = c.slot.gen ∧ f.target = target ∧
        f.tgen = (s.slot target).gen + 1#8 := by
  have htake : takeDeferred ((withdraw s sid).modSlot sid withoutCapture) sid = s0 := by
    rw [takeDeferred_unburdened hu, ← hs0, stopped_unburdened hu]
  obtain ⟨c, -, hc, rfl, rfl, hsent⟩ := sendContext_eq (i := i) b (hux.symm ▸ hmasks)
  rw [hslots, hx] at hc
  have hne : c.target ≠ c.osid := by
    intro h
    have hempty := canHold_empty hhold
    rw [ht, h, hst] at hempty
    cases hempty
  have hi : i ≤ (v.core (coreOf c.osid)).fwd.length := hentries ▸ freeFwd_le hfwd
  have htarget : v.slot c.target = s.slot c.target := (hslots _).trans ht
  obtain ⟨hold, hnew, hctx, hentry⟩ := sent_leaves v c hne hg hi
  refine ⟨c, _, exec_migrationSend hst hclk htake hx hst hhold helse hready hfwd hrec, hc, rfl, rfl, ?_⟩
  rw [hsent]
  exact ⟨hold, htarget ▸ hnew, hctx, due_pushE _ _, _, hentry, rfl, rfl, rfl, htarget ▸ rfl⟩

/-- Settles O48: the sending, the arrival, the end of a forwarding entry, and each way in which a removal that lasts goes on. -/
theorem migrationsAndRemovals : Obligations.MigrationsAndRemovals := by
  refine ⟨?_, ?_, ?_, ?_, ?_, ?_⟩
  · intro s u v sid target i ms mv b hst hu hclk x s0 hx ht hhold helse hready hfwd hrec hux hmasks hslots hentries hg
    obtain ⟨c, t, hexec, hc, hosid, htarget, hold, hnew, hctx, hdue, f, hf, hslot, hgen, hftarget, htgen⟩ :=
      migrationSend_sends hst hu hclk rfl hx ht hhold helse hready hfwd hrec hux hmasks hslots hentries hg
    have hbeside : besideRegs c.slot = besideRegs x := hc ▸ besideRegs_contextSlot x ms mv
    have hcgen : c.slot.gen = x.gen := (congrArg Slot.gen hbeside :)
    refine ⟨t, hexec, hold, congrArg Slot.status hnew, congrArg Slot.gen hnew,
      ⟨c, hctx, hc, (congrArg Slot.pc hbeside :), fun r hr => hc ▸ scalar_contextSlot x mv hr, hosid, htarget, hdue⟩,
      f, hf, hslot, hgen.trans hcgen, hftarget, htgen⟩
  · intro s u c hfind hfree hfab hclk hrec hslot
    obtain ⟨w, hw, hexec⟩ := exec_migrationArrival hfind hfree hfab hclk hrec
    refine ⟨_, hexec, fun q hq => ?_, ?_⟩
    · have hmem : q ∈ u.contexts.filter (fun q => q.id ≠ c.id) := hw ▸ enrol_contexts (w.setSlot c.target _) c.target ▸ hq
      exact of_decide_eq_true (List.mem_filter.mp hmem).2
    · intro y
      have hy : y = arrivedSlot (s.slot c.target) c.slot :=
        (congrArg (fun m => FMap.get Slot.init m c.target) (enrol_slots ..)).trans (State.slot_setSlot_same ..)
      clear_value y
      subst hy
      exact ⟨rfl, rfl, rfl, rfl, rfl, rfl, rfl, rfl, rfl⟩
  · intro s cell core n fc f hf he hfc
    obtain ⟨hn, -⟩ := List.getElem?_eq_some_iff.mp hf
    exact ⟨_, forwardExpiry_ends hf he hfc, fwd_putFwd s _ _ hn.le, rfl, sameBytes_of_eq rfl rfl rfl⟩
  · intro s sid w hr hst
    refine ⟨fun hearly => ⟨_, removalTimeout_waits hr (.inr ⟨hst, hearly⟩), ?_, sameBytes_dueOnce s _⟩, fun hw hclk => ?_⟩
    · exact congrArg (fun m => FMap.get Slot.init m sid) (slots_dueOnce s _)
    have hexec := removalTimeout_acts hr hst hw hclk
    refine ⟨fun target htarget => ?_, fun hnone hsave => ?_, fun hnone hsave => ?_⟩
    · rw [htarget] at hexec
      obtain ⟨hcore, hholds⟩ := freeTarget_elsewhere htarget
      exact ⟨hcore, hholds, _, hexec, State.slot_setSlot_same .., due_pushE _ _,
        sameBytes_setSlot s sid { s.slot sid with status := .moving target true }⟩
    · rw [hnone] at hexec
      simp only [if_pos hsave] at hexec
      exact ⟨_, hexec, State.slot_setSlot_same .., due_pushE _ _, sameBytes_setSlot s sid { s.slot sid with status := .spilling true }⟩
    · rw [hnone] at hexec
      simp only [if_neg (not_not.mpr hsave)] at hexec
      obtain ⟨hslot, hbytes⟩ := exempt_leaves s sid
      exact ⟨_, hexec, congrArg Slot.removedAt hslot, (congrArg Slot.status hslot).trans hst, congrArg Slot.exemptUntil hslot,
        hbytes⟩
  · intro s sid w hr hst
    exact ⟨_, removalTimeout_waits hr (.inl hst), slots_dueOnce s _, later_dueOnce s _⟩
  · intro s sid w he hw
    refine ⟨_, exemptionLapse_ends he hw, ?_, sameBytes_trans (sameBytes_setSlot s sid _) (sameBytes_applyDepth _ _)⟩
    exact (exemptUntil_applyDepth _ _ sid).trans (congrArg Slot.exemptUntil (State.slot_setSlot_same ..))

end Sys2Proof.Machine
end
